-- ==== Sys2Proof/Word.lean ====
section
/-! DEFINITION. The word types of the DTF-3260: bytes, 32-bit register words, 64-bit registers. -/

namespace Sys2Proof

/-- One byte. -/
abbrev Byte := BitVec 8

/-- One register word (00_scope R16: registers are accessed as aligned 32-bit words). -/
abbrev Word := BitVec 32

/-- One 64-bit register or key part. -/
abbrev DWord := BitVec 64

end Sys2Proof
end

