-- ==== Sys2Proof/Syntax.lean ====
section
/-! DEFINITION. The commands of the DTF-3260: one constructor of `Instr` per row of spec/opcode_table.json, and the
operand types they carry. Identities have the widths of 00_scope R20. -/

namespace Sys2Proof

/-- A tenant, which is also a function: tenant 0 is the PF, tenant n is VF n (R20). -/
abbrev Tenant := Fin 256
/-- A global queue ID (R20). -/
abbrev Qid := Fin 1024
/-- A Plova session, S0 to S5 (R41). -/
abbrev Sid := Fin 6
/-- A cascade port: 0 is U, 1 to 3 are D0 to D2 (R424). -/
abbrev PortNo := Fin 4
/-- A codec engine of one kind, 0 to 3 (R214). -/
abbrev Eng := Fin 4
/-- A recording channel, 0 to 15 (R280). -/
abbrev Chan := Fin 16
/-- A Tank bank (R242). -/
abbrev Bank := Fin 64
/-- A power or reset domain, D0 to D9 (R398). -/
abbrev Domain := Fin 10

/-- The source of a register access (R16, R133): the PF, a VF, a Plova session, the cascade master, or the forwarded lines of a node (R64, R72; log entry 65). -/
inductive Src where
  | pf
  | vf (n : Tenant)
  | sess (n : Sid)
  | master
  | fwd (node : BitVec 16)
  deriving DecidableEq, Repr

/-- Who executes a Plova line: a local session, or a forwarded line named by its origin node and TAG (R64, R447). -/
inductive Who where
  | sess (n : Sid)
  | remote (node : BitVec 16) (tag : BitVec 16)
  deriving DecidableEq, Repr

/-- The line a verb was issued on: who sent it, its tag, and whether it carried a CRC suffix (R51, R52). -/
structure Ln where
  who : Who
  tag : List Char
  crc : Bool
  deriving DecidableEq, Repr

/-- A line terminator (R47). -/
inductive Term where | cr | lf
  deriving DecidableEq, Repr

/-- The editing characters of R53. -/
inductive EditChar where | bs | del | ctrlU | ctrlC
  deriving DecidableEq, Repr

/-- The event filters of R95. -/
inductive EvFilter where | all | err | none
  deriving DecidableEq, Repr

/-- The argument of `LEVEL` (R81, R62): a level, or SERVICE with or without a response. -/
inductive LevelArg where
  | view | operate | challenge
  | response (r : List Char)
  deriving DecidableEq, Repr

/-- What a `PEEK` or `POKE` names (R82): a register, a field of one, an offset, or a name the device does not know. -/
inductive Target where
  | reg (off : Nat) (wide : Bool)
  | field (off lo width : Nat)
  | offset (n : Nat)
  | unknown
  deriving DecidableEq, Repr

/-- A speed step argument (R85): left out, a number, or AUTO. -/
inductive StepArg where | default | step (n : Nat) | auto
  deriving DecidableEq, Repr

/-- The four motor units, in the bit order of R352. -/
inductive MUnit where | supply | takeup | fan | head
  deriving DecidableEq, Repr

/-- The argument of `TRIP CLEAR` (R85). -/
inductive TripArg where | supply | takeup | fan | all
  deriving DecidableEq, Repr

/-- Tenant classes (R205). -/
inductive Cls where | continuous | standard | bulk
  deriving DecidableEq, Repr

/-- The six power states (R398). -/
inductive Pwr where | run | standby | park | doze | sleep | off
  deriving DecidableEq, Repr

/-- The monitored clock domains, at the bit positions of CLK.STAT [7:0] (R38). -/
inductive Clk where | ckp | cke0 | cke1 | ckwc | ckwe | ckm | ckx | cku
  deriving DecidableEq, Repr

/-- Wake sources (R400). -/
inductive Wake where | ign | cart | pcie | eth | xlk | uart | rtc
  deriving DecidableEq, Repr

/-- Key kinds (R91). -/
inductive KeyKind where | hmac | aes
  deriving DecidableEq, Repr

/-- What `KEY ERASE` erases (R91). -/
inductive EraseArg where | hmac | aes | all
  deriving DecidableEq, Repr

/-- How an order reached a unit that both a Plova verb and a PF register write can command. -/
inductive Via where
  | line (ln : Ln)
  | pf (v : Word)
  deriving DecidableEq, Repr

/-- What the load sequence found on the cartridge (R345, R347): the contents of the datasets of number 0xFFFF_FFFF in the two directory zones, each with the C3ON of its row headers, and whether any frame was found in the
zones or at LPW 10,000 of band 1, wrap 0. -/
structure LoadFinding where
  copies : List (List Byte × Bool)
  frames : Bool
  deriving DecidableEq, Repr

/-- One image slot of the boot flash (R102): the 32 bytes of its header, byte 0 the most significant, and the bytes of its image. Machine/Layout.lean reads the
header's fields. -/
structure Slot where
  header : BitVec 256
  image : List Byte
  deriving DecidableEq, Repr

/-- What the cells of a memory word have come to hold by the time of an access (R251, R252): no new bit error, one that SECDED corrects, or more. -/
inductive Ecc where | clean | corr | uncorr
  deriving DecidableEq, Repr

/-- One failed unit of the boot self-test (R105): the test T0 to T7 and the unit it names. T0 adds the failing word of a
bank and T1 the failing row, in `item`. -/
structure TestFail where
  test : Fin 8
  unit : Nat
  item : Nat
  deriving DecidableEq, Repr

/-- The fuse map of R101: serial number, service key, MAC base address, UID, fused spare rows and Scratchpad seeds, and the subsystem IDs of the PF (R129). -/
structure Fuses where
  serial : List Char
  serviceKey : DWord
  macBase : BitVec 48
  uid : DWord
  spares : List (Nat × Nat)
  seeds : List (Nat × Nat)
  ssvid : BitVec 16
  ssid : BitVec 16
  deriving DecidableEq, Repr

/-- A descriptor as QMG fetched it (R164): its 64 bytes, byte 0 the least significant. Machine/Layout.lean reads its fields. -/
structure Desc where
  raw : BitVec 512
  deriving DecidableEq, Repr

/-- The sender of a DRT datagram that came over the cascade link (R452): the head's UID, to which the session is bound, and its node ID. -/
structure LinkPeer where
  uid : DWord
  node : BitVec 16
  deriving DecidableEq, Repr

/-- The addressing and the checks of a DRT datagram as the port delivers it (R142, R154): the port, the sender's MAC, address
and UDP port, whether XC-3 of the port was full as the frame arrived (R32, R137), whether checksum and LENGTH agree, and the header fields; `link` is set for one that
came in a TYPE 0x30 frame (R452), which crosses XC-5 and meets no full FIFO; `vid` is the VLAN ID of a tagged frame (R135). -/
structure DrtHdr where
  xc3Full : Bool
  vid : Option (BitVec 12)
  link : Option LinkPeer
  port : Fin 2
  mac : BitVec 48
  ip : Word
  udp : BitVec 16
  sumOk : Bool
  lenOk : Bool
  magicOk : Bool
  session : BitVec 16
  flags : BitVec 16
  seq : Word
  aux : Word
  deriving DecidableEq, Repr

/-- How an Ethernet frame arrives (R135, R137): the port, whether XC-3 of the port was full, the VLAN ID of a tagged frame, and the sender's MAC address. -/
structure EthIn where
  port : Fin 2
  xc3Full : Bool
  vid : Option (BitVec 12)
  mac : BitVec 48
  deriving DecidableEq, Repr

/-- The OPEN payload of R145. -/
structure DrtOpenP where
  tenant : Tenant
  queue : BitVec 16
  winreq : BitVec 16
  deriving DecidableEq, Repr

/-- The segment of a DATA datagram (R147). -/
structure DrtSeg where
  ridx : Word
  offset : Word
  rlen : Word
  tstamp : DWord
  data : List Byte
  deriving DecidableEq, Repr

/-- A token of the coded stream (R223 to R226); END is implicit at the end of the list. -/
inductive Token where
  | lit (b : Byte)
  | copy (len dist : Nat)
  deriving DecidableEq, Repr

/-- What the match search of an engine chose for a block (R229: the choice belongs to the encoder): the tokens, and the code
lengths of the dynamic table. `shadowOk` says whether the shadow decoder agreed with UCRC (R235); `bad` is the number of a Tank word of the block's records whose
cells have come to hold an uncorrectable pattern (R239); `flushAt` names the piece at whose end a flush ended the block (R232). -/
structure Encode where
  tokens : List Token
  litLens : List Nat
  distLens : List Nat
  shadowOk : Bool
  bad : Option Nat
  flushAt : Option Nat
  deriving DecidableEq, Repr

/-- What PRF found in one frame under verify (R311): sync, header, the longest flagged run, and the error and erasure
counts of codewords A and B. -/
structure Readback where
  sync : Bool
  hdrOk : Bool
  run : Nat
  eA : Nat
  fA : Nat
  eB : Nat
  fB : Nat
  deriving DecidableEq, Repr

/-- The end of a read pass over a dataset (R290, R315): its number, its subsets, and the READs, by queue and slot, that need it. -/
structure PassResult where
  ds : Nat
  nsub : Nat
  reads : List (Qid × Nat)
  deriving DecidableEq, Repr

/-- What one input carried over the window of one frame (R301 to R309), from 64 symbols before the frame's expected start on: the symbol rate of the signal in symbols per second, the decisions of
the Viterbi detector, the peak envelope over 8 symbols in ADC steps (R308), and the ADC samples. -/
structure FrameIn where
  rate : Nat
  bits : List Bool
  env : List Nat
  samples : List Byte
  deriving DecidableEq, Repr

/-- What one servo reader measured in a frame (R325, R326, R328, R337): whether its three bursts were found; of each stripe pair found, the times from the first M stripe to its P and its N stripe; the time from the first M
stripe to that of the next frame, all in ps; and the M-burst stripe polarities (true is reversed). -/
structure ServoRead where
  bursts : Bool
  pairs : List (Nat × Nat)
  period : Nat
  m1 : Bool
  m2 : Bool
  m3 : Bool
  deriving DecidableEq, Repr

/-- Current samples of one axis at a sample instant (R354, R358), in ADC codes, with the electrical angle of that instant (in 1/2^32 turn), the mechanical speed in 2^-16 rad/s as the observer
or, with gates off, the back-EMF gives it, and whether CLE's result came too late. -/
structure AxisSample where
  iu : Int
  iv : Int
  theta : BitVec 32
  w : Int
  late : Bool
  deriving DecidableEq, Repr

/-- How one reel was found in CATCH (R360). -/
inductive Turning where | fwd | rev | still
  deriving DecidableEq, Repr

/-- The result of one known-answer slice, probe or self-test channel. -/
inductive Verdict where | pass | fail
  deriving DecidableEq, Repr

/-- The reasons of XLK.PSTATp.REASON (16_xasen, PSTAT). -/
inductive DownReason where | none | signal | retry | role | sleep | reset | twomaster
  deriving DecidableEq, Repr

/-- A link frame (R429) as the receiver sees it: whether every 8b/10b code was valid and EOF was present (R433), and the bytes between SOF and EOF. Machine/Layout.lean reads
its header and checks its CRC. -/
structure LinkHdr where
  codeOk : Bool
  wire : List Byte
  deriving DecidableEq, Repr

/-- Where a Tank request comes from (R244): six ports, the register window, and the march or dump engine. -/
inductive Req where | hif | eth | codec | fmt | dfm | seq | window | march
  deriving DecidableEq, Repr

/-- How an uncorrectable Tank word concerns the requester's operation (R253): the READ, record, session, block to be encoded, block being expanded (with its dataset and the READs that need it), or nothing it served. -/
inductive ReqCtx where
  | none
  | read (q : Qid) (slot : Nat)
  | record (q : Qid) (seq : Nat)
  | drt (session : Nat)
  | tcp (s : Sid)
  | block (e : Eng)
  | expand (e : Eng) (t : Tenant) (ds : Nat) (reads : List (Qid × Nat))
  | window (src : Src)
  deriving DecidableEq, Repr

/-- The source of an order at the arbiter (R68, R70, R72, R158, R412): a session's with the tag of its line, a forwarded line's with its origin and TAG, the master's with the TAG and OP of its command, a
DRT sender's with the tenant and when its datagram entered XC-3 at which port, and the ignition sequence. -/
inductive OrderSrc where
  | trip (u : MUnit)
  | master (tag : BitVec 16) (op : Byte)
  | pf
  | sess (n : Sid) (tag : List Char)
  | vf (n : Tenant)
  | remote (node tag : BitVec 16)
  | drt (t : Tenant) (at' : Nat) (port : Fin 2)
  | ign
  deriving DecidableEq, Repr

/-- The orders of the ignition sequence (R412): `RECORD STOP`, `UNLOAD`, the entry into PWR.IGN.TARGET, and `RECORD START`. -/
inductive IgnOrder where | recordStop | unload | enter | recordStart
  deriving DecidableEq, Repr

/-- The resources orders declare (R69). -/
inductive Resource where
  | regField (off lo width : Nat)
  | motionLock
  | queue (q : Nat)
  | door (tenant slot : Nat)
  | trip (u : MUnit)
  | power | cart | motion | reset | shares (t : Nat) | serviceSeat
  | binding (q : Nat)
  deriving DecidableEq, Repr

/-- What an order does when it wins. `other` is an order whose effect is its own command's: the tick only decides it. -/
inductive Act where
  | writeReg (off : Nat) (v : Word)
  | writeField (off lo width v : Nat)
  | lockMotion
  | freeMotion
  | queueCreate (t : Tenant) (q : Option Qid) (ring : Option DWord) (sizeLog timeout : Nat)
  | queueDelete (q : Qid)
  | doorbell (t : Tenant) (slot : Fin 64) (tail : BitVec 16)
  | tripLatch (u : MUnit)
  | drtOpen (h : DrtHdr) (p : DrtOpenP)
  | ignOrder (k : IgnOrder)
  | other (writes : List (Resource × Nat)) (needs : List (Resource × Nat))
  deriving DecidableEq, Repr

/-- An order at the arbiter. -/
structure Order where
  src : OrderSrc
  act : Act
  deriving DecidableEq, Repr

/-- LEND operation operands (R460). -/
structure LendP where
  port : PortNo
  handle : Word
  offset : Word
  data : List Byte
  deriving DecidableEq, Repr

/-- What a write of the MSI-X structures touches (R130): the function, its table entry and the word 0 to 3 of the entry; word 4 stands for the
Message Control word of the function's MSI-X capability (DESIGN CHOICE, log entry 12: the table has no other row for it). -/
structure MsixAt where
  fn : Tenant
  entry : Fin 64
  word : Fin 5
  deriving DecidableEq, Repr

/-- The DTF-3260's commands, in the order of spec/opcode_table.json. -/
inductive Instr where
  | registerWrite (src : Src) (off : Nat) (v : Word)
  | rcFieldRead (src : Src) (off : Nat)
  | writeLowHalf (src : Src) (off : Nat) (v : Word)
  | writeHighHalf (src : Src) (off : Nat) (v : Word)
  | readLowHalf (src : Src) (off : Nat)
  | readHighHalf (src : Src) (off : Nat)
  | arbitrationTick (orders : List Order)
  | clockLoss (d : Clk)
  | refClockLoss
  | writeUnderrun (ch : Chan)
  | doorbellWrite (t : Tenant) (slot : Fin 64) (tail : BitVec 16)
  | plovaLine (n : Sid) (term : Term)
  | lineEditCharacter (n : Sid) (c : EditChar)
  | uartBreak (port : Fin 2)
  | tcpConnect (port : Fin 2)
  | tcpClose (n : Sid)
  | tcpIdleTimeout (n : Sid)
  | serviceTimeout (n : Sid)
  | level (ln : Ln) (arg : LevelArg)
  | session (ln : Ln) (echo edit crc : Option Bool) (events : Option EvFilter)
  | sessionQuery (ln : Ln)
  | lockMotion (ln : Ln)
  | freeMotion (ln : Ln)
  | helpQuery (ln : Ln) (verb : Option (List Char))
  | idQuery (ln : Ln)
  | stateQuery (ln : Ln)
  | timeQuery (ln : Ln)
  | errQuery (ln : Ln) (count start : Option Nat)
  | errClear (ln : Ln)
  | errCtlClear (src : Src) (v : Word)
  | contactQuery (ln : Ln)
  | peek (ln : Ln) (target : Target) (count : Option Nat)
  | poke (ln : Ln) (target : Target) (v : Nat)
  | load (ln : Ln) (c3 : Option Bool)
  | loadComplete (found : LoadFinding)
  | unload (ln : Ln)
  | unloadComplete (failed : List Bool)
  | cartQuery (ln : Ln)
  | recordStart (ln : Ln)
  | recordStartComplete
  | recordStop (ln : Ln)
  | recordStopComplete
  | flush (ln : Ln)
  | flushDatasetClose
  | motionStart (ln : Ln) (step : StepArg) (reverse : Bool)
  | motionStop (ln : Ln)
  | speed (ln : Ln) (step : StepArg)
  | locate (ln : Ln) (ds : Nat)
  | locateLpw (ln : Ln) (x : Nat)
  | locateComplete (found : Bool) (ds : Option Nat) (lpw : Nat)
  | locateProbe (dsRead : Nat)
  | motionQuery (ln : Ln)
  | tripQuery (ln : Ln)
  | tripClear (ln : Ln) (units : TripArg)
  | mdrTripclrWrite (src : Src) (v : Word)
  | tenantQuery (ln : Ln) (t : Tenant)
  | tenant (ln : Ln) (t : Tenant) (cls : Option Cls) (weight rate : Option Nat)
  | queueCreate (ln : Ln) (t : Tenant) (q : Option Nat) (ring : Option DWord) (size timeout : Option Nat)
  | queueDelete (ln : Ln) (q : Nat)
  | queueQuery (ln : Ln) (q : Nat)
  | qcmdCreate (src : Src) (q : Qid)
  | qcmdDelete (src : Src) (q : Qid)
  | resetFunction (ln : Ln) (t : Tenant)
  | power (via : Via) (target : Pwr)
  | powerQuery (ln : Ln)
  | resetWarm (ln : Ln) (keepTank : Bool)
  | resetDomain (ln : Ln) (d : Nat)
  | nodeQuery (ln : Ln)
  | census (ln : Ln)
  | censusQuery (ln : Ln)
  | testCodec (ln : Ln)
  | testProof (ln : Ln)
  | testBoot (ln : Ln)
  | testBootComplete (fails : List TestFail) (rate : Nat)
  | testTank (via : Via) (bank : Bank)
  | key (ln : Ln) (kind : KeyKind) (slot : Tenant) (part : Nat) (hex : DWord)
  | keyQuery (ln : Ln) (slot : Tenant)
  | keyErase (ln : Ln) (slot : Tenant) (which : EraseArg)
  | fwupdateStart (ln : Ln) (size : Nat)
  | flashWrite (ln : Ln) (off : Nat) (words : List Word)
  | fwupdateCommit (ln : Ln) (crc : Word)
  | fwupdateCommitComplete
  | fwupdateAbort (ln : Ln)
  | pwrgdRise (master testEn : Bool) (vsel : BitVec 3)
  | pwrgdFall
  | fuseMapLoad (goodAt : Option (Fin 4)) (fuses : Fuses)
  | bootImageLoad (a b : Slot)
  | bootSelfTest (fails : List TestFail) (rate : Nat) (ms : Nat)
  | fixerJournalScan
  | firstPrompt (ms : Nat)
  | warmReset (keepTank : Bool)
  | domainReset (d : Domain)
  | rstctlWarm (src : Src) (v : Word)
  | rstctlDomain (src : Src) (v : Word)
  | perstAssert
  | watchdogExpiry
  | watchdogWrite (src : Src) (v : Word)
  | functionLevelReset (t : Tenant)
  | pfFlr
  | vfEnable (ari : Bool) (numVfs : Nat)
  | vfDisable
  | drtTenantDisable (src : Src) (t : Tenant)
  | drtDisable (src : Src)
  | msixTableWrite (src : Src) (loc : MsixAt) (v : Word)
  | drtOpen (h : DrtHdr) (p : DrtOpenP)
  | drtData (h : DrtHdr) (seg : DrtSeg)
  | drtClose (h : DrtHdr)
  | drtKeepalive (h : DrtHdr)
  | drtAckTimer (session : BitVec 16)
  | drtGapTimer (session : BitVec 16)
  | drtIdleTimeout (session : BitVec 16)
  | arpRequest (e : EthIn) (senderIp targetIp : Word)
  | icmpEcho (e : EthIn) (srcIp dstIp : Word) (data : List Byte)
  | ethLinkChange (port : Fin 2) (mbps : Nat) (fullDuplex up : Bool)
  | gptpSync (port : Fin 2) (offsetNs : Int)
  | gptpSyncTimeout
  | descriptorFetchWrite (q : Qid) (d : Desc)
  | descriptorFetchRead (q : Qid) (d : Desc)
  | descriptorFetchBarrier (q : Qid) (d : Desc)
  | descriptorFetchNop (q : Qid) (d : Desc)
  | descriptorDmaError (q : Qid)
  | recordDmaComplete (q : Qid) (seq : BitVec 48) (data : List Byte)
  | recordDmaError (q : Qid) (seq : BitVec 48)
  | reservationCharge
  | msixCoalesceTimeout (p : Fin 2048)
  | readComplete (q : Qid) (slot : Nat)
  | readTimeout (q : Qid) (slot : Nat)
  | cartReadingIdle
  | notifyHoldoffEnd (session : BitVec 16) (ev : Fin 9)
  | overrateCheck (t : Tenant) (mbps : Nat)
  | tvecWrite (src : Src) (t : Tenant) (v : Word)
  | qvecWrite (src : Src) (q : Qid) (v : Word)
  | tshareWrite (src : Src) (t : Tenant) (v : Word)
  | gcapWrite (src : Src) (v : Word)
  | schFeed (t : Tenant)
  | bulkStarve (t : Tenant)
  | blockEncodeComplete (e : Eng) (enc : Encode)
  | blockPlace
  | rdcEngineEnableWrite (src : Src) (v : Word)
  | enlEngineEnableWrite (src : Src) (v : Word)
  | blockExpand (e : Eng) (block : List Byte) (extentTenant : Tenant) (room ds : Nat) (reads : List (Qid × Nat))
  | codecTestPeriod
  | codecTestSlice (enl : Bool) (e : Eng) (v : Verdict)
  | codecTestWaitExpiry (enl : Bool)
  | tankRead (r : Req) (ctx : ReqCtx) (addr : BitVec 25) (fill : Nat) (ecc : Ecc)
  | tankPartialWrite (r : Req) (ctx : ReqCtx) (addr : BitVec 25) (data : BitVec 128) (enables : BitVec 16) (fill : Nat) (ecc : Ecc)
  | tankAtomicAdd (r : Req) (ctx : ReqCtx) (addr : BitVec 25) (wide : Bool) (operand : DWord) (fill : Nat) (ecc : Ecc)
  | tankAtomicSwap (r : Req) (ctx : ReqCtx) (addr : BitVec 25) (wide : Bool) (operand : DWord) (fill : Nat) (ecc : Ecc)
  | requestAgeExpiry (b : Bank) (write : Bool) (r : Req)
  | tankWindowAccess (src : Src) (write : Bool) (part : Fin 4) (v : Word) (ecc : Ecc)
  | marchBurst (badRows : List Nat)
  | scratchpadFetchError (seqr : Fin 4) (addr : BitVec 18) (fetch : Bool) (ecc : Ecc)
  | scratchpadReloadDone
  | spdRemapAdd (src : Src) (v : Word)
  | datasetClose
  | datasetStreamStart
  | frameWrite (ch : Chan)
  | frameVerdict (ch : Chan) (slot : Nat)
  | datasetDecode (pass : PassResult)
  | frameRead (input : Fin 36) (f : FrameIn)
  | lossOfLock (input : Fin 36) (sym : Nat)
  | readRetry
  | loupeArm (src : Src) (v : Word)
  | loupeFire (src : Src) (v : Word)
  | loupeCaptureEnd
  | proofCheckpoint (ch : Chan) (results : List (Nat × Readback))
  | servoFrame (a0 a1 b0 b1 : ServoRead) (stamp : DWord)
  | servoLostTimeout
  | lpwokStopTimeout
  | turnaround
  | speedEvaluation
  | gapTimeout
  | backhitchResume
  | packBurstStart
  | carrierPeriod (axes : List AxisSample) (coil : Int) (vbus : Nat)
  | catchEnd (fan : Bool) (rpmA rpmB : Int) (offsets : List (Nat × Nat))
  | alignEnd (fan : Bool)
  | observerHandover (u : MUnit)
  | startFail (u : MUnit)
  | motionStartComplete
  | controlledStopEnd
  | tripInput (u : MUnit) (widthNs : Option Nat) (inBlanking : Bool)
  | overcurrent (u : MUnit)
  | blankingEnd (u : MUnit)
  | followEnd (u : MUnit)
  | fanCurveEval (die ext : Int)
  | fanStall
  | fanRestart (turning : Turning)
  | currentLoop (a : Fin 3)
  | coilLoop
  | latLoop
  | reelSpeedLoop
  | tensionLoop
  | fanLoop
  | loopBankRequest (src : Src) (n : Fin 9) (v : Word)
  | loopModeWrite (src : Src) (n : Fin 9) (v : Word)
  | coefficientWrite (src : Src) (bankB : Bool) (n : Fin 9) (slot : Fin 32) (shiftWord : Bool) (v : Word)
  | rcClear (src : Src) (v : Word)
  | radiusWrite (src : Src) (v : Word)
  | accelTransaction (bytes : List Byte)
  | quiesceComplete (d : Domain)
  | wakeEvent (w : Wake)
  | saveListAccess (src : Src) (write : Bool) (v : Word)
  | ignitionChange (high : Bool)
  | ignitionHoldExpiry
  | ignitionDrainTimeout
  | holdupOkChange (high : Bool)
  | pfailAssert (widthNs : Nat)
  | dumpComplete (centiMs : Nat)
  | cartInsert (id : List Char) (writeProtect blank c3 : Bool)
  | cartRemove
  | portTrained (p : PortNo) (peerRole : PortNo) (peerMaster : Bool)
  | trainingBurst (p : PortNo)
  | linkFrameReceived (p : PortNo) (h : LinkHdr)
  | linkRetry (p : PortNo)
  | linkIdleSend (p : PortNo)
  | portDown (p : PortNo) (reason : DownReason)
  | censusAutoStart
  | creqReceived (nextId : BitVec 32) (sweep : BitVec 16) (depth : Byte) (path : Word)
  | crspReceived (p : PortNo) (count brkNode : Word) (brkPort : Byte) (brk limit longhop : Bool) (uid : DWord)
  | probeExchange (p : PortNo) (rounds : List (Nat × Nat))
  | commitReceived (sweep : BitVec 16)
  | timeFrameSend
  | timeFrameReceived (p : PortNo) (t : DWord) (corr count residence : Word)
  | cmdPlova (src tag : BitVec 16) (level : Fin 3) (text : List Char)
  | cmdReset (src tag : BitVec 16) (kind : Byte) (dom : Byte)
  | cmdPower (src tag : BitVec 16) (state : Byte)
  | cmdWake (src tag : BitVec 16) (mask : Byte)
  | cmdPoke (src tag : BitVec 16) (off v : Word)
  | cmdPeek (src tag : BitVec 16) (off : Word)
  | rspReceived (tag : BitVec 16) (op result : Byte) (status : BitVec 16) (more done : Bool) (reply : List Byte)
  | ctmoExpiry (tag : BitVec 16)
  | evtReceived (node : BitVec 16) (kind port reason : Byte)
  | xlkWakeWrite (src : Src) (v : Word)
  | stripeGroupEnable (src : Src) (g : Fin 4) (v : Word)
  | stripeRowClose (g : Fin 4)
  | stripeRetransmit (g : Fin 4) (member : Nat) (seq : Word)
  | lendAlloc (p : LendP)
  | lendGrant (p : LendP)
  | lendPut (p : LendP)
  | lendGet (p : LendP)
  | lendData (p : LendP)
  | lendFree (p : LendP)
  | recordSpill
  | recordRecall
  | characterReceived (n : Sid) (c : Char)
  | referenceClockReturn
  | supplyMonitorReset (below : Bool)
  | perstDeassert
  | parkOrderedSet (p : PortNo)
  | brakeToStandstill (u : MUnit)
  | unsupportedFrame (port : Fin 2) (xc3Full : Bool)
  deriving DecidableEq, Repr

end Sys2Proof
end

