-- ==== Sys2Proof/Machine/RegMap.lean ====
section
/-! DEFINITION. The register map of the PF BAR0 (00_scope R11 to R20): one row per register table of the spec, with its offset,
its fields, their access codes (R13), their reset values, and the range rule of each field ("stored as"). `R.<BLOCK>_<REGISTER>` is a
register's offset and `F.<BLOCK>_<REGISTER>_<FIELD>` the place of one of its fields. -/

namespace Sys2Proof.Machine

/-- Access codes (R13). WL stands for no field of this edition's tables. -/
inductive Acc where | rw | ro | w1c | wo | rc
  deriving DecidableEq, Repr

/-- A reset value: the same for every entry of an array, a multiple of the entry's number, or given entry by entry. -/
inductive Rst where
  | const (n : Nat)
  | lin (k : Nat)
  | table (l : List Nat)
  deriving DecidableEq, Repr

/-- How a written field value is stored: as written; clamped or replaced outside lo to hi; replaced by the reset value outside
lo to hi; or the signed temperature range of MDR.FANPT. -/
inductive Rng where
  | any
  | range (lo hi below above : Nat)
  | resetIfOut (lo hi : Nat)
  | temperature
  deriving DecidableEq, Repr

/-- One field of a register table; `lo` counts from bit 0 of the register, which may be 64 bits wide. -/
structure FieldDef where
  name : String
  lo : Nat
  width : Nat
  acc : Acc
  rst : Rst
  rng : Rng
  deriving DecidableEq, Repr

/-- One register table: `count` registers of one shape, `stride` bytes apart. -/
structure RegDef where
  name : String
  base : Nat
  stride : Nat
  count : Nat
  wide : Bool
  fields : List FieldDef
  deriving DecidableEq, Repr

/-- The place of a field inside one 32-bit word. -/
structure Fld where
  off : Nat
  lo : Nat
  width : Nat
  deriving DecidableEq, Repr

namespace R

/-- GLB.ID: Device identification (00). -/
def GLB_ID : Nat := 0x0
/-- CLK.STAT: Clock status (01). -/
def CLK_STAT : Nat := 0x140000
/-- CLK.LOSS: Clock loss record (01). -/
def CLK_LOSS : Nat := 0x140004
/-- PCL.UCFG0: UART0 configuration (02). -/
def PCL_UCFG0 : Nat := 0x70000
/-- PCL.UCFG1: UART1 configuration (02). -/
def PCL_UCFG1 : Nat := 0x70004
/-- PCL.TCPCFG: TCP session configuration (02). -/
def PCL_TCPCFG : Nat := 0x70010
/-- PCL.SSTAT: Session status (02). -/
def PCL_SSTAT (i : Nat) : Nat := 0x70020 + 4 * i
/-- PCL.ARB: Arbitration counters (02). -/
def PCL_ARB : Nat := 0x70040
/-- GLB.RSTCTL: Reset control (04). -/
def GLB_RSTCTL : Nat := 0x10
/-- GLB.WDOG: Sequencer watchdog (04). -/
def GLB_WDOG : Nat := 0x14
/-- GLB.RSTCAUSE: Reset cause (04). -/
def GLB_RSTCAUSE : Nat := 0x18
/-- GLB.BOOTTIME: Boot timing (04). -/
def GLB_BOOTTIME : Nat := 0x1c
/-- HIF.STAT: Host interface status (05). -/
def HIF_STAT : Nat := 0x10000
/-- HIF.CNT: Host interface counters (05). -/
def HIF_CNT : Nat := 0x10004
/-- ETH.PCFG0: Port 0 configuration (05). -/
def ETH_PCFG0 : Nat := 0x60000
/-- ETH.PCFG1: Port 1 configuration (05). -/
def ETH_PCFG1 : Nat := 0x60004
/-- ETH.PSTAT: Port status (05). -/
def ETH_PSTAT : Nat := 0x60054
/-- ETH.IP0: Port 0 IPv4 address (05). -/
def ETH_IP0 : Nat := 0x60008
/-- ETH.IP1: Port 1 IPv4 address (05). -/
def ETH_IP1 : Nat := 0x6000c
/-- ETH.MAC0: Port 0 MAC address (05). -/
def ETH_MAC0 : Nat := 0x60010
/-- ETH.MAC1: Port 1 MAC address (05). -/
def ETH_MAC1 : Nat := 0x60018
/-- ETH.TCFG: Time configuration (05). -/
def ETH_TCFG : Nat := 0x60060
/-- ETH.TSTAT: Time status (05). -/
def ETH_TSTAT : Nat := 0x60064
/-- ETH.TOFS: Time offset (05). -/
def ETH_TOFS : Nat := 0x60068
/-- ETH.TIME: Timebase (05). -/
def ETH_TIME : Nat := 0x60070
/-- ETH.DRTCFG: DRT configuration (05). -/
def ETH_DRTCFG : Nat := 0x60020
/-- ETH.DRTIDLE: DRT idle time (05). -/
def ETH_DRTIDLE : Nat := 0x60024
/-- ETH.DRTTEN: DRT tenant enables (05). -/
def ETH_DRTTEN (i : Nat) : Nat := 0x60030 + 4 * i
/-- ETH.DROP: Receive drop counters (05). -/
def ETH_DROP : Nat := 0x60050
/-- QMG.QRING: Queue ring address (06). -/
def QMG_QRING (i : Nat) : Nat := 0x20000 + 32 * i
/-- QMG.QCFG: Queue configuration (06). -/
def QMG_QCFG (i : Nat) : Nat := 0x20008 + 32 * i
/-- QMG.QCMD: Queue command (06). -/
def QMG_QCMD (i : Nat) : Nat := 0x2000c + 32 * i
/-- QMG.QRES: Queue command result (06). -/
def QMG_QRES (i : Nat) : Nat := 0x20010 + 32 * i
/-- QMG.QLVL0: Queue level counts (06). -/
def QMG_QLVL0 (i : Nat) : Nat := 0x20014 + 32 * i
/-- QMG.QLVL1: Queue held count (06). -/
def QMG_QLVL1 (i : Nat) : Nat := 0x20018 + 32 * i
/-- QMG.FRES: Fixer reservation in use (06). -/
def QMG_FRES : Nat := 0x28000
/-- QMG.FCAP: Reservation record cap (06). -/
def QMG_FCAP : Nat := 0x28004
/-- QMG.STAT: Queue manager status (06). -/
def QMG_STAT : Nat := 0x28008
/-- QMG.TQUOTA: Tenant queue quotas (06). -/
def QMG_TQUOTA (i : Nat) : Nat := 0x28100 + 4 * i
/-- SCH.CFG: Scheduler configuration (07). -/
def SCH_CFG : Nat := 0x40000
/-- SCH.GCAP: Guaranteed-rate cap (07). -/
def SCH_GCAP : Nat := 0x40004
/-- SCH.TRSV: Tank reserve (07). -/
def SCH_TRSV : Nat := 0x40008
/-- SCH.TSHARE: Tenant shares (07). -/
def SCH_TSHARE (i : Nat) : Nat := 0x40100 + 4 * i
/-- SCH.TBAL: Tenant balance (07). -/
def SCH_TBAL (i : Nat) : Nat := 0x40500 + 4 * i
/-- INT.PFEVT: PF event vector (07). -/
def INT_PFEVT : Nat := 0x50000
/-- INT.PFCAUSE: PF event causes (07). -/
def INT_PFCAUSE : Nat := 0x50004
/-- INT.STAT: Vector pool status (07). -/
def INT_STAT : Nat := 0x50008
/-- INT.TVEC: Tenant vector range (07). -/
def INT_TVEC (i : Nat) : Nat := 0x50400 + 4 * i
/-- INT.VCOAL: Pool entry coalescing (07). -/
def INT_VCOAL (i : Nat) : Nat := 0x51000 + 4 * i
/-- INT.QVEC: Queue vector (07). -/
def INT_QVEC (i : Nat) : Nat := 0x53000 + 4 * i
/-- INT.DNOTE: DRT notify enables (07). -/
def INT_DNOTE (i : Nat) : Nat := 0x54000 + 4 * i
/-- RDC.CFG: Reducer configuration (08). -/
def RDC_CFG : Nat := 0x80000
/-- RDC.STAT: Reducer status (08). -/
def RDC_STAT : Nat := 0x80004
/-- RDC.TMODE: Tenant modes (08). -/
def RDC_TMODE (i : Nat) : Nat := 0x80010 + 4 * i
/-- RDC.ECNT: Reducer engine counters (08). -/
def RDC_ECNT (i : Nat) : Nat := 0x80050 + 4 * i
/-- RDC.UBYTES: Uncompressed bytes (08). -/
def RDC_UBYTES : Nat := 0x80060
/-- RDC.CBYTES: Block bytes (08). -/
def RDC_CBYTES : Nat := 0x80068
/-- RDC.STEST: Codec self-test control (08). -/
def RDC_STEST : Nat := 0x80070
/-- RDC.STRES: Codec self-test result (08). -/
def RDC_STRES : Nat := 0x80074
/-- ENL.CFG: Enlarger configuration (08). -/
def ENL_CFG : Nat := 0x88000
/-- ENL.STAT: Enlarger status (08). -/
def ENL_STAT : Nat := 0x88004
/-- ENL.ECNT: Enlarger engine counters (08). -/
def ENL_ECNT (i : Nat) : Nat := 0x88010 + 4 * i
/-- ENL.LASTERR: Last decode error (08). -/
def ENL_LASTERR : Nat := 0x88020
/-- TNK.STAT: Tank status (09). -/
def TNK_STAT : Nat := 0x90000
/-- TNK.FENCE: Fenced banks (09). -/
def TNK_FENCE : Nat := 0x90008
/-- TNK.ELOG: Tank error log (09). -/
def TNK_ELOG : Nat := 0x90010
/-- TNK.WADDR: Tank window address (09). -/
def TNK_WADDR : Nat := 0x90020
/-- TNK.WDATA: Tank window data (09). -/
def TNK_WDATA (i : Nat) : Nat := 0x90024 + 4 * i
/-- TNK.CTRL: Tank control (09). -/
def TNK_CTRL : Nat := 0x90040
/-- TNK.TEST: Tank march test (09). -/
def TNK_TEST : Nat := 0x90044
/-- TNK.TRES: Tank march result (09). -/
def TNK_TRES : Nat := 0x90048
/-- TNK.ECNT: Tank bank counters (09). -/
def TNK_ECNT (i : Nat) : Nat := 0x90100 + 4 * i
/-- SPD.STAT: Scratchpad remap status (09). -/
def SPD_STAT : Nat := 0xa0000
/-- SPD.ECNT: Scratchpad error counters (09). -/
def SPD_ECNT : Nat := 0xa0004
/-- SPD.ELOG: Scratchpad error log (09). -/
def SPD_ELOG : Nat := 0xa0008
/-- SPD.RMADD: Scratchpad remap add (09). -/
def SPD_RMADD : Nat := 0xa000c
/-- SPD.RMAP: Scratchpad remap entries (09). -/
def SPD_RMAP (i : Nat) : Nat := 0xa0040 + 4 * i
/-- FIX.STAT: Fixer status (09). -/
def FIX_STAT : Nat := 0xb0000
/-- FIX.RLIM: Fixer charge limit (09). -/
def FIX_RLIM : Nat := 0xb0004
/-- FIX.ECNT: Fixer error counters (09). -/
def FIX_ECNT : Nat := 0xb0008
/-- FIX.DUMPS: Dump count (09). -/
def FIX_DUMPS : Nat := 0xb000c
/-- FIX.WEAR: Fixer wear (09). -/
def FIX_WEAR : Nat := 0xb0010
/-- FMT.CFG: Formatter configuration (10). -/
def FMT_CFG : Nat := 0xc0000
/-- FMT.STAT: Formatter status (10). -/
def FMT_STAT : Nat := 0xc0004
/-- FMT.DS: Dataset being written (10). -/
def FMT_DS : Nat := 0xc0008
/-- FMT.CNT: Formatter counters (10). -/
def FMT_CNT : Nat := 0xc000c
/-- DFM.CNT0: Deformatter row counters (10). -/
def DFM_CNT0 : Nat := 0xc0100
/-- DFM.CNT1: Deformatter dataset counters (10). -/
def DFM_CNT1 : Nat := 0xc0104
/-- SEC.CFG: Seal configuration (10). -/
def SEC_CFG : Nat := 0xc0200
/-- SEC.CSEL: Chain select (10). -/
def SEC_CSEL : Nat := 0xc0204
/-- SEC.CLINK: Chain link (10). -/
def SEC_CLINK : Nat := 0xc0208
/-- SEC.CDS: Chain dataset (10). -/
def SEC_CDS : Nat := 0xc020c
/-- SEC.CMAC: Chain MAC (10). -/
def SEC_CMAC (i : Nat) : Nat := 0xc0210 + 4 * i
/-- SEC.CNT: Seal counters (10). -/
def SEC_CNT : Nat := 0xc0230
/-- RCH.CFG: Read channel configuration (11). -/
def RCH_CFG : Nat := 0xd0000
/-- RCH.ZCFG0: Zone C settings (11). -/
def RCH_ZCFG0 : Nat := 0xd0004
/-- RCH.ZCFG1: Zone E settings (11). -/
def RCH_ZCFG1 : Nat := 0xd0008
/-- RCH.DEF: Defect detection (11). -/
def RCH_DEF : Nat := 0xd000c
/-- RCH.RETRY: Read retry ladder (11). -/
def RCH_RETRY : Nat := 0xd0010
/-- RCH.LPCFG: Loupe configuration (11). -/
def RCH_LPCFG : Nat := 0xd0020
/-- RCH.LPSTAT: Loupe status (11). -/
def RCH_LPSTAT : Nat := 0xd0024
/-- RCH.LPADDR: Loupe address (11). -/
def RCH_LPADDR : Nat := 0xd0028
/-- RCH.LPDATA: Loupe data (11). -/
def RCH_LPDATA : Nat := 0xd002c
/-- RCH.ISTAT: Input status (11). -/
def RCH_ISTAT (i : Nat) : Nat := 0xd0100 + 4 * i
/-- RCH.ICNT: Input counters (11). -/
def RCH_ICNT (i : Nat) : Nat := 0xd0200 + 4 * i
/-- PRF.CFG: Proof configuration (11). -/
def PRF_CFG : Nat := 0xd8000
/-- PRF.STAT: Proof status (11). -/
def PRF_STAT : Nat := 0xd8004
/-- PRF.VCNT: Verify counters (11). -/
def PRF_VCNT (i : Nat) : Nat := 0xd8010 + 4 * i
/-- PRF.TRES: Proof self-test result (11). -/
def PRF_TRES : Nat := 0xd8050
/-- SRV.CFG: Servo configuration (12). -/
def SRV_CFG : Nat := 0xe0000
/-- SRV.STAT: Servo status (12). -/
def SRV_STAT : Nat := 0xe0004
/-- SRV.LPW: Longitudinal position (12). -/
def SRV_LPW : Nat := 0xe0008
/-- SRV.LPE: Lateral position error (12). -/
def SRV_LPE : Nat := 0xe000c
/-- SRV.SPD: Speed control (12). -/
def SRV_SPD : Nat := 0xe0010
/-- SRV.MATCH: Speed matching (12). -/
def SRV_MATCH : Nat := 0xe0014
/-- SRV.PACK: Pack mode (12). -/
def SRV_PACK : Nat := 0xe0018
/-- SRV.CNT: Servo counters (12). -/
def SRV_CNT : Nat := 0xe0020
/-- MDR.ACFG: Axis configuration (13). -/
def MDR_ACFG (i : Nat) : Nat := 0xf0000 + 256 * i
/-- MDR.ARATE: Axis ratings (13). -/
def MDR_ARATE (i : Nat) : Nat := 0xf0004 + 256 * i
/-- MDR.ASTAT: Axis status (13). -/
def MDR_ASTAT (i : Nat) : Nat := 0xf0008 + 256 * i
/-- MDR.AIOFS: Current offsets (13). -/
def MDR_AIOFS (i : Nat) : Nat := 0xf000c + 256 * i
/-- MDR.ACNT: Axis counters (13). -/
def MDR_ACNT (i : Nat) : Nat := 0xf0010 + 256 * i
/-- MDR.ASTART: Start settings (13). -/
def MDR_ASTART (i : Nat) : Nat := 0xf0014 + 256 * i
/-- MDR.HCFG: Head bridge configuration (13). -/
def MDR_HCFG : Nat := 0xf0300
/-- MDR.HSCALE: Head current scale (13). -/
def MDR_HSCALE : Nat := 0xf0304
/-- MDR.TRIP: Trip status (13). -/
def MDR_TRIP : Nat := 0xf0800
/-- MDR.TRIPCLR: Trip clear (13). -/
def MDR_TRIPCLR : Nat := 0xf0804
/-- MDR.FANCFG: Fan configuration (13). -/
def MDR_FANCFG : Nat := 0xf0810
/-- MDR.MEAS: Measurements (13). -/
def MDR_MEAS : Nat := 0xf0818
/-- MDR.FANPT: Fan curve (13). -/
def MDR_FANPT (i : Nat) : Nat := 0xf0820 + 4 * i
/-- CLE.STAT: Engine status (14). -/
def CLE_STAT : Nat := 0x100000
/-- CLE.TSET: Tension setpoint (14). -/
def CLE_TSET : Nat := 0x100004
/-- CLE.TENS: Tension estimate (14). -/
def CLE_TENS : Nat := 0x100008
/-- CLE.RADIUS: Pack radii (14). -/
def CLE_RADIUS : Nat := 0x10000c
/-- CLE.ACFG: Accelerometer configuration (14). -/
def CLE_ACFG : Nat := 0x100010
/-- CLE.ACCST: Accelerometer status (14). -/
def CLE_ACCST : Nat := 0x100014
/-- CLE.ACCXY: Last X and Y (14). -/
def CLE_ACCXY : Nat := 0x100018
/-- CLE.ACCZ: Last Z (14). -/
def CLE_ACCZ : Nat := 0x10001c
/-- CLE.RCCTL: Repetitive control (14). -/
def CLE_RCCTL : Nat := 0x100020
/-- CLE.RCPEAK: Repetitive peaks (14). -/
def CLE_RCPEAK : Nat := 0x100024
/-- CLE.LCTL: Loop control (14). -/
def CLE_LCTL (i : Nat) : Nat := 0x100100 + 32 * i
/-- CLE.LSTAT: Loop status (14). -/
def CLE_LSTAT (i : Nat) : Nat := 0x100104 + 32 * i
/-- CLE.LMAN: Manual output (14). -/
def CLE_LMAN (i : Nat) : Nat := 0x100108 + 32 * i
/-- CLE.LERR: Last error, output, integrator (14). -/
def CLE_LERR (i : Nat) : Nat := 0x10010c + 32 * i
/-- CLE.LOUT: Last error, output, integrator (14). -/
def CLE_LOUT (i : Nat) : Nat := 0x100110 + 32 * i
/-- CLE.LINT: Last error, output, integrator (14). -/
def CLE_LINT (i : Nat) : Nat := 0x100114 + 32 * i
/-- CLE.ODET: Oscillation detector (14). -/
def CLE_ODET (i : Nat) : Nat := 0x100118 + 32 * i
/-- CLE.COEFA_V: coefficient value (14). -/
def CLE_COEFA_V (i : Nat) : Nat := 0x104000 + 8 * i
/-- CLE.COEFA_S: coefficient shift (14). -/
def CLE_COEFA_S (i : Nat) : Nat := 0x104004 + 8 * i
/-- CLE.COEFB_V: coefficient value (14). -/
def CLE_COEFB_V (i : Nat) : Nat := 0x105000 + 8 * i
/-- CLE.COEFB_S: coefficient shift (14). -/
def CLE_COEFB_S (i : Nat) : Nat := 0x105004 + 8 * i
/-- CLE.COEFROM_V: coefficient value (14). -/
def CLE_COEFROM_V (i : Nat) : Nat := 0x106000 + 8 * i
/-- CLE.COEFROM_S: coefficient shift (14). -/
def CLE_COEFROM_S (i : Nat) : Nat := 0x106004 + 8 * i
/-- PWR.CTL: Power request (15). -/
def PWR_CTL : Nat := 0x110000
/-- PWR.STAT: Power status (15). -/
def PWR_STAT : Nat := 0x110004
/-- PWR.WAKEEN: Wake enables (15). -/
def PWR_WAKEEN : Nat := 0x110008
/-- PWR.WSTAT: Wake status (15). -/
def PWR_WSTAT : Nat := 0x11000c
/-- PWR.IGN: Ignition (15). -/
def PWR_IGN : Nat := 0x110010
/-- PWR.PFCFG: Power-fail configuration (15). -/
def PWR_PFCFG : Nat := 0x110014
/-- PWR.PFSTAT: Power-fail status (15). -/
def PWR_PFSTAT : Nat := 0x110018
/-- PWR.SLADDR: Save list address (15). -/
def PWR_SLADDR : Nat := 0x110020
/-- PWR.SLDATA: Save list data (15). -/
def PWR_SLDATA : Nat := 0x110024
/-- AON.RTCSEC: Real-time clock (15). -/
def AON_RTCSEC : Nat := 0x118000
/-- AON.RTCALM: RTC alarm (15). -/
def AON_RTCALM : Nat := 0x118004
/-- XLK.CFG: Xasen configuration (16). -/
def XLK_CFG : Nat := 0x120000
/-- XLK.STAT: Node status (16). -/
def XLK_STAT : Nat := 0x120004
/-- XLK.PSTAT: Port status, U, D0, D1, D2 (16). -/
def XLK_PSTAT (i : Nat) : Nat := 0x120010 + 4 * i
/-- XLK.PCNT: Port counters (16). -/
def XLK_PCNT (i : Nat) : Nat := 0x120020 + 4 * i
/-- XLK.RANGE: Subtree ranges of D0 to D2 (16). -/
def XLK_RANGE (i : Nat) : Nat := 0x120030 + 4 * i
/-- XLK.CENS: Census counts, master (16). -/
def XLK_CENS : Nat := 0x120040
/-- XLK.CTIME: Last sweep, master (16). -/
def XLK_CTIME : Nat := 0x120048
/-- XLK.CTADDR: Census table address (16). -/
def XLK_CTADDR : Nat := 0x120050
/-- XLK.CTDATA: Census table entry (16). -/
def XLK_CTDATA (i : Nat) : Nat := 0x120054 + 4 * i
/-- XLK.CCMD: Cascade command (16). -/
def XLK_CCMD : Nat := 0x120070
/-- XLK.CARG: Command arguments (16). -/
def XLK_CARG (i : Nat) : Nat := 0x120074 + 4 * i
/-- XLK.CRES: Command result (16). -/
def XLK_CRES : Nat := 0x12007c
/-- XLK.CRDATA: Command reply data (16). -/
def XLK_CRDATA : Nat := 0x120080
/-- XLK.WAKE: Wake send (16). -/
def XLK_WAKE : Nat := 0x120084
/-- XLK.LEND: Lending (16). -/
def XLK_LEND : Nat := 0x120090
/-- XLK.BORROW: Borrowing (16). -/
def XLK_BORROW : Nat := 0x120094
/-- XLK.SGCFG: Stripe group (16). -/
def XLK_SGCFG (i : Nat) : Nat := 0x120100 + 128 * i
/-- XLK.SGMEM0: Stripe members (16). -/
def XLK_SGMEM0 (i : Nat) : Nat := 0x120104 + 4 * i
/-- XLK.SGMEM1: Stripe members (16). -/
def XLK_SGMEM1 (i : Nat) : Nat := 0x120184 + 4 * i
/-- XLK.SGMEM2: Stripe members (16). -/
def XLK_SGMEM2 (i : Nat) : Nat := 0x120204 + 4 * i
/-- XLK.SGMEM3: Stripe members (16). -/
def XLK_SGMEM3 (i : Nat) : Nat := 0x120284 + 4 * i
/-- ERR.STAT: Log status (17). -/
def ERR_STAT : Nat := 0x130000
/-- ERR.LASTSEQ: Newest record (17). -/
def ERR_LASTSEQ : Nat := 0x130004
/-- ERR.FIRSTSEQ: Oldest record (17). -/
def ERR_FIRSTSEQ : Nat := 0x130008
/-- ERR.CTL: Log control (17). -/
def ERR_CTL : Nat := 0x13000c
/-- ERR.RSEL: Record select (17). -/
def ERR_RSEL : Nat := 0x130010
/-- ERR.RSTAT: Record select status (17). -/
def ERR_RSTAT : Nat := 0x130014
/-- ERR.RDATA: Record data (17). -/
def ERR_RDATA (i : Nat) : Nat := 0x130040 + 4 * i
/-- GLB.STRAP: Strap and bank status (18). -/
def GLB_STRAP : Nat := 0x20

end R

namespace F

def GLB_ID_PART : Fld := ⟨0x0, 16, 16⟩
def GLB_ID_STEP : Fld := ⟨0x0, 8, 8⟩
def GLB_ID_REV : Fld := ⟨0x0, 0, 8⟩
def CLK_STAT_CKA_RUN : Fld := ⟨0x140000, 8, 1⟩
def CLK_STAT_CKU_LOCK : Fld := ⟨0x140000, 7, 1⟩
def CLK_STAT_CKX_LOCK : Fld := ⟨0x140000, 6, 1⟩
def CLK_STAT_CKM_LOCK : Fld := ⟨0x140000, 5, 1⟩
def CLK_STAT_CKWE_LOCK : Fld := ⟨0x140000, 4, 1⟩
def CLK_STAT_CKWC_LOCK : Fld := ⟨0x140000, 3, 1⟩
def CLK_STAT_CKE1_LOCK : Fld := ⟨0x140000, 2, 1⟩
def CLK_STAT_CKE0_LOCK : Fld := ⟨0x140000, 1, 1⟩
def CLK_STAT_CKP_LOCK : Fld := ⟨0x140000, 0, 1⟩
def CLK_LOSS_LOST : Fld := ⟨0x140004, 0, 8⟩
def PCL_UCFG0_FLOW : Fld := ⟨0x70000, 18, 1⟩
def PCL_UCFG0_EDIT : Fld := ⟨0x70000, 17, 1⟩
def PCL_UCFG0_ECHO : Fld := ⟨0x70000, 16, 1⟩
def PCL_UCFG0_DIV : Fld := ⟨0x70000, 0, 16⟩
def PCL_UCFG1_FLOW : Fld := ⟨0x70004, 18, 1⟩
def PCL_UCFG1_EDIT : Fld := ⟨0x70004, 17, 1⟩
def PCL_UCFG1_ECHO : Fld := ⟨0x70004, 16, 1⟩
def PCL_UCFG1_DIV : Fld := ⟨0x70004, 0, 16⟩
def PCL_TCPCFG_EN : Fld := ⟨0x70010, 31, 1⟩
def PCL_TCPCFG_OPOK : Fld := ⟨0x70010, 30, 1⟩
def PCL_TCPCFG_IDLE : Fld := ⟨0x70010, 16, 14⟩
def PCL_TCPCFG_PORT : Fld := ⟨0x70010, 0, 16⟩
def PCL_SSTAT_QUEUED (i : Nat) : Fld := ⟨0x70020 + 4 * i, 9, 3⟩
def PCL_SSTAT_CRC (i : Nat) : Fld := ⟨0x70020 + 4 * i, 8, 1⟩
def PCL_SSTAT_MLOCK (i : Nat) : Fld := ⟨0x70020 + 4 * i, 7, 1⟩
def PCL_SSTAT_LEVEL (i : Nat) : Fld := ⟨0x70020 + 4 * i, 5, 2⟩
def PCL_SSTAT_ECHO (i : Nat) : Fld := ⟨0x70020 + 4 * i, 4, 1⟩
def PCL_SSTAT_EDIT (i : Nat) : Fld := ⟨0x70020 + 4 * i, 3, 1⟩
def PCL_SSTAT_OPEN (i : Nat) : Fld := ⟨0x70020 + 4 * i, 0, 1⟩
def PCL_ARB_CONFL : Fld := ⟨0x70040, 16, 16⟩
def PCL_ARB_PFLOST : Fld := ⟨0x70040, 0, 16⟩
def GLB_RSTCTL_KEY : Fld := ⟨0x10, 16, 16⟩
def GLB_RSTCTL_DOM : Fld := ⟨0x10, 8, 4⟩
def GLB_RSTCTL_KEEPTANK : Fld := ⟨0x10, 2, 1⟩
def GLB_RSTCTL_ACT : Fld := ⟨0x10, 0, 2⟩
def GLB_WDOG_EN : Fld := ⟨0x14, 31, 1⟩
def GLB_WDOG_KICK : Fld := ⟨0x14, 30, 1⟩
def GLB_WDOG_PERIOD : Fld := ⟨0x14, 0, 16⟩
def GLB_RSTCAUSE_READY : Fld := ⟨0x18, 31, 1⟩
def GLB_RSTCAUSE_DROPPED : Fld := ⟨0x18, 24, 7⟩
def GLB_RSTCAUSE_FAILTEST : Fld := ⟨0x18, 16, 8⟩
def GLB_RSTCAUSE_RESCUE : Fld := ⟨0x18, 8, 1⟩
def GLB_RSTCAUSE_IMGB : Fld := ⟨0x18, 7, 1⟩
def GLB_RSTCAUSE_FIXPART : Fld := ⟨0x18, 6, 1⟩
def GLB_RSTCAUSE_FIXDUMP : Fld := ⟨0x18, 5, 1⟩
def GLB_RSTCAUSE_KEEPTANK : Fld := ⟨0x18, 4, 1⟩
def GLB_RSTCAUSE_CASCADE : Fld := ⟨0x18, 3, 1⟩
def GLB_RSTCAUSE_WDOG : Fld := ⟨0x18, 2, 1⟩
def GLB_RSTCAUSE_WARM : Fld := ⟨0x18, 1, 1⟩
def GLB_RSTCAUSE_POR : Fld := ⟨0x18, 0, 1⟩
def GLB_BOOTTIME_TEST : Fld := ⟨0x1c, 16, 16⟩
def GLB_BOOTTIME_PROMPT : Fld := ⟨0x1c, 0, 16⟩
def HIF_STAT_LINKUP : Fld := ⟨0x10000, 31, 1⟩
def HIF_STAT_SPEED : Fld := ⟨0x10000, 28, 3⟩
def HIF_STAT_WIDTH : Fld := ⟨0x10000, 24, 4⟩
def HIF_STAT_ARI : Fld := ⟨0x10000, 23, 1⟩
def HIF_STAT_VFEN : Fld := ⟨0x10000, 22, 1⟩
def HIF_STAT_NUMVF : Fld := ⟨0x10000, 14, 8⟩
def HIF_CNT_PARTIAL : Fld := ⟨0x10004, 16, 16⟩
def HIF_CNT_CORR : Fld := ⟨0x10004, 0, 16⟩
def ETH_PCFG0_EN : Fld := ⟨0x60000, 31, 1⟩
def ETH_PCFG0_DRTEN : Fld := ⟨0x60000, 30, 1⟩
def ETH_PCFG0_TCPEN : Fld := ⟨0x60000, 29, 1⟩
def ETH_PCFG0_PCP : Fld := ⟨0x60000, 26, 3⟩
def ETH_PCFG0_MTU : Fld := ⟨0x60000, 12, 14⟩
def ETH_PCFG0_VID : Fld := ⟨0x60000, 0, 12⟩
def ETH_PCFG1_EN : Fld := ⟨0x60004, 31, 1⟩
def ETH_PCFG1_DRTEN : Fld := ⟨0x60004, 30, 1⟩
def ETH_PCFG1_TCPEN : Fld := ⟨0x60004, 29, 1⟩
def ETH_PCFG1_PCP : Fld := ⟨0x60004, 26, 3⟩
def ETH_PCFG1_MTU : Fld := ⟨0x60004, 12, 14⟩
def ETH_PCFG1_VID : Fld := ⟨0x60004, 0, 12⟩
def ETH_PSTAT_UP1 : Fld := ⟨0x60054, 1, 1⟩
def ETH_PSTAT_UP0 : Fld := ⟨0x60054, 0, 1⟩
def ETH_IP0_ADDR : Fld := ⟨0x60008, 0, 32⟩
def ETH_IP1_ADDR : Fld := ⟨0x6000c, 0, 32⟩
def ETH_TCFG_SRC : Fld := ⟨0x60060, 31, 1⟩
def ETH_TCFG_PRIO1 : Fld := ⟨0x60060, 0, 8⟩
def ETH_TSTAT_LOCKED : Fld := ⟨0x60064, 31, 1⟩
def ETH_TSTAT_GM : Fld := ⟨0x60064, 30, 1⟩
def ETH_TSTAT_SLVPORT : Fld := ⟨0x60064, 29, 1⟩
def ETH_TOFS_OFFSET : Fld := ⟨0x60068, 0, 32⟩
def ETH_DRTCFG_EN : Fld := ⟨0x60020, 31, 1⟩
def ETH_DRTCFG_WINMAX : Fld := ⟨0x60020, 16, 9⟩
def ETH_DRTCFG_PORT : Fld := ⟨0x60020, 0, 16⟩
def ETH_DRTIDLE_IDLE : Fld := ⟨0x60024, 0, 16⟩
def ETH_DRTTEN_EN (i : Nat) : Fld := ⟨0x60030 + 4 * i, 0, 32⟩
def ETH_DROP_FULL : Fld := ⟨0x60050, 24, 8⟩
def ETH_DROP_BAD : Fld := ⟨0x60050, 16, 8⟩
def ETH_DROP_DUP : Fld := ⟨0x60050, 8, 8⟩
def ETH_DROP_WIN : Fld := ⟨0x60050, 4, 4⟩
def ETH_DROP_OTHER : Fld := ⟨0x60050, 0, 4⟩
def QMG_QCFG_VALID (i : Nat) : Fld := ⟨0x20008 + 32 * i, 31, 1⟩
def QMG_QCFG_DRT (i : Nat) : Fld := ⟨0x20008 + 32 * i, 30, 1⟩
def QMG_QCFG_SHORTTMO (i : Nat) : Fld := ⟨0x20008 + 32 * i, 29, 1⟩
def QMG_QCFG_SIZELOG (i : Nat) : Fld := ⟨0x20008 + 32 * i, 24, 4⟩
def QMG_QCFG_TIMEOUT (i : Nat) : Fld := ⟨0x20008 + 32 * i, 8, 16⟩
def QMG_QCFG_TENANT (i : Nat) : Fld := ⟨0x20008 + 32 * i, 0, 8⟩
def QMG_QCMD_OP (i : Nat) : Fld := ⟨0x2000c + 32 * i, 0, 2⟩
def QMG_QRES_DONE (i : Nat) : Fld := ⟨0x20010 + 32 * i, 31, 1⟩
def QMG_QRES_CODE (i : Nat) : Fld := ⟨0x20010 + 32 * i, 0, 10⟩
def QMG_QLVL0_ACC (i : Nat) : Fld := ⟨0x20014 + 32 * i, 16, 16⟩
def QMG_QLVL0_SEC (i : Nat) : Fld := ⟨0x20014 + 32 * i, 0, 16⟩
def QMG_QLVL1_DUR (i : Nat) : Fld := ⟨0x20018 + 32 * i, 0, 16⟩
def QMG_FRES_USED : Fld := ⟨0x28000, 0, 22⟩
def QMG_FCAP_CAP : Fld := ⟨0x28004, 0, 22⟩
def QMG_STAT_SECOK : Fld := ⟨0x28008, 31, 1⟩
def QMG_STAT_QUEUES : Fld := ⟨0x28008, 0, 11⟩
def QMG_TQUOTA_Q3 (i : Nat) : Fld := ⟨0x28100 + 4 * i, 24, 8⟩
def QMG_TQUOTA_Q2 (i : Nat) : Fld := ⟨0x28100 + 4 * i, 16, 8⟩
def QMG_TQUOTA_Q1 (i : Nat) : Fld := ⟨0x28100 + 4 * i, 8, 8⟩
def QMG_TQUOTA_Q0 (i : Nat) : Fld := ⟨0x28100 + 4 * i, 0, 8⟩
def SCH_CFG_STARVE : Fld := ⟨0x40000, 0, 16⟩
def SCH_GCAP_SUM : Fld := ⟨0x40004, 8, 8⟩
def SCH_GCAP_LIMIT : Fld := ⟨0x40004, 0, 8⟩
def SCH_TRSV_RSV : Fld := ⟨0x40008, 0, 5⟩
def SCH_TSHARE_CLASS (i : Nat) : Fld := ⟨0x40100 + 4 * i, 28, 2⟩
def SCH_TSHARE_WEIGHT (i : Nat) : Fld := ⟨0x40100 + 4 * i, 8, 8⟩
def SCH_TSHARE_RATE (i : Nat) : Fld := ⟨0x40100 + 4 * i, 0, 8⟩
def SCH_TBAL_BAL (i : Nat) : Fld := ⟨0x40500 + 4 * i, 0, 32⟩
def INT_PFEVT_EN : Fld := ⟨0x50000, 31, 1⟩
def INT_PFEVT_VEC : Fld := ⟨0x50000, 0, 6⟩
def INT_PFCAUSE_CAUSE : Fld := ⟨0x50004, 0, 9⟩
def INT_STAT_USED : Fld := ⟨0x50008, 0, 12⟩
def INT_TVEC_BASE (i : Nat) : Fld := ⟨0x50400 + 4 * i, 16, 11⟩
def INT_TVEC_COUNT (i : Nat) : Fld := ⟨0x50400 + 4 * i, 0, 7⟩
def INT_VCOAL_ABORTNOW (i : Nat) : Fld := ⟨0x51000 + 4 * i, 31, 1⟩
def INT_VCOAL_COUNT (i : Nat) : Fld := ⟨0x51000 + 4 * i, 16, 8⟩
def INT_VCOAL_TIME (i : Nat) : Fld := ⟨0x51000 + 4 * i, 0, 16⟩
def INT_QVEC_VEC (i : Nat) : Fld := ⟨0x53000 + 4 * i, 0, 6⟩
def INT_DNOTE_EN (i : Nat) : Fld := ⟨0x54000 + 4 * i, 0, 32⟩
def RDC_CFG_BLKMAX : Fld := ⟨0x80000, 16, 9⟩
def RDC_CFG_EN : Fld := ⟨0x80000, 0, 4⟩
def RDC_STAT_OK : Fld := ⟨0x80004, 8, 4⟩
def RDC_STAT_BUSY : Fld := ⟨0x80004, 4, 4⟩
def RDC_STAT_TEST : Fld := ⟨0x80004, 0, 4⟩
def RDC_TMODE_MODE0 (i : Nat) : Fld := ⟨0x80010 + 4 * i, 0, 2⟩
def RDC_TMODE_MODE1 (i : Nat) : Fld := ⟨0x80010 + 4 * i, 2, 2⟩
def RDC_TMODE_MODE2 (i : Nat) : Fld := ⟨0x80010 + 4 * i, 4, 2⟩
def RDC_TMODE_MODE3 (i : Nat) : Fld := ⟨0x80010 + 4 * i, 6, 2⟩
def RDC_TMODE_MODE4 (i : Nat) : Fld := ⟨0x80010 + 4 * i, 8, 2⟩
def RDC_TMODE_MODE5 (i : Nat) : Fld := ⟨0x80010 + 4 * i, 10, 2⟩
def RDC_TMODE_MODE6 (i : Nat) : Fld := ⟨0x80010 + 4 * i, 12, 2⟩
def RDC_TMODE_MODE7 (i : Nat) : Fld := ⟨0x80010 + 4 * i, 14, 2⟩
def RDC_TMODE_MODE8 (i : Nat) : Fld := ⟨0x80010 + 4 * i, 16, 2⟩
def RDC_TMODE_MODE9 (i : Nat) : Fld := ⟨0x80010 + 4 * i, 18, 2⟩
def RDC_TMODE_MODE10 (i : Nat) : Fld := ⟨0x80010 + 4 * i, 20, 2⟩
def RDC_TMODE_MODE11 (i : Nat) : Fld := ⟨0x80010 + 4 * i, 22, 2⟩
def RDC_TMODE_MODE12 (i : Nat) : Fld := ⟨0x80010 + 4 * i, 24, 2⟩
def RDC_TMODE_MODE13 (i : Nat) : Fld := ⟨0x80010 + 4 * i, 26, 2⟩
def RDC_TMODE_MODE14 (i : Nat) : Fld := ⟨0x80010 + 4 * i, 28, 2⟩
def RDC_TMODE_MODE15 (i : Nat) : Fld := ⟨0x80010 + 4 * i, 30, 2⟩
def RDC_ECNT_BLOCKS (i : Nat) : Fld := ⟨0x80050 + 4 * i, 16, 16⟩
def RDC_ECNT_STORED (i : Nat) : Fld := ⟨0x80050 + 4 * i, 8, 8⟩
def RDC_ECNT_MISMATCH (i : Nat) : Fld := ⟨0x80050 + 4 * i, 0, 8⟩
def RDC_STEST_RUN : Fld := ⟨0x80070, 31, 1⟩
def RDC_STEST_PERIOD : Fld := ⟨0x80070, 0, 16⟩
def RDC_STRES_ENLFAIL : Fld := ⟨0x80074, 4, 4⟩
def RDC_STRES_RDCFAIL : Fld := ⟨0x80074, 0, 4⟩
def ENL_CFG_EN : Fld := ⟨0x88000, 0, 4⟩
def ENL_STAT_OK : Fld := ⟨0x88004, 8, 4⟩
def ENL_STAT_BUSY : Fld := ⟨0x88004, 4, 4⟩
def ENL_STAT_TEST : Fld := ⟨0x88004, 0, 4⟩
def ENL_ECNT_BLOCKS (i : Nat) : Fld := ⟨0x88010 + 4 * i, 16, 16⟩
def ENL_ECNT_ERRORS (i : Nat) : Fld := ⟨0x88010 + 4 * i, 0, 16⟩
def ENL_LASTERR_ENGINE : Fld := ⟨0x88020, 14, 2⟩
def ENL_LASTERR_CODE : Fld := ⟨0x88020, 0, 10⟩
def TNK_STAT_FREEPG : Fld := ⟨0x90000, 16, 14⟩
def TNK_STAT_TESTRUN : Fld := ⟨0x90000, 15, 1⟩
def TNK_STAT_TESTBANK : Fld := ⟨0x90000, 8, 6⟩
def TNK_STAT_FENCED : Fld := ⟨0x90000, 0, 7⟩
def TNK_ELOG_VALID : Fld := ⟨0x90010, 31, 1⟩
def TNK_ELOG_UE : Fld := ⟨0x90010, 30, 1⟩
def TNK_ELOG_BANK : Fld := ⟨0x90010, 24, 6⟩
def TNK_ELOG_SRC : Fld := ⟨0x90010, 21, 3⟩
def TNK_ELOG_WORD : Fld := ⟨0x90010, 0, 15⟩
def TNK_WADDR_ADDR : Fld := ⟨0x90020, 4, 21⟩
def TNK_WDATA_DATA (i : Nat) : Fld := ⟨0x90024 + 4 * i, 0, 32⟩
def TNK_CTRL_AGE : Fld := ⟨0x90040, 8, 8⟩
def TNK_CTRL_WINEN : Fld := ⟨0x90040, 1, 1⟩
def TNK_CTRL_CELOG : Fld := ⟨0x90040, 0, 1⟩
def TNK_TEST_KEY : Fld := ⟨0x90044, 16, 16⟩
def TNK_TEST_BANK : Fld := ⟨0x90044, 0, 6⟩
def TNK_TRES_DONE : Fld := ⟨0x90048, 31, 1⟩
def TNK_TRES_FAIL : Fld := ⟨0x90048, 30, 1⟩
def TNK_TRES_BANK : Fld := ⟨0x90048, 24, 6⟩
def TNK_TRES_REPL : Fld := ⟨0x90048, 16, 5⟩
def TNK_TRES_CODE : Fld := ⟨0x90048, 0, 10⟩
def TNK_ECNT_CE (i : Nat) : Fld := ⟨0x90100 + 4 * i, 16, 16⟩
def TNK_ECNT_UE (i : Nat) : Fld := ⟨0x90100 + 4 * i, 8, 8⟩
def TNK_ECNT_SPARES (i : Nat) : Fld := ⟨0x90100 + 4 * i, 0, 5⟩
def SPD_STAT_USED3 : Fld := ⟨0xa0000, 12, 4⟩
def SPD_STAT_USED2 : Fld := ⟨0xa0000, 8, 4⟩
def SPD_STAT_USED1 : Fld := ⟨0xa0000, 4, 4⟩
def SPD_STAT_USED0 : Fld := ⟨0xa0000, 0, 4⟩
def SPD_ECNT_CE : Fld := ⟨0xa0004, 16, 16⟩
def SPD_ECNT_UE : Fld := ⟨0xa0004, 0, 16⟩
def SPD_ELOG_VALID : Fld := ⟨0xa0008, 31, 1⟩
def SPD_ELOG_UE : Fld := ⟨0xa0008, 30, 1⟩
def SPD_ELOG_FETCH : Fld := ⟨0xa0008, 29, 1⟩
def SPD_ELOG_BANK : Fld := ⟨0xa0008, 14, 2⟩
def SPD_ELOG_WORD : Fld := ⟨0xa0008, 0, 14⟩
def SPD_RMADD_BANK : Fld := ⟨0xa000c, 14, 2⟩
def SPD_RMADD_WORD : Fld := ⟨0xa000c, 0, 14⟩
def SPD_RMAP_VALID (i : Nat) : Fld := ⟨0xa0040 + 4 * i, 31, 1⟩
def SPD_RMAP_FUSED (i : Nat) : Fld := ⟨0xa0040 + 4 * i, 30, 1⟩
def SPD_RMAP_WORD (i : Nat) : Fld := ⟨0xa0040 + 4 * i, 0, 14⟩
def FIX_STAT_STATE : Fld := ⟨0xb0000, 30, 2⟩
def FIX_STAT_BUSY : Fld := ⟨0xb0000, 29, 1⟩
def FIX_STAT_RATEOK : Fld := ⟨0xb0000, 28, 1⟩
def FIX_STAT_RATE : Fld := ⟨0xb0000, 0, 16⟩
def FIX_RLIM_LIM : Fld := ⟨0xb0004, 0, 22⟩
def FIX_ECNT_CE : Fld := ⟨0xb0008, 16, 16⟩
def FIX_ECNT_UE : Fld := ⟨0xb0008, 0, 16⟩
def FIX_DUMPS_COUNT : Fld := ⟨0xb000c, 0, 32⟩
def FIX_WEAR_WRITES : Fld := ⟨0xb0010, 0, 32⟩
def FMT_CFG_C3DEF : Fld := ⟨0xc0000, 31, 1⟩
def FMT_STAT_STREAM : Fld := ⟨0xc0004, 31, 1⟩
def FMT_STAT_GROUP : Fld := ⟨0xc0004, 30, 1⟩
def FMT_STAT_NSUB : Fld := ⟨0xc0004, 22, 6⟩
def FMT_STAT_POS : Fld := ⟨0xc0004, 18, 4⟩
def FMT_STAT_POOL : Fld := ⟨0xc0004, 0, 7⟩
def FMT_DS_DSNUM : Fld := ⟨0xc0008, 0, 32⟩
def FMT_CNT_REWRITES : Fld := ⟨0xc000c, 16, 16⟩
def FMT_CNT_ABANDON : Fld := ⟨0xc000c, 8, 8⟩
def DFM_CNT0_C1FAIL : Fld := ⟨0xc0100, 16, 16⟩
def DFM_CNT0_C2FAIL : Fld := ⟨0xc0100, 0, 16⟩
def DFM_CNT1_C3REB : Fld := ⟨0xc0104, 16, 16⟩
def DFM_CNT1_UNREC : Fld := ⟨0xc0104, 0, 16⟩
def SEC_CFG_UNSEALOK : Fld := ⟨0xc0200, 1, 1⟩
def SEC_CFG_REQKEY : Fld := ⟨0xc0200, 0, 1⟩
def SEC_CSEL_TENANT : Fld := ⟨0xc0204, 0, 8⟩
def SEC_CLINK_LINKNO : Fld := ⟨0xc0208, 0, 32⟩
def SEC_CDS_DSNUM : Fld := ⟨0xc020c, 0, 32⟩
def SEC_CMAC_MAC (i : Nat) : Fld := ⟨0xc0210 + 4 * i, 0, 32⟩
def SEC_CNT_SEALFAIL : Fld := ⟨0xc0230, 16, 16⟩
def SEC_CNT_GCMFAIL : Fld := ⟨0xc0230, 0, 16⟩
def RCH_CFG_HOLD : Fld := ⟨0xd0000, 16, 8⟩
def RCH_CFG_AGCTGT : Fld := ⟨0xd0000, 8, 8⟩
def RCH_CFG_ADAPT : Fld := ⟨0xd0000, 0, 1⟩
def RCH_ZCFG0_TARGET : Fld := ⟨0xd0004, 31, 1⟩
def RCH_ZCFG0_CUTOFF : Fld := ⟨0xd0004, 16, 4⟩
def RCH_ZCFG0_BOOST : Fld := ⟨0xd0004, 8, 4⟩
def RCH_ZCFG0_MU : Fld := ⟨0xd0004, 0, 4⟩
def RCH_ZCFG1_TARGET : Fld := ⟨0xd0008, 31, 1⟩
def RCH_ZCFG1_CUTOFF : Fld := ⟨0xd0008, 16, 4⟩
def RCH_ZCFG1_BOOST : Fld := ⟨0xd0008, 8, 4⟩
def RCH_ZCFG1_MU : Fld := ⟨0xd0008, 0, 4⟩
def RCH_DEF_DROP : Fld := ⟨0xd000c, 24, 8⟩
def RCH_DEF_TA : Fld := ⟨0xd000c, 16, 8⟩
def RCH_DEF_DMIN : Fld := ⟨0xd000c, 8, 8⟩
def RCH_DEF_EXT : Fld := ⟨0xd000c, 0, 8⟩
def RCH_RETRY_STEPS : Fld := ⟨0xd0010, 16, 8⟩
def RCH_RETRY_SLOW : Fld := ⟨0xd0010, 8, 4⟩
def RCH_RETRY_OFFS : Fld := ⟨0xd0010, 0, 6⟩
def RCH_LPCFG_ARM : Fld := ⟨0xd0020, 31, 1⟩
def RCH_LPCFG_FIRE : Fld := ⟨0xd0020, 30, 1⟩
def RCH_LPCFG_SRC : Fld := ⟨0xd0020, 28, 2⟩
def RCH_LPCFG_TRIG : Fld := ⟨0xd0020, 24, 4⟩
def RCH_LPCFG_INPUT : Fld := ⟨0xd0020, 16, 6⟩
def RCH_LPCFG_PRE : Fld := ⟨0xd0020, 0, 15⟩
def RCH_LPSTAT_ARMED : Fld := ⟨0xd0024, 31, 1⟩
def RCH_LPSTAT_DONE : Fld := ⟨0xd0024, 30, 1⟩
def RCH_LPSTAT_TRIGPOS : Fld := ⟨0xd0024, 0, 15⟩
def RCH_LPADDR_WORD : Fld := ⟨0xd0028, 0, 13⟩
def RCH_LPDATA_SAMPLES : Fld := ⟨0xd002c, 0, 32⟩
def RCH_ISTAT_ON (i : Nat) : Fld := ⟨0xd0100 + 4 * i, 31, 1⟩
def RCH_ISTAT_LOCK (i : Nat) : Fld := ⟨0xd0100 + 4 * i, 30, 1⟩
def RCH_ISTAT_DEF (i : Nat) : Fld := ⟨0xd0100 + 4 * i, 29, 1⟩
def RCH_ISTAT_MSE (i : Nat) : Fld := ⟨0xd0100 + 4 * i, 16, 8⟩
def RCH_ISTAT_GAIN (i : Nat) : Fld := ⟨0xd0100 + 4 * i, 8, 8⟩
def RCH_ICNT_DEF (i : Nat) : Fld := ⟨0xd0200 + 4 * i, 16, 16⟩
def RCH_ICNT_LOL (i : Nat) : Fld := ⟨0xd0200 + 4 * i, 0, 16⟩
def PRF_CFG_STRICT : Fld := ⟨0xd8000, 16, 1⟩
def PRF_CFG_RUN : Fld := ⟨0xd8000, 8, 8⟩
def PRF_CFG_THRE : Fld := ⟨0xd8000, 4, 4⟩
def PRF_CFG_THRC : Fld := ⟨0xd8000, 0, 4⟩
def PRF_STAT_BAD : Fld := ⟨0xd8004, 31, 1⟩
def PRF_STAT_TESTRUN : Fld := ⟨0xd8004, 30, 1⟩
def PRF_STAT_LASTREASON : Fld := ⟨0xd8004, 16, 3⟩
def PRF_STAT_LASTCH : Fld := ⟨0xd8004, 12, 4⟩
def PRF_STAT_LASTSLOT : Fld := ⟨0xd8004, 0, 12⟩
def PRF_VCNT_FRAMES (i : Nat) : Fld := ⟨0xd8010 + 4 * i, 16, 16⟩
def PRF_VCNT_FAILS (i : Nat) : Fld := ⟨0xd8010 + 4 * i, 0, 16⟩
def PRF_TRES_DONE : Fld := ⟨0xd8050, 31, 1⟩
def PRF_TRES_FAIL : Fld := ⟨0xd8050, 30, 1⟩
def PRF_TRES_ABORT : Fld := ⟨0xd8050, 29, 1⟩
def PRF_TRES_CH : Fld := ⟨0xd8050, 16, 4⟩
def PRF_TRES_CODE : Fld := ⟨0xd8050, 0, 10⟩
def SRV_CFG_LOSTN : Fld := ⟨0xe0000, 24, 8⟩
def SRV_CFG_DISAGREE : Fld := ⟨0xe0000, 16, 8⟩
def SRV_CFG_WINH : Fld := ⟨0xe0000, 8, 8⟩
def SRV_CFG_SETTLE : Fld := ⟨0xe0000, 0, 8⟩
def SRV_STAT_STATE : Fld := ⟨0xe0004, 29, 3⟩
def SRV_STAT_DIR : Fld := ⟨0xe0004, 28, 1⟩
def SRV_STAT_LPWOK : Fld := ⟨0xe0004, 27, 1⟩
def SRV_STAT_V0 : Fld := ⟨0xe0004, 26, 1⟩
def SRV_STAT_V1 : Fld := ⟨0xe0004, 25, 1⟩
def SRV_STAT_MODB : Fld := ⟨0xe0004, 24, 1⟩
def SRV_STAT_BAND : Fld := ⟨0xe0004, 20, 2⟩
def SRV_STAT_WRAP : Fld := ⟨0xe0004, 14, 6⟩
def SRV_STAT_WINHIB : Fld := ⟨0xe0004, 11, 1⟩
def SRV_LPW_LPW : Fld := ⟨0xe0008, 0, 32⟩
def SRV_LPE_LPE : Fld := ⟨0xe000c, 0, 16⟩
def SRV_SPD_AUTO : Fld := ⟨0xe0010, 31, 1⟩
def SRV_SPD_PACK : Fld := ⟨0xe0010, 30, 1⟩
def SRV_SPD_STEP : Fld := ⟨0xe0010, 24, 4⟩
def SRV_SPD_CUR : Fld := ⟨0xe0010, 20, 4⟩
def SRV_SPD_TARGET : Fld := ⟨0xe0010, 16, 4⟩
def SRV_SPD_MMS : Fld := ⟨0xe0010, 0, 16⟩
def SRV_MATCH_MARGIN : Fld := ⟨0xe0014, 24, 8⟩
def SRV_MATCH_DOWNHOLD : Fld := ⟨0xe0014, 16, 8⟩
def SRV_MATCH_TDRAIN : Fld := ⟨0xe0014, 8, 8⟩
def SRV_MATCH_GAPMAX : Fld := ⟨0xe0014, 0, 8⟩
def SRV_PACK_EN : Fld := ⟨0xe0018, 31, 1⟩
def SRV_PACK_WAIT : Fld := ⟨0xe0018, 0, 16⟩
def SRV_CNT_BACKHITCH : Fld := ⟨0xe0020, 24, 8⟩
def SRV_CNT_WINHIB : Fld := ⟨0xe0020, 16, 8⟩
def SRV_CNT_LPWERR : Fld := ⟨0xe0020, 8, 8⟩
def SRV_CNT_LOST : Fld := ⟨0xe0020, 0, 8⟩
def MDR_ACFG_OCLIM (i : Nat) : Fld := ⟨0xf0000 + 256 * i, 24, 8⟩
def MDR_ACFG_DIRINV (i : Nat) : Fld := ⟨0xf0000 + 256 * i, 22, 1⟩
def MDR_ACFG_POLES (i : Nat) : Fld := ⟨0xf0000 + 256 * i, 16, 5⟩
def MDR_ACFG_LEB (i : Nat) : Fld := ⟨0xf0000 + 256 * i, 8, 8⟩
def MDR_ACFG_DT (i : Nat) : Fld := ⟨0xf0000 + 256 * i, 0, 8⟩
def MDR_ARATE_RATED (i : Nat) : Fld := ⟨0xf0004 + 256 * i, 16, 16⟩
def MDR_ARATE_ISCALE (i : Nat) : Fld := ⟨0xf0004 + 256 * i, 0, 16⟩
def MDR_ASTAT_MODE (i : Nat) : Fld := ⟨0xf0008 + 256 * i, 29, 3⟩
def MDR_ASTAT_OBSOK (i : Nat) : Fld := ⟨0xf0008 + 256 * i, 28, 1⟩
def MDR_ASTAT_MODLIM (i : Nat) : Fld := ⟨0xf0008 + 256 * i, 27, 1⟩
def MDR_ASTAT_RPM (i : Nat) : Fld := ⟨0xf0008 + 256 * i, 0, 16⟩
def MDR_AIOFS_OFSV (i : Nat) : Fld := ⟨0xf000c + 256 * i, 16, 12⟩
def MDR_AIOFS_OFSU (i : Nat) : Fld := ⟨0xf000c + 256 * i, 0, 12⟩
def MDR_ACNT_MODLIM (i : Nat) : Fld := ⟨0xf0010 + 256 * i, 16, 16⟩
def MDR_ACNT_TRIPS (i : Nat) : Fld := ⟨0xf0010 + 256 * i, 8, 8⟩
def MDR_ACNT_FLYFAIL (i : Nat) : Fld := ⟨0xf0010 + 256 * i, 4, 4⟩
def MDR_ACNT_LATE (i : Nat) : Fld := ⟨0xf0010 + 256 * i, 0, 4⟩
def MDR_ASTART_ALIGNI (i : Nat) : Fld := ⟨0xf0014 + 256 * i, 24, 8⟩
def MDR_ASTART_ALIGNT (i : Nat) : Fld := ⟨0xf0014 + 256 * i, 16, 8⟩
def MDR_ASTART_BRKLIM (i : Nat) : Fld := ⟨0xf0014 + 256 * i, 8, 8⟩
def MDR_HCFG_OCLIM : Fld := ⟨0xf0300, 24, 8⟩
def MDR_HCFG_LEB : Fld := ⟨0xf0300, 8, 8⟩
def MDR_HCFG_DT : Fld := ⟨0xf0300, 0, 8⟩
def MDR_HSCALE_ISCALE : Fld := ⟨0xf0304, 0, 16⟩
def MDR_TRIP_ACTIVE : Fld := ⟨0xf0800, 16, 4⟩
def MDR_TRIP_CAUSE : Fld := ⟨0xf0800, 8, 8⟩
def MDR_TRIP_LATCHED : Fld := ⟨0xf0800, 0, 4⟩
def MDR_TRIPCLR_UNITS : Fld := ⟨0xf0804, 0, 4⟩
def MDR_FANCFG_AUTO : Fld := ⟨0xf0810, 31, 1⟩
def MDR_FANCFG_HYST : Fld := ⟨0xf0810, 16, 8⟩
def MDR_FANCFG_MANUAL : Fld := ⟨0xf0810, 0, 8⟩
def MDR_MEAS_VBUS : Fld := ⟨0xf0818, 16, 16⟩
def MDR_MEAS_DIE : Fld := ⟨0xf0818, 8, 8⟩
def MDR_MEAS_EXT : Fld := ⟨0xf0818, 0, 8⟩
def MDR_FANPT_TEMP (i : Nat) : Fld := ⟨0xf0820 + 4 * i, 8, 8⟩
def MDR_FANPT_SPD (i : Nat) : Fld := ⟨0xf0820 + 4 * i, 0, 8⟩
def CLE_STAT_ACCFAIL : Fld := ⟨0x100000, 31, 1⟩
def CLE_STAT_FB : Fld := ⟨0x100000, 9, 9⟩
def CLE_STAT_FLAG : Fld := ⟨0x100000, 0, 9⟩
def CLE_TSET_MN : Fld := ⟨0x100004, 0, 16⟩
def CLE_TENS_MN : Fld := ⟨0x100008, 0, 16⟩
def CLE_RADIUS_RS : Fld := ⟨0x10000c, 16, 16⟩
def CLE_RADIUS_RT : Fld := ⟨0x10000c, 0, 16⟩
def CLE_ACFG_EN : Fld := ⟨0x100010, 31, 1⟩
def CLE_ACFG_LE : Fld := ⟨0x100010, 16, 1⟩
def CLE_ACFG_CMD : Fld := ⟨0x100010, 8, 8⟩
def CLE_ACFG_DIV : Fld := ⟨0x100010, 0, 4⟩
def CLE_ACCST_FAIL : Fld := ⟨0x100014, 31, 1⟩
def CLE_ACCST_BAD : Fld := ⟨0x100014, 0, 16⟩
def CLE_ACCXY_Y : Fld := ⟨0x100018, 16, 16⟩
def CLE_ACCXY_X : Fld := ⟨0x100018, 0, 16⟩
def CLE_ACCZ_Z : Fld := ⟨0x10001c, 0, 16⟩
def CLE_RCCTL_CLEAR : Fld := ⟨0x100020, 2, 1⟩
def CLE_RCCTL_APPLY : Fld := ⟨0x100020, 1, 1⟩
def CLE_RCCTL_LEARN : Fld := ⟨0x100020, 0, 1⟩
def CLE_RCPEAK_SUP : Fld := ⟨0x100024, 16, 16⟩
def CLE_RCPEAK_TKU : Fld := ⟨0x100024, 0, 16⟩
def CLE_LCTL_MODE (i : Nat) : Fld := ⟨0x100100 + 32 * i, 31, 1⟩
def CLE_LCTL_BANK (i : Nat) : Fld := ⟨0x100100 + 32 * i, 0, 2⟩
def CLE_LSTAT_ACTIVE (i : Nat) : Fld := ⟨0x100104 + 32 * i, 30, 2⟩
def CLE_LSTAT_PENDING (i : Nat) : Fld := ⟨0x100104 + 32 * i, 29, 1⟩
def CLE_LSTAT_FALLBACK (i : Nat) : Fld := ⟨0x100104 + 32 * i, 28, 1⟩
def CLE_LSTAT_RUN (i : Nat) : Fld := ⟨0x100104 + 32 * i, 27, 1⟩
def CLE_LSTAT_OPEN (i : Nat) : Fld := ⟨0x100104 + 32 * i, 26, 1⟩
def CLE_LSTAT_FLAGS (i : Nat) : Fld := ⟨0x100104 + 32 * i, 0, 5⟩
def CLE_LMAN_VALUE (i : Nat) : Fld := ⟨0x100108 + 32 * i, 0, 32⟩
def CLE_LERR_VALUE (i : Nat) : Fld := ⟨0x10010c + 32 * i, 0, 32⟩
def CLE_LOUT_VALUE (i : Nat) : Fld := ⟨0x100110 + 32 * i, 0, 32⟩
def CLE_LINT_VALUE (i : Nat) : Fld := ⟨0x100114 + 32 * i, 0, 32⟩
def CLE_ODET_FSH (i : Nat) : Fld := ⟨0x100118 + 32 * i, 28, 4⟩
def CLE_ODET_FLOOR (i : Nat) : Fld := ⟨0x100118 + 32 * i, 16, 12⟩
def CLE_ODET_COUNT (i : Nat) : Fld := ⟨0x100118 + 32 * i, 10, 6⟩
def CLE_ODET_WINDOW (i : Nat) : Fld := ⟨0x100118 + 32 * i, 0, 10⟩
def CLE_COEFA_V_VALUE (i : Nat) : Fld := ⟨0x104000 + 8 * i, 0, 32⟩
def CLE_COEFA_S_SHIFT (i : Nat) : Fld := ⟨0x104004 + 8 * i, 0, 5⟩
def CLE_COEFB_V_VALUE (i : Nat) : Fld := ⟨0x105000 + 8 * i, 0, 32⟩
def CLE_COEFB_S_SHIFT (i : Nat) : Fld := ⟨0x105004 + 8 * i, 0, 5⟩
def CLE_COEFROM_V_VALUE (i : Nat) : Fld := ⟨0x106000 + 8 * i, 0, 32⟩
def CLE_COEFROM_S_SHIFT (i : Nat) : Fld := ⟨0x106004 + 8 * i, 0, 5⟩
def PWR_CTL_KEY : Fld := ⟨0x110000, 16, 16⟩
def PWR_CTL_TARGET : Fld := ⟨0x110000, 0, 3⟩
def PWR_STAT_STATE : Fld := ⟨0x110004, 29, 3⟩
def PWR_STAT_BUSY : Fld := ⟨0x110004, 28, 1⟩
def PWR_STAT_LASTRES : Fld := ⟨0x110004, 26, 2⟩
def PWR_STAT_AP : Fld := ⟨0x110004, 24, 2⟩
def PWR_STAT_BLOCK : Fld := ⟨0x110004, 19, 5⟩
def PWR_STAT_DOMAINS : Fld := ⟨0x110004, 0, 10⟩
def PWR_WAKEEN_EN : Fld := ⟨0x110008, 0, 7⟩
def PWR_WSTAT_VALID : Fld := ⟨0x11000c, 31, 1⟩
def PWR_WSTAT_FROM : Fld := ⟨0x11000c, 8, 3⟩
def PWR_WSTAT_SRC : Fld := ⟨0x11000c, 0, 7⟩
def PWR_IGN_AUTO : Fld := ⟨0x110010, 31, 1⟩
def PWR_IGN_UNLOAD : Fld := ⟨0x110010, 30, 1⟩
def PWR_IGN_LEVEL : Fld := ⟨0x110010, 29, 1⟩
def PWR_IGN_TARGET : Fld := ⟨0x110010, 24, 3⟩
def PWR_IGN_DRAINMAX : Fld := ⟨0x110010, 12, 12⟩
def PWR_IGN_HOLD : Fld := ⟨0x110010, 0, 12⟩
def PWR_PFCFG_BRAKE : Fld := ⟨0x110014, 0, 1⟩
def PWR_PFSTAT_PFAIL : Fld := ⟨0x110018, 31, 1⟩
def PWR_PFSTAT_HOLDUP : Fld := ⟨0x110018, 30, 1⟩
def PWR_PFSTAT_SEEN : Fld := ⟨0x110018, 29, 1⟩
def PWR_PFSTAT_LASTMS : Fld := ⟨0x110018, 0, 16⟩
def PWR_SLADDR_WORD : Fld := ⟨0x110020, 0, 12⟩
def PWR_SLDATA_DATA : Fld := ⟨0x110024, 0, 32⟩
def AON_RTCSEC_SEC : Fld := ⟨0x118000, 0, 32⟩
def AON_RTCALM_SEC : Fld := ⟨0x118004, 0, 32⟩
def XLK_CFG_AUTOSWEEP : Fld := ⟨0x120000, 31, 1⟩
def XLK_CFG_TIMEEN : Fld := ⟨0x120000, 30, 1⟩
def XLK_CFG_CTMO : Fld := ⟨0x120000, 0, 16⟩
def XLK_STAT_MASTER : Fld := ⟨0x120004, 31, 1⟩
def XLK_STAT_IDVALID : Fld := ⟨0x120004, 30, 1⟩
def XLK_STAT_STALE : Fld := ⟨0x120004, 29, 1⟩
def XLK_STAT_SWEEP : Fld := ⟨0x120004, 28, 1⟩
def XLK_STAT_DEPTH : Fld := ⟨0x120004, 22, 6⟩
def XLK_STAT_NODE : Fld := ⟨0x120004, 0, 16⟩
def XLK_PSTAT_STATE (i : Nat) : Fld := ⟨0x120010 + 4 * i, 30, 2⟩
def XLK_PSTAT_REASON (i : Nat) : Fld := ⟨0x120010 + 4 * i, 27, 3⟩
def XLK_PSTAT_HOPDLY (i : Nat) : Fld := ⟨0x120010 + 4 * i, 0, 16⟩
def XLK_PCNT_RETRY (i : Nat) : Fld := ⟨0x120020 + 4 * i, 24, 8⟩
def XLK_PCNT_CRCERR (i : Nat) : Fld := ⟨0x120020 + 4 * i, 16, 8⟩
def XLK_PCNT_DOWNS (i : Nat) : Fld := ⟨0x120020 + 4 * i, 8, 8⟩
def XLK_PCNT_EPOCHDROP (i : Nat) : Fld := ⟨0x120020 + 4 * i, 0, 8⟩
def XLK_RANGE_LAST (i : Nat) : Fld := ⟨0x120030 + 4 * i, 16, 16⟩
def XLK_RANGE_FIRST (i : Nat) : Fld := ⟨0x120030 + 4 * i, 0, 16⟩
def XLK_CENS_STALE : Fld := ⟨0x120044, 0, 17⟩
def XLK_CENS_NODES : Fld := ⟨0x120040, 0, 17⟩
def XLK_CTADDR_ID : Fld := ⟨0x120050, 0, 16⟩
def XLK_CTDATA_DATA (i : Nat) : Fld := ⟨0x120054 + 4 * i, 0, 32⟩
def XLK_CCMD_GO : Fld := ⟨0x120070, 31, 1⟩
def XLK_CCMD_OP : Fld := ⟨0x120070, 16, 8⟩
def XLK_CCMD_DST : Fld := ⟨0x120070, 0, 16⟩
def XLK_CARG_ARG (i : Nat) : Fld := ⟨0x120074 + 4 * i, 0, 32⟩
def XLK_CRES_DONE : Fld := ⟨0x12007c, 31, 1⟩
def XLK_CRES_BUSY : Fld := ⟨0x12007c, 30, 1⟩
def XLK_CRES_RESULT : Fld := ⟨0x12007c, 16, 2⟩
def XLK_CRES_STATUS : Fld := ⟨0x12007c, 0, 10⟩
def XLK_CRDATA_DATA : Fld := ⟨0x120080, 0, 32⟩
def XLK_WAKE_PORTS : Fld := ⟨0x120084, 0, 3⟩
def XLK_LEND_EN : Fld := ⟨0x120090, 31, 1⟩
def XLK_LEND_USED : Fld := ⟨0x120090, 8, 5⟩
def XLK_LEND_MAX : Fld := ⟨0x120090, 0, 5⟩
def XLK_BORROW_EN : Fld := ⟨0x120094, 31, 1⟩
def XLK_BORROW_USED : Fld := ⟨0x120094, 8, 5⟩
def XLK_BORROW_LOW : Fld := ⟨0x120094, 0, 5⟩
def XLK_SGCFG_EN (i : Nat) : Fld := ⟨0x120100 + 128 * i, 31, 1⟩
def XLK_SGCFG_STATE (i : Nat) : Fld := ⟨0x120100 + 128 * i, 29, 2⟩
def XLK_SGCFG_K (i : Nat) : Fld := ⟨0x120100 + 128 * i, 24, 4⟩
def XLK_SGCFG_SUL (i : Nat) : Fld := ⟨0x120100 + 128 * i, 20, 4⟩
def XLK_SGCFG_QID (i : Nat) : Fld := ⟨0x120100 + 128 * i, 0, 10⟩
def XLK_SGMEM0_NODE (i : Nat) : Fld := ⟨0x120104 + 4 * i, 16, 16⟩
def XLK_SGMEM0_MQ (i : Nat) : Fld := ⟨0x120104 + 4 * i, 0, 10⟩
def XLK_SGMEM1_NODE (i : Nat) : Fld := ⟨0x120184 + 4 * i, 16, 16⟩
def XLK_SGMEM1_MQ (i : Nat) : Fld := ⟨0x120184 + 4 * i, 0, 10⟩
def XLK_SGMEM2_NODE (i : Nat) : Fld := ⟨0x120204 + 4 * i, 16, 16⟩
def XLK_SGMEM2_MQ (i : Nat) : Fld := ⟨0x120204 + 4 * i, 0, 10⟩
def XLK_SGMEM3_NODE (i : Nat) : Fld := ⟨0x120284 + 4 * i, 16, 16⟩
def XLK_SGMEM3_MQ (i : Nat) : Fld := ⟨0x120284 + 4 * i, 0, 10⟩
def ERR_STAT_WRAP : Fld := ⟨0x130000, 31, 1⟩
def ERR_STAT_HELD : Fld := ⟨0x130000, 16, 11⟩
def ERR_STAT_LASTCODE : Fld := ⟨0x130000, 0, 10⟩
def ERR_LASTSEQ_SEQ : Fld := ⟨0x130004, 0, 32⟩
def ERR_FIRSTSEQ_SEQ : Fld := ⟨0x130008, 0, 32⟩
def ERR_CTL_KEY : Fld := ⟨0x13000c, 16, 16⟩
def ERR_CTL_CLEAR : Fld := ⟨0x13000c, 0, 1⟩
def ERR_RSEL_SEQ : Fld := ⟨0x130010, 0, 32⟩
def ERR_RSTAT_VALID : Fld := ⟨0x130014, 31, 1⟩
def ERR_RDATA_DATA (i : Nat) : Fld := ⟨0x130040 + 4 * i, 0, 32⟩
def GLB_STRAP_VSEL2 : Fld := ⟨0x20, 6, 1⟩
def GLB_STRAP_VSEL1 : Fld := ⟨0x20, 5, 1⟩
def GLB_STRAP_VSEL0 : Fld := ⟨0x20, 4, 1⟩
def GLB_STRAP_TEST_EN : Fld := ⟨0x20, 1, 1⟩
def GLB_STRAP_MASTER : Fld := ⟨0x20, 0, 1⟩

end F

namespace RegMap

/-- Register tables of GLB. -/
def glb0 : List RegDef := [
  ⟨"GLB.ID", 0x0, 4, 1, false,
    [⟨"PART", 16, 16, .ro, .const 12896, .any⟩,
     ⟨"STEP", 8, 8, .ro, .const 66, .any⟩,
     ⟨"REV", 0, 8, .ro, .const 0, .any⟩]⟩,
  ⟨"GLB.RSTCTL", 0x10, 4, 1, false,
    [⟨"KEY", 16, 16, .wo, .const 0, .any⟩,
     ⟨"DOM", 8, 4, .wo, .const 0, .any⟩,
     ⟨"KEEPTANK", 2, 1, .wo, .const 0, .any⟩,
     ⟨"ACT", 0, 2, .wo, .const 0, .any⟩]⟩,
  ⟨"GLB.WDOG", 0x14, 4, 1, false,
    [⟨"EN", 31, 1, .rw, .const 1, .any⟩,
     ⟨"KICK", 30, 1, .wo, .const 0, .any⟩,
     ⟨"PERIOD", 0, 16, .rw, .const 2000, .range 100 65535 100 65535⟩]⟩,
  ⟨"GLB.RSTCAUSE", 0x18, 4, 1, false,
    [⟨"READY", 31, 1, .ro, .const 0, .any⟩,
     ⟨"DROPPED", 24, 7, .rc, .const 0, .any⟩,
     ⟨"FAILTEST", 16, 8, .ro, .const 0, .any⟩,
     ⟨"RESCUE", 8, 1, .ro, .const 0, .any⟩,
     ⟨"IMGB", 7, 1, .ro, .const 0, .any⟩,
     ⟨"FIXPART", 6, 1, .ro, .const 0, .any⟩,
     ⟨"FIXDUMP", 5, 1, .ro, .const 0, .any⟩,
     ⟨"KEEPTANK", 4, 1, .ro, .const 0, .any⟩,
     ⟨"CASCADE", 3, 1, .ro, .const 0, .any⟩,
     ⟨"WDOG", 2, 1, .ro, .const 0, .any⟩,
     ⟨"WARM", 1, 1, .ro, .const 0, .any⟩,
     ⟨"POR", 0, 1, .ro, .const 1, .any⟩]⟩,
  ⟨"GLB.BOOTTIME", 0x1c, 4, 1, false,
    [⟨"TEST", 16, 16, .ro, .const 0, .any⟩,
     ⟨"PROMPT", 0, 16, .ro, .const 0, .any⟩]⟩,
  ⟨"GLB.STRAP", 0x20, 4, 1, false,
    [⟨"VSEL2", 6, 1, .ro, .const 0, .any⟩,
     ⟨"VSEL1", 5, 1, .ro, .const 0, .any⟩,
     ⟨"VSEL0", 4, 1, .ro, .const 0, .any⟩,
     ⟨"TEST_EN", 1, 1, .ro, .const 0, .any⟩,
     ⟨"MASTER", 0, 1, .ro, .const 0, .any⟩]⟩]

/-- Register tables of CLK. -/
def clk0 : List RegDef := [
  ⟨"CLK.STAT", 0x140000, 4, 1, false,
    [⟨"CKA_RUN", 8, 1, .ro, .const 0, .any⟩,
     ⟨"CKU_LOCK", 7, 1, .ro, .const 0, .any⟩,
     ⟨"CKX_LOCK", 6, 1, .ro, .const 0, .any⟩,
     ⟨"CKM_LOCK", 5, 1, .ro, .const 0, .any⟩,
     ⟨"CKWE_LOCK", 4, 1, .ro, .const 0, .any⟩,
     ⟨"CKWC_LOCK", 3, 1, .ro, .const 0, .any⟩,
     ⟨"CKE1_LOCK", 2, 1, .ro, .const 0, .any⟩,
     ⟨"CKE0_LOCK", 1, 1, .ro, .const 0, .any⟩,
     ⟨"CKP_LOCK", 0, 1, .ro, .const 0, .any⟩]⟩,
  ⟨"CLK.LOSS", 0x140004, 4, 1, false,
    [⟨"LOST", 0, 8, .w1c, .const 0, .any⟩]⟩]

/-- Register tables of PCL. -/
def pcl0 : List RegDef := [
  ⟨"PCL.UCFG0", 0x70000, 4, 1, false,
    [⟨"FLOW", 18, 1, .rw, .const 0, .any⟩,
     ⟨"EDIT", 17, 1, .rw, .const 1, .any⟩,
     ⟨"ECHO", 16, 1, .rw, .const 1, .any⟩,
     ⟨"DIV", 0, 16, .rw, .const 417, .range 16 65535 16 65535⟩]⟩,
  ⟨"PCL.UCFG1", 0x70004, 4, 1, false,
    [⟨"FLOW", 18, 1, .rw, .const 0, .any⟩,
     ⟨"EDIT", 17, 1, .rw, .const 0, .any⟩,
     ⟨"ECHO", 16, 1, .rw, .const 0, .any⟩,
     ⟨"DIV", 0, 16, .rw, .const 417, .range 16 65535 16 65535⟩]⟩,
  ⟨"PCL.TCPCFG", 0x70010, 4, 1, false,
    [⟨"EN", 31, 1, .rw, .const 0, .any⟩,
     ⟨"OPOK", 30, 1, .rw, .const 0, .any⟩,
     ⟨"IDLE", 16, 14, .rw, .const 600, .any⟩,
     ⟨"PORT", 0, 16, .rw, .const 4760, .any⟩]⟩,
  ⟨"PCL.SSTAT", 0x70020, 4, 6, false,
    [⟨"QUEUED", 9, 3, .ro, .const 0, .any⟩,
     ⟨"CRC", 8, 1, .ro, .const 0, .any⟩,
     ⟨"MLOCK", 7, 1, .ro, .const 0, .any⟩,
     ⟨"LEVEL", 5, 2, .ro, .const 0, .any⟩,
     ⟨"ECHO", 4, 1, .ro, .const 0, .any⟩,
     ⟨"EDIT", 3, 1, .ro, .const 0, .any⟩,
     ⟨"OPEN", 0, 1, .ro, .const 0, .any⟩]⟩,
  ⟨"PCL.ARB", 0x70040, 4, 1, false,
    [⟨"CONFL", 16, 16, .rc, .const 0, .any⟩,
     ⟨"PFLOST", 0, 16, .rc, .const 0, .any⟩]⟩]

/-- Register tables of HIF. -/
def hif0 : List RegDef := [
  ⟨"HIF.STAT", 0x10000, 4, 1, false,
    [⟨"LINKUP", 31, 1, .ro, .const 0, .any⟩,
     ⟨"SPEED", 28, 3, .ro, .const 0, .any⟩,
     ⟨"WIDTH", 24, 4, .ro, .const 0, .any⟩,
     ⟨"ARI", 23, 1, .ro, .const 0, .any⟩,
     ⟨"VFEN", 22, 1, .ro, .const 0, .any⟩,
     ⟨"NUMVF", 14, 8, .ro, .const 0, .any⟩]⟩,
  ⟨"HIF.CNT", 0x10004, 4, 1, false,
    [⟨"PARTIAL", 16, 16, .rc, .const 0, .any⟩,
     ⟨"CORR", 0, 16, .rc, .const 0, .any⟩]⟩]

/-- Register tables of ETH. -/
def eth0 : List RegDef := [
  ⟨"ETH.PCFG0", 0x60000, 4, 1, false,
    [⟨"EN", 31, 1, .rw, .const 1, .any⟩,
     ⟨"DRTEN", 30, 1, .rw, .const 0, .any⟩,
     ⟨"TCPEN", 29, 1, .rw, .const 0, .any⟩,
     ⟨"PCP", 26, 3, .rw, .const 0, .any⟩,
     ⟨"MTU", 12, 14, .rw, .const 1500, .range 576 9000 1500 1500⟩,
     ⟨"VID", 0, 12, .rw, .const 0, .range 0 4094 0 0⟩]⟩,
  ⟨"ETH.PCFG1", 0x60004, 4, 1, false,
    [⟨"EN", 31, 1, .rw, .const 1, .any⟩,
     ⟨"DRTEN", 30, 1, .rw, .const 0, .any⟩,
     ⟨"TCPEN", 29, 1, .rw, .const 0, .any⟩,
     ⟨"PCP", 26, 3, .rw, .const 0, .any⟩,
     ⟨"MTU", 12, 14, .rw, .const 1500, .range 576 9000 1500 1500⟩,
     ⟨"VID", 0, 12, .rw, .const 0, .range 0 4094 0 0⟩]⟩,
  ⟨"ETH.PSTAT", 0x60054, 4, 1, false,
    [⟨"UP1", 1, 1, .ro, .const 0, .any⟩,
     ⟨"UP0", 0, 1, .ro, .const 0, .any⟩]⟩,
  ⟨"ETH.IP0", 0x60008, 4, 1, false,
    [⟨"ADDR", 0, 32, .rw, .const 0, .any⟩]⟩,
  ⟨"ETH.IP1", 0x6000c, 4, 1, false,
    [⟨"ADDR", 0, 32, .rw, .const 0, .any⟩]⟩,
  ⟨"ETH.MAC0", 0x60010, 8, 1, true,
    [⟨"ADDR", 0, 48, .rw, .const 0, .any⟩]⟩,
  ⟨"ETH.MAC1", 0x60018, 8, 1, true,
    [⟨"ADDR", 0, 48, .rw, .const 0, .any⟩]⟩,
  ⟨"ETH.TCFG", 0x60060, 4, 1, false,
    [⟨"SRC", 31, 1, .rw, .const 0, .any⟩,
     ⟨"PRIO1", 0, 8, .rw, .const 255, .any⟩]⟩]

/-- Register tables of ETH. -/
def eth1 : List RegDef := [
  ⟨"ETH.TSTAT", 0x60064, 4, 1, false,
    [⟨"LOCKED", 31, 1, .ro, .const 0, .any⟩,
     ⟨"GM", 30, 1, .ro, .const 0, .any⟩,
     ⟨"SLVPORT", 29, 1, .ro, .const 0, .any⟩]⟩,
  ⟨"ETH.TOFS", 0x60068, 4, 1, false,
    [⟨"OFFSET", 0, 32, .ro, .const 0, .any⟩]⟩,
  ⟨"ETH.TIME", 0x60070, 8, 1, true,
    [⟨"NS", 0, 64, .ro, .const 0, .any⟩]⟩,
  ⟨"ETH.DRTCFG", 0x60020, 4, 1, false,
    [⟨"EN", 31, 1, .rw, .const 0, .any⟩,
     ⟨"WINMAX", 16, 9, .rw, .const 64, .range 1 256 64 64⟩,
     ⟨"PORT", 0, 16, .rw, .const 4761, .any⟩]⟩,
  ⟨"ETH.DRTIDLE", 0x60024, 4, 1, false,
    [⟨"IDLE", 0, 16, .rw, .const 10, .any⟩]⟩,
  ⟨"ETH.DRTTEN", 0x60030, 4, 8, false,
    [⟨"EN", 0, 32, .rw, .const 0, .any⟩]⟩,
  ⟨"ETH.DROP", 0x60050, 4, 1, false,
    [⟨"FULL", 24, 8, .rc, .const 0, .any⟩,
     ⟨"BAD", 16, 8, .rc, .const 0, .any⟩,
     ⟨"DUP", 8, 8, .rc, .const 0, .any⟩,
     ⟨"WIN", 4, 4, .rc, .const 0, .any⟩,
     ⟨"OTHER", 0, 4, .rc, .const 0, .any⟩]⟩]

/-- Register tables of QMG. -/
def qmg0 : List RegDef := [
  ⟨"QMG.QRING", 0x20000, 32, 1024, true,
    [⟨"ADDR", 12, 52, .rw, .const 0, .any⟩]⟩,
  ⟨"QMG.QCFG", 0x20008, 32, 1024, false,
    [⟨"VALID", 31, 1, .ro, .const 0, .any⟩,
     ⟨"DRT", 30, 1, .rw, .const 0, .any⟩,
     ⟨"SHORTTMO", 29, 1, .ro, .const 0, .any⟩,
     ⟨"SIZELOG", 24, 4, .rw, .const 8, .any⟩,
     ⟨"TIMEOUT", 8, 16, .rw, .const 30000, .any⟩,
     ⟨"TENANT", 0, 8, .rw, .const 0, .any⟩]⟩,
  ⟨"QMG.QCMD", 0x2000c, 32, 1024, false,
    [⟨"OP", 0, 2, .wo, .const 0, .any⟩]⟩,
  ⟨"QMG.QRES", 0x20010, 32, 1024, false,
    [⟨"DONE", 31, 1, .ro, .const 0, .any⟩,
     ⟨"CODE", 0, 10, .ro, .const 0, .any⟩]⟩,
  ⟨"QMG.QLVL0", 0x20014, 32, 1024, false,
    [⟨"ACC", 16, 16, .ro, .const 0, .any⟩,
     ⟨"SEC", 0, 16, .ro, .const 0, .any⟩]⟩,
  ⟨"QMG.QLVL1", 0x20018, 32, 1024, false,
    [⟨"DUR", 0, 16, .ro, .const 0, .any⟩]⟩,
  ⟨"QMG.FRES", 0x28000, 4, 1, false,
    [⟨"USED", 0, 22, .ro, .const 0, .any⟩]⟩,
  ⟨"QMG.FCAP", 0x28004, 4, 1, false,
    [⟨"CAP", 0, 22, .rw, .const 1048576, .range 0 3932096 0 3932096⟩]⟩]

/-- Register tables of QMG. -/
def qmg1 : List RegDef := [
  ⟨"QMG.STAT", 0x28008, 4, 1, false,
    [⟨"SECOK", 31, 1, .ro, .const 0, .any⟩,
     ⟨"QUEUES", 0, 11, .ro, .const 0, .any⟩]⟩,
  ⟨"QMG.TQUOTA", 0x28100, 4, 64, false,
    [⟨"Q3", 24, 8, .rw, .const 4, .range 0 64 0 64⟩,
     ⟨"Q2", 16, 8, .rw, .const 4, .range 0 64 0 64⟩,
     ⟨"Q1", 8, 8, .rw, .const 4, .range 0 64 0 64⟩,
     ⟨"Q0", 0, 8, .rw, .const 4, .range 0 64 0 64⟩]⟩]

/-- Register tables of SCH. -/
def sch0 : List RegDef := [
  ⟨"SCH.CFG", 0x40000, 4, 1, false,
    [⟨"STARVE", 0, 16, .rw, .const 500, .range 1 65535 500 65535⟩]⟩,
  ⟨"SCH.GCAP", 0x40004, 4, 1, false,
    [⟨"SUM", 8, 8, .ro, .const 0, .any⟩,
     ⟨"LIMIT", 0, 8, .rw, .const 200, .range 0 233 0 233⟩]⟩,
  ⟨"SCH.TRSV", 0x40008, 4, 1, false,
    [⟨"RSV", 0, 5, .rw, .const 4, .range 0 16 0 16⟩]⟩,
  ⟨"SCH.TSHARE", 0x40100, 4, 256, false,
    [⟨"CLASS", 28, 2, .rw, .const 1, .any⟩,
     ⟨"WEIGHT", 8, 8, .rw, .const 16, .range 1 255 1 255⟩,
     ⟨"RATE", 0, 8, .rw, .const 0, .any⟩]⟩,
  ⟨"SCH.TBAL", 0x40500, 4, 256, false,
    [⟨"BAL", 0, 32, .ro, .const 0, .any⟩]⟩]

/-- Register tables of INT. -/
def int0 : List RegDef := [
  ⟨"INT.PFEVT", 0x50000, 4, 1, false,
    [⟨"EN", 31, 1, .rw, .const 0, .any⟩,
     ⟨"VEC", 0, 6, .rw, .const 0, .any⟩]⟩,
  ⟨"INT.PFCAUSE", 0x50004, 4, 1, false,
    [⟨"CAUSE", 0, 9, .w1c, .const 0, .any⟩]⟩,
  ⟨"INT.STAT", 0x50008, 4, 1, false,
    [⟨"USED", 0, 12, .ro, .const 2048, .any⟩]⟩,
  ⟨"INT.TVEC", 0x50400, 4, 256, false,
    [⟨"BASE", 16, 11, .rw, .lin 8, .any⟩,
     ⟨"COUNT", 0, 7, .rw, .const 8, .range 0 64 0 64⟩]⟩,
  ⟨"INT.VCOAL", 0x51000, 4, 2048, false,
    [⟨"ABORTNOW", 31, 1, .rw, .const 1, .any⟩,
     ⟨"COUNT", 16, 8, .rw, .const 1, .range 1 255 1 255⟩,
     ⟨"TIME", 0, 16, .rw, .const 100, .range 1 65535 100 65535⟩]⟩,
  ⟨"INT.QVEC", 0x53000, 4, 1024, false,
    [⟨"VEC", 0, 6, .rw, .const 0, .any⟩]⟩,
  ⟨"INT.DNOTE", 0x54000, 4, 8, false,
    [⟨"EN", 0, 32, .rw, .const 0, .any⟩]⟩]

/-- Register tables of RDC. -/
def rdc0 : List RegDef := [
  ⟨"RDC.CFG", 0x80000, 4, 1, false,
    [⟨"BLKMAX", 16, 9, .rw, .const 256, .range 16 256 256 256⟩,
     ⟨"EN", 0, 4, .rw, .const 15, .any⟩]⟩,
  ⟨"RDC.STAT", 0x80004, 4, 1, false,
    [⟨"OK", 8, 4, .ro, .const 0, .any⟩,
     ⟨"BUSY", 4, 4, .ro, .const 0, .any⟩,
     ⟨"TEST", 0, 4, .ro, .const 0, .any⟩]⟩,
  ⟨"RDC.TMODE", 0x80010, 4, 16, false,
    [⟨"MODE0", 0, 2, .rw, .const 0, .any⟩,
     ⟨"MODE1", 2, 2, .rw, .const 0, .any⟩,
     ⟨"MODE2", 4, 2, .rw, .const 0, .any⟩,
     ⟨"MODE3", 6, 2, .rw, .const 0, .any⟩,
     ⟨"MODE4", 8, 2, .rw, .const 0, .any⟩,
     ⟨"MODE5", 10, 2, .rw, .const 0, .any⟩,
     ⟨"MODE6", 12, 2, .rw, .const 0, .any⟩,
     ⟨"MODE7", 14, 2, .rw, .const 0, .any⟩,
     ⟨"MODE8", 16, 2, .rw, .const 0, .any⟩,
     ⟨"MODE9", 18, 2, .rw, .const 0, .any⟩,
     ⟨"MODE10", 20, 2, .rw, .const 0, .any⟩,
     ⟨"MODE11", 22, 2, .rw, .const 0, .any⟩,
     ⟨"MODE12", 24, 2, .rw, .const 0, .any⟩,
     ⟨"MODE13", 26, 2, .rw, .const 0, .any⟩,
     ⟨"MODE14", 28, 2, .rw, .const 0, .any⟩,
     ⟨"MODE15", 30, 2, .rw, .const 0, .any⟩]⟩,
  ⟨"RDC.ECNT", 0x80050, 4, 4, false,
    [⟨"BLOCKS", 16, 16, .rc, .const 0, .any⟩,
     ⟨"STORED", 8, 8, .rc, .const 0, .any⟩,
     ⟨"MISMATCH", 0, 8, .rc, .const 0, .any⟩]⟩,
  ⟨"RDC.UBYTES", 0x80060, 8, 1, true,
    [⟨"COUNT", 0, 64, .ro, .const 0, .any⟩]⟩,
  ⟨"RDC.CBYTES", 0x80068, 8, 1, true,
    [⟨"COUNT", 0, 64, .ro, .const 0, .any⟩]⟩,
  ⟨"RDC.STEST", 0x80070, 4, 1, false,
    [⟨"RUN", 31, 1, .ro, .const 0, .any⟩,
     ⟨"PERIOD", 0, 16, .rw, .const 3600, .any⟩]⟩,
  ⟨"RDC.STRES", 0x80074, 4, 1, false,
    [⟨"ENLFAIL", 4, 4, .w1c, .const 0, .any⟩,
     ⟨"RDCFAIL", 0, 4, .w1c, .const 0, .any⟩]⟩]

/-- Register tables of ENL. -/
def enl0 : List RegDef := [
  ⟨"ENL.CFG", 0x88000, 4, 1, false,
    [⟨"EN", 0, 4, .rw, .const 15, .any⟩]⟩,
  ⟨"ENL.STAT", 0x88004, 4, 1, false,
    [⟨"OK", 8, 4, .ro, .const 0, .any⟩,
     ⟨"BUSY", 4, 4, .ro, .const 0, .any⟩,
     ⟨"TEST", 0, 4, .ro, .const 0, .any⟩]⟩,
  ⟨"ENL.ECNT", 0x88010, 4, 4, false,
    [⟨"BLOCKS", 16, 16, .rc, .const 0, .any⟩,
     ⟨"ERRORS", 0, 16, .rc, .const 0, .any⟩]⟩,
  ⟨"ENL.LASTERR", 0x88020, 4, 1, false,
    [⟨"ENGINE", 14, 2, .ro, .const 0, .any⟩,
     ⟨"CODE", 0, 10, .ro, .const 0, .any⟩]⟩]

/-- Register tables of TNK. -/
def tnk0 : List RegDef := [
  ⟨"TNK.STAT", 0x90000, 4, 1, false,
    [⟨"FREEPG", 16, 14, .ro, .const 0, .any⟩,
     ⟨"TESTRUN", 15, 1, .ro, .const 0, .any⟩,
     ⟨"TESTBANK", 8, 6, .ro, .const 0, .any⟩,
     ⟨"FENCED", 0, 7, .ro, .const 0, .any⟩]⟩,
  ⟨"TNK.FENCE", 0x90008, 8, 1, true,
    [⟨"BANKS", 0, 64, .ro, .const 0, .any⟩]⟩,
  ⟨"TNK.ELOG", 0x90010, 4, 1, false,
    [⟨"VALID", 31, 1, .w1c, .const 0, .any⟩,
     ⟨"UE", 30, 1, .ro, .const 0, .any⟩,
     ⟨"BANK", 24, 6, .ro, .const 0, .any⟩,
     ⟨"SRC", 21, 3, .ro, .const 0, .any⟩,
     ⟨"WORD", 0, 15, .ro, .const 0, .any⟩]⟩,
  ⟨"TNK.WADDR", 0x90020, 4, 1, false,
    [⟨"ADDR", 4, 21, .rw, .const 0, .any⟩]⟩,
  ⟨"TNK.WDATA", 0x90024, 4, 4, false,
    [⟨"DATA", 0, 32, .rw, .const 0, .any⟩]⟩,
  ⟨"TNK.CTRL", 0x90040, 4, 1, false,
    [⟨"AGE", 8, 8, .rw, .const 32, .range 8 255 8 255⟩,
     ⟨"WINEN", 1, 1, .rw, .const 0, .any⟩,
     ⟨"CELOG", 0, 1, .rw, .const 1, .any⟩]⟩,
  ⟨"TNK.TEST", 0x90044, 4, 1, false,
    [⟨"KEY", 16, 16, .wo, .const 0, .any⟩,
     ⟨"BANK", 0, 6, .wo, .const 0, .any⟩]⟩,
  ⟨"TNK.TRES", 0x90048, 4, 1, false,
    [⟨"DONE", 31, 1, .ro, .const 0, .any⟩,
     ⟨"FAIL", 30, 1, .ro, .const 0, .any⟩,
     ⟨"BANK", 24, 6, .ro, .const 0, .any⟩,
     ⟨"REPL", 16, 5, .ro, .const 0, .any⟩,
     ⟨"CODE", 0, 10, .ro, .const 0, .any⟩]⟩]

/-- Register tables of TNK. -/
def tnk1 : List RegDef := [
  ⟨"TNK.ECNT", 0x90100, 4, 64, false,
    [⟨"CE", 16, 16, .rc, .const 0, .any⟩,
     ⟨"UE", 8, 8, .rc, .const 0, .any⟩,
     ⟨"SPARES", 0, 5, .ro, .const 0, .any⟩]⟩]

/-- Register tables of SPD. -/
def spd0 : List RegDef := [
  ⟨"SPD.STAT", 0xa0000, 4, 1, false,
    [⟨"USED3", 12, 4, .ro, .const 0, .any⟩,
     ⟨"USED2", 8, 4, .ro, .const 0, .any⟩,
     ⟨"USED1", 4, 4, .ro, .const 0, .any⟩,
     ⟨"USED0", 0, 4, .ro, .const 0, .any⟩]⟩,
  ⟨"SPD.ECNT", 0xa0004, 4, 1, false,
    [⟨"CE", 16, 16, .rc, .const 0, .any⟩,
     ⟨"UE", 0, 16, .rc, .const 0, .any⟩]⟩,
  ⟨"SPD.ELOG", 0xa0008, 4, 1, false,
    [⟨"VALID", 31, 1, .w1c, .const 0, .any⟩,
     ⟨"UE", 30, 1, .ro, .const 0, .any⟩,
     ⟨"FETCH", 29, 1, .ro, .const 0, .any⟩,
     ⟨"BANK", 14, 2, .ro, .const 0, .any⟩,
     ⟨"WORD", 0, 14, .ro, .const 0, .any⟩]⟩,
  ⟨"SPD.RMADD", 0xa000c, 4, 1, false,
    [⟨"BANK", 14, 2, .wo, .const 0, .any⟩,
     ⟨"WORD", 0, 14, .wo, .const 0, .any⟩]⟩,
  ⟨"SPD.RMAP", 0xa0040, 4, 32, false,
    [⟨"VALID", 31, 1, .ro, .const 0, .any⟩,
     ⟨"FUSED", 30, 1, .ro, .const 0, .any⟩,
     ⟨"WORD", 0, 14, .ro, .const 0, .any⟩]⟩]

/-- Register tables of FIX. -/
def fix0 : List RegDef := [
  ⟨"FIX.STAT", 0xb0000, 4, 1, false,
    [⟨"STATE", 30, 2, .ro, .const 0, .any⟩,
     ⟨"BUSY", 29, 1, .ro, .const 0, .any⟩,
     ⟨"RATEOK", 28, 1, .ro, .const 0, .any⟩,
     ⟨"RATE", 0, 16, .ro, .const 0, .any⟩]⟩,
  ⟨"FIX.RLIM", 0xb0004, 4, 1, false,
    [⟨"LIM", 0, 22, .ro, .const 3932160, .any⟩]⟩,
  ⟨"FIX.ECNT", 0xb0008, 4, 1, false,
    [⟨"CE", 16, 16, .rc, .const 0, .any⟩,
     ⟨"UE", 0, 16, .rc, .const 0, .any⟩]⟩,
  ⟨"FIX.DUMPS", 0xb000c, 4, 1, false,
    [⟨"COUNT", 0, 32, .ro, .const 0, .any⟩]⟩,
  ⟨"FIX.WEAR", 0xb0010, 4, 1, false,
    [⟨"WRITES", 0, 32, .ro, .const 0, .any⟩]⟩]

/-- Register tables of FMT. -/
def fmt0 : List RegDef := [
  ⟨"FMT.CFG", 0xc0000, 4, 1, false,
    [⟨"C3DEF", 31, 1, .rw, .const 1, .any⟩]⟩,
  ⟨"FMT.STAT", 0xc0004, 4, 1, false,
    [⟨"STREAM", 31, 1, .ro, .const 0, .any⟩,
     ⟨"GROUP", 30, 1, .ro, .const 0, .any⟩,
     ⟨"NSUB", 22, 6, .ro, .const 0, .any⟩,
     ⟨"POS", 18, 4, .ro, .const 0, .any⟩,
     ⟨"POOL", 0, 7, .ro, .const 0, .any⟩]⟩,
  ⟨"FMT.DS", 0xc0008, 4, 1, false,
    [⟨"DSNUM", 0, 32, .ro, .const 0, .any⟩]⟩,
  ⟨"FMT.CNT", 0xc000c, 4, 1, false,
    [⟨"REWRITES", 16, 16, .rc, .const 0, .any⟩,
     ⟨"ABANDON", 8, 8, .rc, .const 0, .any⟩]⟩]

/-- Register tables of DFM. -/
def dfm0 : List RegDef := [
  ⟨"DFM.CNT0", 0xc0100, 4, 1, false,
    [⟨"C1FAIL", 16, 16, .rc, .const 0, .any⟩,
     ⟨"C2FAIL", 0, 16, .rc, .const 0, .any⟩]⟩,
  ⟨"DFM.CNT1", 0xc0104, 4, 1, false,
    [⟨"C3REB", 16, 16, .rc, .const 0, .any⟩,
     ⟨"UNREC", 0, 16, .rc, .const 0, .any⟩]⟩]

/-- Register tables of SEC. -/
def sec0 : List RegDef := [
  ⟨"SEC.CFG", 0xc0200, 4, 1, false,
    [⟨"UNSEALOK", 1, 1, .rw, .const 0, .any⟩,
     ⟨"REQKEY", 0, 1, .rw, .const 0, .any⟩]⟩,
  ⟨"SEC.CSEL", 0xc0204, 4, 1, false,
    [⟨"TENANT", 0, 8, .rw, .const 0, .any⟩]⟩,
  ⟨"SEC.CLINK", 0xc0208, 4, 1, false,
    [⟨"LINKNO", 0, 32, .ro, .const 4294967295, .any⟩]⟩,
  ⟨"SEC.CDS", 0xc020c, 4, 1, false,
    [⟨"DSNUM", 0, 32, .ro, .const 4294967295, .any⟩]⟩,
  ⟨"SEC.CMAC", 0xc0210, 4, 8, false,
    [⟨"MAC", 0, 32, .ro, .const 0, .any⟩]⟩,
  ⟨"SEC.CNT", 0xc0230, 4, 1, false,
    [⟨"SEALFAIL", 16, 16, .rc, .const 0, .any⟩,
     ⟨"GCMFAIL", 0, 16, .rc, .const 0, .any⟩]⟩]

/-- Register tables of RCH. -/
def rch0 : List RegDef := [
  ⟨"RCH.CFG", 0xd0000, 4, 1, false,
    [⟨"HOLD", 16, 8, .rw, .const 16, .any⟩,
     ⟨"AGCTGT", 8, 8, .rw, .const 96, .range 32 120 96 96⟩,
     ⟨"ADAPT", 0, 1, .rw, .const 1, .any⟩]⟩,
  ⟨"RCH.ZCFG0", 0xd0004, 4, 1, false,
    [⟨"TARGET", 31, 1, .rw, .const 1, .any⟩,
     ⟨"CUTOFF", 16, 4, .rw, .const 7, .any⟩,
     ⟨"BOOST", 8, 4, .rw, .const 6, .range 0 12 0 12⟩,
     ⟨"MU", 0, 4, .rw, .const 4, .any⟩]⟩,
  ⟨"RCH.ZCFG1", 0xd0008, 4, 1, false,
    [⟨"TARGET", 31, 1, .rw, .const 1, .any⟩,
     ⟨"CUTOFF", 16, 4, .rw, .const 6, .any⟩,
     ⟨"BOOST", 8, 4, .rw, .const 5, .range 0 12 0 12⟩,
     ⟨"MU", 0, 4, .rw, .const 4, .any⟩]⟩,
  ⟨"RCH.DEF", 0xd000c, 4, 1, false,
    [⟨"DROP", 24, 8, .rw, .const 50, .resetIfOut 10 90⟩,
     ⟨"TA", 16, 8, .rw, .const 175, .resetIfOut 110 250⟩,
     ⟨"DMIN", 8, 8, .rw, .const 8, .resetIfOut 4 16⟩,
     ⟨"EXT", 0, 8, .rw, .const 16, .resetIfOut 0 48⟩]⟩,
  ⟨"RCH.RETRY", 0xd0010, 4, 1, false,
    [⟨"STEPS", 16, 8, .rw, .const 255, .any⟩,
     ⟨"SLOW", 8, 4, .rw, .const 6, .resetIfOut 1 12⟩,
     ⟨"OFFS", 0, 6, .rw, .const 8, .resetIfOut 1 32⟩]⟩,
  ⟨"RCH.LPCFG", 0xd0020, 4, 1, false,
    [⟨"ARM", 31, 1, .wo, .const 0, .any⟩,
     ⟨"FIRE", 30, 1, .wo, .const 0, .any⟩,
     ⟨"SRC", 28, 2, .rw, .const 0, .range 0 2 0 0⟩,
     ⟨"TRIG", 24, 4, .rw, .const 0, .any⟩,
     ⟨"INPUT", 16, 6, .rw, .const 0, .any⟩,
     ⟨"PRE", 0, 15, .rw, .const 0, .any⟩]⟩,
  ⟨"RCH.LPSTAT", 0xd0024, 4, 1, false,
    [⟨"ARMED", 31, 1, .ro, .const 0, .any⟩,
     ⟨"DONE", 30, 1, .ro, .const 0, .any⟩,
     ⟨"TRIGPOS", 0, 15, .ro, .const 0, .any⟩]⟩,
  ⟨"RCH.LPADDR", 0xd0028, 4, 1, false,
    [⟨"WORD", 0, 13, .rw, .const 0, .any⟩]⟩]

/-- Register tables of RCH. -/
def rch1 : List RegDef := [
  ⟨"RCH.LPDATA", 0xd002c, 4, 1, false,
    [⟨"SAMPLES", 0, 32, .ro, .const 0, .any⟩]⟩,
  ⟨"RCH.ISTAT", 0xd0100, 4, 36, false,
    [⟨"ON", 31, 1, .ro, .const 0, .any⟩,
     ⟨"LOCK", 30, 1, .ro, .const 0, .any⟩,
     ⟨"DEF", 29, 1, .ro, .const 0, .any⟩,
     ⟨"MSE", 16, 8, .ro, .const 0, .any⟩,
     ⟨"GAIN", 8, 8, .ro, .const 0, .any⟩]⟩,
  ⟨"RCH.ICNT", 0xd0200, 4, 36, false,
    [⟨"DEF", 16, 16, .rc, .const 0, .any⟩,
     ⟨"LOL", 0, 16, .rc, .const 0, .any⟩]⟩]

/-- Register tables of PRF. -/
def prf0 : List RegDef := [
  ⟨"PRF.CFG", 0xd8000, 4, 1, false,
    [⟨"STRICT", 16, 1, .rw, .const 1, .any⟩,
     ⟨"RUN", 8, 8, .rw, .const 12, .range 0 48 0 48⟩,
     ⟨"THRE", 4, 4, .rw, .const 6, .range 0 12 0 12⟩,
     ⟨"THRC", 0, 4, .rw, .const 6, .range 0 12 0 12⟩]⟩,
  ⟨"PRF.STAT", 0xd8004, 4, 1, false,
    [⟨"BAD", 31, 1, .ro, .const 0, .any⟩,
     ⟨"TESTRUN", 30, 1, .ro, .const 0, .any⟩,
     ⟨"LASTREASON", 16, 3, .ro, .const 0, .any⟩,
     ⟨"LASTCH", 12, 4, .ro, .const 0, .any⟩,
     ⟨"LASTSLOT", 0, 12, .ro, .const 0, .any⟩]⟩,
  ⟨"PRF.VCNT", 0xd8010, 4, 16, false,
    [⟨"FRAMES", 16, 16, .rc, .const 0, .any⟩,
     ⟨"FAILS", 0, 16, .rc, .const 0, .any⟩]⟩,
  ⟨"PRF.TRES", 0xd8050, 4, 1, false,
    [⟨"DONE", 31, 1, .ro, .const 0, .any⟩,
     ⟨"FAIL", 30, 1, .ro, .const 0, .any⟩,
     ⟨"ABORT", 29, 1, .ro, .const 0, .any⟩,
     ⟨"CH", 16, 4, .ro, .const 0, .any⟩,
     ⟨"CODE", 0, 10, .ro, .const 0, .any⟩]⟩]

/-- Register tables of SRV. -/
def srv0 : List RegDef := [
  ⟨"SRV.CFG", 0xe0000, 4, 1, false,
    [⟨"LOSTN", 24, 8, .rw, .const 16, .range 1 255 16 255⟩,
     ⟨"DISAGREE", 16, 8, .rw, .const 18, .resetIfOut 8 64⟩,
     ⟨"WINH", 8, 8, .rw, .const 13, .resetIfOut 4 32⟩,
     ⟨"SETTLE", 0, 8, .rw, .const 6, .resetIfOut 1 32⟩]⟩,
  ⟨"SRV.STAT", 0xe0004, 4, 1, false,
    [⟨"STATE", 29, 3, .ro, .const 0, .any⟩,
     ⟨"DIR", 28, 1, .ro, .const 0, .any⟩,
     ⟨"LPWOK", 27, 1, .ro, .const 0, .any⟩,
     ⟨"V0", 26, 1, .ro, .const 0, .any⟩,
     ⟨"V1", 25, 1, .ro, .const 0, .any⟩,
     ⟨"MODB", 24, 1, .ro, .const 0, .any⟩,
     ⟨"BAND", 20, 2, .ro, .const 0, .any⟩,
     ⟨"WRAP", 14, 6, .ro, .const 0, .any⟩,
     ⟨"WINHIB", 11, 1, .ro, .const 0, .any⟩]⟩,
  ⟨"SRV.LPW", 0xe0008, 4, 1, false,
    [⟨"LPW", 0, 32, .ro, .const 0, .any⟩]⟩,
  ⟨"SRV.LPE", 0xe000c, 4, 1, false,
    [⟨"LPE", 0, 16, .ro, .const 0, .any⟩]⟩,
  ⟨"SRV.SPD", 0xe0010, 4, 1, false,
    [⟨"AUTO", 31, 1, .rw, .const 1, .any⟩,
     ⟨"PACK", 30, 1, .ro, .const 0, .any⟩,
     ⟨"STEP", 24, 4, .rw, .const 12, .range 1 12 12 12⟩,
     ⟨"CUR", 20, 4, .ro, .const 0, .any⟩,
     ⟨"TARGET", 16, 4, .ro, .const 0, .any⟩,
     ⟨"MMS", 0, 16, .ro, .const 0, .any⟩]⟩,
  ⟨"SRV.MATCH", 0xe0014, 4, 1, false,
    [⟨"MARGIN", 24, 8, .rw, .const 10, .resetIfOut 0 50⟩,
     ⟨"DOWNHOLD", 16, 8, .rw, .const 20, .resetIfOut 1 255⟩,
     ⟨"TDRAIN", 8, 8, .rw, .const 4, .resetIfOut 1 60⟩,
     ⟨"GAPMAX", 0, 8, .rw, .const 20, .resetIfOut 1 255⟩]⟩,
  ⟨"SRV.PACK", 0xe0018, 4, 1, false,
    [⟨"EN", 31, 1, .rw, .const 1, .any⟩,
     ⟨"WAIT", 0, 16, .rw, .const 2000, .range 1 65535 2000 65535⟩]⟩,
  ⟨"SRV.CNT", 0xe0020, 4, 1, false,
    [⟨"BACKHITCH", 24, 8, .rc, .const 0, .any⟩,
     ⟨"WINHIB", 16, 8, .rc, .const 0, .any⟩,
     ⟨"LPWERR", 8, 8, .rc, .const 0, .any⟩,
     ⟨"LOST", 0, 8, .rc, .const 0, .any⟩]⟩]

/-- Register tables of MDR. -/
def mdr0 : List RegDef := [
  ⟨"MDR.ACFG", 0xf0000, 256, 3, false,
    [⟨"OCLIM", 24, 8, .rw, .const 120, .resetIfOut 8 127⟩,
     ⟨"DIRINV", 22, 1, .rw, .const 0, .any⟩,
     ⟨"POLES", 16, 5, .rw, .const 4, .resetIfOut 1 16⟩,
     ⟨"LEB", 8, 8, .rw, .const 25, .resetIfOut 0 100⟩,
     ⟨"DT", 0, 8, .rw, .const 50, .resetIfOut 10 200⟩]⟩,
  ⟨"MDR.ARATE", 0xf0004, 256, 3, false,
    [⟨"RATED", 16, 16, .rw, .table [2400, 2400, 6000], .any⟩,
     ⟨"ISCALE", 0, 16, .rw, .const 2560, .any⟩]⟩,
  ⟨"MDR.ASTAT", 0xf0008, 256, 3, false,
    [⟨"MODE", 29, 3, .ro, .const 0, .any⟩,
     ⟨"OBSOK", 28, 1, .ro, .const 0, .any⟩,
     ⟨"MODLIM", 27, 1, .ro, .const 0, .any⟩,
     ⟨"RPM", 0, 16, .ro, .const 0, .any⟩]⟩,
  ⟨"MDR.AIOFS", 0xf000c, 256, 3, false,
    [⟨"OFSV", 16, 12, .ro, .const 0, .any⟩,
     ⟨"OFSU", 0, 12, .ro, .const 0, .any⟩]⟩,
  ⟨"MDR.ACNT", 0xf0010, 256, 3, false,
    [⟨"MODLIM", 16, 16, .rc, .const 0, .any⟩,
     ⟨"TRIPS", 8, 8, .rc, .const 0, .any⟩,
     ⟨"FLYFAIL", 4, 4, .rc, .const 0, .any⟩,
     ⟨"LATE", 0, 4, .rc, .const 0, .any⟩]⟩,
  ⟨"MDR.ASTART", 0xf0014, 256, 3, false,
    [⟨"ALIGNI", 24, 8, .rw, .const 40, .resetIfOut 1 127⟩,
     ⟨"ALIGNT", 16, 8, .rw, .const 100, .resetIfOut 10 255⟩,
     ⟨"BRKLIM", 8, 8, .rw, .const 60, .resetIfOut 1 127⟩]⟩,
  ⟨"MDR.HCFG", 0xf0300, 4, 1, false,
    [⟨"OCLIM", 24, 8, .rw, .const 64, .resetIfOut 8 127⟩,
     ⟨"LEB", 8, 8, .rw, .const 25, .resetIfOut 0 100⟩,
     ⟨"DT", 0, 8, .rw, .const 20, .resetIfOut 10 200⟩]⟩,
  ⟨"MDR.HSCALE", 0xf0304, 4, 1, false,
    [⟨"ISCALE", 0, 16, .rw, .const 256, .any⟩]⟩]

/-- Register tables of MDR. -/
def mdr1 : List RegDef := [
  ⟨"MDR.TRIP", 0xf0800, 4, 1, false,
    [⟨"ACTIVE", 16, 4, .ro, .const 0, .any⟩,
     ⟨"CAUSE", 8, 8, .ro, .const 0, .any⟩,
     ⟨"LATCHED", 0, 4, .ro, .const 0, .any⟩]⟩,
  ⟨"MDR.TRIPCLR", 0xf0804, 4, 1, false,
    [⟨"UNITS", 0, 4, .wo, .const 0, .any⟩]⟩,
  ⟨"MDR.FANCFG", 0xf0810, 4, 1, false,
    [⟨"AUTO", 31, 1, .rw, .const 1, .any⟩,
     ⟨"HYST", 16, 8, .rw, .const 5, .resetIfOut 1 30⟩,
     ⟨"MANUAL", 0, 8, .rw, .const 0, .resetIfOut 0 100⟩]⟩,
  ⟨"MDR.MEAS", 0xf0818, 4, 1, false,
    [⟨"VBUS", 16, 16, .ro, .const 0, .any⟩,
     ⟨"DIE", 8, 8, .ro, .const 0, .any⟩,
     ⟨"EXT", 0, 8, .ro, .const 0, .any⟩]⟩,
  ⟨"MDR.FANPT", 0xf0820, 4, 8, false,
    [⟨"TEMP", 8, 8, .rw, .table [45, 55, 65, 75, 85, 95, 105, 115], .temperature⟩,
     ⟨"SPD", 0, 8, .rw, .table [30, 40, 55, 70, 85, 100, 100, 100], .resetIfOut 0 100⟩]⟩]

/-- Register tables of CLE. -/
def cle0 : List RegDef := [
  ⟨"CLE.STAT", 0x100000, 4, 1, false,
    [⟨"ACCFAIL", 31, 1, .ro, .const 0, .any⟩,
     ⟨"FB", 9, 9, .ro, .const 0, .any⟩,
     ⟨"FLAG", 0, 9, .ro, .const 0, .any⟩]⟩,
  ⟨"CLE.TSET", 0x100004, 4, 1, false,
    [⟨"MN", 0, 16, .rw, .const 800, .range 100 5000 800 800⟩]⟩,
  ⟨"CLE.TENS", 0x100008, 4, 1, false,
    [⟨"MN", 0, 16, .ro, .const 0, .any⟩]⟩,
  ⟨"CLE.RADIUS", 0x10000c, 4, 1, false,
    [⟨"RS", 16, 16, .rw, .const 15000, .any⟩,
     ⟨"RT", 0, 16, .rw, .const 15000, .any⟩]⟩,
  ⟨"CLE.ACFG", 0x100010, 4, 1, false,
    [⟨"EN", 31, 1, .rw, .const 0, .any⟩,
     ⟨"LE", 16, 1, .rw, .const 1, .any⟩,
     ⟨"CMD", 8, 8, .rw, .const 0, .any⟩,
     ⟨"DIV", 0, 4, .rw, .const 4, .range 4 15 4 15⟩]⟩,
  ⟨"CLE.ACCST", 0x100014, 4, 1, false,
    [⟨"FAIL", 31, 1, .ro, .const 0, .any⟩,
     ⟨"BAD", 0, 16, .rc, .const 0, .any⟩]⟩,
  ⟨"CLE.ACCXY", 0x100018, 4, 1, false,
    [⟨"Y", 16, 16, .ro, .const 0, .any⟩,
     ⟨"X", 0, 16, .ro, .const 0, .any⟩]⟩,
  ⟨"CLE.ACCZ", 0x10001c, 4, 1, false,
    [⟨"Z", 0, 16, .ro, .const 0, .any⟩]⟩]

/-- Register tables of CLE. -/
def cle1 : List RegDef := [
  ⟨"CLE.RCCTL", 0x100020, 4, 1, false,
    [⟨"CLEAR", 2, 1, .wo, .const 0, .any⟩,
     ⟨"APPLY", 1, 1, .rw, .const 1, .any⟩,
     ⟨"LEARN", 0, 1, .rw, .const 1, .any⟩]⟩,
  ⟨"CLE.RCPEAK", 0x100024, 4, 1, false,
    [⟨"SUP", 16, 16, .ro, .const 0, .any⟩,
     ⟨"TKU", 0, 16, .ro, .const 0, .any⟩]⟩,
  ⟨"CLE.LCTL", 0x100100, 32, 9, false,
    [⟨"MODE", 31, 1, .rw, .const 0, .any⟩,
     ⟨"BANK", 0, 2, .rw, .const 0, .any⟩]⟩,
  ⟨"CLE.LSTAT", 0x100104, 32, 9, false,
    [⟨"ACTIVE", 30, 2, .ro, .const 0, .any⟩,
     ⟨"PENDING", 29, 1, .ro, .const 0, .any⟩,
     ⟨"FALLBACK", 28, 1, .ro, .const 0, .any⟩,
     ⟨"RUN", 27, 1, .ro, .const 0, .any⟩,
     ⟨"OPEN", 26, 1, .ro, .const 0, .any⟩,
     ⟨"FLAGS", 0, 5, .w1c, .const 0, .any⟩]⟩,
  ⟨"CLE.LMAN", 0x100108, 32, 9, false,
    [⟨"VALUE", 0, 32, .rw, .const 0, .any⟩]⟩,
  ⟨"CLE.LERR", 0x10010c, 32, 9, false,
    [⟨"VALUE", 0, 32, .ro, .const 0, .any⟩]⟩,
  ⟨"CLE.LOUT", 0x100110, 32, 9, false,
    [⟨"VALUE", 0, 32, .ro, .const 0, .any⟩]⟩,
  ⟨"CLE.LINT", 0x100114, 32, 9, false,
    [⟨"VALUE", 0, 32, .ro, .const 0, .any⟩]⟩]

/-- Register tables of CLE. -/
def cle2 : List RegDef := [
  ⟨"CLE.ODET", 0x100118, 32, 9, false,
    [⟨"FSH", 28, 4, .rw, .table [8, 8, 8, 8, 0, 12, 12, 8, 12], .any⟩,
     ⟨"FLOOR", 16, 12, .rw, .table [40, 40, 40, 40, 64, 16, 16, 51, 16], .any⟩,
     ⟨"COUNT", 10, 6, .rw, .table [40, 40, 40, 40, 12, 10, 10, 8, 6], .any⟩,
     ⟨"WINDOW", 0, 10, .rw, .table [1000, 1000, 1000, 1000, 250, 500, 500, 500, 300], .range 16 1023 16 1023⟩]⟩,
  ⟨"CLE.COEFA_V", 0x104000, 8, 288, false,
    [⟨"VALUE", 0, 32, .rw, .const 0, .any⟩]⟩,
  ⟨"CLE.COEFA_S", 0x104004, 8, 288, false,
    [⟨"SHIFT", 0, 5, .rw, .const 0, .any⟩]⟩,
  ⟨"CLE.COEFB_V", 0x105000, 8, 288, false,
    [⟨"VALUE", 0, 32, .rw, .const 0, .any⟩]⟩,
  ⟨"CLE.COEFB_S", 0x105004, 8, 288, false,
    [⟨"SHIFT", 0, 5, .rw, .const 0, .any⟩]⟩,
  ⟨"CLE.COEFROM_V", 0x106000, 8, 288, false,
    [⟨"VALUE", 0, 32, .ro, .const 0, .any⟩]⟩,
  ⟨"CLE.COEFROM_S", 0x106004, 8, 288, false,
    [⟨"SHIFT", 0, 5, .ro, .const 0, .any⟩]⟩]

/-- Register tables of PWR. -/
def pwr0 : List RegDef := [
  ⟨"PWR.CTL", 0x110000, 4, 1, false,
    [⟨"KEY", 16, 16, .wo, .const 0, .any⟩,
     ⟨"TARGET", 0, 3, .wo, .const 0, .any⟩]⟩,
  ⟨"PWR.STAT", 0x110004, 4, 1, false,
    [⟨"STATE", 29, 3, .ro, .const 0, .any⟩,
     ⟨"BUSY", 28, 1, .ro, .const 0, .any⟩,
     ⟨"LASTRES", 26, 2, .ro, .const 0, .any⟩,
     ⟨"AP", 24, 2, .ro, .const 0, .any⟩,
     ⟨"BLOCK", 19, 5, .ro, .const 0, .any⟩,
     ⟨"DOMAINS", 0, 10, .ro, .const 1023, .any⟩]⟩,
  ⟨"PWR.WAKEEN", 0x110008, 4, 1, false,
    [⟨"EN", 0, 7, .rw, .const 127, .any⟩]⟩,
  ⟨"PWR.WSTAT", 0x11000c, 4, 1, false,
    [⟨"VALID", 31, 1, .w1c, .const 0, .any⟩,
     ⟨"FROM", 8, 3, .ro, .const 0, .any⟩,
     ⟨"SRC", 0, 7, .ro, .const 0, .any⟩]⟩,
  ⟨"PWR.IGN", 0x110010, 4, 1, false,
    [⟨"AUTO", 31, 1, .rw, .const 0, .any⟩,
     ⟨"UNLOAD", 30, 1, .rw, .const 0, .any⟩,
     ⟨"LEVEL", 29, 1, .ro, .const 0, .any⟩,
     ⟨"TARGET", 24, 3, .rw, .const 4, .range 1 5 4 4⟩,
     ⟨"DRAINMAX", 12, 12, .rw, .const 600, .resetIfOut 1 4095⟩,
     ⟨"HOLD", 0, 12, .rw, .const 300, .resetIfOut 1 4095⟩]⟩,
  ⟨"PWR.PFCFG", 0x110014, 4, 1, false,
    [⟨"BRAKE", 0, 1, .rw, .const 0, .any⟩]⟩,
  ⟨"PWR.PFSTAT", 0x110018, 4, 1, false,
    [⟨"PFAIL", 31, 1, .ro, .const 0, .any⟩,
     ⟨"HOLDUP", 30, 1, .ro, .const 0, .any⟩,
     ⟨"SEEN", 29, 1, .w1c, .const 0, .any⟩,
     ⟨"LASTMS", 0, 16, .ro, .const 0, .any⟩]⟩,
  ⟨"PWR.SLADDR", 0x110020, 4, 1, false,
    [⟨"WORD", 0, 12, .rw, .const 0, .any⟩]⟩]

/-- Register tables of PWR. -/
def pwr1 : List RegDef := [
  ⟨"PWR.SLDATA", 0x110024, 4, 1, false,
    [⟨"DATA", 0, 32, .rw, .const 0, .any⟩]⟩]

/-- Register tables of AON. -/
def aon0 : List RegDef := [
  ⟨"AON.RTCSEC", 0x118000, 4, 1, false,
    [⟨"SEC", 0, 32, .rw, .const 0, .any⟩]⟩,
  ⟨"AON.RTCALM", 0x118004, 4, 1, false,
    [⟨"SEC", 0, 32, .rw, .const 0, .any⟩]⟩]

/-- Register tables of XLK. -/
def xlk0 : List RegDef := [
  ⟨"XLK.CFG", 0x120000, 4, 1, false,
    [⟨"AUTOSWEEP", 31, 1, .rw, .const 1, .any⟩,
     ⟨"TIMEEN", 30, 1, .rw, .const 1, .any⟩,
     ⟨"CTMO", 0, 16, .rw, .const 200, .range 1 65535 200 65535⟩]⟩,
  ⟨"XLK.STAT", 0x120004, 4, 1, false,
    [⟨"MASTER", 31, 1, .ro, .const 0, .any⟩,
     ⟨"IDVALID", 30, 1, .ro, .const 0, .any⟩,
     ⟨"STALE", 29, 1, .ro, .const 0, .any⟩,
     ⟨"SWEEP", 28, 1, .ro, .const 0, .any⟩,
     ⟨"DEPTH", 22, 6, .ro, .const 0, .any⟩,
     ⟨"NODE", 0, 16, .ro, .const 0, .any⟩]⟩,
  ⟨"XLK.PSTAT", 0x120010, 4, 4, false,
    [⟨"STATE", 30, 2, .ro, .const 0, .any⟩,
     ⟨"REASON", 27, 3, .ro, .const 0, .any⟩,
     ⟨"HOPDLY", 0, 16, .ro, .const 0, .any⟩]⟩,
  ⟨"XLK.PCNT", 0x120020, 4, 4, false,
    [⟨"RETRY", 24, 8, .rc, .const 0, .any⟩,
     ⟨"CRCERR", 16, 8, .rc, .const 0, .any⟩,
     ⟨"DOWNS", 8, 8, .rc, .const 0, .any⟩,
     ⟨"EPOCHDROP", 0, 8, .rc, .const 0, .any⟩]⟩,
  ⟨"XLK.RANGE", 0x120030, 4, 3, false,
    [⟨"LAST", 16, 16, .ro, .const 0, .any⟩,
     ⟨"FIRST", 0, 16, .ro, .const 0, .any⟩]⟩,
  ⟨"XLK.CENS", 0x120040, 8, 1, true,
    [⟨"STALE", 32, 17, .ro, .const 0, .any⟩,
     ⟨"NODES", 0, 17, .ro, .const 0, .any⟩]⟩,
  ⟨"XLK.CTIME", 0x120048, 8, 1, true,
    [⟨"T", 0, 64, .ro, .const 0, .any⟩]⟩,
  ⟨"XLK.CTADDR", 0x120050, 4, 1, false,
    [⟨"ID", 0, 16, .rw, .const 0, .any⟩]⟩]

/-- Register tables of XLK. -/
def xlk1 : List RegDef := [
  ⟨"XLK.CTDATA", 0x120054, 4, 4, false,
    [⟨"DATA", 0, 32, .ro, .const 0, .any⟩]⟩,
  ⟨"XLK.CCMD", 0x120070, 4, 1, false,
    [⟨"GO", 31, 1, .wo, .const 0, .any⟩,
     ⟨"OP", 16, 8, .rw, .const 0, .any⟩,
     ⟨"DST", 0, 16, .rw, .const 0, .any⟩]⟩,
  ⟨"XLK.CARG", 0x120074, 4, 2, false,
    [⟨"ARG", 0, 32, .rw, .const 0, .any⟩]⟩,
  ⟨"XLK.CRES", 0x12007c, 4, 1, false,
    [⟨"DONE", 31, 1, .ro, .const 0, .any⟩,
     ⟨"BUSY", 30, 1, .ro, .const 0, .any⟩,
     ⟨"RESULT", 16, 2, .ro, .const 0, .any⟩,
     ⟨"STATUS", 0, 10, .ro, .const 0, .any⟩]⟩,
  ⟨"XLK.CRDATA", 0x120080, 4, 1, false,
    [⟨"DATA", 0, 32, .ro, .const 0, .any⟩]⟩,
  ⟨"XLK.WAKE", 0x120084, 4, 1, false,
    [⟨"PORTS", 0, 3, .wo, .const 0, .any⟩]⟩,
  ⟨"XLK.LEND", 0x120090, 4, 1, false,
    [⟨"EN", 31, 1, .rw, .const 0, .any⟩,
     ⟨"USED", 8, 5, .ro, .const 0, .any⟩,
     ⟨"MAX", 0, 5, .rw, .const 4, .range 0 16 0 16⟩]⟩,
  ⟨"XLK.BORROW", 0x120094, 4, 1, false,
    [⟨"EN", 31, 1, .rw, .const 0, .any⟩,
     ⟨"USED", 8, 5, .ro, .const 0, .any⟩,
     ⟨"LOW", 0, 5, .rw, .const 2, .range 1 16 2 2⟩]⟩]

/-- Register tables of XLK. -/
def xlk2 : List RegDef := [
  ⟨"XLK.SGCFG", 0x120100, 128, 4, false,
    [⟨"EN", 31, 1, .rw, .const 0, .any⟩,
     ⟨"STATE", 29, 2, .ro, .const 0, .any⟩,
     ⟨"K", 24, 4, .rw, .const 2, .any⟩,
     ⟨"SUL", 20, 4, .rw, .const 6, .any⟩,
     ⟨"QID", 0, 10, .rw, .const 0, .any⟩]⟩,
  ⟨"XLK.SGMEM0", 0x120104, 4, 16, false,
    [⟨"NODE", 16, 16, .rw, .const 0, .any⟩,
     ⟨"MQ", 0, 10, .rw, .const 0, .any⟩]⟩,
  ⟨"XLK.SGMEM1", 0x120184, 4, 16, false,
    [⟨"NODE", 16, 16, .rw, .const 0, .any⟩,
     ⟨"MQ", 0, 10, .rw, .const 0, .any⟩]⟩,
  ⟨"XLK.SGMEM2", 0x120204, 4, 16, false,
    [⟨"NODE", 16, 16, .rw, .const 0, .any⟩,
     ⟨"MQ", 0, 10, .rw, .const 0, .any⟩]⟩,
  ⟨"XLK.SGMEM3", 0x120284, 4, 16, false,
    [⟨"NODE", 16, 16, .rw, .const 0, .any⟩,
     ⟨"MQ", 0, 10, .rw, .const 0, .any⟩]⟩]

/-- Register tables of ERR. -/
def err0 : List RegDef := [
  ⟨"ERR.STAT", 0x130000, 4, 1, false,
    [⟨"WRAP", 31, 1, .ro, .const 0, .any⟩,
     ⟨"HELD", 16, 11, .ro, .const 0, .any⟩,
     ⟨"LASTCODE", 0, 10, .ro, .const 0, .any⟩]⟩,
  ⟨"ERR.LASTSEQ", 0x130004, 4, 1, false,
    [⟨"SEQ", 0, 32, .ro, .const 4294967295, .any⟩]⟩,
  ⟨"ERR.FIRSTSEQ", 0x130008, 4, 1, false,
    [⟨"SEQ", 0, 32, .ro, .const 0, .any⟩]⟩,
  ⟨"ERR.CTL", 0x13000c, 4, 1, false,
    [⟨"KEY", 16, 16, .wo, .const 0, .any⟩,
     ⟨"CLEAR", 0, 1, .wo, .const 0, .any⟩]⟩,
  ⟨"ERR.RSEL", 0x130010, 4, 1, false,
    [⟨"SEQ", 0, 32, .rw, .const 0, .any⟩]⟩,
  ⟨"ERR.RSTAT", 0x130014, 4, 1, false,
    [⟨"VALID", 31, 1, .ro, .const 0, .any⟩]⟩,
  ⟨"ERR.RDATA", 0x130040, 4, 16, false,
    [⟨"DATA", 0, 32, .ro, .const 0, .any⟩]⟩]

/-- Every register table of the PF BAR0. -/
def all : List RegDef :=
  glb0 ++ clk0 ++ pcl0 ++ hif0 ++ eth0 ++ eth1 ++ qmg0 ++ qmg1 ++ sch0 ++ int0 ++ rdc0 ++ enl0 ++ tnk0 ++ tnk1 ++ spd0 ++ fix0 ++ fmt0 ++ dfm0 ++ sec0 ++ rch0 ++ rch1 ++ prf0 ++ srv0 ++ mdr0 ++ mdr1 ++ cle0 ++ cle1 ++ cle2 ++ pwr0 ++ pwr1 ++ aon0 ++ xlk0 ++ xlk1 ++ xlk2 ++ err0

/-- Does a register table hold the word at `off`, and if so, which entry and which word of it (0 low, 1 high). -/
def hits (d : RegDef) (off : Nat) : Option (Nat × Nat) :=
  if off < d.base then none
  else
    let i := (off - d.base) / d.stride
    let w := (off - d.base) % d.stride
    if i < d.count ∧ (w = 0 ∨ (w = 4 ∧ d.wide)) then some (i, w / 4) else none

/-- The register table, entry and word at an offset; none at a hole (R15). -/
def findIn : List RegDef → Nat → Option (RegDef × Nat × Nat)
  | [], _ => none
  | d :: ds, off =>
    match hits d off with
    | some (i, w) => some (d, i, w)
    | none => findIn ds off

def find (off : Nat) : Option (RegDef × Nat × Nat) := findIn all off

/-- The reset value of one field at entry `i`. -/
def rstValue (r : Rst) (i : Nat) : Nat :=
  match r with
  | .const n => n
  | .lin k => k * i
  | .table l => l.getD i 0

/-- The reset value of a whole register at entry `i`. -/
def rstReg (fs : List FieldDef) (i : Nat) : Nat :=
  fs.foldl (fun acc f => acc + (rstValue f.rst i % 2 ^ f.width) * 2 ^ f.lo) 0

/-- The reset value of the word at an offset (R17); 0 at a hole. -/
def resetWord (off : Nat) : Word :=
  match find off with
  | none => 0#32
  | some (d, i, w) => BitVec.ofNat 32 (rstReg d.fields i / 2 ^ (32 * w))

/-- How a written field value is stored, by the range rule of its register table. -/
def stored (f : FieldDef) (i v : Nat) : Nat :=
  match f.rng with
  | .any => v
  | .range lo hi below above => if v < lo then below else if hi < v then above else v
  | .resetIfOut lo hi => if v < lo ∨ hi < v then rstValue f.rst i else v
  | .temperature => if v ≤ 125 ∨ 216 ≤ v then v else rstValue f.rst i

end RegMap

end Sys2Proof.Machine
end

