-- ==== Sys2Proof/Machine/Types.lean ====
section
/-! DEFINITION. The data the blocks exchange: error codes (17_errors R467), block mnemonics (00_scope R19), reply fields and
lines (R55, R58, R76), and ERR records (R471). -/

namespace Sys2Proof.Machine

/-- The error codes of R467, each named by its token. -/
inductive Er where
  /-- 101 TOOLONG: Line over 255 characters (R48). -/
  | toolong
  /-- 102 BADCHAR: Control character in a line (R48). -/
  | badchar
  /-- 103 BADCRC: CRC-8 suffix wrong or missing (R52). -/
  | badcrc
  /-- 104 OVERRUN: UART buffer overrun (R46). -/
  | overrun
  /-- 105 ORDER: Tag or node token out of place (R49). -/
  | order
  /-- 106 NOVERB: Unknown verb (R49). -/
  | noverb
  /-- 107 BADARG: Value out of range (R50, R77, R82, R83). -/
  | badarg
  /-- 108 ARGS: Wrong arguments (R77). -/
  | args
  /-- 109 NONAME: Unknown block, register or field (R77). -/
  | noname
  /-- 110 BADTAIL: Invalid doorbell tail (R168). -/
  | badtail
  /-- 111 BADDESC: Malformed descriptor (R165). -/
  | baddesc
  /-- 112 DRTORDER: DRT segment order broken (R149). -/
  | drtorder
  /-- 113 NOSESSION: Unknown DRT session (R154). -/
  | nosession
  /-- 201 PRIV: Level or source too low (R61, R66, R445). -/
  | priv
  /-- 202 NOCHAL: No valid challenge (R62). -/
  | nochal
  /-- 203 DENIED: Wrong SERVICE response (R62). -/
  | denied
  /-- 204 LOCKOUT: SERVICE locked out (R62, R63). -/
  | lockout
  /-- 205 NOREMOTE: OPERATE refused on TCP (R61). -/
  | noremote
  /-- 206 NOTOWN: READ of another tenant (R184). -/
  | notown
  /-- 207 LEVEL: SERVICE entered or left (R63). -/
  | level
  /-- 300 NOTREADY: Device not ready after reset (R121). -/
  | notready
  /-- 301 NOCART: No cartridge (R79). -/
  | nocart
  /-- 302 LOCKED: Field locked (R18, R186, R189, R392). -/
  | locked
  /-- 303 CARTSTATE: Cartridge state wrong (R79, R184). -/
  | cartstate
  /-- 304 NOLOCK: Motion lock not held (R74). -/
  | nolock
  /-- 305 C3FIXED: C3 mode contradicts cartridge (R84). -/
  | c3fixed
  /-- 306 PWRSTATE: Power state wrong (R79). -/
  | pwrstate
  /-- 307 MOTSTATE: Motion state wrong (R79, R373). -/
  | motstate
  /-- 308 NOTMASTER: Not the cascade master (R89, R437). -/
  | notmaster
  /-- 309 NOUPDATE: No update open by this session (R91). -/
  | noupdate
  /-- 310 RESCUE: Verb unavailable in rescue mode (R104). -/
  | rescue
  /-- 311 RESETABORT: Ended by a reset (R113, R200). -/
  | resetabort
  /-- 312 DRTOFF: DRT disabled (R146, R155). -/
  | drtoff
  /-- 313 IDLE: DRT session idle (R155). -/
  | idle
  /-- 315 PREVABORT: Earlier record aborted (R182). -/
  | prevabort
  /-- 316 ORPHAN: Records carried by a function reset (R201). -/
  | orphan
  /-- 317 TESTABORT: Self-test stopped for a write (R321). -/
  | testabort
  /-- 320 PWRBUSY: Power transition in progress (R408). -/
  | pwrbusy
  /-- 401 SESSIONS: No session free (R42, R146). -/
  | sessions
  /-- 402 BUSY: Line queue full (R45). -/
  | busy
  /-- 403 HELD: Motion lock held elsewhere (R74). -/
  | held
  /-- 404 UPDBUSY: Update open elsewhere (R93). -/
  | updbusy
  /-- 405 SVCBUSY: SERVICE held elsewhere (R62). -/
  | svcbusy
  /-- 409 TESTBUSY: Self-test already running (R91, R236, R258). -/
  | testbusy
  /-- 410 CONFLICT: Lost arbitration (R71). -/
  | conflict
  /-- 420 NOQUEUE: No such queue (R146, R163, R190). -/
  | noqueue
  /-- 421 QLIMIT: Queue quota reached (R162). -/
  | qlimit
  /-- 422 QBUSY: Queue busy or quarantined (R163, R202). -/
  | qbusy
  /-- 423 QEXISTS: Queue exists (R87, R162). -/
  | qexists
  /-- 424 QBOUND: Queue already bound (R146). -/
  | qbound
  /-- 425 NOTENANT: Tenant not enabled (R123). -/
  | notenant
  /-- 426 RATE: Guaranteed-rate limit (R206). -/
  | rate
  /-- 427 NOTDRT: Queue has a ring (R146). -/
  | notdrt
  /-- 428 VECLIMIT: Vector range invalid (R189). -/
  | veclimit
  /-- 430 KEYSEQ: Key parts out of order (R92). -/
  | keyseq
  /-- 433 SEQEND: Sequence numbers exhausted (R21). -/
  | seqend
  /-- 434 SHORTBUF: READ buffer too small (R184). -/
  | shortbuf
  /-- 440 ENGFAIL: No codec engine enabled (R240). -/
  | engfail
  /-- 441 CODECKAT: Codec known-answer failure (R238). -/
  | codeckat
  /-- 442 ENCMISM: Shadow decode mismatch (R235). -/
  | encmism
  /-- 501 NODIR: No directory (R347). -/
  | nodir
  /-- 502 WPROTECT: Cartridge write-protected (R468). -/
  | wprotect
  /-- 503 CARTFULL: Data region full (R468). -/
  | cartfull
  /-- 505 NOTFOUND: Dataset or record not on tape (R184, R348). -/
  | notfound
  /-- 506 RTIMEOUT: READ timeout (R184). -/
  | rtimeout
  /-- 507 ENDDATA: No further record (R184). -/
  | enddata
  /-- 510 UNRECOVERED: Dataset not recovered (R290, R317). -/
  | unrecovered
  /-- 511 REWRITE: Dataset abandoned (R284). -/
  | rewrite
  /-- 512 C3REBUILD: Dataset rebuilt by C3 (R290). -/
  | c3rebuild
  /-- 513 WRITEFAIL: Writing stopped (R284). -/
  | writefail
  /-- 514 C3OPEN: C3 group lost (R288). -/
  | c3open
  /-- 515 VFYCHAN: Channel failing verify (R314). -/
  | vfychan
  /-- 517 PROOFFAIL: Proof self-test failed (R321). -/
  | prooffail
  /-- 520 DBFHDR: Block header invalid (R234). -/
  | dbfhdr
  /-- 521 DBFCODE: Coded stream invalid (R234). -/
  | dbfcode
  /-- 522 DBFCRC: Block content CRC wrong (R234). -/
  | dbfcrc
  /-- 523 DBFPIECE: Pieces malformed (R233, R234). -/
  | dbfpiece
  /-- 530 SEALFAIL: Seal MAC wrong (R297). -/
  | sealfail
  /-- 531 NOKEY: Key missing (R296, R297). -/
  | nokey
  /-- 532 GCMFAIL: GCM tag wrong (R297). -/
  | gcmfail
  /-- 533 CHAINGAP: Seal chain broken (R297). -/
  | chaingap
  /-- 534 UNSEALED: Unsealed extent refused (R297). -/
  | unsealed
  /-- 610 STOPPED: Ended by a stop (R80, R184). -/
  | stopped
  /-- 611 TRIPPED: Trip (R80, R366). -/
  | tripped
  /-- 612 TRIPACTIVE: Trip input still active (R370). -/
  | tripactive
  /-- 613 OVERCUR: Digital overcurrent (R366). -/
  | overcur
  /-- 614 FLYFAIL: Start failed (R361). -/
  | flyfail
  /-- 616 FANSTALL: Fan stall (R364). -/
  | fanstall
  /-- 617 OVERTEMP: Over-temperature (R363). -/
  | overtemp
  /-- 620 SERVOLOST: Servo lost (R333). -/
  | servolost
  /-- 621 BANDID: Wrong servo band (R334). -/
  | bandid
  /-- 622 LPWFAIL: Position word disagrees (R330). -/
  | lpwfail
  /-- 630 OSCILLATE: Loop oscillation, fallback (R395). -/
  | oscillate
  /-- 631 OSCSTOP: Oscillation on defaults, stop (R395). -/
  | oscstop
  /-- 632 ACCELFAIL: Accelerometer failed (R388). -/
  | accelfail
  /-- 640 CLKLOSS: Clock domain lost (R38, R366, R517). -/
  | clkloss
  /-- 701 CORR: Correctable memory error (R251). -/
  | corr
  /-- 702 BANKFENCE: Tank bank fenced (R255). -/
  | bankfence
  /-- 703 SPARE: Spare row assigned (R259). -/
  | spare
  /-- 710 UNCORR: Uncorrectable memory error (R252, R253). -/
  | uncorr
  /-- 712 ALIGN: Atomic misaligned (R250). -/
  | align
  /-- 713 REMAPFULL: Remap table full (R257). -/
  | remapfull
  /-- 714 FIXUNCORR: Fixer unit uncorrectable (R264). -/
  | fixuncorr
  /-- 715 RETUNCORR: Save-list entry uncorrectable (R265). -/
  | retuncorr
  /-- 716 FIXSLOW: Fixer below rate (R263). -/
  | fixslow
  /-- 720 FWCRC: Update image CRC wrong (R91). -/
  | fwcrc
  /-- 721 BOOTIMG: Boot slot invalid (R103). -/
  | bootimg
  /-- 722 NOIMAGE: No valid image (R104). -/
  | noimage
  /-- 723 SELFTEST: Boot self-test failure (R105). -/
  | selftest
  /-- 724 WATCHDOG: Watchdog reset (R120). -/
  | watchdog
  /-- 801 NONODE: No such node (R65, R435). -/
  | nonode
  /-- 802 CTIMEOUT: Cascade command timeout (R65, R446). -/
  | ctimeout
  /-- 803 STALE: Node stale (R65, R463). -/
  | stale
  /-- 804 BREAK: Path broken (R65, R446, R464). -/
  | pathBreak
  /-- 805 CENSUSLIMIT: Census limit reached (R440). -/
  | censuslimit
  /-- 806 LONGHOP: Hop over 120 ns (R439). -/
  | longhop
  /-- 807 TWOMASTER: Two masters joined (R425). -/
  | twomaster
  /-- 808 PORTROLE: Port roles clash (R425). -/
  | portrole
  /-- 809 LINKRETRY: Link retries exhausted (R434). -/
  | linkretry
  /-- 810 LENDLOST: Lender lost (R462). -/
  | lendlost
  /-- 811 DMAERR: Host DMA error (R166). -/
  | dmaerr
  /-- 812 STRIPEDEG: Stripe group degraded (R456). -/
  | stripedeg
  /-- 813 STRIPEFAIL: Stripe group failed (R457). -/
  | stripefail
  /-- 903 REFUSED: Power entry refused (R406). -/
  | refused
  /-- 910 REPLAY: Replay of a queue ended (R110). -/
  | replay
  /-- 911 FIXPART: Dump incomplete (R111). -/
  | fixpart
  /-- 920 IGNOFF: Ignition off (R412). -/
  | ignoff
  /-- 921 IGNON: Ignition on (R412). -/
  | ignon
  /-- 922 DRAIN: Ignition sequence stalled (R412). -/
  | drain
  deriving DecidableEq, Repr

/-- The three-digit code of an error (R467). -/
def Er.code : Er → Nat
  | .toolong => 101
  | .badchar => 102
  | .badcrc => 103
  | .overrun => 104
  | .order => 105
  | .noverb => 106
  | .badarg => 107
  | .args => 108
  | .noname => 109
  | .badtail => 110
  | .baddesc => 111
  | .drtorder => 112
  | .nosession => 113
  | .priv => 201
  | .nochal => 202
  | .denied => 203
  | .lockout => 204
  | .noremote => 205
  | .notown => 206
  | .level => 207
  | .notready => 300
  | .nocart => 301
  | .locked => 302
  | .cartstate => 303
  | .nolock => 304
  | .c3fixed => 305
  | .pwrstate => 306
  | .motstate => 307
  | .notmaster => 308
  | .noupdate => 309
  | .rescue => 310
  | .resetabort => 311
  | .drtoff => 312
  | .idle => 313
  | .prevabort => 315
  | .orphan => 316
  | .testabort => 317
  | .pwrbusy => 320
  | .sessions => 401
  | .busy => 402
  | .held => 403
  | .updbusy => 404
  | .svcbusy => 405
  | .testbusy => 409
  | .conflict => 410
  | .noqueue => 420
  | .qlimit => 421
  | .qbusy => 422
  | .qexists => 423
  | .qbound => 424
  | .notenant => 425
  | .rate => 426
  | .notdrt => 427
  | .veclimit => 428
  | .keyseq => 430
  | .seqend => 433
  | .shortbuf => 434
  | .engfail => 440
  | .codeckat => 441
  | .encmism => 442
  | .nodir => 501
  | .wprotect => 502
  | .cartfull => 503
  | .notfound => 505
  | .rtimeout => 506
  | .enddata => 507
  | .unrecovered => 510
  | .rewrite => 511
  | .c3rebuild => 512
  | .writefail => 513
  | .c3open => 514
  | .vfychan => 515
  | .prooffail => 517
  | .dbfhdr => 520
  | .dbfcode => 521
  | .dbfcrc => 522
  | .dbfpiece => 523
  | .sealfail => 530
  | .nokey => 531
  | .gcmfail => 532
  | .chaingap => 533
  | .unsealed => 534
  | .stopped => 610
  | .tripped => 611
  | .tripactive => 612
  | .overcur => 613
  | .flyfail => 614
  | .fanstall => 616
  | .overtemp => 617
  | .servolost => 620
  | .bandid => 621
  | .lpwfail => 622
  | .oscillate => 630
  | .oscstop => 631
  | .accelfail => 632
  | .clkloss => 640
  | .corr => 701
  | .bankfence => 702
  | .spare => 703
  | .uncorr => 710
  | .align => 712
  | .remapfull => 713
  | .fixuncorr => 714
  | .retuncorr => 715
  | .fixslow => 716
  | .fwcrc => 720
  | .bootimg => 721
  | .noimage => 722
  | .selftest => 723
  | .watchdog => 724
  | .nonode => 801
  | .ctimeout => 802
  | .stale => 803
  | .pathBreak => 804
  | .censuslimit => 805
  | .longhop => 806
  | .twomaster => 807
  | .portrole => 808
  | .linkretry => 809
  | .lendlost => 810
  | .dmaerr => 811
  | .stripedeg => 812
  | .stripefail => 813
  | .refused => 903
  | .replay => 910
  | .fixpart => 911
  | .ignoff => 920
  | .ignon => 921
  | .drain => 922

/-- The text token of an error (R467). -/
def Er.token : Er → String
  | .toolong => "TOOLONG"
  | .badchar => "BADCHAR"
  | .badcrc => "BADCRC"
  | .overrun => "OVERRUN"
  | .order => "ORDER"
  | .noverb => "NOVERB"
  | .badarg => "BADARG"
  | .args => "ARGS"
  | .noname => "NONAME"
  | .badtail => "BADTAIL"
  | .baddesc => "BADDESC"
  | .drtorder => "DRTORDER"
  | .nosession => "NOSESSION"
  | .priv => "PRIV"
  | .nochal => "NOCHAL"
  | .denied => "DENIED"
  | .lockout => "LOCKOUT"
  | .noremote => "NOREMOTE"
  | .notown => "NOTOWN"
  | .level => "LEVEL"
  | .notready => "NOTREADY"
  | .nocart => "NOCART"
  | .locked => "LOCKED"
  | .cartstate => "CARTSTATE"
  | .nolock => "NOLOCK"
  | .c3fixed => "C3FIXED"
  | .pwrstate => "PWRSTATE"
  | .motstate => "MOTSTATE"
  | .notmaster => "NOTMASTER"
  | .noupdate => "NOUPDATE"
  | .rescue => "RESCUE"
  | .resetabort => "RESETABORT"
  | .drtoff => "DRTOFF"
  | .idle => "IDLE"
  | .prevabort => "PREVABORT"
  | .orphan => "ORPHAN"
  | .testabort => "TESTABORT"
  | .pwrbusy => "PWRBUSY"
  | .sessions => "SESSIONS"
  | .busy => "BUSY"
  | .held => "HELD"
  | .updbusy => "UPDBUSY"
  | .svcbusy => "SVCBUSY"
  | .testbusy => "TESTBUSY"
  | .conflict => "CONFLICT"
  | .noqueue => "NOQUEUE"
  | .qlimit => "QLIMIT"
  | .qbusy => "QBUSY"
  | .qexists => "QEXISTS"
  | .qbound => "QBOUND"
  | .notenant => "NOTENANT"
  | .rate => "RATE"
  | .notdrt => "NOTDRT"
  | .veclimit => "VECLIMIT"
  | .keyseq => "KEYSEQ"
  | .seqend => "SEQEND"
  | .shortbuf => "SHORTBUF"
  | .engfail => "ENGFAIL"
  | .codeckat => "CODECKAT"
  | .encmism => "ENCMISM"
  | .nodir => "NODIR"
  | .wprotect => "WPROTECT"
  | .cartfull => "CARTFULL"
  | .notfound => "NOTFOUND"
  | .rtimeout => "RTIMEOUT"
  | .enddata => "ENDDATA"
  | .unrecovered => "UNRECOVERED"
  | .rewrite => "REWRITE"
  | .c3rebuild => "C3REBUILD"
  | .writefail => "WRITEFAIL"
  | .c3open => "C3OPEN"
  | .vfychan => "VFYCHAN"
  | .prooffail => "PROOFFAIL"
  | .dbfhdr => "DBFHDR"
  | .dbfcode => "DBFCODE"
  | .dbfcrc => "DBFCRC"
  | .dbfpiece => "DBFPIECE"
  | .sealfail => "SEALFAIL"
  | .nokey => "NOKEY"
  | .gcmfail => "GCMFAIL"
  | .chaingap => "CHAINGAP"
  | .unsealed => "UNSEALED"
  | .stopped => "STOPPED"
  | .tripped => "TRIPPED"
  | .tripactive => "TRIPACTIVE"
  | .overcur => "OVERCUR"
  | .flyfail => "FLYFAIL"
  | .fanstall => "FANSTALL"
  | .overtemp => "OVERTEMP"
  | .servolost => "SERVOLOST"
  | .bandid => "BANDID"
  | .lpwfail => "LPWFAIL"
  | .oscillate => "OSCILLATE"
  | .oscstop => "OSCSTOP"
  | .accelfail => "ACCELFAIL"
  | .clkloss => "CLKLOSS"
  | .corr => "CORR"
  | .bankfence => "BANKFENCE"
  | .spare => "SPARE"
  | .uncorr => "UNCORR"
  | .align => "ALIGN"
  | .remapfull => "REMAPFULL"
  | .fixuncorr => "FIXUNCORR"
  | .retuncorr => "RETUNCORR"
  | .fixslow => "FIXSLOW"
  | .fwcrc => "FWCRC"
  | .bootimg => "BOOTIMG"
  | .noimage => "NOIMAGE"
  | .selftest => "SELFTEST"
  | .watchdog => "WATCHDOG"
  | .nonode => "NONODE"
  | .ctimeout => "CTIMEOUT"
  | .stale => "STALE"
  | .pathBreak => "BREAK"
  | .censuslimit => "CENSUSLIMIT"
  | .longhop => "LONGHOP"
  | .twomaster => "TWOMASTER"
  | .portrole => "PORTROLE"
  | .linkretry => "LINKRETRY"
  | .lendlost => "LENDLOST"
  | .dmaerr => "DMAERR"
  | .stripedeg => "STRIPEDEG"
  | .stripefail => "STRIPEFAIL"
  | .refused => "REFUSED"
  | .replay => "REPLAY"
  | .fixpart => "FIXPART"
  | .ignoff => "IGNOFF"
  | .ignon => "IGNON"
  | .drain => "DRAIN"

/-- The block mnemonics of R19. -/
inductive Blk where
  | glb | hif | eth | pcl | qmg | sch | int | rdc | enl | tnk | spd | seq | fix | aon | fmt | dfm | sec | rch | wch | prf | srv | mdr | cle | pwr | xlk | err | clk
  deriving DecidableEq, Repr

/-- The mnemonic as Plova and the ERR log write it (R19). -/
def Blk.text : Blk → String
  | .glb => "GLB"
  | .hif => "HIF"
  | .eth => "ETH"
  | .pcl => "PCL"
  | .qmg => "QMG"
  | .sch => "SCH"
  | .int => "INT"
  | .rdc => "RDC"
  | .enl => "ENL"
  | .tnk => "TNK"
  | .spd => "SPD"
  | .seq => "SEQ"
  | .fix => "FIX"
  | .aon => "AON"
  | .fmt => "FMT"
  | .dfm => "DFM"
  | .sec => "SEC"
  | .rch => "RCH"
  | .wch => "WCH"
  | .prf => "PRF"
  | .srv => "SRV"
  | .mdr => "MDR"
  | .cle => "CLE"
  | .pwr => "PWR"
  | .xlk => "XLK"
  | .err => "ERR"
  | .clk => "CLK"

/-- The value of a reply field or INFO item (R76, R529), before it is written in characters. -/
inductive Val where
  /-- decimal -/
  | num (n : Nat)
  /-- signed decimal -/
  | int (i : Int)
  /-- hexadecimal with `digits` digits, underscored as R9 sets -/
  | hex (digits v : Nat)
  /-- a keyword or name -/
  | word (w : String)
  /-- characters held as data (a serial number, a cartridge ID, a challenge) -/
  | chars (l : List Char)
  /-- 802.1AS nanoseconds, written as seconds with six decimals, truncated (R58) -/
  | sec (ns : Nat)
  /-- a decimal with one place -/
  | tenths (n : Nat)
  /-- a decimal with two places -/
  | hundredths (n : Nat)
  /-- a list of keywords separated by commas, NONE when empty (R85) -/
  | axes (l : List String)
  /-- a session, written Sn -/
  | sess (n : Nat)
  /-- a value that does not apply (R76) -/
  | dash
  deriving DecidableEq, Repr

/-- One `KEY=value` item (R76, R472). An empty key stands for a bare word. -/
structure Item where
  key : String
  val : Val
  deriving DecidableEq, Repr

/-- The form of one line the device sends: a continuation line, a final reply, or an event (R55, R58), or text of another node (R64, R66). -/
inductive Body where
  | raw (t : List Char)
  | cont (items : List Item)
  | ok (items : List Item)
  | er (e : Er) (items : List Item)
  | event (name : String) (tag : List Char) (t : Nat) (items : List Item)
  deriving DecidableEq, Repr

/-- One line the device sends: the tag it answers (empty for none), the node token of a forwarded reply (R64), its body, and
whether it ends with a CRC suffix (R52). -/
structure Line where
  tag : List Char
  node : Option Nat
  body : Body
  crc : Bool
  deriving DecidableEq, Repr

/-- Who gave the order an ERR record is about (SRCK and SRCID, R471). -/
inductive RecSrc where
  | device
  | pf
  | session (n : Nat)
  | vf
  /-- a function, with its number in SRCID: the PF is function 0 -/
  | func (n : Nat)
  | master (node : Nat)
  | drt (id : Nat)
  deriving DecidableEq, Repr

/-- The FLAGS byte of an ERR record (R471). -/
structure RecFlags where
  tmo : Bool
  retry : Bool
  unknown : Bool
  info : Bool
  restored : Bool
  deriving DecidableEq, Repr

/-- An ERR record (R471); none stands for the all-ones value of a field that does not apply. -/
structure ErrRec where
  seq : Nat
  code : Er
  flags : RecFlags
  src : RecSrc
  t : Nat
  blk : Blk
  tenant : Option Nat
  qid : Option Nat
  rseq : Option Nat
  ds : Option Nat
  info : List Item
  deriving DecidableEq, Repr

end Sys2Proof.Machine
end

