-- ==== Sys2Proof/Machine/Text.lean ====
section
/-! DEFINITION. How the Plova command line writes and reads characters: numbers (00_scope R9), reply fields (R76), lines (R55, R58),
the CRC-8 suffix (R52), tokens (R49) and the verbs with their levels (R81 to R91). -/

namespace Sys2Proof.Machine

/-- One hexadecimal digit, in uppercase (R50). -/
def hexChar (n : Nat) : Char :=
  if n < 10 then Char.ofNat (48 + n) else Char.ofNat (55 + n)

/-- The low `n` hexadecimal digits of a value, most significant first. -/
def hexDigits : Nat → Nat → List Char
  | 0, _ => []
  | n + 1, v => hexDigits n (v / 16) ++ [hexChar (v % 16)]

/-- Underscores every four digits, counted from the right (R9); the list is read from the right. -/
def underscore : List Char → Nat → List Char
  | [], _ => []
  | c :: cs, k => if k = 4 then '_' :: c :: underscore cs 1 else c :: underscore cs (k + 1)

/-- A hexadecimal number in the form of R9: 0x, and underscores once there are more than four digits. -/
def hexText (digits v : Nat) : List Char :=
  let ds := hexDigits digits v
  '0' :: 'x' :: (if digits ≤ 4 then ds else (underscore ds.reverse 0).reverse)

/-- A decimal number. -/
def decText (n : Nat) : List Char := Nat.toDigits 10 n

/-- Keywords separated by commas. -/
def commas : List String → List Char
  | [] => []
  | [w] => w.toList
  | w :: ws => w.toList ++ ',' :: commas ws

/-- A value in characters (R76, R85). -/
def Val.text : Val → List Char
  | .num n => decText n
  | .int i => if i < 0 then '-' :: decText i.natAbs else decText i.natAbs
  | .hex d v => hexText d v
  | .word w => w.toList
  | .chars l => l
  | .sec ns =>
    let f := ns % 1000000000 / 1000
    decText (ns / 1000000000) ++ '.' :: (List.replicate (6 - (decText f).length) '0' ++ decText f)
  | .tenths n => decText (n / 10) ++ '.' :: decText (n % 10)
  | .hundredths n => decText (n / 100) ++ '.' :: (decText (n % 100 / 10) ++ decText (n % 10))
  | .axes l => if l = [] then "NONE".toList else commas l
  | .sess n => 'S' :: decText n
  | .dash => ['-']

/-- An item as `KEY=value`; an empty key leaves the bare value. -/
def Item.text (i : Item) : List Char :=
  if i.key = "" then i.val.text else i.key.toList ++ '=' :: i.val.text

/-- Items in order, each after a space. -/
def itemsText : List Item → List Char
  | [] => []
  | i :: is => ' ' :: (i.text ++ itemsText is)

/-- INFO of an ERR record: items that fit whole within 24 characters, from the first on; the first alone is cut at 24 (R472). -/
def infoText : List Item → List Char → List Char
  | [], acc => acc
  | i :: is, acc =>
    if acc = [] then infoText is (i.text.take 24)
    else if acc.length + 1 + i.text.length ≤ 24 then infoText is (acc ++ ',' :: i.text)
    else acc

/-- One step of the CRC-8 register (R52). -/
def crc8Bit (c : Nat) : Nat :=
  if c / 128 % 2 = 1 then (c * 2 % 256) ^^^ 7 else c * 2 % 256

/-- CRC-8 over characters: polynomial 0x07, start 0, not reflected, no final XOR (R52). -/
def crc8 (l : List Char) : Nat :=
  l.foldl (fun c ch => crc8Bit (crc8Bit (crc8Bit (crc8Bit (crc8Bit (crc8Bit (crc8Bit (crc8Bit (c ^^^ (ch.toNat % 256)))))))))) 0

/-- A CRC suffix for a line: a space, `*`, and two uppercase digits (R52). -/
def crcSuffix (l : List Char) : List Char := ' ' :: '*' :: hexDigits 2 (crc8 l)

/-- The text of a line's body (R55, R58, R80). -/
def Body.text : Body → List Char
  | .raw t => t
  | .cont items => '+' :: itemsText items
  | .ok items => "OK".toList ++ itemsText items
  | .er e items => "ER ".toList ++ decText e.code ++ ' ' :: (e.token.toList ++ itemsText items)
  | .event name tag t items =>
    '!' :: (name.toList ++ (if tag = [] then [] else ' ' :: '#' :: tag) ++ " T=".toList ++ (Val.sec t).text ++ itemsText items)

/-- A whole line: the tag, the node token, the body, and the suffix over all of it (R51, R52, R64). -/
def Line.text (l : Line) : List Char :=
  let b := match l.body with
    | .event .. => l.body.text
    | _ => (if l.tag = [] then [] else '#' :: (l.tag ++ [' '])) ++
           (match l.node with | some n => '@' :: (decText n ++ [' ']) | none => []) ++ l.body.text
  if l.crc then b ++ crcSuffix b else b

/-- Lowercase letters are read as uppercase (R50). -/
def upper (c : Char) : Char := if 'a' ≤ c ∧ c ≤ 'z' then Char.ofNat (c.toNat - 32) else c

/-- Tokens of a line: separated by one or more spaces, leading and trailing spaces ignored (R49). -/
def tokensAux : List Char → List Char → List (List Char)
  | [], cur => if cur = [] then [] else [cur.reverse]
  | c :: cs, cur =>
    if c = ' ' then (if cur = [] then tokensAux cs [] else cur.reverse :: tokensAux cs [])
    else tokensAux cs (c :: cur)

def tokens (l : List Char) : List (List Char) := tokensAux l []

/-- The value of a hexadecimal digit. -/
def hexVal (c : Char) : Option Nat :=
  if '0' ≤ c ∧ c ≤ '9' then some (c.toNat - 48)
  else if 'A' ≤ upper c ∧ upper c ≤ 'F' then some ((upper c).toNat - 55)
  else none

/-- A decimal number. -/
def decVal : List Char → Nat → Option Nat
  | [], n => some n
  | c :: cs, n => if '0' ≤ c ∧ c ≤ '9' then decVal cs (10 * n + (c.toNat - 48)) else none

/-- A node ID: decimal, 0 to 65535 (R49). -/
def nodeVal (l : List Char) : Option Nat :=
  if l = [] then none else (decVal l 0).bind fun n => if n ≤ 65535 then some n else none

/-- Letters and digits, of which tags are made (R49). -/
def isAlnum (c : Char) : Bool :=
  ('0' ≤ c && c ≤ '9') || ('A' ≤ upper c && upper c ≤ 'Z')

/-- A tag token: `#` and 1 to 8 letters or digits (R49). -/
def tagTok (t : List Char) : Option (List Char) :=
  match t with
  | '#' :: r => if 1 ≤ r.length ∧ r.length ≤ 8 ∧ r.all isAlnum = true then some r else none
  | _ => none

/-- A node token: `@n`, or `@*` as none (R49, R66). -/
def nodeTok (t : List Char) : Option (Option Nat) :=
  match t with
  | ['@', '*'] => some none
  | '@' :: r => (nodeVal r).map some
  | _ => none

/-- The line without trailing spaces, and what a suffix at its end covers and says (R52). -/
def dropTrailing (l : List Char) : List Char := (l.reverse.dropWhile (· == ' ')).reverse

/-- A CRC suffix at the end of a line: the characters it covers and its value. -/
def suffixOf (l : List Char) : Option (List Char × Nat) :=
  match (dropTrailing l).reverse with
  | b :: a :: '*' :: ' ' :: rest =>
    match hexVal a, hexVal b with
    | some x, some y => some (rest.reverse, 16 * x + y)
    | _, _ => none
  | _ => none

/-- The 32 characters of challenges and responses: 2 to 9 and A to Z without I and O (R62). -/
def chalSet : List Char :=
  ['2', '3', '4', '5', '6', '7', '8', '9', 'A', 'B', 'C', 'D', 'E', 'F', 'G', 'H'] ++
  ['J', 'K', 'L', 'M', 'N', 'P', 'Q', 'R', 'S', 'T', 'U', 'V', 'W', 'X', 'Y', 'Z']

/-- The character of a place in that set. -/
def chalChar (i : Fin 32) : Char := chalSet.getD i.val '2'

end Sys2Proof.Machine
end

