-- ==== Sys2Proof/Machine/Args.lean ====
section
/-! DEFINITION. The syntax of Plova verbs: numbers (02_command_line R50), `PEEK` and `POKE` targets (03_command_reference R82), the forms of the verbs with their levels and arguments
(R77, R81 to R91), and what a line comes to before it is executed (R49 to R52). -/

namespace Sys2Proof.Machine

/-! ### Numbers and names -/

/-- A hexadecimal number without its prefix. -/
def hexNum : List Char → Nat → Option Nat
  | [], n => some n
  | c :: cs, n => match hexVal c with
    | some d => hexNum cs (16 * n + d)
    | none => none

/-- A number (R50): decimal, or hexadecimal with the prefix 0x and underscores anywhere after it. -/
def numTok (t : List Char) : Option Nat :=
  match t with
  | '0' :: x :: r =>
    if x = 'x' ∨ x = 'X' then
      (let ds := r.filter (fun c => !(c == '_'))
       if ds = [] then none else hexNum ds 0)
    else decVal t 0
  | [] => none
  | _ => decVal t 0

/-- Exactly `n` hexadecimal digits, with or without the prefix. -/
def hexDigitsTok (n : Nat) (t : List Char) : Option Nat :=
  let ds := (match t with
    | '0' :: x :: r => if (x = 'x' ∨ x = 'X') then r else t
    | _ => t).filter (fun c => !(c == '_'))
  if ds.length = n then hexNum ds 0 else none

/-- The name of entry `i` of a register table: an entry of an array carries its number, after an underscore where the name ends in a digit. -/
def regText (d : RegDef) (i : Nat) : List Char :=
  let b := d.name.toList
  if d.count = 1 then b
  else if (match b.getLast? with | some c => decide ('0' ≤ c ∧ c ≤ '9') | none => false) then b ++ '_' :: decText i
  else b ++ decText i

/-- The entry of a register table that a name stands for. The words of the coefficient sets have no names (log entry 64). -/
def nameHits (name : List Char) (d : RegDef) : Option Nat :=
  let b := d.name.toList
  if "CLE.COEF".toList.isPrefixOf b then none
  else if b.isPrefixOf name then
    if d.count = 1 then (if name = b then some 0 else none)
    else
      let rest := name.drop b.length
      match decVal (match rest with | '_' :: r => r | r => r) 0 with
      | some i => if i < d.count ∧ name = regText d i then some i else none
      | none => none
  else none

def findName (name : List Char) : List RegDef → Option (RegDef × Nat)
  | [] => none
  | d :: ds => match nameHits name d with
    | some i => some (d, i)
    | none => findName name ds

/-- Parts of a name between its dots. -/
def dotParts : List Char → List Char → List (List Char)
  | [], cur => [cur.reverse]
  | c :: cs, cur => if c = '.' then cur.reverse :: dotParts cs [] else dotParts cs (c :: cur)

/-- A target by name (R82). -/
def nameTarget (t : List Char) : Target :=
  match dotParts (t.map upper) [] with
  | [b, r] => match findName (b ++ '.' :: r) RegMap.all with
    | some (d, i) => .reg (d.base + d.stride * i) d.wide
    | none => .unknown
  | [b, r, f] => match findName (b ++ '.' :: r) RegMap.all with
    | some (d, i) => match d.fields.find? (fun (x : FieldDef) => x.name.toList == f) with
      | some x => .field (d.base + d.stride * i) x.lo x.width
      | none => .unknown
    | none => .unknown
  | _ => .unknown

/-- An offset that an access can meet: aligned and inside the PF BAR0 (R82). -/
def offsetOk (n : Nat) : Bool := n % 4 == 0 && decide (n < 0x200000)

/-- A target token (R82): one that begins with a digit is an offset, none when it is malformed; another is a name. -/
def targetTok (t : List Char) : Option Target :=
  match t with
  | c :: _ => if '0' ≤ c ∧ c ≤ '9' then (numTok t).map Target.offset else some (nameTarget t)
  | [] => none

/-! ### Arguments (R77) -/

/-- What an argument must be. -/
inductive ArgKind where
  | any
  | kw (l : List String)
  | num (lo hi : Nat)
  /-- a number, or the keyword AUTO (R85) -/
  | step
  /-- exactly so many hexadecimal digits (R91) -/
  | hex (n : Nat)
  /-- a 32-bit number or its eight hexadecimal digits -/
  | crc
  | target
  deriving DecidableEq, Repr

def numIn (lo hi : Nat) (t : List Char) : Bool :=
  match numTok t with
  | some n => decide (lo ≤ n ∧ n ≤ hi)
  | none => false

/-- What is wrong with an argument: out of its range (107), or a name the device does not know (109). -/
def ArgKind.wrong (k : ArgKind) (t : List Char) : Option Er :=
  let need (b : Bool) : Option Er := if b then none else some .badarg
  match k with
  | .any => none
  | .kw l => need (l.any (fun w => w.toList == t.map upper))
  | .num lo hi => need (numIn lo hi t)
  | .step => need (numIn 1 12 t || t.map upper == "AUTO".toList)
  | .hex n => need (hexDigitsTok n t).isSome
  | .crc => need (numIn 0 0xFFFFFFFF t || (hexDigitsTok 8 t).isSome)
  | .target => match targetTok t with
    | some .unknown => some .noname
    | some (.offset n) => need (offsetOk n)
    | some _ => none
    | none => some .badarg

/-- A form of a verb: its words, its level, whether rescue mode accepts it (R104), the positional arguments it must and may have, the named ones, and how many of those it takes at
least and at most. -/
structure Form where
  words : List String
  level : Nat
  rescue : Bool
  pos : List ArgKind
  opt : List ArgKind
  named : List (String × ArgKind)
  least : Nat
  most : Nat
  deriving DecidableEq, Repr

/-- A form without named arguments. -/
def plain (words : List String) (level : Nat) (rescue : Bool) (pos opt : List ArgKind) : Form := ⟨words, level, rescue, pos, opt, [], 0, 0⟩

def big : ArgKind := .num 0 (2 ^ 64 - 1)
def onOffKw : ArgKind := .kw ["ON", "OFF"]

/-- The session and identity verbs, and the register verbs (R81, R82, R83). -/
def formsA : List Form :=
  [plain ["LEVEL", "SERVICE"] 0 true [] [.any], plain ["LEVEL"] 0 true [.kw ["VIEW", "OPERATE"]] [],
   ⟨["SESSION"], 0, true, [], [], [("ECHO", onOffKw), ("EDIT", onOffKw), ("CRC", onOffKw), ("EVENTS", .kw ["ALL", "ERR", "NONE"])], 1, 4⟩,
   plain ["SESSION?"] 0 true [] [], plain ["LOCK", "MOTION"] 1 false [] [], plain ["FREE", "MOTION"] 1 false [] [],
   plain ["HELP?"] 0 true [] [.any], plain ["ID?"] 0 true [] [], plain ["STATE?"] 0 true [] [], plain ["TIME?"] 0 false [] [],
   ⟨["ERR?"], 0, true, [], [], [("COUNT", .num 1 32), ("FROM", .num 0 0xFFFFFFFF)], 0, 2⟩, plain ["ERR", "CLEAR"] 2 false [] [],
   plain ["CONTACT?"] 0 true [] [], ⟨["PEEK"], 0, false, [.target], [], [("COUNT", .num 1 16)], 0, 1⟩, plain ["POKE"] 2 false [.target, big] []]

/-- The cartridge, recording and motion verbs (R84, R85). -/
def formsB : List Form :=
  [⟨["LOAD"], 1, false, [], [], [("C3", onOffKw)], 0, 1⟩, plain ["UNLOAD"] 1 false [] [], plain ["CART?"] 0 false [] [],
   plain ["RECORD", "START"] 1 false [] [], plain ["RECORD", "STOP"] 1 false [] [], plain ["FLUSH"] 1 false [] [],
   ⟨["MOTION", "START"], 1, false, [], [], [("STEP", .step), ("DIR", .kw ["FWD", "REV"])], 0, 2⟩, plain ["MOTION", "STOP"] 1 false [] [],
   ⟨["SPEED"], 1, false, [], [], [("STEP", .step)], 1, 1⟩, ⟨["LOCATE"], 1, false, [], [], [("DS", .num 0 0xFFFFFFFF), ("LPW", big)], 1, 1⟩,
   plain ["MOTION?"] 0 false [] [], plain ["TRIP?"] 0 false [] [], plain ["TRIP", "CLEAR"] 1 false [.kw ["SUPPLY", "TAKEUP", "FAN", "ALL"]] []]

/-- The tenant, queue, function, power, reset and cascade verbs (R86, R89). -/
def formsC : List Form :=
  [plain ["TENANT?"] 0 false [.num 0 255] [],
   ⟨["TENANT"], 1, false, [.num 0 255], [], [("CLASS", .kw ["CONTINUOUS", "STANDARD", "BULK"]), ("WEIGHT", .num 1 255), ("RATE", big)], 0, 3⟩,
   ⟨["QUEUE", "CREATE"], 1, false, [.num 0 255], [], [("Q", big), ("RING", big), ("SIZE", big), ("TIMEOUT", big)], 0, 4⟩,
   plain ["QUEUE", "DELETE"] 1 false [big] [], plain ["QUEUE?"] 0 false [big] [], plain ["RESET", "FUNCTION"] 1 false [.num 1 255] [],
   plain ["POWER"] 1 false [.kw ["RUN", "STANDBY", "PARK", "DOZE", "SLEEP", "OFF"]] [], plain ["POWER?"] 0 false [] [],
   plain ["RESET", "WARM"] 2 true [] [.kw ["KEEPTANK"]],
   plain ["RESET", "DOMAIN"] 2 false [.kw ["D1", "D2", "D3", "D4", "D5", "D6", "D7", "D8", "D9"]] [],
   plain ["NODE?"] 0 false [] [], plain ["CENSUS"] 1 false [] [], plain ["CENSUS?"] 0 false [] []]

/-- The service verbs (R91). -/
def formsD : List Form :=
  [plain ["TEST", "TANK"] 2 false [.num 0 63] [], plain ["TEST", "BOOT"] 2 true [] [], plain ["TEST"] 2 false [.kw ["CODEC", "PROOF"]] [],
   plain ["KEY", "ERASE"] 2 false [.num 0 255] [.kw ["HMAC", "AES", "ALL"]],
   plain ["KEY"] 2 false [.kw ["HMAC", "AES"], .num 0 255, .num 1 4, .hex 16] [], plain ["KEY?"] 0 false [.num 0 255] [],
   plain ["FWUPDATE", "START"] 2 true [big] [], plain ["FWUPDATE", "COMMIT"] 2 true [.crc] [], plain ["FWUPDATE", "ABORT"] 2 true [] [],
   plain ["FLASH", "WRITE"] 2 true (big :: List.replicate 16 (.hex 8)) []]

def forms : List Form := formsA ++ formsB ++ formsC ++ formsD

/-- Do the first tokens of a line spell a form's words. -/
def Form.spelt (f : Form) (toks : List (List Char)) : Bool := (f.words.map String.toList).isPrefixOf (toks.map (fun t => t.map upper))

/-- The form a line spells. -/
def formOf (toks : List (List Char)) : Option Form := forms.find? (fun (f : Form) => f.spelt toks)

/-- Does some form begin with a line's verb. -/
def verbKnown (toks : List (List Char)) : Bool :=
  match toks with
  | [] => false
  | v :: _ => forms.any (fun (f : Form) => (f.words.headD "").toList == v.map upper)

/-- The name and the value of a named argument. -/
def namedTok (t : List Char) : Option (List Char × List Char) :=
  if t.contains '=' then some ((t.takeWhile (fun c => !(c == '='))).map upper, (t.dropWhile (fun c => !(c == '='))).drop 1) else none

/-- No name stands twice. -/
def namesOnce : List (List Char) → Bool
  | [] => true
  | n :: ns => !(ns.contains n) && namesOnce ns

/-- The first fault of a list of arguments. -/
def firstWrong : List (ArgKind × List Char) → Option Er
  | [] => none
  | (k, t) :: r => match k.wrong t with
    | some e => some e
    | none => firstWrong r

/-- What is wrong with a line's arguments (R77): wrong arguments first, then their values. COUNT of `PEEK` goes with an offset only (R82). -/
def Form.argsWrong (f : Form) (toks : List (List Char)) : Option Er :=
  let args := toks.drop f.words.length
  let ps := args.takeWhile (fun t => (namedTok t).isNone)
  let ns := (args.drop ps.length).map namedTok
  let pairs := ns.filterMap id
  let kinds := f.named.map (fun p => (p.1.toList, p.2))
  let known := pairs.all (fun p => kinds.any (fun k => k.1 == p.1))
  let peekName := f.words == ["PEEK"] && !(pairs.isEmpty) && !((ps.headD []).headD ' ' |>.isDigit)
  if ns.any Option.isNone || decide (ps.length < f.pos.length) || decide (f.pos.length + f.opt.length < ps.length)
      || !known || !(namesOnce (pairs.map (·.1))) || decide (pairs.length < f.least) || decide (f.most < pairs.length) || peekName then some .args
  else
    firstWrong ((f.pos ++ f.opt).zip ps ++
      pairs.filterMap (fun p => (kinds.find? (fun k => k.1 == p.1)).map (fun k => (k.2, p.2))))

/-! ### Lines (R49 to R52) -/

/-- What a line's parse gives: its tag, whether it has a suffix, its node token, its verb and arguments, its form, or its error. -/
structure Parsed where
  tag : List Char
  suffix : Bool
  node : Option (Option Nat)
  toks : List (List Char)
  form : Option Form
  err : Option Er
  deriving DecidableEq, Repr

/-- Take the tag and node token from the front (R49). -/
def takeFront (ts : List (List Char)) : List Char × Option (Option Nat) × List (List Char) :=
  let (tag, ts) := match ts with
    | t :: r => match tagTok t with
      | some g => (g, r)
      | none => ([], ts)
    | [] => ([], [])
  match ts with
  | t :: r => match nodeTok t with
    | some n => (tag, some n, r)
    | none => (tag, none, ts)
  | [] => (tag, none, [])

/-- Is a token out of place at the verb (R49): a second tag or node token, or a tag after the node token; a node token that is no node ID is a value out of range (R50; DEDUCED, log entry 11). -/
def placeWrong (node : Option (Option Nat)) (toks : List (List Char)) : Option Er :=
  match toks with
  | t :: _ =>
    if (tagTok t).isSome then some .order
    else if t.headD ' ' = '@' then (if node.isSome then some .order else some .badarg)
    else none
  | [] => none

/-- What is wrong with a verb and its arguments (R49, R77). -/
def verbWrong (toks : List (List Char)) : Option Er :=
  if verbKnown toks = false then some .noverb
  else match formOf toks with
    | none => some .args
    | some f => f.argsWrong toks

/-- Parse a line: its suffix against the CRC, its tag and node token, token order, the verb and its arguments. `must` is CRC mode. The checks are made in the order CRC, order,
verb, arguments (DEDUCED, log entry 11). -/
def parseLine (must : Bool) (l : List Char) : Parsed :=
  let sfx := suffixOf l
  let core := match sfx with | some (c, _) => c | none => l
  let (tag, node, toks) := takeFront (tokens core)
  let bad := match sfx with | some (c, v) => !(crc8 c == v) | none => must
  let err : Option Er :=
    if bad then some .badcrc
    else match placeWrong node toks with
      | some e => some e
      | none => verbWrong toks
  ⟨tag, sfx.isSome, node, toks, formOf toks, err⟩

end Sys2Proof.Machine
end

