-- ==== Sys2Proof/Config.lean ====
section
/-! DEFINITION. The free values of the model: what the spec leaves open and a machine of this kind must still have. Each is a constant
without a body, so no proof can see what it is; `State.freeCtr` numbers the draws. -/

namespace Sys2Proof.Config

/-- One character of a SERVICE challenge, drawn at random from the 32-character set of R62. -/
opaque challengeChar : Nat → Fin 32

/-- One character of the response that Laryen's tool derives from a challenge, the serial number and the service key (R62): the derivation
is Laryen's own and is not in the spec. The last argument is the character's place. -/
opaque responseChar : List Char → List Char → BitVec 64 → Fin 6 → Fin 32

/-- A byte of the session salt, drawn from the device's random source at LOAD (R293). -/
opaque saltByte : Nat → BitVec 8

/-- The SEQ and TSTAMP of a READ completion that returns no record: the spec gives both fields for the record returned, and none is (R169). -/
opaque readSeq : Nat → BitVec 48
opaque readTime : Nat → BitVec 64

/-- Whether a quantity that the spec gives exactly, and stores as an integer without naming the rounding, is rounded up; else it is rounded down. -/
opaque roundUp : Rat → Bool

/-- What the PCI Express link trains to (R127): the speed, modulo 3, and the width, the next digit modulo 3. -/
opaque linkTraining : Nat → BitVec 8

/-- The rate correction that a Sync gives the timebase, in parts per 10^9 (R139): the spec bounds the correction and gives no servo law. -/
opaque rateCorrection : Nat → BitVec 20

/-- The window scale that the SYN-ACK of a TCP connection offers (R135). -/
opaque windowScale : Nat → BitVec 4

/-- The adaptive loops of a data input over a run of samples (R302, R305): the spec gives what each acts on, its target and its time constant, and no arithmetic. Each is told the value it held, its time constant in
symbols, and the samples; the gain loop also its target. -/
opaque gainLoop : Int → Nat → Nat → List (BitVec 8) → Int
opaque offsetLoop : Int → Nat → List (BitVec 8) → Int
opaque asymLoop : Int → Nat → List (BitVec 8) → Int
/-- The timing loop's held frequency, in millionths of the nominal rate: the value held, the bandwidth in millionths of the symbol rate, and the samples. -/
opaque timingLoop : Int → Nat → List (BitVec 8) → Int

/-- What the loops of an input start from when no frame has been read in a zone (R303): gain, offset, asymmetry, frequency, by number; and the zone's default equaliser taps (R304). -/
opaque loopDefault : Fin 4 → Bool → Int
opaque defaultTaps : Bool → Fin 10 → Int

/-- The taps after LMS adaptation (R304): the taps, the target (EPR4 or PR4), the exponent of the step size, the samples and the detector's decisions. -/
opaque lmsTaps : List Int → Bool → Nat → List (BitVec 8) → List Bool → Fin 10 → Int

/-- The mean squared error of a frame in units of 4 LSB^2 (R304), and the equaliser output and error as the Loupe records them (R318, SRC 1 and 2): of the taps, the target, the filter's cutoff in symbols per second and
its boost in dB (R301), the samples and the decisions. -/
opaque eqError : List Int → Bool → Rat → Nat → List (BitVec 8) → List Bool → Nat
opaque eqSamples : Bool → List Int → Bool → List (BitVec 8) → List Bool → List (BitVec 8)

/-- How many bit errors a unit of the Fixer reads back with (R261, R264), at most 4 of which its code corrects: the draw, the record of the dump by its place, and the unit of the record. -/
opaque fixerUnit : Nat → Nat → Nat → Nat

/-- Whether a packet stood half written in a FIFO when the clock of its source stopped (R30): no row tells it. -/
opaque partialPacket : Nat → Bool

/-- Whether an engine fails the known-answer test T2 that a reset of D3 repeats (R114, R241): the draw and the engine, RDC 0 to 3 and ENL 4 to 7. No row tells it. -/
opaque t2Fails : Nat → Nat → Bool

/-- The failing rows, by bank and row, that T1 finds when a reset of D7 or D8 runs it on the banks of the domain (R117). No row tells them. -/
opaque t1Rows : Nat → List (Fin 64 × Fin 512)

/-- Whether a trip pulse of 20 to 49 ns acts (R366 decides only shorter and longer ones). -/
opaque shortTrip : Nat → Bool

/-- Whether a PFAIL_N pulse of 5 to 19 ns acts (R522 decides only shorter and longer ones). -/
opaque shortPfail : Nat → Bool

/-- The VERSION that the header of an image written by `FWUPDATE COMMIT` carries (R103): the update brings the bytes of the image only, and no rule says where among
them its version stands. -/
opaque imageVersion : List (BitVec 8) → BitVec 32

/-- The compare value of a phase that the inverse transform and space-vector modulation give, before the sampling window is kept clear (R357, R358): vd, vq, the
angle, the mechanical speed, the pole pairs, the bus voltage, and the phase. The spec gives the method and no precision. -/
opaque svm : Int → Int → BitVec 32 → Int → Nat → Nat → Fin 3 → Nat

/-- The currents of the rotating frame that the phase currents U, V and W give at an angle (R358): the d and the q axis. The spec gives the method and no precision. -/
opaque parkD : Int → Int → Int → BitVec 32 → Int
opaque parkQ : Int → Int → Int → BitVec 32 → Int

/-- What SEQ drives LAT's output to in an open-loop lateral move (R334, R376), by the wrap left and the wrap sought: the spec gives no command. -/
opaque openMove : Nat → Nat → Int

/-- A voltage vector scaled down to a magnitude with its angle kept (R357, R379): d and q, and the limit. -/
opaque scaleD : Int → Int → Rat → Int
opaque scaleQ : Int → Int → Rat → Int

/-- Servo frames between the append point and the next dataset after a backhitch, less 1 (R342 allows 1 to 3). -/
opaque hitchGap : Nat → Fin 3

/-- How many records of a dump whose hold-up failed were saved whole (R111, R418), by the SEQ of its control block. -/
opaque dumpedPrefix : Nat → Nat

/-- What the master records of a node that is not its own child (R441): CRSP carries the UID of its sender only (R438), and no frame carries the rest. The arguments are the
number of the sweep and the node ID. -/
opaque censusUid : Nat → Nat → BitVec 64
opaque censusParent : Nat → Nat → BitVec 16
opaque censusPort : Nat → Nat → Fin 3
opaque censusDepth : Nat → Nat → Fin 64
opaque censusHop : Nat → Nat → BitVec 16
opaque censusPath : Nat → Nat → BitVec 32

/-- The back-EMF voltage that MDR measures on an axis turning at a speed in 2^-16 rad/s (R360, R390), in 2^-16 V: the spec gives no constant of the motors. -/
opaque backEmf : Nat → Int → Int

/-- Whether an entry of the save list reads as uncorrectable at a restore (R265): the number of the draw, and of the entry. -/
opaque slBad : Nat → Nat → Bool

/-- The boundary-scan path (R493): its balls in order from TDO on, what the instruction register captures above its two low bits, the instruction a code selects, and the level a cell observes at a ball
whose level the model does not hold. The spec gives none of them. -/
opaque scanPath : List String
opaque irCapture : List Bool
opaque irInstr : List Bool → Fin 4
opaque ballLevel : Nat → String → Bool

/-- What the UNITS field of a control block holds while it is not valid (R416). -/
opaque openUnits : Nat → BitVec 32

end Sys2Proof.Config
end

