-- ==== Sys2Proof/Machine/Sparse.lean ====
section
/-! DEFINITION. Sparse storage in one canonical form: a list of (key, value) pairs with strictly rising keys, holding no pair whose value
is what an unlisted key reads as. The register file and every memory of the model are held so; equal contents are equal lists. -/

namespace Sys2Proof.Machine

/-- The value at a key; an unlisted key reads as `d key`. -/
def sget {α : Type} (d : Nat → α) : List (Nat × α) → Nat → α
  | [], k => d k
  | (k', v) :: t, k => if k = k' then v else sget d t k

/-- Put a pair at its place in the order of keys. -/
def sinsert {α : Type} : List (Nat × α) → Nat → α → List (Nat × α)
  | [], k, v => [(k, v)]
  | (k', v') :: t, k, v =>
    if k < k' then (k, v) :: (k', v') :: t
    else if k = k' then (k, v) :: t
    else (k', v') :: sinsert t k v

/-- Take a key's pair out. -/
def serase {α : Type} : List (Nat × α) → Nat → List (Nat × α)
  | [], _ => []
  | (k', v') :: t, k => if k = k' then serase t k else (k', v') :: serase t k

/-- Write a value at a key; writing what an unlisted key reads as takes the pair out. -/
def sset {α : Type} [DecidableEq α] (d : Nat → α) (l : List (Nat × α)) (k : Nat) (v : α) : List (Nat × α) :=
  if v = d k then serase l k else sinsert l k v

/-- Keys below the first key of a list. -/
def sbelow {α : Type} (k : Nat) : List (Nat × α) → Bool
  | [] => true
  | (k', _) :: _ => decide (k < k')

/-- The canonical form. -/
def swf {α : Type} [DecidableEq α] (d : Nat → α) : List (Nat × α) → Bool
  | [] => true
  | (k, v) :: t => decide (v ≠ d k) && sbelow k t && swf d t

/-- Take out every pair whose key lies in a range (a block of registers returns to reset). -/
def sclear {α : Type} (lo hi : Nat) : List (Nat × α) → List (Nat × α)
  | [] => []
  | (k, v) :: t => if lo ≤ k ∧ k < hi then sclear lo hi t else (k, v) :: sclear lo hi t

/-- Memory of bytes: what a byte that nothing has written reads as (DESIGN CHOICE, log entry 2). -/
def byte0 : Nat → Byte := fun _ => 0#8

/-- The canonical form of a memory of bytes. -/
def Memory.wf (m : List (Nat × Byte)) : Bool := swf byte0 m

/-- One byte of a memory. -/
def mget (m : List (Nat × Byte)) (a : Nat) : Byte := sget byte0 m a

/-- Write one byte of a memory. -/
def mset (m : List (Nat × Byte)) (a : Nat) (b : Byte) : List (Nat × Byte) := sset byte0 m a b

/-- Read `n` bytes from an address upward. -/
def mgetN (m : List (Nat × Byte)) (a : Nat) : Nat → List Byte
  | 0 => []
  | n + 1 => mget m a :: mgetN m (a + 1) n

/-- Write a list of bytes from an address upward. -/
def msetL (m : List (Nat × Byte)) (a : Nat) : List Byte → List (Nat × Byte)
  | [] => m
  | b :: bs => msetL (mset m a b) (a + 1) bs

/-- A value of bytes, least significant byte first (R11). -/
def leValue : List Byte → Nat
  | [] => 0
  | b :: bs => b.toNat + 256 * leValue bs

/-- The `n` bytes of a value, least significant first. -/
def leBytes : Nat → Nat → List Byte
  | 0, _ => []
  | n + 1, v => BitVec.ofNat 8 v :: leBytes n (v / 256)

/-- The `n` bytes of a value, most significant first (R11, on-tape formats and frames). -/
def beBytes (n v : Nat) : List Byte := (leBytes n v).reverse

/-- A value of bytes, most significant byte first. -/
def beValue (l : List Byte) : Nat := leValue l.reverse

/-- Place a field value in a word, leaving the other bits (R13). -/
def putBits (w lo width v : Nat) : Nat :=
  w - (w / 2 ^ lo % 2 ^ width) * 2 ^ lo + (v % 2 ^ width) * 2 ^ lo

/-- A field of a word. -/
def getBits (w lo width : Nat) : Nat := w / 2 ^ lo % 2 ^ width

/-- Saturating addition in a field of `width` bits. -/
def satAdd (width v n : Nat) : Nat := min (2 ^ width - 1) (v + n)

end Sys2Proof.Machine
end

