-- ==== Sys2Proof/Machine/State.lean ====
section
/-! DEFINITION. The state of the DTF-3260 as plain data. -/

namespace Sys2Proof.Machine

/-- The model never stops with a fault: the spec gives every command of this block an effect. -/
inductive Fault where
  /-- Raised by nobody (safe: it is never answered). -/
  | never
  deriving DecidableEq, Repr

/-- Why a command is refused by the model. -/
inductive Refusal where
  /-- Raised by `exec` for a command that has no meaning yet (safe: the run stops). -/
  | notModelled (mnemonic : String)
  deriving DecidableEq, Repr

/-! ### Plova (02_command_line, 03_command_reference) -/

/-- Privilege levels (R61). -/
inductive Level where | view | operate | service
  deriving DecidableEq, Repr

/-- The number of a level in PCL.SSTATn.LEVEL. -/
def Level.num : Level → Nat
  | .view => 0 | .operate => 1 | .service => 2

/-- The state variable CART (R79). -/
inductive Cart where | none | present | loading | ready | writing | reading | unloading | fault
  deriving DecidableEq, Repr

/-- The state variable MOT (R79). -/
inductive Mot where | stopped | moving | tripped
  deriving DecidableEq, Repr

/-- What is to be done with a complete line: execute it, answer a rejection or an empty line in its place (R45, R48), or wait for the answers of a forwarded
line (R64, R66): the tags of the commands sent and their nodes, and what has come back. -/
inductive WKind where
  | run
  | reject (e : Er)
  | blank
  | forward (star writes : Bool) (waitFor : List (Nat × Nat)) (answered : List (Nat × List (List Char))) (failed : List (Nat × Er × List Item))
  deriving DecidableEq, Repr

/-- A complete line of a session (R45): how it is answered, and its characters. -/
structure WLine where
  ln : Ln
  text : List Char
  kind : WKind
  deriving DecidableEq, Repr

/-- A key in staging (R92); parts in order, the most significant first. -/
structure KeyStage where
  kind : KeyKind
  slot : Nat
  parts : List DWord
  deriving DecidableEq, Repr

/-- One Plova session (R41 to R63). `chal` is the outstanding challenge with its time in us. -/
structure Session where
  isOpen : Bool
  port : Nat
  level : Level
  echo : Bool
  edit : Bool
  crc : Bool
  filter : EvFilter
  buf : List Char
  tooLong : Bool
  badChar : Bool
  overrun : Bool
  lastCr : Bool
  lines : List WLine
  evq : List Line
  lost : Nat
  chal : Option (List Char × Nat)
  key : Option KeyStage
  deriving DecidableEq, Repr

/-- A line forwarded to this node that waits for its verb (R64, R447). -/
structure Remote where
  node : BitVec 16
  tag : BitVec 16
  level : Level
  text : List Char
  deriving DecidableEq, Repr

/-- An open firmware update (R91, R93). -/
structure Update where
  owner : Who
  size : Nat
  words : List Word
  deriving DecidableEq, Repr

/-- The Plova command line: sessions, the motion lock, SERVICE denials, forwarded lines, the open update, who waits for which long
operation, or for the close that answers their `FLUSH` (with the number of the flush, R232), the wakes still to be told, and the keys that lines from other nodes have in staging (R41 to R96). -/
structure Console where
  ses : Vector Session 6
  mlock : Option Who
  denials : List Nat
  lockout : Option Nat
  remotes : List Remote
  update : Option Update
  opCart : List Ln
  opMotion : Option Ln
  opReset : List (Tenant × Ln)
  opPower : Option Ln
  opCensus : List Ln
  opCodec : List Ln
  opProof : Option Ln
  opBoot : Option Ln
  opTank : Option Ln
  opFw : Option Ln
  opFlush : List (Nat × Ln)
  wakes : List (Wake × Pwr)
  remKeys : List (Who × KeyStage)
  deriving DecidableEq, Repr

/-- A read that waits for earlier writes of its source (R68): of a register, a cascade `PEEK` with its origin and TAG, or a `PEEK` line. -/
inductive HeldRead where
  | bus (src : Src) (off : Nat)
  | peek (node tag : BitVec 16) (off : Word)
  | line (ln : Ln) (target : Target) (count : Option Nat)
  deriving DecidableEq, Repr

/-- The arbiter (R68 to R73): orders carried over to the next tick, the winners of the last tick, the sources that lost in it, and the reads that wait, oldest first; the SEQ that the ERR log had reached when they were decided. -/
structure Arb where
  carried : List Order
  winners : List Order
  losers : List OrderSrc
  reads : List HeldRead
  mark : Nat
  deriving DecidableEq, Repr

/-- The ERR log (R470, R473): records held, newest first; the next SEQ; whether one was overwritten; whether any was written since
power-on, and the newest one's code and SEQ; while the winners of an arbitration tick take effect, the SEQ of the first record of that tick. -/
structure ErrLog where
  recs : List ErrRec
  next : Nat
  wrap : Bool
  last : Option (Nat × Er)
  fresh : Option Nat
  deriving DecidableEq, Repr

/-- Latches of 64-bit accesses (R16), one of each kind for each source that holds one. -/
structure Latch where
  src : Src
  off : Nat
  half : Word
  deriving DecidableEq, Repr

/-! ### Start-up and reset (04) -/

/-- How far start-up has come (R98). -/
inductive Phase where | held | fuses | image | test | scan | init | up
  deriving DecidableEq, Repr

/-- Start-up, the boot flash and the fuses (R97 to R106, R120): the phase; PWRGD; the straps; rescue mode; a fuse map that failed for good; the fuses; the two image slots, the one
booted and its version; whether the watchdog is stopped; a `TEST BOOT` run; a warm reset in progress and whether it keeps the Tank (R116), a
PERST_N assertion that waits for the end of a warm reset, an update that is being written with the CRC its `COMMIT` named, the supply monitor low (R509), and the 25 MHz reference lost (R517). -/
structure Boot where
  phase : Phase
  pwrgd : Bool
  master : Bool
  testEn : Bool
  vsel : BitVec 3
  rescue : Bool
  noStart : Bool
  fuses : Fuses
  slotA : Slot
  slotB : Slot
  bootedB : Bool
  version : Word
  wdogHeld : Bool
  testing : Bool
  warming : Bool
  keepTank : Bool
  perstDue : Bool
  commit : Option (Word × Update)
  supplyLow : Bool
  refLost : Bool
  deriving DecidableEq, Repr

/-! ### Host ports (05) -/

/-- One word of an MSI-X table that a host has written (R130): function, entry, word and value; an unlisted word is at its PCI Express
reset value (0, and the mask bit of word 3 set). -/
structure MsixWord where
  fn : Tenant
  entry : Fin 64
  word : Fin 4
  v : Word
  deriving DecidableEq, Repr

/-- What one function holds apart from its table: MSI-X Enable, Function Mask, pending bits, RESETTING (R132, R193, R201), the
window counters TCNT, and the words of its configuration space that a host has written, by offset (R127). -/
structure Fn where
  t : Tenant
  enable : Bool
  mask : Bool
  pend : List (Fin 64)
  resetting : Bool
  baddb : Nat
  confl : Nat
  cfg : List (Nat × Word)
  deriving DecidableEq, Repr

/-- The host interface (R127 to R134): functions that hold something, MSI-X tables, SR-IOV, PERST_N, and the speed and width of the link while it is up. Doorbells in XC-7 are
the DOORBELL_WRITE commands that wait in the queue (log entry 19). -/
structure Hif where
  fns : List Fn
  msix : List MsixWord
  vfen : Bool
  numVf : Nat
  ari : Bool
  perst : Bool
  link : Option (Nat × Nat)
  deriving DecidableEq, Repr

/-- A DRT datagram held above CUM, or received and not yet in the Tank (R151): with the time of its arrival and the SYNC state then (R141, R149). -/
structure Held where
  seq : Nat
  seg : DrtSeg
  ts : Bool
  barrier : Bool
  at' : Nat
  locked : Bool
  deriving DecidableEq, Repr

/-- The last NOTIFY of one kind of state a session was sent, and the code, value and time of the latest state, which waits for the end of its holdoff (R197, R199). -/
structure Notified where
  kind : Nat
  code : Nat
  value : Nat
  held : Option (Nat × Nat × Nat)
  deriving DecidableEq, Repr

/-- The record a DRT session is reassembling (R147 to R149): its length, the bytes so far, its pages, its timestamp, the SYNC state when it was taken, and the BARRIERs ahead of it (R181). -/
structure Part where
  rlen : Nat
  got : Nat
  pages : List Nat
  ts : Nat
  locked : Bool
  hostts : Bool
  mark : Bool
  bars : List Nat
  deriving DecidableEq, Repr

/-- A DRT session (R145 to R157). `ridx` is the RIDX of the record in progress or next; `rbase` the sequence number of RIDX 0; `link` the stripe head of a session over the cascade (R452); `dseq` the device's own
datagram count; `openAck` the payload of its OPENACK; `lastWin` the WIN last sent; `cut` that its CLOSEACK discarded an incomplete record; `wait` the datagrams up to CUM whose segments are not yet
in the Tank, in order, each with the BARRIERs ahead of a record that starts with it; `stuck` the lowest RIDX that was ABORTED, which NSEC and NDUR never pass (R150). -/
structure Drt where
  id : Nat
  link : Option LinkPeer
  port : Fin 2
  mac : BitVec 48
  ip : Word
  udp : BitVec 16
  tenant : Tenant
  qid : Qid
  nonce : Word
  win : Nat
  maxseg : Nat
  cum : Nat
  held : List Held
  part : Option Part
  ridx : Nat
  nacc : Nat
  nsec : Nat
  ndur : Nat
  rbase : Nat
  dseq : Nat
  sinceAck : Nat
  ackDue : Bool
  lastAck : Option Nat
  lastWin : Nat
  final : Option Nat
  closing : Bool
  cut : Bool
  openAck : List Byte
  notes : List Notified
  wait : List (Held × List Nat)
  stuck : Option Nat
  deriving DecidableEq, Repr

/-- Ethernet, 802.1AS and DRT (R135 to R159). `ns` is the timebase; `good` counts consecutive Sync intervals with an offset below 1 us; `slew` is the offset
still to be slewed away; `rate` the last rate correction in parts per 10^9 and `frac` what it has added up to below 1 ns, in 10^-6 ns; `noSession` is when each source address was last told NOSESSION (R154); `runts` counts partial frames that
were discarded at XC-3 (R30), a count that no register shows. -/
structure Eth where
  ns : Nat
  good : Nat
  slew : Int
  rate : Int
  frac : Int
  drt : List Drt
  nextId : Nat
  noSession : List ((Word × Option DWord) × Nat)
  runts : Nat
  deriving DecidableEq, Repr

/-! ### Queues, records, interrupts and shares (06, 07) -/

/-- What a READ has learned of its record from the pieces expanded so far (R183, R219, R233). -/
structure Got where
  qid : Nat
  seq : Nat
  tstamp : Nat
  rlen : Nat
  hostts : Bool
  ds : Nat
  replay : Bool
  data : List Byte
  deriving DecidableEq, Repr

/-- An outstanding READ (R183): its descriptor, the time of its fetch, the record so far, the status it ends with once one is decided, and the datasets whose extent of its tenant has passed the seal check
for it (R27, R297). -/
structure ReadOp where
  d : Desc
  since : Nat
  got : Option Got
  status : Option Er
  checked : List Nat
  deriving DecidableEq, Repr

/-- A descriptor slot whose descriptor has been fetched and has no final code yet (R168): the record, the READ, or the BARRIER in it. -/
inductive SlotUse where
  | write (uid : Nat)
  | read (r : ReadOp)
  | barrier (id : Nat)
  deriving DecidableEq, Repr

structure Outstanding where
  slot : Nat
  cid : BitVec 16
  use : SlotUse
  deriving DecidableEq, Repr

/-- A queue (R160 to R170). `slot` is its slot in the tenant window (R126), `out` its outstanding descriptors in ring order,
`nextAt` the record (dataset, queue, number) the previous READ returned, after which a READ with NEXT goes on (R183), `bound` the DRT session bound to it,
`barred` that a BARRIER stands before the next record (R219). -/
structure Queue where
  id : Qid
  tenant : Tenant
  slot : Fin 64
  drt : Bool
  ring : Nat
  size : Nat
  timeout : Nat
  shortTmo : Bool
  head : Nat
  tail : Nat
  nextSeq : Nat
  out : List Outstanding
  nextAt : Option (Nat × Nat × Nat)
  bound : Option Nat
  barred : Bool
  deriving DecidableEq, Repr

/-- The level a record has reached (R171); `moving` is before ACCEPTED. -/
inductive RLevel where | moving | accepted | secured | durable
  deriving DecidableEq, Repr

/-- A record on its way to tape (R166 to R182). `uid` is its place in the order of submission, `acc` in the order of becoming ACCEPTED, `sec` in the order of
charging; `pages` are its Tank pages in order (R243); `feed` the feed that took it (R215);
`ds` the datasets that hold it (R26); `whole` says that every block carrying it is placed; `barriers` are the BARRIERs ahead of it;
`unsec` that its turn came while it was above FCAP, so that it is never charged (R172); `carried` that a function-level reset has orphaned it (R200); `replay` that it came from a dump,
whose bytes `body` then holds; `hostts` that its timestamp came from the host, `mark` that a BARRIER stands before it (R219); `lent` names the port and
the handle of a lender that holds its bytes (R461). -/
structure Rec where
  uid : Nat
  tenant : Tenant
  qid : Qid
  seq : Nat
  tstamp : Nat
  locked : Bool
  length : Nat
  cid : BitVec 16
  slot : Nat
  addr : DWord
  level : RLevel
  acc : Nat
  sec : Option Nat
  unsec : Bool
  reported : Nat
  pages : List Nat
  feed : Option Nat
  ds : List Nat
  whole : Bool
  barriers : List Nat
  drt : Bool
  carried : Bool
  replay : Bool
  body : Option (List Byte)
  hostts : Bool
  mark : Bool
  lent : Option (Nat × Nat)
  deriving DecidableEq, Repr

/-- A BARRIER (R179 to R181): the queue it stands in, its slot (none for DRT), the uids of its before set, and whether its queue still exists, so that it may come to stand before further
records. -/
structure Barrier where
  id : Nat
  qid : Qid
  tenant : Tenant
  slot : Option (Nat × BitVec 16)
  before : List Nat
  live : Bool
  deriving DecidableEq, Repr

/-- The queue manager (R160 to R187, R200 to R202). -/
structure Qmg where
  queues : List Queue
  recs : List Rec
  barriers : List Barrier
  nextUid : Nat
  nextAcc : Nat
  nextSec : Nat
  deriving DecidableEq, Repr

/-- The count of a pool entry's events not yet signalled, and the time of the first (R191). -/
structure Pool where
  p : Nat
  count : Nat
  first : Nat
  deriving DecidableEq, Repr

/-- A pending change of a tenant's share (R211). -/
structure ShareChange where
  t : Tenant
  w : Word
  deriving DecidableEq, Repr

/-- A tenant's deficit and token balance (R207, R208). -/
structure Bal where
  t : Tenant
  deficit : Nat
  tokens : Int
  deriving DecidableEq, Repr

/-- The Fixer's state as `POWER?` reports it (R107). -/
inductive FixSt where | ready | dumped | replay
  deriving DecidableEq, Repr

/-- The scheduler (R205 to R212): deficits and balances, the round-robin positions of orders 1 to 3, the tenants still to visit in the round in
progress, starving BULK tenants owed a quantum, the queue turn of each tenant, pending changes, and the feed counter (R215). -/
structure Sch where
  bals : List Bal
  rr1 : Nat
  round : List Tenant
  roundBulk : Bool
  starved : List Tenant
  turns : List (Tenant × Nat)
  changes : List ShareChange
  nextFeed : Nat
  deriving DecidableEq, Repr

/-! ### Reducer, Enlarger and datasets (08, 10) -/

/-- A piece of a record as RDC cuts it (R221): the record, the offset and the length. -/
structure PieceRef where
  uid : Nat
  off : Nat
  len : Nat
  deriving DecidableEq, Repr

/-- A feed an engine holds (R215): its number, the records not yet cut whole, the bytes of the first already cut, the blocks begun, and the place in the feed's order under which they stand: none for the feed as
it was given, that of a block which ended early for what that block left (R232, R239). -/
structure Feed where
  no : Nat
  tenant : Tenant
  uids : List Nat
  off : Nat
  next : Nat
  replay : Bool
  base : List Nat
  deriving DecidableEq, Repr

/-- A block being encoded, or to be encoded again (R239): its feed, its place in the feed (places stand in lexicographic order), its pieces, and the mode in force when it was begun (R230). -/
structure Job where
  feed : Nat
  k : List Nat
  tenant : Tenant
  pieces : List PieceRef
  mode : Nat
  replay : Bool
  deriving DecidableEq, Repr

/-- An RDC engine (R214, R235 to R238): `flush` that a flush landed on its block, `mism` its shadow mismatches, `dead` that a fault disabled it, `ok` that it passed
its last test, `held` that the next thing it does is a self-test slice. -/
structure RdcEng where
  feed : Option Feed
  job : Option Job
  flush : Bool
  mism : Nat
  dead : Bool
  ok : Bool
  held : Bool
  deriving DecidableEq, Repr

/-- An ENL engine between blocks; `held` that the next thing it does is a self-test slice (R237). -/
structure EnlEng where
  dead : Bool
  ok : Bool
  held : Bool
  deriving DecidableEq, Repr

/-- An encoded block that waits to be placed (R215, R216). -/
structure BlkOut where
  job : Job
  bytes : List Byte
  deriving DecidableEq, Repr

/-- A codec self-test run (R236, R237): vectors done by each engine, whether one failed, and whether a kind waits for an engine. -/
structure CodecTest where
  rdc : List Nat
  enl : List Nat
  failed : Bool
  rdcWait : Bool
  enlWait : Bool
  deriving DecidableEq, Repr

/-- The codec: engines, encoded blocks, blocks to encode again, the self-test run (R214 to R240). -/
structure Cdc where
  rdc : Vector RdcEng 4
  enl : Vector EnlEng 4
  ready : List BlkOut
  redo : List Job
  test : Option CodecTest
  deriving DecidableEq, Repr

/-- What the record index holds of a block whose header lies in the dataset (R273). -/
structure IdxInfo where
  cont : Bool
  qid : Nat
  seq : Nat
  deriving DecidableEq, Repr

/-- A run of extent bytes: a block, the first part of one, or the rest of one (R272). -/
structure Chunk where
  head : Option IdxInfo
  bytes : List Byte
  deriving DecidableEq, Repr

/-- An extent being built (R271, R272). -/
structure Ext where
  tenant : Tenant
  cont : Nat
  split : Bool
  chunks : List Chunk
  deriving DecidableEq, Repr

/-- A key slot that holds a key (R291); `gen` counts the keys the slot has been given. -/
structure KeySlot where
  t : Tenant
  hmac : Option (List Byte)
  aes : Option (List Byte)
  gen : Nat
  deriving DecidableEq, Repr

/-- A link of a seal chain (R293). -/
structure Link where
  t : Tenant
  no : Nat
  ds : Nat
  mac : List Byte
  gen : Nat
  deriving DecidableEq, Repr

/-- What a dataset is formed from (R268 to R274): its extents, the keys when its build started, the timestamps of records starting in it with the SYNC state, the records
with a piece in it, and its flags. -/
structure DsSrc where
  exts : List Ext
  keys : List KeySlot
  starts : List (Nat × Bool)
  uids : List Nat
  replay : Bool
  flushed : Bool
  supers : Option Nat
  deriving DecidableEq, Repr

/-- A C3 group (R286, R287): the number of its first dataset, its next position, the contents at each position, and the number its first dataset had when the group began, by which it is known when its first dataset is superseded. -/
structure Group where
  first : Nat
  next : Nat
  members : List (Nat × List Byte)
  id : Nat
  deriving DecidableEq, Repr

/-- A closed dataset (R268 to R279): kind 0 data or 1 parity, group position, GDIST, C3K, content, the chain links it adds, and the group as it
stands with it. -/
structure Built where
  src : DsSrc
  num : Nat
  kind : Nat
  pos : Nat
  gdist : Nat
  k : Nat
  nsub : Nat
  content : List Byte
  links : List Link
  grp : Option Group
  deriving DecidableEq, Repr

/-- A frame on tape that awaits its verdict: channel, slot, its row (128 times the subset plus the row), and whether it was cut short (R35, R332). -/
structure Frame where
  ch : Nat
  slot : Nat
  row : Nat
  cut : Bool
  deriving DecidableEq, Repr

/-- A dataset being written (R280, R283, R284): the next slot of each channel, frames awaiting verdicts, failed rows in verdict order with the channel of the last failed
copy, rows passed, pool slots used for rewrites, and the PRF thresholds in force (R313), the LPW it starts at, and whether ER 515 has been written for it (R314). -/
structure Stream where
  ds : Built
  next : List Nat
  frames : List Frame
  queue : List (Nat × Nat)
  passed : List Nat
  pool : Nat
  verified : Bool
  thr : Word
  start : Nat
  said : Bool
  deriving DecidableEq, Repr

/-- FMT (R268 to R289): the open dataset, the rest of a split block (and whether it is replayed), closed datasets waiting to stream, those streaming (oldest first), the next dataset number,
the group, how many datasets were abandoned in a row, the flushes to be carried out, each once every feed below a number is placed (ascending), the last dataset that passed, whether a RECORD STOP is under way, whether
the data region is full (R468), and the Tank pages FMT holds (R289). -/
structure Fmt where
  cur : Option DsSrc
  rest : Option (Tenant × List Byte × List Nat × Bool)
  built : List Built
  streams : List Stream
  nextDs : Nat
  group : Option Group
  abandoned : Nat
  flushTo : List Nat
  last : Option Nat
  stopping : Bool
  full : Bool
  pages : List Nat
  deriving DecidableEq, Repr

/-- SEC (R291 to R297): the key store, the session's salt, the running chains and the verified ones (retention SRAM), the cartridge they belong to, and the tenants
ER 531 was written for in this session. -/
structure Sec where
  keys : List KeySlot
  salt : List Byte
  chains : List Link
  verified : List Link
  cart : List Char
  nokey : List Tenant
  deriving DecidableEq, Repr

/-- What DFM holds of a tenant's last sealed extent checked for a READ with NEXT (R297), with the salt of its write session. -/
structure SealSeen where
  q : Qid
  t : Tenant
  no : Nat
  mac : List Byte
  salt : List Byte
  deriving DecidableEq, Repr

/-! ### Tape, read channel, Proof (11, 12) -/

/-- An entry of the tape directory (R346): the datasets of a wrap and where they lie. -/
structure WrapEnt where
  first : Nat
  last : Nat
  firstLpw : Nat
  endLpw : Nat
  deriving DecidableEq, Repr

/-- The tape hint of the retention SRAM (R347). -/
structure Hint where
  cart : List Char
  wrap : Nat
  num : Nat
  endLpw : Nat
  highest : Nat
  deriving DecidableEq, Repr

/-- The cartridge in the slot and its tape (R345 to R349): identity, write protection, whether blank, its C3 mode, whether threaded, whether its directory is unknown
(R347), the argument of the LOAD in progress, the highest generation found, the live directory by wrap index, the present wrap index, the append point, and the hint. -/
structure Tape where
  id : List Char
  wp : Bool
  blank : Bool
  c3 : Bool
  threaded : Bool
  noDir : Bool
  c3arg : Option Bool
  gen : Nat
  wraps : List WrapEnt
  wrap : Nat
  append : Nat
  hint : Option Hint
  deriving DecidableEq, Repr

/-- A Proof self-test run (R320, R321): the next channel, and the first that failed. -/
structure ProofRun where
  next : Nat
  bad : Option Nat
  deriving DecidableEq, Repr

/-- A row in a channel's compare buffer (R310): the 12 header bytes and the 496 row bytes written in a slot. -/
structure Written where
  ch : Nat
  slot : Nat
  bytes : List Byte
  deriving DecidableEq, Repr

/-- What the verify element read in a slot (R306, R307): the 508 bytes with their defect flags, or none when the sync was not matched; and whether lock was lost in the frame. -/
structure Back where
  ch : Nat
  slot : Nat
  got : Option (List (Byte × Bool))
  lost : Bool
  deriving DecidableEq, Repr

/-- Proof: the run in progress, how many verdicts in a row each channel has failed (R314), the compare buffers (R310), and what was read back of frames that await their verdicts. -/
structure Prf where
  test : Option ProofRun
  runs : List Nat
  buf : List Written
  back : List Back
  deriving DecidableEq, Repr

/-- The dataset DFM is recovering (R290, R315, R316): repositions made, the retry in force (0 for a first pass), whether the ladder is to stop at the next boundary (R317), the READs the dataset serves,
and the speed step of the first pass, taken at the first retry. -/
structure Dfm where
  ds : Nat
  tries : Nat
  step : Nat
  stop : Bool
  reads : List (Qid × Nat)
  base : Nat
  deriving DecidableEq, Repr

/-- The Loupe (R318, R319): whether triggered, samples newest first with the count since the trigger, and the held buffer, oldest first. -/
structure Loupe where
  armed : Bool
  fired : Option Nat
  ring : List Byte
  held : List Byte
  deriving DecidableEq, Repr

/-- The loops of a data input in a zone (R302 to R304): the values the gain, offset, asymmetry and timing loops hold at the end of the last frame, and the equaliser taps. -/
structure Loops where
  input : Nat
  e : Bool
  gain : Int
  offset : Int
  asym : Int
  freq : Int
  taps : List Int
  deriving DecidableEq, Repr

/-- Where the next frame of an input is expected (R306): its dataset, its slot there, and its first symbol, counted from the place at which the LPW puts the dataset's first frame. -/
structure Track where
  input : Nat
  ds : Nat
  slot : Nat
  start : Int
  deriving DecidableEq, Repr

/-- A row DFM keeps (R290 step 2, R315): its dataset, subset and row, and its 472 data bytes as C1 corrected them. -/
structure RowKept where
  ds : Nat
  subset : Nat
  row : Nat
  data : List Byte
  deriving DecidableEq, Repr

/-- What the row headers of a dataset say of it (R279): its number, whether it is a parity dataset, NSUB, and with C3 its group position, C3K and the number of the group's first dataset. -/
structure DsSeen where
  num : Nat
  parity : Bool
  nsub : Nat
  c3 : Bool
  pos : Nat
  k : Nat
  first : Nat
  deriving DecidableEq, Repr

/-- RCH and DFM (R299 to R319, R290): the Loupe, the dataset being recovered, the seal links seen for READs with NEXT, inputs in a loss of lock with the symbol of the frame in progress at which it fell, the loops, the
expected frames, the rows kept, what headers told of datasets, and the datasets known to be superseded, each with the one to be used in its place (R285). -/
structure Rch where
  loupe : Loupe
  dfm : Option Dfm
  seen : List SealSeen
  lost : List (Nat × Nat)
  loops : List Loops
  tracks : List Track
  rows : List RowKept
  found : List DsSeen
  sup : List (Nat × Nat)
  deriving DecidableEq, Repr

/-- A record of a dump (R175): what R110 keeps of it, and its bytes. -/
structure DumpRec where
  tenant : Tenant
  qid : Qid
  seq : Nat
  tstamp : Nat
  locked : Bool
  hostts : Bool
  mark : Bool
  bad : Bool
  data : List Byte
  deriving DecidableEq, Repr

/-- A dump being replayed, or to be (R107 to R111): the records not yet released in dump order, and the last number of each queue that is replayed. -/
structure Dump where
  recs : List DumpRec
  queues : List (Tenant × Qid × Nat)
  deriving DecidableEq, Repr

/-- The Fixer's contents as the current control block tells them (R414 to R418): its SEQ, STATE (0 NONE, 1 DUMPING, 2 DUMPED, 3 REPLAY), START, CHARGED, CHGBYTES, UNITS,
RELEASED, DUMPS, TOTALUNITS and TPFAIL; the duration of the last dump in 0.01 ms; the saved ERR records, newest first; the hint; the records not yet released, in charge order. -/
structure Journal where
  seq : Nat
  st : Nat
  start : Nat
  charged : Nat
  chgBytes : Nat
  units : Nat
  released : Nat
  dumps : Nat
  total : Nat
  tpfail : Nat
  lastMs : Nat
  errs : List ErrRec
  hint : Option Hint
  recs : List DumpRec
  deriving DecidableEq, Repr

/-! ### Servo, motor drive, control loops (12, 13, 14) -/

/-- A motion order that starts the reels (R360): which, and for `LOCATE` what it seeks. -/
inductive Move where
  | load
  | unload
  | record
  | motion
  | locateDs (n : Nat)
  | locateLpw (x : Nat)
  | read
  deriving DecidableEq, Repr

/-- The phase of a start of the reels (R360). -/
inductive StartPhase where | catching | braking | aligning | running
  deriving DecidableEq, Repr

/-- A start under way (R360, R361): its phase, the reels that have still to fall below 2 %, whether it has failed once, and whether `MOTION STOP` has ended it. -/
structure Start where
  phase : StartPhase
  left : List Nat
  failed : Bool
  stop : Bool
  deriving DecidableEq, Repr

/-- An axis of MDR (R354 to R359): phase currents of the last sample instant in 1/256 mA, and those of the rotating frame; the electrical angle, the turns of it accumulated since the start
modulo one mechanical turn, whether the angle was increasing; the mechanical speed in 2^-16 rad/s; the compare values in force; the mode in the last period, the periods it has lasted, and whether it
followed I/f. -/
structure AxisSt where
  iu : Int
  iv : Int
  id : Int
  iq : Int
  theta : BitVec 32
  acc : Nat
  up : Bool
  w : Int
  cmp : List Nat
  mode : Nat
  ticks : Nat
  fromIf : Bool
  deriving DecidableEq, Repr

/-- MDR (R352 to R373): axes 0 SUPPLY, 1 TAKEUP, 2 FAN; the coil current and the compare values of legs A and B; trip inputs that are low; the motion order that commands
motion; whether it runs in reverse; the start and the controlled stop under way; the step commanded; whether PFAIL_N has the reels braked; the fan's reference in % of
RATED, its stalls in a row, whether one has it stopped, and whether the over-temperature has been reported; and the tape-speed reference of the ramp generator in 2^-16 m/s (R362). -/
structure Mdr where
  axes : Vector AxisSt 3
  coil : Int
  hcmp : List Nat
  pins : List MUnit
  order : Option Move
  rev : Bool
  start : Option Start
  stopping : Bool
  step : Nat
  fanRef : Rat
  stalls : Nat
  stalled : Bool
  hot : Bool
  vRef : Rat
  deriving DecidableEq, Repr

/-- A servo symbol (R326): 0, 1, S, or the invalid pattern. -/
inductive Sym where | zero | one | sync | bad
  deriving DecidableEq, Repr

/-- A locate under way (R348): the dataset sought, its wrap index, the estimate, the probes made. -/
structure Seek where
  ds : Nat
  ix : Nat
  est : Nat
  probes : Nat
  deriving DecidableEq, Repr

/-- SRV and speed matching (R328 to R344): consecutive settled samples; consecutive frames without a valid reader; whether TRACK has not been reached since LOST; the last
40 symbols of each primary reader, newest first; failed words in a row; the LPW that the last disagreeing word gives for the newest frame; the readers whose band is verified;
failed band moves in a row; the newest sample to leave XC-11, and whether LAT has yet to use it; evaluations in a row below the present step; the last demand in bytes a second and ingest rate in MB/s; whether the tape waits
behind the append point after a backhitch; the locate under way; whether the LPW count has been held at low speed, to be confirmed by the next valid word. -/
structure Srv where
  settled : Nat
  missed : Nat
  sinceLost : Bool
  syms : Vector (List Sym) 2
  badWords : Nat
  other : Option Nat
  bandOk : Vector Bool 2
  moves : Nat
  sample : BitVec 128
  fresh : Bool
  below : Nat
  demand : Nat
  ingest : Nat
  hitch : Bool
  seek : Option Seek
  held : Bool
  deriving DecidableEq, Repr

/-- The last two inputs and outputs of a biquad section (R380). -/
structure Biq where
  x1 : Int
  x2 : Int
  y1 : Int
  y2 : Int
  deriving DecidableEq, Repr

/-- An oscillation detector (R394): its sign state, the executions counted since its window restarted, and those at which a crossing fell, newest first. -/
structure Osc where
  sign : Option Bool
  n : Nat
  hits : List Nat
  deriving DecidableEq, Repr

/-- The state of a loop (R379, R390, R394): integrators (q and d axis for the current loops), outputs last applied, sections, whether the next execution presets the state, whether it falls back
to the ROM set, and its detector. -/
structure LoopSt where
  i : Int
  iD : Int
  out : Int
  outD : Int
  secs : List Biq
  preset : Bool
  toRom : Bool
  osc : Osc
  deriving DecidableEq, Repr

/-- One reel as TENS and the repetitive controller hold it (R381, R384, R385): filtered radius in um, the speed at the last TENS execution, the memory (bins not listed hold 0), the bin
last updated. -/
structure ReelSt where
  radius : Int
  w : Int
  bins : List (Nat × Int)
  last : Option Nat
  deriving DecidableEq, Repr

/-- CLE (R374 to R397): the number of the carrier period modulo 500, the nine loops, supply and take-up, the filtered tension, the feed-forward section (input, output, valid and invalid reads in a row). -/
structure Cle where
  k : Nat
  loops : Vector LoopSt 9
  sup : ReelSt
  tku : ReelSt
  tens : Int
  g1 : Int
  f1 : Int
  ff : Int
  good : Nat
  badRun : Nat
  deriving DecidableEq, Repr

/-! ### What leaves the device -/

/-- A completion entry (R169). -/
structure Cqe where
  seq : Nat
  cid : BitVec 16
  status : Nat
  code : Nat
  replay : Bool
  ds : Nat
  tstamp : Nat
  length : Nat
  deriving DecidableEq, Repr

/-- How an Ethernet frame leaves (R135, R136): the port, the peer's MAC address, PCP and VID of its tag if it has one, and the DF bit of an IPv4 packet. -/
structure EthTx where
  port : Fin 2
  mac : BitVec 48
  tag : Option (Nat × Nat)
  df : Bool
  deriving DecidableEq, Repr

/-- A DRT datagram the device sends (R142, R143), and the address and UDP port it goes to. -/
structure DrtOut where
  ip : Word
  udp : BitVec 16
  ty : Nat
  session : Nat
  flags : Nat
  seq : Nat
  aux : Nat
  payload : List Byte
  deriving DecidableEq, Repr

/-- A link frame (R429). -/
structure LFrame where
  ty : Nat
  hop : Bool
  bcast : Bool
  void : Bool
  nak : Bool
  more : Bool
  done : Bool
  lseq : Nat
  ackseq : Nat
  credit : Nat
  epoch : Nat
  dst : Nat
  src : Nat
  tag : Nat
  payload : List Byte
  deriving DecidableEq, Repr

/-- What the write outputs of a module do (R486, R491): high impedance, a steady differential 0, or data. -/
inductive WriteOut where | hiZ | zero | driven
  deriving DecidableEq, Repr

/-- What the device sends or drives, as seen from outside. `State.out` keeps it, newest first (DESIGN CHOICE, log entry 3). -/
inductive Out where
  /-- a Plova line to a session, or in answer to a forwarded line -/
  | line (who : Who) (l : Line)
  /-- echoed characters and prompts (R53, R54) -/
  | echo (n : Sid) (t : List Char)
  /-- the single line of a refused TCP connection (R42) -/
  | tcpRefused (port : Fin 2) (l : Line)
  | tcpClosed (n : Sid)
  /-- the 32 bytes of a completion entry, written to host memory at an address (R161, R169, R170) -/
  | completion (q : Qid) (addr : Nat) (bytes : List Byte)
  /-- READ data written to host memory (R183) -/
  | hostWrite (addr : Nat) (data : List Byte)
  /-- an MSI-X message of a function's table entry (R192) -/
  | msix (fn : Tenant) (entry : Nat) (addrLo addrHi data : Word)
  | drt (tx : EthTx) (d : DrtOut)
  | arpReply (tx : EthTx) (ip : Word)
  | icmpReply (tx : EthTx) (ip : Word) (data : List Byte)
  /-- a TCP connection accepted, with the MSS and the window scale its SYN-ACK offers (R41, R135) -/
  | tcpAccepted (n : Sid) (mss wscale : Nat)
  /-- the channel bits of a frame written by write element `ch` (R278) -/
  | frame (ch : Nat) (bits : List Bool)
  /-- the row bytes of a frame that RCH passes into XC-10.n with their defect flags, the 12 header bytes first (R304, R309) -/
  | rowRead (input : Nat) (bytes : List (Byte × Bool))
  /-- the value a register read returned to its source (R13, R16) -/
  | readData (src : Src) (off : Nat) (v : Word)
  /-- the rows of a directory copy, each with its channel, written from an LPW of band 1 (zone A) or band 2 (zone B) on (R345, R346) -/
  | directory (lpw : Nat) (rows : List (Nat × List Byte))
  /-- a BAR read answered as Unsupported Request (R134) -/
  | unsupportedRequest (src : Src)
  /-- a PF read answered with a Completer Abort (R253) -/
  | completerAbort (src : Src)
  /-- data that a Tank read or atomic returns to its requester (R247, R249) -/
  | tankData (r : Req) (addr : Nat) (v : Nat)
  /-- an error that a Tank access returns to its requester (R248 to R253) -/
  | tankError (r : Req) (e : Er)
  /-- the bytes of a frame sent on a cascade port, between SOF and EOF (R429) -/
  | link (p : PortNo) (bytes : List Byte)
  /-- a routed frame that the node delivers to itself (R435) -/
  | linkLocal (f : LFrame)
  /-- a 100 us training burst (R425), the 2 ms wake signal (R449), a park ordered set (R450) -/
  | training (p : PortNo)
  | wakeSignal (p : PortNo)
  | park (p : PortNo)
  /-- an output pin driven to a level -/
  | pin (name : String) (high : Bool)
  /-- bytes written to the boot flash from an offset on (R102, R103) -/
  | flashWritten (off : Nat) (bytes : List Byte)
  | fixWritten (off : Nat) (bytes : List Byte)
  /-- the fill pattern that ends the row in flight on write element `ch` (R35) -/
  | rowFill (ch : Nat)
  /-- what the write outputs of module A or B now do (R486, R491) -/
  | writeOuts (modB : Bool) (w : WriteOut)
  /-- the gate outputs of a unit in the carrier period that begins (R353, R355, R356): for each phase or leg the pulse of the high and of the low switch, on and off in 10 ns from the boundary,
  none where the switch stays off; with no legs every gate is 0 -/
  | gates (u : MUnit) (legs : List (Option (Int × Int) × Option (Int × Int)))
  /-- an accelerometer transaction in SPI mode 3: the command byte, six bytes read, and half the SCK period in CKM cycles (R387) -/
  | accel (cmd : Nat) (half : Nat)
  /-- a configuration request answered with Configuration Request Retry Status (R100) -/
  | configRetry (fn : Tenant)
  /-- an output that stands in its dual-clock FIFO because the destination clock has stopped (R33) -/
  | waiting (c : Clk) (o : Out)
  deriving DecidableEq, Repr

/-! ### Clock crossings (01) -/

/-- The dual-clock FIFOs whose destination may stand still (R30, R33): the clocks that are lost and do not run again; register writes in XC-12 and servo samples in XC-11, oldest first, while CKM is
stopped; DRT segments that stand in XC-3 or XC-5 while the Tank's or the host's domain is quiesced (R32, R402). What waits on its way out stands in `State.out`, marked `waiting`. -/
structure Xc where
  stopped : List Clk
  cmds : List (Src × Nat × Word)
  samples : List (BitVec 128)
  rx : List (DrtHdr × DrtSeg)
  deriving DecidableEq, Repr

/-! ### Memories (09) -/

/-- A march run (R258): the bank, the next of its 66 bursts, the rows replaced, and whether one found no spare. -/
structure March where
  bank : Nat
  burst : Nat
  repl : Nat
  failed : Bool
  deriving DecidableEq, Repr

/-- A spare row in use (R254): bank, row replaced, whether it came from the fuses, and which of the bank's 16 spare rows it is. -/
structure Spare where
  bank : Nat
  row : Nat
  fused : Bool
  idx : Nat
  deriving DecidableEq, Repr

/-- What a request asks of a bank (R244, R248, R249): a read, a write with byte enables, or an atomic ADD or SWAP. -/
inductive TankOp where
  | read
  | write (data : BitVec 128) (enables : BitVec 16)
  | atomic (wide swap : Bool) (operand : DWord)
  deriving DecidableEq, Repr

/-- A request presented to a bank and not yet granted (R245, R246): the requester and what it serves, the byte address, the operation, what the cells hold, and its urgency. -/
structure TankReq where
  r : Req
  ctx : ReqCtx
  addr : BitVec 25
  op : TankOp
  ecc : Ecc
  urg : Nat
  deriving DecidableEq, Repr

/-- The Tank (R242 to R260): the page taken last, the pages in use, the fenced banks (R255); word addresses whose stored copy has one bad bit, and those that are uncorrectable; spare rows, and free spare rows that have
failed a test (R259); the march run; when each bank's last ER 701 was written; the staged and the latched parts of the register window; requests risen to U1; rotation pointers that are not 0, by bank and port (R245);
and requests that wait for one of higher urgency, oldest first. -/
structure Tnk where
  last : Nat
  used : List Nat
  fenced : List Nat
  ce : List Nat
  ue : List Nat
  spares : List Spare
  march : Option March
  corrAt : List (Nat × Nat)
  stage : List Word
  parts : List Word
  aged : List (Bank × Bool × Req)
  ptr : List ((Nat × Bool) × Nat)
  waitq : List TankReq
  badSpares : List (Nat × Nat)
  deriving DecidableEq, Repr

/-- A Scratchpad remap entry (R257): bank, word index, whether from the fuses, whether its spare holds a poisoned value. -/
structure Remap where
  bank : Nat
  word : Nat
  fused : Bool
  poison : Bool
  deriving DecidableEq, Repr

/-- The Scratchpad (R256, R257): its bytes, the remap tables, the sequencers that wait for a reload with the word that failed or that they fetch, whether each found it failing, and when each bank's last ER 701 was
written. -/
structure Spd where
  mem : List (Nat × Byte)
  remap : List Remap
  wait : List (Nat × Nat × Bool)
  corrAt : List (Nat × Nat)
  deriving DecidableEq, Repr

/-! ### Power (15) -/

/-- Who asked for a power state (R89, R402, R412, R445). -/
inductive Asker where
  | line (ln : Ln)
  | pf
  | ign
  | master (src tag : BitVec 16)
  deriving DecidableEq, Repr

/-- Where an entry stands (R402): before AP0, quiescing, saving, isolating. -/
inductive EntryStage where | ap0 | quiesce | save | isolate
  deriving DecidableEq, Repr

/-- An entry in progress (R402): its target, who asked, its stage, the domains still to be quiesced and those quiesced, the last first; the values captured for the save list, by entry number. -/
structure Entry where
  target : Pwr
  by' : Asker
  stage : EntryStage
  left : List Nat
  done : List Nat
  saved : List (Nat × Word)
  deriving DecidableEq, Repr

/-- Where the ignition sequence stands (R412): draining, stopping, unloading, entering, waiting to start again, or IGN is back and recording is to start again. -/
inductive IgnStep where | drain | stop | unload | enter | again | restart
  deriving DecidableEq, Repr

/-- PWR's state record in the retention SRAM (R411): the state of the last request, the abort point of the last entry abandoned, and the last wake latched. -/
structure PwrRec where
  target : Pwr
  ap : Nat
  wake : Option Wake
  deriving DecidableEq, Repr

/-- PWR and the retention SRAM (R398 to R423): an entry; the wake latched for it; whether an exit re-runs start-up and whether the last commit ended sessions; the ignition sequence and whether it has issued `RECORD STOP`; the pins IGN
(filtered), HOLDUP_OK and PFAIL_N; a dump under way and the halt after it; since when WAKE_N has been low; an exit that has been asked for, with the wake behind it; the retention SRAM; wake events that blocks have raised and PWR has not seen; the state record. -/
structure PwrSt where
  entry : Option Entry
  wake : Option Wake
  exiting : Bool
  ended : Bool
  seq : Option IgnStep
  stopped : Bool
  ign : Bool
  holdup : Bool
  pfail : Bool
  halted : Bool
  wakeLow : Option Nat
  leave : Option (Pwr × Option Wake)
  ret : List (Nat × Byte)
  edges : List Wake
  rec' : PwrRec
  deriving DecidableEq, Repr

/-! ### Xasen cascade (16) -/

/-- A frame in a port's replay buffer (R431): whether it has been sent since the last retry boundary, how often it has been resent, and whether its originator has abandoned it. -/
structure Sent where
  f : LFrame
  out : Bool
  resent : Nat
  drop : Bool
  deriving DecidableEq, Repr

/-- A cascade port (R425 to R434): the next LSEQ, the last received in order, credits used, released by the peer and released here (modulo 256), the replay buffer, and the causes for which a record has been written since it was last UP. -/
structure XPort where
  next : Nat
  ack : Nat
  used : Nat
  freed : Nat
  given : Nat
  replay : List Sent
  said : List DownReason
  deriving DecidableEq, Repr

/-- A census entry of the master (R441). `port` is 0 to 2 for D0 to D2. -/
structure Census where
  id : Nat
  uid : DWord
  parent : Nat
  port : Nat
  depth : Nat
  hop : Nat
  path : Nat
  stale : Bool
  deriving DecidableEq, Repr

/-- A child's answer to CREQ (R438). -/
structure Child where
  port : Nat
  first : Nat
  count : Nat
  uid : DWord
  deriving DecidableEq, Repr

/-- A sweep through this node (R438, R439): its number, the provisional ID, depth and path delay, the down-ports still to be measured and still to be walked, the one whose CRSP is awaited, the children's answers, the broken port, and the flags LIMIT and LONGHOP. -/
structure Sweep where
  no : Nat
  id : Nat
  depth : Nat
  path : Nat
  probe : List Nat
  walk : List Nat
  at' : Option Nat
  kids : List Child
  brk : Option (Nat × Nat)
  limit : Bool
  long : Bool
  deriving DecidableEq, Repr

/-- What waits for the COMMIT of a sweep (R441). -/
structure Prov where
  no : Nat
  id : Nat
  depth : Nat
  kids : List Child
  deriving DecidableEq, Repr

/-- A cascade command of this node that has no RSP yet (R446): its tag, target and OP; the line it serves, or none for XLK.CCMD; whether it writes a resource; the retries that carried it; the reply so far. -/
structure XCmd where
  tag : Nat
  dst : Nat
  op : Nat
  ln : Option Ln
  writes : Bool
  retries : Nat
  got : List Byte
  deriving DecidableEq, Repr

/-- A long operation started by a forwarded line, whose DONE is awaited (R447). -/
structure XDone where
  tag : Nat
  node : Nat
  ln : Ln
  deriving DecidableEq, Repr

/-- A DRT datagram a stripe head has not seen acknowledged (R452). -/
structure Unack where
  seq : Nat
  sent : Bool
  payload : List Byte
  deriving DecidableEq, Repr

/-- A member's session as the head holds it (R452 to R458): the member's UID; the NONCE of the last OPEN; the session once granted, with its WIN and NEXTSEQ; the next SEQ and RIDX; CUM; datagrams not acknowledged; NDUR; whether it is lost; the units of an earlier session, by queue sequence number. -/
structure SMember where
  uid : DWord
  nonce : Nat
  sess : Option Nat
  win : Nat
  base : Nat
  seq : Nat
  ridx : Nat
  cum : Nat
  unack : List Unack
  ndur : Nat
  lost : Bool
  deriving DecidableEq, Repr

/-- A unit that a row waits for (R455): the member, and its record by its number in the member's queue. -/
structure SUnit where
  mem : Nat
  seq : Nat
  deriving DecidableEq, Repr

/-- A row sent and not yet DURABLE (R453 to R455): its number, the records with bytes in it, the units waited for. -/
structure SRow where
  no : Nat
  uids : List Nat
  units : List SUnit
  deriving DecidableEq, Repr

/-- A stripe group (R451 to R458): running, ending, its members, its stream not yet in a row with the record each byte belongs to (runs), the records already in the stream, the open rows, the next ROW, and whether rows are formed from records sent before. -/
structure SGroup where
  on : Bool
  ending : Bool
  mems : List SMember
  buf : List Byte
  runs : List (Nat × Nat)
  taken : List Nat
  rows : List SRow
  nextRow : Nat
  resend : List Nat
  deriving DecidableEq, Repr

/-- Tank space lent to a neighbour (R460). -/
structure Lent where
  port : PortNo
  handle : Nat
  len : Nat
  pages : List Nat
  deriving DecidableEq, Repr

/-- An offer of a lender (R460): the port, the handle, the room. -/
structure Grant where
  port : PortNo
  handle : Nat
  room : Nat
  deriving DecidableEq, Repr

/-- A recall in progress (R461): the record, and the bytes that have come back. -/
structure Recall where
  uid : Nat
  got : List Byte
  deriving DecidableEq, Repr

/-- XLK (R424 to R466): the ports U, D0, D1, D2; the last sweep number; the EPOCH; the sweep through this node and what it holds for the COMMIT; the census of the master; whether a sweep is due (R437); the next TAG; commands without an RSP and forwarded long operations;
frames that wait for the end of a sweep; DRT replies this node has sent to itself, not yet taken; the TIME count; stripe groups; space lent, offers held and the record they were asked for, the next handle, and the recall in progress. -/
structure Xlk where
  ports : Vector XPort 4
  sweepNo : Nat
  epoch : Nat
  sweep : Option Sweep
  prov : Option Prov
  census : List Census
  due : Bool
  nextTag : Nat
  cmds : List XCmd
  dones : List XDone
  held : List LFrame
  inbox : List LFrame
  timeCount : Nat
  groups : Vector SGroup 4
  lent : List Lent
  grants : List Grant
  asked : Option Nat
  nextHandle : Nat
  called : Option Recall
  deriving DecidableEq, Repr

/-- What moved in the last second (R96, R338), each entry with its time in us: bytes of records that became ACCEPTED, bytes given to hosts by READs, and blocks that RDC produced, with their bytes
and the uncompressed bytes in them. -/
structure Flow where
  took : List (Nat × Nat)
  gave : List (Nat × Nat)
  made : List (Nat × Nat × Nat)
  deriving DecidableEq, Repr

/-! ### Balls (18) -/

/-- States of the TAP controller (R493, IEEE 1149.1; PRESUMED, log entry 126). -/
inductive TapCtl where
  | reset | idle | selectDr | captureDr | shiftDr | exit1Dr | pauseDr | exit2Dr | updateDr | selectIr | captureIr | shiftIr | exit1Ir | pauseIr | exit2Ir | updateIr
  deriving DecidableEq, Repr

/-- Instructions of the TAP (R493). -/
inductive TapInstr where | bypass | idcode | sample | extest
  deriving DecidableEq, Repr

/-- The TAP (R493): controller, instruction, the instruction and the data register being shifted, and the latches of the boundary-scan cells. -/
structure Tap where
  ctl : TapCtl
  instr : TapInstr
  ir : List Bool
  dr : List Bool
  cells : List Bool
  deriving DecidableEq, Repr

/-- Levels of PRE_EN_x and WGATE_x, what the write outputs of either module do (R486, R491), and the TAP. -/
structure Balls where
  preA : Bool
  preB : Bool
  gateA : Bool
  gateB : Bool
  outA : WriteOut
  outB : WriteOut
  tap : Tap
  deriving DecidableEq, Repr

/-! ### The whole machine -/

/-- The state of the DTF-3260. -/
structure State where
  pending : List Instr
  out : List Out
  xc : Xc
  flow : Flow
  balls : Balls
  freeCtr : Nat
  us : Nat
  regs : List (Nat × Word)
  wlatch : List Latch
  rlatch : List Latch
  con : Console
  arb : Arb
  err : ErrLog
  boot : Boot
  cart : Cart
  mot : Mot
  pwr : Pwr
  pw : PwrSt
  hif : Hif
  eth : Eth
  qmg : Qmg
  pool : List Pool
  sch : Sch
  tank : List (Nat × Byte)
  tnk : Tnk
  spd : Spd
  fixer : FixSt
  dump : Option Dump
  jrn : Journal
  cdc : Cdc
  fmt : Fmt
  sec : Sec
  tape : Tape
  prf : Prf
  rch : Rch
  mdr : Mdr
  srv : Srv
  cle : Cle
  xlk : Xlk
  deriving DecidableEq, Repr

/-- A session that does not exist. -/
def Session.closed : Session :=
  { isOpen := false, port := 0, level := .view, echo := false, edit := false, crc := false, filter := .all, buf := [], tooLong := false, badChar := false
    overrun := false, lastCr := false, lines := [], evq := [], lost := 0, chal := none, key := none }

def Console.reset : Console :=
  { ses := Vector.replicate 6 Session.closed, mlock := none, denials := [], lockout := none, remotes := [], update := none
    opCart := [], opMotion := none, opReset := [], opPower := none, opCensus := [], opCodec := [], opProof := none
    opBoot := none, opTank := none, opFw := none, opFlush := [], wakes := [], remKeys := [] }

/-- An image slot that holds no image. -/
def Slot.empty : Slot := ⟨0#256, []⟩

/-- Fuses that have not been loaded. -/
def Fuses.none : Fuses := ⟨[], 0#64, 0#48, 0#64, [], [], 0#16, 0#16⟩

def Boot.reset : Boot :=
  { phase := .held, pwrgd := false, master := false, testEn := false, vsel := 0#3, rescue := false, noStart := false
    fuses := Fuses.none, slotA := Slot.empty, slotB := Slot.empty, bootedB := false, version := 0#32
    wdogHeld := true, testing := false, warming := false, keepTank := false, perstDue := false, commit := none
    supplyLow := false, refLost := false }

def Hif.reset : Hif := ⟨[], [], false, 0, false, false, none⟩
def Eth.reset : Eth := ⟨0, 0, 0, 0, 0, [], 1, [], 0⟩
def Qmg.reset : Qmg := ⟨[], [], [], 0, 0, 0⟩
def Sch.reset : Sch := ⟨[], 0, [], false, [], [], [], 0⟩

def Cdc.reset : Cdc :=
  { rdc := Vector.replicate 4 ⟨none, none, false, 0, false, false, false⟩, enl := Vector.replicate 4 ⟨false, false, false⟩, ready := [], redo := [], test := none }
def Fmt.reset : Fmt := ⟨none, none, [], [], 0, none, 0, [], none, false, false, []⟩
def Tape.reset : Tape := ⟨[], false, false, false, false, false, none, 0, [], 0, 10000, none⟩
def Prf.reset : Prf := ⟨none, List.replicate 16 0, [], []⟩
def Rch.reset : Rch := ⟨⟨false, none, [], []⟩, none, [], [], [], [], [], [], []⟩
def AxisSt.reset : AxisSt := ⟨0, 0, 0, 0, 0#32, 0, false, 0, [0, 0, 0], 0, 0, false⟩
def Mdr.reset : Mdr := ⟨Vector.replicate 3 AxisSt.reset, 0, [0, 0], [], none, false, none, false, 0, 0, 0, false, false, 0⟩
def Srv.reset : Srv := ⟨0, 0, false, Vector.replicate 2 [], 0, none, Vector.replicate 2 false, 0, 0#128, false, 0, 0, 0, false, none, false⟩
def Biq.zero : Biq := ⟨0, 0, 0, 0⟩
def Osc.reset : Osc := ⟨none, 0, []⟩
/-- A loop's state at rest; LAT has four sections and TENS two (R380 to R383). -/
def LoopSt.reset (n : Nat) : LoopSt := ⟨0, 0, 0, 0, List.replicate (if n = 4 then 4 else if n = 7 then 2 else 0) Biq.zero, false, false, Osc.reset⟩
/-- CLE.RADIUS resets to 15,000 um for both reels. -/
def ReelSt.reset : ReelSt := ⟨15000, 0, [], none⟩
def Cle.reset : Cle :=
  ⟨0, #v[LoopSt.reset 0, LoopSt.reset 1, LoopSt.reset 2, LoopSt.reset 3, LoopSt.reset 4, LoopSt.reset 5, LoopSt.reset 6, LoopSt.reset 7, LoopSt.reset 8],
    ReelSt.reset, ReelSt.reset, 0, 0, 0, 0, 0, 0⟩
def Sec.reset : Sec := ⟨[], [], [], [], [], []⟩
def Tnk.reset : Tnk := ⟨8191, [], [], [], [], [], none, [], [0#32, 0#32, 0#32], [0#32, 0#32, 0#32], [], [], [], []⟩
def Spd.reset : Spd := ⟨[], [], [], []⟩
/-- A Fixer that has never been written (DESIGN CHOICE, log entry 10). -/
def Journal.reset : Journal := ⟨0, 0, 0, 0, 0, 0, 0, 0, 0, 0, 0, [], none, []⟩
/-- IGN low, HOLDUP_OK high and PFAIL_N high (DESIGN CHOICE, log entry 10). -/
def PwrSt.reset : PwrSt := ⟨none, none, false, false, none, false, false, true, false, false, none, none, [], [], ⟨.run, 0, none⟩⟩
def XPort.reset : XPort := ⟨1, 0, 0, 0, 0, [], []⟩
def SGroup.reset : SGroup := ⟨false, false, [], [], [], [], [], 0, []⟩
def Xlk.reset : Xlk :=
  ⟨Vector.replicate 4 XPort.reset, 0, 0, none, none, [], false, 0, [], [], [], [], 0, Vector.replicate 4 SGroup.reset, [], [], none, 0, none⟩

/-- TRST_N is pulled down: the TAP is in reset (R487). The head outputs are at 0 and at high impedance (R486). -/
def Balls.reset : Balls := ⟨false, false, false, false, .hiZ, .hiZ, ⟨.reset, .idcode, [], [], []⟩⟩

/-- The machine in power-on reset (R97, R122): every field at the value the spec gives for reset; the values no rule gives are named in log
entries 5 to 9. -/
def State.reset : State :=
  { pending := [], out := [], xc := ⟨[], [], [], []⟩, flow := ⟨[], [], []⟩, balls := Balls.reset, freeCtr := 0, us := 0, regs := [], wlatch := [], rlatch := []
    con := Console.reset, arb := ⟨[], [], [], [], 0⟩, err := ⟨[], 0, false, none, none⟩, boot := Boot.reset
    cart := .none, mot := .stopped, pwr := .run, pw := PwrSt.reset
    hif := Hif.reset, eth := Eth.reset, qmg := Qmg.reset, pool := [], sch := Sch.reset, tank := [], tnk := Tnk.reset, spd := Spd.reset, fixer := .ready, dump := none, jrn := Journal.reset
    cdc := Cdc.reset, fmt := Fmt.reset, sec := Sec.reset, tape := Tape.reset, prf := Prf.reset, rch := Rch.reset
    mdr := Mdr.reset, srv := Srv.reset, cle := Cle.reset, xlk := Xlk.reset }

end Sys2Proof.Machine
end

