-- ==== Sys2Proof/Machine/Layout.lean ====
section
/-! DEFINITION. Where the fields of the shared formats lie in their bytes: descriptors and completions in host memory, little-endian (00_scope R11; 06_queues R164, R169), slot headers of the
boot flash (04_start_up R102), and link frames, big-endian (16_xasen R429). -/

namespace Sys2Proof

/-! ### Descriptors (R164) -/

/-- Bytes `at'` to `at' + n - 1` of a descriptor, the first the least significant (R11). -/
def Desc.bytesAt (d : Desc) (at' n : Nat) : BitVec (8 * n) := d.raw.extractLsb' (8 * at') (8 * n)

def Desc.opcode (d : Desc) : Byte := d.bytesAt 0 1
def Desc.flags (d : Desc) : Byte := d.bytesAt 1 1
def Desc.cid (d : Desc) : BitVec 16 := d.bytesAt 2 2
def Desc.length (d : Desc) : Word := d.bytesAt 4 4
def Desc.addr (d : Desc) : DWord := d.bytesAt 8 8
def Desc.tstamp (d : Desc) : DWord := d.bytesAt 16 8
def Desc.srcSeq (d : Desc) : BitVec 48 := d.bytesAt 24 6
def Desc.srcQ (d : Desc) : BitVec 16 := d.bytesAt 30 2
def Desc.srcT (d : Desc) : Byte := d.bytesAt 32 1

/-- Are the reserved bytes 33 to 63 zero. -/
def Desc.reserved0 (d : Desc) : Bool := d.bytesAt 33 31 == 0

/-- The 64 bytes with given fields and the reserved ones 0. -/
def Desc.of (opcode flags : Byte) (cid : BitVec 16) (length : Word) (addr tstamp : DWord) (srcSeq : BitVec 48) (srcQ : BitVec 16) (srcT : Byte) : Desc :=
  ⟨BitVec.ofNat 512 (opcode.toNat + 2 ^ 8 * flags.toNat + 2 ^ 16 * cid.toNat + 2 ^ 32 * length.toNat + 2 ^ 64 * addr.toNat + 2 ^ 128 * tstamp.toNat +
    2 ^ 192 * srcSeq.toNat + 2 ^ 240 * srcQ.toNat + 2 ^ 256 * srcT.toNat)⟩

/-! ### Slot headers (R102) -/

/-- Word `k` of a slot header: bytes 4k to 4k + 3, the first the most significant. -/
def Slot.word (x : Slot) (k : Nat) : Word := x.header.extractLsb' (224 - 32 * k) 32

def Slot.magic (x : Slot) : Word := x.word 0
def Slot.seq (x : Slot) : Word := x.word 1
def Slot.length (x : Slot) : Nat := (x.word 2).toNat
def Slot.crc (x : Slot) : Word := x.word 3
def Slot.version (x : Slot) : Word := x.word 4

/-- A slot with these header fields, its reserved bytes 20 to 31 zero. -/
def Slot.of (magic seq : Word) (length : Nat) (crc version : Word) (image : List Byte) : Slot :=
  ⟨BitVec.ofNat 256 (2 ^ 224 * magic.toNat + 2 ^ 192 * seq.toNat + 2 ^ 160 * (length % 2 ^ 32) + 2 ^ 128 * crc.toNat + 2 ^ 96 * version.toNat), image⟩

end Sys2Proof

namespace Sys2Proof.Machine

/-- The flash offsets of a slot's header and of its image (R102). -/
def slotBase (slotB : Bool) : Nat := if slotB then 0x100000 else 0
def imageBase (slotB : Bool) : Nat := slotBase slotB + 0x1000

/-- The 32 bytes of a slot header as the flash holds them. -/
def headerBytes (x : Slot) : List Byte := beBytes 32 x.header.toNat

/-! ### Link frames (R429) -/

/-- The FLAGS byte of a link frame. -/
def LFrame.flags (f : LFrame) : Nat :=
  (if f.hop then 1 else 0) + (if f.bcast then 2 else 0) + (if f.void then 4 else 0) + (if f.nak then 8 else 0) + (if f.more then 16 else 0) + (if f.done then 32 else 0)

/-- Header and payload of a frame, big-endian. -/
def LFrame.body (f : LFrame) : List Byte :=
  beBytes 1 f.ty ++ beBytes 1 f.flags ++ beBytes 2 f.lseq ++ beBytes 2 f.ackseq ++ beBytes 1 f.credit ++ beBytes 1 f.epoch ++ beBytes 2 f.dst ++ beBytes 2 f.src ++ beBytes 2 f.tag ++
    beBytes 2 f.payload.length ++ f.payload

/-- The bytes of a frame between SOF and EOF: header, payload, and the CRC-32 over both. -/
def LFrame.bytes (f : LFrame) : List Byte := f.body ++ beBytes 4 (crc32 f.body)

/-- A big-endian field of received bytes. -/
def beAt (l : List Byte) (at' n : Nat) : Nat := beValue ((l.drop at').take n)

end Sys2Proof.Machine

namespace Sys2Proof

open Machine

/-- The payload of a received frame: what stands between its header and its CRC. -/
def LinkHdr.payload (h : LinkHdr) : List Byte := (h.wire.drop 16).take (h.wire.length - 20)

/-- The first check of R433: codes and EOF, a total length of at most 1,020 bytes, and the CRC-32. -/
def LinkHdr.ok (h : LinkHdr) : Bool :=
  h.codeOk && decide (20 ≤ h.wire.length ∧ h.wire.length ≤ 1020) && beAt h.wire (h.wire.length - 4) 4 == crc32 (h.wire.take (h.wire.length - 4))

/-- LEN of a received header. -/
def LinkHdr.len (h : LinkHdr) : Nat := beAt h.wire 14 2

end Sys2Proof

namespace Sys2Proof.Machine

/-- A received header as a frame. -/
def linkFrame (h : LinkHdr) : LFrame :=
  let flag (k : Nat) : Bool := getBits (beAt h.wire 1 1) k 1 == 1
  ⟨beAt h.wire 0 1, flag 0, flag 1, flag 2, flag 3, flag 4, flag 5, beAt h.wire 2 2, beAt h.wire 4 2, beAt h.wire 6 1, beAt h.wire 7 1, beAt h.wire 8 2, beAt h.wire 10 2,
    beAt h.wire 12 2, h.payload⟩

/-! ### Completions (R169) -/

/-- The 32 bytes of a completion entry: SEQ, CID, STATUS, CODE with the REPLAY flag, DS, TSTAMP, LENGTH, and 4 bytes of zeros. -/
def Cqe.bytes (c : Cqe) : List Byte :=
  leBytes 6 c.seq ++ leBytes 2 c.cid.toNat ++ leBytes 2 c.status ++ leBytes 1 c.code ++ leBytes 1 (if c.replay then 1 else 0) ++ leBytes 4 c.ds ++ leBytes 8 c.tstamp ++
    leBytes 4 c.length ++ leBytes 4 0

end Sys2Proof.Machine
end

