-- ==== Sys2Proof/Machine/PciSpace.lean ====
section
/-! DEFINITION. The configuration space of the functions (05_tenants R127 to R130): what its words read as before a host writes them, and which bits a host may write. The spec gives the values and
no offsets: the header lies as PCI Express defines it, and the places of the capabilities are the model's choice (PRESUMED and DESIGN CHOICE, log entry 102). -/

namespace Sys2Proof.Machine

/-- Offsets of the words modelled: the header, the power-management, PCI Express and MSI-X capabilities, AER, and SR-IOV. -/
def cfgId : Nat := 0x00
def cfgClass : Nat := 0x08
def cfgBar0 : Nat := 0x10
def cfgSubsys : Nat := 0x2C
def cfgPm : Nat := 0x44
def cfgDevCap : Nat := 0x54
def cfgDevCtl : Nat := 0x58
def cfgLinkCap : Nat := 0x5C
def cfgLinkCtl : Nat := 0x60
def cfgDevCap2 : Nat := 0x74
def cfgDevCtl2 : Nat := 0x78
def cfgMsixTable : Nat := 0x94
def cfgMsixPba : Nat := 0x98
def cfgAer : Nat := 0x118
def cfgSriov : Nat := 0x160

/-- The PF's identity (R129). -/
def vendorId : Nat := 0x1D7A
def deviceId : Nat := 0x3260
def vfDeviceId : Nat := 0x3261
def classRev : Nat := 0x01800010

/-- What a writable word reads as after reset: D0; in Device Control Max Payload Size 128 and Max Read Request Size 512 with extended tags on, Relaxed Ordering and No Snoop off, as the device never
sets either; the default completion timeout of 50 ms; no ASPM; no ECRC (R127). -/
def cfgReset (off : Nat) : Word :=
  if off = cfgDevCtl then 0x2100#32
  else if off = cfgAer then 0x0A0#32
  else 0#32

/-- The bits of a word that a host writes: the power state; Max Payload Size, Max Read Request Size and extended tags; ASPM; the completion timeout; ECRC generation and checking; the page size. -/
def cfgMask (off : Nat) : Nat :=
  if off = cfgPm then 0x3
  else if off = cfgDevCtl then 0x71E0
  else if off = cfgLinkCtl then 0x3
  else if off = cfgDevCtl2 then 0x1F
  else if off = cfgAer then 0x140
  else if off = cfgSriov + 0x20 then 0x1F
  else 0

/-- A word of the SR-IOV capability that no write changes (R128): InitialVFs and TotalVFs 255, First VF Offset and VF Stride 1, the VF Device ID, page sizes of 4 to 64 KiB; VF BAR0 64-bit and
not prefetchable, and no other VF BAR. -/
def sriovWord (at' : Nat) : Nat :=
  if at' = 0x0C then 2 ^ 16 * 255 + 255
  else if at' = 0x14 then 2 ^ 16 * 1 + 1
  else if at' = 0x18 then 2 ^ 16 * vfDeviceId
  else if at' = 0x1C then 0x1F
  else if at' = 0x24 then 0x4
  else 0

end Sys2Proof.Machine
end

