-- ==== Sys2Proof/Machine/Ops.lean ====
section
/-! DEFINITION. The operations every family shares: the register file, counters, what leaves the device, vectors (R191 to R193), ERR records
(R469 to R473), events and replies (R51 to R60). -/

namespace Sys2Proof.Machine

/-! ### The register file -/

/-- The word stored at an offset of the PF BAR0 (R17: an unwritten word holds its reset value). -/
def State.rd (s : State) (off : Nat) : Word := sget RegMap.resetWord s.regs off

/-- Store a word. -/
def State.wr (s : State) (off : Nat) (w : Word) : State :=
  { s with regs := sset RegMap.resetWord s.regs off w }

/-- A field of a register. -/
def State.getF (s : State) (f : Fld) : Nat := getBits (s.rd f.off).toNat f.lo f.width

/-- Set a field of a register, leaving the other bits of its word. -/
def State.setF (s : State) (f : Fld) (v : Nat) : State :=
  s.wr f.off (BitVec.ofNat 32 (putBits (s.rd f.off).toNat f.lo f.width v))

/-- A one-bit field as a truth value. -/
def State.bit (s : State) (f : Fld) : Bool := s.getF f == 1

/-- Count up in a saturating counter field (R13, RC fields that saturate). -/
def State.count (s : State) (f : Fld) (n : Nat) : State := s.setF f (satAdd f.width (s.getF f) n)

/-- A 64-bit register. -/
def State.rd64 (s : State) (off : Nat) : Nat := (s.rd off).toNat + 2 ^ 32 * (s.rd (off + 4)).toNat

def State.wr64 (s : State) (off v : Nat) : State :=
  (s.wr off (BitVec.ofNat 32 v)).wr (off + 4) (BitVec.ofNat 32 (v / 2 ^ 32))

/-- Return every register of an offset range to its reset value (R17, R114). -/
def State.resetRange (s : State) (lo hi : Nat) : State := { s with regs := sclear lo hi s.regs }

/-- Has start-up released a domain from reset: D0 and D1 after the fuse map, D2 to D9 at their initialisation (R98 steps 4 and 8). -/
def State.released (s : State) (d : Nat) : Bool :=
  match s.boot.phase with
  | .held | .fuses => false
  | .image | .test | .scan => decide (d ≤ 1)
  | .init | .up => true

/-- Does a domain work: switched on (PWR.STAT.DOMAINS, R398) and released from reset. -/
def State.domainOn (s : State) (d : Nat) : Bool := getBits (s.getF F.PWR_STAT_DOMAINS) d 1 == 1 && s.released d

/-- Has a domain been quiesced, or is it being quiesced, for an entry in progress: it takes no new work (R402). -/
def State.quiesced (s : State) (d : Nat) : Bool :=
  match s.pw.entry with
  | some e => e.done.contains d || (e.stage == .quiesce && e.left.head? == some d)
  | none => false

/-- A block raises a wake event, which passes through SY-2 to the wake latch (R400, R401). -/
def State.edge (s : State) (b : Bool) (w : Wake) : State := if b then { s with pw := { s.pw with edges := s.pw.edges ++ [w] } } else s

/-! ### What moves (R96, R338) -/

/-- The entries of the last second. -/
def lately {α : Type} (now : Nat) (l : List (Nat × α)) : List (Nat × α) := l.filter (fun e => decide (now < e.1 + 1000000))

/-- Bytes of a record became ACCEPTED. -/
def State.tookBytes (s : State) (n : Nat) : State := { s with flow := { s.flow with took := (s.us, n) :: lately s.us s.flow.took } }

/-- A READ gave bytes to its host. -/
def State.gaveBytes (s : State) (n : Nat) : State := { s with flow := { s.flow with gave := (s.us, n) :: lately s.us s.flow.gave } }

/-- RDC produced a block: its bytes, and the uncompressed bytes in it. -/
def State.madeBlock (s : State) (bytes raw : Nat) : State := { s with flow := { s.flow with made := (s.us, bytes, raw) :: lately s.us s.flow.made } }

/-- Bytes moved in the last second. -/
def State.rateOfLast (s : State) (l : List (Nat × Nat)) : Nat := ((lately s.us l).map (·.2)).sum

/-! ### Output and time -/

/-- The clock that carries what a session is sent: CKU for a UART, the CKE of its port for a TCP session (R28, R41). -/
def State.sessClk (s : State) (n : Sid) : Clk := if n.val < 2 then .cku else if (s.con.ses[n]).port = 0 then .cke0 else .cke1

/-- The destination clock of the FIFO that an output crosses on its way out (R30): XC-2, XC-4, XC-6, XC-15. Pins, flash and the frames of the write elements cross none that
can hold them back. -/
def State.crosses (s : State) (o : Out) : Option Clk :=
  let host (x : Src) : Option Clk := match x with | .pf => some .ckp | .vf _ => some .ckp | _ => none
  let mac (p : Fin 2) : Option Clk := some (if p = 0 then .cke0 else .cke1)
  match o with
  | .line (.sess n) _ => some (s.sessClk n)
  | .echo n _ => some (s.sessClk n)
  | .tcpRefused p _ => mac p
  | .tcpClosed n => some (s.sessClk n)
  | .completion _ _ _ => some .ckp
  | .hostWrite _ _ => some .ckp
  | .msix _ _ _ _ _ => some .ckp
  | .drt x _ => mac x.port
  | .arpReply x _ => mac x.port
  | .icmpReply x _ _ => mac x.port
  | .tcpAccepted n _ _ => some (s.sessClk n)
  | .readData x _ _ => host x
  | .unsupportedRequest x => host x
  | .completerAbort x => host x
  | .link _ _ => some .ckx
  | .training _ => some .ckx
  | .wakeSignal _ => some .ckx
  | .park _ => some .ckx
  | _ => none

/-- An output as it stands: in its FIFO while the clock behind it has stopped (R33), else sent. -/
def State.inFifo (s : State) (o : Out) : Out :=
  match s.crosses o with
  | some c => if s.xc.stopped.contains c then .waiting c o else o
  | none => o

/-- Send or drive something; an output whose FIFO has a stopped destination clock waits there (R33). -/
def State.emit (s : State) (o : Out) : State := { s with out := s.inFifo o :: s.out }

/-- What waits behind a stopped clock, and what does not. -/
def Out.behind (c : Clk) : Out → Option Out
  | .waiting d o => if d = c then some o else none
  | _ => none

/-- A stopped clock runs again: what waited in its FIFOs leaves, in order (R33). -/
def State.clkFree (s : State) (c : Clk) : State :=
  { s with
    out := s.out.filterMap (Out.behind c) ++ s.out.filter (fun o => (Out.behind c o).isNone)
    xc := { s.xc with stopped := s.xc.stopped.filter (fun d => d != c) } }

/-- A reset flushes the FIFOs at an end of which a clock of `clks` stands (R33, R114): outputs, register writes and servo samples bound for CKM, frames held in XC-3. -/
def State.flush (s : State) (clks : List Clk) : State :=
  let m := clks.contains .ckm
  let gone (p : Fin 2) : Bool := clks.contains (if p = 0 then .cke0 else .cke1)
  { s with
    out := s.out.filter (fun o => !(clks.any (fun c => (Out.behind c o).isSome)))
    xc := { s.xc with cmds := if m then [] else s.xc.cmds, samples := if m then [] else s.xc.samples, rx := s.xc.rx.filter (fun p => !(gone p.1.port)) } }

/-- The watched clocks that belong to a domain (R28, R38). -/
def clksOf (d : Nat) : List Clk :=
  match d with
  | 0 => [.cku] | 1 => [.ckp] | 2 => [.cke0, .cke1] | 5 => [.ckwc, .ckwe] | 6 => [.ckm] | 9 => [.ckx] | _ => []

/-- A domain's place in CLK.LOSS and CLK.STAT. -/
def clkBit : Clk → Nat
  | .ckp => 0 | .cke0 => 1 | .cke1 => 2 | .ckwc => 3 | .ckwe => 4 | .ckm => 5 | .ckx => 6 | .cku => 7

/-- A lost clock runs again (DESIGN CHOICE, log entry 101: no row reports it, so a row that only this clock can bring tells it): its lock bit is set, and its FIFOs empty (R33). -/
def State.clkBack (s : State) (c : Clk) : State :=
  if s.xc.stopped.contains c then (s.clkFree c).setF ⟨R.CLK_STAT, clkBit c, 1⟩ 1 else s

/-- Every watched clock. -/
def allClks : List Clk := [.ckp, .cke0, .cke1, .ckwc, .ckwe, .ckm, .ckx, .cku]

/-- 802.1AS time in ns (R139). -/
def State.now (s : State) : Nat := s.eth.ns

/-- Draw the next free value's number. -/
def State.draw (s : State) : State := { s with freeCtr := s.freeCtr + 1 }

/-! ### Vectors (R188 to R193) -/

/-- What a function holds; nothing listed stands for its reset state (R134). -/
def fnReset (t : Tenant) : Fn := ⟨t, false, false, [], false, 0, 0, []⟩

def fnOf : List Fn → Tenant → Fn
  | [], t => fnReset t
  | f :: fs, t => if f.t = t then f else fnOf fs t

def State.fn (s : State) (t : Tenant) : Fn := fnOf s.hif.fns t

/-- Keep a function's part; the list holds at most one entry a function. -/
def State.setFn (s : State) (f : Fn) : State :=
  { s with hif.fns := f :: s.hif.fns.filter (fun g => g.t != f.t) }

/-- A word of a function's configuration space that a host may write (R127). -/
def State.cfgAt (s : State) (t : Tenant) (off : Nat) : Word := sget cfgReset (s.fn t).cfg off

/-- Is a function in D3hot (R127). -/
def State.d3hot (s : State) (t : Tenant) : Bool := getBits (s.cfgAt t cfgPm).toNat 0 2 == 3

/-- A word of an MSI-X table entry; word 3 resets with its mask bit set, as PCI Express defines (PRESUMED, log entry 13). -/
def State.msixRd (s : State) (t : Tenant) (e : Fin 64) (w : Fin 4) : Word :=
  match s.hif.msix.find? (fun m => m.fn == t && m.entry == e && m.word == w) with
  | some m => m.v
  | none => if w.val = 3 then 1#32 else 0#32

/-- First pool entry and number of vectors of a tenant (R188). -/
def State.vecBase (s : State) (t : Tenant) : Nat := s.getF (F.INT_TVEC_BASE t.val)
def State.vecCount (s : State) (t : Tenant) : Nat := s.getF (F.INT_TVEC_COUNT t.val)

/-- Send the message of entry `v` of function `t`, or make it pending, or drop it (R193). -/
def State.signal (s : State) (t : Tenant) (v : Nat) : State :=
  let f := s.fn t
  if h : v < 64 then
    let e : Fin 64 := ⟨v, h⟩
    if f.enable = false then s
    else if f.mask = true ∨ getBits (s.msixRd t e 3).toNat 0 1 = 1 then
      if f.pend.contains e then s else s.setFn { f with pend := e :: f.pend }
    else s.emit (.msix t v (s.msixRd t e 0) (s.msixRd t e 1) (s.msixRd t e 2))
  else s

/-- Take the count of a pool entry away (R192). -/
def State.poolClear (s : State) (p : Nat) : State := { s with pool := s.pool.filter (fun q => q.p != p) }

/-- An event on entry `v` of tenant `t` (R191, R192). `aborted` marks a completion with CODE ABORTED. -/
def State.vecEvent (s : State) (t : Tenant) (v : Nat) (aborted : Bool) : State :=
  if s.vecCount t ≤ v then s
  else
    let p := s.vecBase t + v
    let old := (s.pool.find? (fun q => q.p == p)).getD ⟨p, 0, s.us⟩
    let n := old.count + 1
    if s.getF (F.INT_VCOAL_COUNT p) ≤ n ∨ (aborted = true ∧ s.bit (F.INT_VCOAL_ABORTNOW p) = true) then
      (s.poolClear p).signal t v
    else { s.poolClear p with pool := { old with count := n } :: (s.poolClear p).pool }

/-- Set a cause of INT.PFCAUSE (R196); a cause already set raises nothing. -/
def State.cause (s : State) (b : Nat) : State :=
  let w := s.getF F.INT_PFCAUSE_CAUSE
  if getBits w b 1 = 1 then s
  else
    let s := s.setF F.INT_PFCAUSE_CAUSE (w + 2 ^ b)
    if s.bit F.INT_PFEVT_EN then s.vecEvent 0 (s.getF F.INT_PFEVT_VEC) false else s

/-! ### Sessions and events (R58 to R60, R94, R95) -/

def State.ses (s : State) (n : Sid) : Session := s.con.ses[n]

def State.setSes (s : State) (n : Sid) (x : Session) : State :=
  { s with con.ses := s.con.ses.set n x }

/-- The prompt: the level letter, `>` and a space (R54). -/
def promptText (l : Level) : List Char :=
  [match l with | .view => 'V' | .operate => 'O' | .service => 'S', '>', ' ']

/-- Characters echoed on a session, when echo is on (R54). -/
def State.echoTo (s : State) (n : Sid) (t : List Char) : State :=
  if (s.ses n).isOpen = true ∧ (s.ses n).echo = true then s.emit (.echo n t) else s

def State.prompt (s : State) (n : Sid) : State := s.echoTo n (promptText (s.ses n).level)

/-- Does a session's filter let an event through (R95). -/
def passes (f : EvFilter) (name : String) : Bool :=
  if ["DONE", "LOST", "LEVEL", "OVERRIDE"].contains name then true
  else match f with
    | .all => true
    | .none => false
    | .err => ["ERR", "TRIP", "PFAIL", "BREAK"].contains name

/-- Send an event line; with echo on and a line partly typed, the line is sent again after it (R59). -/
def State.sendEvent (s : State) (n : Sid) (l : Line) : State :=
  let x := s.ses n
  if x.echo = true ∧ x.buf ≠ [] then
    (((s.emit (.echo n ['\r', '\n'])).emit (.line (.sess n) l)).emit (.echo n (promptText x.level ++ x.buf)))
  else s.emit (.line (.sess n) l)

/-- The most events a session's queue holds (R58). -/
def evMax : Nat := 64

/-- The line that reports dropped events (R60). -/
def lostLine (crc : Bool) (t n : Nat) : Line := ⟨[], none, .event "LOST" [] t [⟨"N", .num n⟩], crc⟩

/-- Queue an event of a session, or count it as dropped when 64 wait (R60). When room has returned, `!LOST` is queued first. -/
def queueEvent (t : Nat) (x : Session) (l : Line) : Session :=
  if x.lost = 0 then
    if x.evq.length < evMax then { x with evq := x.evq ++ [l] } else { x with lost := 1 }
  else if x.evq.length + 1 < evMax then { x with evq := x.evq ++ [lostLine x.crc t x.lost, l], lost := 0 }
  else { x with lost := x.lost + 1 }

/-- An event for one session: filtered, sent at once, or queued behind the reply the session is owed (R58 to R60, R95; log entry 4). -/
def State.event (s : State) (n : Sid) (name : String) (tag : List Char) (items : List Item) : State :=
  let x := s.ses n
  if x.isOpen = true ∧ passes x.filter name = true then
    let l : Line := ⟨[], none, .event name tag s.now items, x.crc⟩
    if x.lines = [] then s.sendEvent n l else s.setSes n (queueEvent s.now x l)
  else s

/-- An event for every session (R94). -/
def State.eventAll (s : State) (name : String) (items : List Item) : State :=
  (((((s.event 0 name [] items).event 1 name [] items).event 2 name [] items).event 3 name [] items).event 4 name [] items).event 5 name [] items

/-! ### The ERR log (R469 to R473) -/

def noFlags : RecFlags := ⟨false, false, false, false, false⟩
def infoFlag : RecFlags := ⟨false, false, false, true, false⟩

/-- A record with its "none" values (R471), to be filled in. -/
def errRec (e : Er) (b : Blk) (info : List Item) : ErrRec :=
  ⟨0, e, noFlags, .device, 0, b, none, none, none, none, info⟩

/-- The most records the log holds (R470). -/
def logMax : Nat := 1024

/-- Put a record into the log: SEQ and time are given here; the oldest is overwritten when it is full (R470, R473). -/
def ErrLog.put (l : ErrLog) (t : Nat) (r : ErrRec) : ErrLog :=
  { recs := ({ r with seq := l.next, t := t } :: l.recs).take logMax
    next := (l.next + 1) % 2 ^ 32
    wrap := l.wrap || decide (logMax ≤ l.recs.length)
    last := some (l.next, r.code)
    fresh := l.fresh }

/-- Write an ERR record: it sets PFCAUSE.ERR and sends `!ERR` (R469). -/
def State.log (s : State) (r : ErrRec) : State :=
  let q := s.err.next
  let s := { s with err := s.err.put s.now r }
  (s.cause 0).eventAll "ERR"
    [⟨"SEQ", .num q⟩, ⟨"CODE", .num r.code.code⟩, ⟨"TOK", .word r.code.token⟩, ⟨"BLK", .word r.blk.text⟩]

/-- Records of the arbitration tick whose winners take effect (R470; log entry 73). -/
def ErrLog.ofTick (l : ErrLog) : Nat := match l.fresh with | some m => (l.next + 2 ^ 32 - m) % 2 ^ 32 | none => 0

/-- Empty the log, but for the records of the clear's own tick (R470); the SEQ numbering goes on. -/
def State.clearLog (s : State) : State := { s with err := { s.err with recs := s.err.recs.take s.err.ofTick, wrap := false } }

/-! ### Frames on the cascade link (R429 to R435) -/

def State.xp (s : State) (p : PortNo) : XPort := s.xlk.ports[p]
def State.setXp (s : State) (p : PortNo) (x : XPort) : State := { s with xlk := { s.xlk with ports := s.xlk.ports.set p x } }

/-- Is a cascade port UP (R425). -/
def State.linkUp (s : State) (p : PortNo) : Bool := s.domainOn 9 && s.getF (F.XLK_PSTAT_STATE p.val) == 2

def State.isMaster (s : State) : Bool := s.bit F.XLK_STAT_MASTER

/-- The node's ID as frames carry it: 0xFFFF while it has none (R429). -/
def State.nodeId (s : State) : Nat := if s.bit F.XLK_STAT_IDVALID then s.getF F.XLK_STAT_NODE else 0xFFFF

/-- Credits a frame needs: 64 bytes each, from header through CRC; an IDLE frame none (R432). -/
def frameCredits (f : LFrame) : Nat := if f.ty = 0 then 0 else (f.payload.length + 83) / 64

/-- Put a frame on the wire with the port's ACKSEQ and CREDIT (R429). -/
def State.wire (s : State) (p : PortNo) (f : LFrame) : State :=
  s.emit (.link p { f with ackseq := (s.xp p).ack, credit := (s.xp p).given }.bytes)

/-- Does the peer's buffer have room for a frame (R432). -/
def roomOn (x : XPort) (f : LFrame) : Bool := decide ((x.used + 256 - x.freed) % 256 + frameCredits f ≤ 64)

/-- Send the frames of the replay buffer that have not been sent since the last retry boundary, in LSEQ order, as far as credits go (R431, R432). -/
def State.pushList (s : State) (p : PortNo) : List Sent → State × List Sent
  | [] => (s, [])
  | x :: xs =>
    if x.out then let (s', ys) := State.pushList s p xs; (s', x :: ys)
    else if roomOn (s.xp p) x.f then
      let s := s.setXp p { s.xp p with used := ((s.xp p).used + frameCredits x.f) % 256 }
      let (s', ys) := State.pushList (s.wire p x.f) p xs
      (s', { x with out := true } :: ys)
    else (s, x :: xs)

def State.pushPort (s : State) (p : PortNo) : State :=
  let (s, l) := s.pushList p (s.xp p).replay
  s.setXp p { s.xp p with replay := l }

/-- Send a sequenced frame on a port that is UP (R431); on another it goes nowhere. -/
def State.sendOn (s : State) (p : PortNo) (f : LFrame) : State :=
  if s.linkUp p then
    let x := s.xp p
    (s.setXp p { x with next := (x.next + 1) % 65536, replay := x.replay ++ [⟨{ f with lseq := x.next }, false, 0, false⟩] }).pushPort p
  else s

/-- Frame types (R430). -/
def tCMD : Nat := 0x10
def tRSP : Nat := 0x11
def tEVT : Nat := 0x12
def tCREQ : Nat := 0x20
def tCRSP : Nat := 0x21
def tPROBE : Nat := 0x22
def tCOMMIT : Nat := 0x23
def tTIME : Nat := 0x24
def tDRT : Nat := 0x30
def tLEND : Nat := 0x40

/-- A routed frame of this node (R429). -/
def State.frame (s : State) (ty dst tag : Nat) (payload : List Byte) : LFrame :=
  ⟨ty, false, false, false, false, false, false, 0, 0, 0, s.xlk.epoch, dst, s.nodeId, tag, payload⟩

/-- A frame for the peer of a port; DST 0 (DESIGN CHOICE, log entry 42). -/
def State.sendHop (s : State) (p : PortNo) (ty : Nat) (payload : List Byte) : State := s.sendOn p { s.frame ty 0 0 payload with hop := true }

/-- The OPs of a LEND frame, and its payload (R460). -/
def lALLOC : Nat := 1
def lGRANT : Nat := 2
def lPUT : Nat := 3
def lGET : Nat := 4
def lDATA : Nat := 5
def lFREE : Nat := 6

def lendBytes (op handle off : Nat) (data : List Byte) : List Byte := beBytes 1 op ++ beBytes 3 0 ++ beBytes 4 handle ++ beBytes 4 off ++ data

def State.sendLend (s : State) (p : PortNo) (op handle off : Nat) (data : List Byte) : State := s.sendHop p tLEND (lendBytes op handle off data)

/-- Send a frame on every UP down-port (R435). -/
def State.sendDown (s : State) (f : LFrame) : State := ((s.sendOn 1 f).sendOn 2 f).sendOn 3 f

/-- Does the range of a down-port hold an ID (XLK.RANGEk; FIRST and LAST both 0 mean the range is empty). -/
def State.inRange (s : State) (k dst : Nat) : Bool :=
  let lo := s.getF (F.XLK_RANGE_FIRST k)
  let hi := s.getF (F.XLK_RANGE_LAST k)
  !(lo == 0 && hi == 0) && decide (lo ≤ dst ∧ dst ≤ hi)

/-- Where a routed frame goes (R435). -/
inductive Route where
  | self
  | port (p : PortNo)
  | nowhere
  deriving DecidableEq, Repr

def State.routeOf (s : State) (dst : Nat) : Route :=
  if s.bit F.XLK_STAT_IDVALID = true ∧ dst = s.getF F.XLK_STAT_NODE then .self
  else if s.inRange 0 dst then .port 1
  else if s.inRange 1 dst then .port 2
  else if s.inRange 2 dst then .port 3
  else if s.isMaster then .nowhere
  else .port 0

/-- Is the payload a DRT datagram of the kind a device sends (R143): it answers a stripe head (R452). -/
def drtReply (b : List Byte) : Bool := [2, 4, 6, 8, 9].contains ((b.getD 3 0#8).toNat)

/-- A frame this node sends to itself: a DRT reply is kept for the stripe head, another is delivered (R435, R451). -/
def State.toSelf (s : State) (f : LFrame) : State :=
  if f.ty = tDRT ∧ drtReply f.payload = true then { s with xlk := { s.xlk with inbox := s.xlk.inbox ++ [f] } } else s.emit (.linkLocal f)

/-- Send a frame where its DST leads, or nowhere (R435). -/
def State.routePlain (s : State) (f : LFrame) : State :=
  match s.routeOf f.dst with
  | .self => s.toSelf f
  | .port p => s.sendOn p f
  | .nowhere => s

/-- The payload of an RSP (R444). -/
def rspBytes (op result status : Nat) (data : List Byte) : List Byte := beBytes 1 op ++ beBytes 1 result ++ beBytes 2 status ++ data

/-- Answer a CMD (R444). -/
def State.sendRsp (s : State) (dst tag op result status : Nat) (data : List Byte) : State :=
  s.routePlain (s.frame tRSP dst tag (rspBytes op result status data))

/-- The node and the port that a BREAK names in its reply data (R446): the node ID, then the port, 0 for U. -/
def breakBytes (node port : Nat) : List Byte := beBytes 2 node ++ beBytes 1 port ++ beBytes 1 0

/-- Is an ID that of a stale node and of no live one (R463, R464). -/
def State.staleId (s : State) (n : Nat) : Bool :=
  s.xlk.census.any (fun (c : Census) => c.id == n && c.stale) && !(s.xlk.census.any (fun (c : Census) => c.id == n && !c.stale))

/-- Route a frame; a CMD that can go no further is answered: 803 for a stale node (R463), 801 at the master for an unknown one (R435), 804 by the node whose port is not UP (R446). -/
def State.route (s : State) (f : LFrame) : State :=
  if f.ty ≠ tCMD then s.routePlain f
  else
    let op := (f.payload.headD 0#8).toNat
    if s.isMaster = true ∧ s.staleId f.dst = true then s.sendRsp f.src f.tag op 0 Er.stale.code []
    else match s.routeOf f.dst with
      | .self => s.toSelf f
      | .port p => if s.linkUp p then s.sendOn p f else s.sendRsp f.src f.tag op 0 Er.pathBreak.code (breakBytes s.nodeId p.val)
      | .nowhere => s.sendRsp f.src f.tag op 0 Er.nonode.code []

/-! ### Replies (R51 to R57) -/

/-- ASCII bytes of characters. -/
def charBytes (l : List Char) : List Byte := l.map (fun c => BitVec.ofNat 8 c.toNat)

/-- The most reply data that one RSP carries (R429, R444). -/
def rspMax : Nat := 996

/-- Reply data in RSP frames linked by MORE (R447). -/
def State.sendRsps (s : State) (dst tag status : Nat) : Nat → List Byte → State
  | 0, _ => s
  | n + 1, d =>
    let f := s.frame tRSP dst tag (rspBytes 1 0 status (d.take rspMax))
    if d.length ≤ rspMax then s.routePlain f
    else State.sendRsps (s.routePlain { f with more := true }) dst tag status n (d.drop rspMax)

/-- Lines as reply data: each ended by LF (R444). -/
def linesBytes (ls : List Line) : List Byte := ls.flatMap (fun (l : Line) => charBytes l.text ++ [10#8])


/-- A reply line to a line. -/
def replyLine (ln : Ln) (b : Body) : Line := ⟨ln.tag, none, b, ln.crc⟩

/-- Send lines to a session, in order. -/
def State.sendLines (s : State) (who : Who) : List Line → State
  | [] => s
  | l :: ls => State.sendLines (s.emit (.line who l)) who ls

/-- Send the queued events of a session, oldest first, then what was dropped (R59, R60). -/
def State.flushEvents (s : State) (n : Sid) : State :=
  let x := s.ses n
  let ls := x.evq ++ (if x.lost = 0 then [] else [lostLine x.crc s.now x.lost])
  ls.foldl (fun t l => t.sendEvent n l) (s.setSes n { x with evq := [], lost := 0 })

/-! ### The line buffer of a UART session (R46) -/

def State.uartFlow (s : State) (n : Sid) : Bool := s.bit (if n.val = 0 then F.PCL_UCFG0_FLOW else F.PCL_UCFG1_FLOW)

/-- The size of the line buffer (R46). -/
def bufMax : Nat := 256

/-- The characters in a session's line buffer: the line being typed and the complete lines that wait (R46; DEDUCED, log entry 18). -/
def buffered (x : Session) : Nat := x.buf.length + (x.lines.tail.map (fun w => w.text.length)).sum

/-- RTS_N of a UART session is deasserted while its buffer is full, with flow control on (R46). -/
def State.rtsHigh (s : State) (n : Sid) : Bool := decide (n.val < 2) && s.uartFlow n && decide (bufMax ≤ buffered (s.ses n))

/-- RTS_N follows the buffer: `was` is the state before. -/
def State.rtsFrom (s was : State) (n : Sid) : State :=
  if was.rtsHigh n = s.rtsHigh n then s else s.emit (.pin (if n.val = 0 then "U0_RTS_N" else "U1_RTS_N") (s.rtsHigh n))

/-- Lines at the front of a session's queue that need no execution are answered in their place: rejections, and empty lines with a prompt (R45, R48, R54). -/
def State.answerFront (s : State) (n : Sid) : List WLine → State
  | [] => s.setSes n { s.ses n with lines := [] }
  | w :: ws =>
    match w.kind with
    | .reject e => State.answerFront ((s.emit (.line (.sess n) (replyLine w.ln (.er e [])))).prompt n) n ws
    | .blank => State.answerFront (s.prompt n) n ws
    | _ => s.setSes n { s.ses n with lines := w :: ws }

/-- After a final reply line queued events and the prompt follow; around a line that is partly typed the prompt comes first, and each event as R59 sends it (R54, R59; DEDUCED, log entry 115). -/
def State.afterReply (s : State) (n : Sid) : State :=
  if (s.ses n).echo = true ∧ (s.ses n).buf ≠ [] then (s.prompt n).flushEvents n else (s.flushEvents n).prompt n

/-- The line a session executes has been answered: it leaves the queue, and what stands behind it is answered as far as it needs no execution (R45). -/
def State.lineDone (s : State) (n : Sid) : State := ((s.afterReply n).answerFront n (s.ses n).lines.tail).rtsFrom s n

/-- Answer a line: its continuation lines, then its final line (R55); a forwarded line is answered in RSP frames (R447). A verb's row is the execution of the line at its session's front, whatever text
that line holds (DESIGN CHOICE, log entry 116: the row carries the line's meaning). -/
def State.reply (s : State) (ln : Ln) (cont : List (List Item)) (fin : Body) : State :=
  let ls := cont.map (fun i => replyLine ln (.cont i)) ++ [replyLine ln fin]
  match ln.who with
  | .sess n => (s.sendLines ln.who ls).lineDone n
  | .remote nd tg =>
    let d := linesBytes ls
    { s.sendRsps nd.toNat tg.toNat (match fin with | .er e _ => e.code | _ => 0) (d.length / rspMax + 1) d with
      con.remotes := s.con.remotes.filter (fun r => !(r.node == nd && r.tag == tg)) }

/-- The level a line is executed at (R61, R64). -/
def State.levelOf (s : State) : Who → Level
  | .sess n => (s.ses n).level
  | .remote nd tg => ((s.con.remotes.find? (fun r => r.node == nd && r.tag == tg)).map (·.level)).getD .view

/-- Is there such a session, or such a forwarded line (R41, R64); after a dump the device is halted (R419). -/
def State.present (s : State) : Who → Bool
  | .sess n => (s.ses n).isOpen && !s.pw.halted
  | .remote nd tg => !s.pw.halted && s.con.remotes.any (fun r => r.node == nd && r.tag == tg)

/-- What a verb answers: success with its data lines and reply fields, or an error that leaves no effect (R55, R56). -/
inductive Ans where
  | ok (s : State) (cont : List (List Item)) (fin : List Item)
  | er (e : Er) (items : List Item)
  /-- an error met on the way, after what the device had already done (R82: an uncorrectable word) -/
  | fail (s : State) (e : Er)
  deriving Repr

/-- Execute a verb on its line: the level (R61), rescue mode (R104), then the verb's own work; its answer leaves at the end. A line
of a session that does not exist has no effect. -/
def State.verb (s : State) (ln : Ln) (need : Level) (rescueOk : Bool) (body : Ans) : State :=
  if s.present ln.who = false then s
  else if (s.levelOf ln.who).num < need.num then s.reply ln [] (.er .priv [])
  else if s.boot.rescue = true ∧ rescueOk = false then s.reply ln [] (.er .rescue [])
  else match body with
    | .ok s' cont fin => s'.reply ln cont (.ok fin)
    | .er e items => s.reply ln [] (.er e items)
    | .fail s' e => s'.reply ln [] (.er e [])

/-- The end of a long operation: `!DONE` with the line's tag, to the session that started it while it lasts, or to the origin of a forwarded line (R57, R80, R447). -/
def State.done (s : State) (ln : Option Ln) (items : List Item) : State :=
  match ln with
  | none => s
  | some l => match l.who with
    | .sess n => s.event n "DONE" l.tag items
    | .remote nd tg =>
      let d := linesBytes [⟨[], none, .event "DONE" [] s.now items, false⟩]
      s.routePlain { s.frame tRSP nd.toNat tg.toNat (rspBytes 1 0 0 (d.take rspMax)) with done := true }

/-- The same for every line of a list. -/
def State.doneAll (s : State) (items : List Item) : List Ln → State
  | [] => s
  | l :: ls => State.doneAll (s.done (some l) items) items ls

/-- The two words that tell of an error in a `!DONE` (R80). -/
def erItems (e : Er) (more : List Item) : List Item :=
  [⟨"", .word "ER"⟩, ⟨"", .num e.code⟩, ⟨"", .word e.token⟩] ++ more

/-- Who a lock or an update belongs to: a session, or the node a line came from. -/
def Who.owner : Who → Who
  | .sess n => .sess n
  | .remote nd _ => .remote nd 0

/-- Does the line's sender hold the motion lock (R74). -/
def State.holdsLock (s : State) (ln : Ln) : Bool := s.con.mlock == some (Who.owner ln.who)

/-- A session named in a reply (R71, R74). -/
def whoVal : Who → Val
  | .sess n => .sess n.val
  | .remote nd _ => .chars ('@' :: decText nd.toNat)

/-- A PF or master order acts on a motion resource: the lock's holder is told (R74). -/
def State.override (s : State) (src : String) (res : String) : State :=
  match s.con.mlock with
  | some (.sess n) => s.event n "OVERRIDE" [] [⟨"SRC", .word src⟩, ⟨"RES", .word res⟩]
  | _ => s

/-- Does the writer lack the motion lock: a Plova `POKE` of a motion register needs it, other sources do not (R74, R393; log entry 57). -/
def State.lacksLock (s : State) (src : Src) : Bool :=
  match src with
  | .sess n => s.con.mlock != some (.sess n)
  | .fwd nd => s.con.mlock != some (Who.owner (.remote nd 0))
  | _ => false

/-- A PF or master order on a motion resource is told to the holder of the lock (R74). -/
def State.overrideBy (s : State) (src : Src) (res : String) : State :=
  match src with
  | .pf => s.override "PF" res
  | .master => s.override "MASTER" res
  | _ => s

/-- A `TEST BOOT` run is abandoned without a result (R106). -/
def State.dropBootTest (s : State) : State :=
  if s.boot.testing then { s with boot := { s.boot with testing := false }, con := { s.con with opBoot := none } } else s

/-! ### Register writes -/

/-- What a register write comes to: a next state, or a refusal with its code, and the ERR record a PF write then leaves, if its rule names
one (R83). -/
inductive WRes where
  | ok (s : State)
  | refuse (e : Er) (rec : Option ErrRec)
  deriving Repr

/-- The outcome of a write of its own row: a refused PF write leaves its ERR record and nothing else; a refused `POKE` leaves nothing, its code being
in the reply (R83). -/
def State.apply (s : State) (src : Src) (w : WRes) : State :=
  match w with
  | .ok s' => s'
  | .refuse _ rec =>
    match src, rec with
    | .pf, some r => s.log r
    | _, _ => s

/-- Is a queue the stripe queue of a group that runs (R451). -/
def State.striped (s : State) (q : Nat) : Bool :=
  (List.finRange 4).any (fun (g : Fin 4) => (s.xlk.groups[g]).on && s.getF (F.XLK_SGCFG_QID g.val) == q)

/-- Is the host side running: READY, D1 on, and no dump has halted the device (R116, R121, R419). -/
def State.hostOn (s : State) : Bool := s.bit F.GLB_RSTCAUSE_READY && s.domainOn 1 && !s.pw.halted

/-- May a write of this source reach its register: a host's only while the host side runs (R116, R121) and its function is not in D3hot, where it answers configuration requests only (R127). -/
def State.pfOpen (s : State) (src : Src) : Bool :=
  match src with
  | .pf => s.hostOn && !(s.d3hot 0)
  | .vf n => s.hostOn && !(s.d3hot n)
  | _ => true

/-- A host's write that is discarded is counted while a warm reset is in progress (R116). -/
def State.pfDrop (s : State) (src : Src) : State :=
  match src with
  | .pf => if s.boot.warming then s.count F.GLB_RSTCAUSE_DROPPED 1 else s
  | .vf _ => if s.boot.warming then s.count F.GLB_RSTCAUSE_DROPPED 1 else s
  | _ => s

end Sys2Proof.Machine
end

