-- ==== Sys2Proof/Machine/Pages.lean ====
section
/-! DEFINITION. Tank pages and banks: where an address lies (R242), which pages allocation may take, and the rotating allocation (R243). -/

namespace Sys2Proof.Machine

/-- Bytes of a page; pages of the Tank (R243). -/
def pageBytes : Nat := 4096
def pageCount : Nat := 8192

/-- The bank of a page (R243). -/
def pageBank (p : Nat) : Nat := p % 64

/-- Is a bank under march test: it is fenced from allocation for the run (R258). -/
def State.inMarch (s : State) (b : Nat) : Bool := match s.tnk.march with | some m => m.bank == b | none => false

/-- May allocation take pages of this bank: not fenced, and its domain on: D7 for banks 0 to 31, D8 for banks 32 to 63 (R117, R243). -/
def State.bankOk (s : State) (b : Nat) : Bool :=
  !(s.tnk.fenced.contains b) && !(s.inMarch b) && s.domainOn (if b < 32 then 7 else 8)

/-- May allocation take this page now. -/
def State.pageOk (s : State) (p : Nat) : Bool := s.bankOk (pageBank p) && !(s.tnk.used.contains p)

/-- The Tank's free pages (R243): those that allocation may take. -/
def State.freePages (s : State) : Nat :=
  128 * ((List.range 64).filter s.bankOk).length - (s.tnk.used.filter (fun p => s.bankOk (pageBank p))).length

/-- The pages allocation may take at or after `p`, wrapping, looking at `n` pages, in rotating order (R243). -/
def State.pagesFrom (s : State) : Nat → Nat → List Nat
  | 0, _ => []
  | n + 1, p => if s.pageOk (p % pageCount) then p % pageCount :: State.pagesFrom s n (p + 1) else State.pagesFrom s n (p + 1)

/-- Take `n` pages, or as many as there are: each is the first that may be taken after the page taken last (R243). -/
def State.takePages (s : State) (n : Nat) : List Nat × State :=
  let ps := (s.pagesFrom pageCount (s.tnk.last + 1)).take n
  (ps, { s with tnk := { s.tnk with last := ps.getLastD s.tnk.last, used := ps.reverse ++ s.tnk.used } })

/-- Give pages back. -/
def State.freePagesOf (s : State) (ps : List Nat) : State :=
  { s with tnk := { s.tnk with used := s.tnk.used.filter (fun p => !(ps.contains p)) } }

/-- Pages that `n` bytes take. -/
def pagesFor (n : Nat) : Nat := (n + pageBytes - 1) / pageBytes

/-- Write bytes into a list of pages, page by page. -/
def writePages (m : List (Nat × Byte)) : List Nat → List Byte → List (Nat × Byte)
  | [], _ => m
  | p :: ps, bs => writePages (msetL m (p * pageBytes) (bs.take pageBytes)) ps (bs.drop pageBytes)

/-- Words written anew carry a fresh code: what was wrong with their old copies is gone (R251, R252). The bytes are `n` from an offset of a list of pages on; a word counts with its first byte. -/
def State.fresh (s : State) (pages : List Nat) (off n : Nat) : State :=
  let old (w : Nat) : Bool := match pages.idxOf? (w / 256) with
    | some k => !(decide (off ≤ pageBytes * k + 16 * (w % 256) ∧ pageBytes * k + 16 * (w % 256) < off + n))
    | none => true
  { s with tnk := { s.tnk with ce := s.tnk.ce.filter old, ue := s.tnk.ue.filter old } }

/-- Read `n` bytes from a list of pages. -/
def readPages (m : List (Nat × Byte)) : List Nat → Nat → List Byte
  | [], _ => []
  | p :: ps, n => mgetN m (p * pageBytes) (min n pageBytes) ++ readPages m ps (n - min n pageBytes)

end Sys2Proof.Machine
end

