-- ==== Sys2Proof/Machine/Cut.lean ====
section
/-! DEFINITION. How the Reducer cuts pieces and begins blocks (08_reducer R215, R221, R230), and how blocks lose the pieces of aborted records (R239). -/

namespace Sys2Proof.Machine

/-- A record that has not left the list of records. -/
def State.rec? (s : State) (uid : Nat) : Option Rec := s.qmg.recs.find? (fun (r : Rec) => r.uid == uid)

/-- Is a record still on its way. -/
def State.alive (s : State) (uid : Nat) : Bool := (s.rec? uid).isSome

/-- The bytes of a record: its Tank pages, or a dump's copy (R108, R243). -/
def State.recBytes (s : State) (r : Rec) : List Byte :=
  match r.body with
  | some b => b
  | none => readPages s.tank r.pages r.length

/-- Length of a record, 0 for one that has gone. -/
def State.recLen (s : State) (uid : Nat) : Nat := match s.rec? uid with | some r => r.length | none => 0

/-- Cut pieces from records into `room` bytes; `off` bytes of the first are cut already. What stays to be cut is returned with its offset (R221). -/
def State.cutPieces (s : State) : List Nat → Nat → Nat → List PieceRef × List Nat × Nat
  | [], _, _ => ([], [], 0)
  | u :: us, off, room =>
    let left := s.recLen u - off
    if left = 0 then State.cutPieces s us 0 room
    else if room < 33 then ([], u :: us, off)
    else if left + 32 ≤ room then
      let (ps, us, off') := State.cutPieces s us 0 (room - 32 - left)
      (⟨u, off, left⟩ :: ps, us, off')
    else ([⟨u, off, room - 32⟩], u :: us, off + (room - 32))

/-- The mode set for a tenant (R230). -/
def State.tmode (s : State) (t : Tenant) : Nat := getBits (s.rd (R.RDC_TMODE (t.val / 16))).toNat (2 * (t.val % 16)) 2

/-- RDC.CFG.BLKMAX in bytes. -/
def State.blkMax (s : State) : Nat := 1024 * s.getF F.RDC_CFG_BLKMAX

def State.eng (s : State) (e : Fin 4) : RdcEng := s.cdc.rdc[e]

def State.setEng (s : State) (e : Fin 4) (x : RdcEng) : State := { s with cdc := { s.cdc with rdc := s.cdc.rdc.set e x } }

/-- Is an RDC engine enabled: by RDC.CFG.EN, and not disabled by a fault. -/
def State.rdcOn (s : State) (e : Fin 4) : Bool := getBits (s.getF F.RDC_CFG_EN) e.val 1 == 1 && !(s.eng e).dead

/-- The place of a feed's next block in the order of the feed (R215). -/
def Feed.place (f : Feed) : List Nat := f.base ++ [f.next]

/-- The engine begins its next block: of the feed it holds, else a block that must be encoded again (R215, R221, R239). -/
def State.beginBlock (s : State) (e : Fin 4) : State :=
  let x := s.eng e
  if x.job.isSome = true ∨ x.held = true then s
  else
    match x.feed with
    | some f =>
      match s.cutPieces f.uids f.off s.blkMax with
      | ([], _, _) =>
        let s := s.setEng e { x with feed := none, flush := false }
        if s.rdcOn e = false then s
        else match s.cdc.redo with
          | [] => s
          | j :: js =>
            let s := s.setEng e { x with feed := none, flush := false, job := some { j with mode := s.tmode j.tenant } }
            { s with cdc := { s.cdc with redo := js } }
      | (ps, us, off) =>
        s.setEng e { x with
          flush := false
          feed := some { f with uids := us, off := off, next := f.next + 1 }
          job := some ⟨f.no, f.place, f.tenant, ps, s.tmode f.tenant, f.replay⟩ }
    | none =>
      if s.rdcOn e = false then s
      else match s.cdc.redo with
        | [] => s
        | j :: js =>
          let s := s.setEng e { x with flush := false, job := some { j with mode := s.tmode j.tenant } }
          { s with cdc := { s.cdc with redo := js } }

/-- Every idle engine begins what it can, the lowest-numbered first. -/
def State.settle (s : State) : State := (((s.beginBlock 0).beginBlock 1).beginBlock 2).beginBlock 3

/-- A job without the pieces of records that have gone. -/
def State.pruneJob (s : State) (j : Job) : Option Job :=
  match j.pieces.filter (fun p => s.alive p.uid) with
  | [] => none
  | ps => some { j with pieces := ps }

/-- A feed without the records that have gone; a record cut in part starts over only when it is not the one in progress. -/
def State.pruneFeed (s : State) (f : Feed) : Feed :=
  { f with
    off := match f.uids with | u :: _ => if s.alive u then f.off else 0 | [] => 0
    uids := f.uids.filter s.alive }

/-- An engine without the records that have gone: a block that loses a piece is to be encoded again, by the lowest-numbered idle engine (R239). -/
def State.pruneEng (s : State) (e : Fin 4) : State :=
  let x := { s.eng e with feed := (s.eng e).feed.map s.pruneFeed }
  match x.job with
  | none => s.setEng e x
  | some j =>
    match s.pruneJob j with
    | none => s.setEng e { x with job := none, flush := false }
    | some i =>
      if i.pieces = j.pieces then s.setEng e x
      else
        let s := s.setEng e { x with job := none, flush := false }
        { s with cdc := { s.cdc with redo := s.cdc.redo ++ [i] } }

/-- Encoded blocks that hold pieces of records that have gone are encoded again without them (R239). -/
def State.pruneReady (s : State) : List BlkOut → List BlkOut × List Job
  | [] => ([], [])
  | b :: bs =>
    let (keep, again) := State.pruneReady s bs
    if b.job.pieces.all (fun p => s.alive p.uid) = true then (b :: keep, again)
    else match s.pruneJob b.job with
      | some j => (keep, j :: again)
      | none => (keep, again)

/-- No aborted record stays in a block that is not placed (R216, R239). -/
def State.prune (s : State) : State :=
  let s := (((s.pruneEng 0).pruneEng 1).pruneEng 2).pruneEng 3
  let (keep, again) := s.pruneReady s.cdc.ready
  let redo := s.cdc.redo.filterMap s.pruneJob
  ({ s with cdc := { s.cdc with ready := keep, redo := again ++ redo } }).settle

end Sys2Proof.Machine
end

