-- ==== Sys2Proof/Machine/Ecc.lean ====
section
/-! DEFINITION. SECDED of the Tank (09_on_chip_memories R242, R244, R251, R252): every word that is read is checked, an error is counted and told, and a word written in full is sound again. The codec
reads the records it encodes through it (R239). -/

namespace Sys2Proof.Machine

/-! ### Addresses and requesters (R242, R244) -/

/-- Bank, word index within the bank, and row of a 128-bit word, by its number (byte address over 16). -/
def wordBank (w : Nat) : Nat := w / 256 % 64
def wordRow (w : Nat) : Nat := w / 16384 * 4 + w / 64 % 4
def wordIdx (w : Nat) : Nat := wordRow w * 64 + w % 64

/-- The first word of a row. -/
def rowWord (bank row : Nat) : Nat := row / 4 * 16384 + bank * 256 + row % 4 * 64

def reqCode : Req → Nat
  | .hif => 0 | .eth => 1 | .codec => 2 | .fmt => 3 | .dfm => 4 | .seq => 5 | .window => 6 | .march => 7

/-- The port a requester uses: the window, the march engine and the dump engine share that of SEQ. -/
def reqPort (r : Req) : Nat := min 5 (reqCode r)

/-! ### SECDED (R251, R252) -/

/-- TNK.ELOG takes an error; a correctable one does not overwrite an uncorrectable one that is still VALID. -/
def State.elog (s : State) (ue : Bool) (r : Req) (w : Nat) : State :=
  if (!ue && s.bit F.TNK_ELOG_VALID && s.bit F.TNK_ELOG_UE) = true then s
  else
    let s := ((s.setF F.TNK_ELOG_VALID 1).setF F.TNK_ELOG_UE (if ue then 1 else 0)).setF F.TNK_ELOG_BANK (wordBank w)
    (s.setF F.TNK_ELOG_SRC (reqCode r)).setF F.TNK_ELOG_WORD (wordIdx w)

def wordItems (w : Nat) : List Item := [⟨"BANK", .num (wordBank w)⟩, ⟨"WORD", .num (wordIdx w)⟩]

/-- May ER 701 be written for a bank now: at most once a second (R251). -/
def State.corrDue (s : State) (b : Nat) : Bool :=
  s.bit F.TNK_CTRL_CELOG && (match s.tnk.corrAt.find? (fun (p : Nat × Nat) => p.1 == b) with | some p => decide (p.2 + 1000000 ≤ s.us) | none => true)

/-- A corrected read (R251); the word keeps its bad bit. -/
def State.corrected (s : State) (r : Req) (w : Nat) : State :=
  let b := wordBank w
  let s := { s with tnk := { s.tnk with ce := if s.tnk.ce.contains w then s.tnk.ce else w :: s.tnk.ce } }
  let s := (s.count (F.TNK_ECNT_CE b) 1).elog false r w
  if s.corrDue b then
    { s with tnk := { s.tnk with corrAt := (b, s.us) :: s.tnk.corrAt.filter (fun (p : Nat × Nat) => p.1 != b) } }.log (errRec .corr .tnk (wordItems w))
  else s

/-- The record whose bytes a page holds. -/
def State.pageOwner (s : State) (page : Nat) : Option Rec := s.qmg.recs.find? (fun (x : Rec) => x.pages.contains page)

/-- Slots of a channel in a dataset: payload slots and pool slots (R280). -/
def slotCount (nsub : Nat) : Nat := 8 * nsub + 7

/-- Are all slots of a stream written. -/
def Stream.done (x : Stream) : Bool := x.next.all (fun n => n == slotCount x.ds.nsub)

/-- The stream whose slots are being written. -/
def State.writing? (s : State) : Option Stream := s.fmt.streams.find? (fun x => !x.done)

/-- The dataset a requester serves (R529). -/
def State.reqDs (s : State) (r : Req) : Option Nat :=
  match r with
  | .fmt => (s.writing?).map (fun (x : Stream) => x.ds.num)
  | .dfm => s.rch.dfm.map (fun (d : Dfm) => d.ds)
  | _ => none

/-- The record of an uncorrectable word (R252, R529). -/
def State.uncorrRec (s : State) (r : Req) (w : Nat) : ErrRec :=
  let o := s.pageOwner (w / 256)
  { errRec .uncorr .tnk (wordItems w ++ [⟨"SRC", .num (reqCode r)⟩]) with
    tenant := o.map (fun (x : Rec) => x.tenant.val), qid := o.map (fun (x : Rec) => x.qid.val), rseq := o.map (fun (x : Rec) => x.seq), ds := s.reqDs r }

/-- An uncorrectable read (R252): the word stays so until it is written in full. -/
def State.uncorrected (s : State) (r : Req) (w : Nat) : State :=
  let s := { s with tnk := { s.tnk with ce := s.tnk.ce.filter (fun x => x != w), ue := if s.tnk.ue.contains w then s.tnk.ue else w :: s.tnk.ue } }
  ((s.count (F.TNK_ECNT_UE (wordBank w)) 1).elog true r w).log (s.uncorrRec r w)

/-- A word is checked as it is read: whether it can be used (R251, R252). `ecc` is what its cells have come to hold. -/
def State.secded (s : State) (r : Req) (w : Nat) (ecc : Ecc) : State × Bool :=
  if s.tnk.ue.contains w = true ∨ ecc = .uncorr then (s.uncorrected r w, false)
  else if s.tnk.ce.contains w = true ∨ ecc = .corr then (s.corrected r w, true)
  else (s, true)

/-- A word written with fresh check bits is sound again (R251, R252). -/
def State.freshWord (s : State) (w : Nat) : State :=
  { s with tnk := { s.tnk with ce := s.tnk.ce.filter (fun x => x != w), ue := s.tnk.ue.filter (fun x => x != w) } }

/-- Does a piece of a record have bytes in a word. -/
def State.pieceAt (s : State) (w : Nat) (p : PieceRef) : Bool :=
  match s.rec? p.uid with
  | none => false
  | some r => (r.pages.zipIdx).any (fun (g : Nat × Nat) =>
      let at' := g.2 * pageBytes + w % 256 * 16
      g.1 == w / 256 && decide (at' < p.off + p.len ∧ p.off < at' + 16))

/-- The words of a record's pages that are not sound, in the order of its bytes. -/
def State.badWords (s : State) (r : Rec) : List Nat :=
  if s.tnk.ce = [] ∧ s.tnk.ue = [] then []
  else r.pages.flatMap (fun g => ((List.range 256).map (fun i => 256 * g + i)).filter (fun w => s.tnk.ce.contains w || s.tnk.ue.contains w))

/-- Words are read one after another, up to the first that cannot be used: the state, and that word (R251, R252). -/
def State.readWords (s : State) (r : Req) : List Nat → State × Option Nat
  | [] => (s, none)
  | w :: ws =>
    match s.secded r w .clean with
    | (t, true) => State.readWords t r ws
    | (t, false) => (t, some w)

/-- The codec reads the words of pieces, in order, up to a piece with a word it cannot use: the state, and the number of that piece (R239). -/
def State.readPieces (s : State) (k : Nat) : List PieceRef → State × Option Nat
  | [] => (s, none)
  | p :: ps =>
    match s.readWords .codec (match s.rec? p.uid with | some r => (s.badWords r).filter (fun w => s.pieceAt w p) | none => []) with
    | (t, none) => State.readPieces t (k + 1) ps
    | (t, some _) => (t, some k)

end Sys2Proof.Machine
end

