-- ==== Sys2Proof/Machine/Balls.lean ====
section
/-! DEFINITION. The balls of the heads (11_read_channel R299, R300; 12_servo R332; 18_balls R486, R491): which read inputs are powered, when the write gate is open, and the levels of PRE_EN_x, WGATE_x and
the write outputs that follow from both. -/

namespace Sys2Proof.Machine

/-- Does the tape move (SRV.SPD.CUR). -/
def State.moving (s : State) : Bool := s.mot == .moving && decide (s.getF F.SRV_SPD_CUR ≠ 0)

/-- Is an input powered (R300): the servo inputs while the tape moves, the verifying inputs while writing, forward also the directory copies of UNLOAD (R345), the leading module's while reading, both in a
retry that reads with both. -/
def State.inputOn (s : State) (n : Nat) : Bool :=
  if s.domainOn 5 = false ∨ s.moving = false then false
  else if 32 ≤ n then decide (n < 36)
  else
    let rev := s.bit F.SRV_STAT_DIR
    let modA := decide (n < 16)
    match s.cart with
    | .writing => if rev then modA else !modA
    | .unloading => !modA
    | .reading | .loading | .ready => (match s.rch.dfm with | some d => decide (3 ≤ d.step) | none => false) || (if rev then !modA else modA)
    | _ => false

/-- May the write elements be driven (R332): STATE TRACK, LPWOK, no inhibition, the tape in the data region. -/
def State.gateOpen (s : State) : Bool :=
  s.getF F.SRV_STAT_STATE == 2 && s.bit F.SRV_STAT_LPWOK && !(s.bit F.SRV_STAT_WINHIB)

/-- Does WCH drive the write elements with the gate open: a dataset streams (R332, R341, R491). -/
def State.driving (s : State) : Bool := s.domainOn 5 && s.cart == .writing && (s.writing?).isSome && s.gateOpen

/-- Is any read input of a module powered: its 16 data inputs and its two servo readers (R299, R491). -/
def State.moduleOn (s : State) (modB : Bool) : Bool :=
  if modB then s.inputOn 16 || s.inputOn 34 else s.inputOn 0 || s.inputOn 32

/-- Forward, module A leads and writes; in reverse, module B (R299, R300). -/
def State.moduleGate (s : State) (modB : Bool) : Bool := s.driving && s.bit F.SRV_STAT_DIR == modB

/-- High impedance while D5 is off, data while the gate of the module is open, else a steady differential 0 (R486, R491). -/
def State.moduleOut (s : State) (modB : Bool) : WriteOut :=
  if s.domainOn 5 = false then .hiZ else if s.moduleGate modB then .driven else .zero

/-- The levels that follow from the state. While D5 is off PRE_EN_x holds the level it had (R486). -/
def State.headLevels (s : State) : Balls :=
  let on := s.domainOn 5
  { s.balls with
    preA := if on then s.moduleOn false else s.balls.preA, preB := if on then s.moduleOn true else s.balls.preB
    gateA := s.moduleGate false, gateB := s.moduleGate true, outA := s.moduleOut false, outB := s.moduleOut true }

/-- Drive a ball to a level, if that is a change. -/
def State.drive (s : State) (name : String) (was now : Bool) : State := if was = now then s else s.emit (.pin name now)
def State.driveOuts (s : State) (modB : Bool) (was now : WriteOut) : State := if was = now then s else s.emit (.writeOuts modB now)

/-- WGATE_x falls before the write outputs of its module leave their data, and rises once they carry it (R491). -/
def State.setHeads (s : State) (b : Balls) : State :=
  let o := s.balls
  let s := { s with balls := b }
  let s := (s.drive "PRE_EN_A" o.preA b.preA).drive "PRE_EN_B" o.preB b.preB
  let s := (s.drive "WGATE_A" o.gateA (o.gateA && b.gateA)).drive "WGATE_B" o.gateB (o.gateB && b.gateB)
  let s := (s.driveOuts false o.outA b.outA).driveOuts true o.outB b.outB
  (s.drive "WGATE_A" (o.gateA && b.gateA) b.gateA).drive "WGATE_B" (o.gateB && b.gateB) b.gateB

/-- Bring the head balls up to date with the state (R491): at every arbitration tick, frame written, servo frame, power-fail, reset and domain switched off, which keeps the 2 us of the rule (log entry 126). -/
def State.headBalls (s : State) : State := s.setHeads s.headLevels

/-- A directory copy is written through module A, forward, with its gate open meanwhile (R332, R345, R491). -/
def State.gated (s : State) (o : Out) : State :=
  let b := { s.balls with gateA := true, outA := .driven }
  ((s.setHeads b).emit o).setHeads { b with gateA := false, outA := .zero }

/-- Every gate output is held at 0: D6 is off or in reset (R353, R486). -/
def State.gatesZero (s : State) : State :=
  (((s.emit (.gates .supply [])).emit (.gates .takeup [])).emit (.gates .fan [])).emit (.gates .head [])

end Sys2Proof.Machine
end

