-- ==== Sys2Proof/Machine/Aes.lean ====
section
/-! DEFINITION. AES-256 in Galois/Counter Mode (10_dataset R295), as FIPS 197 and NIST SP 800-38D define it (PRESUMED, log entry 23). -/

namespace Sys2Proof.Machine

/-- Multiplication in the field of AES (polynomial 0x11B). -/
def aesDouble (a : Nat) : Nat := if a < 128 then 2 * a else (2 * a % 256) ^^^ 0x1B

def aesMulBits : Nat → Nat → Nat → Nat
  | 0, _, _ => 0
  | n + 1, a, b => (if b % 2 = 1 then a else 0) ^^^ aesMulBits n (aesDouble a) (b / 2)

def aesMul (a b : Nat) : Nat := aesMulBits 8 a b

/-- The inverse in that field: the 254th power; 0 stays 0. -/
def aesPow : Nat → Nat → Nat
  | 0, _ => 1
  | n + 1, a => aesMul a (aesPow n a)

def rotl8 (b n : Nat) : Nat := (b * 2 ^ n % 256) ||| (b / 2 ^ (8 - n))

/-- The S-box. -/
def sbox (b : Nat) : Nat :=
  let i := aesPow 254 b
  i ^^^ rotl8 i 1 ^^^ rotl8 i 2 ^^^ rotl8 i 3 ^^^ rotl8 i 4 ^^^ 0x63

/-- Words of four bytes. -/
def quads : List Nat → List (List Nat)
  | a :: b :: c :: d :: t => [a, b, c, d] :: quads t
  | _ => []

def xorL (a b : List Nat) : List Nat := List.zipWith (· ^^^ ·) a b

/-- Key schedule, words newest first: `n` more words, of which the next is number `i`; `rc` is the round constant. -/
def keyWords : Nat → Nat → Nat → List (List Nat) → List (List Nat)
  | 0, _, _, ws => ws
  | n + 1, i, rc, ws =>
    let prev := ws.headD [0, 0, 0, 0]
    let t :=
      if i % 8 = 0 then xorL ((prev.drop 1 ++ prev.take 1).map sbox) [rc, 0, 0, 0]
      else if i % 8 = 4 then prev.map sbox
      else prev
    keyWords n (i + 1) (if i % 8 = 0 then aesDouble rc else rc) (xorL (ws.getD 7 [0, 0, 0, 0]) t :: ws)

/-- The 15 round keys of a 256-bit key. -/
def roundKeys (key : List Nat) : List (List Nat) :=
  let ws := (keyWords 52 8 1 (quads key).reverse).reverse
  (List.range 15).map (fun r => ((ws.drop (4 * r)).take 4).flatten)

/-- ShiftRows on a state of 16 bytes in column order. -/
def shiftRows (st : List Nat) : List Nat := (List.range 16).map (fun i => st.getD ((i + 4 * (i % 4)) % 16) 0)

def mixColumn (c : List Nat) : List Nat :=
  match c with
  | [a, b, d, e] =>
    [aesDouble a ^^^ (aesDouble b ^^^ b) ^^^ d ^^^ e, a ^^^ aesDouble b ^^^ (aesDouble d ^^^ d) ^^^ e, a ^^^ b ^^^ aesDouble d ^^^ (aesDouble e ^^^ e),
     (aesDouble a ^^^ a) ^^^ b ^^^ d ^^^ aesDouble e]
  | _ => c

/-- The rounds; the last one mixes no columns. -/
def aesRounds : List (List Nat) → List Nat → List Nat
  | [], st => st
  | [k], st => xorL (shiftRows (st.map sbox)) k
  | k :: ks, st => aesRounds ks (xorL ((quads (shiftRows (st.map sbox))).flatMap mixColumn) k)

/-- One block under round keys. -/
def aesBlock (ks : List (List Nat)) (blk : List Nat) : List Nat := aesRounds (ks.drop 1) (xorL blk (ks.headD []))

/-- Multiplication of GHASH: `n` bits of x from the most significant; v is y shifted. -/
def ghMul : Nat → Nat → Nat → Nat → Nat
  | 0, _, _, z => z
  | n + 1, x, v, z =>
    ghMul n x (if v % 2 = 1 then (v / 2) ^^^ (0xE1 * 2 ^ 120) else v / 2) (if x / 2 ^ n % 2 = 1 then z ^^^ v else z)

/-- Fold 16-byte blocks, padded with zeros, into a GHASH value: `n` blocks. -/
def ghBlocks (h : Nat) : Nat → Nat → List Byte → Nat
  | 0, y, _ => y
  | n + 1, y, l =>
    let b := l.take 16
    ghBlocks h n (ghMul 128 (y ^^^ beValue (b ++ List.replicate (16 - b.length) 0#8)) h 0) (l.drop 16)

def bytesN (l : List Byte) : List Nat := l.map (·.toNat)

/-- Key stream from counter `c` on, `n` blocks. -/
def ctrStream (ks : List (List Nat)) (iv : List Byte) : Nat → Nat → List Nat
  | 0, _ => []
  | n + 1, c => aesBlock ks (bytesN (iv ++ beBytes 4 c)) ++ ctrStream ks iv n (c + 1)

/-- The GCM tag over additional data and ciphertext. -/
def gcmTag (key iv aad ct : List Byte) : List Byte :=
  let ks := roundKeys (bytesN key)
  let h := beValue ((aesBlock ks (List.replicate 16 0)).map (BitVec.ofNat 8))
  let y := ghBlocks h ((ct.length + 15) / 16) (ghBlocks h ((aad.length + 15) / 16) 0 aad) ct
  let y := ghMul 128 (y ^^^ (8 * aad.length * 2 ^ 64 + 8 * ct.length)) h 0
  List.zipWith (fun a b => a ^^^ BitVec.ofNat 8 b) (beBytes 16 y) (aesBlock ks (bytesN (iv ++ beBytes 4 1)))

/-- Encrypt, or decrypt, with the counter stream of GCM. -/
def gcmCrypt (key iv pt : List Byte) : List Byte :=
  let ks := roundKeys (bytesN key)
  List.zipWith (fun a b => a ^^^ BitVec.ofNat 8 b) pt (ctrStream ks iv ((pt.length + 15) / 16) 2)

end Sys2Proof.Machine
end

