-- ==== Sys2Proof/Machine/Dbf.lean ====
section
/-! DEFINITION. The Dypango Block Format (08_reducer R218 to R234): block header, pieces, canonical codes, the coded stream, and the checks a reader makes. -/

namespace Sys2Proof.Machine

/-! ### Bits and canonical codes (R225, R227) -/

/-- `n` bits of a value, most significant first. -/
def bitsOf : Nat → Nat → List Bool
  | 0, _ => []
  | n + 1, v => (v / 2 ^ n % 2 == 1) :: bitsOf n v

/-- The value of bits, most significant first. -/
def bitsVal : List Bool → Nat → Nat
  | [], v => v
  | b :: bs, v => bitsVal bs (2 * v + (if b then 1 else 0))

/-- Bits packed into bytes, most significant first, with 0 bits up to the byte boundary (R225). -/
def packBits : List Bool → List Byte
  | [] => []
  | [a] => [BitVec.ofNat 8 (bitsVal [a, false, false, false, false, false, false, false] 0)]
  | [a, b] => [BitVec.ofNat 8 (bitsVal [a, b, false, false, false, false, false, false] 0)]
  | [a, b, c] => [BitVec.ofNat 8 (bitsVal [a, b, c, false, false, false, false, false] 0)]
  | [a, b, c, d] => [BitVec.ofNat 8 (bitsVal [a, b, c, d, false, false, false, false] 0)]
  | [a, b, c, d, e] => [BitVec.ofNat 8 (bitsVal [a, b, c, d, e, false, false, false] 0)]
  | [a, b, c, d, e, f] => [BitVec.ofNat 8 (bitsVal [a, b, c, d, e, f, false, false] 0)]
  | [a, b, c, d, e, f, g] => [BitVec.ofNat 8 (bitsVal [a, b, c, d, e, f, g, false] 0)]
  | a :: b :: c :: d :: e :: f :: g :: h :: t => BitVec.ofNat 8 (bitsVal [a, b, c, d, e, f, g, h] 0) :: packBits t

/-- Bytes as bits, most significant first. -/
def unpackBits (l : List Byte) : List Bool := l.flatMap (fun b => bitsOf 8 b.toNat)

/-- How many symbols have a code of a length. -/
def lenCount (lens : List Nat) (n : Nat) : Nat := (lens.filter (· == n)).length

/-- The first code of a length (R227). -/
def firstCode (lens : List Nat) : Nat → Nat
  | 0 => 0
  | 1 => 0
  | n + 1 => 2 * (firstCode lens n + lenCount lens n)

/-- The code of a symbol: its length and value; none for a symbol without a code. -/
def codeOf (lens : List Nat) (s : Nat) : Option (Nat × Nat) :=
  match lens[s]? with
  | some n => if n = 0 then none else some (n, firstCode lens n + lenCount (lens.take s) n)
  | none => none

/-- Does a table of lengths meet R227: the sum of 2^-len is at most 1. -/
def kraftOk (lens : List Nat) : Bool :=
  lens.all (· ≤ 15) && decide ((lens.map (fun n => if n = 0 then 0 else 2 ^ (15 - n))).sum ≤ 2 ^ 15)

/-- The `k`-th symbol that has a code of length `n`. -/
def nthSymbol (n : Nat) : List Nat → Nat → Nat → Option Nat
  | [], _, _ => none
  | l :: ls, s, k => if l = n then (if k = 0 then some s else nthSymbol n ls (s + 1) (k - 1)) else nthSymbol n ls (s + 1) k

/-- Read one symbol: the bits so far are `n` long with value `c`; a pattern that matches no code is invalid (R227). -/
def readSymbol (lens : List Nat) : Nat → Nat → Nat → List Bool → Option (Nat × List Bool)
  | 0, _, _, _ => none
  | _ + 1, _, _, [] => none
  | fuel + 1, n, c, b :: bs =>
    let n := n + 1
    let c := 2 * c + (if b then 1 else 0)
    let f := firstCode lens n
    if f ≤ c ∧ c < f + lenCount lens n then (nthSymbol n lens 0 (c - f)).map (fun s => (s, bs))
    else readSymbol lens fuel n c bs

/-- The static literal/length and distance lengths (R228). -/
def staticLit : List Nat := List.replicate 128 8 ++ List.replicate 128 9 ++ List.replicate 29 7
def staticDist : List Nat := List.replicate 32 5

/-! ### Matches (R223, R224) -/

/-- Extra bits and smallest length of length symbol 257 + i. -/
def lenExtra (i : Nat) : Nat := if i < 8 then 0 else (i - 8) / 4 + 1
def lenBase (i : Nat) : Nat := if i < 8 then 4 + i else 4 + 8 * 2 ^ ((i - 8) / 4) + (i - 8) % 4 * 2 ^ ((i - 8) / 4 + 1)

/-- Extra bits and smallest distance of distance symbol i. -/
def distExtra (i : Nat) : Nat := if i < 4 then 0 else (i - 4) / 2 + 1
def distBase (i : Nat) : Nat := if i < 4 then 1 + i else 1 + 2 ^ ((i - 4) / 2 + 2) + (i - 4) % 2 * 2 ^ ((i - 4) / 2 + 1)

/-- The highest symbol whose smallest value is at most `v`, among the first `n`. -/
def symbolFor (base : Nat → Nat) (v : Nat) : Nat → Nat
  | 0 => 0
  | n + 1 => if base n ≤ v then n else symbolFor base v n

/-- The bits of a token (R225); none when a symbol has no code or a value is out of range. -/
def tokenBits (lit dist : List Nat) : Token → Option (List Bool)
  | .lit b => (codeOf lit b.toNat).map (fun c => bitsOf c.1 c.2)
  | .copy len d =>
    if len < 4 ∨ 259 < len ∨ d = 0 ∨ 65536 < d then none
    else
      let i := symbolFor lenBase len 28
      let j := symbolFor distBase d 32
      match codeOf lit (257 + i), codeOf dist j with
      | some a, some b => some (bitsOf a.1 a.2 ++ bitsOf (lenExtra i) (len - lenBase i) ++ bitsOf b.1 b.2 ++ bitsOf (distExtra j) (d - distBase j))
      | _, _ => none

/-- The bits of a token sequence and its END (R225). -/
def streamBits (lit dist : List Nat) : List Token → Option (List Bool)
  | [] => (codeOf lit 256).map (fun c => bitsOf c.1 c.2)
  | t :: ts =>
    match tokenBits lit dist t, streamBits lit dist ts with
    | some a, some b => some (a ++ b)
    | _, _ => none

/-- Copy `len` bytes one at a time from `d` back; `out` is what has been produced, newest first (R226). -/
def copyBack (d : Nat) : Nat → List Byte → List Byte
  | 0, out => out
  | n + 1, out => copyBack d n (out.getD (d - 1) 0#8 :: out)

/-- What a token sequence produces, newest first; none when a distance passes what has been produced (R226). -/
def produce : List Token → List Byte → Option (List Byte)
  | [], out => some out
  | .lit b :: ts, out => produce ts (b :: out)
  | .copy len d :: ts, out => if d = 0 ∨ out.length < d then none else produce ts (copyBack d len out)

/-- The dynamic table's 159 bytes: 317 nibbles, high nibble first, a last nibble of 0 (R229). -/
def tableBytes (lit dist : List Nat) : List Byte :=
  packBits ((lit ++ dist).flatMap (bitsOf 4) ++ [false, false, false, false])

/-- Nibbles of bytes, high first. -/
def nibbles (l : List Byte) : List Nat := l.flatMap (fun b => [b.toNat / 16, b.toNat % 16])

/-- Is a dynamic table valid (R229). -/
def tableOk (lit dist : List Nat) (last : Nat) : Bool :=
  kraftOk lit && kraftOk dist && decide (lit.getD 256 0 ≠ 0) && last == 0

/-! ### Blocks (R218 to R222) -/

/-- A piece of a record inside a block (R219). -/
structure Piece where
  qid : Nat
  seq : Nat
  tstamp : Nat
  rlen : Nat
  offset : Nat
  barrier : Bool
  hostts : Bool
  data : List Byte
  deriving DecidableEq, Repr

def Piece.isFirst (p : Piece) : Bool := p.offset == 0
def Piece.isLast (p : Piece) : Bool := p.offset + p.data.length == p.rlen

/-- The 32-byte preamble and the piece's bytes (R219). -/
def Piece.bytes (p : Piece) : List Byte :=
  let pf := (if p.isFirst then 1 else 0) + (if p.isLast then 2 else 0) + (if p.barrier then 4 else 0) + (if p.hostts then 8 else 0)
  beBytes 2 p.qid ++ beBytes 1 pf ++ beBytes 1 0 ++ beBytes 6 p.seq ++ beBytes 2 0 ++ beBytes 8 p.tstamp ++ beBytes 4 p.rlen ++ beBytes 4 p.offset
    ++ beBytes 4 p.data.length ++ p.data

/-- The block header (R218): mode 0 STORED, 1 STATIC, 2 DYNAMIC. -/
def blockHeader (mode tenant : Nat) (flushed replay fallback : Bool) (pieces ulen clen ucrc : Nat) : List Byte :=
  let fl := (if flushed then 1 else 0) + (if replay then 2 else 0) + (if fallback then 4 else 0)
  let h := beBytes 2 0x4442 ++ beBytes 1 1 ++ beBytes 1 mode ++ beBytes 1 tenant ++ beBytes 1 fl ++ beBytes 2 pieces ++ beBytes 4 ulen ++ beBytes 4 clen
    ++ beBytes 4 ucrc ++ beBytes 2 0
  h ++ beBytes 2 (crc16 h)

/-- What follows the header in STATIC and DYNAMIC mode; none when the tokens cannot be coded. -/
def staticBody (ts : List Token) : Option (List Byte) := (streamBits staticLit staticDist ts).map packBits

def dynamicBody (lit dist : List Nat) (ts : List Token) : Option (List Byte) :=
  if tableOk lit dist 0 = true ∧ lit.length = 285 ∧ dist.length = 32 then (streamBits lit dist ts).map (fun b => tableBytes lit dist ++ packBits b) else none

/-- How a block's mode is chosen (R230, R231): the mode written, FALLBACK, and the bytes after the header. `tmode` is 0 AUTO, 1 STATIC, 2 DYNAMIC, 3 STORED. -/
def chooseMode (tmode : Nat) (content : List Byte) (st dy : Option (List Byte)) : Nat × Bool × List Byte :=
  let u := content.length
  let fits (o : Option (List Byte)) : Option (List Byte) := o.bind (fun b => if b.length < u then some b else none)
  match tmode with
  | 1 => match fits st with | some b => (1, false, b) | none => (0, true, content)
  | 2 => match fits dy with | some b => (2, false, b) | none => (0, true, content)
  | 3 => (0, false, content)
  | _ =>
    match fits st, fits dy with
    | some a, some b => if a.length ≤ b.length then (1, false, a) else (2, false, b)
    | some a, none => (1, false, a)
    | none, some b => (2, false, b)
    | none, none => (0, false, content)

/-- A whole block (R218). -/
def makeBlock (mode tenant : Nat) (flushed replay fallback : Bool) (pieces : Nat) (content body : List Byte) : List Byte :=
  blockHeader mode tenant flushed replay fallback pieces content.length body.length (crc32 content) ++ body

/-! ### Reading a block (R233, R234) -/

/-- Tokens read from a coded stream until END, expanded as they come, newest first; the output never passes `ulen` (R226, R234). -/
def readStream (lit dist : List Nat) (ulen : Nat) : Nat → List Bool → List Byte → Option (List Byte × List Bool)
  | 0, _, _ => none
  | fuel + 1, bs, out =>
    match readSymbol lit 15 0 0 bs with
    | none => none
    | some (sy, bs) =>
      if sy = 256 then some (out, bs)
      else if sy < 256 then (if ulen < out.length + 1 then none else readStream lit dist ulen fuel bs (BitVec.ofNat 8 sy :: out))
      else
        let i := sy - 257
        let e := lenExtra i
        if bs.length < e then none
        else
          let len := lenBase i + bitsVal (bs.take e) 0
          match readSymbol dist 15 0 0 (bs.drop e) with
          | none => none
          | some (j, bs) =>
            let e := distExtra j
            if bs.length < e then none
            else
              let d := distBase j + bitsVal (bs.take e) 0
              if out.length < d ∨ ulen < out.length + len then none
              else readStream lit dist ulen fuel (bs.drop e) (copyBack d len out)

/-- The uncompressed content of a coded stream that ends exactly where its bytes end: END at ULEN bytes, then 0 bits to the byte boundary (R234). -/
def readCoded (lit dist : List Nat) (ulen : Nat) (body : List Byte) : Option (List Byte) :=
  let bs := unpackBits body
  match readStream lit dist ulen (bs.length + 1) bs [] with
  | some (out, rest) => if out.length = ulen ∧ rest.length < 8 ∧ rest.all (· == false) = true then some out.reverse else none
  | none => none

/-- The pieces of an uncompressed content, with a limit on their number; none when a preamble breaks R220. -/
def readPieces : Nat → List Byte → Option (List Piece)
  | _, [] => some []
  | 0, _ => none
  | fuel + 1, l =>
    if l.length < 33 then none
    else
      let q := beValue (l.take 2)
      let pf := beValue ((l.drop 2).take 1)
      let rlen := beValue ((l.drop 20).take 4)
      let off := beValue ((l.drop 24).take 4)
      let plen := beValue ((l.drop 28).take 4)
      let rest := l.drop 32
      if q < 1024 ∧ pf < 16 ∧ beValue ((l.drop 3).take 1) = 0 ∧ beValue ((l.drop 10).take 2) = 0 ∧ 1 ≤ rlen ∧ rlen ≤ 8388608 ∧ 1 ≤ plen
          ∧ plen ≤ rest.length ∧ off + plen ≤ rlen ∧ (pf % 2 == 1) = (off == 0) ∧ (pf / 2 % 2 == 1) = (off + plen == rlen) ∧ (pf / 4 % 2 = 1 → pf % 2 = 1) then
        (readPieces fuel (rest.drop plen)).map (fun ps =>
          ⟨q, beValue ((l.drop 4).take 6), beValue ((l.drop 12).take 8), rlen, off, pf / 4 % 2 == 1, pf / 8 % 2 == 1, rest.take plen⟩ :: ps)
      else none

/-- Do two pieces of one block that name one queue stand in the order of R220: ascending SEQ, and one record's pieces continue one another and agree. -/
def pieceOrder (a b : Piece) : Bool :=
  a.qid != b.qid || decide (a.seq < b.seq) ||
    (a.seq == b.seq && a.tstamp == b.tstamp && a.rlen == b.rlen && a.hostts == b.hostts && b.offset == a.offset + a.data.length)

/-- Every piece stands well to the next one of its queue. -/
def piecesOrdered : List Piece → Bool
  | [] => true
  | p :: ps => (match ps.find? (fun x => x.qid == p.qid) with | some x => pieceOrder p x | none => true) && piecesOrdered ps

/-- What a block holds, when it passes every check of R234; else the first error. `room` is how many bytes the extent has for the block. -/
def readBlock (extTenant room : Nat) (blk : List Byte) : Except Er (List Piece × Bool) :=
  let h := blk.take 24
  let mode := beValue ((h.drop 3).take 1)
  let ulen := beValue ((h.drop 8).take 4)
  let clen := beValue ((h.drop 12).take 4)
  let body := (blk.drop 24).take clen
  if blk.length < 24 ∨ crc16 (h.take 22) ≠ beValue (h.drop 22) ∨ beValue (h.take 2) ≠ 0x4442 ∨ beValue ((h.drop 2).take 1) ≠ 1 ∨ 2 < mode
      ∨ ulen < 33 ∨ 262144 < ulen ∨ (mode = 0 ∧ clen ≠ ulen) ∨ room < 24 + clen ∨ body.length < clen then .error .dbfhdr
  else
    let content : Option (List Byte) :=
      match mode with
      | 0 => some body
      | 1 => readCoded staticLit staticDist ulen body
      | _ =>
        let ns := nibbles (body.take 159)
        let lit := ns.take 285
        let dist := (ns.drop 285).take 32
        if body.length < 159 ∨ tableOk lit dist (ns.getD 317 1) = false then none else readCoded lit dist ulen (body.drop 159)
    match content with
    | none => .error .dbfcode
    | some c =>
      if crc32 c ≠ beValue ((h.drop 16).take 4) then .error .dbfcrc
      else match readPieces 8192 c with
        | none => .error .dbfpiece
        | some ps =>
          if ps.length = beValue ((h.drop 6).take 2) ∧ ps ≠ [] ∧ piecesOrdered ps = true ∧ beValue ((h.drop 4).take 1) = extTenant then
            .ok (ps, beValue ((h.drop 5).take 1) / 2 % 2 == 1)
          else .error .dbfpiece

end Sys2Proof.Machine
end

