-- ==== Sys2Proof/Machine/Backlog.lean ====
section
/-! DEFINITION. Which records the scheduler may take next (07_interrupts R530), and what follows at once when a tenant has none left: its deficit (R207), and the share changes that waited for a round
(R211). -/

namespace Sys2Proof.Machine

/-- The class of a tenant: 0 CONTINUOUS, 1 STANDARD, 2 BULK (R205). -/
def State.classOf (s : State) (t : Tenant) : Nat := s.getF (F.SCH_TSHARE_CLASS t.val)

/-- Is a record at a final level: DURABLE (an aborted one has left the list). -/
def Rec.final (r : Rec) : Bool := r.level == .durable

def RLevel.num : RLevel → Nat
  | .moving => 0 | .accepted => 1 | .secured => 2 | .durable => 3

/-! ### Eligible records (R530) -/

/-- Has a record been fed, or is it final (R216, R530). -/
def Rec.passed (r : Rec) : Bool := r.feed.isSome || r.final

/-- Two records of one queue: the same ID, and both or neither orphaned by a function-level reset (R202). -/
def Rec.sameQueue (a b : Rec) : Bool := a.qid == b.qid && a.carried == b.carried && a.replay == b.replay

/-- Is a record the eligible head of its queue (R530): ACCEPTED, in the Tank, every earlier one fed or final, and the before sets of its BARRIERs too.
Records of a stripe queue are not fed (R451). -/
def State.head (s : State) (r : Rec) : Bool :=
  !r.passed && !r.replay && decide (1 ≤ r.level.num) && r.lent.isNone && !(s.striped r.qid.val) &&
  s.qmg.recs.all (fun p => !(p.sameQueue r && decide (p.uid < r.uid)) || p.passed) &&
  s.qmg.barriers.all (fun b => !(r.barriers.contains b.id) || s.qmg.recs.all (fun p => !(b.before.contains p.uid) || p.passed))

/-- Does a tenant's slot hold an HMAC key (R296). -/
def State.hmacSet (s : State) (t : Tenant) : Bool := s.sec.keys.any (fun k => k.t == t && k.hmac.isSome)

/-- Does SEC.CFG.REQKEY hold a tenant back (R296). -/
def State.keyless (s : State) (t : Tenant) : Bool := s.bit F.SEC_CFG_REQKEY && !(s.hmacSet t)

/-- The eligible head records of a tenant. -/
def State.heads (s : State) (t : Tenant) : List Rec := s.qmg.recs.filter (fun r => r.tenant == t && s.head r)

/-- Has a tenant an eligible record; a keyless one has none. -/
def State.backlogged (s : State) (t : Tenant) : Bool := s.qmg.recs.any (fun r => r.tenant == t && s.head r) && !(s.keyless t)

/-- Tenants with an eligible record, in ascending order. -/
def State.backlog (s : State) : List Tenant := (List.finRange 256).filter s.backlogged

/-! ### Balances (R207, R208) -/

def balOf : List Bal → Tenant → Bal
  | [], t => ⟨t, 0, 0⟩
  | b :: bs, t => if b.t = t then b else balOf bs t

def State.bal (s : State) (t : Tenant) : Bal := balOf s.sch.bals t

def State.setBal (s : State) (b : Bal) : State :=
  { s with sch := { s.sch with bals := b :: s.sch.bals.filter (fun x => x.t != b.t) } }

/-- RATE of a tenant in MB/s, which is bytes per microsecond. -/
def State.rateOf (s : State) (t : Tenant) : Nat := s.getF (F.SCH_TSHARE_RATE t.val)

/-- The cap of a token balance: RATE for 20 ms (R208). -/
def State.tokenCap (s : State) (t : Tenant) : Nat := 20000 * s.rateOf t

/-- A balance, its tokens held to their cap (R208). -/
def State.capTokens (s : State) (b : Bal) : Bal := { b with tokens := min b.tokens (s.tokenCap b.t) }

/-- Take a pending share change: a change of class sets deficit and balance to 0 (R211); a lower RATE lowers the cap of the tokens at once (R208). -/
def State.takeShare (s : State) (c : ShareChange) : State :=
  let old := s.classOf c.t
  let s := s.wr (R.SCH_TSHARE c.t.val) c.w
  let s := { s with sch := { s.sch with changes := s.sch.changes.filter (fun x => x.t != c.t) } }
  if old = getBits c.w.toNat 28 2 then { s with sch := { s.sch with bals := s.sch.bals.map (fun b => if b.t = c.t then s.capTokens b else b) } }
  else { s with sch := { s.sch with bals := s.sch.bals.filter (fun b => b.t != c.t) } }

/-- Take every pending share change, at a round boundary (R211). -/
def State.takeShares (s : State) : List ShareChange → State
  | [] => s
  | c :: cs => State.takeShares (s.takeShare c) cs

/-- Does a CONTINUOUS tenant hold tokens (R208). -/
def State.holdsTokens (s : State) (t : Tenant) : Bool := s.classOf t == 0 && decide (0 < (s.bal t).tokens)

/-- Has a tenant of order 2 or 3 an eligible record: a round is in progress, or the next one is about to start (R211). -/
def State.inRound (s : State) : Bool := s.qmg.recs.any (fun r => s.head r && !(s.keyless r.tenant) && !(s.holdsTokens r.tenant))

/-- Tenants whose eligible records have gone lose their deficit (R207), and when no tenant of order 2 or 3 has one pending share changes take effect (R211). -/
def State.settleShares (s : State) : State :=
  let s := { s with sch := { s.sch with bals := s.sch.bals.map (fun x => if s.backlogged x.t then x else { x with deficit := 0 }) } }
  if s.sch.changes = [] ∨ s.inRound = true then s else s.takeShares s.sch.changes

end Sys2Proof.Machine
end

