-- ==== Sys2Proof/Machine/Queues.lean ====
section
/-! DEFINITION. Queues, records and their levels: creation and deletion (R160 to R163), doorbells (R132, R168), completions and the order they are
reported in (R169 to R176), the Fixer reservation (R172 to R174), BARRIER (R179 to R181), aborts (R182), and the fetch of WRITE, BARRIER and NOP
descriptors (R164 to R167). -/

namespace Sys2Proof.Machine

/-! ### Tenants and queues -/

/-- The DRT enable bit of a tenant (ETH.DRTTENk). -/
def State.drtTen (s : State) (t : Tenant) : Bool := getBits (s.getF (F.ETH_DRTTEN_EN (t.val / 32))) (t.val % 32) 1 == 1

/-- Is VF n enabled (R134). -/
def State.vfOn (s : State) (t : Tenant) : Bool := s.hif.vfen && decide (0 < t.val ∧ t.val ≤ s.hif.numVf)

/-- Is tenant `t` enabled (R123). -/
def State.enabled (s : State) (t : Tenant) : Bool :=
  t.val == 0 || (s.hif.vfen && decide (t.val ≤ s.hif.numVf)) || s.drtTen t

def State.queue? (s : State) (q : Nat) : Option Queue := s.qmg.queues.find? (fun x => x.id.val == q)

/-- The queue in a slot of a tenant's window (R126). -/
def State.slotQueue? (s : State) (t : Tenant) (n : Nat) : Option Queue :=
  s.qmg.queues.find? (fun x => x.tenant == t && x.slot.val == n)

/-- Put a queue back after a change of it. -/
def State.setQueue (s : State) (q : Queue) : State :=
  { s with qmg := { s.qmg with queues := s.qmg.queues.map (fun x => if x.id = q.id then q else x) } }

/-- The quota of a tenant (QMG.TQUOTAk; a stored value is at most 64). -/
def State.quota (s : State) (t : Tenant) : Nat := min 64 (getBits (s.rd (R.QMG_TQUOTA (t.val / 4))).toNat (8 * (t.val % 4)) 8)

def State.ownedBy (s : State) (t : Tenant) : List Queue := s.qmg.queues.filter (fun q => q.tenant == t)

/-- A queue ID is quarantined while a function-level reset's carried records of it are not DURABLE (R202). -/
def State.quarantined (s : State) (q : Nat) : Bool := s.qmg.recs.any (fun r => r.qid.val == q && r.carried)

/-- The lowest free queue ID (R87): neither in use nor quarantined. -/
def State.freeId (s : State) : Option Qid :=
  (List.finRange 1024).find? (fun q => (s.queue? q.val).isNone && !(s.quarantined q.val))

/-- The lowest free slot of a tenant's window (R126). -/
def State.freeSlot (s : State) (t : Tenant) : Option (Fin 64) :=
  (List.finRange 64).find? (fun n => (s.slotQueue? t n.val).isNone)

/-- The worst read retry budget in ms (R88, R474). -/
def retryBudget : Nat := 19200

/-- What a create asks for (R160). `ring` is none for a DRT queue; `sizeLog` is the logarithm of SIZE, none when SIZE is no allowed power of two. -/
structure CreateReq where
  t : Nat
  q : Option Nat
  ring : Option Nat
  sizeLog : Option Nat
  timeout : Nat
  deriving DecidableEq, Repr

/-- Why a create is refused, in the order R121, R162, R202 (DESIGN CHOICE, log entry 20), or the tenant, ID and slot it takes. -/
def State.createCheck (s : State) (r : CreateReq) : Except Er (Tenant × Qid × Fin 64) :=
  if s.bit F.GLB_RSTCAUSE_READY = false then .error .notready
  else if h : r.t < 256 then
    let t : Tenant := ⟨r.t, h⟩
    if s.enabled t = false then .error .notenant
    else if s.quota t ≤ (s.ownedBy t).length then .error .qlimit
    else
      match r.q with
      | some q =>
        if hq : q < 1024 then
          if (s.queue? q).isSome then .error .qexists
          else if s.quarantined q = true then .error .qbusy
          else if (match r.ring with | some a => decide (a % 4096 ≠ 0 ∨ 2 ^ 64 ≤ a) | none => false) = true ∨ r.sizeLog = none ∨ r.timeout = 0 ∨ 65535 < r.timeout then .error .badarg
          else match s.freeSlot t with
            | some n => .ok (t, ⟨q, hq⟩, n)
            | none => .error .qlimit
        else .error .badarg
      | none =>
        match s.freeId, s.freeSlot t with
        | some q, some n =>
          if (match r.ring with | some a => decide (a % 4096 ≠ 0 ∨ 2 ^ 64 ≤ a) | none => false) = true ∨ r.sizeLog = none ∨ r.timeout = 0 ∨ 65535 < r.timeout then .error .badarg
          else .ok (t, q, n)
        | _, _ => .error .qlimit
  else .error .badarg

/-- Make a queue: its registers, its slot, its vector (R126, R160, R190), and its place in the list of queues. -/
def State.makeQueue (s : State) (t : Tenant) (q : Qid) (n : Fin 64) (ring : Option Nat) (sizeLog timeout : Nat) : State :=
  let short := decide (timeout < retryBudget)
  let new : Queue :=
    { id := q, tenant := t, slot := n, drt := ring.isNone, ring := ring.getD 0, size := 2 ^ sizeLog, timeout := timeout, shortTmo := short
      head := 0, tail := 0, nextSeq := 0, out := [], nextAt := none, bound := none, barred := false }
  let s := { s with qmg := { s.qmg with queues := s.qmg.queues ++ [new] }, rch := { s.rch with seen := s.rch.seen.filter (fun (y : SealSeen) => y.q != q) } }
  let s := match ring with | some a => s.wr64 (R.QMG_QRING q.val) a | none => s
  let s := s.wr (R.QMG_QCFG q.val) (BitVec.ofNat 32
    (2 ^ 31 + (if ring.isNone then 2 ^ 30 else 0) + (if short then 2 ^ 29 else 0) + 2 ^ 24 * sizeLog + 2 ^ 8 * timeout + t.val))
  s.setF (F.INT_QVEC_VEC q.val) (if s.vecCount t = 0 then 0 else n.val % s.vecCount t)

/-- Create a queue, or say why not (R162). -/
def State.create (s : State) (r : CreateReq) : Except Er (State × Qid) :=
  match s.createCheck r with
  | .error e => .error e
  | .ok (t, q, n) => .ok (s.makeQueue t q n r.ring (r.sizeLog.getD 8) r.timeout, q)

/-- Why a queue cannot be deleted (R163). -/
def State.deleteCheck (s : State) (q : Nat) : Option Er :=
  match s.queue? q with
  | none => some .noqueue
  | some x =>
    if s.qmg.recs.any (fun r => r.qid == x.id && !r.carried && !r.replay && !r.final) = true ∨
       x.out.any (fun o => match o.use with | .write _ => false | _ => true) = true ∨ x.bound.isSome = true then some .qbusy
    else none

/-- Delete a queue: its ID and slot are free again (R126, R163). -/
def State.dropQueue (s : State) (q : Qid) : State :=
  let s := { s with qmg := { s.qmg with
    queues := s.qmg.queues.filter (fun x => x.id != q)
    barriers := s.qmg.barriers.map (fun (b : Barrier) => if b.qid = q then { b with live := false } else b)
    recs := s.qmg.recs.filter (fun r => !(r.qid == q && !r.carried && !r.replay && r.final)) } }
  (s.setF (F.QMG_QCFG_VALID q.val) 0).setF (F.QMG_QCFG_SHORTTMO q.val) 0

/-! ### Completions (R169, R170) -/

/-- The largest sequence number (R20). -/
def seqMax : Nat := 2 ^ 48 - 1

/-- The next sequence number as it is reported (R21). -/
def Queue.nextReported (q : Queue) : Nat := min q.nextSeq seqMax

/-- Completion codes (R169). -/
def cACCEPTED : Nat := 1
def cSECURED : Nat := 2
def cDURABLE : Nat := 3
def cABORTED : Nat := 4
def cDONE : Nat := 5
def cREFUSED : Nat := 6

/-- Write the completion entry of a slot and raise the queue's vector (R161, R170, R191). -/
def State.complete (s : State) (q : Queue) (slot : Nat) (c : Cqe) : State :=
  if q.drt = true then s
  else
    (s.emit (.completion q.id (q.ring + 64 * q.size + 32 * slot) c.bytes)).vecEvent q.tenant (s.getF (F.INT_QVEC_VEC q.id.val)) (c.code == cABORTED)

/-- The completion of a descriptor that took no number (R165, R169). -/
def plainCqe (q : Queue) (cid : BitVec 16) (status code : Nat) : Cqe := ⟨q.nextReported, cid, status, code, false, 0, 0, 0⟩

/-- The completion of a record at a level (R169). -/
def recCqe (r : Rec) (status code : Nat) : Cqe :=
  ⟨r.seq, r.cid, status, code, false, if code = cDURABLE then r.ds.foldl max 0 else 0, r.tstamp, r.length⟩

/-- The slot's descriptor has its final code: it leaves the outstanding list (R168). -/
def Queue.retire (q : Queue) (slot : Nat) : Queue := { q with out := q.out.filter (fun o => o.slot != slot) }

/-! ### Levels and their order (R171, R176, R180) -/

/-- The records ahead of `r`: earlier ones of its queue, and those ahead of it under a BARRIER that are not final yet (R176, R179). -/
def State.ahead (s : State) (r : Rec) : List Rec :=
  s.qmg.recs.filter (fun p => (p.qid == r.qid && p.replay == r.replay && decide (p.uid < r.uid)) ||
    s.qmg.barriers.any (fun b => r.barriers.contains b.id && b.before.contains p.uid))

/-- The level that may be reported for a record: what it and every record ahead of it have reached (R176). -/
def State.allowed (s : State) (r : Rec) : Nat :=
  (s.ahead r).foldl (fun n p => min n p.level.num) r.level.num

/-- Put a record back after a change of it. -/
def State.setRec (s : State) (r : Rec) : State :=
  { s with qmg := { s.qmg with recs := s.qmg.recs.map (fun x => if x.uid = r.uid then r else x) } }

/-- Complete the BARRIERs that stand before `uid` and whose before sets are final (R180). -/
def State.barriersDone (s : State) (uid : Nat) : List Barrier → State
  | [] => s
  | b :: bs =>
    if b.id < uid ∧ (s.qmg.recs.any (fun r => b.before.contains r.uid && !r.final)) = false then
      let s := { s with qmg := { s.qmg with barriers := s.qmg.barriers.filter (fun x => x.id != b.id) } }
      let s := match s.queue? b.qid.val, b.slot with
        | some q, some (slot, cid) => (s.setQueue (q.retire slot)).complete q slot (plainCqe q cid 0 cDONE)
        | _, _ => s
      State.barriersDone s uid bs
    else State.barriersDone s uid bs

/-- Post the completion of one record, when a higher level may be reported; a DURABLE record then leaves the list (R170, R171, R176). -/
def State.reportRec (s : State) (uid : Nat) : State :=
  let s := s.barriersDone uid s.qmg.barriers
  match s.qmg.recs.find? (fun r => r.uid == uid) with
  | none => s
  | some r =>
    let n := s.allowed r
    if n ≤ r.reported then s
    else
      let s' := match (if r.carried || r.replay then none else s.queue? r.qid.val) with
        | some q =>
          let s := s.complete q r.slot (recCqe r 0 n)
          if n = 3 ∧ r.drt = false then s.setQueue (q.retire r.slot) else s
        | none => s
      if n = 3 then
        { s' with qmg := { s'.qmg with recs := s'.qmg.recs.filter (fun x => x.uid != uid) } }
      else s'.setRec { r with reported := n }

def State.reportAll (s : State) : List Nat → State
  | [] => s
  | u :: us => State.reportAll (s.reportRec u) us

/-- Report every level that may now be reported, records in order of submission (R176). -/
def State.report (s : State) : State :=
  let s := s.reportAll (s.qmg.recs.map (·.uid))
  s.barriersDone s.qmg.nextUid s.qmg.barriers

/-! ### The Fixer reservation (R172 to R174) -/

/-- What a record is charged (R172). -/
def chargeOf (length : Nat) : Nat := (length + 63) / 64 * 64 + 64

/-- Bytes charged (QMG.FRES.USED). -/
def State.resUsed (s : State) : Nat :=
  (s.qmg.recs.map (fun r => if r.level = .secured ∧ r.replay = false then chargeOf r.length else 0)).sum

/-- May records be charged (QMG.STAT.SECOK, R174): FIXER READY, HOLDUP_OK high (R422), and no power-fail (R413). -/
def State.secOk (s : State) : Bool := s.fixer == .ready && s.pw.holdup && !s.pw.pfail

/-- Is a record eligible for the reservation (R173); a spilled one never is (R461). -/
def State.eligible (s : State) (r : Rec) : Bool :=
  r.level == .accepted && !r.unsec && !r.replay && r.lent.isNone && (s.ahead r).all (fun p => decide (2 ≤ p.level.num))

/-- The first eligible record in the order of becoming ACCEPTED. -/
def State.firstEligible (s : State) : Option Rec :=
  (s.qmg.recs.filter s.eligible).foldl (fun o r => match o with
    | none => some r
    | some b => if r.acc < b.acc then some r else some b) none

/-- RESERVATION_CHARGE: the first eligible record is charged when it fits, and becomes SECURED; above FCAP.CAP it is never charged (R172, R173).
Nothing is charged while FIXER is not READY (R174). -/
def execReservationCharge (s : State) : Host.Outcome State Fault Refusal :=
  if s.secOk = false then .next s
  else match s.firstEligible with
    | none => .next s
    | some r =>
      if s.getF F.QMG_FCAP_CAP < r.length then .next (s.setRec { r with unsec := true })
      else if s.resUsed + chargeOf r.length ≤ s.getF F.FIX_RLIM_LIM then
        let s := s.setRec { r with level := .secured, sec := some s.qmg.nextSec }
        .next ({ s with qmg := { s.qmg with nextSec := s.qmg.nextSec + 1 } }).report
      else .next s

/-! ### Aborts (R182) -/

/-- Does an abort of the records in `gone` take `r` with it: an earlier record of its queue, or one ahead of it under a BARRIER. -/
def State.spreads (s : State) (gone : List Rec) (r : Rec) : Bool :=
  !r.final && gone.any (fun p => (p.qid == r.qid && p.carried == r.carried && p.replay == r.replay && decide (p.uid < r.uid)) ||
    s.qmg.barriers.any (fun b => r.barriers.contains b.id && b.before.contains p.uid))

/-- All records that the abort of some takes with it, in order of submission (R182). -/
def State.abortSet (s : State) (first : List Nat) : List Rec → List Rec → List Rec
  | [], gone => gone
  | r :: rs, gone =>
    if first.contains r.uid ∨ s.spreads gone r = true then State.abortSet s first rs (gone ++ [r]) else State.abortSet s first rs gone

/-- Write the ABORTED completions of records, at once and in order (R176, R182): the first ones with their own status. -/
def State.abortWrites (s : State) (first : List Nat) (e : Er) : List Rec → State
  | [] => s
  | r :: rs =>
    let st := if first.contains r.uid then e else .prevabort
    let s := match (if r.carried || r.replay then none else s.queue? r.qid.val) with
      | some q => (s.setQueue (q.retire r.slot)).complete q r.slot (recCqe r st.code cABORTED)
      | none => s
    State.abortWrites s first e rs

/-- Space that lenders hold for records that have gone is given back (R461), and a recall of one ends. -/
def State.freeLent (s : State) : List Rec → State
  | [] => s
  | r :: rs =>
    let s := match s.xlk.called with
      | some c => if c.uid = r.uid then { s with xlk := { s.xlk with called := none } } else s
      | none => s
    State.freeLent (match r.lent with
      | some (p, h) => if hp : p < 4 then s.sendLend ⟨p, hp⟩ lFREE h 0 [] else s
      | none => s) rs

/-- A record of a DRT session that was ABORTED never becomes DURABLE: NSEC and NDUR do not pass it (R150). -/
def Drt.lost (d : Drt) (r : Rec) : Drt :=
  if r.drt = true ∧ r.carried = false ∧ r.replay = false ∧ r.qid = d.qid ∧ d.rbase ≤ r.seq ∧ r.seq < d.rbase + d.ridx then
    { d with stuck := some (min (d.stuck.getD d.ridx) (r.seq - d.rbase)) }
  else d

/-- Abort records with a status: the abort spreads (R182), charges, pages and space at lenders return (R174, R461), completions are written, what stood behind is
reported (R176), and deficits follow the backlog (R207). -/
def State.abort (s : State) (first : List Nat) (e : Er) : State :=
  let gone := s.abortSet first s.qmg.recs []
  let s := (s.freePagesOf (gone.flatMap (·.pages))).freeLent gone
  let s := { s with eth := { s.eth with drt := s.eth.drt.map (fun d => gone.foldl Drt.lost d) } }
  let s := { s with qmg := { s.qmg with recs := s.qmg.recs.filter (fun r => !(gone.any (fun g => g.uid == r.uid))) } }
  (s.prune.abortWrites first e gone).report.settleShares

/-! ### Doorbells (R132, R168) -/

/-- Count a discarded doorbell (TCNT.BADDB). -/
def State.badDoor (s : State) (t : Tenant) : State :=
  let f := s.fn t
  s.setFn { f with baddb := satAdd 16 f.baddb 1 }

/-- The slot of the oldest descriptor that is not final (R168). -/
def Queue.oldest (q : Queue) : Nat :=
  match q.out with
  | o :: _ => o.slot
  | [] => q.head

/-- Is a new tail refused (R168): at or above SIZE, or moving backwards. -/
def Queue.badTail (q : Queue) (tail : Nat) : Bool :=
  decide (q.size ≤ tail) || decide ((tail + q.size - q.oldest) % q.size < (q.tail + q.size - q.oldest) % q.size)

/-- Apply a doorbell whole, or discard it (R115, R132, R168). -/
def State.applyDoor (s : State) (t : Tenant) (slot : Nat) (tail : Nat) : State :=
  match s.slotQueue? t slot with
  | none => s.badDoor t
  | some q =>
    if q.drt = true ∨ (s.fn t).resetting = true then s.badDoor t
    else if q.badTail tail = true then
      s.log { errRec .badtail .qmg [⟨"TAIL", .num tail⟩] with src := if t = 0 then .pf else .vf, tenant := some t.val, qid := some q.id.val }
    else s.setQueue { q with tail := tail }

/-- The source of a function's own accesses. -/
def ownSrc (t : Tenant) : Src := if t = 0 then .pf else .vf t

/-- DOORBELL_WRITE: one entry leaves XC-7 and is applied (R34, R132); while the host side does not run, or the function is in D3hot, the write is discarded (R116, R121, R127). -/
def execDoorbellWrite (t : Tenant) (slot : Fin 64) (tail : BitVec 16) (s : State) : Host.Outcome State Fault Refusal :=
  if s.pfOpen (ownSrc t) then .next (s.applyDoor t slot.val tail.toNat) else .next (s.pfDrop (.vf t))

/-! ### Fetching descriptors (R164 to R167, R179) -/

/-- May QMG fetch the next descriptor of a queue: the host side runs, it is a ring queue with a descriptor below the tail, and its tenant is not being reset. -/
def State.canFetch (s : State) (q : Queue) : Bool :=
  s.hostOn && !(s.quiesced 1) && !q.drt && (q.head != q.tail) && !((s.fn q.tenant).resetting)

/-- HEAD moves past a descriptor (R166). -/
def Queue.advance (q : Queue) : Queue := { q with head := (q.head + 1) % q.size }

/-- A descriptor ends as it is fetched: its completion is written and HEAD moves (R165, R166). -/
def State.endFetch (s : State) (q : Queue) (cid : BitVec 16) (status code : Nat) : State :=
  (s.setQueue q.advance).complete q q.head (plainCqe q cid status code)

/-- Every reserved field of a BARRIER or NOP is 0 (R164). -/
def Desc.plain (d : Desc) (op : Nat) : Bool :=
  d.opcode.toNat == op && d.flags == 0#8 && d.length == 0#32 && d.addr == 0#64 && d.tstamp == 0#64 && d.srcSeq == 0#48 && d.srcQ == 0#16 && d.srcT == 0#8
    && d.reserved0

/-- A well-formed WRITE (R164). -/
def Desc.goodWrite (d : Desc) : Bool :=
  d.opcode == 1#8 && decide (d.flags.toNat ≤ 1) && decide (1 ≤ d.length.toNat ∧ d.length.toNat ≤ 8388608) && d.srcSeq == 0#48 && d.srcQ == 0#16
    && d.srcT == 0#8 && d.reserved0

/-- A well-formed READ (R164). -/
def Desc.goodRead (d : Desc) : Bool :=
  d.opcode == 2#8 && (d.flags == 0#8 || d.flags == 2#8) && decide (4 ≤ d.length.toNat ∧ d.length.toNat ≤ 8388608 ∧ d.length.toNat % 4 = 0)
    && decide (d.addr.toNat % 4 = 0) && d.tstamp == 0#64 && decide (d.srcQ.toNat < 1024) && d.reserved0

/-- The pages a tenant's records may take (R210): the free space, less SCH.TRSV.RSV for tenants that are not CONTINUOUS. -/
def State.roomFor (s : State) (t : Tenant) : Nat :=
  if s.classOf t = 0 then s.freePages else s.freePages - 256 * s.getF F.SCH_TRSV_RSV

/-- The BARRIERs a new record of queue `q` stands behind (R179): those of the queue itself, and none of an earlier queue with its ID (R178). -/
def State.barriersOf (s : State) (q : Qid) : List Nat := (s.qmg.barriers.filter (fun b => b.qid == q && b.live)).map (·.id)

/-- Put a new record at the end of the order of submission. -/
def State.addRec (s : State) (r : Rec) : State :=
  { s with qmg := { s.qmg with recs := s.qmg.recs ++ [r], nextUid := s.qmg.nextUid + 1 } }

/-- DESCRIPTOR_FETCH_WRITE (R165 to R167, R21): checked; fetched only when the Tank has room for the record; refused when the queue's numbers are exhausted. -/
def execDescriptorFetchWrite (qid : Qid) (d : Desc) (s : State) : Host.Outcome State Fault Refusal :=
  match s.queue? qid.val with
  | none => .next s
  | some q =>
    if s.canFetch q = false then .next s
    else if Desc.goodWrite d = false then .next (s.endFetch q d.cid Er.baddesc.code cABORTED)
    else if s.roomFor q.tenant < pagesFor d.length.toNat then .next s
    else if seqMax < q.nextSeq then .next (s.endFetch q d.cid Er.seqend.code cABORTED)
    else
      let (ps, s) := s.takePages (pagesFor d.length.toNat)
      let r : Rec :=
        { uid := s.qmg.nextUid, tenant := q.tenant, qid := q.id, seq := q.nextSeq
          tstamp := if d.flags = 1#8 then d.tstamp.toNat else s.now, locked := s.bit F.ETH_TSTAT_LOCKED
          length := d.length.toNat, cid := d.cid, slot := q.head, addr := d.addr, level := .moving, acc := 0, sec := none, unsec := false, reported := 0
          pages := ps, feed := none, ds := [], whole := false, barriers := s.barriersOf q.id, drt := false, carried := false, replay := false
          body := none, hostts := d.flags == 1#8, mark := q.barred, lent := none }
      .next ((s.addRec r).setQueue { q.advance with nextSeq := q.nextSeq + 1, barred := false, out := q.out ++ [⟨q.head, d.cid, .write r.uid⟩] })

/-- Split a tenant's records at a BARRIER (R179): the before set is every record of the tenant that holds a number and is not final. -/
def State.addBarrier (s : State) (q : Queue) (slot : Option (Nat × BitVec 16)) : State :=
  let before := (s.qmg.recs.filter (fun r => r.tenant == q.tenant && !r.replay && !r.final)).map (·.uid)
  let b : Barrier := ⟨s.qmg.nextUid, q.id, q.tenant, slot, before, true⟩
  { s with qmg := { s.qmg with barriers := s.qmg.barriers ++ [b], nextUid := s.qmg.nextUid + 1 } }

/-- DESCRIPTOR_FETCH_BARRIER (R179, R180): with an empty before set it completes at once. -/
def execDescriptorFetchBarrier (qid : Qid) (d : Desc) (s : State) : Host.Outcome State Fault Refusal :=
  match s.queue? qid.val with
  | none => .next s
  | some q =>
    if s.canFetch q = false then .next s
    else if Desc.plain d 3 = false then .next (s.endFetch q d.cid Er.baddesc.code cABORTED)
    else
      let s := s.addBarrier q (some (q.head, d.cid))
      .next (s.setQueue { q.advance with barred := true, out := q.out ++ [⟨q.head, d.cid, .barrier (s.qmg.nextUid - 1)⟩] }).report

/-- DESCRIPTOR_FETCH_NOP (R164). -/
def execDescriptorFetchNop (qid : Qid) (d : Desc) (s : State) : Host.Outcome State Fault Refusal :=
  match s.queue? qid.val with
  | none => .next s
  | some q =>
    if s.canFetch q = false then .next s
    else if Desc.plain d 0 = false then .next (s.endFetch q d.cid Er.baddesc.code cABORTED)
    else .next (s.endFetch q d.cid 0 cDONE)

/-- DESCRIPTOR_DMA_ERROR (R166): CID 0, status 811, no number. -/
def execDescriptorDmaError (qid : Qid) (s : State) : Host.Outcome State Fault Refusal :=
  match s.queue? qid.val with
  | none => .next s
  | some q => if s.canFetch q = false then .next s else .next (s.endFetch q 0#16 Er.dmaerr.code cABORTED)

/-- The record of a queue that is being moved in with a sequence number. -/
def State.moving? (s : State) (qid : Qid) (seq : Nat) : Option Rec :=
  s.qmg.recs.find? (fun r => r.qid == qid && r.seq == seq && !r.carried && r.level == .moving)

/-- A record becomes ACCEPTED: its bytes are in its pages (R24, R166). -/
def State.accept (s : State) (r : Rec) (data : List Byte) : State :=
  let s := { s with tank := writePages s.tank r.pages data }.fresh r.pages 0 data.length
  let s := s.setRec { r with level := .accepted, acc := s.qmg.nextAcc }
  ({ s with qmg := { s.qmg with nextAcc := s.qmg.nextAcc + 1 } }.tookBytes r.length).report

/-- RECORD_DMA_COMPLETE (R166). -/
def execRecordDmaComplete (qid : Qid) (seq : BitVec 48) (data : List Byte) (s : State) : Host.Outcome State Fault Refusal :=
  match s.moving? qid seq.toNat with
  | none => .next s
  | some r => .next (s.accept r (data.take r.length))

/-- RECORD_DMA_ERROR (R166, R182). -/
def execRecordDmaError (qid : Qid) (seq : BitVec 48) (s : State) : Host.Outcome State Fault Refusal :=
  match s.moving? qid seq.toNat with
  | none => .next s
  | some r => .next (s.abort [r.uid] .dmaerr)

end Sys2Proof.Machine
end

