-- ==== Sys2Proof/Machine/PciConfig.lean ====
section
/-! DEFINITION. Configuration requests (05_tenants R127 to R129; 04_start_up R100), and the PCI Express link. A configuration word stands at 0x20_0000 plus its offset in the register rows, above BAR0,
for the function that the source names (DESIGN CHOICE, log entry 102). -/

namespace Sys2Proof.Machine

/-- Where the configuration space begins in the offsets of the register rows. -/
def cfgBase : Nat := 0x200000

/-- The function that a host's request names. -/
def srcFn : Src → Option Tenant
  | .pf => some 0
  | .vf n => some n
  | _ => none

/-- How a configuration request is met (R100): not at all while D1 stands in reset; with Configuration Request Retry Status from the release of D1 until firmware has set up HIF, which it has when
the boot image runs (DESIGN CHOICE, log entry 102); or served. -/
inductive CfgMet where | silent | retry | served
  deriving DecidableEq, Repr

def State.cfgMet (s : State) : CfgMet :=
  if s.hif.perst = true ∨ s.domainOn 1 = false ∨ s.pw.halted = true then .silent
  else if s.boot.phase = .image ∧ s.boot.warming = false then .retry
  else .served

/-- Meet a configuration request of a function with what serves it. -/
def State.cfgRequest (s : State) (t : Tenant) (served : State) : State :=
  match s.cfgMet with
  | .silent => s
  | .retry => s.emit (.configRetry t)
  | .served => served

/-- A word of a function's configuration space (R127 to R130). A VF presents all ones for its IDs, as SR-IOV defines. -/
def State.cfgWord (s : State) (t : Tenant) (off : Nat) : Word :=
  let vf := t.val != 0
  let n := BitVec.ofNat 32
  if off = cfgId then n (if vf then 2 ^ 32 - 1 else 2 ^ 16 * deviceId + vendorId)
  else if off = cfgClass then n classRev
  else if off = cfgBar0 then n (if vf then 0 else 0x4)
  else if off = cfgSubsys then n (if vf then 0 else 2 ^ 16 * s.boot.fuses.ssid.toNat + s.boot.fuses.ssvid.toNat)
  else if off = cfgDevCap then n 0x10000022
  else if off = cfgLinkCap then n (0x800 + 16 * 4 + 3)
  else if off = cfgLinkCtl then n ((s.cfgAt t cfgLinkCtl).toNat + (match s.hif.link with | some (v, w) => 2 ^ 16 * (16 * w + v) | none => 0))
  else if off = cfgDevCap2 then n 0x3
  else if off = cfgMsixTable then n (if vf then 0x8000 else 0x58000)
  else if off = cfgMsixPba then n (if vf then 0x9000 else 0x59000)
  else if vf = false ∧ cfgSriov ≤ off ∧ off < cfgSriov + 0x40 ∧ off ≠ cfgSriov + 0x20 then
    n (if off = cfgSriov + 8 then (if s.hif.vfen then 1 else 0) + (if s.hif.ari then 16 else 0)
       else if off = cfgSriov + 0x10 then s.hif.numVf
       else sriovWord (off - cfgSriov))
  else s.cfgAt t off

/-- Is there such a function: the PF, and each enabled VF. -/
def State.fnOn (s : State) (t : Tenant) : Bool := t.val == 0 || s.vfOn t

/-- A configuration read (R100, R127 to R129). -/
def State.cfgRead (s : State) (src : Src) (off : Nat) : State :=
  match srcFn src with
  | none => s
  | some t => s.cfgRequest t (if s.fnOn t then s.emit (.readData src (cfgBase + off) (s.cfgWord t off)) else s.emit (.unsupportedRequest src))

/-- A configuration write: the bits a host may write; NumVFs only while VF Enable is 0 (R128). -/
def State.cfgWrite (s : State) (src : Src) (off : Nat) (v : Word) : State :=
  match srcFn src with
  | none => s
  | some t =>
    s.cfgRequest t
      (if s.fnOn t = false then s
       else if t.val = 0 ∧ off = cfgSriov + 0x10 then
         if s.hif.vfen then s else { s with hif := { s.hif with numVf := min 255 (v.toNat % 65536) } }.setF F.HIF_STAT_NUMVF (min 255 (v.toNat % 65536))
       else
         let f := s.fn t
         let m := cfgMask off
         s.setFn { f with cfg := sset cfgReset f.cfg off (BitVec.ofNat 32 (((s.cfgAt t off).toNat &&& (2 ^ 32 - 1 - m)) ||| (v.toNat &&& m))) })

/-! ### The link (R127, HIF.STAT) -/

/-- HIF.STAT as the link and SR-IOV stand. -/
def State.hifShow (s : State) : State :=
  let l := s.hif.link.getD (0, 0)
  let s := ((s.setF F.HIF_STAT_LINKUP (if s.hif.link.isSome then 1 else 0)).setF F.HIF_STAT_SPEED l.1).setF F.HIF_STAT_WIDTH l.2
  ((s.setF F.HIF_STAT_ARI (if s.hif.ari then 1 else 0)).setF F.HIF_STAT_VFEN (if s.hif.vfen then 1 else 0)).setF F.HIF_STAT_NUMVF s.hif.numVf

/-- The link goes down. -/
def State.linkLost (s : State) : State := { s with hif := { s.hif with link := none } }.hifShow

/-- The link trains when D1 works, PERST_N is high and CKP runs: to which speed, Gen1 to Gen3, and to which width, x1, x2 or x4, no row tells (R127; a free value, log entry 103). -/
def State.linkTrain (s : State) : State :=
  if s.hif.link.isSome = true ∨ s.domainOn 1 = false ∨ s.hif.perst = true ∨ s.xc.stopped.contains .ckp = true then s
  else
    let n := (Config.linkTraining s.freeCtr).toNat
    { s.draw with hif := { s.hif with link := some (1 + n % 3, 2 ^ (n / 3 % 3)) } }.hifShow

end Sys2Proof.Machine
end

