-- ==== Sys2Proof/Machine/Shares.lean ====
section
/-! DEFINITION. Vector ranges, queue vectors, MSI-X tables and coalescing (R188 to R193), tenant shares and the rate cap (R206, R211). -/

namespace Sys2Proof.Machine

/-! ### Vector ranges (R188 to R190) -/

/-- Does the range BASE, COUNT overlap the range of another tenant whose COUNT is not 0 (R189). -/
def State.rangeTaken (s : State) (t : Tenant) (base count : Nat) : Bool :=
  (List.finRange 256).any (fun u => u != t && s.vecCount u != 0 && decide (base < s.vecBase u + s.vecCount u ∧ s.vecBase u < base + count))

/-- Reduce the vectors of a tenant's queues modulo a new COUNT (R190). -/
def State.reduceVecs (s : State) (count : Nat) : List Queue → State
  | [] => s
  | q :: qs =>
    State.reduceVecs (s.setF (F.INT_QVEC_VEC q.id.val) (if count = 0 then 0 else s.getF (F.INT_QVEC_VEC q.id.val) % count)) count qs

/-- Entries at or above COUNT are never pending (R188). -/
def State.dropPend (s : State) (t : Tenant) (count : Nat) : State :=
  let f := s.fn t
  if f.pend.all (fun e => decide (e.val < count)) = true then s else s.setFn { f with pend := f.pend.filter (fun e => decide (e.val < count)) }

/-- A write of INT.TVECt (R188 to R190). -/
def State.wTvec (s : State) (t : Tenant) (v : Word) : WRes :=
  let base := getBits v.toNat 16 11
  let count := min 64 (getBits v.toNat 0 7)
  if (s.fn t).enable = true then .refuse .locked none
  else if 2048 < base + count ∨ (count ≠ 0 ∧ s.rangeTaken t base count = true) then
    .refuse .veclimit (some { errRec .veclimit .int [⟨"BASE", .num base⟩, ⟨"COUNT", .num count⟩] with src := .pf, tenant := some t.val })
  else
    let old := s.vecCount t
    let s := ((s.setF (F.INT_TVEC_BASE t.val) base).setF (F.INT_TVEC_COUNT t.val) count).dropPend t count
    .ok (if old = count then s else s.reduceVecs count (s.ownedBy t))

/-- TVEC_WRITE. -/
def execTvecWrite (src : Src) (t : Tenant) (v : Word) (s : State) : Host.Outcome State Fault Refusal :=
  match src with
  | .vf _ => .next s
  | _ => if s.pfOpen src = false then .next (s.pfDrop src) else .next (s.apply src (s.wTvec t v))

/-- A write of INT.QVECq (R190). -/
def State.wQvec (s : State) (q : Nat) (v : Word) : WRes :=
  match s.queue? q with
  | none => .refuse .noqueue none
  | some x =>
    let n := getBits v.toNat 0 6
    if s.vecCount x.tenant ≤ n then .refuse .badarg none else .ok (s.setF (F.INT_QVEC_VEC q) n)

/-- QVEC_WRITE. -/
def execQvecWrite (src : Src) (q : Qid) (v : Word) (s : State) : Host.Outcome State Fault Refusal :=
  match src with
  | .vf _ => .next s
  | _ => if s.pfOpen src = false then .next (s.pfDrop src) else .next (s.apply src (s.wQvec q.val v))

/-- A write of INT.PFEVT: VEC must be below the PF's COUNT, or the whole write is ignored. -/
def State.wPfevt (s : State) (v : Word) : WRes :=
  if s.vecCount 0 ≤ getBits v.toNat 0 6 then .refuse .badarg none
  else .ok ((s.setF F.INT_PFEVT_EN (getBits v.toNat 31 1)).setF F.INT_PFEVT_VEC (getBits v.toNat 0 6))

/-! ### MSI-X tables and coalescing (R130, R191 to R193) -/

/-- Send the pending messages of a function whose vectors are no longer masked, one each (R193). -/
def State.unpend (s : State) (t : Tenant) : List (Fin 64) → State
  | [] => s
  | e :: es =>
    let f := s.fn t
    if f.enable = true ∧ f.mask = false ∧ getBits (s.msixRd t e 3).toNat 0 1 = 0 ∧ f.pend.contains e = true then
      State.unpend ((s.setFn { f with pend := f.pend.filter (· != e) }).signal t e.val) t es
    else State.unpend s t es

/-- A write of a word of an MSI-X table, or of the Message Control word (word 4, log entry 12): messages no longer masked leave (R130, R193). -/
def State.msixWr (s : State) (t : Tenant) (e : Fin 64) (word : Fin 5) (v : Word) : State :=
  let s := if h : word.val < 4 then
      let w : Fin 4 := ⟨word.val, h⟩
      { s with hif.msix := ⟨t, e, w, v⟩ :: s.hif.msix.filter (fun m => !(m.fn == t && m.entry == e && m.word == w)) }
    else
      let f := s.fn t
      s.setFn { f with enable := getBits v.toNat 15 1 == 1, mask := getBits v.toNat 14 1 == 1 }
  s.unpend t (s.fn t).pend

/-- MSIX_TABLE_WRITE: it acts at once and is no order (R130). The PF and Plova reach the PF's table only, a VF its own; the Message Control word is reached by configuration requests. -/
def execMsixTableWrite (src : Src) (loc : MsixAt) (v : Word) (s : State) : Host.Outcome State Fault Refusal :=
  let mine := match src with
    | .vf n => n == loc.fn && s.vfOn n
    | _ => loc.fn == 0
  if mine = false then .next s
  else if loc.word = 4 then .next (if (srcFn src).isNone then s else s.cfgRequest loc.fn (s.msixWr loc.fn loc.entry loc.word v))
  else if s.pfOpen src = false then .next (s.pfDrop src)
  else .next (s.msixWr loc.fn loc.entry loc.word v)

/-- The tenant that owns a pool entry (R188). -/
def State.poolOwner (s : State) (p : Nat) : Option Tenant :=
  (List.finRange 256).find? (fun t => decide (s.vecBase t ≤ p ∧ p < s.vecBase t + s.vecCount t))

/-- MSIX_COALESCE_TIMEOUT: TIME us after the first unsignalled event the message is generated (R192). -/
def execMsixCoalesceTimeout (p : Fin 2048) (s : State) : Host.Outcome State Fault Refusal :=
  match s.pool.find? (fun q => q.p == p.val), s.poolOwner p.val with
  | some _, some t => .next ((s.poolClear p.val).signal t (p.val - s.vecBase t))
  | _, _ => .next s

/-! ### Shares (R205, R206, R211) -/

/-- The share word of a tenant, a change that still waits for its round boundary counted (R211). -/
def State.shareOf (s : State) (t : Tenant) : Word :=
  match s.sch.changes.find? (fun c => c.t == t) with
  | some c => c.w
  | none => s.rd (R.SCH_TSHARE t.val)

/-- Guaranteed rate of a share word: RATE of a CONTINUOUS tenant (R206). -/
def shareRate (w : Word) : Nat := if getBits w.toNat 28 2 = 0 then getBits w.toNat 0 8 else 0

/-- SCH.GCAP.SUM (R206). -/
def State.rateSum (s : State) : Nat := ((List.finRange 256).map (fun t => shareRate (s.shareOf t))).sum

/-- Decide a change of a share: at once when no round is in progress, because no tenant of order 2 or 3 has an eligible record, else at the next round boundary (R211). -/
def State.changeShare (s : State) (t : Tenant) (w : Word) : State :=
  if s.inRound = false then s.takeShare ⟨t, w⟩
  else { s with sch := { s.sch with changes := ⟨t, w⟩ :: s.sch.changes.filter (fun x => x.t != t) } }

/-- Would the sum of guaranteed rates pass the cap, or a RATE stand outside CONTINUOUS, with this share word (R206). -/
def State.shareBad (s : State) (t : Tenant) (w : Word) : Bool :=
  (getBits w.toNat 28 2 != 0 && getBits w.toNat 0 8 != 0) ||
  decide (s.getF F.SCH_GCAP_LIMIT < s.rateSum - shareRate (s.shareOf t) + shareRate w)

/-- The ERR record of a refused rate (R206, R529). -/
def State.rateRec (s : State) (t : Option Nat) : ErrRec :=
  { errRec .rate .sch [⟨"SUM", .num s.rateSum⟩] with src := .pf, tenant := t }

/-- A share word with WEIGHT 0 stored as 1, and CLASS 3 ignored (SCH.TSHAREt). -/
def State.normShare (s : State) (t : Tenant) (v : Word) : Word :=
  let cls := if getBits v.toNat 28 2 = 3 then getBits (s.shareOf t).toNat 28 2 else getBits v.toNat 28 2
  let wt := if getBits v.toNat 8 8 = 0 then 1 else getBits v.toNat 8 8
  BitVec.ofNat 32 (2 ^ 28 * cls + 2 ^ 8 * wt + getBits v.toNat 0 8)

/-- Is a write a `POKE`, of a session or in a cascade command: what other sources see ignored, it is refused for (R83). -/
def pokes : Src → Bool
  | .sess _ => true
  | .master => true
  | .fwd _ => true
  | _ => false

/-- A write of SCH.TSHAREt (R206). CLASS 3 is ignored, so a `POKE` of it is refused (R83). -/
def State.wTshare (s : State) (src : Src) (t : Tenant) (v : Word) : WRes :=
  let w := s.normShare t v
  if pokes src = true ∧ getBits v.toNat 28 2 = 3 then .refuse .badarg none
  else if s.shareBad t w = true then .refuse .rate (some (s.rateRec (some t.val))) else .ok (s.changeShare t w)

/-- TSHARE_WRITE. -/
def execTshareWrite (src : Src) (t : Tenant) (v : Word) (s : State) : Host.Outcome State Fault Refusal :=
  match src with
  | .vf _ => .next s
  | _ => if s.pfOpen src = false then .next (s.pfDrop src) else .next (s.apply src (s.wTshare src t v))

/-- A write of SCH.GCAP: LIMIT above 233 is stored as 233, below SUM the write is ignored (R206). -/
def State.wGcap (s : State) (v : Word) : WRes :=
  let l := min 233 (getBits v.toNat 0 8)
  if l < s.rateSum then .refuse .rate (some (s.rateRec none)) else .ok (s.setF F.SCH_GCAP_LIMIT l)

/-- GCAP_WRITE. -/
def execGcapWrite (src : Src) (v : Word) (s : State) : Host.Outcome State Fault Refusal :=
  match src with
  | .vf _ => .next s
  | _ => if s.pfOpen src = false then .next (s.pfDrop src) else .next (s.apply src (s.wGcap v))

/-! ### Tenant verbs (R86) -/

def clsName : Nat → String
  | 0 => "CONTINUOUS" | 1 => "STANDARD" | _ => "BULK"

def clsNum : Cls → Nat
  | .continuous => 0 | .standard => 1 | .bulk => 2

/-- TENANT? (R86). -/
def execTenantQuery (ln : Ln) (t : Tenant) (s : State) : Host.Outcome State Fault Refusal :=
  let w := s.rd (R.SCH_TSHARE t.val)
  .next (s.verb ln .view false (.ok s []
    [⟨"T", .num t.val⟩, ⟨"EN", .num (if s.enabled t then 1 else 0)⟩, ⟨"CLASS", .word (clsName (getBits w.toNat 28 2))⟩,
     ⟨"WEIGHT", .num (getBits w.toNat 8 8)⟩, ⟨"RATE", .num (getBits w.toNat 0 8)⟩, ⟨"QUEUES", .num (s.ownedBy t).length⟩,
     ⟨"VEC", .num (s.vecCount t)⟩]))

/-- TENANT (R86, R206): at least one argument, WEIGHT 1 to 255, the rate cap. -/
def execTenant (ln : Ln) (t : Tenant) (cls : Option Cls) (weight rate : Option Nat) (s : State) : Host.Outcome State Fault Refusal :=
  .next (s.verb ln .operate false
    (if cls = none ∧ weight = none ∧ rate = none then .er .args []
     else if s.enabled t = false then .er .notenant []
     else if weight.getD 1 = 0 ∨ 255 < weight.getD 1 ∨ 255 < rate.getD 0 then .er .badarg []
     else
       let o := s.shareOf t
       let c := (cls.map clsNum).getD (getBits o.toNat 28 2)
       let wt := weight.getD (getBits o.toNat 8 8)
       let r := rate.getD (getBits o.toNat 0 8)
       let w : Word := BitVec.ofNat 32 (2 ^ 28 * c + 2 ^ 8 * wt + r)
       if s.shareBad t w = true then .er .rate []
       else .ok (s.changeShare t w) [] [⟨"T", .num t.val⟩, ⟨"CLASS", .word (clsName c)⟩, ⟨"WEIGHT", .num wt⟩, ⟨"RATE", .num r⟩]))

/-! ### Queue verbs and QCMD (R86 to R88, R160 to R163) -/

/-- The logarithm of an allowed SIZE: 16 to 32,768 (R160). -/
def sizeLogOf (n : Nat) : Option Nat := (List.range 16).find? (fun k => decide (4 ≤ k) && 2 ^ k == n)

/-- The FLAG item of a short timeout (R88). -/
def shortItems (b : Bool) : List Item := if b then [⟨"FLAG", .word "SHORTTMO"⟩] else []

/-- QUEUE CREATE (R86, R87, R162). -/
def execQueueCreate (ln : Ln) (t : Tenant) (q : Option Nat) (ring : Option DWord) (size timeout : Option Nat) (s : State) :
    Host.Outcome State Fault Refusal :=
  let tmo := timeout.getD 30000
  .next (s.verb ln .operate false
    (match s.create ⟨t.val, q, ring.map (·.toNat), sizeLogOf (size.getD 256), tmo⟩ with
     | .error e => .er e []
     | .ok (s', id) => .ok s' [] (⟨"Q", .num id.val⟩ :: shortItems (decide (tmo < retryBudget)))))

/-- QUEUE DELETE (R86, R163). -/
def execQueueDelete (ln : Ln) (q : Nat) (s : State) : Host.Outcome State Fault Refusal :=
  .next (s.verb ln .operate false
    (if h : q < 1024 then
       match s.deleteCheck q with
       | some e => .er e []
       | none => .ok (s.dropQueue ⟨q, h⟩) [] [⟨"Q", .num q⟩]
     else .er .badarg []))

/-- Records of a queue at ACCEPTED, SECURED, and DURABLE but not yet posted (QMG.QLVLn). -/
def State.qAcc (s : State) (q : Nat) : Nat := (s.qmg.recs.filter (fun r => r.qid.val == q && !r.carried && !r.replay && r.level == .accepted)).length
def State.qSec (s : State) (q : Nat) : Nat := (s.qmg.recs.filter (fun r => r.qid.val == q && !r.carried && !r.replay && r.level == .secured)).length
def State.qDur (s : State) (q : Nat) : Nat := (s.qmg.recs.filter (fun r => r.qid.val == q && !r.carried && !r.replay && r.level == .durable)).length

/-- QUEUE? (R86, R88). -/
def execQueueQuery (ln : Ln) (q : Nat) (s : State) : Host.Outcome State Fault Refusal :=
  .next (s.verb ln .view false
    (if 1024 ≤ q then .er .badarg []
     else match s.queue? q with
     | none => .er .noqueue []
     | some x => .ok s [] [⟨"Q", .num q⟩, ⟨"T", .num x.tenant.val⟩, ⟨"NEXTSEQ", .num x.nextReported⟩, ⟨"ACC", .num (s.qAcc q)⟩,
         ⟨"SEC", .num (s.qSec q)⟩, ⟨"DUR", .num (s.qDur q)⟩, ⟨"TIMEOUT", .num x.timeout⟩,
         ⟨"FLAG", if x.shortTmo then .word "SHORTTMO" else .dash⟩]))

/-- The result of a QCMD (QMG.QRESn). -/
def State.qres (s : State) (q : Nat) (code : Nat) : State := (s.setF (F.QMG_QRES_DONE q) 1).setF (F.QMG_QRES_CODE q) code

/-- Create queue q from QRINGq and QCFGq (R160, R162). -/
def State.qcmdCreate (s : State) (q : Qid) : State :=
  let drt := s.bit (F.QMG_QCFG_DRT q.val)
  let lg := s.getF (F.QMG_QCFG_SIZELOG q.val)
  match s.create ⟨s.getF (F.QMG_QCFG_TENANT q.val), some q.val, if drt then none else some (s.rd64 (R.QMG_QRING q.val)),
      if 4 ≤ lg then some lg else none, s.getF (F.QMG_QCFG_TIMEOUT q.val)⟩ with
  | .error e => s.qres q.val e.code
  | .ok (s', _) => s'.qres q.val 0

/-- QCMD_CREATE. -/
def execQcmdCreate (src : Src) (q : Qid) (s : State) : Host.Outcome State Fault Refusal :=
  match src with
  | .vf _ => .next s
  | .pf => if s.boot.warming = true ∨ s.d3hot 0 = true then .next (s.pfDrop .pf) else .next (s.qcmdCreate q)
  | .sess _ => .next (s.qcmdCreate q)
  | .master => .next (s.qcmdCreate q)
  | .fwd _ => .next (s.qcmdCreate q)

/-- Delete queue q (R163). -/
def State.qcmdDelete (s : State) (q : Qid) : State :=
  match s.deleteCheck q.val with
  | some e => s.qres q.val e.code
  | none => (s.dropQueue q).qres q.val 0

/-- QCMD_DELETE. -/
def execQcmdDelete (src : Src) (q : Qid) (s : State) : Host.Outcome State Fault Refusal :=
  match src with
  | .vf _ => .next s
  | _ => if s.pfOpen src = false then .next (s.pfDrop src) else .next (s.qcmdDelete q)

end Sys2Proof.Machine
end

