-- ==== Sys2Proof/Machine/Codec.lean ====
section
/-! DEFINITION. The scheduler's service of tenants (07_interrupts R205 to R211, R530) and the Reducer (08_reducer R214 to R241). -/

namespace Sys2Proof.Machine

/-! ### Eligible records (R530) -/

/-- The next of some records in the tenant's turn of queues: the lowest queue ID above the last one served, else the lowest (07_interrupts, Shares and scheduling). -/
def nextInTurn (last : Nat) (rs : List Rec) : Option Rec :=
  let least (l : List Rec) : Option Rec := l.foldl (fun o r => match o with
    | none => some r
    | some b => if r.qid.val < b.qid.val then some r else some b) none
  match least (rs.filter (fun r => decide (last < r.qid.val))) with
  | some r => some r
  | none => least rs

/-- The queue a tenant was served from last; none stands below queue 0. -/
def State.turnOf (s : State) (t : Tenant) : Option Nat := (s.sch.turns.find? (fun p => p.1 == t)).map (·.2)

/-- The tenant's next record. -/
def State.nextRec (s : State) (t : Tenant) : Option Rec :=
  match s.turnOf t with
  | some q => nextInTurn q (s.heads t)
  | none => (s.heads t).foldl (fun o r => match o with
    | none => some r
    | some b => if r.qid.val < b.qid.val then some r else some b) none

/-! ### Shares and tokens (R207, R208) -/

/-- Quantum of a tenant (R207). -/
def State.quantum (s : State) (t : Tenant) : Nat := 4096 * s.getF (F.SCH_TSHARE_WEIGHT t.val)

/-- Mark a record fed and pass the queue turn on (R215). -/
def State.markFed (s : State) (r : Rec) (no : Nat) : State :=
  let s := s.setRec { r with feed := some no }
  { s with sch := { s.sch with turns := (r.tenant, r.qid.val) :: s.sch.turns.filter (fun p => p.1 != r.tenant) } }

/-- Give a feed to an engine (R215). -/
def State.giveFeed (s : State) (e : Fin 4) (t : Tenant) (uids : List Nat) (replay : Bool) : State :=
  let f : Feed := ⟨s.sch.nextFeed, t, uids, 0, 0, replay, []⟩
  let s := { s with sch := { s.sch with nextFeed := s.sch.nextFeed + 1 } }
  (s.setEng e { s.eng e with feed := some f }).settle

/-- Whole records while the next one's length is no greater than the deficit (R207); `n` limits the records looked at. -/
def State.feedDeficit (s : State) (t : Tenant) : Nat → State × List Nat
  | 0 => (s, [])
  | n + 1 =>
    match s.nextRec t with
    | none => (s.setBal { s.bal t with deficit := 0 }, [])
    | some r =>
      let b := s.bal t
      if r.length ≤ b.deficit then
        let b' : Bal := { b with deficit := b.deficit - r.length, tokens := if s.classOf t = 0 then b.tokens - r.length else b.tokens }
        let (s, us) := State.feedDeficit ((s.setBal b').markFed r s.sch.nextFeed) t n
        (s, r.uid :: us)
      else (s, [])

/-! ### Which tenant is served (R205 to R211) -/

/-- Records of a dump that are still to be fed, in dump order (R108). -/
def State.replayLeft (s : State) : List Rec := s.qmg.recs.filter (fun r => r.replay && r.feed.isNone)

/-- May SCH feed at all (R211, R240): CART WRITING and not stopping, D3 on, an engine enabled. -/
def State.mayFeed (s : State) : Bool :=
  s.cart == .writing && !s.fmt.stopping && s.domainOn 3 && (s.rdcOn 0 || s.rdcOn 1 || s.rdcOn 2 || s.rdcOn 3)

/-- The lowest-numbered enabled engine that is idle (R215). -/
def State.idleEng (s : State) : Option (Fin 4) :=
  (List.finRange 4).find? (fun e => s.rdcOn e && (s.eng e).feed.isNone && (s.eng e).job.isNone && !(s.eng e).held)

/-- Next in round-robin after a tenant number. -/
def nextAfter (last : Nat) (l : List Tenant) : Option Tenant :=
  match l.find? (fun t => decide (last < t.val)) with
  | some t => some t
  | none => l.head?

/-- Tenants of order 2 (R205, R209): STANDARD ones, CONTINUOUS ones without tokens, and starved BULK ones. -/
def State.order2 (s : State) : List Tenant :=
  s.backlog.filter (fun t => s.classOf t == 1 || (s.classOf t == 0 && !s.holdsTokens t) || (s.classOf t == 2 && s.sch.starved.contains t))

def State.order3 (s : State) : List Tenant := s.backlog.filter (fun t => s.classOf t == 2)

/-- Start a round when none is in progress: pending shares are taken, then the tenants of order 2, or of order 3 when order 2 has none, are to be visited in ascending
order (R205, R207, R211; log entry 24). A BULK round gives way when order 2 has an eligible record. -/
def State.startRound (s : State) : State :=
  let live := s.sch.round.filter (fun t => s.backlog.contains t)
  if live ≠ [] ∧ ¬(s.sch.roundBulk = true ∧ s.order2 ≠ []) then { s with sch := { s.sch with round := live } }
  else
    let s := s.takeShares s.sch.changes
    let o2 := s.order2
    if o2 ≠ [] then { s with sch := { s.sch with round := o2, roundBulk := false, starved := [] } }
    else { s with sch := { s.sch with round := s.order3, roundBulk := true } }

/-- A flush is to close the dataset once every feed given so far is placed (R232, R240). -/
def State.addFlush (s : State) : State :=
  if s.fmt.flushTo.contains s.sch.nextFeed then s else { s with fmt := { s.fmt with flushTo := s.fmt.flushTo ++ [s.sch.nextFeed] } }

/-- A flush lands: every block being encoded is to end early, and every feed given so far is to be placed before the dataset closes (R232). -/
def State.flushAll (s : State) : State :=
  let mark (s : State) (e : Fin 4) : State := if (s.eng e).job.isSome then s.setEng e { s.eng e with flush := true } else s
  (mark (mark (mark (mark s 0) 1) 2) 3).addFlush

/-- ER 531 for tenants held back by REQKEY, once a session (R296). -/
def State.nokeys (s : State) : List Tenant → State
  | [] => s
  | t :: ts =>
    if s.keyless t = true ∧ (s.heads t ≠ [] ∨ (s.replayLeft.head?.map (·.tenant)) = some t) ∧ s.sec.nokey.contains t = false then
      State.nokeys ({ s with sec := { s.sec with nokey := t :: s.sec.nokey } }.log { errRec .nokey .sec [] with tenant := some t.val }) ts
    else State.nokeys s ts

/-- The first records of a dump of one tenant (R108). -/
def runOf (t : Tenant) : List Rec → List Rec
  | [] => []
  | r :: rs => if r.tenant = t then r :: runOf t rs else []

def State.markAll (s : State) (no : Nat) : List Rec → State
  | [] => s
  | r :: rs => State.markAll (s.setRec { r with feed := some no }) no rs

/-- Feed the next run of dumped records (R108); after the last one FMT closes its dataset, which is a flush (R232). -/
def State.feedReplay (s : State) (e : Fin 4) (t : Tenant) : State :=
  let run := runOf t s.replayLeft
  let s := (s.markAll s.sch.nextFeed run).giveFeed e t (run.map (·.uid)) true
  if s.replayLeft = [] then s.flushAll else s

/-- SCH_FEED: SCH serves tenant `t`, when it is the one to be served: a run of dumped records (R108), one record of a CONTINUOUS tenant with tokens, or a visit of the
round in progress (R205 to R209, R215). A run of dumped records of a tenant that REQKEY holds back waits for its key (R296). -/
def execSchFeed (t : Tenant) (s : State) : Host.Outcome State Fault Refusal :=
  match (if s.mayFeed then s.idleEng else none) with
  | none => .next s
  | some e =>
    let s := (s.nokeys (List.finRange 256)).settleShares
    match s.replayLeft with
    | r :: _ => if r.tenant = t ∧ s.keyless t = false then .next (s.feedReplay e t) else .next s
    | [] =>
      match nextAfter s.sch.rr1 (s.backlog.filter s.holdsTokens) with
      | some u =>
        if u ≠ t then .next s
        else match s.nextRec t with
          | none => .next s
          | some r =>
            let b := s.bal t
            let s := (s.setBal { b with tokens := b.tokens - r.length }).markFed r s.sch.nextFeed
            .next (({ s with sch := { s.sch with rr1 := t.val } }.giveFeed e t [r.uid] false).settleShares)
      | none =>
        let s := s.startRound
        match s.sch.round with
        | [] => .next s
        | u :: us =>
          if u ≠ t then .next s
          else
            let s := { s with sch := { s.sch with round := us } }
            let b := s.bal t
            let s := s.setBal { b with deficit := b.deficit + s.quantum t }
            let (s, uids) := s.feedDeficit t s.qmg.recs.length
            .next (if uids = [] then s else s.giveFeed e t uids false).settleShares

/-- BULK_STARVE: the tenant is owed one visit at the next round of order 2 (R209). -/
def execBulkStarve (t : Tenant) (s : State) : Host.Outcome State Fault Refusal :=
  if s.classOf t = 2 ∧ s.heads t ≠ [] ∧ s.sch.starved.contains t = false then
    .next { s with sch := { s.sch with starved := s.sch.starved ++ [t] } }
  else .next s

/-! ### Encoding (R217 to R231, R235, R239) -/

/-- A piece with its record (R219). -/
def State.piece (s : State) (p : PieceRef) : Option Piece :=
  (s.rec? p.uid).map fun r =>
    ⟨r.qid.val, r.seq, r.tstamp, r.length, p.off, r.mark && p.off == 0, r.hostts, ((s.recBytes r).drop p.off).take p.len⟩

/-- The uncompressed content of a block (R218). -/
def State.content (s : State) (ps : List PieceRef) : List Byte := (ps.filterMap s.piece).flatMap Piece.bytes

/-- The name of an engine in an ERR record (R529). -/
def engName (enl : Bool) (e : Fin 4) : String :=
  (if enl then "ENL" else "RDC") ++ (match e.val with | 0 => "0" | 1 => "1" | 2 => "2" | _ => "3")

/-- The bits of RDC engines that are enabled and not disabled by a fault. -/
def State.rdcCount (s : State) : Nat := ((List.finRange 4).filter s.rdcOn).length

/-- When the last enabled RDC engine has gone: ER 440, and FMT closes the open dataset once the feeds given are placed (R240). -/
def State.engFail (s : State) (before : Nat) : State :=
  if before ≠ 0 ∧ s.rdcCount = 0 then
    s.addFlush.log (errRec .engfail .rdc [])
  else s

/-- A feed taken from an engine that a fault disabled is cut into blocks for the others; `n` limits them (log entry 25). -/
def State.spreadFeed (s : State) (f : Feed) : Nat → List Job
  | 0 => []
  | n + 1 =>
    match s.cutPieces f.uids f.off s.blkMax with
    | ([], _, _) => []
    | (ps, us, off) => ⟨f.no, f.place, f.tenant, ps, 0, f.replay⟩ :: State.spreadFeed s { f with uids := us, off := off, next := f.next + 1 } n

/-- Disable an engine (R235, R238): what it has begun, and its feed, go to the other engines. -/
def State.killEng (s : State) (e : Fin 4) : State :=
  let before := s.rdcCount
  let x := s.eng e
  let more := x.job.toList ++ (match x.feed with | some f => s.spreadFeed f 65536 | none => [])
  let s := s.setEng e { x with dead := true, feed := none, job := none, held := false }
  ({ s with cdc := { s.cdc with redo := s.cdc.redo ++ more } }).settle.engFail before

/-- Give records cut after a place of a block back to the front of the feed (R232, R239). -/
def giveBack (f : Feed) (rest : List PieceRef) : Feed :=
  match rest with
  | [] => f
  | p :: _ =>
    let us := rest.map (·.uid)
    { f with uids := us ++ f.uids.filter (fun u => !(us.contains u)), off := p.off }

/-- An engine's block without the pieces from a place on; records after it go back to its feed; when the feed is no longer held, they form
a feed of the same number, whose blocks stand right after this one (R232, R239). -/
def State.shorten (s : State) (e : Fin 4) (j : Job) (k : Nat) : State :=
  let x := s.eng e
  let rest := j.pieces.drop k
  match x.feed with
  | some f =>
    if f.no = j.feed then s.setEng e { x with feed := some (giveBack f rest), job := some { j with pieces := j.pieces.take k } }
    else s
  | none =>
    match rest with
    | [] => s
    | p :: _ =>
      let f : Feed := ⟨j.feed, j.tenant, rest.map (fun p => p.uid), p.off, 0, j.replay, j.k⟩
      s.setEng e { x with feed := some f, job := some { j with pieces := j.pieces.take k } }

/-- R239: the block ends before the piece whose words were lost, its record is ABORTED with the status of the access (R250, R253), and blocks not placed lose what the abort takes. -/
def State.losePiece (s : State) (e : Fin 4) (j : Job) (k : Nat) (er : Er) : State :=
  match j.pieces[k]? with
  | none => s
  | some p => (s.shorten e j k).abort [p.uid] er

/-- A word of a block's records comes to hold an uncorrectable pattern. -/
def State.worsen (s : State) (j : Job) (w : Nat) : State :=
  if j.pieces.any (s.pieceAt w) = true ∧ s.tnk.ue.contains w = false then { s with tnk := { s.tnk with ue := w :: s.tnk.ue } } else s

/-- Write the block an engine holds and offer it for placement (R218, R230, R231, R235). In DYNAMIC and AUTO mode the input is read twice, and again for a STORED block that replaces a STATIC one or
one that failed its shadow check (R217, R231). -/
def State.offer (s : State) (e : Fin 4) (j : Job) (flushed : Bool) (enc : Encode) : State :=
  let x := s.eng e
  let content := s.content j.pieces
  let (m, fb, body) := chooseMode j.mode content (staticBody enc.tokens) (dynamicBody enc.litLens enc.distLens enc.tokens)
  let agree := enc.shadowOk && (m == 0 || produce enc.tokens [] == some content.reverse)
  let s := if j.mode = 0 ∨ j.mode = 2 ∨ (j.mode = 1 ∧ fb = true) then (s.readPieces 0 j.pieces).1 else s
  let s := if agree then s else (s.readPieces 0 j.pieces).1
  let (m, fb, body) := if agree then (m, fb, body) else (0, true, content)
  let blk := makeBlock m j.tenant.val flushed j.replay fb j.pieces.length content body
  let x := { x with job := none, flush := false, mism := x.mism + (if agree then 0 else 1) }
  let s := s.setEng e x
  let s := { s with cdc := { s.cdc with ready := s.cdc.ready ++ [BlkOut.mk j blk] } }.madeBlock blk.length content.length
  let s := (s.count (F.RDC_ECNT_BLOCKS e.val) 1).count (F.RDC_ECNT_STORED e.val) (if m = 0 then 1 else 0)
  if agree then s
  else
    let s := (s.count (F.RDC_ECNT_MISMATCH e.val) 1).log (errRec .encmism .rdc [⟨"ENG", .word (engName false e)⟩])
    if x.mism = 2 then s.killEng e else s

/-- A self-test that has waited 2 ms takes this RDC engine next (R237). -/
def State.hold (s : State) (e : Fin 4) : State :=
  match s.cdc.test with
  | some t =>
    if t.rdcWait = true ∧ t.rdc.getD e.val 16 < 16 then
      let s := s.setEng e { s.eng e with held := true }
      { s with cdc := { s.cdc with test := some { t with rdcWait := false } } }
    else s
  | none => s

/-- BLOCK_ENCODE_COMPLETE: the engine has read the words of its pieces through SECDED (R239, R251). FLUSHED marks a block that a flush ended; one whose input had been read whole is finished as planned (R218, R232). -/
def execBlockEncodeComplete (e : Eng) (enc : Encode) (s : State) : Host.Outcome State Fault Refusal :=
  match (s.eng e).job with
  | none => .next s
  | some j =>
    let flushed := (s.eng e).flush && enc.flushAt.isSome
    let s := match enc.bad with | some w => s.worsen j w | none => s
    let r := s.readPieces 0 j.pieces
    let s := match r.2, flushed, enc.flushAt with
      | some k, _, _ => r.1.losePiece e j k .uncorr
      | none, true, some k => if k + 1 < j.pieces.length then r.1.shorten e j (k + 1) else r.1
      | _, _, _ => r.1
    match (s.eng e).job with
    | none => .next (s.hold e).settle
    | some j =>
      if j.pieces = [] then .next (((s.setEng e { s.eng e with job := none }).hold e).settle)
      else .next ((s.offer e j flushed enc).hold e).settle

/-! ### Enables and self-test (R236 to R240) -/

/-- A write of RDC.CFG: BLKMAX outside 16 to 256 is stored as 256 (R240). -/
def State.wRdcCfg (s : State) (v : Word) : WRes :=
  let before := s.rdcCount
  let b := getBits v.toNat 16 9
  let s := (s.setF F.RDC_CFG_EN (getBits v.toNat 0 4)).setF F.RDC_CFG_BLKMAX (if b < 16 ∨ 256 < b then 256 else b)
  .ok (s.settle.engFail before)

/-- RDC_ENGINE_ENABLE_WRITE. -/
def execRdcEngineEnableWrite (src : Src) (v : Word) (s : State) : Host.Outcome State Fault Refusal :=
  match src with
  | .vf _ => .next s
  | _ => if s.pfOpen src = false then .next (s.pfDrop src) else .next (s.apply src (s.wRdcCfg v))

/-- A write of ENL.CFG. -/
def State.wEnlCfg (s : State) (v : Word) : WRes := .ok (s.setF F.ENL_CFG_EN (getBits v.toNat 0 4))

/-- ENL_ENGINE_ENABLE_WRITE. -/
def execEnlEngineEnableWrite (src : Src) (v : Word) (s : State) : Host.Outcome State Fault Refusal :=
  match src with
  | .vf _ => .next s
  | _ => if s.pfOpen src = false then .next (s.pfDrop src) else .next (s.apply src (s.wEnlCfg v))

def State.setEnl (s : State) (e : Fin 4) (x : EnlEng) : State := { s with cdc := { s.cdc with enl := s.cdc.enl.set e x } }

/-- Is an ENL engine enabled and not disabled by a fault. -/
def State.enlOn (s : State) (e : Fin 4) : Bool := getBits (s.getF F.ENL_CFG_EN) e.val 1 == 1 && !(s.cdc.enl[e]).dead

/-- A self-test that has waited 2 ms takes this ENL engine, which has finished a block, next (R237). -/
def State.holdEnl (s : State) (e : Fin 4) : State :=
  match s.cdc.test with
  | some t =>
    if t.enlWait = true ∧ t.enl.getD e.val 16 < 16 then
      let s := s.setEnl e { s.cdc.enl[e] with held := true }
      { s with cdc := { s.cdc with test := some { t with enlWait := false } } }
    else s
  | none => s

/-- Start a run (R236). -/
def State.startTest (s : State) : State :=
  ({ s with cdc := { s.cdc with test := some ⟨[0, 0, 0, 0], [0, 0, 0, 0], false, false, false⟩ } }).setF F.RDC_STEST_RUN 1

def resultItems (pass : Bool) (code : Nat) : List Item :=
  if pass then [⟨"RESULT", .word "PASS"⟩] else [⟨"RESULT", .word "FAIL"⟩, ⟨"CODE", .num code⟩]

/-- TEST CODEC (R91, R236). -/
def execTestCodec (ln : Ln) (s : State) : Host.Outcome State Fault Refusal :=
  .next (s.verb ln .service false
    (if s.pwr ≠ .run then .er .pwrstate []
     else if s.cdc.test.isSome = true ∨ s.boot.testing = true then .er .testbusy []
     else
       let s := s.startTest
       .ok { s with con := { s.con with opCodec := [ln] } } [] [⟨"", .word "STARTED"⟩]))

/-- CODEC_TEST_PERIOD: a background run starts, when none runs, PERIOD is not 0 and D3 is on (R236). -/
def execCodecTestPeriod (s : State) : Host.Outcome State Fault Refusal :=
  if s.cdc.test.isSome = true ∨ s.getF F.RDC_STEST_PERIOD = 0 ∨ s.domainOn 3 = false then .next s else .next s.startTest

/-- A run ends when every engine has done its 16 vectors, or has been disabled by one (R236, R238). -/
def State.endTest (s : State) : State :=
  match s.cdc.test with
  | none => s
  | some t =>
    if t.rdc.all (· == 16) = true ∧ t.enl.all (· == 16) = true then
      let ls := s.con.opCodec
      let s := { s with cdc := { s.cdc with test := none }, con := { s.con with opCodec := [] } }
      ((s.setF F.RDC_STEST_RUN 0).doneAll (resultItems (!t.failed) Er.codeckat.code) ls).settle
    else s

/-- Record a slice: one more vector, or the engine's failure, which disables it (R238). -/
def State.slice (s : State) (t : CodecTest) (enl : Bool) (e : Fin 4) (pass : Bool) : State :=
  let n := (if enl then t.enl else t.rdc).getD e.val 0 + 1
  let n := if pass then n else 16
  let t := { t with failed := t.failed || !pass
                    rdc := if enl then t.rdc else t.rdc.set e.val n
                    enl := if enl then t.enl.set e.val n else t.enl }
  let s := { s with cdc := { s.cdc with test := some t } }
  if pass then
    if n < 16 then s
    else if enl then s.setEnl e { s.cdc.enl[e] with ok := true }
    else s.setEng e { s.eng e with ok := true }
  else
    let s := s.log (errRec .codeckat (if enl then .enl else .rdc) [⟨"ENG", .word (engName enl e)⟩])
    if enl then
      (s.setEnl e ⟨true, false, false⟩).setF F.RDC_STRES_ENLFAIL (s.getF F.RDC_STRES_ENLFAIL ||| 2 ^ e.val)
    else
      let s := s.setF F.RDC_STRES_RDCFAIL (s.getF F.RDC_STRES_RDCFAIL ||| 2 ^ e.val)
      (s.setEng e { s.eng e with ok := false }).killEng e

/-- CODEC_TEST_SLICE: on an engine with no block in progress that still has vectors to run (R236 to R238). -/
def execCodecTestSlice (enl : Bool) (e : Eng) (v : Verdict) (s : State) : Host.Outcome State Fault Refusal :=
  match s.cdc.test with
  | none => .next s
  | some t =>
    if 16 ≤ (if enl then t.enl else t.rdc).getD e.val 16 ∨ (enl = false ∧ (s.eng e).job.isSome = true) then .next s
    else
      let s := if enl then s.setEnl e { s.cdc.enl[e] with held := false } else s.setEng e { s.eng e with held := false }
      .next ((s.slice t enl e (v == .pass)).endTest.settle)

/-- CODEC_TEST_WAIT_EXPIRY (R237). -/
def execCodecTestWaitExpiry (enl : Bool) (s : State) : Host.Outcome State Fault Refusal :=
  match s.cdc.test with
  | none => .next s
  | some t => .next { s with cdc := { s.cdc with test := some (if enl then { t with enlWait := true } else { t with rdcWait := true }) } }

/-! ### Flush (R232) -/

/-- Feed numbers that still have a block to place. -/
def State.feedsOpen (s : State) : List Nat :=
  ((List.finRange 4).flatMap (fun e => ((s.eng e).job.map (·.feed)).toList ++ ((s.eng e).feed.map (·.no)).toList)) ++
  s.cdc.ready.map (·.job.feed) ++ s.cdc.redo.map (·.feed)

/-- Is every feed below the number of the first flush placed, with the rest of a split block too (R232). -/
def State.flushReady (s : State) : Bool :=
  match s.fmt.flushTo with
  | n :: _ => s.feedsOpen.all (fun f => decide (n ≤ f)) && s.fmt.rest.isNone
  | [] => false

/-- A D3 domain reset restarts blocks in progress from their records; feeds keep their numbers (R117, R215). Engines a fault disabled are usable again (R235). -/
def State.restartCodec (s : State) : State :=
  let again := (List.finRange 4).flatMap (fun e => (s.eng e).job.toList)
  let feeds := (List.finRange 4).flatMap (fun e => match (s.eng e).feed with | some f => s.spreadFeed f 65536 | none => [])
  { s with cdc := { Cdc.reset with ready := s.cdc.ready, redo := again ++ feeds ++ s.cdc.redo } }

end Sys2Proof.Machine
end

