-- ==== Sys2Proof/Machine/Gf.lean ====
section
/-! DEFINITION. GF(256) with polynomial 0x11D, the Reed-Solomon codes C1, C2 and C3, and the rows of a dataset (10_dataset R268, R269, R275 to R277, R287). -/

namespace Sys2Proof.Machine

/-- Multiplication by α = 0x02 (R275). -/
def gfDouble (a : Nat) : Nat := if a < 128 then 2 * a else (2 * a % 256) ^^^ 0x1D

/-- Multiplication in GF(256): `n` bits of `b`, least significant first. -/
def gfMulBits : Nat → Nat → Nat → Nat
  | 0, _, _ => 0
  | n + 1, a, b => (if b % 2 = 1 then a else 0) ^^^ gfMulBits n (gfDouble a) (b / 2)

def gfMul (a b : Nat) : Nat := gfMulBits 8 a b

/-- α to the power `n`. -/
def gfPow : Nat → Nat
  | 0 => 1
  | n + 1 => gfDouble (gfPow n)

/-- Multiply a polynomial (highest coefficient first) by x + r. -/
def polyTimes (r : Nat) (p : List Nat) : List Nat :=
  List.zipWith (· ^^^ ·) (p ++ [0]) (0 :: p.map (gfMul r))

/-- The generator of degree `m`: the product of x + α^i for i below `m` (R275), highest coefficient first. -/
def rsGen : Nat → List Nat
  | 0 => [1]
  | m + 1 => polyTimes (gfPow m) (rsGen m)

/-- One data symbol through the division register: `reg` has as many symbols as the generator's tail. -/
def rsStep (tail : List Nat) (reg : List Nat) (d : Nat) : List Nat :=
  let f := d ^^^ reg.headD 0
  List.zipWith (· ^^^ ·) (reg.drop 1 ++ [0]) (tail.map (gfMul f))

/-- The `m` parity symbols of data symbols: the remainder of d(x)·x^m divided by g(x) (R275). -/
def rsParity (m : Nat) (data : List Nat) : List Nat :=
  data.foldl (rsStep ((rsGen m).drop 1)) (List.replicate m 0)

/-- Data bytes of a row and rows of a subset (R268). -/
def rowBytes : Nat := 472
def subsetRows : Nat := 112
def subsetBytes : Nat := 52864
def headerArea : Nat := 17408
def payloadMax : Nat := 2097152

/-- The smallest number of subsets that holds the content used (R268). -/
def nsubFor (payload : Nat) : Nat := (headerArea + payload + subsetBytes - 1) / subsetBytes

/-- `n` bytes from a place of the content; bytes beyond it are 0 (R268). -/
def padTake (n : Nat) (l : List Byte) : List Byte :=
  let t := l.take n
  t ++ List.replicate (n - t.length) 0#8

/-- Data row d of the content (R269). -/
def dataRow (content : List Byte) (d : Nat) : List Byte := padTake rowBytes (content.drop (rowBytes * d))

/-- The symbols of one column of a subset's data rows. -/
def column (content : List Byte) (subset col : Nat) : List Nat :=
  (List.range subsetRows).map (fun r => (content.getD (rowBytes * (subsetRows * subset + r) + col) 0#8).toNat)

/-- Row `r` of a subset, 472 bytes: a data row, or a C2 parity row (R277). -/
def subsetRow (content : List Byte) (subset r : Nat) : List Byte :=
  if r < subsetRows then dataRow content (subsetRows * subset + r)
  else (List.range rowBytes).map (fun c => BitVec.ofNat 8 ((rsParity 16 (column content subset c)).getD (r - subsetRows) 0))

/-- Bytes at even, or odd, places. -/
def everyOther : List Byte → List Byte
  | [] => []
  | [a] => [a]
  | a :: _ :: t => a :: everyOther t

/-- The 496 coded bytes of a row: the data and the parity of the interleaved codewords A and B (R276). -/
def codedRow (row : List Byte) : List Byte :=
  let a := rsParity 12 ((everyOther row).map (·.toNat))
  let b := rsParity 12 ((everyOther (row.drop 1)).map (·.toNat))
  row ++ (List.zipWith (fun x y => [BitVec.ofNat 8 x, BitVec.ofNat 8 y]) a b).flatten

/-- C3 symbols at one place of the members' contents, positions 0 to 13 in order; an absent one contributes 0 (R287). -/
def c3Symbols (members : List (Nat × List Byte)) (i : Nat) : List Nat :=
  (List.range 14).map (fun p => match members.find? (fun m => m.1 == p) with
    | some m => (m.2.getD i 0#8).toNat
    | none => 0)

/-- The content of parity dataset `j` (0 for position 14, 1 for 15), over `n` content bytes (R287). -/
def c3Content (members : List (Nat × List Byte)) (j n : Nat) : List Byte :=
  (List.range n).map (fun i => BitVec.ofNat 8 ((rsParity 2 (c3Symbols members i)).getD j 0))

/-- Can RS(n,k) correct `e` errors and `f` erasures with `m` parity symbols (R290). -/
def corrects (m e f : Nat) : Bool := decide (2 * e + f ≤ m)

end Sys2Proof.Machine
end

