-- ==== Sys2Proof/Machine/Rs.lean ====
section
/-! DEFINITION. Decoding of the Reed-Solomon codes C1, C2 and C3 with errors and erasures (10_dataset R275, R290): syndromes, the key equation by Euclid's algorithm, and the magnitudes. Polynomials are
lists of coefficients, the lowest first. -/

namespace Sys2Proof.Machine

/-- Without zeros at the top. -/
def pTrim : List Nat → List Nat
  | [] => []
  | c :: cs => if c = 0 ∧ pTrim cs = [] then [] else c :: pTrim cs

def pAdd : List Nat → List Nat → List Nat
  | [], b => b
  | a, [] => a
  | a :: as, b :: bs => (a ^^^ b) :: pAdd as bs

def pMul : List Nat → List Nat → List Nat
  | [], _ => []
  | a :: as, b => pAdd (b.map (gfMul a)) (0 :: pMul as b)

def pEval (x : Nat) : List Nat → Nat
  | [] => 0
  | c :: cs => c ^^^ gfMul x (pEval x cs)

/-- The terms of even power of a polynomial: the derivative is this of the polynomial over x. -/
def pEven : List Nat → List Nat
  | [] => []
  | [a] => [a]
  | a :: _ :: t => a :: 0 :: pEven t

/-- The inverse in GF(256): the 254th power. -/
def gfInv (a : Nat) : Nat :=
  let a2 := gfMul a a
  let a4 := gfMul a2 a2
  let a8 := gfMul a4 a4
  let a16 := gfMul a8 a8
  let a32 := gfMul a16 a16
  let a64 := gfMul a32 a32
  gfMul (gfMul a64 a64) (gfMul a64 (gfMul a32 (gfMul a16 (gfMul a8 (gfMul a4 a2)))))

/-- Quotient and remainder; `n` limits the steps. -/
def pDiv : Nat → List Nat → List Nat → List Nat × List Nat
  | 0, a, _ => ([], a)
  | n + 1, a, b =>
    if b = [] ∨ a.length < b.length then ([], a)
    else
      let c := gfMul (a.getLastD 0) (gfInv (b.getLastD 1))
      let d := a.length - b.length
      let r := pDiv n (pTrim (pAdd a (List.replicate d 0 ++ b.map (gfMul c)))) b
      (pAdd r.1 (List.replicate d 0 ++ [c]), r.2)

/-- Euclid's algorithm down to a remainder `r` with 2 deg r below `lim`: the locator and the evaluator. -/
def keyEq (lim : Nat) : Nat → List Nat → List Nat → List Nat → List Nat → List Nat × List Nat
  | 0, _, r, _, t => (t, r)
  | n + 1, r0, r, t0, t =>
    if 2 * r.length < lim + 2 then (t, r)
    else
      let d := pDiv (r0.length + 1) r0 r
      keyEq lim n r d.2 t (pTrim (pAdd t0 (pMul d.1 t)))

/-- The syndromes of a word: its values at α^0 to α^(m-1); the first symbol is the highest coefficient (R275). -/
def syndromes (m : Nat) (word : List Nat) : List Nat := (List.range m).map (fun j => pEval (gfPow j) word.reverse)

/-- The corrections of a word at the places whose locators are roots. -/
def fixSymbols (loc ev : List Nat) (n : Nat) : Nat → List Nat → List Nat × Nat
  | _, [] => ([], 0)
  | p, c :: cs =>
    let x := gfPow ((n - 1 - p) % 255)
    let xi := gfInv x
    let r := fixSymbols loc ev n (p + 1) cs
    if pEval xi loc = 0 then
      let y := gfMul x (gfMul (pEval xi ev) (gfInv (pEval xi (pEven (loc.drop 1)))))
      ((c ^^^ y) :: r.1, r.2 + 1)
    else (c :: r.1, r.2)

/-- How many places differ that are not erased. -/
def newErrors (er : List Nat) (a b : List Nat) : Nat := ((List.zip a b).zipIdx.filter (fun p => p.1.1 != p.1.2 && !(er.contains p.2))).length

/-- The codeword of RS(n, n - m) that differs from a word in `e` places and in the erased places `er`, when 2e + f is at most m, f being the number of erased places (R275, R290). -/
def rsDecode (m : Nat) (word : List Nat) (er : List Nat) : Option (List Nat) :=
  let f := er.length
  let s := syndromes m word
  if m < f then none
  else if s.all (· == 0) = true then some word
  else
    let n := word.length
    let g := er.foldl (fun p i => pMul p [1, gfPow ((n - 1 - i) % 255)]) [1]
    let xi := pTrim ((pMul g s).take m)
    let k := keyEq (m + f) (m + 1) (List.replicate m 0 ++ [1]) xi [] [1]
    let loc := pTrim (pMul k.1 g)
    let fixed := fixSymbols loc k.2 n 0 word
    if fixed.2 + 1 = loc.length ∧ corrects m (newErrors er word fixed.1) f = true ∧ (syndromes m fixed.1).all (· == 0) = true then some fixed.1 else none

end Sys2Proof.Machine
end

