-- ==== Sys2Proof/Machine/Frames.lean ====
section
/-! DEFINITION. Frames on tape (10_dataset R278 to R280): the row header, scrambling, the 32/34 code, which row a slot carries, and how a frame and its row are read (R290, R306). -/

namespace Sys2Proof.Machine

/-- The row of a slot of a channel: its subset and row (R280). -/
def slotRow (nsub ch p : Nat) : Nat × Nat := ((p + ch) % nsub, 16 * (p / nsub) + ch)

/-- The 12-byte row header (R279). -/
def rowHeader (num kind subset : Nat) (rewrite : Bool) (row : Nat) (c3 : Bool) (nsub pos k gdist : Nat) : List Byte :=
  let h := beBytes 4 num ++ beBytes 1 (64 * kind + subset) ++ beBytes 1 ((if rewrite then 128 else 0) + row) ++ beBytes 1 ((if c3 then 128 else 0) + nsub)
    ++ beBytes 1 (if c3 then 16 * pos + k else 0) ++ beBytes 2 (if c3 then gdist else 0)
  h ++ beBytes 2 (crc16 h)

/-- The sync field (R278). -/
def syncBits : List Bool :=
  (List.replicate 11 [false, false, true, true]).flatten ++ (List.replicate 6 [true, false, true, false]).flatten

/-- Scramble bits with the LFSR x^15 + x^14 + 1: the output is the bit shifted out, the oldest (R278; DEDUCED, log entry 26). -/
def scramble : Nat → List Bool → List Bool
  | _, [] => []
  | r, b :: bs => (b != (r / 2 ^ 14 % 2 == 1)) :: scramble ((2 * r) % 2 ^ 15 + (r / 2 ^ 14 + r / 2 ^ 13) % 2) bs

/-- The 32/34 code: sixteen bits and a merge bit equal to the last of them (R278); `n` half words. -/
def mergeBits : Nat → List Bool → List Bool
  | 0, _ => []
  | n + 1, bs => bs.take 16 ++ [(bs.take 16).getLast?.getD false] ++ mergeBits n (bs.drop 16)

/-- The 4,386 channel bits of a frame (R278). -/
def channelBits (hdr row : List Byte) : List Bool :=
  syncBits ++ mergeBits 254 (scramble 0x7FFF (unpackBits (hdr ++ row)))

/-! ### Reading (R278, R279, R290, R306) -/

/-- Channel bits of a frame, of its sync field, and of the 0011 pattern in it (R278). -/
def frameLen : Nat := 4386
def syncLen : Nat := 68
def acqLen : Nat := 44

/-- Half words without their merge bits (R278). -/
def stripMerge : Nat → List Bool → List Bool
  | 0, _ => []
  | n + 1, bs => bs.take 16 ++ stripMerge n (bs.drop 17)

/-- The 508 bytes behind a sync field: merge bits removed, descrambled (R278). -/
def frameBytes (bits : List Bool) : List Byte := packBits (scramble 0x7FFF (stripMerge 254 bits))

/-- The 24-symbol 1010 pattern that the correlator matches (R306). -/
def syncTail : List Bool := syncBits.drop acqLen

/-- Symbols in which a pattern differs from what stands at the head of a list. -/
def symbolDiffs : List Bool → List Bool → Nat
  | [], _ => 0
  | _ :: ps, [] => 1 + symbolDiffs ps []
  | p :: ps, b :: bs => (if p = b then 0 else 1) + symbolDiffs ps bs

/-- Places of a window at which the sync is matched with at most 2 differing symbols: the differences, the distance from the expected start, and the frame's first symbol; `n` places are tried. -/
def syncPlaces : Nat → Nat → List Bool → List (Nat × Nat × Nat)
  | 0, _, _ => []
  | n + 1, i, bits =>
    let d := symbolDiffs syncTail ((bits.drop acqLen).take 24)
    (if d ≤ 2 then [(d, (if i < 64 then 64 - i else i - 64), i)] else []) ++ syncPlaces n (i + 1) (bits.drop 1)

/-- Where the sync is matched in a window of 64 symbols on each side of the expected start, which is symbol 64 of the list: the place with the fewest differing symbols, then the one nearest to the
expected start, then the first (R306; DESIGN CHOICE, log entry 108). -/
def syncAt (bits : List Bool) : Option Nat :=
  ((syncPlaces 129 0 bits).foldl (fun (o : Option (Nat × Nat × Nat)) p => match o with
    | none => some p
    | some b => if p.1 < b.1 ∨ (p.1 = b.1 ∧ p.2.1 < b.2.1) then some p else some b) none).map (fun p => p.2.2)

/-- The most transitions in a row in a list of channel bits. -/
def transitionRun : Nat → Nat → List Bool → Nat
  | n, m, a :: b :: bs => if a = b then transitionRun 0 (max n m) (b :: bs) else transitionRun (n + 1) m (b :: bs)
  | n, m, _ => max n m

/-- What a row header says (R279). -/
structure RowHdr where
  num : Nat
  kind : Nat
  subset : Nat
  row : Nat
  c3 : Bool
  nsub : Nat
  pos : Nat
  k : Nat
  gdist : Nat
  deriving DecidableEq, Repr

/-- A row header whose CRC holds. -/
def readHeader (h : List Byte) : Option RowHdr :=
  if h.length = 12 ∧ crc16 (h.take 10) = beValue (h.drop 10) then
    let b (i : Nat) : Nat := (h.getD i 0#8).toNat
    some ⟨beValue (h.take 4), b 4 / 64, b 4 % 64, b 5 % 128, decide (128 ≤ b 6), b 6 % 64, b 7 / 16, b 7 % 16, beValue ((h.drop 8).take 2)⟩
  else none

/-- One C1 codeword of a row, its flagged bytes as erasures (R276, R290 step 2). -/
def c1Half (odd : Bool) (row : List (Byte × Bool)) : Option (List Nat) :=
  let h := (row.zipIdx.filter (fun p => (p.2 % 2 == 1) == odd)).map (·.1)
  rsDecode 12 (h.map (fun p => p.1.toNat)) ((h.zipIdx.filter (fun p => p.1.2)).map (·.2))

/-- The data bytes of a row that C1 corrects in both codewords. -/
def c1Row (row : List (Byte × Bool)) : Option (List Byte) :=
  match c1Half false row, c1Half true row with
  | some a, some b => some ((List.zipWith (fun x y => [BitVec.ofNat 8 x, BitVec.ofNat 8 y]) a b).flatten.take rowBytes)
  | _, _ => none

/-- C2 over the 128 rows of a subset, rows that are missing as erasures: the 112 data rows, when every column is corrected (R277, R290 step 3). -/
def c2Subset (rows : List (Option (List Byte))) : Option (List (List Byte)) :=
  let er := (rows.zipIdx.filter (fun p => p.1.isNone)).map (·.2)
  if 16 < er.length then none
  else
    let cols := (List.range rowBytes).map (fun c => rsDecode 16 (rows.map (fun r => ((r.getD []).getD c 0#8).toNat)) er)
    if cols.all (fun c => c.isSome) = true then
      some ((List.range subsetRows).map (fun r => cols.map (fun c => BitVec.ofNat 8 ((c.getD []).getD r 0))))
    else none

/-- C3 at one row position: the bytes of the members at positions 0 to 15, none where a member lacks the row; the row of position `pos` (R287, R290 step 4). -/
def c3Row (members : List (Option (List Byte))) (pos : Nat) : Option (List Byte) :=
  let er := (members.zipIdx.filter (fun p => p.1.isNone)).map (·.2)
  if 2 < er.length then none
  else
    let cols := (List.range rowBytes).map (fun c => rsDecode 2 (members.map (fun r => ((r.getD []).getD c 0#8).toNat)) er)
    if cols.all (fun c => c.isSome) = true then some (cols.map (fun c => BitVec.ofNat 8 ((c.getD []).getD pos 0))) else none

end Sys2Proof.Machine
end

