-- ==== Sys2Proof/Machine/Drt.lean ====
section
/-! DEFINITION. The Dypango Record Transport (05_tenants R142 to R159) and its notifications (07 R197 to R199). -/

namespace Sys2Proof.Machine

/-! ### Sessions and what they are sent -/

def State.drt? (s : State) (id : Nat) : Option Drt := s.eth.drt.find? (fun d => d.id == id)

def State.setDrt (s : State) (d : Drt) : State :=
  { s with eth := { s.eth with drt := s.eth.drt.map (fun x => if x.id = d.id then d else x) } }

/-- The bytes of a DRT datagram (R142). -/
def drtBytes (d : DrtOut) : List Byte :=
  beBytes 2 0x4452 ++ beBytes 1 1 ++ beBytes 1 d.ty ++ beBytes 2 d.session ++ beBytes 2 d.flags ++ beBytes 4 d.seq ++ beBytes 4 d.aux ++ beBytes 2 d.payload.length ++ beBytes 2 0 ++ d.payload

/-- VID and PCP of a port (R135). -/
def State.portVid (s : State) (p : Fin 2) : Nat := s.getF (if p.val = 0 then F.ETH_PCFG0_VID else F.ETH_PCFG1_VID)
def State.portPcp (s : State) (p : Fin 2) : Nat := s.getF (if p.val = 0 then F.ETH_PCFG0_PCP else F.ETH_PCFG1_PCP)

/-- How a frame leaves a port for a peer (R135, R136): tagged with the configured VID and PCP, or untagged with VID 0; an IPv4 packet with DF set. -/
def State.ethTx (s : State) (p : Fin 2) (mac : BitVec 48) (ip : Bool) : EthTx :=
  ⟨p, mac, if s.portVid p = 0 then none else some (s.portPcp p, s.portVid p), ip⟩

/-- Does a port accept a frame's tag (R135): with VID 0 untagged frames only, else only frames tagged with the VID. -/
def State.tagOk (s : State) (p : Fin 2) (vid : Option (BitVec 12)) : Bool :=
  match vid with
  | none => s.portVid p == 0
  | some v => s.portVid p != 0 && v.toNat == s.portVid p

/-- A peer is addressed where its most recent frame came from (R136): every session of that IPv4 address follows. -/
def State.heard (s : State) (p : Fin 2) (mac : BitVec 48) (ip : Word) : State :=
  { s with eth := { s.eth with drt := s.eth.drt.map (fun d => if d.link.isNone && d.ip == ip then { d with port := p, mac := mac } else d) } }

/-- A datagram leaves through its Ethernet port, or over the link as the payload of a TYPE 0x30 frame (R142, R452). -/
def State.drtEmit (s : State) (l : Option LinkPeer) (p : Fin 2) (mac : BitVec 48) (d : DrtOut) : State :=
  match l with
  | none => s.emit (.drt (s.ethTx p mac true) d)
  | some p => s.route (s.frame tDRT p.node.toNat 0 (drtBytes d))

/-- Send a datagram of a session; each takes the next number of the session's own count (R148). -/
def State.drtSend (s : State) (d : Drt) (ty flags aux : Nat) (payload : List Byte) : State :=
  (s.drtEmit d.link d.port d.mac ⟨d.ip, d.udp, ty, d.id, flags, d.dseq, aux, payload⟩).setDrt { d with dseq := (d.dseq + 1) % 2 ^ 32 }

/-- Difference of two SEQ numbers in serial arithmetic modulo 2^32 (R148). -/
def seqDiff (a b : Nat) : Nat := (a + 2 ^ 32 - b) % 2 ^ 32

/-- The SACK bitmap: bit n says that CUM + 1 + n is held (R150). -/
def sackOf (cum : Nat) (held : List Held) : Nat :=
  held.foldl (fun m h => let n := seqDiff h.seq cum; if 1 ≤ n ∧ n ≤ 64 ∧ m / 2 ^ (n - 1) % 2 = 0 then m + 2 ^ (n - 1) else m) 0

/-- WIN: the granted window while the Tank can hold that many datagrams; it falls with the room, but never below what is held, and to 0 while the queue
cannot accept records (R153, R210; DEDUCED, log entry 21). -/
def State.winOf (s : State) (d : Drt) : Nat :=
  let room := s.roomFor d.tenant * pageBytes / (max 1 d.maxseg) - d.wait.length
  let able := match s.queue? d.qid.val with
    | some q => decide (q.nextSeq ≤ seqMax) && !((s.fn d.tenant).resetting)
    | none => false
  max d.held.length (if able then min d.win room else 0)

/-- The ACK payload (R150). -/
def State.ackBytes (s : State) (d : Drt) : List Byte :=
  beBytes 4 d.cum ++ beBytes 8 (sackOf d.cum d.held) ++ beBytes 4 d.nacc ++ beBytes 4 d.nsec ++ beBytes 4 d.ndur ++ beBytes 2 (s.winOf d) ++ beBytes 2 0

/-- Datagram types (R143). -/
def tOPENACK : Nat := 2
def tACK : Nat := 4
def tCLOSEACK : Nat := 6
def tERROR : Nat := 8
def tNOTIFY : Nat := 9

/-- Flags (R144). -/
def fFIN : Nat := 1
def fEND : Nat := 2
def fPARTIAL : Nat := 16

/-- May an ACK leave now: at most one per session per 20 us (R152). -/
def State.ackFree (s : State) (d : Drt) : Bool :=
  match d.lastAck with
  | some t => decide (t + 20 ≤ s.us)
  | none => true

/-- Send the ACK that is due, when it may leave; one ACK answers every cause pending (R152). -/
def State.ackTry (s : State) (d : Drt) : State :=
  if d.ackDue = true ∧ s.ackFree d = true then
    s.drtSend { d with ackDue := false, sinceAck := 0, lastAck := some s.us, lastWin := s.winOf d } tACK 0 0 (s.ackBytes d)
  else s.setDrt d

/-- An ACK becomes due (R152). -/
def State.ackSoon (s : State) (d : Drt) : State := s.ackTry { d with ackDue := true }

/-- Take a session away: its partial record's pages return, and its queue is free for another session (R155). -/
def State.drtFree (s : State) (d : Drt) : State :=
  let s := match d.part with
    | some p => s.freePagesOf p.pages
    | none => s
  let s := match s.queue? d.qid.val with
    | some q => if q.bound = some d.id then s.setQueue { q with bound := none } else s
    | none => s
  { s with eth := { s.eth with drt := s.eth.drt.filter (fun x => x.id != d.id) } }

/-- An ERROR payload (R143). -/
def errPayload (e : Er) : List Byte := beBytes 2 e.code ++ beBytes 2 0

/-- End a session with an ERROR datagram that carries END (R155). -/
def State.drtEnd (s : State) (d : Drt) (e : Er) (aux : Nat) : State :=
  (s.drtSend d tERROR fEND aux (errPayload e)).drtFree d

def State.drtEndAll (s : State) (e : Er) : List Drt → State
  | [] => s
  | d :: ds => State.drtEndAll (s.drtEnd d e 0) e ds

/-! ### Levels (R150, R157) -/

/-- Records of a session, by sequence number from RIDX 0 on, up to those it has had Accepted. -/
def State.drtRecs (s : State) (d : Drt) : List Rec :=
  s.qmg.recs.filter (fun r => r.qid == d.qid && r.drt && !r.carried && decide (d.rbase ≤ r.seq ∧ r.seq < d.rbase + d.ridx))

/-- Every RIDX below this one is at least at a level: the first record of the session that is below it, or all (R150). -/
def State.ridxBelow (s : State) (d : Drt) (level : Nat) : Nat :=
  (s.drtRecs d).foldl (fun n r => if r.reported < level then min n (r.seq - d.rbase) else n) d.ridx

/-- NSEC and NDUR of a session: the first record of the session that is below the level, but never past a record that was ABORTED (R150); a counter does not fall. -/
def State.drtLevels (s : State) (d : Drt) : Nat × Nat × Nat :=
  let cap (n old : Nat) : Nat := match d.stuck with | some k => min n (max k old) | none => n
  let nd := cap (s.ridxBelow d 3) d.ndur
  let ns := max nd (cap (s.ridxBelow d 2) d.nsec)
  (nd, ns, max ns (s.ridxBelow d 1))

/-! ### NOTIFY (R197 to R199) -/

/-- The kind of state an event code tells of: CART, SECOK, SYNC, PFAIL, OVERRATE (R198). -/
def noteKind (code : Nat) : Nat := if code ≤ 2 then 0 else if code ≤ 4 then 1 else if code ≤ 6 then 2 else if code = 7 then 3 else 4

/-- Does a later state differ from the one sent (R199). -/
def noteDiffers (n : Notified) (code value : Nat) : Bool := n.code != code || (decide (3 ≤ n.kind) && n.value != value)

/-- Send a NOTIFY, with the time of its event (R197). -/
def State.noteSend (s : State) (d : Drt) (code value time : Nat) : State :=
  s.drtSend { d with notes := ⟨noteKind code, code, value, none⟩ :: d.notes.filter (fun n => n.kind != noteKind code) }
    tNOTIFY 0 code (beBytes 8 value ++ beBytes 8 time)

/-- A NOTIFY for one session: at once, or held until its holdoff ends (R199). While the tenant's bit is 0 none is sent, but the latest state is still what a holdoff ends with. -/
def State.note (s : State) (d : Drt) (on : Bool) (code value : Nat) : State :=
  match d.notes.find? (fun n => n.kind == noteKind code) with
  | none => if on then s.noteSend d code value s.now else s
  | some n =>
    s.setDrt { d with notes := { n with held := some (code, value, s.now) } :: d.notes.filter (fun m => m.kind != noteKind code) }

/-- Is NOTIFY enabled for a tenant (INT.DNOTEk). -/
def State.noteOn (s : State) (t : Tenant) : Bool := getBits (s.getF (F.INT_DNOTE_EN (t.val / 32))) (t.val % 32) 1 == 1

def State.noteEach (s : State) (t : Option Tenant) (code : Nat) (value : Tenant → Nat) : List Drt → State
  | [] => s
  | d :: ds =>
    let s := if (match t with | some x => x == d.tenant | none => true) = true then
        match s.drt? d.id with
        | some d => s.note d (s.noteOn d.tenant) code (value d.tenant)
        | none => s
      else s
    State.noteEach s t code value ds

/-- A NOTIFY of an event for every session of every tenant (R199). -/
def State.notify (s : State) (code value : Nat) : State := s.noteEach none code (fun _ => value) s.eth.drt

/-- Bytes of a tenant's records waiting in the Tank (R198): those wholly in it, and neither at a lender nor in the Fixer. -/
def State.waiting (s : State) (t : Tenant) : Nat :=
  (s.qmg.recs.map (fun r => if r.tenant = t ∧ (r.level = .accepted ∨ r.level = .secured) ∧ r.lent = none ∧ r.body = none then r.length else 0)).sum

/-- NOTIFY_HOLDOFF_END (R199): sent while the tenant's bit is 1, and when the latest state differs from the one sent. -/
def execNotifyHoldoffEnd (session : BitVec 16) (ev : Fin 9) (s : State) : Host.Outcome State Fault Refusal :=
  match s.drt? session.toNat with
  | none => .next s
  | some d =>
    match d.notes.find? (fun n => n.kind == noteKind ev.val) with
    | none => .next s
    | some n =>
      let d' := { d with notes := d.notes.filter (fun m => m.kind != n.kind) }
      match n.held with
      | some (c, v, at') => if s.noteOn d.tenant = true ∧ noteDiffers n c v = true then .next (s.noteSend d' c v at') else .next (s.setDrt d')
      | none => .next (s.setDrt d')

/-- OVERRATE_CHECK: arrivals of a CONTINUOUS tenant above its RATE over 1 s (R198). -/
def execOverrateCheck (t : Tenant) (mbps : Nat) (s : State) : Host.Outcome State Fault Refusal :=
  if s.classOf t = 0 ∧ s.getF (F.SCH_TSHARE_RATE t.val) < mbps then .next (s.noteEach (some t) 8 (fun _ => mbps) s.eth.drt) else .next s

/-! ### Datagrams (R146 to R157) -/

/-- Is DRT served on a port (R142): the port is up and enabled, has an address, and DRTEN. -/
def State.drtPort (s : State) (p : Fin 2) : Bool :=
  let i := p.val == 0
  s.bit (if i then F.ETH_PCFG0_EN else F.ETH_PCFG1_EN) && s.bit (if i then F.ETH_PCFG0_DRTEN else F.ETH_PCFG1_DRTEN)
    && s.bit (if i then F.ETH_PSTAT_UP0 else F.ETH_PSTAT_UP1) && s.getF (if i then F.ETH_IP0_ADDR else F.ETH_IP1_ADDR) != 0

/-- MTU of a port. -/
def State.mtu (s : State) (p : Fin 2) : Nat := s.getF (if p.val = 0 then F.ETH_PCFG0_MTU else F.ETH_PCFG1_MTU)

/-- Why a datagram goes no further (R154): dropped as another kind, dropped as bad, or sent NOSESSION; or the session it belongs to. -/
inductive DrtCheck where
  | other
  | bad
  | noSession
  | known (d : Drt)
  deriving DecidableEq, Repr

/-- Does a datagram come from the peer a session is bound to: the head's UID over the link (R452), else the IPv4 address and UDP port (R146). -/
def samePeer (d : Drt) (h : DrtHdr) : Bool :=
  match d.link, h.link with
  | some a, some b => a.uid == b.uid
  | none, none => d.ip == h.ip && d.udp == h.udp
  | _, _ => false

/-- The checks of R154 for a datagram other than OPEN, in order. -/
def State.drtCheck (s : State) (h : DrtHdr) : DrtCheck :=
  if h.link = none ∧ (s.drtPort h.port && s.tagOk h.port h.vid) = false then .other
  else if h.sumOk = false ∨ h.magicOk = false ∨ h.lenOk = false then .bad
  else match s.drt? h.session.toNat with
    | some d => if samePeer d h then .known { d with port := h.port, mac := h.mac, link := h.link } else .noSession
    | none => .noSession

/-- Drop a datagram and count it (R135, R154), or tell its sender, at most once per 100 ms per source address (R154). -/
def State.drtDrop (s : State) (h : DrtHdr) (c : DrtCheck) : State :=
  match c with
  | .other => s.count F.ETH_DROP_OTHER 1
  | .bad => s.count F.ETH_DROP_BAD 1
  | .noSession =>
    let key : Word × Option DWord := (h.ip, h.link.map (fun (l : LinkPeer) => l.uid))
    let told := match s.eth.noSession.find? (fun p => p.1 == key) with | some (_, t) => decide (s.us < t + 100000) | none => false
    if told then s
    else
      { s with eth := { s.eth with noSession := (key, s.us) :: s.eth.noSession.filter (fun p => p.1 != key) } }.drtEmit h.link h.port h.mac
        ⟨h.ip, h.udp, tERROR, h.session.toNat, fEND, 0, 0, errPayload .nosession⟩
  | .known _ => s

/-- Why an OPEN is refused, in the order of R146; over the link DRTCFG.EN and the DRTTEN bit are not checked (R452). -/
def State.openCheck (s : State) (link : Bool) (p : DrtOpenP) : Option Er :=
  if link = false ∧ s.bit F.ETH_DRTCFG_EN = false then some .drtoff
  else if s.enabled p.tenant = false ∨ (link = false ∧ s.drtTen p.tenant = false) then some .notenant
  else match s.queue? p.queue.toNat with
    | none => some .noqueue
    | some q =>
      if q.tenant ≠ p.tenant then some .noqueue
      else if q.drt = false then some .notdrt
      else if q.bound.isSome = true then some .qbound
      else if 64 ≤ s.eth.drt.length then some .sessions
      else if p.winreq.toNat = 0 ∨ 256 < p.winreq.toNat then some .badarg
      else none

/-- The next session ID in turn, from 1 to 65,535, skipping those in use (R146). -/
def State.drtId (s : State) : Nat → Nat → Nat
  | 0, k => k
  | n + 1, k => if (s.drt? k).isSome then State.drtId s n (if k = 65535 then 1 else k + 1) else k

/-- DURSEQ: every record of the queue below it has reached a final level (R145). -/
def State.durSeq (s : State) (q : Queue) : Nat :=
  s.qmg.recs.foldl (fun n r => if r.qid = q.id ∧ r.carried = false ∧ r.final = false then min n r.seq else n) q.nextReported

/-- Bind a session to a queue and answer with OPENACK (R145, R146). A session opened while CART is not WRITING is told so (R198). -/
def State.drtBind (s : State) (h : DrtHdr) (p : DrtOpenP) (q : Queue) : State :=
  let id := s.drtId 65 s.eth.nextId
  let win := min p.winreq.toNat (s.getF F.ETH_DRTCFG_WINMAX)
  let seg := if h.link.isSome then 960 else s.mtu h.port - 68
  let ack := beBytes 2 q.id.val ++ beBytes 2 win ++ beBytes 2 seg ++ beBytes 2 0 ++ beBytes 6 q.nextReported ++ beBytes 2 0 ++ beBytes 6 (s.durSeq q) ++ beBytes 2 0
  let d : Drt :=
    { id := id, link := h.link, port := h.port, mac := h.mac, ip := h.ip, udp := h.udp, tenant := p.tenant, qid := q.id, nonce := h.aux, win := win, maxseg := seg
      cum := 0, held := [], part := none, ridx := 0, nacc := 0, nsec := 0, ndur := 0, rbase := q.nextSeq, dseq := 0, sinceAck := 0, ackDue := false
      lastAck := none, lastWin := win, final := none, closing := false, cut := false, openAck := ack, notes := [], wait := [], stuck := none }
  let s := s.setQueue { q with bound := some id }
  let s := { s with eth := { s.eth with drt := s.eth.drt ++ [d], nextId := if id = 65535 then 1 else id + 1 } }
  let s := s.drtSend d tOPENACK 0 h.aux.toNat ack
  if s.cart ≠ .writing then
    match s.drt? id with
    | some d => s.note d (s.noteOn p.tenant) 1 (s.waiting p.tenant)
    | none => s
  else s

/-- A datagram that passed the checks of R154 tells where its peer is (R136); one over the link has no Ethernet peer. -/
def State.hear (s : State) (h : DrtHdr) : State := if h.link.isNone then s.heard h.port h.mac h.ip else s

/-- Does a frame meet a full XC-3 (R32, R137); a datagram over the link crosses XC-5, whose credits hold the sender. -/
def drtAtFull (h : DrtHdr) : Bool := h.xc3Full && h.link.isNone

/-- Send an ERROR datagram that belongs to no session (R146, R158). -/
def State.drtRefuse (s : State) (h : DrtHdr) (e : Er) : State := s.drtEmit h.link h.port h.mac ⟨h.ip, h.udp, tERROR, 0, fEND, 0, 0, errPayload e⟩

/-- Serve an OPEN that passed the checks of R154 (R146). A repeated OPEN, one of the same peer with the same NONCE that names the same tenant and queue, gets the same OPENACK again; one that names
another tenant or queue is a new OPEN (DESIGN CHOICE, log entry 104). -/
def State.drtServe (s : State) (h : DrtHdr) (p : DrtOpenP) : State :=
  match s.eth.drt.find? (fun d => samePeer d h && d.nonce == h.aux && d.tenant == p.tenant && d.qid.val == p.queue.toNat) with
  | some d => s.drtEmit h.link h.port h.mac ⟨h.ip, h.udp, tOPENACK, d.id, 0, 0, h.aux.toNat, d.openAck⟩
  | none =>
    match s.openCheck h.link.isSome p, s.queue? p.queue.toNat with
    | none, some q => s.drtBind h p q
    | some e, _ => s.drtRefuse h e
    | none, none => s

/-- DRT_OPEN (R146, R154): one addressed to a port is a wake event; while D1 is off none is answered (R400). -/
def execDrtOpen (h : DrtHdr) (p : DrtOpenP) (s : State) : Host.Outcome State Fault Refusal :=
  if drtAtFull h = true then .next (s.count F.ETH_DROP_FULL 1)
  else if h.link = none ∧ (s.drtPort h.port && s.tagOk h.port h.vid) = false then .next (s.drtDrop h .other)
  else if h.sumOk = false ∨ h.magicOk = false ∨ h.lenOk = false ∨ h.session ≠ 0#16 then .next (s.drtDrop h .bad)
  else
    let s := (s.hear h).edge h.link.isNone .eth
    if s.domainOn 1 = false then .next s else .next (s.drtServe h p)

/-- Does a segment follow R148 in the place it has: the first of its record at OFFSET 0, each further one where the last ended, all of one RLEN, none past it. -/
def segOk (d : Drt) (g : DrtSeg) : Bool :=
  g.ridx.toNat == d.ridx && decide (1 ≤ g.rlen.toNat ∧ g.rlen.toNat ≤ 8388608) && decide (g.offset.toNat + g.data.length ≤ g.rlen.toNat) &&
  (match d.part with
   | none => g.offset == 0#32
   | some p => g.offset.toNat == p.got && g.rlen.toNat == p.rlen)

/-- Write a segment's bytes at its place in the record's pages. -/
def writeAt (m : List (Nat × Byte)) (pages : List Nat) (off : Nat) : List Byte → List (Nat × Byte)
  | [] => m
  | b :: bs => writeAt (mset m (pages.getD (off / pageBytes) 0 * pageBytes + off % pageBytes) b) pages (off + 1) bs

/-- A complete DRT record becomes ACCEPTED with the sequence number of its RIDX (R149). -/
def State.drtAccept (s : State) (d : Drt) (q : Queue) (p : Part) : State :=
  let r : Rec :=
    { uid := s.qmg.nextUid, tenant := d.tenant, qid := d.qid, seq := d.rbase + d.ridx, tstamp := p.ts, locked := p.locked, length := p.rlen, cid := 0#16, slot := 0, addr := 0#64
      level := .accepted, acc := s.qmg.nextAcc, sec := none, unsec := false, reported := 0, pages := p.pages, feed := none, ds := [], whole := false
      barriers := p.bars, drt := true, carried := false, replay := false
      body := none, hostts := p.hostts, mark := p.mark, lent := none }
  let s := (s.addRec r).setQueue { q with nextSeq := d.rbase + d.ridx + 1 }
  ({ s with qmg := { s.qmg with nextAcc := s.qmg.nextAcc + 1 } }.tookBytes p.rlen).setDrt { d with part := none, ridx := d.ridx + 1 }

/-- One contiguous segment (R149): checked, its bytes stored, its record accepted when it ends. -/
def State.drtSegment (s : State) (d : Drt) (h : Held) (bars : List Nat) : State :=
  match s.queue? d.qid.val with
  | none => s
  | some q =>
    if segOk d h.seg = false then s.drtEnd d .drtorder h.seg.ridx.toNat
    else if seqMax < d.rbase + d.ridx then s.drtEnd d .seqend h.seg.ridx.toNat
    else
      let (s, p) := match d.part with
        | some p => (s, p)
        | none =>
          let (ps, s) := s.takePages (pagesFor h.seg.rlen.toNat)
          (s, ⟨h.seg.rlen.toNat, 0, ps, if h.ts then h.seg.tstamp.toNat else h.at', h.locked, h.ts, h.barrier, bars⟩)
      let s := { s with tank := writeAt s.tank p.pages p.got h.seg.data }.fresh p.pages p.got h.seg.data.length
      let p := { p with got := p.got + h.seg.data.length }
      if p.got = p.rlen then s.drtAccept { d with part := some p } q p else s.setDrt { d with part := some p }

/-- Must a segment wait for Tank room: the first of its record, with no room for the whole record (R153, R210). -/
def State.drtFull (s : State) (d : Drt) (h : Held) : Bool :=
  d.part.isNone && decide (s.roomFor d.tenant < pagesFor h.seg.rlen.toNat ∧ h.seg.rlen.toNat ≤ 8388608 ∧ d.rbase + d.ridx ≤ seqMax) && segOk d h.seg

/-- Contiguous segments go into the Tank in order, as far as it has room (R149; that those without room wait outside it is a DESIGN CHOICE, log entry 105). -/
def State.drtDrain (s : State) (id : Nat) : Nat → State
  | 0 => s
  | n + 1 =>
    match s.drt? id with
    | none => s
    | some d =>
      match d.wait with
      | [] => s
      | (h, bars) :: rest => if s.drtFull d h then s else State.drtDrain ((s.setDrt { d with wait := rest }).drtSegment { d with wait := rest } h bars) id n

/-- CUM advances over held datagrams that are now contiguous (R151). A BARRIER is placed as the first segment of its record becomes contiguous (R181). -/
def State.drtAdvance (s : State) (id : Nat) : Nat → State
  | 0 => s
  | n + 1 =>
    match s.drt? id with
    | none => s
    | some d =>
      match d.held.find? (fun h => h.seq == (d.cum + 1) % 2 ^ 32), s.queue? d.qid.val with
      | some h, some q =>
        let s := if h.seg.offset = 0#32 ∧ h.barrier = true then s.addBarrier q none else s
        State.drtAdvance (s.setDrt { d with cum := (d.cum + 1) % 2 ^ 32, held := d.held.filter (fun x => x.seq != h.seq), wait := d.wait ++ [(h, s.barriersOf d.qid)] }) id n
      | _, _ => s

/-- Answer a CLOSE whose FINALSEQ has been reached: CLOSEACK, the partial record discarded, the queue free (R157). -/
def State.drtClosed (s : State) (id : Nat) : State :=
  match s.drt? id with
  | none => s
  | some d =>
    match d.final with
    | none => s
    | some f =>
      if seqDiff d.cum f < 2 ^ 31 ∧ d.closing = false ∧ d.wait = [] then
        let s := match d.part with | some p => s.freePagesOf p.pages | none => s
        let s := match s.queue? d.qid.val with
          | some q => if q.bound = some d.id then s.setQueue { q with bound := none } else s
          | none => s
        s.drtSend { d with closing := true, cut := d.part.isSome, part := none, held := [] } tCLOSEACK (if d.part.isSome then fPARTIAL else 0) f (s.ackBytes { d with held := [] })
      else s

/-- Bring a session up to date: segments that waited for room go into the Tank, then its level counters and WIN; a change makes an ACK due; a closing session whose records are all DURABLE gets its last ACK and
is freed, at the earliest 20 us after the ACK before (R152, R157). -/
def State.drtSync (s : State) (id : Nat) : State :=
  let s := match s.drt? id with
    | some d => (s.drtDrain id d.wait.length).drtClosed id
    | none => s
  match s.drt? id with
  | none => s
  | some d =>
    let (nd, ns, na) := s.drtLevels d
    let d' := { d with nacc := na, nsec := ns, ndur := nd }
    if d.closing = true ∧ nd = na then (if s.ackFree d = true then (s.drtSend d' tACK fFIN 0 (s.ackBytes d')).drtFree d' else s.setDrt { d' with ackDue := true })
    else if na ≠ d.nacc ∨ ns ≠ d.nsec ∨ nd ≠ d.ndur ∨ s.winOf d' ≠ d.lastWin then s.ackSoon d'
    else s.ackTry d'

def State.drtSyncAll (s : State) : List Drt → State
  | [] => s
  | d :: ds => State.drtSyncAll (s.drtSync d.id) ds

/-- A DATA datagram of a known session, by its SEQ (R151): CUM + 1 is stored whatever WIN is; up to CUM + WIN it is held; the rest is dropped and counted, and an ACK is due. -/
def State.drtTake (s : State) (d : Drt) (h : DrtHdr) (seg : DrtSeg) : State :=
  let n := seqDiff h.seq.toNat d.cum
  if d.closing = true ∨ n = 0 ∨ 2 ^ 31 ≤ n ∨ (d.held.any (fun x => x.seq == h.seq.toNat)) = true then (s.count F.ETH_DROP_DUP 1).ackSoon d
  else if n ≠ 1 ∧ s.winOf d < n then (s.count F.ETH_DROP_WIN 1).ackSoon d
  else
    let d := { d with
      held := d.held ++ [⟨h.seq.toNat, seg, getBits h.flags.toNat 2 1 == 1, getBits h.flags.toNat 3 1 == 1, s.now, s.bit F.ETH_TSTAT_LOCKED⟩]
      sinceAck := d.sinceAck + 1 }
    let s := (((s.setDrt d).drtAdvance d.id 257).drtDrain d.id (d.wait.length + 257)).report
    let s := s.drtClosed d.id
    match s.drt? d.id with
    | some d => if 8 ≤ d.sinceAck then s.ackSoon d else s
    | none => s

/-- A DATA datagram after XC-3 or XC-5 (R149, R151, R152, R154). -/
def State.drtData (s : State) (h : DrtHdr) (seg : DrtSeg) : State :=
  match s.drtCheck h with
  | .known d => if seg.data = [] ∨ d.maxseg < seg.data.length then s.count F.ETH_DROP_BAD 1 else (s.hear h).drtTake d h seg
  | c => s.drtDrop h c

/-- Does a quiesced D1, D7 or D8 hold record segments back in XC-3 and XC-5 (R402; log entry 53). -/
def State.rxHeld (s : State) : Bool := s.quiesced 1 || s.quiesced 7 || s.quiesced 8

/-- Bytes of XC-3 of a port that the segments held there take, with their headers. -/
def State.xc3Used (s : State) (p : Fin 2) : Nat := (s.xc.rx.map (fun x => if x.1.link.isNone && x.1.port == p then 82 + x.2.data.length else 0)).sum

/-- XC-3 of a port (R30). -/
def xc3Bytes : Nat := 2048

/-- DRT_DATA (R32, R137, R402): while a domain it needs is quiesced the segment stands in its FIFO; a frame that finds XC-3 full is dropped whole, and a datagram over the link is held back by the
credits of XC-5 and never dropped. -/
def execDrtData (h : DrtHdr) (seg : DrtSeg) (s : State) : Host.Outcome State Fault Refusal :=
  if drtAtFull h = true then .next (s.count F.ETH_DROP_FULL 1)
  else if s.rxHeld = false then .next (s.drtData h seg)
  else if h.link = none ∧ xc3Bytes < s.xc3Used h.port + 82 + seg.data.length then .next (s.count F.ETH_DROP_FULL 1)
  else .next { s with xc := { s.xc with rx := s.xc.rx ++ [(h, seg)] } }

def State.drtDatas (s : State) : List (DrtHdr × DrtSeg) → State
  | [] => s
  | p :: ps => State.drtDatas (s.drtData p.1 p.2) ps

/-- What stood in XC-3 and XC-5 goes on once nothing holds it back (R33). -/
def State.drtResume (s : State) : State :=
  if s.xc.rx = [] ∨ s.rxHeld = true then s else State.drtDatas { s with xc := { s.xc with rx := [] } } s.xc.rx

/-- DRT_CLOSE: AUX is FINALSEQ; a repeated CLOSE of a closing session gets CLOSEACK again (R157). -/
def execDrtClose (h : DrtHdr) (s : State) : Host.Outcome State Fault Refusal :=
  if drtAtFull h = true then .next (s.count F.ETH_DROP_FULL 1)
  else match s.drtCheck h with
    | .known d =>
      let s := s.hear h
      if d.closing = true then .next (s.drtSend d tCLOSEACK (if d.cut then fPARTIAL else 0) (d.final.getD 0) (s.ackBytes d))
      else .next ((s.setDrt { d with final := some h.aux.toNat }).drtClosed d.id)
    | c => .next (s.drtDrop h c)

/-- DRT_KEEPALIVE makes an ACK due (R152). -/
def execDrtKeepalive (h : DrtHdr) (s : State) : Host.Outcome State Fault Refusal :=
  if drtAtFull h = true then .next (s.count F.ETH_DROP_FULL 1)
  else match s.drtCheck h with
    | .known d => .next ((s.hear h).ackSoon d)
    | c => .next (s.drtDrop h c)

/-- DRT_ACK_TIMER: 200 us after the oldest DATA datagram no ACK covers (R152). -/
def execDrtAckTimer (session : BitVec 16) (s : State) : Host.Outcome State Fault Refusal :=
  match s.drt? session.toNat with
  | some d => if d.sinceAck = 0 then .next s else .next (s.ackSoon d)
  | none => .next s

/-- DRT_GAP_TIMER: a gap below a held datagram has lasted 1 ms (R152). -/
def execDrtGapTimer (session : BitVec 16) (s : State) : Host.Outcome State Fault Refusal :=
  match s.drt? session.toNat with
  | some d => if d.held = [] then .next s else .next (s.ackSoon d)
  | none => .next s

/-- DRT_IDLE_TIMEOUT: no datagram for ETH.DRTIDLE.IDLE seconds while NDUR = NACC; 0 disables it (R155). -/
def execDrtIdleTimeout (session : BitVec 16) (s : State) : Host.Outcome State Fault Refusal :=
  match s.drt? session.toNat with
  | some d => if s.getF F.ETH_DRTIDLE_IDLE = 0 ∨ d.ndur ≠ d.nacc then .next s else .next (s.drtEnd d .idle 0)
  | none => .next s

end Sys2Proof.Machine
end

