-- ==== Sys2Proof/Machine/Drive.lean ====
section
/-! DEFINITION. What the motor drive, the servo and the control loops share: modes and latches of the units (13_motor R352, R366, R367), when HEAD is energised (R365),
when a loop executes (14_control R376), MOT (R79, R367), and the end of motion (R362). -/

namespace Sys2Proof.Machine

/-- A quantity the spec gives exactly and stores as an integer without naming the rounding (log entry 34). -/
def roundQ (q : Rat) : Int := if q.den = 1 then q.num else q.floor + (if Config.roundUp q then 1 else 0)

/-- Two's complement in a field of `n` bits. -/
def toField (n : Nat) (i : Int) : Nat := (BitVec.ofInt n i).toNat
def ofField (n v : Nat) : Int := (BitVec.ofNat n v).toInt

/-! ### Units (R352) -/

def unitBit : MUnit → Nat
  | .supply => 0 | .takeup => 1 | .fan => 2 | .head => 3

def unitName : MUnit → String
  | .supply => "SUPPLY" | .takeup => "TAKEUP" | .fan => "FAN" | .head => "HEAD"

def allUnits : List MUnit := [.supply, .takeup, .fan, .head]

/-- Is the unit's trip latched (R366). -/
def State.latched (s : State) (u : MUnit) : Bool := getBits (s.getF F.MDR_TRIP_LATCHED) (unitBit u) 1 == 1

/-- The mode of an axis (MDR.ASTATa.MODE): 0 OFF, 1 ALIGN, 2 I/f, 3 RUN, 4 CATCH, 5 BRAKE, 6 FOLLOW, 7 HOLD. -/
def State.axMode (s : State) (a : Nat) : Nat := s.getF (F.MDR_ASTAT_MODE a)

def State.setMode (s : State) (a m : Nat) : State := s.setF (F.MDR_ASTAT_MODE a) m

/-- An axis is energised in every mode but OFF (DESIGN CHOICE, log entry 30: CATCH is counted, as R376 counts it). -/
def State.axisOn (s : State) (a : Nat) : Bool := s.axMode a != 0

/-- HEAD is energised by the state of CART, with D6 on, and not while it is tripped (R353, R365). -/
def State.headOn (s : State) : Bool :=
  s.domainOn 6 && !(s.latched .head) && (s.cart == .ready || s.cart == .writing || s.cart == .reading || s.cart == .loading || s.cart == .unloading)

def State.unitOn (s : State) (u : MUnit) : Bool := match u with | .head => s.headOn | u => s.axisOn (unitBit u)

/-- The gates of an axis go off (R353). -/
def State.gatesOff (s : State) (a : Nat) : State := ((s.setMode a 0).setF (F.MDR_ASTAT_OBSOK a) 0).setF (F.MDR_ASTAT_MODLIM a) 0

/-! ### When loops execute (R376) -/

/-- Does loop `n` execute. -/
def State.loopOn (s : State) (n : Nat) : Bool :=
  s.domainOn 6 && match n with
  | 0 | 1 | 2 => s.axisOn n
  | 3 => s.headOn
  | 4 => s.headOn && (s.getF F.SRV_STAT_STATE == 1 || s.getF F.SRV_STAT_STATE == 2) && !(s.bit (F.CLE_LSTAT_OPEN 4))
  | 5 => [3, 6, 7].contains (s.axMode 0)
  | 6 => [3, 6, 7].contains (s.axMode 1)
  | 7 => ([3, 7].contains (s.axMode 0) && [3, 7].contains (s.axMode 1)) || (match s.mdr.start with | some x => x.phase == .running | none => false)
  | _ => s.axMode 2 == 3

/-- Is a loop's state kept: LAT keeps it as long as HEAD is energised (R376). -/
def State.loopKept (s : State) (n : Nat) : Bool := if n = 4 then s.headOn else s.loopOn n

/-- A loop at rest; its detector is kept (R376, collision table of 14_control). -/
def restLoop (s : State) (n : Fin 9) (l : LoopSt) : LoopSt := if s.loopKept n.val then l else { LoopSt.reset n.val with preset := l.preset, toRom := l.toRom, osc := l.osc }

/-- A loop, and its update. -/
def State.loop (s : State) (n : Fin 9) : LoopSt := s.cle.loops[n]
def State.setLoop (s : State) (n : Fin 9) (l : LoopSt) : State := { s with cle := { s.cle with loops := s.cle.loops.set n l } }

/-- The next execution of a loop presets its state, so that its output stays what it was (R390). -/
def State.presetLoop (s : State) (n : Fin 9) : State := s.setLoop n { s.loop n with preset := true }

/-- pi, to twenty places. -/
def piRat : Rat := 314159265358979323846 / 100000000000000000000

/-- A speed in rpm in 2^-16 rad/s, and back. -/
def wOfRpm (rpm : Rat) : Rat := rpm * 2 * piRat * 65536 / 60
def rpmOfW (w : Int) : Int := roundQ (w * 60 / (2 * piRat * 65536))

/-- An axis that CATCH has measured is caught: its current loop begins at the measured back-EMF voltage, and its speed loop without a step (R360, R390; log entry 97). -/
def State.caughtLoops (s : State) (a : Fin 3) : State :=
  if s.axMode a.val = 4 then
    let n : Fin 9 := ⟨a.val, by omega⟩
    let v := Config.backEmf a.val s.mdr.axes[a].w
    (s.setLoop n { s.loop n with out := v, outD := 0, preset := true }).presetLoop (if a.val = 0 then 5 else if a.val = 1 then 6 else 8)
  else s

/-- Loops whose condition has ended go to 0 (R376). -/
def State.tidyLoops (s : State) : State :=
  { s with cle := { s.cle with loops := Vector.ofFn (fun n => restLoop s n s.cle.loops[n]) } }

/-! ### MOT (R367) -/

/-- MOT: TRIPPED while SUPPLY, TAKEUP or HEAD is latched, MOVING while a motion order commands motion, else STOPPED (R367). -/
def State.motOf (s : State) : Mot :=
  if s.latched .supply || s.latched .takeup || s.latched .head then .tripped
  else if s.mdr.order.isSome || s.mdr.stopping then .moving else .stopped

def State.refreshMot (s : State) : State := ({ s with mot := s.motOf }).tidyLoops

/-- The tape starts a controlled stop (R362): an order's start ends with it. -/
def State.beginStop (s : State) : State :=
  if s.axisOn 0 = true ∨ s.axisOn 1 = true then
    ({ s with mdr := { s.mdr with stopping := true, start := none } }).refreshMot
  else { s with mdr := { s.mdr with order := none, stopping := false, start := none } }.refreshMot

/-- SRV with the tape stopped (R331); the LPW count is held (R330). -/
def State.srvOff (s : State) : State :=
  let s := { s with srv := { s.srv with settled := 0, missed := 0, sinceLost := false, hitch := false, held := true } }
  (s.setF F.SRV_STAT_STATE 0).setF F.SRV_STAT_WINHIB 0

/-- The reels' gates go off and the motion is over (R362). -/
def State.endMotion (s : State) : State :=
  let s := (s.gatesOff 0).gatesOff 1
  let s := { s with mdr := { s.mdr with order := none, start := none, stopping := false, vRef := 0 } }
  (((s.setF F.SRV_SPD_CUR 0).setF F.SRV_SPD_MMS 0).srvOff).refreshMot

/-! ### The repetitive memories (R386) -/

def State.clearBins (s : State) : State :=
  { s with cle := { s.cle with sup := { s.cle.sup with bins := [], last := none }, tku := { s.cle.tku with bins := [], last := none } } }

/-! ### Speed steps (R336) -/

/-- Tape speed of a step in cm/s; payload rates in zones C and E in 0.1 MB/s. -/
def stepCms (n : Nat) : Nat := [0, 42, 53, 66, 83, 103, 130, 162, 203, 255, 319, 399, 500].getD n 0
def stepRateC (n : Nat) : Nat := [0, 235, 297, 370, 465, 577, 728, 907, 1137, 1428, 1786, 2234, 2800].getD n 0
def stepRateE (n : Nat) : Nat := [0, 196, 247, 308, 387, 480, 606, 755, 946, 1188, 1487, 1859, 2330].getD n 0

/-! ### References (R362, R363, R368, R377, R382) -/

/-- Saturation to 32 bits (R377). -/
def sat32 (x : Int) : Int := max (-2147483648) (min 2147483647 x)

/-- The divider (R377): the quotient saturates, and a division by 0 yields the limit of the dividend's sign. -/
def quot (n d : Int) : Int := if d = 0 then (if 0 ≤ n then 2147483647 else -2147483648) else sat32 (roundQ (n / (d : Rat)))

/-- The speed the tape is to have, in 2^-16 m/s: that of the commanded step in the direction of motion while a motion order runs the reels, else 0. -/
def State.tapeTarget (s : State) : Rat :=
  let run := s.mdr.order.isSome && !s.mdr.stopping && !s.srv.hitch && s.mdr.start.all (fun x => x.phase == .running)
  if run then (if s.mdr.rev then -1 else 1) * (stepCms s.mdr.step : Rat) * 65536 / 100 else 0

/-- The sign of a value. -/
def sgn (x : Int) : Int := if 0 < x then 1 else if x < 0 then -1 else 0

/-- The speed reference of a reel (R368, R382): `pays` for the one that pays tape out. The tape reference is in 2^-16 m/s and the radius in um. -/
def State.speedRef (s : State) (a : Fin 3) (vRef wOther : Int) : Int :=
  let me := if a.val = 0 then s.cle.sup else s.cle.tku
  let other := if a.val = 0 then s.cle.tku else s.cle.sup
  if s.axMode a.val = 6 then quot (wOther * other.radius) me.radius
  else
    let pays := decide (if 0 ≤ vRef then a.val = 0 else a.val = 1)
    quot (1000000 * (if pays then vRef - sgn vRef * (s.loop 7).out else vRef)) me.radius

/-- The fan's speed reference in 2^-16 rad/s: its share of RATED (R363, R382). -/
def State.fanSpeedRef (s : State) : Int := roundQ (wOfRpm (s.mdr.fanRef / 100 * s.getF (F.MDR_ARATE_RATED 2)))

/-! ### Starting the reels (R360) -/

/-- An axis begins a start: one that is energised passes to speed control, out of FOLLOW at its present current, the others are measured and their angle origin is set (R359, R360,
R390). -/
def State.startAxis (s : State) (a : Fin 3) : State :=
  if s.axisOn a.val = true then (if s.axMode a.val = 6 then s.presetLoop (if a.val = 0 then 5 else 6) else s).setMode a.val 3
  else { s with mdr := { s.mdr with axes := s.mdr.axes.set a { s.mdr.axes[a] with acc := 0 } } }.setMode a.val 4

/-- The tape speed that a reel shows: its own times its radius (R362, R382). -/
def State.reelSpeed (s : State) (a : Fin 3) : Rat := (s.mdr.axes[a].w : Rat) * (if a.val = 0 then s.cle.sup.radius else s.cle.tku.radius) / 1000000

/-- The tape speed at which a start takes the reels over: that of a reel already energised, else 0 until CATCH ends (R360). -/
def State.speedFound (s : State) : Rat := if s.axisOn 0 = true then s.reelSpeed 0 else if s.axisOn 1 = true then s.reelSpeed 1 else 0

/-- A motion order starts the reels (R360). The repetitive memories are cleared unless both reels are energised already (R386). -/
def State.beginMove (s : State) (o : Move) (rev : Bool) (step : Nat) : State :=
  let both := s.axisOn 0 && s.axisOn 1
  let v := s.speedFound
  let s := (s.startAxis 0).startAxis 1
  let s := if both then s else s.clearBins
  let st : Start := ⟨if both then .running else .catching, [], false, false⟩
  let s := { s with mdr := { s.mdr with order := some o, rev := rev, start := some st, stopping := false, step := step, vRef := v } }
  let s := (s.setF F.SRV_STAT_DIR (if rev then 1 else 0)).setF F.SRV_STAT_MODB (if rev then 1 else 0)
  let s := s.setF F.SRV_SPD_CUR (if both then step else 0)
  let s := { s.srvOff with srv := { s.srvOff.srv with bandOk := Vector.replicate 2 false, moves := 0 } }
  s.refreshMot

/-- The step at which reading runs (R344), outside the retries of R316. -/
def State.readStep (s : State) : Nat := if s.bit F.SRV_SPD_AUTO then 12 else s.getF F.SRV_SPD_STEP

end Sys2Proof.Machine
end

