-- ==== Sys2Proof/Machine/Tape.lean ====
section
/-! DEFINITION. The tape as FMT and SEQ see it: changes of CART (R84, R94, R196, R198), bands, wraps and zones (10_dataset R281, R282), the room in a wrap, and
C3 groups lost (R288). -/

namespace Sys2Proof.Machine

/-- The name of a CART value (R79). -/
def Cart.text : Cart → String
  | .none => "NONE" | .present => "PRESENT" | .loading => "LOADING" | .ready => "READY" | .writing => "WRITING" | .reading => "READING"
  | .unloading => "UNLOADING" | .fault => "FAULT"

/-- Send an event to every session but those that are told by a `!DONE` (R94). -/
def State.eventBut (s : State) (lns : List Ln) (name : String) (items : List Item) : State :=
  let ev (s : State) (n : Sid) : State := if lns.any (fun (l : Ln) => l.who == .sess n) then s else s.event n name [] items
  ev (ev (ev (ev (ev (ev s 0) 1) 2) 3) 4) 5

/-- A long operation of the cartridge starts; a second `RECORD STOP` waits with the first (R80). -/
def State.opCart (s : State) (ln : Ln) : State := { s with con := { s.con with opCart := s.con.opCart ++ [ln] } }

/-- It ends with a result: one `!DONE` for each line (R80). -/
def State.cartDone (s : State) (items : List Item) : State := { s with con := { s.con with opCart := [] } }.doneAll items s.con.opCart

/-- The open group is lost: ER 514 (R288). -/
def State.groupLost (s : State) : State :=
  match s.fmt.group with
  | none => s
  | some g => { s with fmt := { s.fmt with group := none } }.log { errRec .c3open .fmt [] with flags := infoFlag, ds := some g.first }

/-- FMT takes its pages as CART becomes WRITING: two dataset buffers, and with C3 the parity accumulators (R289). They are taken like any other pages (R243); with fewer free, those that are (DESIGN CHOICE, log
entry 35). -/
def State.takeFmt (s : State) : State :=
  let (ps, s) := s.takePages (if s.tape.c3 then 2303 else 1270)
  { s with fmt := { s.fmt with pages := ps } }

/-- FMT's pages return when CART leaves WRITING (R289). -/
def State.freeFmt (s : State) : State :=
  let s := s.freePagesOf s.fmt.pages
  { s with fmt := { s.fmt with pages := [] } }

/-- CART changes: the cause, `!CART` to the sessions that no `!DONE` tells, and the notifications; leaving WRITING loses an open group and frees FMT's pages (R94, R196, R198, R288,
R289). -/
def State.setCart (s : State) (c : Cart) (lns : List Ln) : State :=
  if s.cart = c then s
  else
    let old := s.cart
    let s := ({ s with cart := c }.tidyLoops.cause 2).eventBut lns "CART" [⟨"STATE", .word c.text⟩]
    if old = .writing then
      (({ s.freeFmt with fmt := { s.freeFmt.fmt with stopping := false, full := false } }).groupLost).noteEach none 1 s.waiting s.eth.drt
    else if c = .writing then s.takeFmt.notify 2 0
    else s

/-! ### Wraps (R282, R327) -/

/-- The data band of a wrap index: the bands are written in the order 1, 2, 0, 3 (R282, R346). -/
def bandOf (ix : Nat) : Nat :=
  match ix / 48 with
  | 0 => 1 | 1 => 2 | 2 => 0 | _ => 3

/-- The wrap index that the head is on, from SRV.STAT (R327, R346). -/
def State.headIx (s : State) : Nat :=
  48 * (match s.getF F.SRV_STAT_BAND with | 1 => 0 | 2 => 1 | 0 => 2 | _ => 3) + s.getF F.SRV_STAT_WRAP

def wrapOf (ix : Nat) : Nat := ix % 48

/-- The head moves to a wrap. -/
def State.headTo (s : State) (ix : Nat) : State := (s.setF F.SRV_STAT_BAND (bandOf ix)).setF F.SRV_STAT_WRAP (wrapOf ix)

/-- Bands 0 and 3 form zone E (R282). -/
def zoneE (ix : Nat) : Bool := decide (2 ≤ ix / 48)

/-- Odd wraps run in reverse (R282). -/
def wrapRev (ix : Nat) : Bool := ix % 2 == 1

/-- The data region and the wrap starts (R327). -/
def dataLo : Nat := 10000
def dataHi : Nat := 4789999
def wrapStart (ix : Nat) : Nat := if wrapRev ix then dataHi else dataLo

/-- Servo frames of 200 um that a number of slots covers, rounded up: a frame is 344/3 um in zone C and 688/5 um in zone E (R278, R281). -/
def slotsLen (e : Bool) (slots : Nat) : Nat :=
  if e then (688 * slots + 999) / 1000 else (344 * slots + 599) / 600

/-- Length of a full dataset of 327 slots. -/
def fullLen (e : Bool) : Nat := slotsLen e 327

/-- The place a number of servo frames on in the wrap's direction. -/
def onward (ix pos n : Nat) : Nat := if wrapRev ix then pos - n else pos + n

/-- How far a backhitch stops behind the place it left, in servo frames: v * v / 10 + 0.02 m (R342). -/
def hitchBack (cms : Nat) : Nat := (roundQ ((cms * cms : Nat) / (20 : Rat) + 100)).toNat

/-- A place a number of servo frames back, against the wrap's direction. -/
def backward (ix pos n : Nat) : Nat := if wrapRev ix then pos + n else pos - n

/-- Servo frames left between a place and the end of the data region in the wrap's direction. -/
def wrapLeft (ix pos : Nat) : Nat := if wrapRev ix then pos + 1 - dataLo else dataHi + 1 - pos

/-- Is the wrap's room shorter than a full dataset (R282). -/
def State.wrapFull (s : State) : Bool := decide (wrapLeft s.tape.wrap s.tape.append < fullLen (zoneE s.tape.wrap))

/-- Is the cartridge full: the last wrap of band 3 with no room for a full dataset of zone E (R468). -/
def State.cartFull (s : State) : Bool := s.tape.wrap == 191 && s.wrapFull

/-- A backhitch is counted, and the tape comes to rest behind a place (R342). -/
def State.hitchAt (s : State) (ix pos : Nat) : State :=
  (s.count F.SRV_CNT_BACKHITCH 1).setF F.SRV_LPW_LPW (backward ix pos (hitchBack (stepCms s.mdr.step)))

/-- The tape rests after a backhitch, with the reels holding tension (R342, R362). -/
def State.hitchRest (s : State) : State :=
  let s := (s.setMode 0 7).setMode 1 7
  let s := (s.setF F.SRV_SPD_CUR 0).setF F.SRV_SPD_MMS 0
  { s.srvOff with srv := { s.srvOff.srv with hitch := true }, mdr := { s.mdr with vRef := 0 } }.tidyLoops

/-- Pages that the content of a full dataset takes: one dataset buffer of R289. With fewer free, reading stops for room (DESIGN CHOICE, log entry 130). -/
def dsPages : Nat := 635

/-- A backhitch while reading, as the Tank cannot take more decoded data (R344). -/
def State.readHitch (s : State) : State :=
  if s.cart = .reading ∧ s.mot = .moving ∧ s.srv.hitch = false ∧ s.freePages < dsPages then (s.hitchAt s.headIx (s.getF F.SRV_LPW_LPW)).hitchRest else s

/-- Put an entry of the live directory at an index; entries before it that are missing are empty. -/
def putWrap (l : List WrapEnt) (i : Nat) (w : WrapEnt) : List WrapEnt :=
  (List.range (max l.length (i + 1))).map (fun j => if j = i then w else l.getD j ⟨0, 0, 0, 0⟩)

end Sys2Proof.Machine
end

