-- ==== Sys2Proof/Machine/Build.lean ====
section
/-! DEFINITION. How FMT places blocks and forms datasets, and how SEC seals them (10_dataset R268 to R274, R284 to R289, R291 to R296). -/

namespace Sys2Proof.Machine

/-! ### Placing blocks (R215, R216, R272, R274) -/

def Ext.len (x : Ext) : Nat := (x.chunks.map (fun c => c.bytes.length)).sum
def Ext.bytes (x : Ext) : List Byte := x.chunks.flatMap (fun c => c.bytes)

/-- Payload bytes and index entries used. -/
def DsSrc.used (d : DsSrc) : Nat := (d.exts.map Ext.len).sum
def DsSrc.entries (d : DsSrc) : Nat := (d.exts.map (fun x => (x.chunks.filter (fun c => c.head.isSome)).length)).sum

/-- Places in a feed stand in lexicographic order. -/
def placeLt : List Nat → List Nat → Bool
  | [], [] => false
  | [], _ :: _ => true
  | _ :: _, [] => false
  | a :: as, b :: bs => decide (a < b) || (a == b && placeLt as bs)

/-- Does a block of feed `a`, place `b`, stand before one of feed `c`, place `d`. -/
def keyLt (a : Nat) (b : List Nat) (c : Nat) (d : List Nat) : Bool := decide (a < c) || (a == c && placeLt b d)

/-- The keys of everything that is still to be placed and is not encoded yet: blocks being encoded or to be encoded again, and feeds with more to come. -/
def State.unready (s : State) : List (Nat × List Nat) :=
  (List.finRange 4).flatMap (fun e =>
    ((s.eng e).job.map (fun j => (j.feed, j.k))).toList ++ ((s.eng e).feed.bind (fun f => if f.uids = [] then none else some (f.no, f.place))).toList) ++
  s.cdc.redo.map (fun j => (j.feed, j.k))

/-- The next block in the order of feeds (R215), once it is encoded. -/
def State.nextBlock (s : State) : Option BlkOut :=
  let least : Option BlkOut := s.cdc.ready.foldl (fun o b => match o with
    | none => some b
    | some a => if keyLt b.job.feed b.job.k a.job.feed a.job.k then some b else some a) none
  match least with
  | none => none
  | some b => if s.unready.any (fun k => keyLt k.1 k.2 b.job.feed b.job.k) then none else some b

/-- Closed datasets held in the two buffers (R289): those not streamed, and those not yet verified. -/
def State.heldDs (s : State) : Nat := s.fmt.built.length + s.fmt.streams.length

/-- Put a run of bytes of a tenant into the open dataset (R272). -/
def DsSrc.add (d : DsSrc) (t : Tenant) (c : Chunk) (split : Bool) : DsSrc :=
  if d.exts.any (fun x => x.tenant == t) then
    { d with exts := d.exts.map (fun (x : Ext) => if x.tenant = t then { x with chunks := x.chunks ++ [c], split := x.split || split } else x) }
  else { d with exts := d.exts ++ [⟨t, if c.head.isNone then c.bytes.length else 0, split, [c]⟩] }

/-- A new open dataset: the keys of its build, and the rest of a split block first (R272, R293), with which it holds replayed records or new ones (R108, R270). -/
def State.openDs (s : State) (replay : Bool) : State × DsSrc :=
  let d : DsSrc := ⟨[], s.sec.keys, [], [], replay, false, none⟩
  match s.fmt.rest with
  | some (t, bs, us, rp) =>
    ({ s with fmt := { s.fmt with rest := none } }, { d.add t ⟨none, bs⟩ false with uids := us, replay := rp })
  | none => (s, d)

/-- Must the open dataset close before a block of this tenant is placed (R274): full, a 65th tenant, or a 609th index entry. -/
def DsSrc.mustClose (d : DsSrc) (t : Tenant) : Bool :=
  decide (payloadMax ≤ d.used) || (d.exts.length == 64 && !(d.exts.any (fun x => x.tenant == t))) || decide (608 ≤ d.entries)

/-- Mark the records of a placed block: whole with the piece that ends them (R26, R216). -/
def State.markPlaced (s : State) : List PieceRef → State
  | [] => s
  | p :: ps =>
    State.markPlaced (match s.rec? p.uid with
      | some r => if p.off + p.len = r.length then s.setRec { r with whole := true } else s
      | none => s) ps

def State.startsOf (s : State) (ps : List PieceRef) : List (Nat × Bool) :=
  ps.filterMap (fun p => if p.off = 0 then (s.rec? p.uid).map (fun r => (r.tstamp, r.locked)) else none)

/-- What the index says of a block's first piece (R273). -/
def State.idxInfo (s : State) (ps : List PieceRef) : IdxInfo :=
  match ps with
  | [] => ⟨false, 0, 0⟩
  | p :: _ => match s.rec? p.uid with
    | some r => ⟨p.off != 0, r.qid.val, r.seq⟩
    | none => ⟨p.off != 0, 0, 0⟩

/-- Place a block into a dataset that takes it, splitting it only where the payload is full (R272). -/
def State.place (s : State) (d : DsSrc) (b : BlkOut) : State :=
  let room := payloadMax - d.used
  let us := b.job.pieces.map (fun p => p.uid)
  let info := s.idxInfo b.job.pieces
  let d := { d with starts := d.starts ++ s.startsOf b.job.pieces, uids := d.uids ++ us }
  let s := { s with cdc := { s.cdc with ready := s.cdc.ready.filter (fun x => !(x.job.feed == b.job.feed && x.job.k == b.job.k)) } }
  let s := s.markPlaced b.job.pieces
  let s := s.wr64 R.RDC_UBYTES ((s.rd64 R.RDC_UBYTES + (b.job.pieces.map (fun p => 32 + p.len)).sum) % 2 ^ 64)
  let s := s.wr64 R.RDC_CBYTES ((s.rd64 R.RDC_CBYTES + b.bytes.length) % 2 ^ 64)
  if b.bytes.length ≤ room then
    { s with fmt := { s.fmt with cur := some (d.add b.job.tenant ⟨some info, b.bytes⟩ false) } }
  else
    { s with fmt := { s.fmt with
        cur := some (d.add b.job.tenant ⟨some info, b.bytes.take room⟩ true)
        rest := some (b.job.tenant, b.bytes.drop room, us, b.job.replay) } }

/-- BLOCK_PLACE: the next block in feed order goes into the open dataset, when a buffer takes it and the dataset need not close first (R215, R272, R274, R289). Replayed
records share no dataset with new ones, and a block given after a flush waits for its close (R108, R232). -/
def execBlockPlace (s : State) : Host.Outcome State Fault Refusal :=
  if s.cart ≠ .writing then .next s
  else match s.nextBlock with
  | none => .next s
  | some b =>
    if s.fmt.flushTo.any (fun n => decide (n ≤ b.job.feed)) = true then .next s
    else match s.fmt.cur with
    | some d =>
      if d.mustClose b.job.tenant = true ∨ (d.exts ≠ [] ∧ d.replay ≠ b.job.replay) then .next s else .next (s.place d b)
    | none =>
      if 2 ≤ s.heldDs then .next s
      else
        let (s, d) := s.openDs b.job.replay
        .next (if d.replay = b.job.replay then s.place d b else { s with fmt := { s.fmt with cur := some d } })

/-! ### Forming a dataset (R268 to R273) -/

/-- Characters as ASCII bytes, padded with spaces. -/
def asciiPad (n : Nat) (l : List Char) : List Byte :=
  (l.take n).map (fun c => BitVec.ofNat 8 c.toNat) ++ List.replicate (n - (l.take n).length) 0x20#8

/-- The numbers one extent entry needs beside its flags. -/
structure ExtPlace where
  ext : Ext
  offset : Nat
  deriving DecidableEq, Repr

/-- Extents with their payload offsets (R271). -/
def placeExts : Nat → List Ext → List ExtPlace
  | _, [] => []
  | o, x :: xs => ⟨x, o⟩ :: placeExts (o + x.len) xs

/-- The key slot of a tenant in a list of key slots. -/
def keyOf (ks : List KeySlot) (t : Tenant) : Option KeySlot := ks.find? (fun k => k.t == t)

/-- What sealing an extent gives (R292 to R295): its 32-byte entry, its 80-byte seal entry, its bytes on tape, and the link it adds. -/
structure Sealed where
  entry : List Byte
  sealEnt : List Byte
  bytes : List Byte
  link : Option Link
  deriving DecidableEq, Repr

/-- GCM's additional data and the front of the MAC's message: CARTID, DSNUM and extent entry bytes 0 to 23 (R292, R295). -/
def sealFront (cartid : List Byte) (num : Nat) (entry24 : List Byte) : List Byte := cartid ++ beBytes 4 num ++ entry24

/-- The IV of an extent (R295). -/
def sealIv (salt : List Byte) (num tenant : Nat) : List Byte := salt ++ beBytes 4 num ++ beBytes 1 tenant ++ [0#8, 0#8]

/-- Seal one extent under the keys of the build (R292 to R295). `prev` is the tenant's previous link, when the chain goes on. -/
def sealExt (cartid salt : List Byte) (num : Nat) (keys : List KeySlot) (prev : Option Link) (p : ExtPlace) : Sealed :=
  let t := p.ext.tenant
  let k := keyOf keys t
  let hk := k.bind (·.hmac)
  let ak := k.bind (·.aes)
  let prev := match k, prev with
    | some k, some l => if l.gen = k.gen then some l else none
    | _, _ => none
  let fl := (if hk.isSome then 1 else 0) + (if ak.isSome then 2 else 0) + (if hk.isSome ∧ prev.isNone then 4 else 0) + (if p.ext.split then 8 else 0)
  let no := match hk, prev with | some _, some l => l.no + 1 | _, _ => 0
  let pds := match hk, prev with | some _, some l => l.ds | _, _ => 0xFFFFFFFF
  let e24 := beBytes 1 t.val ++ beBytes 1 fl ++ [0#8, 0#8] ++ beBytes 4 p.offset ++ beBytes 4 p.ext.len ++ beBytes 4 p.ext.cont ++ beBytes 4 no ++ beBytes 4 pds
  let plain := p.ext.bytes
  let (bytes, tag) := match ak with
    | some a =>
      let iv := sealIv salt num t.val
      let ct := gcmCrypt a iv plain
      (ct, gcmTag a iv (sealFront cartid num (e24.take 24)) ct)
    | none => (plain, List.replicate 16 0#8)
  let pmac := match prev with | some l => l.mac | none => List.replicate 32 0#8
  match hk with
  | some h =>
    let mac := hmacSha256 h ([0x5A#8, 0x48#8, 0x58#8, 0x31#8] ++ sealFront cartid num (e24.take 24) ++ pmac ++ bytes)
    ⟨e24.take 24 ++ List.replicate 8 0#8, pmac ++ mac ++ tag, bytes, some ⟨t, no, num, mac, (k.map (·.gen)).getD 0⟩⟩
  | none => ⟨e24.take 24 ++ List.replicate 8 0#8, List.replicate 64 0#8 ++ tag, bytes, none⟩

/-- The 16-byte index entries of an extent (R273), from its payload offset on. -/
def indexOf (t : Tenant) : Nat → List Chunk → List Byte
  | _, [] => []
  | o, c :: cs =>
    (match c.head with
     | some h => beBytes 4 o ++ beBytes 1 t.val ++ beBytes 1 (if h.cont then 1 else 0) ++ beBytes 2 h.qid ++ beBytes 6 h.seq ++ [0#8, 0#8]
     | none => []) ++ indexOf t (o + c.bytes.length) cs

/-- Who writes the dataset (R270): CARTID, serial number, firmware version, node, salt and the time. -/
structure Writer where
  cartid : List Byte
  serial : List Byte
  fw : Nat
  node : Nat
  salt : List Byte
  now : Nat
  deriving DecidableEq, Repr

def State.writer (s : State) : Writer :=
  ⟨asciiPad 16 s.tape.id, asciiPad 16 s.boot.fuses.serial, s.boot.version.toNat, if s.bit F.XLK_STAT_IDVALID then s.getF F.XLK_STAT_NODE else 0xFFFF, s.sec.salt, s.now⟩

/-- The fixed header (R270). -/
def fixedHeader (w : Writer) (d : DsSrc) (num : Nat) : List Byte :=
  let fl := (if d.replay then 1 else 0) + (if d.flushed then 2 else 0) + (if d.starts.any (fun x => !x.2) then 4 else 0)
  let tf := if d.starts = [] then 2 ^ 64 - 1 else d.starts.foldl (fun m x => min m x.1) (2 ^ 64 - 1)
  let tl := d.starts.foldl (fun m x => max m x.1) 0
  let h := beBytes 4 0x44594453 ++ beBytes 1 1 ++ beBytes 1 fl ++ beBytes 1 d.exts.length ++ [0#8] ++ beBytes 4 num ++ beBytes 4 (d.supers.getD 0xFFFFFFFF)
    ++ beBytes 4 d.used ++ beBytes 2 d.entries ++ beBytes 2 w.node ++ beBytes 8 tf ++ beBytes 8 tl ++ beBytes 8 w.now ++ w.cartid ++ w.serial ++ beBytes 4 w.fw ++ w.salt
  let h := padTake 508 h
  h ++ beBytes 4 (crc32 h)

/-- The sealed extents of a dataset, each with its tenant's previous link. -/
def sealAll (w : Writer) (d : DsSrc) (num : Nat) (chains : List Link) : List Sealed :=
  (placeExts 0 d.exts).map (fun p => sealExt w.cartid w.salt num d.keys (chains.find? (fun l => l.t == p.ext.tenant)) p)

/-- The content of a dataset (R269). -/
def dsContent (w : Writer) (d : DsSrc) (num : Nat) (ss : List Sealed) : List Byte :=
  fixedHeader w d num ++ padTake 2048 (ss.flatMap (·.entry)) ++ padTake 5120 (ss.flatMap (·.sealEnt))
    ++ padTake 9728 ((placeExts 0 d.exts).flatMap (fun p => indexOf p.ext.tenant p.offset p.ext.chunks)) ++ ss.flatMap (·.bytes)

/-- Chains with new links in place of the tenants' old ones (R293). -/
def putLinks (chains links : List Link) : List Link := links ++ chains.filter (fun l => !(links.any (fun n => n.t == l.t)))

/-- The group with a member at a position (R286, R287). -/
def Group.put (g : Group) (pos num : Nat) (content : List Byte) : Group :=
  { g with
    first := if pos = 0 then num else g.first
    next := max g.next (pos + 1)
    members := (pos, content) :: g.members.filter (fun m => m.1 != pos) }

/-- Form a dataset at a group position and give it the next number (R268 to R274, R286). -/
def State.form (s : State) (d : DsSrc) (g : Option Group) (pos : Nat) : State × Built :=
  let num := s.fmt.nextDs
  let w := s.writer
  let ss := sealAll w d num s.sec.chains
  let content := dsContent w d num ss
  let links := ss.filterMap (·.link)
  let g' : Option Group := if s.tape.c3 then some ((g.getD ⟨num, 0, [], num⟩).put pos num content) else none
  let b : Built :=
    { src := d, num := num, kind := 0, pos := pos, gdist := match g' with | some g => num - g.first | none => 0, k := 0, nsub := nsubFor d.used
      content := content, links := links, grp := g' }
  ({ s with fmt := { s.fmt with nextDs := num + 1 }, sec := { s.sec with chains := putLinks s.sec.chains links } }, b)

/-- The parity datasets of a group (R287): positions 14 and 15, numbers `num` and `num + 1`. -/
def parityOf (g : Group) (num : Nat) : List Built :=
  let nsub := g.members.foldl (fun n m => max n ((m.2.length + subsetBytes - 1) / subsetBytes)) 1
  let mk (j : Nat) : Built :=
    { src := ⟨[], [], [], [], false, false, none⟩, num := num + j, kind := 1, pos := 14 + j, gdist := num + j - g.first, k := g.members.length, nsub := nsub
      content := c3Content g.members j (subsetBytes * nsub), links := [], grp := some g }
  [mk 0, mk 1]

/-- The open group ends and its parity datasets are written (R288). -/
def State.endGroup (s : State) : State :=
  match s.fmt.group with
  | none => s
  | some g =>
    if g.members = [] then { s with fmt := { s.fmt with group := none } }
    else { s with fmt := { s.fmt with group := none, built := s.fmt.built ++ parityOf g s.fmt.nextDs, nextDs := s.fmt.nextDs + 2 } }

/-- Close a dataset: it is formed at the group's next position, and position 13 ends the group (R274, R286, R288). -/
def State.closeWith (s : State) (d : DsSrc) : State :=
  let pos := if s.tape.c3 then (match s.fmt.group with | some g => g.next | none => 0) else 0
  let (s, b) := s.form d s.fmt.group pos
  let s := { s with fmt := { s.fmt with built := s.fmt.built ++ [b], group := b.grp } }
  if s.tape.c3 = true ∧ pos = 13 then s.endGroup else s

/-- Close the open dataset; one that holds no extent is never written (R268). -/
def State.closeDs (s : State) (flushed : Bool) : State :=
  match s.fmt.cur with
  | none => s
  | some d =>
    let s := { s with fmt := { s.fmt with cur := none } }
    if d.exts = [] then s else s.closeWith { d with flushed := flushed }

/-- Is the open dataset at one of its close causes, apart from a flush (R274). -/
def State.closeDue (s : State) : Bool :=
  match s.fmt.cur with
  | none => false
  | some d => decide (payloadMax ≤ d.used) || (match s.nextBlock with
      | some b => d.mustClose b.job.tenant || (d.exts != [] && d.replay != b.job.replay)
      | none => false)

/-- DATASET_CLOSE (R274): full, a 65th tenant, or a 609th entry; the flush has its own row. -/
def execDatasetClose (s : State) : Host.Outcome State Fault Refusal :=
  if s.closeDue = true then .next (s.closeDs false) else .next s

/-- The lines whose `FLUSH` has waited for the close of the flushes up to number `k` are answered with the number of the dataset it closed (R84). -/
def State.answerFlush (s : State) (k : Nat) (v : Val) : State :=
  let ls := s.con.opFlush.filter (fun p => decide (p.1 ≤ k))
  ls.foldl (fun s p => s.reply p.2 [] (.ok [⟨"DS", v⟩])) { s with con := { s.con with opFlush := s.con.opFlush.filter (fun p => !decide (p.1 ≤ k)) } }

/-- The first flush closes the open dataset (R84, R232); in a `RECORD STOP` the open group ends with the last (R288). -/
def State.flushClose (s : State) : State :=
  let k := s.fmt.flushTo.headD 0
  let before := s.fmt.built.length
  let n := s.fmt.nextDs
  let s := { s with fmt := { s.fmt with flushTo := s.fmt.flushTo.drop 1 } }.closeDs true
  let s := s.answerFlush k (if s.fmt.built.length = before then .dash else .num n)
  if s.fmt.stopping = true ∧ s.fmt.flushTo = [] then s.endGroup else s

/-- FLUSH_DATASET_CLOSE: once every feed given before the flush is placed (R232). The rest of a split block closes with it, in a dataset of its kind (R108, R110, R270). -/
def execFlushDatasetClose (s : State) : Host.Outcome State Fault Refusal :=
  let s := if s.fmt.cur.isNone = true ∧ s.fmt.rest.isSome = true ∧ s.fmt.flushTo ≠ [] ∧ s.heldDs < 2 then
      let (s, d) := s.openDs false
      { s with fmt := { s.fmt with cur := some d } }
    else s
  if s.flushReady = true then .next s.flushClose else .next s

end Sys2Proof.Machine
end

