-- ==== Sys2Proof/Machine/FixArea.lean ====
section
/-! DEFINITION. The bytes of ERR records (17_errors R471, R472) and of the Fixer's areas, big-endian: control blocks (15_power R416), the ERR save area (R414), and dumped records with their metadata
units (R417). The layout of the tape hint in the journal is not given (R347), and its bytes are not shown. -/

namespace Sys2Proof.Machine

def oneIf (b : Bool) : Nat := if b then 1 else 0

/-! ### ERR records (R471) -/

def srcKind : RecSrc → Nat
  | .device => 0 | .pf => 1 | .session _ => 2 | .vf => 3 | .func n => if n = 0 then 1 else 3 | .master _ => 4 | .drt _ => 5

def srcId : RecSrc → Nat
  | .session n => n | .vf => 0xFFFF | .func n => n | .master n => n | .device => 0xFFFF | .pf => 0xFFFF | .drt _ => 0xFFFF

def flagByte (f : RecFlags) : Nat := oneIf f.tmo + 2 * oneIf f.retry + 4 * oneIf f.unknown + 8 * oneIf f.info + 16 * oneIf f.restored

/-- Bytes 0 to 59 of a record. -/
def recFront (r : ErrRec) : List Byte :=
  let tx := (charBytes (infoText r.info [])).take 24
  beBytes 4 r.seq ++ beBytes 2 r.code.code ++ beBytes 1 (flagByte r.flags) ++ beBytes 1 (srcKind r.src) ++ beBytes 8 r.t ++
    charBytes r.blk.text.toList ++ [0#8] ++ beBytes 2 (srcId r.src) ++ beBytes 2 (r.tenant.getD 0xFFFF) ++ beBytes 2 (r.qid.getD 0xFFFF) ++
    beBytes 6 (r.rseq.getD 0xFFFFFFFFFFFF) ++ beBytes 4 (r.ds.getD 0xFFFFFFFF) ++ tx ++ List.replicate (24 - tx.length) 0#8

def recWhole (r : ErrRec) : List Byte := recFront r ++ beBytes 4 (crc32 (recFront r))

/-! ### The journal area (R416) -/

/-- Units of the dump area, and where the areas of the journal lie (R261, R416). -/
def dumpUnits : Nat := 61440
def ctlBase (seq : Nat) : Nat := 0x3C0000 + 0x200 * (seq % 2)
def errSave : Nat := 0x3C1000

/-- UNITS is valid only while STATE is DUMPED; what it holds otherwise is a free value (R416; log entry 62). -/
def Journal.unitsField (j : Journal) : Nat := if j.st = 2 then j.units else (Config.openUnits j.seq).toNat

/-- Bytes 0 to 507 of a control block. -/
def Journal.front (j : Journal) : List Byte :=
  beBytes 4 0x44594658 ++ beBytes 4 j.seq ++ beBytes 1 j.st ++ beBytes 3 0 ++ beBytes 4 j.start ++ beBytes 4 j.charged ++ beBytes 4 j.chgBytes ++ beBytes 4 j.unitsField ++
    beBytes 4 j.released ++ beBytes 8 j.dumps ++ beBytes 8 j.total ++ beBytes 8 j.tpfail ++ List.replicate 452 0#8

/-- A control block: 512 bytes, the last four the CRC-32 over the others. -/
def Journal.block (j : Journal) : List Byte := j.front ++ beBytes 4 (crc32 j.front)

/-- The control block is written, in turn with the other one. -/
def State.writeCtl (s : State) : State := s.emit (.fixWritten (ctlBase s.jrn.seq) s.jrn.block)

/-! ### Dumped records (R417) -/

/-- Bytes 0 to 59 of a metadata unit: `dumps` is the dump's DUMPS value, `k` the place in charge order. -/
def DumpRec.front (d : DumpRec) (dumps k : Nat) : List Byte :=
  beBytes 2 0x4458 ++ beBytes 1 (oneIf d.mark + 2 * oneIf d.hostts + 4 * oneIf d.bad) ++ beBytes 1 d.tenant.val ++ beBytes 2 d.qid.val ++ beBytes 6 d.seq ++ beBytes 8 d.tstamp ++
    beBytes 4 d.data.length ++ beBytes 4 dumps ++ beBytes 4 k ++ beBytes 4 (crc32 d.data) ++ List.replicate 24 0#8

/-- A record in the dump area: its metadata unit and its data. -/
def DumpRec.bytes (d : DumpRec) (dumps k : Nat) : List Byte := d.front dumps k ++ beBytes 4 (crc32 (d.front dumps k)) ++ d.data

/-- Records are written one after another from a unit on, each in its own units, wrapping at the end of the dump area (R261, R414). -/
def State.writeRecs (s : State) (dumps : Nat) : Nat → Nat → List DumpRec → State
  | _, _, [] => s
  | unit, k, d :: ds =>
    let l := d.bytes dumps k
    let room := 64 * (dumpUnits - unit)
    let s := s.emit (.fixWritten (64 * unit) (l.take room))
    let s := if l.length ≤ room then s else s.emit (.fixWritten 0 (l.drop room))
    State.writeRecs s dumps ((unit + chargeOf d.data.length / 64) % dumpUnits) (k + 1) ds

/-- The ERR records that the journal keeps are written (R414 step 3). -/
def State.writeErrs (s : State) : State := s.emit (.fixWritten errSave (s.jrn.errs.flatMap recWhole))

/-- A dump or a save writes the ERR records and the records it holds (R414 steps 3 and 4). -/
def State.writeDump (s : State) : State := s.writeErrs.writeRecs s.jrn.dumps s.jrn.start 0 s.jrn.recs

end Sys2Proof.Machine
end

