-- ==== Sys2Proof/Machine/Write.lean ====
section
/-! DEFINITION. Streaming datasets to tape, the rewrite pool, verdicts, durability and abandonment (10_dataset R280 to R288; 11_read_channel R310 to R314, R318). -/

namespace Sys2Proof.Machine

/-! ### The Loupe's triggers (R318, R319) -/

/-- The trigger event, when the Loupe is armed, not yet triggered, and set to it on this input (R318). -/
def State.loupeEvent (s : State) (trig input : Nat) : State :=
  let l := s.rch.loupe
  if l.armed = true ∧ l.fired = none ∧ s.getF F.RCH_LPCFG_TRIG = trig ∧ s.getF F.RCH_LPCFG_INPUT = input then
    { s with rch := { s.rch with loupe := { l with fired := some 0 } } }
  else s

/-! ### Writing (R280, R283, R332) -/

/-- The row header of a row of a dataset (R279). -/
def State.headerOf (s : State) (b : Built) (kind subset : Nat) (rewrite : Bool) (row : Nat) : List Byte :=
  rowHeader b.num kind subset rewrite row s.tape.c3 b.nsub b.pos b.k b.gdist

/-- Put a stream back. -/
def State.setStream (s : State) (x : Stream) : State :=
  { s with fmt := { s.fmt with streams := s.fmt.streams.map (fun (y : Stream) => if y.ds.num = x.ds.num then x else y) } }

/-- Does the room left in the wrap take the next dataset: a full dataset's room for data (R282); its own length for parity once the data region is full (R468). -/
def State.fits (s : State) (b : Built) : Bool :=
  if s.fmt.full then b.kind == 1 && decide (slotsLen (zoneE s.tape.wrap) (slotCount b.nsub) ≤ wrapLeft s.tape.wrap s.tape.append) else !s.wrapFull

/-- Is the zone's write synthesiser locked: after a loss writing halts at the end of the dataset (R38). -/
def State.writeClock (s : State) : Bool := s.bit (if zoneE s.tape.wrap then F.CLK_STAT_CKWE_LOCK else F.CLK_STAT_CKWC_LOCK)

/-- May a dataset start streaming: CART WRITING, no slot of another left, Proof in order (R321, R322), replay before new records (R108), room in the wrap, the write gate
open, the write clock running. -/
def State.mayStream (s : State) (b : Built) : Bool :=
  s.cart == .writing && (s.writing?).isNone && s.prf.test.isNone && !(s.bit F.PRF_STAT_BAD && s.bit F.PRF_CFG_STRICT) && s.domainOn 4 && s.domainOn 5 &&
    (b.src.replay || b.kind == 1 || s.fixer == .ready) && s.fits b && s.gateOpen && s.writeClock

/-- The hint with the highest dataset number started (R347). -/
def State.hintStart (s : State) (num : Nat) : State :=
  let h : Hint := match s.tape.hint with
    | some h => if h.cart = s.tape.id then { h with highest := max h.highest num } else ⟨s.tape.id, s.tape.wrap, 0xFFFFFFFF, s.tape.append, num⟩
    | none => ⟨s.tape.id, s.tape.wrap, 0xFFFFFFFF, s.tape.append, num⟩
  { s with tape := { s.tape with hint := some h, blank := false } }

/-- Where the next dataset starts: at the first LPW of a new wrap, else where the tape is (R335, R341, R342). -/
def State.startAt (s : State) : Nat := if s.tape.append = wrapStart s.tape.wrap then s.tape.append else s.getF F.SRV_LPW_LPW

/-- DATASET_STREAM_START: with the thresholds then in force (R313, R341). -/
def execDatasetStreamStart (s : State) : Host.Outcome State Fault Refusal :=
  match s.fmt.built with
  | [] => .next s
  | b :: bs =>
    if s.mayStream b = false then .next s
    else
      let x : Stream := ⟨b, List.replicate 16 0, [], [], [], 0, false, s.rd R.PRF_CFG, s.startAt, false⟩
      .next ({ s with fmt := { s.fmt with built := bs, streams := s.fmt.streams ++ [x] } }.hintStart b.num)

/-- The first queued row whose last failed copy was not on this channel (R283). -/
def poolPick (ch : Nat) (q : List (Nat × Nat)) : Option (Nat × Nat) := q.find? (fun p => p.2 != ch)

/-- When all slots are written the append point lies past the last of them, and the live directory holds the wrap's datasets (R342, R346, R348). -/
def State.afterSlots (s : State) (x : Stream) : State :=
  if x.done = false then s
  else
    let ix := s.tape.wrap
    let stop := onward ix x.start (slotsLen (zoneE ix) (slotCount x.ds.nsub))
    let old := s.tape.wraps.getD ix ⟨0, 0, 0, 0⟩
    let w : WrapEnt := if ix < s.tape.wraps.length ∧ old.endLpw ≠ 0 then { old with last := x.ds.num, endLpw := stop } else ⟨x.ds.num, x.ds.num, x.start, stop⟩
    { s with tape := { s.tape with append := stop, wraps := putWrap s.tape.wraps ix w } }

/-- The stream whose slot is in flight on a channel: the newest that has begun a slot there. -/
def State.inFlight (s : State) (ch : Nat) : Option Stream := (s.fmt.streams.filter (fun x => decide (0 < x.next.getD ch 0))).getLast?

/-- A stream whose slot in flight on a channel is cut short: the frame in it will fail verify; a FILL slot has none (R35, R312, R332). -/
def Stream.cutSlot (x : Stream) (ch : Nat) : Stream :=
  { x with frames := x.frames.map (fun f => if f.ch = ch ∧ f.slot + 1 = x.next.getD ch 0 then { f with cut := true } else f) }

/-- The row in flight on a channel is cut short (R332). -/
def State.cutChan (s : State) (ch : Nat) : State :=
  match s.inFlight ch with
  | none => s
  | some x => s.setStream (x.cutSlot ch)

/-- The row in flight on a channel ends with fill, and will fail verify (R35). -/
def State.fillRow (s : State) (ch : Nat) : State :=
  match s.inFlight ch with
  | none => s
  | some x => (s.setStream (x.cutSlot ch)).emit (.rowFill ch)

/-- WRITE_UNDERRUN: the row in the channel's slot ends with fill and will fail verify (R35). -/
def execWriteUnderrun (ch : Chan) (s : State) : Host.Outcome State Fault Refusal := .next (s.fillRow ch.val)

/-- The write gate closes on the frames in flight (R332): those of every channel. -/
def State.cutInFlight (s : State) : State := (List.range 16).foldl State.cutChan s

/-- A lost write synthesiser ends the rows in flight as an underrun does (R38). -/
def State.fillInFlight (s : State) : State := (List.range 16).foldl State.fillRow s

/-! ### Verdicts (R311 to R314) -/

/-- The reason code of a verdict, 0 for a pass; the checks in order (R311). -/
def verdictOf (cut : Bool) (run thr : Nat) (rb : Readback) : Nat :=
  if cut then 6
  else if rb.sync = false then 1
  else if rb.hdrOk = false then 2
  else if run < rb.run then 5
  else if thr < 2 * rb.eA + rb.fA then 3
  else if thr < 2 * rb.eB + rb.fB then 4
  else 0

/-- The longest run of flagged bytes; `n` is the run so far, `m` the longest. -/
def flagRun : Nat → Nat → List (Byte × Bool) → Nat
  | n, m, [] => max n m
  | n, m, (_, f) :: bs => if f then flagRun (n + 1) m bs else flagRun 0 (max n m) bs

/-- The bytes of a codeword: row bytes at even places for A, at odd places for B (R276). -/
def rowHalf (b : Bool) (l : List (Byte × Byte × Bool)) : List (Byte × Byte × Bool) := (l.zipIdx.filter (fun p => (p.2 % 2 == 1) == b)).map (·.1)

/-- Unflagged bytes that differ from the bytes written, and flagged bytes (R311). -/
def errorsOf (l : List (Byte × Byte × Bool)) : Nat × Nat :=
  ((l.filter (fun p => !p.2.2 && p.1 != p.2.1)).length, (l.filter (fun p => p.2.2)).length)

/-- What PRF finds in a frame: the bytes read back compared with the bytes written (R311). Nothing read back is a sync that was not matched (R306). -/
def compareRow (w : List Byte) (b : Option Back) : Readback :=
  match b with
  | some ⟨_, _, some l, lost⟩ =>
    let row := l.drop 12
    let both := List.zipWith (fun x y => (x, y.1, y.2)) (w.drop 12) row
    let a := errorsOf (rowHalf false both)
    let c := errorsOf (rowHalf true both)
    ⟨!lost, (l.take 12).all (fun p => !p.2) && (l.take 12).map (·.1) == w.take 12, flagRun 0 0 row, a.1, a.2, c.1, c.2⟩
  | _ => ⟨false, false, 0, 0, 0, 0, 0⟩

/-- The entry of a slot in the compare buffers, and what was read back of it (R310). -/
def State.written? (s : State) (ch slot : Nat) : Option Written := s.prf.buf.find? (fun w => w.ch == ch && w.slot == slot)
def State.back? (s : State) (ch slot : Nat) : Option Back := s.prf.back.find? (fun b => b.ch == ch && b.slot == slot)

/-- What PRF finds in the frame of a slot. -/
def State.readback (s : State) (ch slot : Nat) : Readback :=
  match s.written? ch slot with
  | some w => compareRow w.bytes (s.back? ch slot)
  | none => compareRow [] none

/-- Has the compare buffer of a channel a free place (R310). -/
def State.bufRoom (s : State) (ch : Nat) : Bool := decide ((s.prf.buf.filter (fun w => w.ch == ch)).length < 4)

/-- A row written goes into the compare buffer of its channel. -/
def State.keepRow (s : State) (ch slot : Nat) (bytes : List Byte) : State := { s with prf := { s.prf with buf := s.prf.buf ++ [⟨ch, slot, bytes⟩] } }

/-- A verdict frees the place of its row (R310). -/
def State.dropRow (s : State) (ch slot : Nat) : State :=
  { s with prf := { s.prf with buf := s.prf.buf.filter (fun w => !(w.ch == ch && w.slot == slot)), back := s.prf.back.filter (fun b => !(b.ch == ch && b.slot == slot)) } }

/-! ### Durability (R24, R109, R110, R176, R284) -/

/-- Is a piece of the record still to be placed, or in a dataset that has not passed. -/
def State.unverified (s : State) (uid : Nat) : Bool :=
  (match s.fmt.cur with | some d => d.uids.contains uid | none => false) || (match s.fmt.rest with | some r => r.2.2.1.contains uid | none => false) ||
  s.fmt.built.any (fun b => b.src.uids.contains uid) || s.fmt.streams.any (fun x => !x.verified && x.ds.src.uids.contains uid)

/-- The journal entry of a dumped record is released; the control block is rewritten with STATE REPLAY, and NONE with the last one (R108, R416). -/
def State.release (s : State) (t : Tenant) (q : Qid) (seq : Nat) : State :=
  let keep (l : List DumpRec) : List DumpRec := l.filter (fun x => !(x.tenant == t && x.qid == q && x.seq == seq))
  let left := keep s.jrn.recs
  ({ s with
    dump := s.dump.map (fun (d : Dump) => { d with recs := keep d.recs })
    jrn := { s.jrn with recs := left, released := s.jrn.released + 1, seq := s.jrn.seq + 1, st := if left = [] then 0 else 3 } }).writeCtl

/-- Records whose every byte has now passed become DURABLE; their pages are free, and a dumped record leaves the journal (R24, R108). -/
def State.durables (s : State) (num : Nat) : List Nat → State
  | [] => s
  | u :: us =>
    State.durables (match s.rec? u with
      | none => s
      | some r =>
        let r := { r with ds := num :: r.ds }
        if r.whole = true ∧ s.unverified u = false then
          let s := (s.setRec { r with level := .durable, pages := [] }).freePagesOf r.pages
          if r.replay then
            s.release r.tenant r.qid r.seq
          else s
        else s.setRec r) num us

/-- ER 910 for each queue of a dump (R110). -/
def State.replayEnds (s : State) : List (Tenant × Qid × Nat) → State
  | [] => s
  | (t, q, n) :: l =>
    State.replayEnds (s.log { errRec .replay .fix [] with flags := infoFlag, tenant := some t.val, qid := some q.val, rseq := some n }) l

/-- QMG.STAT.SECOK has risen or fallen (R198). -/
def State.secChanged (s : State) (was : Bool) : State :=
  if s.secOk = was then s else if s.secOk then s.notify 4 s.resUsed else s.notify 3 0

/-- Replay ends when the last dumped record has passed: FIXER READY, and the records of R110 (R109). -/
def State.replayDone (s : State) : State :=
  match s.dump with
  | some d =>
    if s.fixer = .replay ∧ d.recs = [] then
      let was := s.secOk
      ({ s with dump := none, fixer := .ready }.replayEnds d.queues).secChanged was
    else s
  | none => s

/-- A dataset passes verify (R284): the hint, the verified chains, the records. -/
def State.passDs (s : State) (x : Stream) : State :=
  let x := { x with verified := true }
  let s := s.setStream x
  let stop := onward s.tape.wrap x.start (slotsLen (zoneE s.tape.wrap) (slotCount x.ds.nsub))
  let s := { s with
    tape := { s.tape with hint := s.tape.hint.map (fun (h : Hint) => { h with wrap := s.tape.wrap, num := x.ds.num, endLpw := stop }) }
    sec := { s.sec with verified := putLinks s.sec.verified x.ds.links, cart := s.tape.id }
    fmt := { s.fmt with abandoned := 0, last := some x.ds.num } }
  let s := (s.durables x.ds.num x.ds.src.uids).report
  s.replayDone.drtSyncAll s.eth.drt

/-! ### Abandonment (R284) -/

/-- The newest state of the group a dataset belongs to, in a list of groups with the newest last. -/
def groupOf (gs : List Group) (b : Built) : Option Group :=
  match b.grp with
  | none => none
  | some g => some (((gs.filter (fun x => x.id == g.id)).getLast?).getD g)

/-- Form an abandoned dataset and those behind it again, at their positions in their groups, under new numbers and with the keys then held; a group's parity is formed again too (R284, R286, R292, R293; log
entry 27). `gs` holds the groups as they stand, the newest last. -/
def State.reform (s : State) (gs : List Group) : List Built → State × List Group
  | [] => (s, gs)
  | b :: bs =>
    let g := groupOf gs b
    if b.kind = 0 then
      let (s, b') := s.form { b.src with keys := s.sec.keys } g b.pos
      State.reform { s with fmt := { s.fmt with built := s.fmt.built ++ [b'] } } (gs ++ b'.grp.toList) bs
    else
      let n := s.fmt.nextDs
      let b' := match g with
        | some g => ((parityOf g (n + 14 - b.pos)).getD (b.pos - 14) b)
        | none => { b with num := n, gdist := b.gdist + n - b.num }
      State.reform { s with fmt := { s.fmt with nextDs := n + 1, built := s.fmt.built ++ [{ b' with src := b.src }] } } gs bs

/-- Records that are not DURABLE go back to the state before they were fed (R113, R369). -/
def State.unfeed (s : State) : State :=
  { s with
    qmg := { s.qmg with recs := s.qmg.recs.map (fun (r : Rec) => if r.final then r else { r with feed := none, whole := false, ds := [] }) }
    cdc := { s.cdc with ready := [], redo := [], rdc := s.cdc.rdc.map (fun x => { x with feed := none, job := none, flush := false }) } }

/-- Writing halts: what is in the formatter is given up, an incomplete dataset is abandoned with its number, and its records wait in the Tank (R113, R284, R369). -/
def State.haltWrite (s : State) : State :=
  let lost := s.fmt.streams.filter (fun x => !x.verified)
  let top := s.fmt.streams.foldl (fun n x => max n (x.ds.num + 1)) 0
  let low := s.fmt.built.foldl (fun n b => min n b.num) s.fmt.nextDs
  let s := (s.count F.FMT_CNT_ABANDON lost.length).answerFlush s.sch.nextFeed .dash
  let s := { s with
    fmt := { s.fmt with cur := none, rest := none, built := [], streams := [], nextDs := max top low, flushTo := [], stopping := false, full := false }
    prf := { s.prf with buf := [], back := [] }
    sec := { s.sec with chains := s.sec.verified } }
  s.unfeed

/-- The groups as they stand, the newest last: as each dataset in the formatter leaves its own, and the open one. -/
def State.groups (s : State) (x : Stream) : List Group :=
  x.ds.grp.toList ++ s.fmt.streams.flatMap (fun (y : Stream) => y.ds.grp.toList) ++ s.fmt.built.flatMap (fun (b : Built) => b.grp.toList) ++ s.fmt.group.toList

/-- Take what is built behind out of the formatter: numbers go on after the last one started, and the chains return to their verified links (R284, R294). -/
def State.unbuild (s : State) (x : Stream) : State :=
  let top := s.fmt.streams.foldl (fun n (y : Stream) => max n (y.ds.num + 1)) (x.ds.num + 1)
  let s := { s with fmt := { s.fmt with built := [], nextDs := top } }
  { s with sec := { s.sec with chains := s.sec.verified } }

/-- The abandoned dataset, superseding itself, and those behind it are formed again; the open group stays open as it then stands (R284, R286). -/
def State.reformAll (s : State) (x : Stream) : State :=
  let behind := s.fmt.built
  let again : Built := { x.ds with src := { x.ds.src with supers := some x.ds.num } }
  let (t, gs) := (s.unbuild x).reform (s.groups x) (again :: behind)
  { t with fmt := { t.fmt with group := s.fmt.group.map (fun g => ((gs.filter (fun y => y.id == g.id)).getLast?).getD g) } }

/-- A dataset is abandoned (R284): ER 511; it and those built behind it are formed again; after the third in a row writing stops with ER 513. -/
def State.abandonDs (s : State) (x : Stream) : State :=
  let n := s.fmt.abandoned
  let s := (s.count F.FMT_CNT_ABANDON 1).log { errRec .rewrite .fmt [] with ds := some x.ds.num }
  let rest := s.fmt.streams.filter (fun (y : Stream) => y.ds.num != x.ds.num)
  let s := { s with fmt := { s.fmt with streams := rest, abandoned := n + 1 } }
  if 2 ≤ n then ((((s.haltWrite).setCart .fault s.con.opCart).log (errRec .writefail .fmt [])).cartDone (erItems .writefail [])).beginStop else s.reformAll x

/-- A dataset number that may not be there (R84). -/
def lastVal (n : Option Nat) : Val := match n with | some n => .num n | none => .dash

/-- CART becomes READY at the end of a full data region, with ER 503 (R468). -/
def State.fullDone (s : State) : State :=
  if s.fmt.full = true ∧ s.fmt.streams = [] ∧ s.fmt.built.all (fun b => !(s.fits b)) = true then
    let n := s.fmt.last
    let s := { s with fmt := { s.fmt with group := none } }
    ((((s.haltWrite).setCart .ready s.con.opCart).log { errRec .cartfull .fmt [] with ds := n }).cartDone [⟨"CART", .word "READY"⟩, ⟨"DSLAST", lastVal n⟩]).beginStop
  else s

/-- Writing reaches the end of the last usable wrap: the group ends as RECORD STOP ends it (R468). Datasets of data that find no room are given up. -/
def State.checkFull (s : State) : State :=
  if s.cartFull = true ∧ s.fmt.full = false ∧ s.cart = .writing ∧ (s.writing?).isNone = true then
    let top := s.fmt.streams.foldl (fun n y => max n (y.ds.num + 1)) 0
    let low := s.fmt.built.foldl (fun n b => min n b.num) s.fmt.nextDs
    let s := { s with fmt := { s.fmt with full := true, stopping := true, built := [], cur := none, rest := none, nextDs := max top low } }
    s.endGroup.fullDone
  else s.fullDone

/-- A stream whose slots are written and whose verdicts are in ends: it passed, or it is abandoned (R284). -/
def State.endStream (s : State) (num : Nat) : State :=
  match s.fmt.streams.find? (fun x => x.ds.num == num) with
  | none => s
  | some x =>
    if x.done = true ∧ x.frames = [] then
      if x.verified then ({ s with fmt := { s.fmt with streams := s.fmt.streams.filter (fun (y : Stream) => y.ds.num != num) } }).checkFull
      else (s.abandonDs x).checkFull
    else s

/-- A frame goes to its write element, and its row into the compare buffer (R278, R310). -/
def State.writeRow (s : State) (ch slot : Nat) (hdr row : List Byte) : State :=
  (s.emit (.frame ch (channelBits hdr row))).keepRow ch slot (hdr ++ row)

/-- The next slot of a channel: its row, or in the pool a failed row or FILL (R280, R283). FILL receives no verdict: written last, it ends a dataset whose
verdicts are all in (R284). A row waits for a place in the compare buffer of its channel (R310). -/
def State.frameWrite (s : State) (ch : Chan) : State :=
  match s.writing? with
  | none => s
  | some x =>
    let b := x.ds
    let p := x.next.getD ch.val 0
    if s.gateOpen = false ∨ slotCount b.nsub ≤ p then s
    else
      let next := x.next.set ch.val (p + 1)
      if p < 8 * b.nsub then
        let (sub, row) := slotRow b.nsub ch.val p
        if s.bufRoom ch.val = false then s
        else
          let x := { x with next := next, frames := x.frames ++ [⟨ch.val, p, 128 * sub + row, false⟩] }
          ((s.headBalls.writeRow ch.val p (s.headerOf b b.kind sub false row) (codedRow (subsetRow b.content sub row))).setStream x |>.afterSlots x)
      else
        match poolPick ch.val x.queue with
        | some (r, _) =>
          if s.bufRoom ch.val = false then s
          else
            let x := { x with next := next, queue := x.queue.filter (fun q => q.1 != r), pool := x.pool + 1, frames := x.frames ++ [⟨ch.val, p, r, false⟩] }
            let s := s.count F.FMT_CNT_REWRITES 1
            ((s.headBalls.writeRow ch.val p (s.headerOf b b.kind (r / 128) true (r % 128)) (codedRow (subsetRow b.content (r / 128) (r % 128)))).setStream x |>.afterSlots x)
        | none =>
          let x := { x with next := next }
          ((((s.headBalls.emit (.frame ch.val (channelBits (s.headerOf b 2 0 false 0) (List.replicate 496 0#8)))).setStream x).afterSlots x).endStream b.num)

/-- The modules that write and verify: forward A writes and B verifies (R282). -/
def modName (b : Bool) : String := if b then "B" else "A"

/-- ER 515 after 32 failed verdicts in a row on a channel, at most once a dataset (R314). -/
def State.vfyChan (s : State) (x : Stream) (ch : Nat) : State × Stream :=
  if 32 ≤ s.prf.runs.getD ch 0 ∧ x.said = false then
    let rev := wrapRev s.tape.wrap
    (s.log { errRec .vfychan .prf [⟨"CH", .num ch⟩, ⟨"WR", .word (modName rev)⟩, ⟨"VFY", .word (modName (!rev))⟩] with ds := some x.ds.num }, { x with said := true })
  else (s, x)

/-- FRAME_VERDICT: PRF judges the frame in a slot of a channel by what was read back of it (R310 to R314), and FMT takes the verdict (R283, R284). -/
def execFrameVerdict (ch : Chan) (slot : Nat) (s : State) : Host.Outcome State Fault Refusal :=
  match s.fmt.streams.find? (fun x => x.frames.any (fun f => f.ch == ch.val && f.slot == slot)) with
  | none => .next s
  | some x =>
    match x.frames.find? (fun f => f.ch == ch.val && f.slot == slot) with
    | none => .next s
    | some f =>
      let thr := getBits x.thr.toNat (if zoneE s.tape.wrap then 4 else 0) 4
      let v := verdictOf f.cut (getBits x.thr.toNat 8 8) thr (s.readback ch.val slot)
      let s := s.dropRow ch.val slot
      let x := { x with frames := x.frames.filter (fun g => !(g.ch == ch.val && g.slot == slot)) }
      let s := s.count (F.PRF_VCNT_FRAMES ch.val) 1
      let run := if v = 0 then 0 else s.prf.runs.getD ch.val 0 + 1
      let s := { s with prf := { s.prf with runs := s.prf.runs.set ch.val run } }
      if v = 0 then
        let x := { x with passed := if x.passed.contains f.row then x.passed else f.row :: x.passed }
        let s := s.setStream x
        let s := if x.passed.length = 128 * x.ds.nsub ∧ x.verified = false then s.passDs x else s
        .next (s.endStream x.ds.num)
      else
        let x := { x with queue := x.queue ++ [(f.row, ch.val)] }
        let s := ((s.count (F.PRF_VCNT_FAILS ch.val) 1).setF F.PRF_STAT_LASTREASON v).setF F.PRF_STAT_LASTCH ch.val
        let s := (s.setF F.PRF_STAT_LASTSLOT slot).loupeEvent 2 (ch.val + (if wrapRev s.tape.wrap then 0 else 16))
        let (s, x) := s.vfyChan x ch.val
        .next ((s.setStream x).endStream x.ds.num)

end Sys2Proof.Machine
end

