-- ==== Sys2Proof/Machine/Read.lean ====
section
/-! DEFINITION. READ: fetch, pieces, completion (06_queues R183 to R185), expansion (08_reducer R233, R234, R240), decoding, retries and the seal check
(10_dataset R290, R297; 11_read_channel R315 to R317; 17_errors R474 to R477). -/

namespace Sys2Proof.Machine

/-! ### Completions of READs (R169, R183 to R185) -/

def Outstanding.isRead (o : Outstanding) : Bool := match o.use with | .read _ => true | _ => false

/-- The oldest READ of a queue: READs complete in ring order (R185). -/
def Queue.firstRead (q : Queue) : Option Outstanding := q.out.find? (fun o => o.isRead)

/-- The completion entry of a READ (R169). Without a record its SEQ and TSTAMP are free values (log entry 28). -/
def readCqe (k : Nat) (cid : BitVec 16) (op : ReadOp) (status : Option Er) : Cqe :=
  let seq := match op.got with | some g => g.seq | none => (Config.readSeq k).toNat
  let ts := match op.got with | some g => g.tstamp | none => (Config.readTime k).toNat
  match status with
  | some e => ⟨seq, cid, e.code, cABORTED, false, 0, ts, if e = .shortbuf then (op.got.map (·.rlen)).getD 0 else 0⟩
  | none => ⟨seq, cid, 0, cDONE, (op.got.map (·.replay)).getD false, (op.got.map (·.ds)).getD 0, ts, (op.got.map (·.rlen)).getD 0⟩

/-- End a READ: ABORTED with a status and no byte written, or DONE with the record in its buffer (R183, R184). -/
def State.endRead (s : State) (q : Queue) (o : Outstanding) (op : ReadOp) (status : Option Er) : State :=
  let q' : Queue := { q.retire o.slot with nextAt := match status, op.got with
    | none, some g => some (g.ds, g.qid, g.seq)
    | _, _ => none }
  let k := s.freeCtr
  let s := if op.got.isNone then s.draw else s
  let s := match status, op.got with
    | none, some g => (s.emit (.hostWrite op.d.addr.toNat g.data)).gaveBytes g.data.length
    | _, _ => s
  let s := if status.isSome then { s with rch := { s.rch with seen := s.rch.seen.filter (fun (y : SealSeen) => y.q != q.id) } } else s
  (s.setQueue q').complete q' o.slot (readCqe k o.cid op status)

/-- READs at the head of a queue that have been decided end, in ring order (R185); `n` limits them. -/
def State.readsDone (s : State) (qid : Nat) : Nat → State
  | 0 => s
  | n + 1 =>
    match s.queue? qid with
    | none => s
    | some q =>
      match q.firstRead with
      | none => s
      | some o =>
        match o.use with
        | .read op => match op.status with
          | some e => State.readsDone (s.endRead q o op (some e)) qid n
          | none => s
        | _ => s

/-- Change the READ in a slot of a queue. -/
def State.onRead (s : State) (qid slot : Nat) (f : ReadOp → ReadOp) : State :=
  match s.queue? qid with
  | none => s
  | some q =>
    s.setQueue { q with out := q.out.map (fun (o : Outstanding) => if o.slot = slot then
      { o with use := match o.use with | .read op => .read (f op) | u => u } else o) }

/-- Decide the end of READs: a status sticks once given. -/
def State.failRead (s : State) (qid slot : Nat) (e : Er) : State :=
  (s.onRead qid slot (fun op => { op with status := op.status.or (some e) })).readsDone qid 65536

def State.failReads (s : State) (e : Er) : List (Qid × Nat) → State
  | [] => s
  | (q, n) :: l => State.failReads (s.failRead q.val n e) e l

/-- Every outstanding READ, by queue and slot. -/
def State.allReads (s : State) : List (Qid × Nat) :=
  s.qmg.queues.flatMap (fun q => (q.out.filter (fun o => o.isRead)).map (fun o => (q.id, o.slot)))

def State.readOp? (s : State) (qid slot : Nat) : Option (Queue × Outstanding × ReadOp) :=
  match s.queue? qid with
  | none => none
  | some q => match q.out.find? (fun o => o.slot == slot) with
    | none => none
    | some o => match o.use with
      | .read op => some (q, o, op)
      | _ => none

/-- Why a READ cannot be started (R184), in the order of its table. -/
def State.readRefused (s : State) (q : Queue) (d : Desc) : Option Er :=
  if d.srcT.toNat ≠ q.tenant.val ∧ q.tenant.val ≠ 0 then some .notown
  else if s.cart = .none then some .nocart
  else if s.cart ≠ .ready ∧ s.cart ≠ .reading then some .cartstate
  else none

/-- DESCRIPTOR_FETCH_READ (R165, R183 to R185): the first READ moves CART from READY to READING. -/
def execDescriptorFetchRead (qid : Qid) (d : Desc) (s : State) : Host.Outcome State Fault Refusal :=
  match s.queue? qid.val with
  | none => .next s
  | some q =>
    if s.canFetch q = false then .next s
    else if Desc.goodRead d = false then .next (s.endFetch q d.cid Er.baddesc.code cABORTED)
    else
      let bad := s.readRefused q d
      let s := if bad = none ∧ s.cart = .ready then s.setCart .reading [] else s
      let s := if bad = none ∧ s.mot = .stopped then s.beginMove .read (wrapRev s.headIx) s.readStep else s
      let s := s.setQueue { q.advance with out := q.out ++ [⟨q.head, d.cid, .read ⟨d, s.us, none, bad, []⟩⟩] }
      .next (s.readsDone qid.val 65536)

/-! ### Expanding blocks (R233, R234) -/

/-- Does a piece carry on a record that has been begun (R220, R233). -/
def Got.agrees (g : Got) (p : Piece) : Bool :=
  p.qid == g.qid && p.seq == g.seq && p.tstamp == g.tstamp && p.rlen == g.rlen && p.hostts == g.hostts && p.offset == g.data.length

def Got.whole (g : Got) : Bool := g.data.length == g.rlen

/-- A record begun by its first piece. -/
def startGot (p : Piece) (ds : Nat) (replay : Bool) : Got := ⟨p.qid, p.seq, p.tstamp, p.rlen, p.hostts, ds, replay, p.data⟩

/-- Is a dataset used in place of another one (R285). -/
def replaces (sup : List (Nat × Nat)) (old new : Nat) : Bool := sup.any (fun p => p.1 == old && p.2 == new)

/-- Give a READ the pieces of a block in order (R183, R233). `past` says, for a READ with NEXT, that the record after which it looks has been passed; `lead` that the piece is the block's first, which carries on a
record that is not whole. A later copy of the record takes the place of an earlier one, for a READ with NEXT only where its dataset replaces the other's (R183, R285). Pieces that disagree, or do not carry on one
another, end the READ with 523. -/
def takePieces (d : Desc) (after : Option (Nat × Nat × Nat)) (sup : List (Nat × Nat)) (ds : Nat) (replay : Bool) : List Piece → Bool → Bool → Option Got → Option Got × Bool
  | [], _, _, g => (g, false)
  | p :: ps, past, lead, g =>
    let isNext := d.flags == 2#8
    let past' := past || (match after with | some (_, q, n) => p.qid == q && p.seq == n | none => true)
    match g with
    | some x =>
      let same := p.qid == x.qid && p.seq == x.seq
      let again := same && p.isFirst && decide (x.ds < ds) && (!isNext || replaces sup x.ds ds)
      if x.whole = true then takePieces d after sup ds replay ps past' false (if again then some (startGot p ds replay) else g)
      else if x.agrees p = true then takePieces d after sup ds replay ps past' false (some { x with data := x.data ++ p.data })
      else if again = true then takePieces d after sup ds replay ps past' false (some (startGot p ds replay))
      else if lead = true ∨ same = true then (g, true)
      else takePieces d after sup ds replay ps past' false g
    | none =>
      let mine := if isNext then past && p.isFirst else p.qid == d.srcQ.toNat && p.seq == d.srcSeq.toNat
      if mine = false then takePieces d after sup ds replay ps past' false g
      else if p.isFirst then takePieces d after sup ds replay ps past' false (some (startGot p ds replay)) else (g, true)

/-- Has a READ with NEXT passed the record it follows before a block begins: in tape order the datasets behind the record's, or in it a block that does not hold the record. A dataset that replaces the record's
holds the record too (R183, R285). -/
def passedBlock (after : Option (Nat × Nat × Nat)) (sup : List (Nat × Nat)) (ds : Nat) (ps : List Piece) : Bool :=
  match after with
  | none => true
  | some (d, q, n) => (decide (d < ds) && !(replaces sup d ds)) || (decide (d ≤ ds) && !(ps.any (fun p => p.qid == q && p.seq == n)))

/-- What the READ before a slot of a queue returned, as a READ with NEXT in the slot takes it: the record; nothing, after a READ that failed; unknown, while it is not decided (R183, R185). -/
def afterIn (slot : Nat) : List Outstanding → Option (Option (Nat × Nat × Nat)) → Option (Option (Nat × Nat × Nat))
  | [], a => a
  | o :: os, a =>
    if o.slot = slot then a
    else afterIn slot os (match o.use with
      | .read op => (match op.status, op.got with
        | some _, _ => some none
        | none, some g => if g.whole then some (some (g.ds, g.qid, g.seq)) else none
        | none, none => none)
      | _ => a)

def Queue.after (q : Queue) (slot : Nat) : Option (Option (Nat × Nat × Nat)) := afterIn slot q.out (some q.nextAt)

/-- The ERR record of a failed block or of pieces that disagree (R233, R234). -/
def State.blockErr (s : State) (e : Er) (eng : Fin 4) (t ds : Nat) : State :=
  s.log { errRec e .enl [⟨"ENG", .word (engName true eng)⟩] with tenant := some t, ds := some ds }

/-- Give the pieces to each READ that needs the block and for which the block's extent has passed the seal check (R27, R233). A READ with NEXT waits for the READ before it (R185). -/
def State.givePieces (s : State) (eng : Fin 4) (t ds : Nat) (ps : List Piece) (replay : Bool) : List (Qid × Nat) → State
  | [] => s
  | (q, n) :: l =>
    State.givePieces (match s.readOp? q.val n with
      | none => s
      | some (x, _, op) =>
        if op.status.isSome = true ∨ op.d.srcT.toNat ≠ t ∨ op.checked.contains ds = false then s
        else match (if op.d.flags = 2#8 then x.after n else some none) with
          | none => s
          | some after =>
            let (g, bad) := takePieces op.d after s.rch.sup ds replay ps (passedBlock after s.rch.sup ds ps) true op.got
            let s := s.onRead q.val n (fun op => { op with got := g })
            if bad then (s.blockErr .dbfpiece eng t ds).failRead q.val n .dbfpiece else s) eng t ds ps replay l

/-- A block fails (R234): it is counted, told once, and every READ that needs it ends with its status. -/
def State.blockFails (s : State) (e : Eng) (er : Er) (t ds : Nat) (reads : List (Qid × Nat)) : State :=
  let s := (s.count (F.ENL_ECNT_ERRORS e.val) 1).setF F.ENL_LASTERR_ENGINE e.val
  ((s.setF F.ENL_LASTERR_CODE er.code).blockErr er e t ds).failReads er reads

/-- BLOCK_EXPAND (R233, R234, R240): the engine named ends a block, unless it is disabled or to run a self-test slice first (R237). A block of a dataset that another replaces is passed over (R285). -/
def execBlockExpand (e : Eng) (block : List Byte) (extentTenant : Tenant) (room ds : Nat) (reads : List (Qid × Nat)) (s : State) :
    Host.Outcome State Fault Refusal :=
  if s.domainOn 3 = false then .next s
  else if (List.finRange 4).all (fun e => !(s.enlOn e)) = true then .next (s.failReads .engfail reads)
  else if s.enlOn e = false ∨ (s.cdc.enl[e]).held = true ∨ s.rch.sup.any (fun p => p.1 == ds) = true then .next s
  else
    let s := s.count (F.ENL_ECNT_BLOCKS e.val) 1
    match readBlock extentTenant.val room block with
    | .ok (ps, replay) => .next ((s.givePieces e extentTenant.val ds ps replay reads).holdEnl e)
    | .error er => .next ((s.blockFails e er extentTenant.val ds reads).holdEnl e)

/-- READ_COMPLETE: the oldest READ of its queue ends: with its status, with 434 when its buffer is too small, or DONE; with nothing found it ends with 505, or with NEXT 507
(R183 to R185; log entry 37). -/
def execReadComplete (q : Qid) (slot : Nat) (s : State) : Host.Outcome State Fault Refusal :=
  match s.readOp? q.val slot with
  | none => .next s
  | some (x, o, op) =>
    if (match x.firstRead with | some f => f.slot != o.slot | none => true) = true then .next s
    else match op.status, op.got with
      | some e, _ => .next ((s.endRead x o op (some e)).readsDone q.val 65536)
      | none, some g =>
        if g.data.length ≠ g.rlen then .next s
        else if op.d.length.toNat < g.rlen then .next ((s.endRead x o op (some .shortbuf)).readsDone q.val 65536)
        else .next ((s.endRead x o op none).readsDone q.val 65536)
      | none, none => .next ((s.endRead x o op (some (if op.d.flags = 2#8 then .enddata else .notfound))).readsDone q.val 65536)

/-- The dataset being recovered for a READ (R315). -/
def State.dfmFor (s : State) (q : Qid) (slot : Nat) : Option Dfm :=
  match s.rch.dfm with
  | some d => if d.reads.contains (q, slot) = true then some d else none
  | none => none

/-- Every other READ that a dataset serves has ended. -/
def State.lastOf (s : State) (d : Dfm) (q : Qid) (slot : Nat) : Bool :=
  d.reads.all (fun (p : Qid × Nat) => (p.1 == q && p.2 == slot) || (match s.readOp? p.1.val p.2 with | some (_, _, op) => op.status.isSome | none => true))

/-- The one ERR record of a READ that ended with 506 or 510, with the retries its dataset had begun (R476, R477, R529; DEDUCED, log entry 58). -/
def State.readErr (s : State) (e : Er) (x : Queue) (op : ReadOp) (tmo : Bool) (tries : Nat) (ds : Option Nat) : State :=
  s.log { errRec e (if e = .rtimeout then .qmg else .dfm) [⟨"RETRIES", .num tries⟩, ⟨"SRCT", .num op.d.srcT.toNat⟩] with
    flags := { noFlags with tmo := tmo, retry := decide (0 < tries) }
    src := .func x.tenant.val, tenant := some x.tenant.val, qid := some x.id.val, rseq := some op.d.srcSeq.toNat, ds := ds }

/-- A dataset's ladder takes no further boundary (R317, R475). -/
def State.stopLadder (s : State) : State := { s with rch := { s.rch with dfm := s.rch.dfm.map (fun (d : Dfm) => { d with stop := true }) } }

/-- READ_TIMEOUT: the READ ends with 506, and the ladder that serves it alone stops at its next boundary (R317, R475, R476). -/
def execReadTimeout (q : Qid) (slot : Nat) (s : State) : Host.Outcome State Fault Refusal :=
  match s.readOp? q.val slot with
  | none => .next s
  | some (x, _, op) =>
    if op.status.isSome = true then .next s
    else match s.dfmFor q slot with
      | none => .next ((s.readErr .rtimeout x op true 0 none).failRead q.val slot .rtimeout)
      | some d =>
        let u := s.readErr .rtimeout x op true d.tries (some d.ds)
        .next ((if s.lastOf d q slot = true then u.stopLadder else u).failRead q.val slot .rtimeout)

/-- CART_READING_IDLE (R185). -/
def execCartReadingIdle (s : State) : Host.Outcome State Fault Refusal :=
  if s.cart = .reading ∧ s.allReads = [] then .next ((s.setCart .ready []).beginStop) else .next s

/-! ### Seal check (R297) -/

/-- Bytes of a content. -/
def sub (c : List Byte) (off n : Nat) : List Byte := (c.drop off).take n

/-- An extent as a reader finds it: its entry, seal entry and bytes. -/
structure ExtRead where
  entry : List Byte
  sealEnt : List Byte
  bytes : List Byte
  deriving DecidableEq, Repr

def extRead (c : List Byte) (i : Nat) : ExtRead :=
  let en := sub c (512 + 32 * i) 32
  ⟨en, sub c (2560 + 80 * i) 80, sub c (headerArea + beValue (sub en 4 4)) (beValue (sub en 8 4))⟩

/-- The extent of a tenant in a dataset (R271). -/
def findExt (c : List Byte) (t : Nat) : Option ExtRead :=
  ((List.range (beValue (sub c 6 1))).map (extRead c)).find? (fun x => beValue (x.entry.take 1) == t)

def ExtRead.flag (x : ExtRead) (b : Nat) : Bool := beValue (sub x.entry 1 1) / 2 ^ b % 2 == 1

/-- The checks of R297 in their order, for a READ of tenant `t` by queue `q`; `next` is a READ with NEXT. -/
def State.sealBad (s : State) (c : List Byte) (ds : Nat) (q : Qid) (t : Nat) (next : Bool) (x : ExtRead) : Option Er :=
  let k := s.sec.keys.find? (fun k => k.t.val == t)
  let hk := k.bind (·.hmac)
  let ak := k.bind (·.aes)
  let sealed := x.flag 0
  let enc := x.flag 1
  let front := sealFront (asciiPad 16 s.tape.id) ds (x.entry.take 24)
  let pmac := x.sealEnt.take 32
  let mac := sub x.sealEnt 32 32
  if (sealed && hk.isNone) || (enc && ak.isNone) then some .nokey
  else if enc && gcmTag (ak.getD []) (sealIv (sub c 84 5) ds t) front x.bytes != sub x.sealEnt 64 16 then some .gcmfail
  else if sealed && hmacSha256 (hk.getD []) ([0x5A#8, 0x48#8, 0x58#8, 0x31#8] ++ front ++ pmac ++ x.bytes) != mac then some .sealfail
  else if !sealed && !(s.bit F.SEC_CFG_UNSEALOK) then some .unsealed
  else if next && sealed then
    match s.rch.seen.find? (fun l => l.q == q && l.t.val == t) with
    | none => none
    | some l =>
      let no := beValue (sub x.entry 16 4)
      if l.salt ≠ sub c 84 5 ∨ l.mac = mac ∨ (pmac = l.mac ∧ no = l.no + 1) then none else some .chaingap
  else none

/-- SEC.CNT counts extents: a tenant's extent of the dataset is counted once (R297). -/
def State.countSeal (s : State) (e : Er) (t : Nat) (counted : List Nat) : State :=
  if counted.contains t then s
  else if e = .sealfail then s.count F.SEC_CNT_SEALFAIL 1 else if e = .gcmfail then s.count F.SEC_CNT_GCMFAIL 1 else s

/-- An extent has passed the seal check for a READ (R27), which then goes on from it (R297). -/
def State.sealPass (s : State) (c : List Byte) (ds : Nat) (q : Qid) (n : Nat) (t : Tenant) (x : ExtRead) : State :=
  let s := s.onRead q.val n (fun op => { op with checked := ds :: op.checked })
  if x.flag 0 then
    { s with rch := { s.rch with
      seen := ⟨q, t, beValue (sub x.entry 16 4), sub x.sealEnt 32 32, sub c 84 5⟩ :: s.rch.seen.filter (fun (y : SealSeen) => !(y.q == q && y.t == t)) } }
  else s

/-- Check the extents that READs need, and end those whose check fails (R297); `counted` holds the tenants whose failing extent has been counted. -/
def State.sealReads (s : State) (c : List Byte) (ds : Nat) (counted : List Nat) : List (Qid × Nat) → State
  | [] => s
  | (q, n) :: l =>
    match s.readOp? q.val n with
    | none => State.sealReads s c ds counted l
    | some (_, _, op) =>
      if op.status.isSome then State.sealReads s c ds counted l
      else
        let t := op.d.srcT.toNat
        match findExt c t with
        | none => State.sealReads s c ds counted l
        | some x =>
          match s.sealBad c ds q t (op.d.flags == 2#8) x with
          | some e => State.sealReads ((s.countSeal e t counted).failRead q.val n e) c ds (t :: counted) l
          | none => State.sealReads (s.sealPass c ds q n ⟨op.d.srcT.toNat, by exact op.d.srcT.isLt⟩ x) c ds counted l

/-! ### Decoding (R290, R315 to R317) -/

/-- A row copy reaches DFM (R290 steps 1 and 2, R309): a header with a flagged byte or a wrong CRC has it ignored, and so has FILL; the first copy that C1 corrects is kept, and what its header says of the dataset. -/
def State.takeRow (s : State) (l : List (Byte × Bool)) : State :=
  match (if (l.take 12).any (fun p => p.2) then none else readHeader ((l.take 12).map (·.1))) with
  | none => s
  | some h =>
    if 2 ≤ h.kind ∨ h.num = 0xFFFFFFFF ∨ 40 ≤ h.subset then s
    else
      let seen : DsSeen := ⟨h.num, h.kind == 1, h.nsub, h.c3, h.pos, h.k, h.num - h.gdist⟩
      let s := { s with rch := { s.rch with found := seen :: s.rch.found.filter (fun x => x.num != h.num) } }
      if s.rch.rows.any (fun r => r.ds == h.num && r.subset == h.subset && r.row == h.row) = true then s
      else match c1Row (l.drop 12) with
        | none => s
        | some data => { s with rch := { s.rch with rows := s.rch.rows ++ [⟨h.num, h.subset, h.row, data⟩] } }

/-- The kept row of a dataset, if there is one. -/
def State.keptRow (s : State) (ds sb row : Nat) : Option (List Byte) :=
  (s.rch.rows.find? (fun r => r.ds == ds && r.subset == sb && r.row == row)).map (fun r => r.data)

/-- Rows of a subset that no copy gave (DFM.CNT0.C1FAIL). -/
def State.missing (s : State) (ds sb : Nat) : Nat := ((List.range 128).filter (fun r => (s.keptRow ds sb r).isNone)).length

/-- A subset after C2: its data rows, and whether C2 recovered it; else the rows that are kept (R290 step 3). -/
def State.subsetRows? (s : State) (ds sb : Nat) : List (Option (List Byte)) × Bool :=
  let rows := (List.range 128).map (s.keptRow ds sb)
  match c2Subset rows with
  | some d => (d.map some, true)
  | none => (rows.take subsetRows, false)

/-- The data rows of a dataset after C2, in order. -/
def State.dsRows (s : State) (ds nsub : Nat) : List (Option (List Byte)) := (List.range nsub).flatMap (fun sb => (s.subsetRows? ds sb).1)

/-- A dataset as its headers tell of it. -/
def State.seen? (s : State) (ds : Nat) : Option DsSeen := s.rch.found.find? (fun x => x.num == ds)

/-- The dataset used in place of one; `n` limits the steps (R285). -/
def State.latest (s : State) : Nat → Nat → Nat
  | 0, ds => ds
  | n + 1, ds => match s.rch.sup.find? (fun p => p.1 == ds) with | some p => State.latest s n p.2 | none => ds

/-- Two datasets of one group: their group's first dataset is the same, or one replaces the other (R279, R285). -/
def State.sameGroup (s : State) (a b : DsSeen) : Bool := a.c3 && b.c3 && s.latest 8 a.first == s.latest 8 b.first

/-- The member at a position of a dataset's group; the highest number where there are two (R285). -/
def State.member? (s : State) (d : DsSeen) (pos : Nat) : Option DsSeen :=
  (s.rch.found.filter (fun x => s.sameGroup d x && x.pos == pos)).foldl (fun o x => match o with
    | none => some x
    | some y => if y.num < x.num then some x else some y) none

/-- The number of data datasets of a group, from the headers of its parity datasets; none when no parity has been found (R279, R287). -/
def State.groupK (s : State) (d : DsSeen) : Option Nat := (s.rch.found.find? (fun x => s.sameGroup d x && x.parity)).map (fun x => x.k)

/-- The row of a member at a data row position: 0 where there is no member, or its subsets do not reach the row; none where it lacks the row (R287, R290 step 4). -/
def State.memberRow (s : State) (d : DsSeen) (k row pos : Nat) : Option (List Byte) :=
  if pos = d.pos then none
  else if k ≤ pos ∧ pos < 14 then some (List.replicate rowBytes 0#8)
  else match s.member? d pos with
    | none => none
    | some m => if m.nsub ≤ row / subsetRows then some (List.replicate rowBytes 0#8) else ((s.subsetRows? m.num (row / subsetRows)).1.getD (row % subsetRows) none)

/-- C3 for the data rows that are missing (R290 step 4). -/
def State.c3Rows (s : State) (d : DsSeen) (k : Nat) : Nat → List (Option (List Byte)) → List (Option (List Byte))
  | _, [] => []
  | i, some r :: rs => some r :: State.c3Rows s d k (i + 1) rs
  | i, none :: rs => c3Row ((List.range 16).map (s.memberRow d k i)) d.pos :: State.c3Rows s d k (i + 1) rs

/-- The content of rows none of which is missing. -/
def contentOf (rows : List (Option (List Byte))) : Option (List Byte) :=
  if rows.all (fun r => r.isSome) = true then some (rows.flatMap (fun r => r.getD [])) else none

/-- Is the fixed header sound (R290 step 5). -/
def headerOk (c : List Byte) : Bool := beValue (c.take 4) == 0x44594453 && crc32 (c.take 508) == beValue (sub c 508 4)

/-- What C1, C2 and C3 give of a dataset: its content, and whether C3 rebuilt it. A header that is not sound counts as its two rows missing (R290). -/
def State.decoded (s : State) (ds nsub : Nat) : Option (List Byte × Bool) :=
  let rows := s.dsRows ds nsub
  match (contentOf rows).filter headerOk with
  | some c => some (c, false)
  | none =>
    match s.seen? ds with
    | none => none
    | some d =>
      match s.groupK d with
      | none => none
      | some k =>
        let rows := if (contentOf rows).isSome then [none, none] ++ rows.drop 2 else rows
        ((contentOf (s.c3Rows d k 0 rows)).filter headerOk).map (fun c => (c, true))

/-- What a recovered dataset tells of others: the one it supersedes, and those of its group at its position with lower numbers (R285). -/
def State.learnSup (s : State) (c : List Byte) (ds : Nat) : State :=
  let named := beValue (sub c 12 4)
  let olds := match s.seen? ds with
    | some d => (s.rch.found.filter (fun x => s.sameGroup d x && x.pos == d.pos && decide (x.num < ds))).map (fun x => x.num)
    | none => []
  let olds := if named < ds then named :: olds else olds
  { s with rch := { s.rch with sup := (olds.filter (fun n => !(s.rch.sup.any (fun p => p.1 == n)))).map (fun n => (n, ds)) ++ s.rch.sup } }

/-- Enabled retries of the ladder (R316). -/
def State.ladder (s : State) : List Nat := (List.range 8).filter (fun i => getBits (s.getF F.RCH_RETRY_STEPS) i 1 == 1)

/-- READs that need a dataset that is not recovered end with 510, with one record each (R290, R317, R477). -/
def State.lostReads (s : State) (ds tries : Nat) : List (Qid × Nat) → State
  | [] => s
  | (q, n) :: l =>
    State.lostReads (match s.readOp? q.val n with
      | some (x, _, op) => if op.status.isSome then s else (s.readErr .unrecovered x op false tries (some ds)).failRead q.val n .unrecovered
      | none => s) ds tries l

/-- The tape, while it moves, takes a speed step. -/
def State.passAt (s : State) (step : Nat) : State := if s.moving then s.setF F.SRV_SPD_CUR step else s

/-- The retries of a dataset end, and the settings of the first pass return (R316). -/
def State.ladderEnd (s : State) : State :=
  let u := { s with rch := { s.rch with dfm := none } }
  match s.rch.dfm with
  | some d => if d.tries = 0 then u else u.passAt d.base
  | none => u

/-- A dataset that is not recovered (R317): it is counted, and its READs end. -/
def State.giveUp (s : State) (d : Dfm) : State :=
  let s := ((s.count F.DFM_CNT1_UNREC 1).lostReads d.ds d.tries d.reads).ladderEnd
  { s with rch := { s.rch with rows := s.rch.rows.filter (fun r => decide (d.ds < r.ds)) } }

/-- A dataset is recovered (R290, R297, R315): its retries end, its rows and those of earlier datasets are no longer needed, and the extents that READs need are checked; with too little room in the Tank for another, the tape backhitches (R344; log entry 130). -/
def State.recovered (s : State) (c : List Byte) (p : PassResult) : State :=
  let s := (s.learnSup c p.ds).ladderEnd
  ({ s with rch := { s.rch with rows := s.rch.rows.filter (fun r => decide (p.ds < r.ds)) } }.sealReads c p.ds [] p.reads).readHitch

/-- DATASET_DECODE: a read pass ends (R290, R315): C2 and C3 are applied afresh over the rows kept, and the dataset is recovered, awaits a retry, or is given up. -/
def execDatasetDecode (p : PassResult) (s : State) : Host.Outcome State Fault Refusal :=
  if s.domainOn 4 = false then .next s
  else
    let d : Dfm := match s.rch.dfm with | some d => if d.ds = p.ds then { d with reads := p.reads } else ⟨p.ds, 0, 0, false, p.reads, 0⟩ | none => ⟨p.ds, 0, 0, false, p.reads, 0⟩
    let nsub := match s.seen? p.ds with | some x => x.nsub | none => p.nsub
    let subs := List.range nsub
    let got := s.decoded p.ds nsub
    let s := (s.count F.DFM_CNT0_C1FAIL (subs.map (s.missing p.ds)).sum).count F.DFM_CNT0_C2FAIL (subs.filter (fun sb => !(s.subsetRows? p.ds sb).2)).length
    match got with
    | some (c, false) => .next (s.recovered c p)
    | some (c, true) =>
      let s := (s.count F.DFM_CNT1_C3REB 1).log { errRec .c3rebuild .dfm [] with flags := infoFlag, ds := some p.ds }
      .next (s.recovered c p)
    | none =>
      if d.stop = true then .next s.ladderEnd
      else if 8 ≤ d.tries ∨ s.ladder = [] then .next (s.giveUp d)
      else .next { s with rch := { s.rch with dfm := some d } }

/-- The lateral offset of a retry in 1/64 of the track pitch (R316). -/
def State.retryOffset (s : State) : Int :=
  match s.rch.dfm with
  | none => 0
  | some d =>
    if d.step = 4 ∨ d.step = 7 then (s.getF F.RCH_RETRY_OFFS : Int)
    else if d.step = 5 ∨ d.step = 8 then -(s.getF F.RCH_RETRY_OFFS : Int)
    else 0

/-- The speed step of a retry (R316), from that of the first pass: unchanged, at most SLOW, or 1. -/
def State.retrySpeed (s : State) (step base : Nat) : Nat :=
  if step ≤ 1 then base else if step ≤ 5 then min base (s.getF F.RCH_RETRY_SLOW) else 1

/-- The tape begins a reposition for the next enabled retry (R315 to R317); a ladder that is to stop takes no further boundary. -/
def State.takeRetry (s : State) : State :=
  match s.rch.dfm with
  | none => s
  | some d =>
    if d.stop = true ∨ 8 ≤ d.tries then s.ladderEnd
    else match s.ladder[d.tries % max 1 s.ladder.length]? with
      | none => s
      | some i =>
        let base := if d.tries = 0 then s.getF F.SRV_SPD_CUR else d.base
        ({ s with rch := { s.rch with dfm := some { d with tries := d.tries + 1, step := i + 1, base := base } } }).passAt (s.retrySpeed (i + 1) base)

/-- READ_RETRY. -/
def execReadRetry (s : State) : Host.Outcome State Fault Refusal := .next s.takeRetry

end Sys2Proof.Machine
end

