-- ==== Sys2Proof/Machine/Channel.lean ====
section
/-! DEFINITION. The read channel's frames and defects, the Loupe and the Proof self-test (11_read_channel R299 to R309, R318 to R323). -/

namespace Sys2Proof.Machine

/-! ### Rates and settings (R301, R304, R305, R316) -/

/-- Nominal symbol rate of an input in symbols per second: the zone's rate at the tape speed SRV has measured. The write synthesiser, from which the verifying inputs take it, is retuned to the same rate at every servo
frame (R305, R337). -/
def State.symbolRate (s : State) : Nat := (if zoneE s.headIx then 159375000 else 191250000) * s.getF F.SRV_SPD_MMS / 5000

/-- Is a signal's rate inside the capture range of 1.5 % of nominal (R305). -/
def State.captured (s : State) (rate : Nat) : Bool := decide (1000 * (rate - s.symbolRate) ≤ 15 * s.symbolRate ∧ 1000 * (s.symbolRate - rate) ≤ 15 * s.symbolRate)

/-- The zone's settings word (RCH.ZCFG0 or RCH.ZCFG1). -/
def State.zcfg (s : State) : Nat := (s.rd (if zoneE s.headIx then R.RCH_ZCFG1 else R.RCH_ZCFG0)).toNat

/-- The filter's cutoff in symbols per second, and its boost in dB (R301). -/
def State.cutoff (s : State) : Rat := (s.symbolRate : Rat) * ((3 : Rat) / 10 + (getBits s.zcfg 16 4 : Rat) / 50)
def State.boost (s : State) : Nat := min 12 (getBits s.zcfg 8 4)

/-- The retry in force, 0 for none (R316). -/
def State.retryNow (s : State) : Nat := match s.rch.dfm with | some d => d.step | none => 0

/-- Is the target EPR4: the zone's, and in retries 6 to 8 the other one (R304, R316). -/
def State.epr4 (s : State) : Bool := (getBits s.zcfg 31 1 == 1) != decide (6 ≤ s.retryNow)

/-- In retry 2 loops and taps adapt at a quarter of their rate (R316). -/
def State.slowdown (s : State) : Nat := if s.retryNow = 2 then 4 else 1

/-! ### Defects (R308, R309) -/

/-- RCH.DEF.EXT, doubled up to 48 in retry 8 (R316). -/
def State.defExt (s : State) : Nat :=
  let e := s.getF F.RCH_DEF_EXT
  if s.retryNow = 8 then min 48 (2 * e) else e

/-- The runs of an envelope that meet a condition: first symbol and length. `i` is the symbol at the head, `o` the first of the run in progress. -/
def envRuns (p : Nat → Bool) : Nat → Option Nat → List Nat → List (Nat × Nat)
  | i, some k, [] => [(k, i - k)]
  | _, none, [] => []
  | i, o, e :: es =>
    if p e then envRuns p (i + 1) (some (o.getD i)) es
    else (match o with | some k => [(k, i - k)] | none => []) ++ envRuns p (i + 1) none es

/-- The defect intervals of a window: dropouts of at least DMIN symbols below DROP % of AGCTGT, and every asperity above TA % of it (R308). -/
def State.defects (s : State) (f : FrameIn) : List (Nat × Nat) :=
  let tgt := s.getF F.RCH_CFG_AGCTGT
  (envRuns (fun e => decide (100 * e < s.getF F.RCH_DEF_DROP * tgt)) 0 none f.env).filter (fun d => decide (s.getF F.RCH_DEF_DMIN ≤ d.2)) ++
    envRuns (fun e => decide (s.getF F.RCH_DEF_TA * tgt < 100 * e)) 0 none f.env

/-- First channel bit of stream byte `i`, and its last, the merge bit counted (R278, R309). -/
def byteBits (i : Nat) : Nat × Nat :=
  let o := 68 + 34 * (i / 4)
  match i % 4 with
  | 0 => (o, o + 7)
  | 1 => (o + 8, o + 16)
  | 2 => (o + 17, o + 24)
  | _ => (o + 25, o + 33)

/-- Does a widened interval touch symbols a to b (R308, R309). -/
def touches (ext : Nat) (d : Nat × Nat) (a b : Nat) : Bool := decide (d.1 ≤ b + ext ∧ a < d.1 + d.2 + ext)

/-- Is stream byte `i` of a frame that begins at symbol `o` of the window flagged: by a defect, or by lost lock from symbol `lost` on (R307, R309). -/
def flagged (ext : Nat) (ds : List (Nat × Nat)) (lost : Option Nat) (o i : Nat) : Bool :=
  let (a, b) := byteBits i
  ds.any (fun d => touches ext d (o + a) (o + b)) || (match lost with | some n => decide (n ≤ o + b) | none => false)

/-- Where a defect of more than 512 symbols loses lock: after 512 symbols of it (R307). -/
def lockLost (ds : List (Nat × Nat)) : Option Nat :=
  (ds.filter (fun d => decide (512 < d.2))).foldl (fun o d => match o with | none => some (d.1 + 512) | some n => some (min n (d.1 + 512))) none

/-! ### Loops (R302 to R304) -/

/-- The loops of an input in a zone: the values held at the end of its last frame there, or the defaults; the taps are the zone's default set where the input has been read in the other zone since (R303, R304). -/
def State.loopsOf (s : State) (n : Nat) (e : Bool) : Loops :=
  let taps := (List.finRange 10).map (Config.defaultTaps e)
  match s.rch.loops.find? (fun l => l.input == n && l.e == e) with
  | none => ⟨n, e, Config.loopDefault 0 e, Config.loopDefault 1 e, Config.loopDefault 2 e, Config.loopDefault 3 e, taps⟩
  | some l => match s.rch.loops.find? (fun x => x.input == n) with
    | some x => if x.e = e then l else { l with taps := taps }
    | none => l

/-- Is a symbol of the window held from the loops: flagged, or within HOLD symbols after a flagged one (R303). -/
def State.holds (s : State) (ds : List (Nat × Nat)) (i : Nat) : Bool :=
  let x := s.defExt
  let h := s.getF F.RCH_CFG_HOLD
  ds.any (fun d => decide (d.1 ≤ i + x ∧ i < d.1 + d.2 + x + h))

/-- The loops after a frame that begins at symbol `o`: the fast rate in the acquisition part, then the plain one; symbols that are held pass them by (R302, R303). The timing loop stays within its capture range
(R305), and without the sync it keeps its frequency (R307). -/
def State.runLoops (s : State) (l : Loops) (ds : List (Nat × Nat)) (o : Nat) (synced : Bool) (f : FrameIn) : Loops :=
  let free := f.samples.zipIdx.filter (fun p => decide (o ≤ p.2) && !(s.holds ds p.2))
  let acq := (free.filter (fun p => decide (p.2 < o + acqLen))).map (·.1)
  let rest := (free.filter (fun p => decide (o + acqLen ≤ p.2))).map (·.1)
  let q := s.slowdown
  let tgt := s.getF F.RCH_CFG_AGCTGT
  let mu := getBits s.zcfg 0 4
  { l with
    gain := Config.gainLoop (Config.gainLoop l.gain tgt (q * 512 / 8) acq) tgt (q * 512) rest
    offset := Config.offsetLoop (Config.offsetLoop l.offset (q * 1024 / 8) acq) (q * 1024) rest
    asym := Config.asymLoop (Config.asymLoop l.asym (q * 4096 / 8) acq) (q * 4096) rest
    freq := if synced then max (-15000) (min 15000 (Config.timingLoop l.freq (2000 / q) (acq ++ rest))) else l.freq
    taps := if s.bit F.RCH_CFG_ADAPT then (List.finRange 10).map (Config.lmsTaps l.taps s.epr4 (8 + mu + (if q = 4 then 2 else 0)) (acq ++ rest) f.bits) else l.taps }

/-- The loops of an input are held until its next frame. -/
def State.keepLoops (s : State) (l : Loops) : State :=
  { s with rch := { s.rch with loops := l :: s.rch.loops.filter (fun x => !(x.input == l.input && x.e == l.e)) } }

/-! ### Frames (R304, R306, R310) -/

/-- The input reads behind a write element: it verifies (R300). -/
def State.verifies (s : State) : Bool := s.cart == .writing || s.cart == .unloading

/-- Where a verifying input stands: the stream, slot and first symbol of the frame it is to read next; after the last slot of a dataset comes the first of the next one (R306). -/
def State.verifyAt (s : State) (n : Nat) : Option (Stream × Nat × Int) :=
  match s.rch.tracks.find? (fun t => t.input == n) with
  | none => s.fmt.streams.head?.map (fun x => (x, 0, 0))
  | some t =>
    match s.fmt.streams.find? (fun x => x.ds.num == t.ds && decide (t.slot < slotCount x.ds.nsub)) with
    | some x => some (x, t.slot, t.start)
    | none => (s.fmt.streams.find? (fun x => decide (t.ds < x.ds.num))).map (fun x => (x, 0, 0))

/-- The next frame of an input is expected at the end of this one, which began `off` symbols from where it was expected (R306). -/
def State.moveTrack (s : State) (n ds slot : Nat) (start off : Int) : State :=
  { s with rch := { s.rch with tracks := ⟨n, ds, slot + 1, start + off + frameLen⟩ :: s.rch.tracks.filter (fun t => t.input != n) } }

/-- A frame read behind the write element reaches PRF: what it gave is kept for the verdict on its slot. FILL has none (R306, R307, R310, R312). -/
def State.toProof (s : State) (n : Nat) (off : Int) (got : Option (List (Byte × Bool))) (lost : Bool) : State :=
  match s.verifyAt n with
  | none => s
  | some (x, slot, start) =>
    let ch := n % 16
    if x.next.getD ch 0 ≤ slot then s
    else
      let s := s.moveTrack n x.ds.num slot start off
      if x.frames.any (fun f => f.ch == ch && f.slot == slot) then { s with prf := { s.prf with back := s.prf.back ++ [⟨ch, slot, got, lost⟩] } } else s

/-- A frame read reaches DFM (R290); the frames of another dataset begin where the LPW puts its first (R306). -/
def State.toDfm (s : State) (n : Nat) (off : Int) (got : Option (List (Byte × Bool))) : State :=
  let t := (s.rch.tracks.find? (fun t => t.input == n)).getD ⟨n, 0, 0, 0⟩
  match got with
  | none => s.moveTrack n t.ds t.slot t.start 0
  | some l =>
    let num := match readHeader ((l.take 12).map (·.1)) with | some h => h.num | none => t.ds
    (if num = t.ds then s.moveTrack n num t.slot t.start off else s.moveTrack n num 0 0 off).takeRow l

/-- Samples pass into an armed Loupe's ring; `k` samples of them come before the trigger, when it falls in them (R318). -/
def State.loupeTake (s : State) (input : Nat) (samples : List Byte) : State :=
  let l := s.rch.loupe
  if l.armed = true ∧ s.getF F.RCH_LPCFG_INPUT = input then
    { s with rch := { s.rch with loupe := { l with ring := (samples.reverse ++ l.ring).take 131072, fired := l.fired.map (fun n => n + samples.length) } } }
  else s

/-- The trigger falls at symbol `k` of a frame (R318). -/
def State.loupeAt (s : State) (trig input k : Nat) (samples : List Byte) : State :=
  (((s.loupeTake input (samples.take k)).loupeEvent trig input)).loupeTake input (samples.drop k)

/-- The samples an armed Loupe takes: the ADC's, or the equaliser's output or error (R318). -/
def State.loupeSource (s : State) (l : Loops) (f : FrameIn) : List Byte :=
  match s.getF F.RCH_LPCFG_SRC with
  | 0 => f.samples
  | 1 => Config.eqSamples false l.taps s.epr4 f.samples f.bits
  | _ => Config.eqSamples true l.taps s.epr4 f.samples f.bits

/-- The status word of an input after a frame (RCH.ISTATn): lock, whether a defect interval is open at its end, the equaliser's error, and the gain, which the amplifier takes from 0 to 36 dB (R301, R304). -/
def State.inputStatus (s : State) (n : Nat) (lock : Bool) (ds : List (Nat × Nat)) (l : Loops) (f : FrameIn) : State :=
  let s := (s.setF (F.RCH_ISTAT_LOCK n) (if lock then 1 else 0)).setF (F.RCH_ISTAT_DEF n) (if ds.any (fun d => d.1 + d.2 == f.env.length) then 1 else 0)
  (s.setF (F.RCH_ISTAT_MSE n) (min 255 (Config.eqError l.taps s.epr4 s.cutoff s.boost f.samples f.bits))).setF (F.RCH_ISTAT_GAIN n) (min 144 l.gain.toNat)

/-- What a window gives: where its frame begins, when its signal is captured, the sync is matched, and the decisions break no limit of the code (R304, R305, R306). -/
def State.frameAt (s : State) (f : FrameIn) : Option Nat :=
  if s.captured f.rate = false then none
  else match syncAt f.bits with
    | some o => if transitionRun 0 0 ((f.bits.drop (o + syncLen)).take (frameLen - syncLen)) ≤ 16 then some o else none
    | none => none

/-- Where lock is lost in a frame that begins at symbol `o`: by a long defect, or by the timing error; a loss ahead of the matched sync is over (R307). -/
def State.lossIn (s : State) (n o : Nat) (ds : List (Nat × Nat)) : Option Nat :=
  let far (k : Nat) : Option Nat := if o + syncLen ≤ k then some k else none
  match (lockLost ds).bind far, ((s.rch.lost.find? (fun p => p.1 == n)).map (fun p => p.2)).bind far with
  | some a, some b => some (min a b)
  | some a, none => some a
  | none, b => b

/-- Where the first defect of a frame starts (R318). -/
def firstDefect (ds : List (Nat × Nat)) : Option Nat :=
  ds.foldl (fun k d => match k with | none => some d.1 | some k => some (min k d.1)) none

/-- FRAME_READ (R300 to R309): a data input's frame. Its bytes, with the defect flags, pass into XC-10.n, and from there to PRF while the input verifies, else to DFM. Without its sync it yields no bytes (R306). A servo input
gives the Loupe the samples of its ADC (R318). -/
def execFrameRead (input : Fin 36) (f : FrameIn) (s : State) : Host.Outcome State Fault Refusal :=
  let n := input.val
  let trig4 : Bool := s.getF F.RCH_LPCFG_TRIG == 4
  if s.inputOn n = false then .next s
  else if 32 ≤ n then .next (if s.getF F.RCH_LPCFG_SRC = 0 then s.loupeTake n f.samples else s)
  else
    let ds := s.defects f
    let s := s.count (F.RCH_ICNT_DEF n) ds.length
    let l := s.loopsOf n (zoneE s.headIx)
    let tape := s.loupeSource l f
    match s.frameAt f with
    | none =>
      let l := s.runLoops l ds 64 false f
      let s := if (lockLost ds).isSome then s.count (F.RCH_ICNT_LOL n) 1 else s
      let s := (s.keepLoops l).inputStatus n false ds l f
      let s := if s.verifies then s.toProof n 0 none false else s.toDfm n 0 none
      .next (s.loupeAt 3 n 64 tape)
    | some o =>
      let lost := s.lossIn n o ds
      let first := firstDefect ds
      let l := s.runLoops l ds o true f
      let s := if (lockLost ds).isSome then s.count (F.RCH_ICNT_LOL n) 1 else s
      let s := (s.keepLoops l).inputStatus n lost.isNone ds l f
      let bytes := padTake 508 (frameBytes (f.bits.drop (o + syncLen)))
      let out := bytes.zipIdx.map (fun p => (p.1, flagged s.defExt ds lost o p.2))
      let s := { s with rch := { s.rch with lost := s.rch.lost.filter (fun p => p.1 != n) } }
      let s := s.emit (.rowRead n out)
      let s := if s.verifies then s.toProof n ((o : Int) - 64) (some out) lost.isSome else s.toDfm n ((o : Int) - 64) (some out)
      .next (match lockLost ds, first with
        | some k, _ => if trig4 = true then s.loupeAt 4 n k tape else s.loupeAt 1 n (first.getD 0) tape
        | none, some k => s.loupeAt 1 n k tape
        | none, none => s.loupeTake n tape)

/-- LOSS_OF_LOCK by the timing error, at a symbol of the window of the frame in progress: counted once until the next matched sync; the bytes of the frame from there on are delivered flagged (R307). -/
def execLossOfLock (input : Fin 36) (sym : Nat) (s : State) : Host.Outcome State Fault Refusal :=
  let n := input.val
  if 32 ≤ n ∨ s.inputOn n = false ∨ s.rch.lost.any (fun p => p.1 == n) = true then .next s
  else
    let s := (s.count (F.RCH_ICNT_LOL n) 1).setF (F.RCH_ISTAT_LOCK n) 0
    .next ({ s with rch := { s.rch with lost := (n, sym) :: s.rch.lost } }.loupeEvent 4 n)

/-! ### The Loupe (R318, R319) -/

/-- A write of RCH.LPCFG: a change of its settings, or ARM, discards a capture; ARM arms; FIRE is the event of TRIG 0 (R318, R319). -/
def State.wLpcfg (s : State) (v : Word) : WRes :=
  let src := getBits v.toNat 28 2
  let old := s.rd R.RCH_LPCFG
  let s := (s.setF F.RCH_LPCFG_SRC (if src = 3 then 0 else src)).setF F.RCH_LPCFG_TRIG (getBits v.toNat 24 4)
  let s := (s.setF F.RCH_LPCFG_INPUT (getBits v.toNat 16 6)).setF F.RCH_LPCFG_PRE (getBits v.toNat 0 15)
  let arm := getBits v.toNat 31 1 == 1
  let s := if arm = true ∨ s.rd R.RCH_LPCFG ≠ old then
      let s := { s with rch := { s.rch with loupe := ⟨arm, none, [], []⟩ } }
      ((s.setF F.RCH_LPSTAT_DONE 0).setF F.RCH_LPSTAT_ARMED (if arm then 1 else 0)).setF F.RCH_LPSTAT_TRIGPOS 0
    else s
  .ok (if getBits v.toNat 30 1 = 1 then s.loupeEvent 0 (s.getF F.RCH_LPCFG_INPUT) else s)

/-- LOUPE_ARM. -/
def execLoupeArm (src : Src) (v : Word) (s : State) : Host.Outcome State Fault Refusal :=
  match src with
  | .vf _ => .next s
  | _ => if s.pfOpen src = false then .next (s.pfDrop src) else .next (s.apply src (s.wLpcfg v))

/-- LOUPE_FIRE. -/
def execLoupeFire (src : Src) (v : Word) (s : State) : Host.Outcome State Fault Refusal :=
  match src with
  | .vf _ => .next s
  | _ => if s.pfOpen src = false then .next (s.pfDrop src) else .next (s.apply src (s.wLpcfg v))

/-- LOUPE_CAPTURE_END: once 32,768 less PRE samples from the trigger on have been taken (R318, R319). -/
def execLoupeCaptureEnd (s : State) : Host.Outcome State Fault Refusal :=
  let l := s.rch.loupe
  let pre := s.getF F.RCH_LPCFG_PRE
  match l.fired with
  | none => .next s
  | some n =>
    if l.armed = false ∨ n < 32768 - pre then .next s
    else
      let before := ((l.ring.drop n).take pre).reverse
      let held := List.replicate (pre - before.length) 0#8 ++ before ++ ((l.ring.take n).reverse).take (32768 - pre)
      let s := { s with rch := { s.rch with loupe := ⟨false, none, [], held⟩ } }
      .next (((s.setF F.RCH_LPSTAT_ARMED 0).setF F.RCH_LPSTAT_DONE 1).setF F.RCH_LPSTAT_TRIGPOS pre)

/-! ### Proof self-test (R320 to R322) -/

/-- TEST PROOF (R91, R320). -/
def execTestProof (ln : Ln) (s : State) : Host.Outcome State Fault Refusal :=
  .next (s.verb ln .service false
    (if s.pwr ≠ .run then .er .pwrstate []
     else if s.prf.test.isSome = true ∨ s.boot.testing = true then .er .testbusy []
     else
       let s := { s with prf := { s.prf with test := some ⟨0, none⟩ } }
       let s := { s with con := { s.con with opProof := some ln } }
       .ok (s.setF F.PRF_STAT_TESTRUN 1) [] [⟨"", .word "STARTED"⟩]))

/-- The result registers and `!DONE` of a run (R321). -/
def State.endProof (s : State) (code : Nat) (ch : Nat) : State :=
  let ln := s.con.opProof
  let s := { s with prf := { s.prf with test := none } }
  let s := { s with con := { s.con with opProof := none } }
  let s := (s.setF F.PRF_STAT_TESTRUN 0).setF F.PRF_TRES_DONE 1
  let s := (s.setF F.PRF_TRES_FAIL (if code = 517 then 1 else 0)).setF F.PRF_TRES_ABORT (if code = 317 then 1 else 0)
  ((s.setF F.PRF_TRES_CH ch).setF F.PRF_TRES_CODE code).done ln (resultItems (code == 0) code)

/-- The four rows of a channel give the verdicts expected of them (R320). -/
def proofRows (run thr : Nat) (rs : List (Nat × Readback)) : Bool :=
  let v (i : Nat) : Option Nat := (rs.find? (fun r => r.1 == i)).map (fun r => verdictOf false run thr r.2)
  v 1 == some 0 && v 2 == some 0 && v 3 == some 3 && v 4 == some 1

/-- Does a write wait for, or hold, the verify path (R321). -/
def State.writeWaits (s : State) : Bool := s.fmt.streams != [] || (s.cart == .writing && s.fmt.built != [])

/-- PROOF_CHECKPOINT (R321). -/
def execProofCheckpoint (ch : Chan) (results : List (Nat × Readback)) (s : State) : Host.Outcome State Fault Refusal :=
  match s.prf.test with
  | none => .next s
  | some t =>
    if s.writeWaits = true then .next (s.endProof 317 0)
    else if t.next ≠ ch.val then .next s
    else
      let pass := proofRows (s.getF F.PRF_CFG_RUN) (s.getF F.PRF_CFG_THRC) results
      let bad := match t.bad with | some b => some b | none => if pass then none else some ch.val
      if ch.val < 15 then .next { s with prf := { s.prf with test := some ⟨ch.val + 1, bad⟩ } }
      else match bad with
        | none => .next ((s.setF F.PRF_STAT_BAD 0).endProof 0 0)
        | some b => .next (((s.setF F.PRF_STAT_BAD 1).endProof 517 b).log (errRec .prooffail .prf [⟨"CH", .num b⟩]))

/-- A run abandoned without a result, by PFAIL_N or with D5 (R321). -/
def State.dropProof (s : State) : State :=
  let s := { s with prf := { s.prf with test := none } }
  ({ s with con := { s.con with opProof := none } }).setF F.PRF_STAT_TESTRUN 0

/-- A codec run abandoned without a result (R238). -/
def State.dropCodecTest (s : State) : State :=
  let s := { s with cdc := { s.cdc with test := none, rdc := s.cdc.rdc.map (fun (x : RdcEng) => { x with held := false }) } }
  ({ s with con := { s.con with opCodec := [] } }).setF F.RDC_STEST_RUN 0

end Sys2Proof.Machine
end

