-- ==== Sys2Proof/Machine/Motion.lean ====
section
/-! DEFINITION. The motor drive: carrier periods, starts, stops, trips and the fan (13_motor R352 to R373; verbs R85). -/

namespace Sys2Proof.Machine

/-! ### Ends of long operations (R80) -/

/-- Writing halts for a stop or a trip: the dataset is abandoned, the open group lost, CART READY (R113, R369; log entry 31). -/
def State.stopWriting (s : State) : State := if s.cart = .writing then s.haltWrite.setCart .ready s.con.opCart else s

/-- CART when a `LOAD` or `UNLOAD` is ended: a `LOAD` leaves PRESENT; an `UNLOAD` READY (collision table of 03_command_reference; log entry 31). The load sequence that a reset runs
again leaves FAULT (R117). -/
def State.cartBack (s : State) : State :=
  match s.cart with
  | .loading => s.setCart (if s.tape.threaded && s.con.opCart.isEmpty then .fault else .present) s.con.opCart
  | .unloading => s.setCart .ready s.con.opCart
  | _ => s

/-- Long operations of the cartridge and of motion end with an error (R80). -/
def State.endOps (s : State) (e : Er) : State :=
  let c := s.con.opCart
  let m := s.con.opMotion
  let s := s.cartBack
  let s := { s with con := { s.con with opCart := [], opMotion := none }, srv := { s.srv with seek := none } }
  (s.doneAll (erItems e []) c).done m (erItems e [])

/-- What a stop or a trip does to recording, long operations and READs (R184, R369). -/
def State.cutMotion (s : State) (e : Er) : State :=
  let s := s.stopWriting
  (s.endOps e).failReads e s.allReads

/-! ### Carrier periods (R354 to R359) -/

def State.axis (s : State) (a : Fin 3) : AxisSt := s.mdr.axes[a]
def State.setAxis (s : State) (a : Fin 3) (x : AxisSt) : State := { s with mdr := { s.mdr with axes := s.mdr.axes.set a x } }

/-- The continuous mechanical angle of a reel, in 1/2^32 turn (R359). -/
def State.mechAngle (s : State) (a : Fin 3) : Nat := (s.axis a).acc / max 1 (s.getF (F.MDR_ACFG_POLES a.val))

/-- The largest compare value that keeps the sampling window clear (R357): 1,000 less (1.2 us + DT) over 20 ns. -/
def maxCompare (dt : Nat) : Nat := 1000 - (1200 + 10 * dt + 19) / 20

/-- Stage 2 of R357 acts: |v| exceeds m_max times VBUS over the root of 3, with vd and vq in 2^-16 V and VBUS in 10 mV. -/
def limits (vd vq : Int) (vbus dt : Nat) : Bool :=
  decide (2 ^ 32 * ((18800 - 10 * (dt : Int)) * vbus) ^ 2 < 3 * (vd ^ 2 + vq ^ 2) * 2000000 ^ 2)

/-- The magnitude to which stage 2 scales, squared over 3, as the limit handed on: m_max times VBUS in 2^-16 V, before the root of 3. -/
def limitOf (vbus dt : Nat) : Rat := ((18800 - 10 * (dt : Int)) * vbus * 65536 : Int) / (2000000 : Rat)

/-- Zero-vector time moves from 111 to 000 as far as the sampling window needs: all three compare values fall by the same number (R357). -/
def shiftZero (dt : Nat) (c : List Nat) : List Nat :=
  let e := c.foldl max 0 - maxCompare dt
  c.map (fun x => x - e)

/-- The three compare values: the modulation, with the window kept clear; DIRINV swaps phases V and W (R357, R358, MDR.ACFGa). -/
def State.compares (s : State) (a : Fin 3) (vd vq : Int) (theta : BitVec 32) (w : Int) (vbus : Nat) : List Nat :=
  let c (k : Fin 3) : Nat := Config.svm vd vq theta w (s.getF (F.MDR_ACFG_POLES a.val)) vbus k
  shiftZero (s.getF (F.MDR_ACFG_DT a.val)) (if s.bit (F.MDR_ACFG_DIRINV a.val) then [c 0, c 2, c 1] else [c 0, c 1, c 2])

/-- A pulse of a switch; one that dead time leaves shorter than 100 ns is dropped (R356). -/
def pulse (on off : Int) : Option (Int × Int) := if on + 10 ≤ off then some (on, off) else none

/-- The gate pulses of one phase or leg, in 10 ns from the boundary at which `c` is loaded after `old` (R355, R356): the high switch is on around the boundary, the low one around the sample instant, each
turned on DT after the other goes off. They are never on together (R353). -/
def legPulses (dt old c : Nat) : Option (Int × Int) × Option (Int × Int) := (pulse ((dt : Int) - old) c, pulse ((c : Int) + dt) (2000 - c))

/-- What an axis does with its gates in a period: none in CATCH; in BRAKE the low switches, chopped off from the sample instant on by a current above BRKLIM; else the modulation (R353, R360). -/
def State.axisPulses (s : State) (a : Fin 3) (old cmp : List Nat) (peak : Nat) : List (Option (Int × Int) × Option (Int × Int)) :=
  let dt := s.getF (F.MDR_ACFG_DT a.val)
  match s.axMode a.val with
  | 0 => []
  | 4 => []
  | 5 => List.replicate 3 (none, some (0, if s.getF (F.MDR_ASTART_BRKLIM a.val) * 16 < peak then 1000 else 2000))
  | _ => [legPulses dt (old.getD 0 0) (cmp.getD 0 0), legPulses dt (old.getD 1 0) (cmp.getD 1 0), legPulses dt (old.getD 2 0) (cmp.getD 2 0)]

/-- A signed difference of angles. -/
def angleStep (new old : BitVec 32) : Int := (new - old).toInt

/-- The speed reference of an axis, in 2^-16 rad/s (R359, R382). -/
def State.axisRef (s : State) (a : Fin 3) : Int :=
  if a.val = 2 then s.fanSpeedRef else s.speedRef a (roundQ s.mdr.vRef) (s.axis (if a.val = 0 then 1 else 0)).w

/-- The angle in I/f: it goes on at the reference speed, for one period of 20 us, in 2^-32 of an electrical turn (R359). -/
def State.ifAngle (s : State) (a : Fin 3) : BitVec 32 :=
  (s.axis a).theta + BitVec.ofInt 32 (roundQ ((s.axisRef a : Rat) * (max 1 (s.getF (F.MDR_ACFG_POLES a.val)) : Nat) * 65536 * 2 / (100000 * 2 * piRat)))

/-- Is a speed of `w` 2^-16 rad/s below 3 % of RATED (R359). -/
def State.slow (s : State) (a : Nat) (w : Int) : Bool := decide ((w.natAbs : Rat) * 60 / (2 * piRat * 65536) * 100 < 3 * s.getF (F.MDR_ARATE_RATED a))

/-- The observer gives up below 3 % of RATED: the axis runs on in I/f, and a reel that has come to rest for a stop or a backhitch holds (R359, R362; DEDUCED, log entry 122). -/
def State.observerEnds (s : State) (a : Fin 3) (w : Int) : State :=
  if s.axMode a.val = 3 ∧ s.bit (F.MDR_ASTAT_OBSOK a.val) = true ∧ s.slow a.val w = true then
    ((s.setF (F.MDR_ASTAT_OBSOK a.val) 0).setMode a.val (if a.val < 2 ∧ s.mdr.stopping = true then 7 else 2)).tidyLoops
  else s

/-- One axis in a carrier period: the sample, the angle, and the compare values of the next period (R354, R357 to R359). -/
def State.carrierAxis (s : State) (a : Fin 3) (x : AxisSample) (vbus : Nat) : State :=
  let s := (s.setF (F.MDR_ASTAT_RPM a.val) (toField 16 (rpmOfW x.w))).observerEnds a x.w
  if s.axisOn a.val = false then s.setAxis a { s.axis a with cmp := [0, 0, 0], iu := 0, iv := 0, id := 0, iq := 0, w := x.w, mode := 0, ticks := 0, fromIf := false }
  else
    let n := a.val
    let old := s.axis a
    let mode := s.axMode n
    let same := old.mode == mode
    let scale : Int := s.getF (F.MDR_ARATE_ISCALE n)
    let dt := s.getF (F.MDR_ACFG_DT n)
    let theta := if mode = 1 then 0#32 else if mode = 2 then s.ifAngle a else x.theta
    let d := angleStep theta old.theta
    let turn : Nat := max 1 (s.getF (F.MDR_ACFG_POLES n)) * 2 ^ 32
    let l := s.cle.loops[(⟨n, by omega⟩ : Fin 9)]
    let lim := limits l.outD l.out vbus dt
    let vd := if lim then Config.scaleD l.outD l.out (limitOf vbus dt) else l.outD
    let vq := if lim then Config.scaleQ l.outD l.out (limitOf vbus dt) else l.out
    let cmp := if mode = 4 ∨ mode = 5 then [0, 0, 0] else if x.late then old.cmp else s.compares a vd vq theta x.w vbus
    let cu := x.iu - s.getF (F.MDR_AIOFS_OFSU n)
    let cv := x.iv - s.getF (F.MDR_AIOFS_OFSV n)
    let iu := cu * scale
    let iv := cv * scale
    let iw := -iu - iv
    let (iV, iW) := if s.bit (F.MDR_ACFG_DIRINV n) then (iw, iv) else (iv, iw)
    let new : AxisSt :=
      { iu := iu, iv := iv, id := Config.parkD iu iV iW theta, iq := Config.parkQ iu iV iW theta, theta := theta
        acc := (((old.acc : Int) + d) % (turn : Int)).toNat, up := if d = 0 then old.up else decide (0 < d), w := x.w, cmp := cmp
        mode := mode, ticks := if same then old.ticks + 1 else 0, fromIf := if same then old.fromIf else old.mode == 2 }
    let s := (s.setAxis a new).emit (.gates ([MUnit.supply, .takeup, .fan].getD n .fan) (s.axisPulses a old.cmp cmp (max cu.natAbs (max cv.natAbs (cu + cv).natAbs))))
    if x.late then s.count (F.MDR_ACNT_LATE n) 1
    else
      let s := s.setF (F.MDR_ASTAT_MODLIM n) (if lim then 1 else 0)
      if lim then s.count (F.MDR_ACNT_MODLIM n) 1 else s

/-- A leg's compare value for a coil voltage of `u` 2^-31 of VBUS: duty (1 + u) / 2 (R358), inside the limit of R357. -/
def State.legCompare (s : State) (u : Int) : Nat := min (maxCompare (s.getF F.MDR_HCFG_DT)) (roundQ ((1000 * (2 ^ 31 + u) : Int) / (2 ^ 32 : Rat))).toNat

/-- HEAD in a carrier period: the coil's sample, and the compare values and gate pulses of its legs (R354 to R358). -/
def State.carrierHead (s : State) (coil : Int) : State :=
  let u := s.cle.loops[(3 : Fin 9)].out
  let old := s.mdr.hcmp
  let legs := if s.headOn then [s.legCompare u, s.legCompare (-u)] else [0, 0]
  let dt := s.getF F.MDR_HCFG_DT
  let s := { s with mdr := { s.mdr with coil := coil * s.getF F.MDR_HSCALE_ISCALE, hcmp := legs } }
  if s.headOn then s.emit (.gates .head [legPulses dt (old.getD 0 0) (legs.getD 0 0), legPulses dt (old.getD 1 0) (legs.getD 1 0)]) else s

/-- A carrier period: the samples of one sample instant, and the compare values loaded at the next boundary (R355, R358); then the next period is counted (R374). -/
def State.carrier (s : State) (axes : List AxisSample) (coil : Int) (vbus : Nat) : State :=
  let none' : AxisSample := ⟨0, 0, 0#32, 0, false⟩
  let s := ((s.carrierAxis 0 (axes.getD 0 none') vbus).carrierAxis 1 (axes.getD 1 none') vbus).carrierAxis 2 (axes.getD 2 none') vbus
  let s := (s.carrierHead coil).setF F.MDR_MEAS_VBUS vbus
  { s with cle := { s.cle with k := (s.cle.k + 1) % 500 } }

/-! ### Starts (R360, R361) -/

/-- How an axis turns, for a commanded direction: at least 2 % of RATED either way, or STILL (R360). -/
def State.turning (s : State) (a : Nat) (rev : Bool) (rpm : Int) : Turning :=
  let r : Int := if rev then -rpm else rpm
  let rated : Int := s.getF (F.MDR_ARATE_RATED a)
  if rated ≤ 50 * r then .fwd else if rated ≤ -(50 * r) then .rev else .still

/-- Offsets and speed as an axis in CATCH measured them (R354, R360). -/
def State.measured (s : State) (a : Fin 3) (rpm : Int) (ofs : Nat × Nat) : State :=
  if s.axMode a.val = 4 then
    (((s.setAxis a { s.axis a with w := roundQ (wOfRpm rpm) }).setF (F.MDR_AIOFS_OFSU a.val) ofs.1).setF (F.MDR_AIOFS_OFSV a.val) ofs.2).setF (F.MDR_ASTAT_RPM a.val) (toField 16 rpm)
  else s

/-- Both reels are aligned together (R360). -/
def State.alignReels (s : State) (x : Start) : State :=
  { ((s.setMode 0 1).setMode 1 1) with mdr := { s.mdr with vRef := 0, start := some { x with phase := .aligning, left := [] } } }.refreshMot

/-- The start comes to its run: the tape ramps to the commanded step (R360, R362). -/
def State.runReels (s : State) (x : Start) : State :=
  { (s.setF F.SRV_SPD_CUR s.mdr.step) with mdr := { s.mdr with start := some { x with phase := .running, left := [] } } }.refreshMot

/-- What a turning reel of an unequal pair does: caught and slowed down, or braked; a still one stays without current (R360). -/
def State.slowReel (s : State) (a : Nat) (t : Turning) : State :=
  match t with
  | .fwd => (s.caughtLoops (if a = 0 then 0 else 1)).setMode a 3
  | .rev => s.setMode a 5
  | .still => s.gatesOff a

/-- CATCH ends for the reels (R360). -/
def State.catchReels (s : State) (x : Start) (rpmA rpmB : Int) (offsets : List (Nat × Nat)) : State :=
  let a := if s.axMode 0 = 4 then rpmA else ofField 16 (s.getF (F.MDR_ASTAT_RPM 0))
  let b := if s.axMode 1 = 4 then rpmB else ofField 16 (s.getF (F.MDR_ASTAT_RPM 1))
  let rev := s.mdr.rev
  let ta := s.turning 0 rev a
  let tb := s.turning 1 rev b
  let s := (s.measured 0 rpmA (offsets.getD 0 (0, 0))).measured 1 rpmB (offsets.getD 1 (0, 0))
  match ta, tb with
  | .fwd, .fwd =>
    let v := s.reelSpeed 0
    ({ ((((s.caughtLoops 0).caughtLoops 1).presetLoop 7).setMode 0 3).setMode 1 3 with mdr.vRef := v }).runReels x
  | .rev, .rev =>
    let pay := if rev then 0 else 1
    let s := s.caughtLoops (if rev then 1 else 0)
    { ((s.setMode pay 5).setMode (1 - pay) 6) with mdr := { s.mdr with start := some { x with phase := .braking, left := [0, 1] } } }.refreshMot
  | .still, .still => s.alignReels x
  | _, _ =>
    let left := (if ta = .still then [] else [0]) ++ (if tb = .still then [] else [1])
    let v := if ta = .fwd then s.reelSpeed 0 else if tb = .fwd then s.reelSpeed 1 else 0
    { ((s.slowReel 0 ta).slowReel 1 tb) with mdr := { s.mdr with vRef := v, start := some { x with phase := .braking, left := left } } }.refreshMot

/-- The fan leaves CATCH or begins again: a FWD fan is caught, a REV one braked, a STILL one aligned (R360). -/
def State.fanTurn (s : State) (t : Turning) : State :=
  match t with
  | .fwd => ((s.caughtLoops 2).setMode 2 3).tidyLoops
  | .rev => (s.setMode 2 5).tidyLoops
  | .still => (s.setMode 2 1).tidyLoops

/-- CATCH_END, of the reels or of the fan. -/
def execCatchEnd (fan : Bool) (rpmA rpmB : Int) (offsets : List (Nat × Nat)) (s : State) : Host.Outcome State Fault Refusal :=
  if fan then
    (if s.axMode 2 = 4 then .next ((s.measured 2 rpmA (offsets.getD 0 (0, 0))).fanTurn (s.turning 2 false rpmA)) else .next s)
  else match s.mdr.start with
    | some x => if x.phase = .catching then .next (s.catchReels x rpmA rpmB offsets) else .next s
    | none => .next s

/-- ALIGN_END, of the reels or of the fan: they start in I/f (R360). -/
def execAlignEnd (fan : Bool) (s : State) : Host.Outcome State Fault Refusal :=
  if fan then (if s.axMode 2 = 1 then .next (s.setMode 2 2) else .next s)
  else match s.mdr.start with
    | some x => if x.phase = .aligning then .next (((s.setMode 0 2).setMode 1 2).runReels x) else .next s
    | none => .next s

/-- OBSERVER_HANDOVER: from I/f to the observer; for a caught axis the observer becomes valid (R359, R361). -/
def execObserverHandover (u : MUnit) (s : State) : Host.Outcome State Fault Refusal :=
  let a := unitBit u
  if a < 3 ∧ (s.axMode a = 2 ∨ s.axMode a = 3) then .next (((s.setMode a 3).setF (F.MDR_ASTAT_OBSOK a) 1).tidyLoops) else .next s

/-- The tape has stopped for a `MOTION STOP`, which ends (R85). -/
def State.stopDone (s : State) : State :=
  let ln := s.con.opMotion
  { s with con := { s.con with opMotion := none } }.done ln [⟨"MOT", .word "STOPPED"⟩, ⟨"LPW", .num (s.getF F.SRV_LPW_LPW)⟩]

/-- START_FAIL (R361): the first failure brakes both reels and starts again; the second ends the order. -/
def execStartFail (u : MUnit) (s : State) : Host.Outcome State Fault Refusal :=
  match s.mdr.start with
  | none => .next s
  | some x =>
    if 2 ≤ unitBit u ∨ x.phase = .catching ∨ x.phase = .aligning then .next s
    else
      let s := s.count (F.MDR_ACNT_FLYFAIL (unitBit u)) 1
      if x.stop = true then .next s
      else if x.failed = true then .next ((s.endOps .flyfail).endMotion)
      else
        let s := s.log (errRec .flyfail .mdr [])
        let s := { ((s.setMode 0 5).setMode 1 5) with mdr := { s.mdr with start := some { x with phase := .braking, left := [0, 1], failed := true } } }
        .next (s.setF F.SRV_SPD_CUR 0).refreshMot

/-- BRAKE_TO_STANDSTILL (R360, R361). -/
def execBrakeToStandstill (u : MUnit) (s : State) : Host.Outcome State Fault Refusal :=
  let a := unitBit u
  if a = 3 then .next s
  else if a = 2 then (if s.axMode 2 = 5 then .next (s.setMode 2 1) else .next s)
  else match s.mdr.start with
    | some x =>
      if x.phase = .braking ∧ x.left.contains a = true then
        let left := x.left.filter (· != a)
        if left ≠ [] then .next { s with mdr := { s.mdr with start := some { x with left := left } } }
        else if x.stop = true then .next s.endMotion.stopDone
        else .next (s.alignReels x)
      else .next s
    | none =>
      if s.axMode a = 5 then
        let s := (s.gatesOff a).tidyLoops
        if s.axisOn 0 = false ∧ s.axisOn 1 = false then .next s.endMotion else .next s
      else .next s

/-- Both reels run under speed control. -/
def State.reelsRun (s : State) : Bool := s.axMode 0 == 3 && s.axMode 1 == 3

/-- The start of an order is over: the tape runs at its step, and the ramp with it (R362). -/
def State.started (s : State) : State :=
  let s := { s with mdr := { s.mdr with start := none } }
  { s with mdr := { s.mdr with vRef := s.tapeTarget } }.refreshMot

def dirText (rev : Bool) : String := if rev then "REV" else "FWD"

/-- MOTION_START_COMPLETE (R85, R360). -/
def execMotionStartComplete (s : State) : Host.Outcome State Fault Refusal :=
  if s.mdr.order = some .motion ∧ s.mdr.start.isSome = true ∧ s.reelsRun = true ∧ s.mdr.stopping = false then
    let ln := s.con.opMotion
    let s := { s.started with con := { s.con with opMotion := none } }.setF F.SRV_SPD_CUR s.mdr.step
    .next (s.done ln [⟨"MOT", .word "MOVING"⟩, ⟨"STEP", .num s.mdr.step⟩, ⟨"DIR", .word (dirText s.mdr.rev)⟩])
  else .next s

/-- CONTROLLED_STOP_END (R362): the gates of the reels go off; a `MOTION STOP` ends. -/
def execControlledStopEnd (s : State) : Host.Outcome State Fault Refusal :=
  if s.mdr.stopping = true then .next s.endMotion.stopDone else .next s

/-! ### Trips (R366 to R370) -/

/-- A reel's trip: the other reel follows if it is energised and not tripped; commanded motion is over (R368). -/
def State.followTrip (s : State) (a : Nat) : State :=
  let o := 1 - a
  let s := s.gatesOff a
  let s := if s.axisOn o = true ∧ s.latched (if o = 0 then .supply else .takeup) = false then s.setMode o 6 else s.gatesOff o
  let s := { s with mdr := { s.mdr with order := none, start := none, stopping := false, vRef := 0 } }
  ((s.setF F.SRV_SPD_CUR 0).setF F.SRV_STAT_WINHIB 1).refreshMot

/-- What a trip does to its own unit and to the others (R368). -/
def State.tripUnits (s : State) (u : MUnit) : State :=
  match u with
  | .supply => s.followTrip 0
  | .takeup => s.followTrip 1
  | .fan => (s.gatesOff 2).tidyLoops
  | .head => (s.setF F.SRV_STAT_WINHIB 1).beginStop.refreshMot

/-- Latch a trip (R366, R369): its bit, its cause, the record, `!TRIP` and the effects. A latched unit stays as it is. -/
def State.trip (s : State) (u : MUnit) (cause : Nat) (rec : Option ErrRec) : State :=
  if s.latched u = true then s
  else
    let b := unitBit u
    let s := s.setF F.MDR_TRIP_LATCHED (s.getF F.MDR_TRIP_LATCHED + 2 ^ b)
    let s := s.setF F.MDR_TRIP_CAUSE (putBits (s.getF F.MDR_TRIP_CAUSE) (2 * b) 2 cause)
    let s := if b < 3 then s.count (F.MDR_ACNT_TRIPS b) 1 else s
    let s := (s.tripUnits u).emit (.gates u [])
    let s := match rec with | some r => s.log r | none => s
    let s := (s.cause 1).eventAll "TRIP" [⟨"AXIS", .word (unitName u)⟩]
    if u = .fan then s else s.cutMotion .tripped

def inputRec (u : MUnit) : ErrRec := errRec .tripped .mdr [⟨"AXIS", .word (unitName u)⟩, ⟨"CAUSE", .word "INPUT"⟩]
def overcurRec (u : MUnit) : ErrRec := errRec .overcur .mdr [⟨"AXIS", .word (unitName u)⟩]

/-- A trip input's level (MDR.TRIP.ACTIVE). -/
def State.pinLow (s : State) (u : MUnit) : Bool := s.mdr.pins.contains u
def State.setPin (s : State) (u : MUnit) (low : Bool) : State :=
  let ps := s.mdr.pins.filter (· != u)
  { s with mdr := { s.mdr with pins := if low then u :: ps else ps } }

/-- Does a pulse of this width act (R366): from 50 ns on, not below 20 ns, and as the part may choose between. -/
def pulseActs (k w : Nat) : Bool := if w < 20 then false else if 50 ≤ w then true else Config.shortTrip k

/-- TRIP_INPUT: the input falls; it stays low, or is high again after `widthNs` (a width of 0 gives its rise; log entry 32). Inside blanking a pulse that has ended is ignored, and one
that persists acts at BLANKING_END (R366, R367). With D6 off the inputs are not monitored (R372). -/
def execTripInput (u : MUnit) (widthNs : Option Nat) (inBlanking : Bool) (s : State) : Host.Outcome State Fault Refusal :=
  let s' := s.setPin u widthNs.isNone
  if s.domainOn 6 = false ∨ inBlanking = true then .next s'
  else match widthNs with
    | none => .next (s'.trip u 1 (some (inputRec u)))
    | some w => if pulseActs s.freeCtr w = true then .next (s'.draw.trip u 1 (some (inputRec u))) else .next s'.draw

/-- BLANKING_END (R367). -/
def execBlankingEnd (u : MUnit) (s : State) : Host.Outcome State Fault Refusal :=
  if s.domainOn 6 = true ∧ s.pinLow u = true then .next (s.trip u 1 (some (inputRec u))) else .next s

/-- OVERCURRENT (R366): only a unit whose gates switch draws current. -/
def execOvercurrent (u : MUnit) (s : State) : Host.Outcome State Fault Refusal :=
  if s.domainOn 6 = true ∧ s.unitOn u = true then .next (s.trip u 2 (some (overcurRec u))) else .next s

/-- FOLLOW_END (R368): the following reel is braked, holds, and its gates go off. -/
def execFollowEnd (u : MUnit) (s : State) : Host.Outcome State Fault Refusal :=
  let a := unitBit u
  if a < 2 ∧ s.axMode a = 6 ∧ s.mdr.start = none then .next ((((s.gatesOff a).setF F.SRV_SPD_MMS 0).srvOff).refreshMot) else .next s

/-- Is a clear of these units refused (R370). -/
def State.clearRefused (s : State) (us : List MUnit) : Bool :=
  us.any (fun u => s.pinLow u || (s.latched u && getBits (s.getF F.MDR_TRIP_CAUSE) (2 * unitBit u) 2 == 3 && !(s.bit F.CLK_STAT_CKM_LOCK)))

/-- Clear the latches of these units (R370). -/
def State.clearTrips (s : State) : List MUnit → State
  | [] => s
  | u :: us =>
    let b := unitBit u
    let s := s.setF F.MDR_TRIP_LATCHED (putBits (s.getF F.MDR_TRIP_LATCHED) b 1 0)
    State.clearTrips (s.setF F.MDR_TRIP_CAUSE (putBits (s.getF F.MDR_TRIP_CAUSE) (2 * b) 2 0)) us

def unitsIn (v : Nat) : List MUnit := allUnits.filter (fun u => getBits v (unitBit u) 1 == 1)

/-- A write of MDR.TRIPCLR (R370). -/
def State.wTripclr (s : State) (src : Src) (v : Word) : WRes :=
  let us := unitsIn v.toNat
  if s.lacksLock src = true then .refuse .nolock none
  else if s.clearRefused us = true then .refuse .tripactive (some { errRec .tripactive .mdr [⟨"UNITS", .axes (us.map unitName)⟩] with src := .pf })
  else .ok (((s.clearTrips us).refreshMot).overrideBy src "TRIP")

/-- MDR_TRIPCLR_WRITE. -/
def execMdrTripclrWrite (src : Src) (v : Word) (s : State) : Host.Outcome State Fault Refusal :=
  match src with
  | .vf _ => .next s
  | _ => if s.pfOpen src = false then .next (s.pfDrop src) else .next (s.apply src (s.wTripclr src v))

/-! ### The motion verbs (R85) -/

/-- The first error of a motion or cartridge verb: the lock, a `TEST BOOT` run, PWR, CART, MOT (R78, R79; DESIGN CHOICE, log entry 33); while D6 is quiesced it takes no order (R402; log entry 53). -/
def State.blocked (s : State) (ln : Ln) (lock test : Bool) (carts : List Cart) (stopped : Bool) : Option Er :=
  if lock = true ∧ s.holdsLock ln = false then some .nolock
  else if test = true ∧ s.boot.testing = true then some .testbusy
  else if s.pwr ≠ .run ∨ s.quiesced 6 = true then some .pwrstate
  else if carts ≠ [] ∧ carts.contains s.cart = false then some (if s.cart = .none then .nocart else .cartstate)
  else if stopped = true ∧ s.mot ≠ .stopped then some (if s.mot = .tripped then .tripped else .motstate)
  else none

def startedItems : List Item := [⟨"", .word "STARTED"⟩]

/-- TRIP CLEAR (R85, R370). -/
def execTripClear (ln : Ln) (units : TripArg) (s : State) : Host.Outcome State Fault Refusal :=
  let us : List MUnit := match units with | .supply => [.supply] | .takeup => [.takeup] | .fan => [.fan] | .all => allUnits
  .next (s.verb ln .operate false
    (match s.blocked ln true false [] false with
     | some e => .er e []
     | none =>
       if s.clearRefused us = true then .er .tripactive []
       else .ok ((s.clearTrips us).refreshMot) [] [⟨"CLEARED", .axes (us.map unitName)⟩]))

/-- The names of the units whose bit is set. -/
def State.trippedNames (s : State) : List String := (allUnits.filter s.latched).map unitName
def State.activeNames (s : State) : List String := (allUnits.filter s.pinLow).map unitName

/-- TRIP? (R85). -/
def execTripQuery (ln : Ln) (s : State) : Host.Outcome State Fault Refusal :=
  .next (s.verb ln .view false (.ok s [] [⟨"TRIPPED", .axes s.trippedNames⟩, ⟨"ACTIVE", .axes s.activeNames⟩]))

def motText : Mot → String
  | .stopped => "STOPPED" | .moving => "MOVING" | .tripped => "TRIPPED"

/-- The temperature that MOTION? reports: the higher of the two sensors (R363). -/
def State.temp (s : State) : Int := max (ofField 8 (s.getF F.MDR_MEAS_DIE)) (ofField 8 (s.getF F.MDR_MEAS_EXT))

/-- The fields of MOTION? (R85). MPS and TENS are cut off, not rounded, after their two and one decimals (DESIGN CHOICE, log entry 127: the rule names no rounding). -/
def State.motionItems (s : State) : List Item :=
  [⟨"MOT", .word (motText s.mot)⟩, ⟨"STEP", .num (s.getF F.SRV_SPD_CUR)⟩, ⟨"MPS", .hundredths (s.getF F.SRV_SPD_MMS / 10)⟩,
   ⟨"DIR", .word (dirText (s.bit F.SRV_STAT_DIR))⟩, ⟨"TENS", .tenths (s.getF F.CLE_TENS_MN / 100)⟩,
   ⟨"FAN", .int (ofField 16 (s.getF (F.MDR_ASTAT_RPM 2)))⟩, ⟨"TEMP", .int s.temp⟩, ⟨"TRIP", .axes s.trippedNames⟩]

/-- MOTION? (R85). -/
def execMotionQuery (ln : Ln) (s : State) : Host.Outcome State Fault Refusal :=
  .next (s.verb ln .view false (.ok s [] s.motionItems))

/-- Take a step argument into SRV.SPD (R85, R344). -/
def State.takeStep (s : State) (a : StepArg) : State :=
  match a with
  | .default => s
  | .auto => s.setF F.SRV_SPD_AUTO 1
  | .step n => ((s.setF F.SRV_SPD_AUTO 0).setF F.SRV_SPD_STEP n).setF F.SRV_SPD_PACK 0

def StepArg.bad : StepArg → Bool
  | .step n => n == 0 || decide (12 < n)
  | _ => false

/-- MOTION START (R85, R360): outside writing, AUTO runs at step 12 (R344). -/
def execMotionStart (ln : Ln) (step : StepArg) (reverse : Bool) (s : State) : Host.Outcome State Fault Refusal :=
  .next (s.verb ln .operate false
    (if StepArg.bad step = true then .er .badarg []
     else match s.blocked ln true true [.ready] true with
     | some e => .er e []
     | none =>
       let s := s.takeStep step
       let s := s.beginMove .motion reverse s.readStep
       .ok { s with con := { s.con with opMotion := some ln } } [] startedItems))

/-- The controlled stop of a `MOTION STOP`: in a start whose reels are being braked, braking goes on to standstill (R361). -/
def State.orderStop (s : State) : State :=
  match s.mdr.start with
  | some x => if x.phase = .braking then { s with mdr := { s.mdr with start := some { x with stop := true }, order := some .motion } }.refreshMot else s.beginStop
  | none => s.beginStop

/-- MOTION STOP (R85, R184): long operations and READs end with 610. With no reel in commanded motion it ends at once. -/
def execMotionStop (ln : Ln) (s : State) : Host.Outcome State Fault Refusal :=
  .next (s.verb ln .operate false
    (match s.blocked ln true false [] false with
     | some e => .er e []
     | none =>
       if s.mot = .stopped then .ok s [] [⟨"MOT", .word "STOPPED"⟩]
       else
         let moving := s.mdr.order.isSome || s.mdr.stopping
         let s := s.cutMotion .stopped
         let s := { s with con := { s.con with opMotion := some ln } }
         .ok (if moving then (let t := s.orderStop; if t.mdr.order.isSome || t.mdr.stopping then t else t.stopDone) else s.stopDone) [] startedItems))

/-- SPEED (R85, R344): a step change in a start applies when the start ends (R361). -/
def execSpeed (ln : Ln) (step : StepArg) (s : State) : Host.Outcome State Fault Refusal :=
  .next (s.verb ln .operate false
    (if StepArg.bad step = true ∨ step = .default then .er .badarg []
     else match s.blocked ln true false [] false with
     | some e => .er e []
     | none =>
       if s.mot ≠ .moving then .er (if s.mot = .tripped then .tripped else .motstate) []
       else
         let s := s.takeStep step
         match step with
         | .step n =>
           let s := { s with mdr := { s.mdr with step := n } }
           let s := if s.mdr.start = none ∧ s.srv.hitch = false ∧ s.mdr.stopping = false then s.setF F.SRV_SPD_CUR n else s
           .ok s [] [⟨"STEP", .num n⟩]
         | _ => .ok s [] [⟨"STEP", .word "AUTO"⟩]))

end Sys2Proof.Machine
end

