-- ==== Sys2Proof/Machine/Store.lean ====
section
/-! DEFINITION. How a register takes a written value, field by field, by access code and range rule (00_scope R13, R18). -/

namespace Sys2Proof.Machine

/-- A register's value after a write of `v`, one field at a time (R13): RW fields take the value their range rule stores, W1C fields lose the bits written 1, the others keep theirs. -/
def writeFields (i v : Nat) : List FieldDef → Nat → Nat
  | [], old => old
  | f :: fs, old =>
    let new := getBits v f.lo f.width
    let cur := getBits old f.lo f.width
    writeFields i v fs (match f.acc with
      | .rw => putBits old f.lo f.width (RegMap.stored f i new)
      | .w1c => putBits old f.lo f.width (cur &&& (2 ^ f.width - 1 - new))
      | _ => old)

/-- A register's offset. -/
def regOff (d : RegDef) (i : Nat) : Nat := d.base + d.stride * i

/-- Write a whole register (R13). -/
def State.storeReg (s : State) (d : RegDef) (i v : Nat) : State :=
  let off := regOff d i
  if d.wide then s.wr64 off (writeFields i v d.fields (s.rd64 off))
  else s.wr off (BitVec.ofNat 32 (writeFields i v d.fields (s.rd off).toNat))

/-- Write the 32-bit register at an offset by its table. -/
def State.storeAt (s : State) (off : Nat) (v : Word) : State :=
  match RegMap.find off with
  | some (d, i, _) => s.storeReg d i v.toNat
  | none => s

end Sys2Proof.Machine
end

