-- ==== Sys2Proof/Machine/Fan.lean ====
section
/-! DEFINITION. The blower fan: its curve, stalls and restarts, and writes of its registers (13_motor R363, R364). -/

namespace Sys2Proof.Machine

/-- A point of the curve (MDR.FANPTk). -/
def State.fanTemp (s : State) (k : Nat) : Int := ofField 8 (s.getF (F.MDR_FANPT_TEMP k))
def State.fanSpd (s : State) (k : Nat) : Nat := s.getF (F.MDR_FANPT_SPD k)

/-- The curve between points `k` and `k + 1` and on (R363). -/
def State.curveFrom (s : State) (t : Int) : Nat → Nat → Rat
  | 0, k => s.fanSpd k
  | n + 1, k =>
    if t ≤ s.fanTemp (k + 1) then
      (s.fanSpd k : Rat) + ((s.fanSpd (k + 1) : Rat) - s.fanSpd k) * (t - s.fanTemp k : Int) / ((s.fanTemp (k + 1) - s.fanTemp k : Int) : Rat)
    else State.curveFrom s t n (k + 1)

/-- The running speed in % of RATED at a temperature (R363). -/
def State.curve (s : State) (t : Int) : Rat := if t ≤ s.fanTemp 0 then s.fanSpd 0 else s.curveFrom t 7 0

/-- Is the fan to run (R363): it starts at T_on, and stops HYST below it; in manual mode MANUAL 0 keeps it stopped. -/
def State.fanWanted (s : State) (t : Int) : Bool :=
  if 115 ≤ t then true
  else if s.bit F.MDR_FANCFG_AUTO = true then
    (if s.axisOn 2 then decide (s.fanTemp 0 - s.getF F.MDR_FANCFG_HYST < t) else decide (s.fanTemp 0 ≤ t))
  else s.getF F.MDR_FANCFG_MANUAL != 0

/-- The reference moves towards its goal by at most 20 % of RATED a second: 2 % in 100 ms (R363). -/
def slew (cur goal : Rat) : Rat := if cur + 2 < goal then cur + 2 else if goal < cur - 2 then cur - 2 else goal

def State.setFan (s : State) (ref : Rat) (stalls : Nat) (stalled : Bool) : State :=
  { s with mdr := { s.mdr with fanRef := ref, stalls := stalls, stalled := stalled } }

/-- ER 617 once per crossing of 115 degrees, until T has fallen below 110 (R363). -/
def State.overTemp (s : State) (t : Int) : State :=
  if 115 ≤ t ∧ s.mdr.hot = false then { s with mdr := { s.mdr with hot := true } }.log (errRec .overtemp .mdr [])
  else if t < 110 then { s with mdr := { s.mdr with hot := false } } else s

/-- The fan's part of an evaluation (R363): it starts, stops, or follows its reference. -/
def State.fanStep (s : State) (t : Int) : State :=
  let want := s.fanWanted t
  let goal : Rat := if 115 ≤ t then 100 else if s.bit F.MDR_FANCFG_AUTO then s.curve t else s.getF F.MDR_FANCFG_MANUAL
  if s.axisOn 2 = false then
    if want = true ∧ s.mdr.stalled = false ∧ s.latched .fan = false then ((s.startAxis 2).setFan (slew 0 goal) s.mdr.stalls false).tidyLoops else s
  else if want = false ∧ s.axMode 2 = 3 then ((s.gatesOff 2).setFan 0 0 false).tidyLoops
  else s.setFan (slew s.mdr.fanRef goal) s.mdr.stalls s.mdr.stalled

/-- FAN_CURVE_EVAL: `die` and `ext` are the temperatures filtered over 1 s (R363). -/
def execFanCurveEval (die ext : Int) (s : State) : Host.Outcome State Fault Refusal :=
  if s.domainOn 6 = false then .next s
  else
    let s := (s.setF F.MDR_MEAS_DIE (toField 8 die)).setF F.MDR_MEAS_EXT (toField 8 ext)
    let t := max die ext
    .next ((s.overTemp t).fanStep t)

/-- A stall (R364): the gates go off, and the fan waits for FAN_RESTART. Stalls are consecutive until a regular stop, a write of MDR.FANCFG or a reset of R372 (DESIGN CHOICE, log entry 129). -/
def State.fanStall (s : State) : State := (((s.log (errRec .fanstall .mdr [])).gatesOff 2).setFan 0 (s.mdr.stalls + 1) true).tidyLoops

/-- FAN_STALL (R364): only while the fan is energised on its observer. -/
def execFanStall (s : State) : Host.Outcome State Fault Refusal :=
  if s.domainOn 6 = true ∧ s.axMode 2 = 3 ∧ s.bit (F.MDR_ASTAT_OBSOK 2) = true then .next s.fanStall else .next s

/-- FAN_RESTART (R364): after three stalls in a row the fan stays off. -/
def execFanRestart (t : Turning) (s : State) : Host.Outcome State Fault Refusal :=
  if s.domainOn 6 = true ∧ s.mdr.stalled = true ∧ s.mdr.stalls < 3 ∧ s.latched .fan = false then
    .next (((s.startAxis 2).setFan 0 s.mdr.stalls false).fanTurn t)
  else .next s

/-- A write of MDR.FANCFG ends the wait after three stalls (R364). -/
def State.wFancfg (s : State) (v : Word) : WRes :=
  let s := s.storeAt R.MDR_FANCFG v
  .ok (s.setFan s.mdr.fanRef 0 false)

/-- Is the curve in order: TEMP strictly ascending, SPD not decreasing (R363). -/
def State.curveOk (s : State) : Bool := (List.range 7).all (fun k => decide (s.fanTemp k < s.fanTemp (k + 1)) && decide (s.fanSpd k ≤ s.fanSpd (k + 1)))

/-- A write of MDR.FANPTk: one that breaks the order is ignored, with ER 107 (R363). -/
def State.wFanpt (s : State) (k : Nat) (v : Word) : WRes :=
  let t := s.storeAt (R.MDR_FANPT k) v
  if t.curveOk = true then .ok t else .refuse .badarg (some { errRec .badarg .mdr [] with src := .pf })

end Sys2Proof.Machine
end

