-- ==== Sys2Proof/Machine/Control.lean ====
section
/-! DEFINITION. The control law engine: number format, loops, the repetitive controller, the accelerometer, manual mode, coefficient banks, the oscillation detector
(14_control R374 to R397). -/

namespace Sys2Proof.Machine

/-! ### Number format (R375a, R377) -/

/-- A coefficient: its value and its shift. -/
structure Coef where
  c : Int
  sh : Nat
  deriving DecidableEq, Repr

/-- One term of a sum: the product, shifted right and rounded to nearest with ties upward (R377). -/
def term (k : Coef) (x : Int) : Int := if k.sh = 0 then k.c * x else (k.c * x + 2 ^ (k.sh - 1)) / 2 ^ k.sh

/-- Does a sum saturate. -/
def over32 (x : Int) : Bool := sat32 x != x

/-- Clamp to a limit on both sides. -/
def clamp (lim x : Int) : Int := max (-lim) (min lim x)

/-- Slot `j` of loop `n` in the bank the loop is on (R391). -/
def State.coef (s : State) (n j : Nat) : Coef :=
  let i := 32 * n + j
  match s.getF (F.CLE_LSTAT_ACTIVE n) with
  | 0 => ⟨ofField 32 (s.getF (F.CLE_COEFA_V_VALUE i)), s.getF (F.CLE_COEFA_S_SHIFT i)⟩
  | 1 => ⟨ofField 32 (s.getF (F.CLE_COEFB_V_VALUE i)), s.getF (F.CLE_COEFB_S_SHIFT i)⟩
  | _ => ⟨ofField 32 (s.getF (F.CLE_COEFROM_V_VALUE i)), s.getF (F.CLE_COEFROM_S_SHIFT i)⟩

/-- Set sticky flags (R378): bit 0 ACC, 1 INT, 2 OUT, 3 RC, 4 FF. -/
def State.flag (s : State) (n b : Nat) (on : Bool) : State :=
  if on then s.setF (F.CLE_LSTAT_FLAGS n) (putBits (s.getF (F.CLE_LSTAT_FLAGS n)) b 1 1) else s

def State.setErr (s : State) (n : Nat) (e : Int) : State := s.setF (F.CLE_LERR_VALUE n) (toField 32 e)

def loopName (n : Nat) : String := ["CURS", "CURT", "CURF", "COIL", "LAT", "SPDS", "SPDT", "TENS", "FAN"].getD n ""
def bankName (b : Nat) : String := ["A", "B", "ROM"].getD b "ROM"

/-! ### Banks, fallback and the detector (R392 to R395) -/

/-- The start of an execution: a fallback or a pending bank change takes effect, and the state is preset (R390, R392, R395). -/
def State.loopStart (s : State) (n : Fin 9) : State :=
  let l := s.loop n
  if l.toRom = true then
    (((s.setF (F.CLE_LSTAT_ACTIVE n.val) 2).setF (F.CLE_LSTAT_FALLBACK n.val) 1).setF (F.CLE_LSTAT_PENDING n.val) 0).setLoop n { l with toRom := false, preset := true, osc := { l.osc with n := 0, hits := [] } }
  else if s.bit (F.CLE_LSTAT_PENDING n.val) = true then
    ((s.setF (F.CLE_LSTAT_ACTIVE n.val) (s.getF (F.CLE_LCTL_BANK n.val))).setF (F.CLE_LSTAT_PENDING n.val) 0).setLoop n { l with preset := true, osc := { l.osc with n := 0, hits := [] } }
  else s

def State.manual (s : State) (n : Nat) : Bool := s.bit (F.CLE_LCTL_MODE n)
def State.manualOut (s : State) (n : Nat) : Int := ofField 32 (s.getF (F.CLE_LMAN_VALUE n))

/-- An oscillating loop (R395). -/
def State.oscillates (s : State) (n : Fin 9) : State :=
  let l := s.loop n
  let s := s.setLoop n { l with osc := { l.osc with n := 0, hits := [] } }
  let bank := s.getF (F.CLE_LSTAT_ACTIVE n.val)
  if bank ≠ 2 then
    let s := (s.setF (F.CLE_LSTAT_PENDING n.val) 0).setLoop n { s.loop n with toRom := true }
    let s := if n = 4 then s.clearBins else s
    s.log (errRec .oscillate .cle [⟨"LOOP", .word (loopName n.val)⟩, ⟨"BANK", .word (bankName bank)⟩])
  else if n = 8 then s.fanStall
  else
    let s := s.log (errRec .oscstop .cle [⟨"LOOP", .word (loopName n.val)⟩])
    (if s.cart = .writing then s.cutMotion .tripped else s.endOps .oscstop).beginStop

/-- The detector sees the error of an execution in AUTO (R394). -/
def State.detect (s : State) (n : Fin 9) (e : Int) : State :=
  let l := s.loop n
  let floor : Int := s.getF (F.CLE_ODET_FLOOR n.val) * 2 ^ s.getF (F.CLE_ODET_FSH n.val)
  let sign := if floor < e then some true else if e < -floor then some false else l.osc.sign
  let k := l.osc.n + 1
  let crossed := l.osc.sign.isSome && sign != l.osc.sign
  let hits := (if crossed then [k] else []) ++ l.osc.hits.filter (fun h => decide (k < h + s.getF (F.CLE_ODET_WINDOW n.val)))
  let s := s.setLoop n { l with osc := ⟨sign, k, hits⟩ }
  let count := s.getF (F.CLE_ODET_COUNT n.val)
  if count ≠ 0 ∧ count ≤ hits.length then s.oscillates n else s

/-! ### PI loops (R379, R390) -/

/-- What a PI step yields: the output, the integrator, and the flags ACC, INT, OUT. -/
structure PiOut where
  u : Int
  i : Int
  acc : Bool
  int : Bool
  out : Bool
  deriving DecidableEq, Repr

/-- One step of R379 from an error: `f` the feed-forward, `last` the output to be kept when the state is preset (R390). -/
def piStep (kp ki : Coef) (lim e f i : Int) (last : Option Int) : PiOut :=
  let p := term kp e
  match last with
  | some u0 =>
    let inew := sat32 (u0 - p - f)
    let u := sat32 (p + inew + f)
    ⟨clamp lim u, inew, over32 (p + inew + f), over32 (u0 - p - f), clamp lim u != u⟩
  | none =>
    let inew := sat32 (i + term ki e)
    let u := sat32 (p + inew + f)
    let u1 := sat32 (p + i + f)
    let worse := (decide (lim < u) && decide (u1 < u)) || (decide (u < -lim) && decide (u < u1))
    ⟨clamp lim u, if worse then i else inew, over32 (p + inew + f), over32 (i + term ki e), clamp lim u != u⟩

/-- A PI loop executes (R379, R389, R390, R394): `kp`, `ki` and the limit lie in the slots named. -/
def State.runPi (s : State) (n : Fin 9) (jp ji jl : Nat) (e f : Int) : State :=
  let s := s.loopStart n
  let lim := (s.coef n.val jl).c
  let e32 := sat32 e
  let s := (s.setErr n.val e32).flag n.val 0 (over32 e)
  let l := s.loop n
  if s.manual n.val = true then
    let u := clamp lim (s.manualOut n.val)
    (s.setLoop n { l with out := u }).flag n.val 2 (u != s.manualOut n.val)
  else
    let r := piStep (s.coef n.val jp) (s.coef n.val ji) lim e32 f l.i (if l.preset then some l.out else none)
    let s := s.setLoop n { l with out := r.u, i := r.i, preset := false }
    (((s.flag n.val 0 r.acc).flag n.val 1 r.int).flag n.val 2 r.out).detect n e32

/-- The alignment and I/f current of an axis in 1/256 mA (MDR.ASTARTa.ALIGNI). -/
def State.alignCurrent (s : State) (a : Fin 3) : Int := s.getF (F.MDR_ASTART_ALIGNI a.val) * 16 * s.getF (F.MDR_ARATE_ISCALE a.val)

/-- The d-axis reference of an alignment: it rises over half of ALIGNT and is then held (R360). -/
def State.alignRamp (s : State) (a : Fin 3) : Int :=
  let half := s.getF (F.MDR_ASTART_ALIGNT a.val) * 25
  if (s.axis a).ticks < half then roundQ (s.alignCurrent a * (s.axis a).ticks / (half : Rat)) else s.alignCurrent a

/-- The q-axis reference in RUN: the speed loop's, to which a hand-over from I/f moves over 10 ms, 500 periods (R359). -/
def State.runCurrent (s : State) (a : Fin 3) : Int :=
  let cmd := (s.loop (if a.val = 0 then 5 else if a.val = 1 then 6 else 8)).out
  let x := s.axis a
  if x.fromIf = true ∧ x.ticks < 500 then roundQ (s.alignCurrent a + (cmd - s.alignCurrent a) * x.ticks / (500 : Rat)) else cmd

/-- The d and q references of a current loop: MDR's in ALIGN, I/f, CATCH and BRAKE, else the speed loop's (R359, R360, R376; DEDUCED, log entry 122). -/
def State.currentRef (s : State) (a : Fin 3) : Int × Int :=
  match s.axMode a.val with
  | 1 => (s.alignRamp a, 0)
  | 2 => (0, s.alignCurrent a)
  | 4 => (0, 0)
  | 5 => (0, 0)
  | _ => (0, s.runCurrent a)

/-- The electrical speed of an axis that MDR passes to CLE (R358). -/
def State.omega (s : State) (a : Fin 3) : Int := (s.axis a).w * s.getF (F.MDR_ACFG_POLES a.val)

/-- CURRENT_LOOP of axis `a`: d and q separately, decoupled, limited in magnitude (R379). The detector sees the q axis. -/
def execCurrentLoop (a : Fin 3) (s : State) : Host.Outcome State Fault Refusal :=
  let n : Fin 9 := ⟨a.val, by omega⟩
  if s.loopOn a.val = false then .next s
  else
    let (rd, rq) := s.currentRef a
    let idM := (s.axis a).id
    let iqM := (s.axis a).iq
    let omega := s.omega a
    let s := s.loopStart n
    let lim := (s.coef a.val 5).c
    let eD := sat32 (rd - idM)
    let eQ := sat32 (rq - iqM)
    let s := (s.setErr a.val eQ).flag a.val 0 (over32 (rd - idM) || over32 (rq - iqM))
    let l := s.loop n
    if s.manual a.val = true then
      let u := clamp lim (s.manualOut a.val)
      .next ((s.setLoop n { l with out := u, outD := 0 }).flag a.val 2 (u != s.manualOut a.val))
    else
      let kd := s.coef a.val 4
      let fD := term kd (-(omega * iqM))
      let fQ := term kd (omega * idM)
      let wide := 2147483647
      let d := piStep (s.coef a.val 0) (s.coef a.val 1) wide eD fD l.iD (if l.preset then some l.outD else none)
      let q := piStep (s.coef a.val 2) (s.coef a.val 3) wide eQ fQ l.i (if l.preset then some l.out else none)
      let big := decide (lim * lim < d.u * d.u + q.u * q.u)
      let hold := s.bit (F.MDR_ASTAT_MODLIM a.val) && !l.preset
      let worseD := big && decide ((d.u - (d.i - l.iD)) ^ 2 < d.u ^ 2)
      let worseQ := big && decide ((q.u - (q.i - l.i)) ^ 2 < q.u ^ 2)
      let uD := if big then Config.scaleD d.u q.u lim else d.u
      let uQ := if big then Config.scaleQ d.u q.u lim else q.u
      let keepD := hold || (worseD && !l.preset)
      let keepQ := hold || (worseQ && !l.preset)
      let s := s.setLoop n { l with out := uQ, outD := uD, i := if keepQ then l.i else q.i, iD := if keepD then l.iD else d.i, preset := false }
      let s := ((s.flag a.val 0 (d.acc || q.acc)).flag a.val 1 (d.int || q.int)).flag a.val 2 big
      .next (s.detect n eQ)

/-- COIL_LOOP: the coil current of the last sample instant follows LAT's output (R379, R383). -/
def execCoilLoop (s : State) : Host.Outcome State Fault Refusal :=
  if s.loopOn 3 = false then .next s else .next (s.runPi 3 0 1 2 ((s.loop 4).out - s.mdr.coil) 0)

/-! ### Biquads and LAT (R380, R383 to R386) -/

/-- One section from slot `j` on; the second value says that its sum saturated. -/
def State.biquad (s : State) (n j : Nat) (b : Biq) (x : Int) : Biq × Bool :=
  let sum := term (s.coef n j) x + term (s.coef n (j + 1)) b.x1 + term (s.coef n (j + 2)) b.x2 - term (s.coef n (j + 3)) b.y1 - term (s.coef n (j + 4)) b.y2
  (⟨x, b.x1, sat32 sum, b.y1⟩, over32 sum)

/-- A chain of sections: the sections after it, its output, whether one saturated. -/
def State.chain (s : State) (n : Nat) : Nat → List Biq → Int → List Biq × Int × Bool
  | _, [], x => ([], x, false)
  | j, b :: bs, x =>
    let (b', o) := s.biquad n j b x
    let (bs', y, o') := State.chain s n (j + 5) bs b'.y1
    (b' :: bs', y, o || o')

def binOf (r : ReelSt) (j : Nat) : Int := ((r.bins.find? (fun p => p.1 == j)).map (·.2)).getD 0
def ReelSt.put (r : ReelSt) (j : Nat) (v : Int) : ReelSt := { r with bins := (j, v) :: r.bins.filter (fun p => p.1 != j) }

/-- The bin of a reel: bits 31 to 22 of its mechanical angle (R384). -/
def State.bin (s : State) (a : Fin 3) : Nat := s.mechAngle a / 2 ^ 22 % 1024

/-- The bin that lead RCLEAD names (R384). -/
def leadBin (k lead : Nat) (up : Bool) : Nat := if up then (k + lead) % 1024 else (k + 1024 - lead % 1024) % 1024

/-- Bins passed since the last update, at most the last 8 (R385). -/
def passed (last : Option Nat) (k : Nat) (up : Bool) : List Nat :=
  match last with
  | none => [k]
  | some l =>
    let d := if up then (k + 1024 - l) % 1024 else (l + 1024 - k) % 1024
    (List.range (min d 8)).map (fun i => if up then (k + 1024 - i) % 1024 else (k + i) % 1024)

/-- Update bins with the error (R385); the second value says that one saturated. -/
def learn (rcq krc : Coef) (e : Int) : List Nat → ReelSt → ReelSt × Bool
  | [], r => (r, false)
  | j :: js, r =>
    let v := term rcq (binOf r j) + term krc e
    let (r', o) := learn rcq krc e js (r.put j (sat32 v))
    (r', o || over32 v)

/-- Does the repetitive output act, and may the memories learn (R386). -/
def State.rcApplies (s : State) : Bool := s.bit F.CLE_RCCTL_APPLY && !(s.bit (F.CLE_LSTAT_FALLBACK 4))
def State.rcLearns (s : State) : Bool := s.getF F.SRV_STAT_STATE == 2 && s.getF (F.CLE_LSTAT_ACTIVE 4) != 2 && s.bit F.CLE_RCCTL_LEARN

/-- The repetitive output (R384), clamped to RCLIM; the second value says that it saturated. -/
def State.rcOut (s : State) : Int × Bool :=
  if s.rcApplies = false then (0, false)
  else
    let lead := (s.coef 4 23).c.toNat
    let sum := binOf s.cle.sup (leadBin (s.bin 0) lead (s.axis 0).up) + binOf s.cle.tku (leadBin (s.bin 1) lead (s.axis 1).up)
    (clamp (s.coef 4 24).c (sat32 sum), over32 sum)

/-- Both memories learn from a fresh sample (R385). -/
def State.rcLearn (s : State) (e : Int) : State :=
  if s.rcLearns = false then s
  else
    let krc := s.coef 4 21
    let rcq := s.coef 4 22
    let (a, oa) := learn rcq krc e (passed s.cle.sup.last (s.bin 0) (s.axis 0).up) s.cle.sup
    let (b, ob) := learn rcq krc e (passed s.cle.tku.last (s.bin 1) (s.axis 1).up) s.cle.tku
    ({ s with cle := { s.cle with sup := { a with last := some (s.bin 0) }, tku := { b with last := some (s.bin 1) } } }).flag 4 3 (oa || ob)

/-- The LPE of the newest servo sample (R328). -/
def State.sampleLpe (s : State) : Int := ofField 16 (getBits s.srv.sample.toNat 16 16)

/-- LAT in AUTO on a fresh sample (R383, R390): L4's stored outputs are preset when the state is. -/
def State.latAuto (s : State) (e : Int) : State :=
  let l := s.loop 4
  let (c, oc) := s.rcOut
  let f := s.cle.ff
  let (secs, y, ob) := s.chain 4 0 l.secs e
  let want := sat32 (l.out - c - f)
  let secs := if l.preset then secs.dropLast ++ (secs.getLast?.map (fun b => { b with y1 := want, y2 := want })).toList else secs
  let y := if l.preset then want else y
  let u := sat32 (y + c + f)
  let lim := (s.coef 4 20).c
  let s := s.setLoop 4 { l with secs := secs, out := clamp lim u, preset := false }
  let s := ((s.flag 4 0 (ob || over32 (y + c + f))).flag 4 1 (ob || (l.preset && over32 (l.out - c - f)))).flag 4 2 (clamp lim u != u)
  ((s.flag 4 3 oc).rcLearn e).detect 4 e

/-- LAT_LOOP, in even periods: without a new sample it holds its output and states (R374, R383, collision table). -/
def execLatLoop (s : State) : Host.Outcome State Fault Refusal :=
  if s.loopOn 4 = false ∨ s.cle.k % 2 ≠ 0 then .next s
  else
    let s := s.loopStart 4
    if s.manual 4 = true then
      let lim := (s.coef 4 20).c
      let u := clamp lim (s.manualOut 4)
      .next (((s.setLoop 4 { s.loop 4 with out := u }).flag 4 2 (u != s.manualOut 4)).setErr 4 s.sampleLpe)
    else if s.srv.fresh = false then .next s
    else
      let e := s.sampleLpe
      .next (({ s with srv := { s.srv with fresh := false } }.setErr 4 e).latAuto e)

/-! ### Speed, tension and fan loops (R381, R382) -/

/-- TSET in 2^-16 N. -/
def State.tset (s : State) : Int := roundQ ((s.getF F.CLE_TSET_MN * 65536 : Nat) / (1000 : Rat))

/-- One reel's speed loop, at the tape-speed reference and its rate of change in 2^-16 m/s each second; the observer speeds are those of the last sample instant (R375). -/
def State.speedLoop (s : State) (a : Fin 3) (vRef dvRef : Int) : State :=
  let n : Fin 9 := if a.val = 0 then 5 else 6
  if s.loopOn n.val = false then s
  else
    let r := s.speedRef a vRef (s.axis (if a.val = 0 then 1 else 0)).w
    let t := s.loopStart n
    let f := term (t.coef n.val 2) dvRef + term (t.coef n.val 3) s.tset
    t.runPi n 0 1 4 (r - (s.axis a).w) f

/-! ### The ramp generator (R362) -/

/-- How far the reference moves in a reel-speed period of 200 us: 10 m/s2, and 2 m/s2 while a start slows a caught reel down (R360, R362). -/
def State.rampStep (s : State) : Rat := if s.mdr.start.any (fun x => x.phase == .braking && !x.stop) = true then 65536 * 2 / 5000 else 65536 * 10 / 5000

/-- A value moves towards a goal by at most a step. -/
def towards (step cur goal : Rat) : Rat := if cur + step < goal then cur + step else if goal < cur - step then cur - step else goal

/-- REEL_SPEED_LOOP, in periods 1 modulo 10: the reference goes on along its ramp, and SPDS and SPDT follow (R362, R374, R382). -/
def execReelSpeedLoop (s : State) : Host.Outcome State Fault Refusal :=
  if s.domainOn 6 = false ∨ s.cle.k % 10 ≠ 1 then .next s
  else
    let v := towards s.rampStep s.mdr.vRef s.tapeTarget
    let dv := roundQ ((v - s.mdr.vRef) * 5000)
    let s := { s with mdr := { s.mdr with vRef := v } }
    .next ((s.speedLoop 0 (roundQ v) dv).speedLoop 1 (roundQ v) dv)

/-- Is a speed of `w` 2^-16 rad/s at least 5 % of RATED (R381). -/
def State.fastEnough (s : State) (a : Nat) (w : Int) : Bool :=
  decide ((s.getF (F.MDR_ARATE_RATED a) : Rat) * 2 * piRat / 60 * 65536 / 20 ≤ (w.natAbs : Rat))

/-- First-order filtering with TFILT (R381). -/
def State.tfilt (s : State) (y x : Int) : Int := sat32 (y + term (s.coef 7 17) (x - y))

/-- The filtered radius of a reel (R381), in um. -/
def State.newRadius (s : State) (a : Nat) (r : ReelSt) (w vTape : Int) : Int :=
  if s.fastEnough a w = true ∧ s.bit F.SRV_STAT_LPWOK = true then s.tfilt r.radius (quot (1000000 * vTape.natAbs) w.natAbs) else r.radius

/-- The torque of a reel (R381): KT times iq less J times the change of speed over 1 ms. -/
def State.torque (s : State) (jk jj : Nat) (iq w : Int) (r : ReelSt) : Int := sat32 (term (s.coef 7 jk) iq - term (s.coef 7 jj) (sat32 (1000 * (w - r.w))))

/-- The measured tape speed in 2^-16 m/s, in the forward tape sense (R337, R375a). -/
def State.tapeSpeed (s : State) : Int := (if s.mdr.rev then -1 else 1) * roundQ (s.getF F.SRV_SPD_MMS * 65536 / (1000 : Rat))

/-- TENSION_LOOP, in periods 3 modulo 50 (R374, R381, R382): radii, torques, tension, notches, and the trim. -/
def execTensionLoop (s : State) : Host.Outcome State Fault Refusal :=
  if s.loopOn 7 = false ∨ s.cle.k % 50 ≠ 3 then .next s
  else
    let s := s.loopStart 7
    let iqS := (s.axis 0).iq
    let iqT := (s.axis 1).iq
    let wS := (s.axis 0).w
    let wT := (s.axis 1).w
    let vTape := s.tapeSpeed
    let rS := s.newRadius 0 s.cle.sup wS vTape
    let rT := s.newRadius 1 s.cle.tku wT vTape
    let tS := s.torque 13 15 iqS wS s.cle.sup
    let tT := s.torque 14 16 iqT wT s.cle.tku
    let raw := sat32 (roundQ ((quot tT rT - quot tS rS : Int) / (2 : Rat)))
    let t := s.tfilt s.cle.tens raw
    let s := { s with cle := { s.cle with sup := { s.cle.sup with radius := rS, w := wS }, tku := { s.cle.tku with radius := rT, w := wT }, tens := t } }
    let s := (s.setF F.CLE_RADIUS_RS (min 65535 rS.toNat)).setF F.CLE_RADIUS_RT (min 65535 rT.toNat)
    let s := s.setF F.CLE_TENS_MN (toField 16 (max (-32768) (min 32767 (roundQ ((t * 1000 : Int) / (65536 : Rat))))))
    let l := s.loop 7
    let (secs, e, o) := s.chain 7 0 l.secs (sat32 (s.tset - t))
    let s := if s.manual 7 = true then s else (s.setLoop 7 { l with secs := secs }).flag 7 1 o
    .next ((s.flag 7 0 o).runPi 7 10 11 12 (if s.manual 7 = true then sat32 (s.tset - t) else e) 0)

/-- FAN_LOOP, in period 5 (R374, R382). -/
def execFanLoop (s : State) : Host.Outcome State Fault Refusal :=
  if s.loopOn 8 = false ∨ s.cle.k ≠ 5 then .next s else .next (s.runPi 8 0 1 2 (s.fanSpeedRef - (s.axis 2).w) 0)

/-! ### The accelerometer (R387, R388) -/

/-- A read is invalid when its six bytes are all 0x00 or all 0xFF. -/
def accelBad (bs : List Byte) : Bool := bs.all (· == 0#8) || bs.all (· == 0xFF#8)

/-- One axis of a read, low byte first when LE is 1. -/
def State.accelAxis (s : State) (bs : List Byte) (k : Nat) : Int :=
  let a := bs.getD (2 * k) 0#8
  let b := bs.getD (2 * k + 1) 0#8
  if s.bit F.CLE_ACFG_LE then (b ++ a).toInt else (a ++ b).toInt

/-- The feed-forward section with LAT's coefficients (R388). -/
def State.feed (s : State) (x y z : Int) : State :=
  let g0 := term (s.coef 4 25) x + term (s.coef 4 26) y + term (s.coef 4 27) z
  let g := sat32 g0
  let f0 := term (s.coef 4 28) g + term (s.coef 4 29) s.cle.g1 - term (s.coef 4 30) s.cle.f1
  let f := sat32 f0
  let lim := (s.coef 4 31).c
  let s := { s with cle := { s.cle with g1 := g, f1 := f, ff := clamp lim f } }
  (s.flag 4 0 (over32 g0 || over32 f0)).flag 4 4 (clamp lim f != f)

/-- ACCEL_TRANSACTION, in even periods (R387, R388): the command byte goes out, and six bytes come back. -/
def execAccelTransaction (bytes : List Byte) (s : State) : Host.Outcome State Fault Refusal :=
  if s.domainOn 6 = false ∨ s.bit F.CLE_ACFG_EN = false ∨ s.cle.k % 2 ≠ 0 then .next s
  else
    let s := s.emit (.accel (s.getF F.CLE_ACFG_CMD) (s.getF F.CLE_ACFG_DIV + 1))
    let bs := bytes.take 6
    if accelBad bs = true then
      let n := s.cle.badRun + 1
      let s := { s with cle := { s.cle with badRun := n, good := 0 } }.count F.CLE_ACCST_BAD 1
      if 16 ≤ n ∧ s.bit F.CLE_ACCST_FAIL = false then
        .next (({ s with cle := { s.cle with ff := 0, f1 := 0, g1 := 0 } }.setF F.CLE_ACCST_FAIL 1).log (errRec .accelfail .cle []))
      else .next s
    else
      let x := s.accelAxis bs 0
      let y := s.accelAxis bs 1
      let z := s.accelAxis bs 2
      let n := s.cle.good + 1
      let s := { s with cle := { s.cle with badRun := 0, good := n } }
      let s := ((s.setF F.CLE_ACCXY_X (toField 16 x)).setF F.CLE_ACCXY_Y (toField 16 y)).setF F.CLE_ACCZ_Z (toField 16 z)
      if s.bit F.CLE_ACCST_FAIL = true then
        (if 16 ≤ n then .next ({ s with cle := { s.cle with ff := 0, f1 := 0, g1 := 0 } }.setF F.CLE_ACCST_FAIL 0) else .next s)
      else .next (s.feed x y z)

/-! ### Writes (R386, R389, R392, R393) -/

/-- A write that crosses to CKM by XC-12: it stands there while CKM is stopped, and is decided when CKM runs again (R33; log entry 101). -/
def State.toCkm (s : State) (src : Src) (off : Nat) (v : Word) (r : WRes) : WRes :=
  if s.xc.stopped.contains .ckm then .ok { s with xc := { s.xc with cmds := s.xc.cmds ++ [(src, off, v)] } } else r

/-- A write of CLE.LCTLn (R389, R392, R393, R395). -/
def State.wLctl (s : State) (src : Src) (n : Fin 9) (v : Word) : WRes :=
  if n.val ≤ 6 ∧ s.lacksLock src = true then .refuse .nolock none
  else
    let s := if n.val ≤ 6 then s.overrideBy src ("LCTL" ++ toString n.val) else s
    let auto := s.manual n.val && getBits v.toNat 31 1 == 0
    let s := s.setF (F.CLE_LCTL_MODE n.val) (getBits v.toNat 31 1)
    let s := if auto then s.setLoop n { s.loop n with preset := true } else s
    let b := getBits v.toNat 0 2
    if b = 3 then .ok s
    else
      let s := s.setF (F.CLE_LCTL_BANK n.val) b
      let s := if b < 2 then s.setF (F.CLE_LSTAT_FALLBACK n.val) 0 else s
      .ok (s.setF (F.CLE_LSTAT_PENDING n.val) (if b = s.getF (F.CLE_LSTAT_ACTIVE n.val) then 0 else 1))

/-- LOOP_BANK_REQUEST. -/
def execLoopBankRequest (src : Src) (n : Fin 9) (v : Word) (s : State) : Host.Outcome State Fault Refusal :=
  match src with
  | .vf _ => .next s
  | _ => if s.pfOpen src = false then .next (s.pfDrop src) else .next (s.apply src (s.toCkm src (R.CLE_LCTL n.val) v (s.wLctl src n v)))

/-- LOOP_MODE_WRITE. -/
def execLoopModeWrite (src : Src) (n : Fin 9) (v : Word) (s : State) : Host.Outcome State Fault Refusal :=
  match src with
  | .vf _ => .next s
  | _ => if s.pfOpen src = false then .next (s.pfDrop src) else .next (s.apply src (s.toCkm src (R.CLE_LCTL n.val) v (s.wLctl src n v)))

/-- A write of CLE.LMANn (R393). -/
def State.wLman (s : State) (src : Src) (n : Fin 9) (v : Word) : WRes :=
  if n.val ≤ 6 ∧ s.lacksLock src = true then .refuse .nolock none
  else .ok ((if n.val ≤ 6 then s.overrideBy src ("LMAN" ++ toString n.val) else s).setF (F.CLE_LMAN_VALUE n.val) v.toNat)

/-- A write of a coefficient word (R392): locked on the active bank and while a change is pending. -/
def State.wCoef (s : State) (bankB : Bool) (n : Fin 9) (slot : Fin 32) (shiftWord : Bool) (v : Word) : WRes :=
  let i := 32 * n.val + slot.val
  let active := s.getF (F.CLE_LSTAT_ACTIVE n.val)
  if active = (if bankB then 1 else 0) ∨ s.bit (F.CLE_LSTAT_PENDING n.val) = true then .refuse .locked none
  else match bankB, shiftWord with
    | false, false => .ok (s.setF (F.CLE_COEFA_V_VALUE i) v.toNat)
    | false, true => .ok (s.setF (F.CLE_COEFA_S_SHIFT i) v.toNat)
    | true, false => .ok (s.setF (F.CLE_COEFB_V_VALUE i) v.toNat)
    | true, true => .ok (s.setF (F.CLE_COEFB_S_SHIFT i) v.toNat)

/-- The offset of a coefficient word (CLE.COEFA, CLE.COEFB). -/
def coefOff (bankB : Bool) (n : Fin 9) (slot : Fin 32) (shiftWord : Bool) : Nat := (if bankB then 0x105000 else 0x104000) + 0x100 * n.val + 8 * slot.val + (if shiftWord then 4 else 0)

/-- COEFFICIENT_WRITE. -/
def execCoefficientWrite (src : Src) (bankB : Bool) (n : Fin 9) (slot : Fin 32) (shiftWord : Bool) (v : Word) (s : State) :
    Host.Outcome State Fault Refusal :=
  match src with
  | .vf _ => .next s
  | _ => if s.pfOpen src = false then .next (s.pfDrop src) else .next (s.apply src (s.toCkm src (coefOff bankB n slot shiftWord) v (s.wCoef bankB n slot shiftWord v)))

/-- A write of CLE.RCCTL (R386). -/
def State.wRcctl (s : State) (v : Word) : WRes :=
  let s := s.storeAt R.CLE_RCCTL v
  .ok (if getBits v.toNat 2 1 = 1 then s.clearBins else s)

/-- RC_CLEAR. -/
def execRcClear (src : Src) (v : Word) (s : State) : Host.Outcome State Fault Refusal :=
  match src with
  | .vf _ => .next s
  | _ => if s.pfOpen src = false then .next (s.pfDrop src) else .next (s.apply src (s.toCkm src R.CLE_RCCTL v (s.wRcctl v)))

/-- A write of CLE.RADIUS: only while MOT is STOPPED. -/
def State.wRadius (s : State) (v : Word) : WRes :=
  if s.mot ≠ .stopped then .refuse .motstate none
  else
    let s := s.storeAt R.CLE_RADIUS v
    .ok { s with cle := { s.cle with sup := { s.cle.sup with radius := getBits v.toNat 16 16 }, tku := { s.cle.tku with radius := getBits v.toNat 0 16 } } }

/-- RADIUS_WRITE. -/
def execRadiusWrite (src : Src) (v : Word) (s : State) : Host.Outcome State Fault Refusal :=
  match src with
  | .vf _ => .next s
  | _ => if s.pfOpen src = false then .next (s.pfDrop src) else .next (s.apply src (s.toCkm src R.CLE_RADIUS v (s.wRadius v)))

/-- A write of CLE.ACFG: with EN at 0 the feed-forward is 0 (R388). -/
def State.wAcfg (s : State) (v : Word) : WRes :=
  let s := s.storeAt R.CLE_ACFG v
  .ok (if s.bit F.CLE_ACFG_EN = true then s else { s with cle := { s.cle with ff := 0, f1 := 0, g1 := 0, good := 0, badRun := 0 } })

end Sys2Proof.Machine
end

