-- ==== Sys2Proof/Machine/Console.lean ====
section
/-! DEFINITION. Plova sessions: how they begin and end, typing and editing, levels, the motion lock, and the session and identity verbs
(02_command_line R41 to R74, 03_command_reference R81). -/

namespace Sys2Proof.Machine

/-! ### Levels and the ends of sessions -/

/-- The level a session starts at (R41): OPERATE on the UARTs, VIEW on TCP. -/
def startLevel (n : Sid) : Level := if n.val < 2 then .operate else .view

/-- Is this a UART session (R41). -/
def isUart (n : Sid) : Bool := n.val < 2

/-- Characters arrive on CKU: a CKU that was lost runs again (log entry 101). -/
def State.uartAlive (s : State) (n : Sid) : State := if isUart n then s.clkBack .cku else s

/-- The letter of a level. -/
def levelLetter : Level → String
  | .view => "V" | .operate => "O" | .service => "S"

/-- Release the motion lock if its owner is this sender (R43, R44, R74). -/
def State.releaseLock (s : State) (who : Who) : State :=
  if s.con.mlock = some (Who.owner who) then { s with con.mlock := none } else s

/-- Abandon the open update if this sender opened it (R93). -/
def State.abandonUpdate (s : State) (who : Who) : State :=
  match s.con.update with
  | some u => if u.owner = Who.owner who then { s with con.update := none } else s
  | none => s

/-- The record of a session leaving SERVICE (R63). -/
def leaveRec (n : Sid) (new why : String) : ErrRec :=
  { errRec .level .pcl [⟨"NEW", .word new⟩, ⟨"WHY", .word why⟩] with flags := infoFlag, src := .session n.val }

/-- A session drops to a lower level: staging and update end with SERVICE (R92, R93), the lock with OPERATE (R74), and leaving SERVICE is
recorded (R63). -/
def State.drop (s : State) (n : Sid) (lv : Level) (why : String) : State :=
  let x := s.ses n
  let s := s.setSes n { x with level := lv, key := if lv = .service then x.key else none }
  let s := if lv = .view then s.releaseLock (.sess n) else s
  if x.level = .service ∧ lv ≠ .service then
    (s.abandonUpdate (.sess n)).log (leaveRec n (levelLetter lv) why)
  else s

/-- Does this line belong to session `n`. -/
def ofSes (n : Sid) (l : Option Ln) : Bool :=
  match l with
  | some ⟨.sess m, _, _⟩ => m == n
  | _ => false

def keepLn (n : Sid) (l : Option Ln) : Option Ln := if ofSes n l then none else l

/-- Long operations a session started run on, but nobody is told of their end (R80). -/
def State.forgetOps (s : State) (n : Sid) : State :=
  let c : Console := { s.con with
    opCart := s.con.opCart.filter (fun l => !(ofSes n (some l))), opMotion := keepLn n s.con.opMotion, opPower := keepLn n s.con.opPower
    opCensus := s.con.opCensus.filter (fun l => !(ofSes n (some l))), opProof := keepLn n s.con.opProof, opBoot := keepLn n s.con.opBoot
    opTank := keepLn n s.con.opTank, opFw := keepLn n s.con.opFw
    opReset := s.con.opReset.filter (fun p => !(ofSes n (some p.2)))
    opCodec := s.con.opCodec.filter (fun l => !(ofSes n (some l)))
    opFlush := s.con.opFlush.filter (fun l => !(ofSes n (some l.2))) }
  { s with con := c, xlk := { s.xlk with dones := s.xlk.dones.filter (fun (d : XDone) => !(ofSes n (some d.ln))) } }

/-- A session ends (R43): its lines are discarded, its lock, its SERVICE level, its staging and its update go. -/
def State.endSession (s : State) (n : Sid) (why : String) : State :=
  if (s.ses n).isOpen = false then s
  else
    let x := s.ses n
    let s := (s.forgetOps n).releaseLock (.sess n)
    let s := s.abandonUpdate (.sess n)
    let s := s.setSes n Session.closed
    let s := { s with wlatch := s.wlatch.filter (fun (l : Latch) => l.src != .sess n), rlatch := s.rlatch.filter (fun (l : Latch) => l.src != .sess n) }
    if x.level = .service then s.log (leaveRec n "END" why) else s

/-- The defaults a UART session takes at its reset (R41, PCL.UCFGn). -/
def State.uartEcho (s : State) (n : Sid) : Bool := s.bit (if n.val = 0 then F.PCL_UCFG0_ECHO else F.PCL_UCFG1_ECHO)
def State.uartEdit (s : State) (n : Sid) : Bool := s.bit (if n.val = 0 then F.PCL_UCFG0_EDIT else F.PCL_UCFG1_EDIT)

/-- The name of a power state (R398) and of a wake source (R400). -/
def pwrText : Pwr → String
  | .run => "RUN" | .standby => "STANDBY" | .park => "PARK" | .doze => "DOZE" | .sleep => "SLEEP" | .off => "OFF"

def wakeText : Wake → String
  | .ign => "IGN" | .cart => "CART" | .pcie => "PCIE" | .eth => "ETH" | .xlk => "XLK" | .uart => "UART" | .rtc => "RTC"

/-- Open a session at its start level (R41). The first session opened after a wake is sent what woke the device (R89, R94). -/
def State.openSession (s : State) (n : Sid) (port : Nat) : State :=
  let s := s.setSes n { Session.closed with
    isOpen := true, port := port, level := startLevel n
    echo := if isUart n then s.uartEcho n else false
    edit := if isUart n then s.uartEdit n else false }
  match s.con.wakes with
  | [] => s
  | (src, frm) :: _ =>
    ({ s with con.wakes := [] }).event n "WAKE" []
      [⟨"SRC", .word (wakeText src)⟩, ⟨"FROM", .word (pwrText frm)⟩]

/-- Does an Ethernet port listen for Plova connections: TCPEN and a link on the port, and the listener open (R135, PCL.TCPCFG.EN). -/
def State.listens (s : State) (port : Fin 2) : Bool :=
  s.bit F.PCL_TCPCFG_EN && s.bit (if port.val = 0 then F.ETH_PCFG0_TCPEN else F.ETH_PCFG1_TCPEN)
    && s.bit (if port.val = 0 then F.ETH_PSTAT_UP0 else F.ETH_PSTAT_UP1)

/-- A TCP connection is served by session `n`: the device answers with its maximum segment size, the port's MTU less the IPv4 and TCP headers (PRESUMED, log entry 119), and a window scale of its
own (R135; a free value). -/
def State.tcpOpen (s : State) (n : Sid) (port : Fin 2) : State :=
  let mtu := s.getF (if port.val = 0 then F.ETH_PCFG0_MTU else F.ETH_PCFG1_MTU)
  (s.draw.emit (.tcpAccepted n (mtu - 40) (Config.windowScale s.freeCtr).toNat)).openSession n port.val

/-- TCP_CONNECT: the lowest free number from S2 to S5 while D0 and D2 serve it, else the refusing line (R41, R42). A port without TCPEN, or a
closed listener, answers nothing (R135, PCL.TCPCFG.EN). -/
def execTcpConnect (port : Fin 2) (s : State) : Host.Outcome State Fault Refusal :=
  if s.listens port = false then .next s
  else if (s.ses 2).isOpen = false then .next (s.tcpOpen 2 port)
  else if (s.ses 3).isOpen = false then .next (s.tcpOpen 3 port)
  else if (s.ses 4).isOpen = false then .next (s.tcpOpen 4 port)
  else if (s.ses 5).isOpen = false then .next (s.tcpOpen 5 port)
  else .next (s.emit (.tcpRefused port ⟨[], none, .er .sessions [], false⟩))

/-- TCP_CLOSE: the peer closes the connection (R43). -/
def execTcpClose (n : Sid) (s : State) : Host.Outcome State Fault Refusal :=
  if isUart n = true then .next s else .next (s.endSession n "END")

/-- TCP_IDLE_TIMEOUT: no line for PCL.TCPCFG.IDLE seconds; 0 disables the idle close (R43). -/
def execTcpIdleTimeout (n : Sid) (s : State) : Host.Outcome State Fault Refusal :=
  if isUart n = true ∨ s.getF F.PCL_TCPCFG_IDLE = 0 then .next s
  else if (s.ses n).isOpen = false then .next s
  else .next ((s.endSession n "END").emit (.tcpClosed n))

/-- UART_BREAK: the session is reset; the lock goes, motion goes on, and a prompt follows with echo on (R44). While D0 is off the break is a
wake source and reaches no session. -/
def execUartBreak (port : Fin 2) (s : State) : Host.Outcome State Fault Refusal :=
  let n : Sid := ⟨port.val, by omega⟩
  let s := s.uartAlive n
  if (s.ses n).isOpen = false then .next s
  else
    let was := s
    let x := s.ses n
    let s := (s.releaseLock (.sess n)).abandonUpdate (.sess n)
    let s := { s with con := { s.con with opFlush := s.con.opFlush.filter (fun l => !(ofSes n (some l.2))) } }
    let s := s.setSes n { x with
      level := .operate, buf := [], tooLong := false, badChar := false, overrun := false, lastCr := false
      lines := [], key := none, chal := none, echo := s.uartEcho n, edit := s.uartEdit n, crc := false, filter := .all }
    let s := if x.level = .service then s.log (leaveRec n "O" "BREAK") else s
    .next (((s.flushEvents n).prompt n).rtsFrom was n)

/-- SERVICE_TIMEOUT: 15 minutes at SERVICE without a line (R63). -/
def execServiceTimeout (n : Sid) (s : State) : Host.Outcome State Fault Refusal :=
  if (s.ses n).isOpen = false ∨ (s.ses n).level ≠ .service then .next s
  else
    let lv := startLevel n
    .next ((s.drop n lv "TIMEOUT").event n "LEVEL" [] [⟨"NEW", .word (levelLetter lv)⟩])

/-! ### Typing (R46 to R48, R53, R54) -/

/-- The most characters a line holds (R48). -/
def lineMax : Nat := 255


/-- CHARACTER_RECEIVED: a character that is no terminator and no editing character of the session. A printable one is kept up to 255; the
256th makes the line too long and further ones are discarded; one that meets a full buffer without flow control is dropped and spoils
its line, and with flow control none is sent; control characters spoil the line (R46 to R48, R54). -/
def execCharacterReceived (n : Sid) (c : Char) (s : State) : Host.Outcome State Fault Refusal :=
  let s := s.uartAlive n
  let x := s.ses n
  if x.isOpen = false then .next s
  else if c.toNat < 32 ∨ 126 < c.toNat then .next (s.setSes n { x with badChar := true, lastCr := false })
  else if x.tooLong = true then .next (s.setSes n { x with lastCr := false })
  else if isUart n = true ∧ bufMax ≤ buffered x then
    (if s.uartFlow n = true then .next s else .next (s.setSes n { x with overrun := true, lastCr := false }))
  else if x.buf.length < lineMax then
    .next (((s.setSes n { x with buf := x.buf ++ [c], lastCr := false }).echoTo n [c]).rtsFrom s n)
  else .next (s.setSes n { x with tooLong := true, lastCr := false })

/-- LINE_EDIT_CHARACTER (R53): with editing off it is a control character (R48). BS or DEL with no character to erase sends nothing (DESIGN CHOICE, log entry 117). -/
def execLineEditCharacter (n : Sid) (c : EditChar) (s : State) : Host.Outcome State Fault Refusal :=
  let s := s.uartAlive n
  let x := s.ses n
  if x.isOpen = false then .next s
  else if x.edit = false then .next (s.setSes n { x with badChar := true, lastCr := false })
  else
    let clean : Session := { x with buf := [], tooLong := false, badChar := false, overrun := false, lastCr := false }
    match c with
    | .bs | .del =>
      if x.buf = [] then .next (s.setSes n { x with lastCr := false })
      else .next (((s.setSes n { x with buf := x.buf.dropLast, lastCr := false }).echoTo n [Char.ofNat 8, ' ', Char.ofNat 8]).rtsFrom s n)
    | .ctrlU => .next ((((s.setSes n clean).echoTo n ['\r', '\n']).prompt n).rtsFrom s n)
    | .ctrlC => .next ((((s.setSes n clean).echoTo n ['^', 'C', '\r', '\n']).prompt n).rtsFrom s n)

/-! ### Session verbs (R61, R62, R74, R81) -/

/-- Microseconds: 60 s, 10 minutes. -/
def chalUs : Nat := 60000000
def lockoutUs : Nat := 600000000

/-- A fresh challenge: four characters that nothing constrains (R62, log entry 14). -/
def drawChal (k : Nat) : List Char :=
  [chalChar (Config.challengeChar k), chalChar (Config.challengeChar (k + 1)), chalChar (Config.challengeChar (k + 2)), chalChar (Config.challengeChar (k + 3))]

/-- The response Laryen's tool gives to a challenge (R62, log entry 14). -/
def State.goodResponse (s : State) (chal : List Char) : List Char :=
  (List.finRange 6).map (fun i => chalChar (Config.responseChar chal s.boot.fuses.serial s.boot.fuses.serviceKey i))

/-- Does another session hold SERVICE (R62). -/
def State.svcHolder (s : State) : Option Sid :=
  (List.finRange 6).find? (fun n => (s.ses n).isOpen && (s.ses n).level == .service)

/-- Is SERVICE locked out now (R62). -/
def State.lockedOut (s : State) : Bool :=
  match s.con.lockout with
  | some t => decide (s.us < t)
  | none => false

/-- Denials within the last 10 minutes, with one more (R62). -/
def State.denied (s : State) : List Nat := s.us :: s.con.denials.filter (fun t => decide (s.us < t + lockoutUs))

/-- A wrong response: the challenge is spent, and the third denial starts a lockout and writes its record (R62, R63). -/
def State.deny (s : State) (n : Sid) : State :=
  let x := s.ses n
  let ds := s.denied
  let s := s.setSes n { x with chal := none }
  if ds.length < 3 then { s with con.denials := ds }
  else ({ s with con := { s.con with denials := [], lockout := some (s.us + lockoutUs) } }).log
    { errRec .lockout .pcl [] with flags := infoFlag, src := .session n.val }

/-- `LEVEL SERVICE rrrrrr` on a session; the checks in the order 202, 204, 405, comparison (DEDUCED, log entry 15). -/
def State.levelResponse (s : State) (ln : Ln) (n : Sid) (r : List Char) : State :=
  let x := s.ses n
  match x.chal with
  | none => s.reply ln [] (.er .nochal [])
  | some (c, t) =>
    if t + chalUs < s.us then (s.setSes n { x with chal := none }).reply ln [] (.er .nochal [])
    else if s.lockedOut = true then s.reply ln [] (.er .lockout [])
    else if (match s.svcHolder with | some m => m != n | none => false) = true then s.reply ln [] (.er .svcbusy [])
    else if r.map upper ≠ s.goodResponse c then (s.deny n).reply ln [] (.er .denied [])
    else
      let s := s.setSes n { x with chal := none, level := .service }
      let s := if x.level = .service then s
        else s.log { errRec .level .pcl [⟨"NEW", .word "S"⟩] with flags := infoFlag, src := .session n.val }
      s.reply ln [] (.ok [⟨"LEVEL", .word "S"⟩])

/-- LEVEL (R61, R62, R81). A forwarded `LEVEL` has no session on this node to act on and reports the level it was carried with (DESIGN CHOICE,
log entry 16). -/
def execLevel (ln : Ln) (arg : LevelArg) (s : State) : Host.Outcome State Fault Refusal :=
  if s.present ln.who = false then .next s
  else match ln.who with
  | .remote .. => .next (s.reply ln [] (.ok [⟨"LEVEL", .word (levelLetter (s.levelOf ln.who))⟩]))
  | .sess n =>
    match arg with
    | .view => .next ((s.drop n .view "CMD").reply ln [] (.ok [⟨"LEVEL", .word "V"⟩]))
    | .operate =>
      if isUart n = false ∧ (s.ses n).level ≠ .service ∧ s.bit F.PCL_TCPCFG_OPOK = false then .next (s.reply ln [] (.er .noremote []))
      else .next ((s.drop n .operate "CMD").reply ln [] (.ok [⟨"LEVEL", .word "O"⟩]))
    | .challenge =>
      let c := drawChal s.freeCtr
      let x := s.ses n
      .next (({ s with freeCtr := s.freeCtr + 4 }.setSes n { x with chal := some (c, s.us) }).reply ln [] (.ok [⟨"CHAL", .chars c⟩]))
    | .response r => .next (s.levelResponse ln n r)

/-- ON or OFF. -/
def onOff (b : Bool) : Val := .word (if b then "ON" else "OFF")

/-- A filter's name. -/
def filterName : EvFilter → String
  | .all => "ALL" | .err => "ERR" | .none => "NONE"

/-- The settings of a session as `SESSION` reports them (R81). -/
def settings (x : Session) : List Item :=
  [⟨"ECHO", onOff x.echo⟩, ⟨"EDIT", onOff x.edit⟩, ⟨"CRC", onOff x.crc⟩, ⟨"EVENTS", .word (filterName x.filter)⟩]

/-- SESSION (R81): at least one argument, else `ER 108`. -/
def execSession (ln : Ln) (echo edit crc : Option Bool) (events : Option EvFilter) (s : State) : Host.Outcome State Fault Refusal :=
  .next (s.verb ln .view true
    (match ln.who with
     | .remote .. => .er .args []
     | .sess n =>
       if echo = none ∧ edit = none ∧ crc = none ∧ events = none then .er .args []
       else
         let x := s.ses n
         let x' : Session := { x with
           echo := echo.getD x.echo, edit := edit.getD x.edit, crc := crc.getD x.crc, filter := events.getD x.filter }
         .ok (s.setSes n x') [] (settings x')))

/-- SESSION? (R81). -/
def execSessionQuery (ln : Ln) (s : State) : Host.Outcome State Fault Refusal :=
  .next (s.verb ln .view true
    (match ln.who with
     | .remote .. => .ok s [] [⟨"S", .dash⟩, ⟨"PORT", .dash⟩, ⟨"LEVEL", .word (levelLetter (s.levelOf ln.who))⟩]
     | .sess n =>
       let x := s.ses n
       .ok s [] ([⟨"S", .num n.val⟩,
         ⟨"PORT", .word (if n.val = 0 then "UART0" else if n.val = 1 then "UART1" else "TCP")⟩,
         ⟨"LEVEL", .word (levelLetter x.level)⟩] ++ settings x)))

/-- LOCK MOTION (R74). To the session that holds the lock already it answers OK (DESIGN CHOICE, log entry 118). -/
def execLockMotion (ln : Ln) (s : State) : Host.Outcome State Fault Refusal :=
  .next (s.verb ln .operate false
    (match s.con.mlock with
     | some w =>
       if w = Who.owner ln.who then .ok s [] [⟨"LOCK", whoVal ln.who⟩]
       else .er .held [⟨"HOLDER", whoVal w⟩]
     | none => .ok { s with con.mlock := some (Who.owner ln.who) } [] [⟨"LOCK", whoVal ln.who⟩]))

/-- FREE MOTION (R74): only the holder. -/
def execFreeMotion (ln : Ln) (s : State) : Host.Outcome State Fault Refusal :=
  .next (s.verb ln .operate false
    (if s.holdsLock ln = true then .ok { s with con.mlock := none } [] [⟨"LOCK", .word "NONE"⟩]
     else .er .nolock []))

/-- The verbs and their syntax (R81 to R91), by first token. Where the forms of a token need two levels, the level printed is that of its first form, as `RESET WARM` and `RESET DOMAIN` need SERVICE and `RESET
FUNCTION` OPERATE (DESIGN CHOICE, log entry 17). -/
def helpTable : List (String × String × String) :=
  [("LEVEL", "V", "LEVEL VIEW|OPERATE|SERVICE [resp]"),
   ("SESSION", "V", "SESSION [ECHO=ON|OFF] [EDIT=ON|OFF] [CRC=ON|OFF] [EVENTS=ALL|ERR|NONE]"),
   ("SESSION?", "V", "SESSION?"), ("LOCK", "O", "LOCK MOTION"), ("FREE", "O", "FREE MOTION"), ("HELP?", "V", "HELP? [verb]"),
   ("ID?", "V", "ID?"), ("STATE?", "V", "STATE?"), ("TIME?", "V", "TIME?"), ("ERR?", "V", "ERR? [COUNT=1..32] [FROM=seq]"),
   ("ERR", "S", "ERR CLEAR"), ("CONTACT?", "V", "CONTACT?"), ("PEEK", "V", "PEEK target [COUNT=1..16]"), ("POKE", "S", "POKE target value")] ++
  [("LOAD", "O", "LOAD [C3=ON|OFF]"), ("UNLOAD", "O", "UNLOAD"), ("CART?", "V", "CART?"), ("RECORD", "O", "RECORD START|STOP"),
   ("FLUSH", "O", "FLUSH"), ("MOTION", "O", "MOTION START [STEP=1..12|AUTO] [DIR=FWD|REV] or MOTION STOP"),
   ("SPEED", "O", "SPEED STEP=1..12|AUTO"), ("LOCATE", "O", "LOCATE DS=n or LOCATE LPW=x"), ("MOTION?", "V", "MOTION?"),
   ("TRIP?", "V", "TRIP?"), ("TRIP", "O", "TRIP CLEAR SUPPLY|TAKEUP|FAN|ALL"), ("TENANT?", "V", "TENANT? t"),
   ("TENANT", "O", "TENANT t [CLASS=CONTINUOUS|STANDARD|BULK] [WEIGHT=1..255] [RATE=MB/s]"),
   ("QUEUE", "O", "QUEUE CREATE t [Q=id] [RING=addr] [SIZE=n] [TIMEOUT=ms] or QUEUE DELETE q"), ("QUEUE?", "V", "QUEUE? q")] ++
  [("RESET", "S", "RESET WARM [KEEPTANK] or RESET DOMAIN D1..D9 or RESET FUNCTION t"),
   ("POWER", "O", "POWER RUN|STANDBY|PARK|DOZE|SLEEP|OFF"), ("POWER?", "V", "POWER?"), ("NODE?", "V", "NODE?"),
   ("CENSUS", "O", "CENSUS"), ("CENSUS?", "V", "CENSUS?"), ("TEST", "S", "TEST CODEC|PROOF|BOOT or TEST TANK bank"),
   ("KEY", "S", "KEY HMAC|AES slot part hex or KEY ERASE slot [HMAC|AES|ALL]"), ("KEY?", "V", "KEY? slot"),
   ("FWUPDATE", "S", "FWUPDATE START size or FWUPDATE COMMIT crc32 or FWUPDATE ABORT"), ("FLASH", "S", "FLASH WRITE offset w1 to w16")]

/-- HELP? (R81; the verbs are counted by their first token, DESIGN CHOICE, log entry 17). -/
def execHelpQuery (ln : Ln) (v : Option (List Char)) (s : State) : Host.Outcome State Fault Refusal :=
  .next (s.verb ln .view true
    (match v with
     | none => .ok s (helpTable.map (fun r => [⟨"", .word r.1⟩, ⟨"", .word r.2.1⟩])) [⟨"VERBS", .num helpTable.length⟩]
     | some name =>
       match helpTable.find? (fun r => r.1.toList == name.map upper) with
       | some r => .ok s [[⟨"", .word r.2.2⟩]] [⟨"VERBS", .num 1⟩]
       | none => .er .noverb []))

/-- A firmware version written as major.minor.patch (R102). -/
def versionText (w : Word) : List Char :=
  decText (w.toNat / 2 ^ 24) ++ '.' :: (decText (w.toNat / 2 ^ 16 % 256) ++ '.' :: decText (w.toNat % 2 ^ 16))

/-- The node ID as it is reported: `-` while unassigned (R122). -/
def State.nodeVal (s : State) : Val := if s.bit F.XLK_STAT_IDVALID then .num (s.getF F.XLK_STAT_NODE) else .dash

/-- The fields of `ID?` and of the first CONTACT? line (R81, R96). -/
def State.idItems (s : State) : List Item :=
  [⟨"PART", .word "3260"⟩, ⟨"STEP", .word "B0"⟩, ⟨"SERIAL", .chars s.boot.fuses.serial⟩, ⟨"FW", .chars (versionText s.boot.version)⟩,
   ⟨"NODE", s.nodeVal⟩, ⟨"MASTER", .num (s.getF F.XLK_STAT_MASTER)⟩]

/-- ID? (R81). -/
def execIdQuery (ln : Ln) (s : State) : Host.Outcome State Fault Refusal :=
  .next (s.verb ln .view true (.ok s [] s.idItems))

/-- ETH.TOFS as a signed number. -/
def State.offsetNs (s : State) : Int := (BitVec.ofNat 32 (s.getF F.ETH_TOFS_OFFSET)).toInt

/-- SYNC reads LOCKED or FREE (R139). -/
def State.syncWord (s : State) : String := if s.bit F.ETH_TSTAT_LOCKED then "LOCKED" else "FREE"

def State.timeItems (s : State) : List Item :=
  [⟨"T", .sec s.now⟩, ⟨"SYNC", .word s.syncWord⟩, ⟨"OFFSET", .int s.offsetNs⟩]

/-- TIME? (R81). -/
def execTimeQuery (ln : Ln) (s : State) : Host.Outcome State Fault Refusal :=
  .next (s.verb ln .view false (.ok s [] s.timeItems))

/-! ### The ERR log verbs (R81, R470, R472, R480) -/

/-- Names of the set FLAGS bits joined by `+`. -/
def flagNames (f : RecFlags) : List String :=
  (if f.tmo then ["TMO"] else []) ++ (if f.retry then ["RETRY"] else []) ++ (if f.unknown then ["UNKNOWN"] else []) ++
  (if f.info then ["INFO"] else []) ++ (if f.restored then ["RESTORED"] else [])

def plusJoin : List String → List Char
  | [] => []
  | [w] => w.toList
  | w :: ws => w.toList ++ '+' :: plusJoin ws

/-- The INFO value of an `ERR?` line (R472). -/
def infoVal (r : ErrRec) : Val :=
  let fs := plusJoin (flagNames r.flags)
  let tx := infoText r.info []
  if fs = [] then (if tx = [] then .dash else .chars tx)
  else .chars (fs ++ ';' :: tx)

/-- One record as an `ERR?` line (R81). -/
def recItems (r : ErrRec) : List Item :=
  [⟨"SEQ", .num r.seq⟩, ⟨"T", .sec r.t⟩, ⟨"CODE", .num r.code.code⟩, ⟨"TOK", .word r.code.token⟩, ⟨"BLK", .word r.blk.text⟩, ⟨"INFO", infoVal r⟩]

/-- SEQ of the oldest record held, or of the next to be written (ERR.FIRSTSEQ). -/
def ErrLog.firstSeq (l : ErrLog) : Nat :=
  match l.recs.getLast? with
  | some r => r.seq
  | none => l.next

/-- The records an `ERR?` selects, oldest first (R81): the newest COUNT, or up to COUNT from SEQ FROM on, in serial arithmetic. -/
def ErrLog.select (l : ErrLog) (count : Nat) (start : Option Nat) : List ErrRec :=
  match start with
  | none => (l.recs.take count).reverse
  | some f =>
    let first := l.firstSeq
    let held := l.recs.length
    let d := (f + 2 ^ 32 - first) % 2 ^ 32
    let skip := if d < 2 ^ 31 then d else 0
    ((l.recs.reverse.drop (min skip held)).take count)

/-- ERR? (R81). COUNT outside 1 to 32 fails with `ER 107` (R77). -/
def execErrQuery (ln : Ln) (count start : Option Nat) (s : State) : Host.Outcome State Fault Refusal :=
  .next (s.verb ln .view true
    (let c := count.getD 16
     if c = 0 ∨ 32 < c ∨ 2 ^ 32 ≤ start.getD 0 then .er .badarg []
     else
       let rs := s.err.select c start
       let nx := match rs.getLast? with | some r => (r.seq + 1) % 2 ^ 32 | none => s.err.next
       .ok s (rs.map recItems) [⟨"RECORDS", .num rs.length⟩, ⟨"NEXT", .num nx⟩]))

/-- ERR CLEAR (R470, R480): CLEARED is HELD before the clear. -/
def execErrClear (ln : Ln) (s : State) : Host.Outcome State Fault Refusal :=
  .next (s.verb ln .service false (.ok s.clearLog [] [⟨"CLEARED", .num s.err.recs.length⟩]))

/-- ERR_CTL_CLEAR (R470): the write needs its key, and an access that may write it. -/
def execErrCtlClear (src : Src) (v : Word) (s : State) : Host.Outcome State Fault Refusal :=
  match src with
  | .vf _ => .next s
  | _ =>
    if s.pfOpen src = false then .next (s.pfDrop src)
    else if getBits v.toNat 16 16 = 0x4C59 ∧ getBits v.toNat 0 1 = 1 then .next s.clearLog
    else .next s

end Sys2Proof.Machine
end

