-- ==== Sys2Proof/Machine/Stripe.lean ====
section
/-! DEFINITION. Stripe groups at their head (16_xasen R451 to R458): members, sessions over the link, rows, durability, loss and return of members. -/

namespace Sys2Proof.Machine

def State.group (s : State) (g : Fin 4) : SGroup := s.xlk.groups[g]
def State.setGroup (s : State) (g : Fin 4) (x : SGroup) : State := { s with xlk := { s.xlk with groups := s.xlk.groups.set g x } }

/-- K, SU in bytes, and the stripe queue of a group (XLK.SGCFGg). -/
def State.sgK (s : State) (g : Fin 4) : Nat := s.getF (F.XLK_SGCFG_K g.val)
def State.sgSu (s : State) (g : Fin 4) : Nat := 1024 * 2 ^ s.getF (F.XLK_SGCFG_SUL g.val)
def State.sgQid (s : State) (g : Fin 4) : Nat := s.getF (F.XLK_SGCFG_QID g.val)

/-- The offset of XLK.SGMEMg_i, its NODE and its MQ. -/
def memOff (g i : Nat) : Nat := 0x120104 + 128 * g + 4 * i
def State.memNode (s : State) (g : Fin 4) (i : Nat) : Nat := getBits (s.rd (memOff g.val i)).toNat 16 16
def State.memQ (s : State) (g : Fin 4) (i : Nat) : Nat := getBits (s.rd (memOff g.val i)).toNat 0 10

/-- Is a member's node known to be out of reach: on the master, stale or without an entry in the census (R456). -/
def State.unreached (s : State) (n : Nat) : Bool :=
  s.isMaster && n != s.nodeId && !(s.xlk.census.any (fun (c : Census) => c.id == n && !c.stale))

/-- Is the member at an index lost: its session has ended without reopening, or its node is out of reach (R456). -/
def State.memLost (s : State) (g : Fin 4) (i : Nat) : Bool :=
  (match (s.group g).mems[i]? with | some m => m.lost | none => false) || s.unreached (s.memNode g i)

/-- The members lost, by index. -/
def State.lostMems (s : State) (g : Fin 4) : List Nat := (List.range (s.group g).mems.length).filter (s.memLost g)

/-! ### Sessions over the link (R452) -/

/-- Send a DRT datagram of the head to a member (R452). -/
def State.memSend (s : State) (g : Fin 4) (i : Nat) (ty session seq aux : Nat) (payload : List Byte) : State :=
  s.route (s.frame tDRT (s.memNode g i) 0 (drtBytes ⟨0#32, 0#16, ty, session, 0, seq, aux, payload⟩))

/-- The tenant of the stripe queue, which the head names in its OPENs; and the window it asks for (DESIGN CHOICE, log entry 45). -/
def State.sgTenant (s : State) (g : Fin 4) : Nat := match s.queue? (s.sgQid g) with | some q => q.tenant.val | none => 0
def openWin : Nat := 256

/-- Open a session to a member's queue, with a NONCE of its own (R145, R452, R458). -/
def State.openMem (s : State) (g : Fin 4) (i : Nat) : State :=
  match (s.group g).mems[i]? with
  | none => s
  | some m =>
    let x := s.group g
    let m := { m with nonce := m.nonce + 1, sess := none, seq := 1, ridx := 0, cum := 0, unack := [], ndur := 0 }
    (s.setGroup g { x with mems := x.mems.set i m }).memSend g i 1 0 0 m.nonce
      (beBytes 1 (s.sgTenant g) ++ beBytes 1 0 ++ beBytes 2 (s.memQ g i) ++ beBytes 2 openWin ++ beBytes 2 0)

/-- Datagrams of a member that may leave now: numbered up to CUM + WIN (R150). -/
def State.pumpList (s : State) (g : Fin 4) (i : Nat) (m : SMember) (sess : Nat) : List Unack → State × List Unack
  | [] => (s, [])
  | u :: us =>
    let go := !u.sent && decide (u.seq ≤ m.cum + m.win)
    let s := if go then s.memSend g i 3 sess (u.seq % 2 ^ 32) 0 u.payload else s
    let (s, us) := State.pumpList s g i m sess us
    (s, { u with sent := u.sent || go } :: us)

/-- Send what a member's window takes. -/
def State.pump (s : State) (g : Fin 4) (i : Nat) : State :=
  match (s.group g).mems[i]? with
  | none => s
  | some m =>
    match m.sess with
    | none => s
    | some k =>
      let (s, l) := s.pumpList g i m k m.unack
      let x := s.group g
      s.setGroup g { x with mems := x.mems.set i { m with unack := l } }

/-- The segments of a record of a member's session, each of at most 960 bytes (R147, R452). -/
def segments (ridx rlen : Nat) : Nat → Nat → Nat → List Byte → List Unack
  | 0, _, _, _ => []
  | n + 1, seq, off, d =>
    if d = [] then []
    else ⟨seq, false, beBytes 4 ridx ++ beBytes 4 off ++ beBytes 4 rlen ++ beBytes 8 0 ++ d.take 960⟩ :: segments ridx rlen n (seq + 1) (off + 960) (d.drop 960)

/-- Put a unit, as one DRT record, into a member's session (R454). -/
def State.putUnit (s : State) (g : Fin 4) (i : Nat) (unit : List Byte) : State × Option SUnit :=
  match (s.group g).mems[i]? with
  | none => (s, none)
  | some m =>
    let segs := segments m.ridx unit.length (unit.length / 960 + 1) m.seq 0 unit
    let x := s.group g
    let m' := { m with seq := m.seq + segs.length, ridx := m.ridx + 1, unack := m.unack ++ segs }
    ((s.setGroup g { x with mems := x.mems.set i m' }).pump g i, some ⟨i, m.base + m.ridx⟩)

/-! ### Durability (R455) -/

/-- Is a unit a row still waits for: not DURABLE on its member, and the member not lost (R455, R456). -/
def State.unitOpen (s : State) (g : Fin 4) (u : SUnit) : Bool :=
  !(s.memLost g u.mem) && match (s.group g).mems[u.mem]? with
    | some m => decide (m.base + m.ndur ≤ u.seq)
    | none => false

/-- Is a unit not DURABLE on its member. -/
def State.unitShort (s : State) (g : Fin 4) (u : SUnit) : Bool :=
  match (s.group g).mems[u.mem]? with
  | some m => decide (m.base + m.ndur ≤ u.seq)
  | none => false

/-- Make records DURABLE. -/
def State.stripeDurable (s : State) : List Nat → State
  | [] => s
  | u :: us =>
    State.stripeDurable (match s.rec? u with
      | some r => (s.setRec { r with level := .durable, pages := [], whole := true }).freePagesOf r.pages
      | none => s) us

/-- Is a record wholly in rows that have ended (R455). -/
def SGroup.finished (x : SGroup) (u : Nat) : Bool :=
  x.taken.contains u && !(x.runs.any (fun p => p.1 == u)) && !(x.resend.contains u) && !(x.rows.any (fun (r : SRow) => r.uids.contains u))

/-- Close the sessions of a group that stops (R157, R466). -/
def State.closeMems (s : State) (g : Fin 4) : List Nat → State
  | [] => s
  | i :: is =>
    State.closeMems (match (s.group g).mems[i]? with
      | some m => match m.sess with
        | some k => s.memSend g i 5 k 0 ((m.seq - 1) % 2 ^ 32) []
        | none => s
      | none => s) g is

/-- Rows whose units are all DURABLE, or no longer waited for, end; their records become DURABLE (R455, R456); a group that is ending stops once every row is final (R466). -/
def State.rowsDone (s : State) (g : Fin 4) : State :=
  let x := s.group g
  let open' := x.rows.filter (fun (r : SRow) => r.units.any (s.unitOpen g) || decide (2 ≤ (r.units.filter (fun u => s.unitShort g u && s.memLost g u.mem)).length))
  let gone := (x.rows.filter (fun (r : SRow) => !(open'.any (fun (y : SRow) => y.no == r.no)))).flatMap (fun (r : SRow) => r.uids)
  let x := { x with rows := open' }
  let s := s.setGroup g x
  let fin := (gone.filter x.finished).eraseDups
  let s := if fin = [] then s else ((s.stripeDurable fin).setGroup g { x with taken := x.taken.filter (fun u => !(fin.contains u)) }).report
  let x := s.group g
  if x.ending = true ∧ x.rows = [] ∧ x.buf = [] ∧ x.resend = [] then
    (s.closeMems g (List.range x.mems.length)).setGroup g SGroup.reset
  else s

/-! ### DEGRADED and FAILED (R456, R457) -/

/-- The ERR record of a group (R529). -/
def groupRec (e : Er) (g : Fin 4) (node : Nat) : ErrRec := errRec e .xlk [⟨"GROUP", .num g.val⟩, ⟨"NODE", .num node⟩]

/-- Rows with units that are not DURABLE on two lost members are abandoned; their records are to be sent again (R457). -/
def State.dropRows (s : State) (g : Fin 4) : State :=
  let x := s.group g
  let bad := x.rows.filter (fun (r : SRow) => decide (2 ≤ (r.units.filter (fun u => s.unitShort g u && s.memLost g u.mem)).length))
  let us := (bad.flatMap (fun (r : SRow) => r.uids)).eraseDups
  if bad = [] then s
  else
    s.setGroup g { x with
      rows := x.rows.filter (fun (r : SRow) => !(bad.any (fun (b : SRow) => b.no == r.no)))
      taken := x.taken.filter (fun u => !(us.contains u)), resend := (x.resend ++ us).eraseDups }

/-- Bring a group's state up to date with its members (R456, R457). -/
def State.evalGroup (s : State) (g : Fin 4) : State :=
  if (s.group g).on = false then s
  else
    let lost := s.lostMems g
    let old := s.getF (F.XLK_SGCFG_STATE g.val)
    let new := min 2 lost.length
    let node := s.memNode g (lost.getLast?.getD 0)
    let s := s.setF (F.XLK_SGCFG_STATE g.val) new
    let s := if new = 1 ∧ old = 0 then s.log (groupRec .stripedeg g node)
      else if new = 2 ∧ old ≠ 2 then s.log (groupRec .stripefail g node) else s
    (s.dropRows g).rowsDone g

def State.evalGroups (s : State) : State := (((s.evalGroup 0).evalGroup 1).evalGroup 2).evalGroup 3

/-- A member's session has ended (R456). -/
def State.loseMem (s : State) (g : Fin 4) (i : Nat) : State :=
  match (s.group g).mems[i]? with
  | none => s
  | some m =>
    let x := s.group g
    (s.setGroup g { x with mems := x.mems.set i { m with lost := true, sess := none, unack := [] } }).evalGroup g

/-! ### Rows (R453, R454) -/

def xorBytes : List Byte → List Byte → List Byte
  | a :: as, b :: bs => (a ^^^ b) :: xorBytes as bs
  | _, _ => []

/-- Cut a row into units. -/
def unitsOf (su : Nat) : Nat → List Byte → List (List Byte)
  | 0, _ => []
  | k + 1, d => d.take su :: unitsOf su k (d.drop su)

/-- The parity unit of a row. -/
def parityUnit (su : Nat) (us : List (List Byte)) : List Byte := us.foldl xorBytes (List.replicate su 0#8)

/-- A unit header (R454). -/
def unitHeader (flags g k ix miss row : Nat) (uid : DWord) (su : Nat) : List Byte :=
  let h := beBytes 2 0x5853 ++ beBytes 1 1 ++ beBytes 1 flags ++ beBytes 1 g ++ beBytes 1 k ++ beBytes 1 ix ++ beBytes 1 miss ++ beBytes 6 row ++ beBytes 2 0 ++
    beBytes 8 uid.toNat ++ beBytes 4 su
  h ++ beBytes 4 (crc32 h)

/-- Put the units of a row into the members' sessions, but the one of a lost member (R454, R456). -/
def State.putRow (s : State) (g : Fin 4) (flags k miss row su : Nat) : Nat → List (List Byte) → State × List SUnit
  | _, [] => (s, [])
  | i, u :: us =>
    if i = miss then State.putRow s g flags k miss row su (i + 1) us
    else
      let f := flags + (if i = k then 1 else 0) + (if miss = 255 then 0 else 2)
      let (s, x) := s.putUnit g i (unitHeader f g.val k i miss row s.boot.fuses.uid su ++ u)
      let (s, xs) := State.putRow s g flags k miss row su (i + 1) us
      (s, x.toList ++ xs)

/-- The records of the stripe queue whose bytes the stream has not taken, in submission order, as far as they are ACCEPTED (R453). -/
def State.stripeNext (s : State) (g : Fin 4) : List Rec :=
  let x := s.group g
  (s.qmg.recs.filter (fun (r : Rec) => r.qid.val == s.sgQid g && !r.carried && !r.replay && !r.final && !(x.taken.contains r.uid))).takeWhile
    (fun (r : Rec) => decide (1 ≤ r.level.num) && r.lent.isNone)

/-- A record enters the stream as one piece (R453). -/
def State.streamIn (s : State) (g : Fin 4) : List Rec → State
  | [] => s
  | r :: rs =>
    let b := match s.piece ⟨r.uid, 0, r.length⟩ with | some p => Piece.bytes p | none => []
    let x := s.group g
    State.streamIn (s.setGroup g { x with buf := x.buf ++ b, runs := x.runs ++ [(r.uid, b.length)], taken := x.taken ++ [r.uid] }) g rs

/-- The records with bytes among the first `n` of the stream, and the runs behind them. -/
def takeRuns : List (Nat × Nat) → Nat → List Nat × List (Nat × Nat)
  | [], _ => ([], [])
  | (u, l) :: rs, n =>
    if n = 0 then ([], (u, l) :: rs)
    else if l ≤ n then let (us, r) := takeRuns rs (n - l); (u :: us, r)
    else ([u], (u, l - n) :: rs)

/-- Close one row of a group: a full one, or the open one completed with zero bytes (R453). A FAILED group forms none (R457). -/
def State.closeRow (s : State) (g : Fin 4) : State :=
  if (s.group g).on = false ∨ s.getF (F.XLK_SGCFG_STATE g.val) = 2 then s
  else
    let s := s.streamIn g (s.stripeNext g)
    let x := s.group g
    if x.buf = [] then s
    else
      let k := s.sgK g
      let su := s.sgSu g
      let body := x.buf.take (k * su)
      let us := unitsOf su k (body ++ List.replicate (k * su - body.length) 0#8)
      let (uids, runs) := takeRuns x.runs (k * su)
      let again := uids.any (fun u => x.resend.contains u)
      let miss := (s.lostMems g).head?.getD 255
      let s := s.setGroup g { x with buf := x.buf.drop (k * su), runs := runs, nextRow := x.nextRow + 1, resend := x.resend.filter (fun u => !(uids.contains u)) }
      let (s, units) := s.putRow g (if again then 4 else 0) k miss x.nextRow su 0 (us ++ [parityUnit su us])
      let x' := s.group g
      (s.setGroup g { x' with rows := x'.rows ++ [⟨x.nextRow, uids, units⟩] }).rowsDone g

/-! ### What a member answers (R145, R150, R155) -/

/-- Datagrams below a set SACK bit that an ACK reports missing are sent again at once (R452). -/
def State.resendGaps (s : State) (g : Fin 4) (i : Nat) (m : SMember) (sess sack : Nat) : List Unack → State
  | [] => s
  | u :: us =>
    let n := u.seq - m.cum - 1
    State.resendGaps (if u.sent = true ∧ sack / 2 ^ n % 2 = 0 ∧ sack / 2 ^ (n + 1) ≠ 0 then s.memSend g i 3 sess (u.seq % 2 ^ 32) 0 u.payload else s) g i m sess sack us

/-- An ACK or CLOSEACK of a member: CUM, SACK, NDUR, WIN (R150). -/
def State.memAck (s : State) (g : Fin 4) (i : Nat) (m : SMember) (b : List Byte) : State :=
  let cum := m.cum + seqDiff (beValue (b.take 4)) (m.cum % 2 ^ 32)
  let sack := beValue ((b.drop 4).take 8)
  let m := if cum < m.seq then { m with cum := cum, ndur := max m.ndur (beValue ((b.drop 20).take 4)), win := beValue ((b.drop 24).take 2), unack := m.unack.filter (fun u => decide (cum < u.seq)) } else m
  let x := s.group g
  let s := s.setGroup g { x with mems := x.mems.set i m }
  let s := match m.sess with | some k => s.resendGaps g i m k sack m.unack | none => s
  (s.pump g i).rowsDone g

/-- An OPENACK: the session, WIN, NEXTSEQ and DURSEQ; units of an earlier session are no longer waited for (R145, R456, R458). -/
def State.memOpened (s : State) (g : Fin 4) (i : Nat) (m : SMember) (sess : Nat) (b : List Byte) : State :=
  let x := s.group g
  let m := { m with sess := some sess, win := beValue ((b.drop 2).take 2), base := beValue ((b.drop 8).take 6), lost := false }
  let rows := x.rows.map (fun (r : SRow) => { r with units := r.units.filter (fun u => u.mem != i) })
  ((s.setGroup g { x with mems := x.mems.set i m, rows := rows }).pump g i).evalGroup g

/-- A DRT datagram that a member of a group has sent to the head (R452). -/
def State.memReply (s : State) (g : Fin 4) (i : Nat) (src : Nat) (b : List Byte) : State :=
  match (s.group g).mems[i]? with
  | none => s
  | some m =>
    let ty := beValue ((b.drop 3).take 1)
    let sess := beValue ((b.drop 4).take 2)
    let aux := beValue ((b.drop 12).take 4)
    let pay := b.drop 20
    if s.memNode g i ≠ src then s
    else if ty = 2 then (if m.sess = none ∧ aux = m.nonce ∧ beValue (pay.take 2) = s.memQ g i then s.memOpened g i m sess pay else s)
    else if ty = 8 ∧ m.sess = none ∧ sess = 0 ∧ m.lost = false then s.loseMem g i
    else if m.sess ≠ some sess then s
    else if ty = 4 ∨ ty = 6 then s.memAck g i m pay
    else if ty = 8 then s.loseMem g i
    else s

/-- Offer a datagram to the members of the groups that run. -/
def State.headTakes (s : State) (src : Nat) (b : List Byte) : List (Fin 4 × Nat) → State
  | [] => s
  | (g, i) :: l => State.headTakes (if (s.group g).on then s.memReply g i src b else s) src b l

/-- Every member place. -/
def memPlaces : List (Fin 4 × Nat) := (List.finRange 4).flatMap (fun g => (List.range 16).map (fun i => (g, i)))

/-- A DRT datagram addressed to a stripe head (R452). -/
def State.headReply (s : State) (src : Nat) (b : List Byte) : State := s.headTakes src b memPlaces

/-- Take what this node has sent to itself (R451: the head may be a member). -/
def State.takeInbox (s : State) : List LFrame → State
  | [] => s
  | f :: fs => State.takeInbox (s.headReply f.src f.payload) fs

def State.selfReplies (s : State) : State :=
  let l := s.xlk.inbox
  State.takeInbox { s with xlk := { s.xlk with inbox := [] } } l

/-! ### Members after a sweep (R451, R458) -/

/-- A member is found again by its UID, and its NODE rewritten; a lost one that is reached gets a new session (R451, R458). -/
def State.rejoinMems (s : State) (g : Fin 4) : List Nat → State
  | [] => s
  | i :: is =>
    State.rejoinMems (match (s.group g).mems[i]? with
      | none => s
      | some m =>
        match s.xlk.census.find? (fun (c : Census) => c.uid == m.uid && !c.stale) with
        | none => s
        | some c =>
          let s := s.wr (memOff g.val i) (BitVec.ofNat 32 (65536 * c.id + getBits (s.rd (memOff g.val i)).toNat 0 16))
          if m.lost = true ∨ m.sess = none then s.openMem g i else s) g is

def State.rejoinGroup (s : State) (g : Fin 4) : State :=
  if (s.group g).on = false then s else (s.rejoinMems g (List.range (s.group g).mems.length)).evalGroup g

def State.rejoinAll (s : State) : State := (((s.rejoinGroup 0).rejoinGroup 1).rejoinGroup 2).rejoinGroup 3

/-! ### Enabling and disabling (R466) -/

/-- The UID of a member's node: from the census, or the node's own (R451). -/
def State.uidOf (s : State) (n : Nat) : DWord :=
  if n = s.nodeId then s.boot.fuses.uid
  else match s.xlk.census.find? (fun (c : Census) => c.id == n && !c.stale) with | some c => c.uid | none => 0#64

/-- Distinct pairs of node and queue. -/
def allDistinct : List (Nat × Nat) → Bool
  | [] => true
  | p :: ps => !(ps.contains p) && allDistinct ps

/-- May a group be enabled: QID names a ring queue of the head, and K + 1 members are distinct (R466). -/
def State.groupOk (s : State) (g : Fin 4) (k qid : Nat) : Bool :=
  (match s.queue? qid with | some q => !q.drt | none => false) &&
  allDistinct ((List.range (k + 1)).map (fun i => (s.memNode g i, s.memQ g i)))

def State.openMems (s : State) (g : Fin 4) : List Nat → State
  | [] => s
  | i :: is => State.openMems (s.openMem g i) g is

/-- Enable a group: its members' sessions are opened (R452). -/
def State.enableGroup (s : State) (g : Fin 4) : State :=
  let mems := (List.range (s.sgK g + 1)).map (fun i => (⟨s.uidOf (s.memNode g i), 0, none, 0, 0, 1, 0, 0, [], 0, false⟩ : SMember))
  ((s.setGroup g { SGroup.reset with on := true, mems := mems }).openMems g (List.range (s.sgK g + 1))).evalGroup g

/-- Disable a group: its open row closes, and it stops once every row is final (R466). `n` limits the rows. -/
def State.closeRows (s : State) (g : Fin 4) : Nat → State
  | 0 => s
  | n + 1 => if (s.group g).buf = [] ∧ s.stripeNext g = [] then s else State.closeRows (s.closeRow g) g n

/-- Everything in a group's stream goes into closed rows (R453). -/
def State.closeOpen (s : State) (g : Fin 4) : State := s.closeRows g (s.qmg.recs.length + (s.group g).buf.length / 1024 + 1)

/-- A `FLUSH` or `RECORD STOP` closes the open row of every group this node heads (R453). -/
def State.closeStripes (s : State) : State := ([0, 1, 2, 3] : List (Fin 4)).foldl (fun t g => if (t.group g).on then t.closeOpen g else t) s

def State.disableGroup (s : State) (g : Fin 4) : State :=
  let s := s.closeOpen g
  (s.setGroup g { s.group g with ending := true }).rowsDone g

/-- A write of XLK.SGCFGg (R466): while EN is 1 its other fields are ignored, and a `POKE` that would change them fails. -/
def State.wSgcfg (s : State) (src : Src) (g : Fin 4) (v : Word) : WRes :=
  let en := getBits v.toNat 31 1 == 1
  let k := getBits v.toNat 24 4
  let sul := getBits v.toNat 20 4
  let qid := getBits v.toNat 0 10
  let was := s.bit (F.XLK_SGCFG_EN g.val)
  if was = true then
    if src ≠ .pf ∧ (k ≠ s.sgK g ∨ sul ≠ s.getF (F.XLK_SGCFG_SUL g.val) ∨ qid ≠ s.sgQid g) then .refuse .locked none
    else if en then .ok s
    else .ok ((s.disableGroup g).setF (F.XLK_SGCFG_EN g.val) 0)
  else
    if en = true ∧ (s.groupOk g k qid = false ∨ (s.group g).on = true) then .refuse .badarg (some { errRec .badarg .xlk [] with src := .pf })
    else
      let s := ((s.setF (F.XLK_SGCFG_K g.val) k).setF (F.XLK_SGCFG_SUL g.val) sul).setF (F.XLK_SGCFG_QID g.val) qid
      if en then .ok ((s.setF (F.XLK_SGCFG_EN g.val) 1).enableGroup g) else .ok s

/-- A write of XLK.SGMEMg_i, locked while the group runs (R466). -/
def State.wSgmem (s : State) (g : Fin 4) (i : Nat) (v : Word) : WRes :=
  if s.bit (F.XLK_SGCFG_EN g.val) then .refuse .locked none
  else .ok (s.wr (memOff g.val i) (BitVec.ofNat 32 (v.toNat / 65536 * 65536 + v.toNat % 1024)))

/-- STRIPE_GROUP_ENABLE: a write of XLK.SGCFGg. A PF write with EN already 1 is ignored but for EN (R466). -/
def execStripeGroupEnable (src : Src) (g : Fin 4) (v : Word) (s : State) : Host.Outcome State Fault Refusal :=
  match src with
  | .vf _ => .next s
  | _ => if s.pfOpen src = false then .next (s.pfDrop src) else .next (s.apply src (s.wSgcfg src g v))

/-- STRIPE_ROW_CLOSE: a row is full, or the stripe queue has had no record for 20 ms, or a `FLUSH` or `RECORD STOP` has landed (R453). -/
def execStripeRowClose (g : Fin 4) (s : State) : Host.Outcome State Fault Refusal := .next (s.closeRow g)

/-- STRIPE_RETRANSMIT: a DATA datagram not covered by CUM is sent again 1 ms after it was sent (R452). -/
def execStripeRetransmit (g : Fin 4) (member : Nat) (seq : Word) (s : State) : Host.Outcome State Fault Refusal :=
  match (s.group g).mems[member]? with
  | none => .next s
  | some m =>
    match m.sess, m.unack.find? (fun u => u.sent && u.seq % 2 ^ 32 == seq.toNat) with
    | some k, some u => .next (s.memSend g member 3 k seq.toNat 0 u.payload)
    | _, _ => .next s

end Sys2Proof.Machine
end

