-- ==== Sys2Proof/Machine/Forward.lean ====
section
/-! DEFINITION. Cascade commands at their origin: how they are sent, and how they and forwarded lines end (02_command_line R64 to R66; 16_xasen R444 to R447; 17_errors R475 to
R478). -/

namespace Sys2Proof.Machine

/-- The name of a port (R424), and a hop as `n.Dk` (R448). -/
def portText : Nat → String
  | 0 => "U" | 1 => "D0" | 2 => "D1" | _ => "D2"

def hopVal (node port : Nat) : Val := .chars (decText node ++ '.' :: (portText port).toList)

/-- Reply lines, each ended by LF (R444). -/
def splitLf : List Byte → List Char → List (List Char)
  | [], cur => if cur = [] then [] else [cur.reverse]
  | b :: bs, cur => if b = 10#8 then cur.reverse :: splitLf bs [] else splitLf bs (Char.ofNat b.toNat :: cur)

/-- The lines of an `@*` reply for a node: what it answered, or why it failed (R66). An answer of several lines gives a continuation line for each (DESIGN CHOICE, log entry 120: the rule speaks of one). -/
def starLines (answered : List (Nat × List (List Char))) (failed : List (Nat × Er × List Item)) (n : Nat) : List (List Char) :=
  let front := "+ @".toList ++ decText n ++ [' ']
  (match answered.find? (fun p => p.1 == n) with | some (_, ls) => ls.map (fun l => front ++ l) | none => []) ++
  (match failed.find? (fun p => p.1 == n) with | some (_, e, is) => [front ++ (Body.er e is).text] | none => [])

/-- Numbers in rising order, each once. -/
def insertNat (n : Nat) : List Nat → List Nat
  | [] => [n]
  | m :: ms => if n < m then n :: m :: ms else if n = m then m :: ms else m :: insertNat n ms

/-- The reply of a forwarded line once nothing is awaited (R64 to R66). -/
def forwardReply (ln : Ln) (star : Bool) (answered : List (Nat × List (List Char))) (failed : List (Nat × Er × List Item)) : List Line :=
  if star then
    let ns := (answered.map (·.1) ++ failed.map (·.1)).foldr insertNat []
    (ns.flatMap (starLines answered failed)).map (fun t => replyLine ln (.raw t)) ++
      [replyLine ln (.ok [⟨"NODES", .num answered.length⟩, ⟨"FAILED", .num failed.length⟩])]
  else match answered, failed with
    | (n, ls) :: _, _ => ls.map (fun t => ⟨ln.tag, some n, .raw t, ln.crc⟩)
    | _, (_, e, is) :: _ => [replyLine ln (.er e is)]
    | _, _ => []

/-- Take the end of one command into the line it serves; when it was the last, the line is answered (R64 to R66). -/
def State.forwardEnd (s : State) (n : Sid) (tag : Nat) (answer : Option (List (List Char))) (e : Er) (items : List Item) : State :=
  let x := s.ses n
  match x.lines with
  | [] => s
  | w :: ws =>
    match w.kind with
    | .forward star writes waitFor answered failed =>
      match waitFor.find? (fun p => p.1 == tag) with
      | none => s
      | some (_, node) =>
        let left := waitFor.filter (fun p => p.1 != tag)
        let answered := match answer with | some ls => answered ++ [(node, ls)] | none => answered
        let failed := match answer with | some _ => failed | none => failed ++ [(node, e, items)]
        let s := s.setSes n { x with lines := { w with kind := .forward star writes left answered failed } :: ws }
        if left = [] then (s.sendLines (.sess n) (forwardReply w.ln star answered failed)).lineDone n else s
    | _ => s

/-- The result of a command sent through XLK.CCMD (CRES, CRDATA). -/
def State.ccmdEnd (s : State) (result status : Nat) (data : List Byte) : State :=
  let s := (s.setF F.XLK_CRES_DONE 1).setF F.XLK_CRES_BUSY 0
  ((s.setF F.XLK_CRES_RESULT result).setF F.XLK_CRES_STATUS status).setF F.XLK_CRDATA_DATA (beValue (data.take 4))

/-- The command is over at its origin. -/
def State.dropCmd (s : State) (c : XCmd) : State := { s with xlk := { s.xlk with cmds := s.xlk.cmds.filter (fun (x : XCmd) => x.tag != c.tag) } }

/-- The one ERR record of a command that ended with 802 or 804 (R446, R476 to R478, R529). -/
def State.cmdErr (s : State) (c : XCmd) (e : Er) : State :=
  let src : RecSrc := match c.ln with | some ⟨.sess n, _, _⟩ => .session n.val | _ => .pf
  let tmo := e == .ctimeout
  s.log { errRec e .xlk [⟨"RETRIES", .num c.retries⟩, ⟨"DST", .num c.dst⟩] with
    flags := { noFlags with tmo := tmo, retry := decide (0 < c.retries), unknown := tmo && c.writes }, src := src }

/-- A command fails at its origin, with a code of R65 (R446). -/
def State.failCmd (s : State) (c : XCmd) (e : Er) (items : List Item) : State :=
  let s := s.dropCmd c
  let s := if e = .ctimeout ∨ e = .pathBreak then s.cmdErr c e else s
  match c.ln with
  | none => s.ccmdEnd 0 e.code []
  | some ln => match ln.who with
    | .sess n => s.forwardEnd n c.tag none e (items ++ (if e = .ctimeout ∧ c.writes = true then [⟨"EXEC", .word "UNKNOWN"⟩] else []))
    | .remote .. => s

/-- A code that a node on the way answers in the target's place (R65). -/
def wayCode (status : Nat) : Option Er :=
  if status = 801 then some .nonode else if status = 803 then some .stale else if status = 804 then some .pathBreak else none

/-- A command's RSP is complete (R444, R447): the line is answered; one that started a long operation awaits its completion. -/
def State.endCmd (s : State) (c : XCmd) (result status : Nat) (data : List Byte) : State :=
  match wayCode status with
  | some e => s.failCmd c e (if e = .pathBreak then [⟨"HOP", hopVal (beValue (data.take 2)) (beValue ((data.drop 2).take 1))⟩] else [])
  | none =>
    let s := s.dropCmd c
    match c.ln with
    | none => s.ccmdEnd result status data
    | some ln => match ln.who with
      | .sess n =>
        let ls := splitLf data []
        let s := if ls.any (fun l => "OK STARTED".toList.isPrefixOf l) then { s with xlk := { s.xlk with dones := s.xlk.dones ++ [⟨c.tag, c.dst, ln⟩] } } else s
        s.forwardEnd n c.tag (some ls) .nonode []
      | .remote .. => s

/-- The completion of a forwarded long operation: `[#tag] @n !DONE …` (R447). -/
def State.remoteDone (s : State) (d : XDone) (data : List Byte) : State :=
  let s := { s with xlk := { s.xlk with dones := s.xlk.dones.filter (fun (x : XDone) => x.tag != d.tag) } }
  match d.ln.who, splitLf data [] with
  | .sess n, t :: _ =>
    let x := s.ses n
    let l : Line := ⟨d.ln.tag, some d.node, .raw t, x.crc⟩
    if x.isOpen = false then s else if x.lines = [] then s.sendEvent n l else s.setSes n (queueEvent s.now x l)
  | _, _ => s

/-- Send a command frame of this node, or end the command where it can go nowhere (R65, R435, R446, R463). -/
def State.launch (s : State) (f : LFrame) : State :=
  match s.xlk.cmds.find? (fun (c : XCmd) => c.tag == f.tag) with
  | none => s
  | some c =>
    if s.isMaster = true ∧ s.staleId f.dst = true then s.failCmd c .stale []
    else match s.routeOf f.dst with
      | .nowhere => s.failCmd c .nonode []
      | .self => s.toSelf f
      | .port p => if s.linkUp p then s.sendOn p f else s.failCmd c .pathBreak [⟨"HOP", hopVal s.nodeId p.val⟩]

/-- Does the master hold back commands because a sweep runs (R437). -/
def State.sweeping (s : State) : Bool := s.isMaster && s.xlk.sweep.isSome

/-- Send a command (R444): its tag is the next one. While a sweep runs on the master it waits (R437). -/
def State.sendCmd (s : State) (dst op level : Nat) (args : List Byte) (ln : Option Ln) (writes : Bool) : State :=
  let tag := s.xlk.nextTag
  let f := s.frame tCMD dst tag (beBytes 1 op ++ beBytes 1 level ++ beBytes 2 0 ++ args)
  let s := { s with xlk := { s.xlk with nextTag := (tag + 1) % 65536, cmds := s.xlk.cmds ++ [(⟨tag, dst, op, ln, writes, 0, []⟩ : XCmd)] } }
  if s.sweeping then { s with xlk := { s.xlk with held := s.xlk.held ++ [f] } } else s.launch f

def State.launchAll (s : State) : List LFrame → State
  | [] => s
  | f :: fs => State.launchAll (s.launch { f with epoch := s.xlk.epoch, src := s.nodeId }) fs

end Sys2Proof.Machine
end

