-- ==== Sys2Proof/Machine/Sweep.lean ====
section
/-! DEFINITION. The census sweep (16_xasen R437 to R442, R464): its walk, hop delays, what the master records, and what a node adopts. -/

namespace Sys2Proof.Machine

/-- The down-ports that are UP. -/
def State.upDown (s : State) : List Nat := [(1, s.linkUp 1), (2, s.linkUp 2), (3, s.linkUp 3)].filterMap (fun p => if p.2 then some p.1 else none)

def State.setSweep (s : State) (w : Sweep) : State := { s with xlk := { s.xlk with sweep := some w } }

/-- Nodes admitted below and including this one so far (R438). -/
def Sweep.count (w : Sweep) : Nat := 1 + (w.kids.map (·.count)).sum

/-- A CRSP payload (R438). -/
def crspBytes (count : Nat) (brk : Option (Nat × Nat)) (limit long : Bool) (uid : DWord) : List Byte :=
  let (n, p) := brk.getD (0xFFFFFFFF, 0)
  beBytes 4 count ++ beBytes 4 n ++ beBytes 1 p ++ beBytes 1 ((if brk.isSome then 1 else 0) + (if limit then 2 else 0) + (if long then 4 else 0)) ++ beBytes 8 uid.toNat

/-- The ranges of the down-ports, from the children's answers (R435, R441). -/
def State.setRange (s : State) (k : Nat) (kids : List Child) : State :=
  match kids.find? (fun (c : Child) => c.port == k) with
  | some c => (s.setF (F.XLK_RANGE_FIRST k) c.first).setF (F.XLK_RANGE_LAST k) (c.first + c.count - 1)
  | none => (s.setF (F.XLK_RANGE_FIRST k) 0).setF (F.XLK_RANGE_LAST k) 0

def State.setRanges (s : State) (kids : List Child) : State := ((s.setRange 0 kids).setRange 1 kids).setRange 2 kids

/-- What the master records of the nodes below one of its ports (R441). Of a node that is not its own child it learns the ID only; the rest are free values (log entry 47). -/
def State.censusOf (s : State) (no : Nat) (c : Child) : List Census :=
  let hop := s.getF (F.XLK_PSTAT_HOPDLY (c.port + 1))
  (List.range c.count).map (fun j =>
    let id := c.first + j
    if j = 0 then ⟨id, c.uid, 0, c.port, 1, hop, hop, false⟩
    else ⟨id, Config.censusUid no id, (Config.censusParent no id).toNat, (Config.censusPort no id).val, (Config.censusDepth no id).val, (Config.censusHop no id).toNat,
      (Config.censusPath no id).toNat, false⟩)

/-- Tell the sessions that wait for the end of a sweep (R89, R437). -/
def State.tellSweep (s : State) (items : List Item) : List Ln → State
  | [] => s
  | l :: ls => State.tellSweep (s.done (some l) items) items ls

/-- The census that a sweep of the master has found, and the nodes of the former one that it did not find (R441, R464). -/
def State.liveNodes (s : State) (w : Sweep) : List Census := ⟨0, s.boot.fuses.uid, 0, 0, 0, 0, 0, false⟩ :: w.kids.flatMap (s.censusOf w.no)
def State.staleNodes (s : State) (live : List Census) : List Census :=
  (s.xlk.census.filter (fun (c : Census) => !(live.any (fun (x : Census) => x.uid == c.uid)))).map (fun (c : Census) => { c with stale := true })

/-- The census and the ranges are taken, and COMMIT goes down (R441). -/
def State.commitTake (s : State) (w : Sweep) (live stale : List Census) : State :=
  let s := { s with xlk := { s.xlk with census := live ++ stale, sweep := none, prov := none, epoch := w.no % 256 } }
  let s := (((s.setRanges w.kids).setF F.XLK_STAT_SWEEP 0).setF F.XLK_CENS_NODES live.length).setF F.XLK_CENS_STALE stale.length
  (s.wr64 R.XLK_CTIME s.now).sendDown { s.frame tCOMMIT 0 0 (beBytes 2 w.no) with bcast := true }

/-- Those who wait for the sweep are told (R90, R441). -/
def State.commitTell (s : State) (w : Sweep) (counts : List Item) : State :=
  let s := if w.limit then s.log (errRec .censuslimit .xlk []) else s
  let s := (s.cause 6).eventAll "CENSUS" (counts ++ [⟨"SWEEP", .num w.no⟩])
  let ls := s.con.opCensus
  { s with con := { s.con with opCensus := [] } }.tellSweep (match w.brk with
    | some (n, p) => erItems .pathBreak (⟨"HOP", hopVal n p⟩ :: counts)
    | none => counts) ls

/-- Frames that waited for the end of the sweep go out, and stripe groups rejoin (R441, R457). -/
def State.commitEnd (s : State) : State := ({ s with xlk := { s.xlk with held := [] } }.launchAll s.xlk.held).rejoinAll

/-- Phase 2 at the master (R441, R464). -/
def State.commitSweep (s : State) (w : Sweep) : State :=
  let live := s.liveNodes w
  let stale := s.staleNodes live
  ((s.commitTake w live stale).commitTell w [⟨"NODES", .num live.length⟩, ⟨"STALE", .num stale.length⟩]).commitEnd

/-- The walk is over: the master commits, another node answers its parent (R438). -/
def State.endWalk (s : State) (w : Sweep) : State :=
  if s.isMaster then s.commitSweep w
  else
    let s := { s with xlk := { s.xlk with sweep := none, prov := some ⟨w.no, w.id, w.depth, w.kids⟩ } }
    s.sendHop 0 tCRSP (crspBytes w.count w.brk w.limit w.long s.boot.fuses.uid)

/-- The next down-port that is UP is served; when none is left the walk is over (R438). -/
def State.walkNext (s : State) (w : Sweep) : List Nat → State
  | [] => s.endWalk { w with walk := [], at' := none }
  | p :: ps =>
    if h : p < 4 then
      if s.linkUp ⟨p, h⟩ then
        (s.setSweep { w with walk := ps, at' := some p }).sendHop ⟨p, h⟩ tCREQ
          (beBytes 4 (w.id + w.count) ++ beBytes 2 w.no ++ beBytes 1 (w.depth + 1) ++ beBytes 1 0 ++ beBytes 4 w.path)
      else State.walkNext s w ps
    else State.walkNext s w ps

/-- Go on with a sweep, when every hop is measured and no answer is awaited (R438). -/
def State.stepSweep (s : State) (w : Sweep) : State :=
  if w.probe = [] ∧ w.at' = none then s.walkNext w w.walk else s.setSweep w

/-- Start a sweep on the master (R437). -/
def State.startSweep (s : State) : State :=
  let no := (s.xlk.sweepNo + 1) % 65536
  let s := { s with xlk := { s.xlk with sweepNo := no, due := false } }.setF F.XLK_STAT_SWEEP 1
  s.stepSweep ⟨no, 0, 0, 0, s.upDown, s.upDown, none, [], none, false, false⟩

/-- A port of a sweep breaks (R438, R464): its child is lost to it, and the node's own port counts before one further down. A child that has answered already stays admitted, and the break is
reported all the same. -/
def State.sweepBreak (s : State) (p : Nat) : State :=
  match s.xlk.sweep with
  | none => s
  | some w =>
    if p = 0 then { s with xlk := { s.xlk with sweep := none } }.setF F.XLK_STAT_SWEEP 0
    else if w.walk.contains p = true ∨ w.at' = some p then
      s.stepSweep { w with probe := w.probe.filter (· != p), walk := w.walk.filter (· != p), at' := if w.at' = some p then none else w.at', brk := some (w.id, p) }
    else if w.kids.any (fun (c : Child) => c.port + 1 == p) then s.setSweep { w with brk := some (w.id, p) }
    else s

/-- CENSUS_AUTO_START: 500 ms after the first prompt, or 100 ms after a LINKUP (R437). -/
def execCensusAutoStart (s : State) : Host.Outcome State Fault Refusal :=
  if s.isMaster = true ∧ s.bit F.XLK_CFG_AUTOSWEEP = true ∧ s.xlk.due = true ∧ s.domainOn 9 = true then
    .next (if s.xlk.sweep.isSome then s else s.startSweep)
  else .next s

/-- CREQ_RECEIVED: the provisional ID, depth and path; a node beyond the limits is not admitted, and is stale (R438, R440). PATH leads to the sender; the hop to this node is added. -/
def execCreqReceived (nextId : BitVec 32) (sweep : BitVec 16) (depth : Byte) (path : Word) (s : State) : Host.Outcome State Fault Refusal :=
  if s.linkUp 0 = false ∨ s.isMaster = true then .next s
  else if 65536 ≤ nextId.toNat ∨ 63 < depth.toNat then
    .next ((s.setF F.XLK_STAT_STALE 1).sendHop 0 tCRSP (crspBytes 0 none true false s.boot.fuses.uid))
  else
    .next ((s.setF F.XLK_STAT_SWEEP 1).stepSweep
      ⟨sweep.toNat, nextId.toNat, depth.toNat, path.toNat + s.getF (F.XLK_PSTAT_HOPDLY 0), s.upDown, s.upDown, none, [], none, false, false⟩)

/-- CRSP_RECEIVED: a child's answer is taken and the next port is served (R438). A break nearer the master stands before one further down. -/
def execCrspReceived (p : PortNo) (count brkNode : Word) (brkPort : Byte) (brk limit longhop : Bool) (uid : DWord) (s : State) : Host.Outcome State Fault Refusal :=
  match s.xlk.sweep with
  | none => .next s
  | some w =>
    if w.at' ≠ some p.val then .next s
    else
      let kids := if count = 0#32 then w.kids else w.kids ++ [⟨p.val - 1, w.id + w.count, count.toNat, uid⟩]
      .next (s.stepSweep { w with
        at' := none, kids := kids, limit := w.limit || limit, long := w.long || longhop
        brk := if brk then w.brk.or (some (brkNode.toNat, brkPort.toNat)) else w.brk })

/-- 120 ns in 1/16 ns (R426). -/
def hopMax : Nat := 1920

/-- The hop delay in 1/16 ns: the mean over the exchanges of half the round trip less the child's turnaround (R439). -/
def hopDelay (rounds : List (Nat × Nat)) : Nat :=
  (roundQ (((rounds.map (fun r => (r.1 : Int) - r.2)).sum : Int) / ((2 * max 1 rounds.length : Nat) : Rat))).toNat

/-- PROBE_EXCHANGE: the mean of 16 measurements is the hop delay at either end; above 120 ns the parent writes ER 806 and sets LONGHOP (R439). -/
def execProbeExchange (p : PortNo) (rounds : List (Nat × Nat)) (s : State) : Host.Outcome State Fault Refusal :=
  if s.linkUp p = false then .next s
  else
    let hop := hopDelay rounds
    let s := s.setF (F.XLK_PSTAT_HOPDLY p.val) (min 65535 hop)
    match s.xlk.sweep with
    | none => .next s
    | some w =>
      if w.probe.contains p.val = false then .next s
      else
        let long := decide (hopMax < hop)
        let s := if long then s.log (errRec .longhop .xlk [⟨"PORT", .word (portText p.val)⟩, ⟨"DLY", .num (hop / 16)⟩]) else s
        .next (s.stepSweep { w with probe := w.probe.filter (· != p.val), long := w.long || long })

/-- COMMIT_RECEIVED: a node with a provisional ID of this sweep adopts it (R436, R441). -/
def execCommitReceived (sweep : BitVec 16) (s : State) : Host.Outcome State Fault Refusal :=
  match s.xlk.prov with
  | none => .next s
  | some v =>
    if v.no ≠ sweep.toNat ∨ s.isMaster = true then .next s
    else
      let changed := s.nodeId ≠ v.id ∨ s.bit F.XLK_STAT_IDVALID = false
      let s := { s with xlk := { s.xlk with prov := none, epoch := v.no % 256 } }
      let s := ((s.setF F.XLK_STAT_NODE v.id).setF F.XLK_STAT_IDVALID 1).setF F.XLK_STAT_DEPTH v.depth
      let s := ((s.setRanges v.kids).setF F.XLK_STAT_STALE 0).setF F.XLK_STAT_SWEEP 0
      let s := if changed then (s.cause 6).eventAll "CENSUS" [⟨"NODE", .num v.id⟩] else s
      .next s.rejoinAll

end Sys2Proof.Machine
end

