-- ==== Sys2Proof/Machine/Tenants.lean ====
section
/-! DEFINITION. Function-level reset (R200 to R204), SR-IOV (R123 to R125, R128), the ends of DRT enables (R125, R155, R159), and the other Ethernet
services (R135 to R141). -/

namespace Sys2Proof.Machine

/-! ### Function-level reset -/

/-- Is a record carried by a function-level reset: SECURED, or already fed to the Reducer (R200). -/
def Rec.carries (r : Rec) : Bool := r.level == .secured || r.feed.isSome

/-- Records of a tenant that are not DURABLE and do not come from a dump. -/
def State.liveRecs (s : State) (t : Tenant) : List Rec :=
  s.qmg.recs.filter (fun r => r.tenant == t && !r.final && !r.replay && !r.carried)

/-- The DRT sessions of a tenant end with ERROR 311, AUX naming the first RIDX not DURABLE (R155, R201). -/
def State.drtResetAll (s : State) : List Drt → State
  | [] => s
  | d :: ds => State.drtResetAll (s.drtEnd d .resetabort (s.ridxBelow d 3)) ds

/-- ERR 316 for each queue that had records carried: the first and the last number carried (R201). -/
def State.orphans (s : State) (t : Tenant) (carried : List Rec) : List Queue → State
  | [] => s
  | q :: qs =>
    match carried.filter (fun r => r.qid == q.id) with
    | [] => State.orphans s t carried qs
    | r :: rs =>
      State.orphans (s.log { errRec .orphan .qmg [⟨"LAST", .num ((r :: rs).getLast?.getD r).seq⟩] with
        flags := infoFlag, tenant := some t.val, qid := some q.id.val, rseq := some r.seq }) t carried qs

def State.dropQueues (s : State) : List Queue → State
  | [] => s
  | q :: qs => State.dropQueues (s.dropQueue q.id) qs

/-- Discard the coalescing counts and pending bits of a tenant and reset its MSI-X table and window (R134, R201). -/
def State.clearFn (s : State) (t : Tenant) : State :=
  let lo := s.vecBase t
  let hi := lo + s.vecCount t
  { s with
    pool := s.pool.filter (fun p => !(decide (lo ≤ p.p ∧ p.p < hi)))
    hif := { s.hif with fns := s.hif.fns.filter (fun f => f.t != t), msix := s.hif.msix.filter (fun m => m.fn != t) }
    wlatch := s.wlatch.filter (fun l => l.src != .vf t)
    rlatch := s.rlatch.filter (fun l => l.src != .vf t) }

/-- A function-level reset of tenant `t` (R200 to R203), and how many records it aborted: those of its queues, and those its DRT sessions had moved into the Tank in part. -/
def State.flr (s : State) (t : Tenant) : State × Nat :=
  let live := s.liveRecs t
  let carried := live.filter (·.carries)
  let gone := live.filter (fun r => !r.carries)
  let qs := s.ownedBy t
  let parts := (s.eth.drt.filter (fun d => d.tenant == t && d.part.isSome)).length
  let s := s.drtResetAll (s.eth.drt.filter (fun d => d.tenant == t))
  let s := (s.freePagesOf (gone.flatMap (·.pages))).freeLent gone
  let s := { s with qmg := { s.qmg with
    recs := (s.qmg.recs.filter (fun (r : Rec) => !(gone.any (fun g => g.uid == r.uid)) && !(r.tenant == t && !r.carried && r.final && !r.replay))).map
      (fun (r : Rec) => if carried.any (fun c => c.uid == r.uid) then { r with carried := true } else r)
    barriers := s.qmg.barriers.map (fun (b : Barrier) => if b.tenant = t then { b with slot := none } else b) } }
  let s := (s.dropQueues qs).clearFn t
  let s := (s.orphans t carried qs).cause 7
  (s.report.settleShares, gone.length + parts)

/-- The sessions that asked for a function's reset are told of its end (R201, R204). -/
def State.flrDone (s : State) (t : Tenant) (n : Nat) : List (Tenant × Ln) → State
  | [] => s
  | (u, ln) :: ls =>
    State.flrDone (if u = t then s.done (some ln) [⟨"T", .num t.val⟩, ⟨"ABORTED", .num n⟩] else s) t n ls

/-- The whole of a function-level reset with its `!DONE`. -/
def State.flrAll (s : State) (t : Tenant) : State :=
  let (s, n) := s.dropBootTest.flr t
  let ops := s.con.opReset
  let s := { s with con.opReset := ops.filter (fun p => p.1 != t) }
  s.flrDone t n ops

/-- Does a larger reset in progress absorb a function-level reset: start-up has not ended, or the device is halted (R119). -/
def State.flrAbsorbed (s : State) : Bool := s.boot.phase != .up || s.boot.warming || s.pw.halted

/-- FUNCTION_LEVEL_RESET: a PCIe FLR of a VF, or the end of a RESET FUNCTION (R201); absorbed by a larger reset (R119). -/
def execFunctionLevelReset (t : Tenant) (s : State) : Host.Outcome State Fault Refusal :=
  if s.flrAbsorbed = false ∧ (s.enabled t = true ∨ (s.ownedBy t) ≠ []) then .next (s.flrAll t) else .next s

/-- RESET FUNCTION t: t from 1 to 255 and enabled; the reset itself follows (R86, R201). -/
def execResetFunction (ln : Ln) (t : Tenant) (s : State) : Host.Outcome State Fault Refusal :=
  .next (s.verb ln .operate false
    (if t = 0 then .er .badarg []
     else if s.enabled t = false then .er .notenant []
     else
       let f := s.fn t
       .ok { (s.setFn { f with resetting := true }) with con.opReset := s.con.opReset ++ [(t, ln)] } [] [⟨"", .word "STARTED"⟩]))

/-- Function-level resets of several tenants, in order. -/
def State.flrs (s : State) : List Tenant → State
  | [] => s
  | t :: ts => State.flrs (s.flrAll t) ts

/-- Tenants 1 to n. -/
def vfsUpTo (n : Nat) : List Tenant := (List.finRange 256).filter (fun t => decide (1 ≤ t.val ∧ t.val ≤ n))

/-- Clear VF Enable (R125, R204). -/
def State.clearVf (s : State) : State :=
  ({ s with hif := { s.hif with vfen := false } }).setF F.HIF_STAT_VFEN 0

/-- PF_FLR, a configuration request: VF Enable clears, then tenant 0 and each former VF are reset in ascending order (R204); absorbed by a larger reset (R119). -/
def execPfFlr (s : State) : Host.Outcome State Fault Refusal :=
  let n := if s.hif.vfen then s.hif.numVf else 0
  .next (s.cfgRequest 0 (if s.flrAbsorbed then s else (s.clearVf.flrAll 0).flrs (vfsUpTo n)))

/-- NumVFs is taken and VF Enable set, while it is 0 (R123, R128). -/
def State.setVf (s : State) (ari : Bool) (numVfs : Nat) : State :=
  if s.hif.vfen = true then s
  else
    let n := min 255 numVfs
    let s := { s with hif := { s.hif with vfen := true, numVf := n, ari := ari } }
    ((s.setF F.HIF_STAT_VFEN 1).setF F.HIF_STAT_NUMVF n).setF F.HIF_STAT_ARI (if ari then 1 else 0)

/-- VF_ENABLE, a configuration request (R100, R123, R128). -/
def execVfEnable (ari : Bool) (numVfs : Nat) (s : State) : Host.Outcome State Fault Refusal := .next (s.cfgRequest 0 (s.setVf ari numVfs))

/-- VF_DISABLE, a configuration request: a function-level reset of each VF tenant; NumVFs keeps its value (R125). -/
def execVfDisable (s : State) : Host.Outcome State Fault Refusal :=
  .next (s.cfgRequest 0 (if s.hif.vfen = false then s else s.clearVf.flrs (vfsUpTo s.hif.numVf)))

/-! ### DRT enables (R125, R155, R159) -/

/-- Clear a tenant's ETH.DRTTEN bit: its sessions end first, and without its VF the tenant is reset. -/
def State.drtTenOff (s : State) (t : Tenant) : State :=
  if s.drtTen t = false then s
  else
    let s := s.drtEndAll .drtoff (s.eth.drt.filter (fun d => d.tenant == t))
    let off := F.ETH_DRTTEN_EN (t.val / 32)
    let s := s.setF off (putBits (s.getF off) (t.val % 32) 1 0)
    if s.enabled t = true then s else s.flrAll t

/-- DRT_TENANT_DISABLE. -/
def execDrtTenantDisable (src : Src) (t : Tenant) (s : State) : Host.Outcome State Fault Refusal :=
  match src with
  | .vf _ => .next s
  | _ => if s.pfOpen src = false then .next (s.pfDrop src) else .next (s.drtTenOff t)

/-- Clear ETH.DRTCFG.EN: every session ends with 312 (R155). -/
def State.drtOff (s : State) : State := (s.drtEndAll .drtoff s.eth.drt).setF F.ETH_DRTCFG_EN 0

/-- DRT_DISABLE. -/
def execDrtDisable (src : Src) (s : State) : Host.Outcome State Fault Refusal :=
  match src with
  | .vf _ => .next s
  | _ => if s.pfOpen src = false then .next (s.pfDrop src) else .next s.drtOff

/-! ### Other Ethernet services (R135, R136) -/

/-- Is a port up, enabled and addressed. -/
def State.portUp (s : State) (p : Fin 2) : Bool :=
  s.bit (if p.val = 0 then F.ETH_PCFG0_EN else F.ETH_PCFG1_EN) && s.bit (if p.val = 0 then F.ETH_PSTAT_UP0 else F.ETH_PSTAT_UP1)

def State.portIp (s : State) (p : Fin 2) : Nat := s.getF (if p.val = 0 then F.ETH_IP0_ADDR else F.ETH_IP1_ADDR)

/-- An ARP request or an IPv4 packet reaches its service: the port is up; a frame that finds XC-3 full is dropped whole (R137), and one with another tag as of another kind (R135); it tells where its
sender is (R136). -/
def State.ethFrame (s : State) (e : EthIn) (src : Word) (served : State → State) : State :=
  if s.portUp e.port = false then s
  else if e.xc3Full = true then s.count F.ETH_DROP_FULL 1
  else if s.tagOk e.port e.vid = false then s.count F.ETH_DROP_OTHER 1
  else served (s.heard e.port e.mac src)

/-- ARP_REQUEST: answered for the port's own address; with address 0 the port answers none (ETH.IPn). -/
def execArpRequest (e : EthIn) (senderIp targetIp : Word) (s : State) : Host.Outcome State Fault Refusal :=
  .next (s.ethFrame e senderIp (fun s =>
    if s.portIp e.port ≠ 0 ∧ targetIp.toNat = s.portIp e.port then s.emit (.arpReply (s.ethTx e.port e.mac false) senderIp) else s))

/-- ICMP_ECHO: answered to the MAC the request came from (R135, R136). -/
def execIcmpEcho (e : EthIn) (srcIp dstIp : Word) (data : List Byte) (s : State) : Host.Outcome State Fault Refusal :=
  .next (s.ethFrame e srcIp (fun s =>
    if s.portIp e.port ≠ 0 ∧ dstIp.toNat = s.portIp e.port then s.emit (.icmpReply (s.ethTx e.port e.mac true) srcIp data) else s))

/-- UNSUPPORTED_FRAME: dropped and counted (R135); a frame of any kind that finds XC-3 full is counted there instead (R137). -/
def execUnsupportedFrame (port : Fin 2) (xc3Full : Bool) (s : State) : Host.Outcome State Fault Refusal :=
  if s.portUp port = true then .next (s.count (if xc3Full then F.ETH_DROP_FULL else F.ETH_DROP_OTHER) 1) else .next s

/-- ETH_LINK_CHANGE: only 1000 Mb/s full duplex brings a port up; SGMII of a port that is up supplies its CKE (R135, CLK.STAT), also one that was lost (log entry 101). -/
def execEthLinkChange (port : Fin 2) (mbps : Nat) (fullDuplex up : Bool) (s : State) : Host.Outcome State Fault Refusal :=
  let v := if up && fullDuplex && mbps == 1000 && s.domainOn 2 then 1 else 0
  let s := if v = 1 then s.clkBack (if port.val = 0 then .cke0 else .cke1) else s
  let s := s.setF (if port.val = 0 then F.ETH_PSTAT_UP0 else F.ETH_PSTAT_UP1) v
  .next (s.setF (if port.val = 0 then F.CLK_STAT_CKE0_LOCK else F.CLK_STAT_CKE1_LOCK) v)

/-! ### Time (R139, R140) -/

/-- SYNC changes: the cause TIME, and the notifications (R139, R196, R198). -/
def State.setLocked (s : State) (b : Bool) : State :=
  if s.bit F.ETH_TSTAT_LOCKED = b then s
  else
    let s := s.setF F.ETH_TSTAT_LOCKED (if b then 1 else 0)
    (s.cause 5).notify (if b then 6 else 5) (if b then 0 else (BitVec.ofInt 64 s.offsetNs).toNat)

/-- Offset limits of R139 in ns: lock below 1 us, free above 10 us, step above 1 ms. -/
def lockNs : Nat := 1000
def freeNs : Nat := 10000
def stepNs : Nat := 1000000

/-- An offset saturated to 32 bits (ETH.TOFS). -/
def satOffset (i : Int) : Int := max (-2147483648) (min 2147483647 i)

/-- A rate correction of at most 500 ppm either way, in parts per 10^9 (R139). -/
def rateOf500 (b : BitVec 20) : Int := max (-500000) (min 500000 b.toInt)

/-- Steer the timebase by a measured offset (R139): above 1 ms it is stepped, below it is slewed (at 1 ns each second tick, 500 ppm); 8 good intervals lock, 10 us frees. The rate correction it
leaves is a free value (log entry 106). -/
def State.steer (s : State) (offsetNs : Int) : State :=
  let a := offsetNs.natAbs
  let good := if a < lockNs then s.eth.good + 1 else 0
  let s := { s with eth := { s.eth with
    good := good
    slew := if stepNs < a then 0 else -offsetNs
    rate := rateOf500 (Config.rateCorrection s.freeCtr)
    ns := if stepNs < a then ((s.eth.ns : Int) - offsetNs).toNat else s.eth.ns } }
  let s := s.draw
  if freeNs < a then s.setLocked false else if 8 ≤ good then s.setLocked true else s

/-- GPTP_SYNC on a port that is up: another clock is the grandmaster; the offset is measured, and the timebase steered by it (R139). With ETH.TCFG.SRC 1 the ports report and do not steer (R140). -/
def execGptpSync (port : Fin 2) (offsetNs : Int) (s : State) : Host.Outcome State Fault Refusal :=
  if s.portUp port = false then .next s else
  let s := ((s.setF F.ETH_TOFS_OFFSET (BitVec.ofInt 32 (satOffset offsetNs)).toNat).setF F.ETH_TSTAT_SLVPORT port.val).setF F.ETH_TSTAT_GM 0
  if s.bit F.ETH_TCFG_SRC then .next s else .next (s.steer offsetNs)

/-- GPTP_SYNC_TIMEOUT: no Sync for 3 intervals: SYNC is FREE, and the timebase goes on at its last rate correction (R139). With no better clock heard from the device is the best, and becomes
grandmaster, unless PRIO1 is 255 (DESIGN CHOICE, log entry 106: no row brings an Announce message). -/
def execGptpSyncTimeout (s : State) : Host.Outcome State Fault Refusal :=
  let s := (({ s with eth := { s.eth with good := 0 } }).setLocked false)
  .next (if s.getF F.ETH_TCFG_PRIO1 = 255 ∨ s.domainOn 2 = false then s else s.setF F.ETH_TSTAT_GM 1)

end Sys2Proof.Machine
end

