-- ==== Sys2Proof/Machine/Ports.lean ====
section
/-! DEFINITION. Cascade ports: training, frames, retries, breaks, time alignment, events and wake (16_xasen R425, R431 to R436, R443, R446 to R450, R462, R463). -/

namespace Sys2Proof.Machine

/-! ### Breaks (R434, R463) -/

/-- The code of a reason, and its name (XLK.PSTATp.REASON). -/
def downNum : DownReason → Nat
  | .none => 0 | .signal => 1 | .retry => 2 | .role => 3 | .sleep => 4 | .reset => 5 | .twomaster => 6

def reasonText : Nat → String
  | 1 => "SIGNAL" | 2 => "RETRY" | 3 => "ROLE" | 4 => "SLEEP" | 5 => "RESET" | 6 => "TWOMASTER" | _ => "NONE"

/-- Is a node of the census below port `k` of node `n`: its way up passes that port (R441). -/
def belowOf (cs : List Census) (n k : Nat) : Nat → Nat → Bool
  | 0, _ => false
  | fuel + 1, id =>
    match cs.find? (fun (c : Census) => c.id == id && !c.stale) with
    | none => false
    | some c => if c.id == 0 then false else (c.parent == n && c.port == k) || belowOf cs n k fuel c.parent

/-- The nodes that a break of port `p` (1 to 3) of node `n` cuts off: of the master's own ports by their ranges, else by the census (R463). -/
def State.cutOff (s : State) (n p : Nat) : List Nat :=
  let live := s.xlk.census.filter (fun (c : Census) => !c.stale && c.id != 0)
  if n = s.nodeId then (live.filter (fun (c : Census) => s.inRange (p - 1) c.id)).map (fun (c : Census) => c.id)
  else (live.filter (fun (c : Census) => belowOf s.xlk.census n (p - 1) 64 c.id)).map (fun (c : Census) => c.id)

/-- Mark nodes of the census stale (R463). -/
def State.markStale (s : State) (ids : List Nat) : State :=
  let cs := s.xlk.census.map (fun (c : Census) => if ids.contains c.id && !c.stale then { c with stale := true } else c)
  let s := { s with xlk := { s.xlk with census := cs } }
  (s.setF F.XLK_CENS_NODES (cs.filter (fun (c : Census) => !c.stale)).length).setF F.XLK_CENS_STALE (cs.filter (fun (c : Census) => c.stale)).length

/-- Report a break: the event and the cause (R448). -/
def State.breakEvent (s : State) (n p reason stale : Nat) : State :=
  (s.eventAll "BREAK" [⟨"HOP", hopVal n p⟩, ⟨"REASON", .word (reasonText reason)⟩, ⟨"STALE", .num stale⟩]).cause 6

/-- How many IDs the range of a down-port holds. -/
def State.rangeSize (s : State) (k : Nat) : Nat :=
  let lo := s.getF (F.XLK_RANGE_FIRST k)
  let hi := s.getF (F.XLK_RANGE_LAST k)
  if lo == 0 && hi == 0 then 0 else hi + 1 - lo

/-- The break of a down-port at the node that owns it (R448, R463). -/
def State.downBreak (s : State) (p reason : Nat) : State :=
  if s.isMaster then
    let ids := s.cutOff s.nodeId p
    (s.markStale ids).breakEvent s.nodeId p reason ids.length
  else
    (s.breakEvent s.nodeId p reason (s.rangeSize (p - 1))).routePlain (s.frame tEVT 0 0 (beBytes 1 1 ++ beBytes 1 p ++ beBytes 1 reason))

/-- Answer the commands that were in flight on a port that has gone DOWN (R446). -/
def State.brokenCmds (s : State) (p : Nat) : List Sent → State
  | [] => s
  | x :: xs =>
    let s := if x.f.ty ≠ tCMD ∨ x.drop = true ∨ x.f.void = true then s
      else match (if x.f.src = s.nodeId then s.xlk.cmds.find? (fun (c : XCmd) => c.tag == x.f.tag) else none) with
        | some c => s.failCmd c .pathBreak [⟨"HOP", hopVal s.nodeId p⟩]
        | none => s.sendRsp x.f.src x.f.tag (x.f.payload.headD 0#8).toNat 0 Er.pathBreak.code (breakBytes s.nodeId p)
    State.brokenCmds s p xs

/-- The link to a lender or a borrower breaks (R462): spilled records end with 810, offers go, and pages lent over it are free. -/
def State.lendBreak (s : State) (p : PortNo) : State :=
  let gone := (s.qmg.recs.filter (fun (r : Rec) => match r.lent with | some (q, _) => q == p.val | none => false)).map (fun (r : Rec) => r.uid)
  let s := s.freePagesOf ((s.xlk.lent.filter (fun (l : Lent) => l.port == p)).flatMap (fun (l : Lent) => l.pages))
  let s := { s with xlk := { s.xlk with
    lent := s.xlk.lent.filter (fun (l : Lent) => l.port != p)
    grants := s.xlk.grants.filter (fun (g : Grant) => g.port != p)
    called := match s.xlk.called with | some c => if gone.contains c.uid then none else some c | none => none } }
  if gone = [] then s else s.abort gone .lendlost

/-- A port goes DOWN (R425, R434, R463). Leaving UP is a break. -/
def State.portDown (s : State) (p : PortNo) (r : DownReason) : State :=
  let up := s.getF (F.XLK_PSTAT_STATE p.val) == 2
  let old := s.xp p
  let s := (s.setF (F.XLK_PSTAT_STATE p.val) 0).setF (F.XLK_PSTAT_REASON p.val) (downNum r)
  if up = false then s
  else
    let s := (s.count (F.XLK_PCNT_DOWNS p.val) 1).setXp p { XPort.reset with said := old.said }
    let s := if r = .retry then s.log (errRec .linkretry .xlk [⟨"PORT", .word (portText p.val)⟩]) else s
    let s := s.brokenCmds p.val old.replay
    let s := if p.val = 0 then (if s.isMaster then s else s.setF F.XLK_STAT_STALE 1) else s.downBreak p.val (downNum r)
    ((s.sweepBreak p.val).lendBreak p).evalGroups

/-- PORT_DOWN (R434). -/
def execPortDown (p : PortNo) (reason : DownReason) (s : State) : Host.Outcome State Fault Refusal :=
  if s.domainOn 9 = false then .next s else .next (s.portDown p reason)

/-- PARK_ORDERED_SET: the peer is about to switch its D9 off (R450). -/
def execParkOrderedSet (p : PortNo) (s : State) : Host.Outcome State Fault Refusal :=
  if s.linkUp p then .next (s.portDown p .sleep) else .next s

/-! ### Training (R425) -/

/-- A port stays DOWN for a reason; its record is written once until the port is UP (R425). -/
def State.clash (s : State) (p : PortNo) (r : DownReason) (e : Er) : State :=
  let s := (s.setF (F.XLK_PSTAT_STATE p.val) 0).setF (F.XLK_PSTAT_REASON p.val) (downNum r)
  let x := s.xp p
  if x.said.contains r then s else (s.setXp p { x with said := r :: x.said }).log (errRec e .xlk [])

/-- A down-port has become UP (R437, R448). -/
def State.linkUpEvent (s : State) (p : PortNo) : State :=
  if s.isMaster then { s with xlk := { s.xlk with due := true } }.cause 6
  else (s.cause 6).routePlain (s.frame tEVT 0 0 (beBytes 1 2 ++ beBytes 1 p.val ++ beBytes 1 0))

/-- PORT_TRAINED: opposite roles make the port UP; equal ones, or a peer at the master's U port, keep it DOWN; a strapped master's U port below a D port never acknowledges, and the D
port stays in TRAIN (R425). -/
def execPortTrained (p : PortNo) (peerRole : PortNo) (peerMaster : Bool) (s : State) : Host.Outcome State Fault Refusal :=
  let isU := p.val == 0
  let peerU := peerRole.val == 0
  if s.domainOn 9 = false ∨ s.getF (F.XLK_PSTAT_STATE p.val) = 2 then .next s
  else if isU == peerU then .next (s.clash p .role .portrole)
  else if isU = true ∧ s.isMaster = true then .next (s.clash p .twomaster .twomaster)
  else if peerU = true ∧ peerMaster = true then .next (s.setF (F.XLK_PSTAT_STATE p.val) 1)
  else
    let s := (((s.clkBack .ckx).setF (F.XLK_PSTAT_STATE p.val) 2)).setXp p XPort.reset
    .next (if isU then s else s.linkUpEvent p)

/-- TRAINING_BURST: a DOWN port without a peer signal (R425). -/
def execTrainingBurst (p : PortNo) (s : State) : Host.Outcome State Fault Refusal :=
  if s.domainOn 9 = true ∧ s.getF (F.XLK_PSTAT_STATE p.val) = 0 then .next (s.emit (.training p)) else .next s

/-! ### Frames (R431 to R435) -/

/-- A frame that is to be resent: an abandoned CMD is replaced by a VOID frame (R431). -/
def Sent.again (x : Sent) : Sent :=
  if x.out = false then x
  else { x with out := false, resent := x.resent + 1, f := if x.drop then { x.f with void := true, payload := [] } else x.f }

/-- The commands of this node whose frames are among those resent (R476). -/
def State.noteRetries (s : State) (l : List Sent) : State :=
  { s with xlk := { s.xlk with cmds := s.xlk.cmds.map (fun (c : XCmd) =>
      if l.any (fun (x : Sent) => x.out && x.f.ty == tCMD && x.f.src == s.nodeId && x.f.tag == c.tag) then { c with retries := c.retries + 1 } else c) } }

/-- A retry: every unacknowledged frame is resent from the first; a frame that has failed its fourth resend takes the port DOWN (R431, R434). -/
def State.retry (s : State) (p : PortNo) : State :=
  let x := s.xp p
  if s.linkUp p = false ∨ x.replay.any (fun y => y.out) = false then s
  else if x.replay.any (fun y => y.out && decide (4 ≤ y.resent)) = true then s.portDown p .retry
  else
    let s := (s.count (F.XLK_PCNT_RETRY p.val) 1).noteRetries x.replay
    (s.setXp p { x with replay := x.replay.map Sent.again }).pushPort p

/-- LINK_RETRY (R431). -/
def execLinkRetry (p : PortNo) (s : State) : Host.Outcome State Fault Refusal := .next (s.retry p)

/-- An IDLE frame, which carries ACKSEQ and CREDIT and may carry a NAK (R429 to R431). -/
def State.idle (s : State) (p : PortNo) (nak : Bool) : State := s.wire p { s.frame 0 0 0 [] with hop := true, nak := nak }

/-- LINK_IDLE_SEND (R431). -/
def execLinkIdleSend (p : PortNo) (s : State) : Host.Outcome State Fault Refusal :=
  if s.linkUp p then .next (s.idle p false) else .next s

/-- ACKSEQ and CREDIT of a received frame: what they cover leaves the replay buffer, and what the credits allow is sent (R431, R432). -/
def State.takeAck (s : State) (p : PortNo) (f : LFrame) : State :=
  let x := s.xp p
  (s.setXp p { x with freed := f.credit, replay := x.replay.filter (fun y => !(y.out && decide ((f.ackseq + 65536 - y.f.lseq) % 65536 < 32768))) }).pushPort p

/-- The types of R430, but IDLE; and those that are routed. -/
def knownType (ty : Nat) : Bool := [tCMD, tRSP, tEVT, tCREQ, tCRSP, tPROBE, tCOMMIT, tTIME, tDRT, tLEND].contains ty
def routedType (ty : Nat) : Bool := [tCMD, tRSP, tEVT, tDRT].contains ty

/-- What a frame that has passed the checks comes to: a routed one goes its way; a HOP frame, and one for this node, acts through the command of its own kind; COMMIT goes on below (R435). -/
def State.deliver (s : State) (f : LFrame) : State :=
  if routedType f.ty = true ∧ f.hop = false ∧ f.bcast = false then
    if f.ty = tDRT ∧ drtReply f.payload = true ∧ s.routeOf f.dst = .self then s.headReply f.src f.payload else s.route f
  else
    let s := s.emit (.linkLocal f)
    if f.bcast = true ∧ f.ty ≠ tTIME then s.sendDown f else s

/-- A sequenced frame that passed its CRC, checked in the order of R433; `len` is what its LEN says. -/
def State.takeFrame (s : State) (p : PortNo) (f : LFrame) (len : Nat) : State :=
  let x := s.xp p
  let s := s.setXp p { x with given := (x.given + frameCredits f) % 256 }
  let d := (f.lseq + 65536 - (x.ack + 1) % 65536) % 65536
  if 32768 ≤ d then s.idle p false
  else if d ≠ 0 then s.idle p true
  else
    let s := s.setXp p { s.xp p with ack := f.lseq }
    let s := s.idle p false
    if f.void = true then s
    else if knownType f.ty = false ∨ 1000 < len then s.count (F.XLK_PCNT_CRCERR p.val) 1
    else if routedType f.ty = true ∧ f.hop = false ∧ f.epoch ≠ s.xlk.epoch then s.count (F.XLK_PCNT_EPOCHDROP p.val) 1
    else s.deliver f

/-- LINK_FRAME_RECEIVED (R433). -/
def execLinkFrameReceived (p : PortNo) (h : LinkHdr) (s : State) : Host.Outcome State Fault Refusal :=
  let f := linkFrame h
  if s.linkUp p = false then .next s
  else if h.ok = false then
    let x := s.xp p
    .next (((s.count (F.XLK_PCNT_CRCERR p.val) 1).setXp p { x with given := (x.given + frameCredits f) % 256 }).idle p true)
  else
    let s := s.takeAck p f
    let s := if f.nak then s.retry p else s
    if s.linkUp p = false ∨ f.ty = 0 then .next s else .next (s.takeFrame p f h.len)

/-! ### Time alignment (R443) -/

/-- TIME_FRAME_SEND: every 1 ms on the master while TIMEEN is 1. -/
def execTimeFrameSend (s : State) : Host.Outcome State Fault Refusal :=
  if s.isMaster = true ∧ s.bit F.XLK_CFG_TIMEEN = true ∧ s.domainOn 9 = true then
    let n := s.xlk.timeCount
    .next ({ s with xlk := { s.xlk with timeCount := (n + 1) % 2 ^ 32 } }.sendDown
      { s.frame tTIME 0 0 (beBytes 8 s.now ++ beBytes 4 0 ++ beBytes 4 n) with bcast := true })
  else .next s

/-- TIME_FRAME_RECEIVED: the hop of the port and the residence time are added and the frame goes on; with ETH.TCFG.SRC 1 the timebase is steered toward T + CORR, this hop included (R140,
R443). -/
def execTimeFrameReceived (p : PortNo) (t : DWord) (corr count residence : Word) (s : State) : Host.Outcome State Fault Refusal :=
  if s.linkUp p = false then .next s
  else
    let c := corr.toNat + s.getF (F.XLK_PSTAT_HOPDLY p.val)
    let s := s.sendDown { s.frame tTIME 0 0 (beBytes 8 t.toNat ++ beBytes 4 (c + residence.toNat) ++ beBytes 4 count.toNat) with bcast := true }
    if s.bit F.ETH_TCFG_SRC = true ∧ s.isMaster = false then
      let off : Int := (s.eth.ns : Int) - (t.toNat + roundQ ((c : Nat) / (16 : Rat)))
      .next ((s.setF F.ETH_TOFS_OFFSET (BitVec.ofInt 32 (satOffset off)).toNat).steer off)
    else .next s

/-! ### Events and wake (R448, R449) -/

/-- EVT_RECEIVED at the master: a BREAK is reported and its nodes are stale; a LINKUP makes a sweep due (R437, R448, R463). -/
def execEvtReceived (node : BitVec 16) (kind port reason : Byte) (s : State) : Host.Outcome State Fault Refusal :=
  if s.isMaster = false then .next s
  else if kind = 1#8 then
    let ids := s.cutOff node.toNat port.toNat
    .next (((s.markStale ids).breakEvent node.toNat port.toNat reason.toNat ids.length).evalGroups)
  else if kind = 2#8 then .next ({ s with xlk := { s.xlk with due := true } }.cause 6)
  else .next s

/-- Send the wake signal on the down-ports of a mask (R449). -/
def State.wakeDown (s : State) (mask : Nat) : State :=
  let one (s : State) (k : Nat) (p : PortNo) : State := if getBits mask k 1 = 1 then s.emit (.wakeSignal p) else s
  if s.domainOn 9 then one (one (one s 0 1) 1 2) 2 3 else s

/-- XLK_WAKE_WRITE (R449). -/
def execXlkWakeWrite (src : Src) (v : Word) (s : State) : Host.Outcome State Fault Refusal :=
  match src with
  | .vf _ => .next s
  | _ => if s.pfOpen src = false then .next (s.pfDrop src) else .next (s.wakeDown (getBits v.toNat 0 3))

/-! ### The end of commands at their origin (R446, R447) -/

/-- RSP_RECEIVED (R446, R447). -/
def execRspReceived (tag : BitVec 16) (op result : Byte) (status : BitVec 16) (more done : Bool) (reply : List Byte) (s : State) : Host.Outcome State Fault Refusal :=
  if done = true then
    match s.xlk.dones.find? (fun (d : XDone) => d.tag == tag.toNat) with
    | some d => .next (s.remoteDone d reply)
    | none => .next s
  else
    match s.xlk.cmds.find? (fun (c : XCmd) => c.tag == tag.toNat && c.op == op.toNat) with
    | none => .next s
    | some c =>
      if more = true then
        .next { s with xlk := { s.xlk with cmds := s.xlk.cmds.map (fun (x : XCmd) => if x.tag = c.tag then { x with got := x.got ++ reply } else x) } }
      else .next (s.endCmd c result.toNat status.toNat (c.got ++ reply))

/-- A command's frame is abandoned: it is not sent again, and the next retry sends it as VOID (R431, R446). -/
def State.abandonCmd (s : State) (tag : Nat) (p : PortNo) : State :=
  let x := s.xp p
  let mine (y : Sent) : Bool := y.f.ty == tCMD && y.f.src == s.nodeId && y.f.tag == tag
  s.setXp p { x with replay := x.replay.map (fun y => if mine y then { y with drop := true } else y) }

/-- CTMO_EXPIRY (R446). -/
def execCtmoExpiry (tag : BitVec 16) (s : State) : Host.Outcome State Fault Refusal :=
  match s.xlk.cmds.find? (fun (c : XCmd) => c.tag == tag.toNat) with
  | none => .next s
  | some c =>
    let s := { s with xlk := { s.xlk with held := s.xlk.held.filter (fun (f : LFrame) => f.tag != c.tag) } }
    .next (((((s.abandonCmd c.tag 0).abandonCmd c.tag 1).abandonCmd c.tag 2).abandonCmd c.tag 3).failCmd c .ctimeout [])

end Sys2Proof.Machine
end

