-- ==== Sys2Proof/Machine/Servo.lean ====
section
/-! DEFINITION. The servo and speed matching: frames, position words, tracking, the write gate, turnarounds, backhitches and pack mode
(12_servo R324 to R344). -/

namespace Sys2Proof.Machine

/-! ### Decoding a frame (R325, R326, R328) -/

/-- The position that a reader measured, in um: the mean over its stripe pairs of 240 - 800 r, r the time from the P stripe to the N stripe over that of the frame; none when the frame is invalid (R325, R328). -/
def posOf (r : ServoRead) : Option Rat :=
  let ps := r.pairs.take 4
  if r.bursts = false ∨ ps.length < 3 ∨ r.period = 0 then none
  else
    let y : Rat := 240 - 800 * ((ps.map (fun p => (p.2 : Int) - p.1)).sum : Int) / (ps.length * r.period : Nat)
    if -88 ≤ y ∧ y ≤ 88 then some y else none

/-- The tape speed in mm/s that readers measured: a frame of 200 um over the time between the first stripes of successive M bursts, by the first reader that found its bursts; with none it keeps its last value (R325,
R337). -/
def State.speedOf (s : State) (rs : List ServoRead) : Rat :=
  match rs.find? (fun r => r.bursts && r.period != 0) with
  | some r => (200000000000 : Rat) / (r.period : Rat)
  | none => s.getF F.SRV_SPD_MMS

/-- The symbol of an M burst (R326); true is a reversed stripe. A pattern that is neither S nor the invalid one reads as its majority. -/
def symOf (r : ServoRead) : Sym :=
  if r.bursts = false then .bad
  else match r.m1, r.m2, r.m3 with
    | false, true, false => .sync
    | true, false, true => .bad
    | a, b, c => if (a && b) || (b && c) || (a && c) then .one else .zero

/-- CRC-7 of a list of bits, most significant first: x^7 + x^3 + 1, initial value 0 (R326). -/
def crc7 : List Bool → Nat → Nat
  | [], c => c
  | b :: bs, c => crc7 bs (let top := c / 64 % 2 == 1; let c := c * 2 % 128; if top != b then c ^^^ 9 else c)

def symBit : Sym → Option Bool
  | .zero => some false | .one => some true | _ => none

/-- A value of bits, most significant first. -/
def msbVal : List Bool → Nat → Nat
  | [], n => n
  | b :: bs, n => msbVal bs (2 * n + if b then 1 else 0)

/-- The word that the newest frame completes, from the 40 newest symbols in the order frame 0 to 39 (R326): none when frame 0 is no S; a failed word is `some none`. -/
def wordOf (l : List Sym) : Option (Option Nat) :=
  match l with
  | .sync :: rest =>
    if rest.length ≠ 39 then none
    else
      let bs := rest.map symBit
      if bs.any (·.isNone) then some none
      else
        let bs := bs.map (·.getD false)
        if crc7 (bs.take 32) 0 = msbVal (bs.drop 32) 0 then some (some (msbVal (bs.take 32) 0)) else some none
  | _ => none

/-- The word a reader completes with this frame, and the LPW it gives for this frame: forward it is the word's frame 39, in reverse its frame 0. -/
def readWord (rev : Bool) (syms : List Sym) : Option (Option (Nat × Nat)) :=
  let l := if rev then syms else syms.reverse
  (wordOf l).map (fun o => o.map (fun w => (w, if rev then w else w + 39)))

/-- The servo band that a word's S frame marks (R326). -/
def wordBand (w : Nat) : Option Nat := if 5 ≤ w % 40 ∧ (w % 40 - 5) % 7 = 0 then some ((w % 40 - 5) / 7) else none

/-! ### The position word (R330, R334) -/

/-- SEQ moves the head open-loop: it drives LAT's output, and LAT does not execute (R334, R376). -/
def State.openMove (s : State) (old : Nat) : State :=
  let ix := s.headIx
  let s := if s.headOn then s.setLoop 4 { s.loop 4 with out := Config.openMove old ix } else s
  s.setF (F.CLE_LSTAT_OPEN 4) 1

/-- A lateral move ends: LAT runs again under the transfer rule (R376, R390). -/
def State.afterMove (s : State) : State :=
  if s.bit (F.CLE_LSTAT_OPEN 4) = true then (s.setF (F.CLE_LSTAT_OPEN 4) 0).setLoop 4 { s.loop 4 with preset := true } else s

/-- An open-loop move is completed under servo once the tape runs at 0.25 m/s and a reader gives a position (R334; DESIGN CHOICE, log entry 123: no row reports the end of a move). -/
def State.moveEnds (s : State) (valid : Bool) (v : Rat) : State := if valid = true ∧ 250 ≤ v then s.afterMove else s

/-- CART becomes FAULT after three failed band moves, and the tape stops (R334). -/
def State.bandFault (s : State) : State :=
  let s := if s.cart = .writing then s.haltWrite else s
  ((s.setCart .fault s.con.opCart).endOps .bandid).beginStop

/-- A band that disagrees: ER 621, and the move is repeated (R334). -/
def State.wrongBand (s : State) (band : Nat) : State :=
  let n := s.srv.moves + 1
  let s := s.log (errRec .bandid .srv [⟨"BAND", .num band⟩])
  let s := { s with srv := { s.srv with moves := n, bandOk := Vector.replicate 2 false, settled := 0, syms := Vector.replicate 2 [] } }
  if 3 ≤ n then s.bandFault else (s.setF F.SRV_STAT_STATE 1).openMove s.headIx

/-- A valid word of reader `k` ends a row of failed ones; it confirms a count that was held at low speed (R330). -/
def State.goodWord (s : State) (k : Fin 2) (w lpw : Nat) : State :=
  let s := { s with srv := { s.srv with badWords := 0 } }
  let want := s.getF F.SRV_STAT_BAND + k.val
  match wordBand w with
  | none => s
  | some b =>
    if b ≠ want ∧ s.srv.bandOk[k] = false then s.wrongBand (b - k.val)
    else
      let s := if b = want then { s with srv := { s.srv with bandOk := s.srv.bandOk.set k true, moves := 0 } } else s
      if s.bit F.SRV_STAT_LPWOK = false then
        (if b = want then (s.setF F.SRV_LPW_LPW lpw).setF F.SRV_STAT_LPWOK 1 else s)
      else
        let cnt := s.getF F.SRV_LPW_LPW
        if s.srv.held = true then { s with srv := { s.srv with other := none, held := false } }.setF F.SRV_LPW_LPW lpw
        else if lpw = cnt then { s with srv := { s.srv with other := none } }
        else
          let agree := s.srv.other == some lpw
          let s := s.log (errRec .lpwfail .srv [⟨"LPW", .num cnt⟩, ⟨"WORD", .num w⟩])
          if agree then { s with srv := { s.srv with other := none } }.setF F.SRV_LPW_LPW lpw
          else { s with srv := { s.srv with other := some lpw } }

/-- A word whose CRC fails (R330). -/
def State.badWord (s : State) : State :=
  let n := s.srv.badWords + 1
  let s := { s with srv := { s.srv with badWords := n } }.count F.SRV_CNT_LPWERR 1
  if 3 ≤ n then s.setF F.SRV_STAT_LPWOK 0 else s

/-- One primary reader's symbol of this frame (R326, R330). -/
def State.takeSym (s : State) (k : Fin 2) (y : Sym) : State :=
  let l := (y :: s.srv.syms[k]).take 40
  let s := { s with srv := { s.srv with syms := s.srv.syms.set k l } }
  match readWord s.mdr.rev l with
  | none => s
  | some none => s.badWord
  | some (some (w, lpw)) => s.goodWord k w lpw

/-- The count goes on by one frame, down to 0.05 m/s; below that it is held (R330). -/
def State.countLpw (s : State) (v : Rat) : State :=
  if v < 50 then { s with srv := { s.srv with held := true } }
  else
    let mv (n : Nat) : Nat := if s.mdr.rev then n - 1 else n + 1
    let s' := s.setF F.SRV_LPW_LPW (mv (s.getF F.SRV_LPW_LPW))
    { s' with srv := { s'.srv with other := s'.srv.other.map mv } }

/-! ### Tracking and the write gate (R329, R331, R332) -/

/-- The LPE of a position, in 1/256 um: less the reference of the present wrap, and the offset of a read retry (R316, R329). -/
def State.lpeOf (s : State) (pos : Rat) : Int :=
  let ref : Rat := ((2 * (s.getF F.SRV_STAT_WRAP : Int) - 47 : Int) : Rat) * 17 / 10
  let off : Rat := if s.cart = .reading then (s.retryOffset : Rat) * 34 / (10 * 64) else 0
  max (-32768) (min 32767 (roundQ (256 * (pos - ref - off))))

/-- |LPE| against a limit in 1/64 of the track pitch: one unit is 13.6 of 1/256 um. -/
def beyond (lpe : Int) (lim : Nat) : Bool := decide (136 * lim < 10 * lpe.natAbs)

/-- Is the tape where it may be written (R332). -/
def State.inRegion (s : State) : Bool :=
  let p := s.getF F.SRV_LPW_LPW
  decide (dataLo ≤ p ∧ p ≤ dataHi) || (s.cart == .unloading && decide (2000 ≤ p ∧ p < 9000))

/-- The next state of SRV (R331): `bad` that the readers disagree, `ok` that the sample gives an LPE. -/
def State.nextSrv (s : State) (v : Rat) (bad : Bool) (lpe : Int) : Nat :=
  if v = 0 then 0
  else if s.getF F.SRV_CFG_LOSTN ≤ s.srv.missed then 4
  else if bad = true ∨ v < 250 then 3
  else match s.getF F.SRV_STAT_STATE with
    | 2 => if beyond lpe (s.getF F.SRV_CFG_WINH) then 1 else 2
    | 1 => if 64 ≤ s.srv.settled ∧ s.srv.bandOk[(0 : Fin 2)] = true ∧ s.srv.bandOk[(1 : Fin 2)] = true then 2 else 1
    | _ => 1

/-- Is a speed in mm/s within 0.5 % of the commanded profile, the reference of the reels (R332, R362). -/
def State.onProfile (s : State) (v : Rat) : Bool :=
  let p : Rat := (if s.mdr.vRef < 0 then -s.mdr.vRef else s.mdr.vRef) * 1000 / 65536
  decide (995 * p ≤ 1000 * v ∧ 1000 * v ≤ 1005 * p)

/-- The conditions of the write gate that this frame decides (R332, R369). -/
def State.gateNow (s : State) (v : Rat) : Bool := s.getF F.SRV_STAT_STATE == 2 && s.bit F.SRV_STAT_LPWOK && s.inRegion && s.mot != .tripped && s.onProfile v

/-- The write gate follows its conditions; a closure is counted and cuts the frames in flight (R332). -/
def State.setGate (s : State) (wasOpen isOpen : Bool) : State :=
  let s := s.setF F.SRV_STAT_WINHIB (if isOpen then 0 else 1)
  if wasOpen = true ∧ isOpen = false then (s.count F.SRV_CNT_WINHIB 1).cutInFlight else s

/-- The sample sent to CLE (R328). -/
def State.sampleOf (s : State) (stamp : DWord) : BitVec 128 :=
  BitVec.ofNat 128 (stamp.toNat * 2 ^ 64 + s.getF F.SRV_LPW_LPW * 2 ^ 32 + s.getF F.SRV_LPE_LPE * 2 ^ 16 + s.getF F.SRV_STAT_STATE * 2 ^ 13 + s.getF F.SRV_STAT_DIR * 2 ^ 12 +
    s.getF F.SRV_STAT_LPWOK * 2 ^ 11 + s.getF F.SRV_STAT_V0 * 2 ^ 10 + s.getF F.SRV_STAT_V1 * 2 ^ 9 + s.getF F.SRV_STAT_WINHIB * 2 ^ 8)

/-- Positions of readers 0 and 1: the primary's, or the trailing module's where the primary's frame is invalid (R328). -/
def pick (lead trail : ServoRead) : Option Rat := (posOf lead).or (posOf trail)

/-- Do the two readers disagree by more than SRV.CFG.DISAGREE (R329). -/
def State.disagree (s : State) (p0 p1 : Option Rat) : Bool :=
  match p0, p1 with
  | some a, some b => decide ((s.getF F.SRV_CFG_DISAGREE : Rat) * 17 / 320 < a - b ∨ (s.getF F.SRV_CFG_DISAGREE : Rat) * 17 / 320 < b - a)
  | _, _ => false

/-- The position that the readers give: their mean, or that of the one that is valid, and none when they disagree (R329). -/
def State.position (s : State) (p0 p1 : Option Rat) : Option Rat :=
  if s.disagree p0 p1 then none else match p0, p1 with
    | some a, some b => some ((a + b) / 2)
    | some a, none => some a
    | none, b => b

/-- The lateral position error of a frame; without a position it keeps its last value (R329). -/
def State.lpeNow (s : State) (p0 p1 : Option Rat) : Int :=
  match s.position p0 p1 with
  | some p => s.lpeOf p
  | none => ofField 16 (s.getF F.SRV_LPE_LPE)

/-- Settled samples, and frames without a valid reader (R331). -/
def State.trackCount (s : State) (p0 p1 : Option Rat) : State :=
  let good := (s.position p0 p1).isSome && !(beyond (s.lpeNow p0 p1) (s.getF F.SRV_CFG_SETTLE))
  { s with srv := { s.srv with
    settled := if good then s.srv.settled + 1 else 0, missed := if p0.isNone && p1.isNone then s.srv.missed + 1 else 0 } }

/-- The servo takes its next state (R331, R333). -/
def State.trackTo (s : State) (st : Nat) (lpe : Int) : State :=
  let s := if st = 4 ∧ s.getF F.SRV_STAT_STATE ≠ 4 then { s with srv := { s.srv with sinceLost := true } }.count F.SRV_CNT_LOST 1 else s
  let s := if st = 2 ∨ st = 0 then { s with srv := { s.srv with sinceLost := false } } else s
  (s.setF F.SRV_STAT_STATE st).setF F.SRV_LPE_LPE (toField 16 lpe)

/-- The tracking part of a frame (R329, R331). -/
def State.track (s : State) (p0 p1 : Option Rat) (v : Rat) : State :=
  let bad := s.disagree p0 p1
  let lpe := s.lpeNow p0 p1
  let s := ((s.setF F.SRV_STAT_V0 (if p0.isSome then 1 else 0)).setF F.SRV_STAT_V1 (if p1.isSome then 1 else 0)).trackCount p0 p1
  s.trackTo (s.nextSrv v bad lpe) lpe

/-- What the readers of the primary module and of the other one (b for forward motion) bring to a frame, with the tape speed in mm/s: LPW symbols, then the track (R326 to R331). -/
def State.servoIn (s : State) (l0 l1 t0 t1 : ServoRead) (v : Rat) : State :=
  let s := ((s.setF F.SRV_SPD_MMS (min 65535 (roundQ v).toNat)).setF F.SRV_STAT_MODB (if s.mdr.rev then 1 else 0)).countLpw v
  let s := s.moveEnds ((pick l0 t0).isSome || (pick l1 t1).isSome) v
  let s := s.takeSym 0 (symOf (if l0.bursts then l0 else t0))
  let s := s.takeSym 1 (symOf (if l1.bursts then l1 else t1))
  s.track (pick l0 t0) (pick l1 t1) v

/-- The sample goes to CLE through XC-11, which holds 16 of them while CKM is stopped (R33, R328; of more the oldest is lost, log entry 101). -/
def State.sendSample (s : State) (stamp : DWord) : State :=
  let x := s.sampleOf stamp
  if s.xc.stopped.contains .ckm then { s with xc := { s.xc with samples := (s.xc.samples ++ [x]).drop (s.xc.samples.length - 15) } }
  else { s with srv := { s.srv with sample := x, fresh := true } }

/-- The write gate and the sample for LAT at the end of a frame (R332, R334); at rest the gate is not inhibited. -/
def State.servoGate (s : State) (wasOpen : Bool) (v : Rat) (stamp : DWord) : State :=
  if v = 0 then s.setF F.SRV_STAT_WINHIB 0 else (s.setGate wasOpen (s.gateNow v)).sendSample stamp

/-- SERVO_FRAME (R328 to R332, R334, R337). -/
def execServoFrame (a0 a1 b0 b1 : ServoRead) (stamp : DWord) (s : State) : Host.Outcome State Fault Refusal :=
  if s.domainOn 6 = false ∨ s.domainOn 5 = false then .next s
  else
    let wasOpen := s.getF F.SRV_STAT_STATE == 2 && !(s.bit F.SRV_STAT_WINHIB)
    let v := s.speedOf (if s.mdr.rev then [b0, b1, a0, a1] else [a0, a1, b0, b1])
    let s := if s.mdr.rev then s.servoIn b0 b1 a0 a1 v else s.servoIn a0 a1 b0 b1 v
    .next (s.servoGate wasOpen v stamp).headBalls

/-- SERVO_LOST_TIMEOUT: 256 frames without TRACK since LOST (R333). The dataset that streamed is abandoned; CART leaves WRITING as the tape no longer runs (log entry 31). -/
def execServoLostTimeout (s : State) : Host.Outcome State Fault Refusal :=
  if s.srv.sinceLost = false then .next s
  else
    let s := { s with srv := { s.srv with sinceLost := false } }.log (errRec .servolost .srv [])
    let s := match s.writing? with | some x => s.abandonDs x | none => s
    .next ((s.stopWriting.endOps .servolost).beginStop)

/-- LPWOK_STOP_TIMEOUT (R330): a stop of more than 30 s. -/
def execLpwokStopTimeout (s : State) : Host.Outcome State Fault Refusal :=
  if s.getF F.SRV_SPD_MMS = 0 then .next (s.setF F.SRV_STAT_LPWOK 0) else .next s

/-! ### Speed matching (R338 to R344) -/

/-- The lowest step whose payload rate reaches a demand in bytes a second with the margin; 12 when none does, 0 for pack mode (R339). -/
def targetStep (e : Bool) (margin demand : Nat) : Nat :=
  let rate (n : Nat) := (if e then stepRateE n else stepRateC n) * 100000
  if demand * (100 + margin) < rate 1 * 100 then 0
  else match (List.range 13).find? (fun n => n != 0 && decide (demand * (100 + margin) ≤ rate n * 100)) with
    | some n => n
    | none => 12

/-- The step commanded; CUR shows it while the tape runs (SRV.SPD). -/
def State.setStep (s : State) (n : Nat) : State :=
  let s := { s with mdr := { s.mdr with step := n } }
  if s.getF F.SRV_SPD_CUR ≠ 0 then s.setF F.SRV_SPD_CUR n else s

/-- A change of step by speed matching: `!SPEED` and PFCAUSE.SPEED (R340). -/
def State.stepChange (s : State) (n ingest : Nat) : State :=
  if s.mdr.step = n then s
  else ((s.setStep n).cause 4).eventAll "SPEED" [⟨"STEP", .num n⟩, ⟨"IN", .num ingest⟩]

/-- The present step as R340 compares it: 0 in pack mode. -/
def State.presentStep (s : State) : Nat := if s.bit F.SRV_SPD_PACK then 0 else s.mdr.step

/-- Take a target (R340, R343): 0 is pack mode where it is allowed, else step 1. -/
def State.toTarget (s : State) (t ingest : Nat) : State :=
  let s := { s with srv := { s.srv with below := 0 } }
  if t = 0 ∧ s.bit F.SRV_PACK_EN = true then s.setF F.SRV_SPD_PACK 1
  else (s.setF F.SRV_SPD_PACK 0).stepChange (max 1 t) ingest

/-- Uncompressed bytes of the records that wait in the Tank to be fed (R338). -/
def State.unfed (s : State) : Nat :=
  (s.qmg.recs.map (fun r => if (r.level = .accepted ∨ r.level = .secured) ∧ r.feed = none ∧ r.whole = false ∧ r.lent = none ∧ r.body = none then r.length else 0)).sum

/-- D', the demand in bytes a second: what RDC produced in the last second, and the waiting bytes at the ratio it had, over TDRAIN (R338). -/
def State.demandNow (s : State) : Nat :=
  let made := lately s.us s.flow.made
  let d := (made.map (·.2.1)).sum
  let raw := (made.map (·.2.2)).sum
  let w := if raw = 0 then s.unfed else s.unfed * d / raw
  d + w / s.getF F.SRV_MATCH_TDRAIN

/-- IN, in MB/s: the uncompressed rate of the records that became ACCEPTED in the last second (R338). -/
def State.ingestNow (s : State) : Nat := s.rateOfLast s.flow.took / 1000000

/-- SPEED_EVALUATION: every 100 ms (R338 to R340). -/
def execSpeedEvaluation (s : State) : Host.Outcome State Fault Refusal :=
  let ingestMBs := s.ingestNow
  let demand := s.demandNow
  let s := { s with srv := { s.srv with demand := demand, ingest := ingestMBs } }
  if s.cart ≠ .writing ∨ s.bit F.SRV_SPD_AUTO = false then .next { s with srv := { s.srv with below := 0 } }
  else
    let t := targetStep (zoneE s.tape.wrap) (s.getF F.SRV_MATCH_MARGIN) demand
    let now := s.presentStep
    let s := s.setF F.SRV_SPD_TARGET t
    if now < t then .next (s.toTarget t ingestMBs)
    else if t < now then
      let n := s.srv.below + 1
      if s.getF F.SRV_MATCH_DOWNHOLD < n then .next (s.toTarget t ingestMBs)
      else .next { s with srv := { s.srv with below := n } }
    else .next { s with srv := { s.srv with below := 0 } }

/-- The servo starts over in a new wrap (R335, R340): the direction of motion and the LPW it begins at, nothing read yet, the band to be verified again where it changes, and no frame written until it is settled (R331, R335). -/
def State.turnDir (s : State) (ix : Nat) : State :=
  ({ s with mdr := { s.mdr with rev := wrapRev ix } }.setF F.SRV_STAT_DIR (if wrapRev ix then 1 else 0)).setF F.SRV_LPW_LPW (wrapStart ix)
def State.turnSyms (s : State) (band : Bool) : State :=
  { s with srv := { s.srv with syms := Vector.replicate 2 [], other := none, moves := 0, bandOk := if band then Vector.replicate 2 false else s.srv.bandOk } }
def State.turnTrack (s : State) : State := { s with srv := { s.srv with settled := 0, held := true } }.setF F.SRV_STAT_STATE 1

/-- The tape turns at the end of a wrap (R335, R340). -/
def State.turnTo (s : State) (old ix : Nat) : State :=
  let band := bandOf old != bandOf ix
  { ((((s.headTo ix).openMove old).turnDir ix).turnSyms band).turnTrack with mdr.vRef := 0 }

/-- Writing goes on in the new wrap at the step its zone asks for (R339, R340). -/
def State.turnWrite (s : State) (ix : Nat) : State :=
  let s := { s with tape := { s.tape with wrap := ix, append := wrapStart ix } }
  let t := targetStep (zoneE ix) (s.getF F.SRV_MATCH_MARGIN) s.srv.demand
  if s.bit F.SRV_SPD_AUTO ∧ s.srv.demand ≠ 0 then (s.setF F.SRV_SPD_TARGET t).toTarget t s.srv.ingest else s

/-- TURNAROUND (R335, R340): while writing to the wrap after the append point's, else to the wrap after the head's. -/
def execTurnaround (s : State) : Host.Outcome State Fault Refusal :=
  if s.mot ≠ .moving then .next s
  else
    let writing := s.cart == .writing
    let old := if writing then s.tape.wrap else s.headIx
    if 191 ≤ old ∨ (writing = true ∧ (s.wrapFull = false ∨ (s.writing?).isSome = true)) then .next s
    else
      let s := s.turnTo old (old + 1)
      .next (if writing then s.turnWrite (old + 1) else s)

/-! ### Gaps, backhitches and pack mode (R341 to R343) -/

/-- A backhitch is counted, and the tape comes to rest behind the append point (R342). -/
def State.hitchBehind (s : State) : State := s.hitchAt s.tape.wrap s.tape.append

/-- The tape backhitches and waits behind the append point (R342). -/
def State.backhitch (s : State) : State := s.hitchBehind.hitchRest

/-- A burst of pack mode ends with a backhitch as soon as no dataset is ready (R343). -/
def State.burstEnd (s : State) : State :=
  if s.bit F.SRV_SPD_PACK = true ∧ s.cart = .writing ∧ s.mot = .moving ∧ s.srv.hitch = false ∧ (s.writing?).isNone = true ∧ s.fmt.built = [] then s.backhitch else s

/-- FRAME_WRITE (R280, R283, R310, R343). -/
def execFrameWrite (ch : Chan) (s : State) : Host.Outcome State Fault Refusal := .next (s.frameWrite ch).burstEnd

/-- GAP_TIMEOUT: no dataset ready within GAPMAX (R341). -/
def execGapTimeout (s : State) : Host.Outcome State Fault Refusal :=
  if s.cart = .writing ∧ s.mot = .moving ∧ s.srv.hitch = false ∧ (s.writing?).isNone = true ∧ s.fmt.built = [] then .next s.backhitch else .next s

/-- The tape runs again, settled, at a place (R342). -/
def State.resumeAt (s : State) (lpw : Nat) : State :=
  let s := (s.setMode 0 3).setMode 1 3
  let s := ((s.setF F.SRV_SPD_CUR s.mdr.step).setF F.SRV_LPW_LPW lpw).setF F.SRV_STAT_STATE 2
  let s := { s with srv := { s.srv with hitch := false, settled := 64 } }
  { s with mdr := { s.mdr with vRef := s.tapeTarget } }.tidyLoops

/-- The tape runs forward, settles, and is just past the append point (R342). -/
def State.resume (s : State) : State :=
  let k := (Config.hitchGap s.freeCtr).val + 1
  s.draw.resumeAt (onward s.tape.wrap s.tape.append k)

/-- Reading goes on where it left off (R342, R344). -/
def State.resumeRead (s : State) : State := s.resumeAt (onward s.headIx (s.getF F.SRV_LPW_LPW) (hitchBack (stepCms s.mdr.step)))

/-- BACKHITCH_RESUME: the next dataset is ready, outside pack mode, or the Tank can take decoded data again (R342, R344). -/
def execBackhitchResume (s : State) : Host.Outcome State Fault Refusal :=
  if s.srv.hitch = true ∧ s.cart = .writing ∧ s.fmt.built ≠ [] ∧ s.bit F.SRV_SPD_PACK = false then .next s.resume
  else if s.srv.hitch = true ∧ s.cart = .reading ∧ dsPages ≤ s.freePages then .next s.resumeRead
  else .next s

/-- PACK_BURST_START: a burst at step 1, once both dataset buffers hold closed datasets or one has waited WAIT ms (R343). -/
def execPackBurstStart (s : State) : Host.Outcome State Fault Refusal :=
  if s.srv.hitch = true ∧ s.cart = .writing ∧ s.fmt.built ≠ [] ∧ s.bit F.SRV_SPD_PACK = true then .next (s.stepChange 1 s.srv.ingest).resume else .next s

/-- A write of SRV.SPD (R344): a fixed step ends pack mode; PF and master orders are told to the lock's holder (R74). -/
def State.wSpd (s : State) (src : Src) (v : Word) : WRes :=
  let lacks := s.lacksLock src
  let s := (s.storeAt R.SRV_SPD v).overrideBy src "SPEED"
  if lacks = true then .refuse .nolock none
  else if s.bit F.SRV_SPD_AUTO = true then .ok s
  else .ok (if s.mot = .moving ∧ s.mdr.start = none then (s.setF F.SRV_SPD_PACK 0).setStep (s.getF F.SRV_SPD_STEP) else s.setF F.SRV_SPD_PACK 0)

end Sys2Proof.Machine
end

