-- ==== Sys2Proof/Machine/Cartridge.lean ====
section
/-! DEFINITION. The cartridge verbs and their ends: loading, recording, the directory, locates, insertion and removal (03_command_reference R84, R85;
04_start_up R108; 12_servo R345 to R349; 17_errors R468; 18_balls R489). -/

namespace Sys2Proof.Machine

/-! ### LOAD (R84, R347) -/

/-- Does the C3 argument of a `LOAD` contradict the recorded mode (R84). -/
def State.c3Contradicts (s : State) (c3 : Option Bool) : Bool := match c3 with | some b => !s.tape.blank && b != s.tape.c3 | none => false

/-- LOAD (R84, R386). -/
def execLoad (ln : Ln) (c3 : Option Bool) (s : State) : Host.Outcome State Fault Refusal :=
  .next (s.verb ln .operate false
    (match s.blocked ln true true [.present] true with
     | some e => .er e []
     | none =>
       if s.c3Contradicts c3 = true then .er .c3fixed []
       else
         let s := (s.clearBins.setCart .loading [ln]).beginMove .load false 12
         .ok ({ s with tape := { s.tape with c3arg := c3 } }.opCart ln) [] startedItems))

/-- What `LOAD` sets: the next dataset number, the append point's wrap and LPW, the live directory, the highest generation, the C3 mode (R347); none for ER 501. -/
structure LoadInfo where
  dsnext : Nat
  wrap : Nat
  append : Nat
  wraps : List WrapEnt
  gen : Nat
  c3 : Bool
  deriving DecidableEq, Repr

/-- The hint of the retention SRAM, for the cartridge that is threaded (R347); start-up restores it from the journal (R416). -/
def State.hintFor (s : State) : Option Hint :=
  let h := s.tape.hint
  if s.tape.threaded then h.filter (fun (h : Hint) => h.cart == s.tape.id) else none

/-- Entry `i` of the content of a directory copy (R346). -/
def dirEntry (c : List Byte) (i : Nat) : WrapEnt :=
  ⟨beValue (sub c (64 + 16 * i) 4), beValue (sub c (68 + 16 * i) 4), beValue (sub c (72 + 16 * i) 4), beValue (sub c (76 + 16 * i) 4)⟩

/-- What a directory copy tells, when its MAGIC, VER and CRC check (R346; DEDUCED, log entry 36): the content and the C3ON of its rows. Its last entry supplies the append point (R347). -/
def copyInfo (p : List Byte × Bool) : Option LoadInfo :=
  let c := p.1
  if beValue (sub c 0 4) = 0x44594452 ∧ beValue (sub c 4 1) = 1 ∧ c.length ≥ 3140 ∧ beValue (sub c 3136 4) = crc32 (c.take 3136) then
    let es := (List.range (min 192 (beValue (sub c 6 2)))).map (dirEntry c)
    some ⟨beValue (sub c 12 4), es.length - 1, (es.getLast?.map (·.endLpw)).getD dataLo, es, beValue (sub c 8 4), p.2⟩
  else none

/-- The valid copy with the highest GEN (R347); of equal ones the first. -/
def newestCopy (l : List (List Byte × Bool)) : Option LoadInfo :=
  (l.filterMap copyInfo).foldl (fun o i => match o with
    | some x => if x.gen < i.gen then some i else some x
    | none => some i) none

/-- The findings of R347 in their order. With a hint the live directory is that of a copy found, else the one still held (DESIGN CHOICE, log entry 36). -/
def State.loadInfo (s : State) (f : LoadFinding) : Option LoadInfo :=
  match s.hintFor, newestCopy f.copies with
  | some h, some i => some { i with dsnext := h.highest + 1, wrap := h.wrap, append := h.endLpw }
  | some h, none => some ⟨h.highest + 1, h.wrap, h.endLpw, s.tape.wraps, s.tape.gen, s.tape.c3⟩
  | none, some i => some i
  | none, none => if f.frames = false ∧ f.copies = [] then some ⟨0, 0, dataLo, [], 0, s.tape.c3arg.getD (s.bit F.FMT_CFG_C3DEF)⟩ else none

/-- A new salt of five random bytes (R293). -/
def newSalt (k : Nat) : List Byte := [Config.saltByte k, Config.saltByte (k + 1), Config.saltByte (k + 2), Config.saltByte (k + 3), Config.saltByte (k + 4)]

/-- A write session begins: a salt is drawn and the chains are empty; with the same cartridge still threaded and retained state they go on (R293, R294). -/
def State.beginSession (s : State) : State :=
  let s := { s with sec := { s.sec with nokey := [] }, rch := { s.rch with dfm := none, seen := [], tracks := [], rows := [], found := [], sup := [] } }
  if s.tape.threaded = true ∧ s.sec.cart = s.tape.id ∧ s.sec.salt ≠ [] then { s with sec := { s.sec with chains := s.sec.verified } }
  else { s with freeCtr := s.freeCtr + 5, sec := { s.sec with salt := newSalt s.freeCtr, chains := [], verified := [], cart := s.tape.id } }

/-- READs with NEXT start at the tape position (R183). -/
def State.forgetNext (s : State) : State :=
  { s with qmg := { s.qmg with queues := s.qmg.queues.map (fun (q : Queue) => { q with nextAt := none }) }, rch := { s.rch with seen := [] } }

def State.loaded (s : State) (i : LoadInfo) : State :=
  let s := s.beginSession.forgetNext
  let s := { s with
    tape := { s.tape with threaded := true, noDir := false, c3arg := none, gen := i.gen, wraps := i.wraps, wrap := i.wrap, append := i.append, c3 := i.c3 }
    fmt := { s.fmt with nextDs := i.dsnext, abandoned := 0, last := none, group := none } }
  let s := (s.endMotion.headTo i.wrap).setF F.SRV_LPW_LPW i.append
  (s.setCart .ready s.con.opCart).cartDone
    [⟨"CART", .word "READY"⟩, ⟨"ID", .chars s.tape.id⟩, ⟨"C3", onOff i.c3⟩, ⟨"DSNEXT", .num i.dsnext⟩]

/-- LOAD_COMPLETE (R347). -/
def execLoadComplete (f : LoadFinding) (s : State) : Host.Outcome State Fault Refusal :=
  if s.cart ≠ .loading ∨ s.mdr.stopping = true then .next s
  else match s.loadInfo f with
    | some i => .next (s.loaded i)
    | none =>
      let s := { s with tape := { s.tape with threaded := true, noDir := true, c3arg := none } }
      .next ((s.endMotion.setCart .fault s.con.opCart).cartDone (erItems .nodir []))

/-! ### UNLOAD and the directory (R84, R345, R346) -/

/-- One entry of a directory copy. -/
def entBytes (w : WrapEnt) : List Byte := beBytes 4 w.first ++ beBytes 4 w.last ++ beBytes 4 w.firstLpw ++ beBytes 4 w.endLpw

/-- The content of the directory copy of a generation (R346). -/
def State.dirContent (s : State) (gen : Nat) : List Byte :=
  let ws := s.tape.wraps
  let c := beBytes 4 0x44594452 ++ beBytes 1 1 ++ beBytes 1 0 ++ beBytes 2 ws.length ++ beBytes 4 gen ++ beBytes 4 s.fmt.nextDs ++ asciiPad 16 s.tape.id ++
    List.replicate 32 0#8 ++ (List.range 192).flatMap (fun i => entBytes (ws.getD i ⟨0, 0, 0, 0⟩))
  c ++ beBytes 4 (crc32 c)

/-- Where the copy of a generation starts in a zone (R345, R327). -/
def dirLpw (zone gen : Nat) : Nat := zone + 10 * (gen % 350)

/-- The rows of a copy: a dataset of NSUB 1 with number 0xFFFF_FFFF, each with its channel, its header and its coded bytes, slot by slot (R276 to R280, R345). -/
def State.dirRows (s : State) (gen : Nat) : List (Nat × List Byte) :=
  let c := s.dirContent gen
  (List.range 128).map (fun r => (r % 16, rowHeader 0xFFFFFFFF 0 0 false r s.tape.c3 1 0 0 0 ++ codedRow (subsetRow c 0 r)))

/-- The directory zones (R327): A on band 1, B on band 2. -/
def dirZone (b : Bool) : Nat := if b then 5500 else 2000

/-- A copy is written at step 1 (R345), `k` positions past that of its generation. -/
def State.writeDir (s : State) (b : Bool) (k : Nat) : State := s.gated (.directory (dirLpw (dirZone b) (s.tape.gen + k)) (s.dirRows s.tape.gen))

/-- Both directory zones receive a copy of the next generation (R345); a cartridge without a known directory receives none (R347). -/
def State.writeDirs (s : State) : State :=
  if s.tape.noDir then s
  else
    let s := { s with tape := { s.tape with gen := s.tape.gen + 1, blank := false } }
    (s.writeDir false 0).writeDir true 0

/-- The copies that failed verify, in the order in which they did, are written again, each at the next position of its zone (R345); `a` and `b` count those of zones A and B. -/
def State.rewriteDirs (s : State) (a b : Nat) : List Bool → State
  | [] => s
  | false :: l => State.rewriteDirs (s.writeDir false (a + 1)) (a + 1) b l
  | true :: l => State.rewriteDirs (s.writeDir true (b + 1)) a (b + 1) l

/-- An order that takes the reels over ends the operation that had them, with `ER 610 STOPPED` (R80; DESIGN CHOICE, log entry 31: no rule says how it ends). -/
def State.takenOver (s : State) : State := if s.con.opCart.isEmpty && s.con.opMotion.isNone then s else s.endOps .stopped

/-- UNLOAD (R84). -/
def execUnload (ln : Ln) (s : State) : Host.Outcome State Fault Refusal :=
  .next (s.verb ln .operate false
    (match s.blocked ln true true [.ready, .fault] false with
     | some e => .er e []
     | none =>
       if s.mot = .tripped then .er .tripped []
       else .ok (((s.takenOver.clearBins.writeDirs.setCart .unloading [ln]).beginMove .unload true 1).opCart ln) [] startedItems))

/-- UNLOAD_COMPLETE (R84): `failed` names the zones of the copies that failed verify, in order (R345; log entry 124). -/
def execUnloadComplete (failed : List Bool) (s : State) : Host.Outcome State Fault Refusal :=
  if s.cart ≠ .unloading ∨ s.mdr.stopping = true then .next s
  else
    let s := if s.tape.noDir then s else s.rewriteDirs 0 0 failed
    let s := { s with tape := { s.tape with threaded := false, noDir := false } }
    .next ((s.endMotion.setCart .present s.con.opCart).cartDone [⟨"CART", .word "PRESENT"⟩])

/-! ### CART? (R84) -/

/-- Is the cartridge threaded as far as `CART?` tells: its ID and directory are known. -/
def State.isLoaded (s : State) : Bool := s.cart != .none && s.cart != .present && s.cart != .loading

/-- Servo frames of a wrap's data region. -/
def wrapFrames : Nat := dataHi + 1 - dataLo

/-- How much of the data region lies before the append point, in %, rounded down (DESIGN CHOICE, log entry 38). -/
def State.usedPct (s : State) : Nat :=
  (s.tape.wrap * wrapFrames + (wrapFrames - wrapLeft s.tape.wrap s.tape.append)) * 100 / (192 * wrapFrames)

def dashUnless (b : Bool) (v : Val) : Val := if b then v else .dash

/-- The fields of `CART?`. -/
def State.cartItems (s : State) : List Item :=
  let l := s.isLoaded
  [⟨"CART", .word s.cart.text⟩, ⟨"ID", dashUnless l (.chars s.tape.id)⟩, ⟨"C3", dashUnless l (onOff s.tape.c3)⟩,
   ⟨"WP", dashUnless (s.cart != .none) (.num (if s.tape.wp then 1 else 0))⟩, ⟨"USED", dashUnless l (.num s.usedPct)⟩,
   ⟨"DSNEXT", dashUnless l (.num s.fmt.nextDs)⟩, ⟨"BAND", dashUnless l (.num (s.getF F.SRV_STAT_BAND))⟩, ⟨"WRAP", dashUnless l (.num (s.getF F.SRV_STAT_WRAP))⟩]

/-- CART? (R84). -/
def execCartQuery (ln : Ln) (s : State) : Host.Outcome State Fault Refusal :=
  .next (s.verb ln .view false (.ok s [] s.cartItems))

/-! ### Recording (R84, R108, R288, R468) -/

/-- The records of a dump in dump order, as replay records (R108, R110). -/
def replayRecs (uid : Nat) : List DumpRec → List Rec
  | [] => []
  | d :: ds =>
    { uid := uid, tenant := d.tenant, qid := d.qid, seq := d.seq, tstamp := d.tstamp, locked := d.locked, length := d.data.length, cid := 0#16, slot := 0, addr := 0#64
      level := .secured, acc := 0, sec := none, unsec := false, reported := 2, pages := [], feed := none, ds := [], whole := false, barriers := [], drt := false
      carried := false, replay := true, body := some d.data, hostts := d.hostts, mark := d.mark, lent := none } :: replayRecs (uid + 1) ds

/-- The records of a dump that can be replayed, and those whose unit is uncorrectable: such a record and the later ones of its queue are dropped (R264). -/
def splitBad : List (Tenant × Qid) → List DumpRec → List DumpRec × List DumpRec
  | _, [] => ([], [])
  | gone, d :: ds =>
    let (good, bad) := splitBad (if d.bad then (d.tenant, d.qid) :: gone else gone) ds
    if d.bad || gone.contains (d.tenant, d.qid) then (good, if d.bad then d :: bad else bad) else (d :: good, bad)

/-- Each queue of a list of records with the last number in it. -/
def lastNos : List DumpRec → List (Tenant × Qid × Nat)
  | [] => []
  | d :: ds => if ds.any (fun x => x.tenant == d.tenant && x.qid == d.qid) then lastNos ds else (d.tenant, d.qid, d.seq) :: lastNos ds

/-- The bit errors of the units of a dump's record as they are read back (R261): draw `k`, record `i` of the dump. -/
def unitErrors (k i : Nat) (d : DumpRec) : List Nat := (List.range (chargeOf d.data.length / 64)).map (Config.fixerUnit k i)

/-- The records of a dump as they are read back: units with up to 4 bit errors are corrected and counted, and a record with more in a unit is bad (R261, R264). -/
def State.readUnits (s : State) (k : Nat) : Nat → List DumpRec → State × List DumpRec
  | _, [] => (s, [])
  | i, d :: ds =>
    let es := unitErrors k i d
    let s := s.count F.FIX_ECNT_CE (es.filter (fun e => decide (1 ≤ e ∧ e ≤ 4))).length
    let ue := (es.filter (fun e => decide (4 < e))).length
    let s := s.count F.FIX_ECNT_UE (ue + if d.bad then 1 else 0)
    let (s, ds) := State.readUnits s k (i + 1) ds
    (s, { d with bad := d.bad || decide (0 < ue) } :: ds)

/-- ER 714 for each record whose unit is uncorrectable (R264); UNIT is its first unit (DESIGN CHOICE, log entry 43). -/
def State.fixErrors (s : State) : List DumpRec → State
  | [] => s
  | d :: ds =>
    State.fixErrors (s.log { errRec .fixuncorr .fix [⟨"UNIT", .num s.jrn.start⟩] with
      tenant := some d.tenant.val, qid := some d.qid.val, rseq := some d.seq }) ds

/-- REPLAY_START: at the first `RECORD START` FIXER changes from DUMPED to REPLAY, and after a reset a replay under way goes on with what is not released (R107, R108). -/
def State.startReplay (s : State) : State :=
  match s.dump with
  | some d =>
    if s.fixer ≠ .ready ∧ s.qmg.recs.all (fun (r : Rec) => !r.replay) = true then
      let (s, recs) := s.draw.readUnits s.freeCtr 0 d.recs
      let (good, bad) := splitBad [] recs
      let s := s.fixErrors bad
      let rs := replayRecs s.qmg.nextUid good
      ({ s with
        fixer := .replay
        dump := some { recs := good, queues := lastNos good }
        jrn := { s.jrn with recs := good, seq := s.jrn.seq + 1, st := if good = [] then 0 else 3 }
        qmg := { s.qmg with recs := s.qmg.recs ++ rs, nextUid := s.qmg.nextUid + rs.length } }).writeCtl.replayDone
    else s
  | none => s

/-- The step at which recording starts (R338, R344): with AUTO that of the last demand, or 12 before any. -/
def State.recordStep (s : State) : Nat :=
  if s.bit F.SRV_SPD_AUTO = false then s.getF F.SRV_SPD_STEP
  else if s.srv.demand = 0 then 12
  else max 1 (targetStep (zoneE s.tape.wrap) (s.getF F.SRV_MATCH_MARGIN) s.srv.demand)

/-- RECORD START (R84, R108, R468). -/
def execRecordStart (ln : Ln) (s : State) : Host.Outcome State Fault Refusal :=
  .next (s.verb ln .operate false
    (match s.blocked ln true true [.ready] true with
     | some e => .er e []
     | none =>
       if s.tape.wp = true then .er .wprotect []
       else if s.cartFull = true then .er .cartfull []
       else
         let s := (s.startReplay.headTo s.tape.wrap).beginMove .record (wrapRev s.tape.wrap) s.recordStep
         .ok (s.opCart ln) [] startedItems))

/-- RECORD_START_COMPLETE: the tape runs at writing speed at the append point (R84, R342); a write synthesiser that was lost runs again (log entry 101). -/
def execRecordStartComplete (s : State) : Host.Outcome State Fault Refusal :=
  if s.mdr.order = some .record ∧ s.mdr.start.isSome = true ∧ s.reelsRun = true ∧ s.mdr.stopping = false ∧ s.cart = .ready then
    let s := (((s.clkBack .ckwc).clkBack .ckwe).started.setF F.SRV_SPD_CUR s.mdr.step).setF F.SRV_LPW_LPW s.tape.append
    .next ((s.setCart .writing s.con.opCart).cartDone
      [⟨"CART", .word "WRITING"⟩, ⟨"DS", .num s.fmt.nextDs⟩, ⟨"STEP", .num s.mdr.step⟩])
  else .next s

/-- Does a flush find nothing to close: no block placed and no feed in progress (R84). -/
def State.nothingOpen (s : State) : Bool :=
  s.feedsOpen.isEmpty && s.fmt.rest.isNone && (match s.fmt.cur with | some d => d.exts.isEmpty | none => true)

/-- A flush lands: stripe rows close (R453), and one that finds no engine busy closes the dataset at once (R232). -/
def State.flushNow (s : State) : State := let s := s.closeStripes.flushAll; if s.flushReady then s.flushClose else s

/-- RECORD STOP (R84): the dataset is flushed and closed, and the open group ends with it. -/
def execRecordStop (ln : Ln) (s : State) : Host.Outcome State Fault Refusal :=
  .next (s.verb ln .operate false
    (match s.blocked ln true false [.writing] false with
     | some e => .er e []
     | none => .ok (({ s with fmt := { s.fmt with stopping := true } }.opCart ln).flushNow) [] startedItems))

/-- Is all that a `RECORD STOP` waits for on tape and verified (R84, R288). -/
def State.stopReady (s : State) : Bool :=
  s.fmt.stopping && !s.fmt.full && s.fmt.cur.isNone && s.fmt.rest.isNone && s.fmt.flushTo.isEmpty && s.fmt.built.isEmpty && s.fmt.streams.isEmpty && s.fmt.group.isNone

/-- RECORD_STOP_COMPLETE (R84, R288): the tape has stopped as well. -/
def execRecordStopComplete (s : State) : Host.Outcome State Fault Refusal :=
  if s.cart = .writing ∧ s.stopReady = true then
    .next ((s.hitchBehind.endMotion.setCart .ready s.con.opCart).cartDone [⟨"CART", .word "READY"⟩, ⟨"DSLAST", lastVal s.fmt.last⟩])
  else .next s

/-- FLUSH (R84, R232): with nothing to close the answer is `-`; else the close answers it, at once when no engine is busy. -/
def execFlush (ln : Ln) (s : State) : Host.Outcome State Fault Refusal :=
  let bad := s.blocked ln false false [.writing] false
  if s.present ln.who = true ∧ 1 ≤ (s.levelOf ln.who).num ∧ s.boot.rescue = false ∧ bad = none ∧ s.nothingOpen = false then
    .next { s with con := { s.con with opFlush := s.con.opFlush ++ [(s.sch.nextFeed, ln)] } }.flushNow
  else .next (s.verb ln .operate false (match bad with
    | some e => .er e []
    | none => .ok s.closeStripes [] [⟨"DS", .dash⟩]))

/-! ### Locates (R85, R348, R349) -/

/-- The wrap of the live directory that holds a dataset number (R348). -/
def wrapHolding (n : Nat) : Nat → List WrapEnt → Option (Nat × WrapEnt)
  | _, [] => none
  | i, w :: ws => if w.endLpw ≠ 0 ∧ w.first ≤ n ∧ n ≤ w.last then some (i, w) else wrapHolding n (i + 1) ws

def State.findDs (s : State) (n : Nat) : Option (Nat × WrapEnt) := if s.fmt.nextDs ≤ n then none else wrapHolding n 0 s.tape.wraps

/-- The estimate: linear between FIRSTLPW and ENDLPW by dataset number (R348 step 2). -/
def estimate (w : WrapEnt) (n : Nat) : Nat :=
  (roundQ (w.firstLpw + ((w.endLpw : Int) - w.firstLpw) * ((n : Int) - w.first) / ((w.last - w.first + 1 : Nat) : Rat))).toNat

/-- A locate moves to an LPW: the tape runs forward to a higher one. -/
def State.seekTo (s : State) (o : Move) (lpw step : Nat) : State := s.beginMove o (decide (lpw < s.getF F.SRV_LPW_LPW)) step

def State.opMotion (s : State) (ln : Ln) : State := { s with con := { s.con with opMotion := some ln } }
def State.motionDone (s : State) (items : List Item) : State := { s with con := { s.con with opMotion := none } }.done s.con.opMotion items

/-- A locate to a dataset starts: its wrap, its estimate, the tape runs to it (R348 steps 1 to 3). -/
def State.startSeek (s : State) (ds ix : Nat) (w : WrapEnt) : State :=
  let est := estimate w ds
  let s := (s.headTo ix).seekTo (.locateDs ds) est 12
  { s with srv := { s.srv with seek := some ⟨ds, ix, est, 0⟩ } }

/-- LOCATE DS=n (R348). A number that lies in no wrap ends the operation at once. -/
def execLocate (ln : Ln) (ds : Nat) (s : State) : Host.Outcome State Fault Refusal :=
  if 2 ^ 32 ≤ ds then .next (s.verb ln .operate false (.er .badarg []))
  else match s.blocked ln true true [.ready] true with
    | some e => .next (s.verb ln .operate false (.er e []))
    | none =>
      match s.findDs ds with
      | some (ix, w) => .next (s.verb ln .operate false (.ok ((s.startSeek ds ix w).opMotion ln) [] startedItems))
      | none =>
        let t := s.verb ln .operate false (.ok (s.opMotion ln) [] startedItems)
        if s.present ln.who = true ∧ 1 ≤ (s.levelOf ln.who).num ∧ s.boot.rescue = false then .next (t.motionDone (erItems .notfound [])) else .next t

/-- LOCATE LPW=x (R349). -/
def execLocateLpw (ln : Ln) (x : Nat) (s : State) : Host.Outcome State Fault Refusal :=
  .next (s.verb ln .operate false
    (if 4799999 < x then .er .badarg []
     else match s.blocked ln true true [.ready] true with
     | some e => .er e []
     | none => .ok ((s.seekTo (.locateLpw x) x 12).opMotion ln) [] startedItems))

/-- LOCATE_PROBE: the headers at the estimate name `dsRead`; the estimate is corrected, and after four probes the tape creeps at step 6 (R348 steps 3 and 4). -/
def execLocateProbe (dsRead : Nat) (s : State) : Host.Outcome State Fault Refusal :=
  match s.srv.seek with
  | none => .next s
  | some k =>
    let d := fullLen (zoneE k.ix)
    let est := if dsRead ≤ k.ds then onward k.ix k.est ((k.ds - dsRead) * d) else backward k.ix k.est ((dsRead - k.ds) * d)
    let step := if 4 ≤ k.probes + 1 then 6 else 12
    let s := (s.setF F.SRV_LPW_LPW k.est).setF F.SRV_SPD_CUR step
    let rev := decide (est < k.est)
    let s := { s with srv := { s.srv with seek := some { k with est := est, probes := k.probes + 1 } }, mdr := { s.mdr with step := step, rev := rev } }
    .next (s.setF F.SRV_STAT_DIR (if rev then 1 else 0))

/-- The run-up ahead of a dataset in servo frames: v * v / 20 + 0.02 m at the reading step (R348 step 5). -/
def runUp (cms : Nat) : Nat := (roundQ ((cms * cms : Nat) / (40 : Rat) + 100)).toNat

def State.locateDone (s : State) (pos : Nat) (items : List Item) : State :=
  let s := { s with srv := { s.srv with seek := none } }.endMotion
  (s.setF F.SRV_LPW_LPW pos).forgetNext.motionDone items

/-- LOCATE_COMPLETE (R348, R349): `lpw` is the dataset's first LPW, or where the tape stopped, within 2 frames of x; a locate that ends elsewhere is not this event. -/
def execLocateComplete (found : Bool) (ds : Option Nat) (lpw : Nat) (s : State) : Host.Outcome State Fault Refusal :=
  if s.mdr.stopping = true then .next s
  else match s.mdr.order with
    | some (.locateDs n) =>
      if found then .next (s.locateDone (backward s.headIx lpw (runUp (stepCms s.readStep))) [⟨"DS", .num n⟩, ⟨"LPW", .num lpw⟩])
      else .next (s.locateDone (s.getF F.SRV_LPW_LPW) (erItems .notfound []))
    | some (.locateLpw x) =>
      if found = false then .next (s.locateDone (s.getF F.SRV_LPW_LPW) (erItems .notfound []))
      else if lpw ≤ x + 2 ∧ x ≤ lpw + 2 then
        .next (s.locateDone lpw [⟨"DS", match ds with | some n => .num n | none => .dash⟩, ⟨"LPW", .num lpw⟩])
      else .next s
    | _ => .next s

/-! ### The slot (R489) -/

/-- CART_INSERT (R79, R489): a cartridge is in the slot, not threaded; its insertion is a wake event (R400). -/
def execCartInsert (id : List Char) (writeProtect blank c3 : Bool) (s : State) : Host.Outcome State Fault Refusal :=
  if s.cart ≠ .none then .next s
  else
    let t : Tape := { Tape.reset with id := id, wp := writeProtect, blank := blank, c3 := c3, hint := s.tape.hint }
    .next (({ s with tape := t }.setCart .present []).edge true .cart)

/-- CART_REMOVE: CART moves to NONE; what ran on the cartridge ends (R489; log entry 39). -/
def execCartRemove (s : State) : Host.Outcome State Fault Refusal :=
  if s.cart = .none then .next s
  else
    let s := (if s.cart = .writing then s.haltWrite else s).setCart .none []
    let s := ({ s with tape := { Tape.reset with hint := s.tape.hint } }.endOps .nocart).failReads .nocart s.allReads
    .next (if s.mot = .moving then s.beginStop else s)

end Sys2Proof.Machine
end

