-- ==== Sys2Proof/Machine/Lend.lean ====
section
/-! DEFINITION. Tank space lent to neighbours and borrowed from them (16_xasen R460 to R462). -/

namespace Sys2Proof.Machine

/-- The handle of a refused GRANT (R460). -/
def noHandle : Nat := 0xFFFFFFFF

/-- Bytes of data in one PUT or DATA frame (R460). -/
def lendMax : Nat := 988

/-- Send data in frames of at most 988 bytes, from an offset on; the first argument limits the frames. -/
def State.sendParts (s : State) (p : PortNo) (op handle : Nat) : Nat → Nat → List Byte → State
  | 0, _, _ => s
  | n + 1, off, d => if d = [] then s else State.sendParts (s.sendLend p op handle off (d.take lendMax)) p op handle n (off + lendMax) (d.drop lendMax)

/-! ### The lender (R460) -/

/-- Pages this node has lent. -/
def State.lentPages (s : State) : Nat := (s.xlk.lent.map (fun (l : Lent) => l.pages.length)).sum

/-- Pages it may still lend: up to LEND.MAX MiB, out of the free space (R460). -/
def State.lendRoom (s : State) : Nat :=
  if s.bit F.XLK_LEND_EN then min (256 * s.getF F.XLK_LEND_MAX - s.lentPages) s.freePages else 0

/-- LEND_ALLOC: the length asked for is reserved and a handle offered with the room there was, or the GRANT refuses (R460; what the room counts and that it is reserved are a DESIGN CHOICE,
log entry 48). -/
def execLendAlloc (p : LendP) (s : State) : Host.Outcome State Fault Refusal :=
  if s.linkUp p.port = false then .next s
  else
    let n := pagesFor p.offset.toNat
    let room := s.lendRoom
    if n = 0 ∨ room < n then .next (s.sendLend p.port lGRANT noHandle 0 [])
    else
      let h := s.xlk.nextHandle
      let (ps, s) := s.takePages n
      let s := { s with xlk := { s.xlk with lent := s.xlk.lent ++ [(⟨p.port, h, p.offset.toNat, ps⟩ : Lent)], nextHandle := (h + 1) % noHandle } }
      .next (s.sendLend p.port lGRANT h (room * pageBytes) [])

/-- The space a neighbour's handle names. -/
def State.lentTo (s : State) (p : PortNo) (h : Nat) : Option Lent := s.xlk.lent.find? (fun (l : Lent) => l.port == p && l.handle == h)

/-- LEND_PUT: bytes are stored in the pages lent (R460). -/
def execLendPut (p : LendP) (s : State) : Host.Outcome State Fault Refusal :=
  match s.lentTo p.port p.handle.toNat with
  | none => .next s
  | some l =>
    if p.offset.toNat + p.data.length ≤ l.len then .next { s with tank := writeAt s.tank l.pages p.offset.toNat p.data } else .next s

/-- LEND_GET: bytes go back in DATA frames, from the start on (R460; log entry 48). -/
def execLendGet (p : LendP) (s : State) : Host.Outcome State Fault Refusal :=
  match s.lentTo p.port p.handle.toNat with
  | none => .next s
  | some l =>
    let d := readPages s.tank l.pages (min p.offset.toNat l.len)
    .next (s.sendParts p.port lDATA l.handle (d.length / lendMax + 1) 0 d)

/-- LEND_FREE: the pages return to the free space (R460). -/
def execLendFree (p : LendP) (s : State) : Host.Outcome State Fault Refusal :=
  match s.lentTo p.port p.handle.toNat with
  | none => .next s
  | some l =>
    let s := s.freePagesOf l.pages
    .next { s with xlk := { s.xlk with lent := s.xlk.lent.filter (fun (x : Lent) => !(x.port == l.port && x.handle == l.handle)) } }

/-! ### The borrower (R461) -/

/-- LEND_GRANT: an offer is kept; a refusal is not (R460). -/
def execLendGrant (p : LendP) (s : State) : Host.Outcome State Fault Refusal :=
  if s.linkUp p.port = false ∨ p.handle.toNat = noHandle then .next s
  else .next { s with xlk := { s.xlk with grants := s.xlk.grants ++ [(⟨p.port, p.handle.toNat, p.offset.toNat⟩ : Grant)] } }

/-- May a record be spilled: ACCEPTED, of a tenant that is not CONTINUOUS, neither charged nor fed (R461). -/
def State.canSpill (s : State) (r : Rec) : Bool :=
  r.level == .accepted && s.classOf r.tenant != 0 && r.feed.isNone && r.lent.isNone && !r.replay && !r.carried

/-- The newest of them (R461). -/
def State.spillNext (s : State) : Option Rec :=
  (s.qmg.recs.filter s.canSpill).foldl (fun o (r : Rec) => match o with
    | none => some r
    | some b => if b.acc < r.acc then some r else some b) none

/-- The offer with the most room. -/
def bestGrant : List Grant → Option Grant
  | [] => none
  | g :: gs => match bestGrant gs with | some b => if g.room < b.room then some b else some g | none => some g

/-- Give offers back. -/
def State.freeGrants (s : State) : List Grant → State
  | [] => s
  | g :: gs => State.freeGrants (s.sendLend g.port lFREE g.handle 0 []) gs

/-- Ask every neighbour for room. -/
def State.askAll (s : State) (n : Nat) : List PortNo → State
  | [] => s
  | p :: ps => State.askAll (if s.linkUp p then s.sendLend p lALLOC 0 n [] else s) n ps

/-- Send a record to a lender: its bytes go there, and its pages are free here (R461). -/
def State.spillTo (s : State) (r : Rec) (g : Grant) : State :=
  let d := s.recBytes r
  let s := s.sendParts g.port lPUT g.handle (d.length / lendMax + 1) 0 d
  let s := (s.freePagesOf r.pages).setRec { r with pages := [], lent := some (g.port.val, g.handle) }
  let others := s.xlk.grants.filter (fun (x : Grant) => !(x.port == g.port && x.handle == g.handle))
  ({ s with xlk := { s.xlk with grants := [], asked := none } }).freeGrants others

/-- RECORD_SPILL: below BORROW.LOW the newest record that may go is sent to the neighbour whose GRANT offers the most room; while no offer for it is held, every neighbour is asked (R461). -/
def execRecordSpill (s : State) : Host.Outcome State Fault Refusal :=
  if s.bit F.XLK_BORROW_EN = false ∨ 256 * s.getF F.XLK_BORROW_LOW ≤ s.freePages then .next s
  else
    match (match s.xlk.asked with | some u => s.qmg.recs.find? (fun (r : Rec) => r.uid == u && s.canSpill r) | none => none), bestGrant s.xlk.grants with
    | some r, some g => .next (s.spillTo r g)
    | _, _ =>
      let gs := s.xlk.grants
      let s := ({ s with xlk := { s.xlk with grants := [], asked := none } }).freeGrants gs
      match s.spillNext with
      | none => .next s
      | some r => .next (({ s with xlk := { s.xlk with asked := some r.uid } }).askAll r.length [0, 1, 2, 3])

/-- Would SCH feed a spilled record now: it is the head of its queue but for its bytes (R461). -/
def State.wanted (s : State) (r : Rec) : Bool := r.lent.isSome && s.mayFeed && s.head { r with lent := none }

/-- The spilled record to be recalled: one that SCH would feed, else in the order of becoming ACCEPTED once free space is above LOW + 4 MiB (R461). -/
def State.recallNext (s : State) : Option Rec :=
  let first (l : List Rec) : Option Rec := l.foldl (fun o (r : Rec) => match o with
    | none => some r
    | some b => if r.acc < b.acc then some r else some b) none
  match first (s.qmg.recs.filter s.wanted) with
  | some r => some r
  | none => if 256 * (s.getF F.XLK_BORROW_LOW + 4) < s.freePages then first (s.qmg.recs.filter (fun (r : Rec) => r.lent.isSome)) else none

/-- RECORD_RECALL: one record at a time is asked back; its pages are taken first (R461). -/
def execRecordRecall (s : State) : Host.Outcome State Fault Refusal :=
  if (match s.xlk.called with | some c => s.alive c.uid | none => false) = true then .next s
  else match s.recallNext with
    | none => .next s
    | some r =>
      match r.lent with
      | some (p, h) =>
        if hp : p < 4 then
          if s.freePages < pagesFor r.length then .next s
          else
            let (ps, s) := s.takePages (pagesFor r.length)
            let s := s.setRec { r with pages := ps }
            .next (({ s with xlk := { s.xlk with called := some ⟨r.uid, []⟩ } }).sendLend ⟨p, hp⟩ lGET h r.length [])
        else .next s
      | none => .next s

/-- LEND_DATA: bytes of the record being recalled; when all have come it is in the Tank again and is freed at the lender (R461). -/
def execLendData (p : LendP) (s : State) : Host.Outcome State Fault Refusal :=
  match s.xlk.called with
  | none => .next s
  | some c =>
    match s.rec? c.uid with
    | none => .next { s with xlk := { s.xlk with called := none } }
    | some r =>
      if r.lent ≠ some (p.port.val, p.handle.toNat) ∨ p.offset.toNat ≠ c.got.length then .next s
      else
        let got := c.got ++ p.data
        if got.length < r.length then .next { s with xlk := { s.xlk with called := some { c with got := got } } }
        else
          let s := { s with tank := writePages s.tank r.pages (got.take r.length), xlk := { s.xlk with called := none } }
          .next ((s.setRec { r with lent := none }).sendLend p.port lFREE p.handle.toNat 0 [])

end Sys2Proof.Machine
end

