-- ==== Sys2Proof/Machine/Reset.lean ====
section
/-! DEFINITION. What resets do (04_start_up R112 to R119): the preamble and its save to the Fixer, the reset of each domain, warm reset and power-on reset. -/

namespace Sys2Proof.Machine

/-! ### Clocks of the domains (R38, CLK.STAT) -/

/-- The synthesisers of a domain start or stop; CKE follows the SGMII ports, which stop with D2 (log entry 50). A clock that was lost runs again when its domain is switched on, and one of a domain
that is off is not lost but off (CLK.STAT; log entry 101). -/
def State.clkOf (s : State) (d : Nat) (b : Bool) : State :=
  let v := if b then 1 else 0
  let s := { s with xc := { s.xc with stopped := s.xc.stopped.filter (fun c => !((clksOf d).contains c)) } }
  match d with
  | 0 => s.setF F.CLK_STAT_CKU_LOCK v
  | 1 => s.setF F.CLK_STAT_CKP_LOCK v
  | 2 => if b then s else (((s.setF F.CLK_STAT_CKE0_LOCK 0).setF F.CLK_STAT_CKE1_LOCK 0).setF F.ETH_PSTAT_UP0 0).setF F.ETH_PSTAT_UP1 0
  | 5 => (s.setF F.CLK_STAT_CKWC_LOCK v).setF F.CLK_STAT_CKWE_LOCK v
  | 6 => s.setF F.CLK_STAT_CKM_LOCK v
  | 9 => s.setF F.CLK_STAT_CKX_LOCK v
  | _ => s

/-! ### The save to the Fixer (R113 step 3, R175, R414, R416) -/

/-- Put a record at its place in charge order. -/
def insertSec (r : Rec) : List Rec → List Rec
  | [] => [r]
  | x :: xs => if r.sec.getD 0 < x.sec.getD 0 then r :: x :: xs else x :: insertSec r xs

/-- Every charged record, in charge order (R175). -/
def State.charged (s : State) : List Rec := (s.qmg.recs.filter (fun r => r.level == .secured && !r.replay)).foldr insertSec []

/-- Is a word of a record uncorrectable: its unit is then saved marked bad (R264). -/
def State.badRec (s : State) (r : Rec) : Bool :=
  s.tnk.ue.any (fun w => (r.pages.zipIdx).any (fun p => p.1 == w / 256 && decide (p.2 * pageBytes + w % 256 * 16 < r.length)))

/-- A record as the dump engine saves it (R417). -/
def State.dumpRec (s : State) (r : Rec) : DumpRec :=
  ⟨r.tenant, r.qid, r.seq, r.tstamp, r.locked, r.hostts, r.mark, s.badRec r, s.recBytes r⟩

/-- The dump engine reads the words of records: each that is not sound is counted and told (R252, R264). -/
def State.dumpReads (s : State) : List Rec → State
  | [] => s
  | r :: rs => State.dumpReads ((s.badWords r).foldl (fun s w => (s.secded .march w .clean).1) s) rs

/-- The most records that a dump copies from the ERR log (R414). -/
def savedErrs : Nat := 32

/-- The journal after the records `rs` have been written, with control block STATE `st` (R414, R416). The dump area goes on where it ended last (R261). -/
def State.journalOf (s : State) (st : Nat) (rs : List Rec) : Journal :=
  let j := s.jrn
  let bytes := (rs.map (fun r => chargeOf r.length)).sum
  { j with
    seq := j.seq + 1, st := st, start := (j.start + j.units) % dumpUnits, charged := rs.length, chgBytes := bytes, units := bytes / 64, released := 0
    dumps := min (2 ^ 32 - 1) (j.dumps + 1), total := j.total + bytes / 64, errs := s.err.recs.take savedErrs, hint := s.tape.hint, recs := rs.map s.dumpRec }

/-- Records that are not charged: still moving, or only ACCEPTED. -/
def State.unsecured (s : State) (inRegion : Rec → Bool) : List Nat := (s.qmg.recs.filter (fun r => !r.replay && decide (r.level.num < 2) && inRegion r)).map (fun r => r.uid)

/-- Records of the region that are not charged end at ABORTED with status 311, and those that follow them with 315 (R113 step 4, R182, R479); the others that are not charged lose their queue and
end with 311 too (log entry 41). The charged ones are saved and leave the Tank (R113 step 3). -/
def State.preserve (s : State) (inRegion : Rec → Bool) : State :=
  let s := s.abort (s.unsecured inRegion) .resetabort
  let s := s.abort (s.unsecured (fun _ => true)) .resetabort
  let rs := s.charged
  if rs = [] then s
  else
    let s := s.dumpReads rs
    let s := { s with jrn := s.journalOf 2 rs }.writeDump.writeCtl
    let s := s.freePagesOf (rs.flatMap (fun r => r.pages))
    { s with qmg := { s.qmg with recs := s.qmg.recs.filter (fun r => !(rs.any (fun x => x.uid == r.uid))) } }

/-! ### The journal scan (R107, R111, R418) -/

/-- The records of the dump that the journal holds, and the bytes lost with an incomplete one (R111, R418). -/
def Journal.scan (j : Journal) : List DumpRec × Nat :=
  if j.st = 1 then
    let n := min j.recs.length (Config.dumpedPrefix j.seq)
    (j.recs.take n, j.chgBytes - ((j.recs.take n).map (fun d => chargeOf d.data.length)).sum)
  else if j.st = 0 then ([], 0)
  else (j.recs, 0)

/-- FIXER as the scan sets it (R107): READY, DUMPED or REPLAY, and the dump to be replayed. -/
def State.scanJournal (s : State) : State :=
  let rs := s.jrn.scan.1
  if rs = [] then { s with fixer := .ready, dump := none, jrn := { s.jrn with recs := [] } }
  else
    { s with fixer := if s.jrn.st = 3 then .replay else .dumped, dump := some ⟨rs, lastNos rs⟩, jrn := { s.jrn with recs := rs } }

/-! ### Sessions, links and registers -/

/-- Sessions end; the connection of a TCP session is closed (R43, R75, R407). -/
def State.endSessions (s : State) (why : String) : List Sid → State
  | [] => s
  | n :: ns =>
    let wasTcp := (s.ses n).isOpen && !(isUart n)
    let s := s.endSession n why
    State.endSessions (if wasTcp then s.emit (.tcpClosed n) else s) why ns

def tcpSids : List Sid := [2, 3, 4, 5]
def allSids : List Sid := [0, 1, 2, 3, 4, 5]

/-- DRT sessions end with nothing sent: their port is being reset (R117). -/
def State.drtGone (s : State) : List Drt → State
  | [] => s
  | d :: ds => State.drtGone (s.drtFree d) ds

/-- Ports that leave UP for a reset; REASON tells it after the registers have been reset (XLK.PSTATp). -/
def State.portsDown (s : State) : List PortNo → State
  | [] => s
  | p :: ps => State.portsDown (if s.linkUp p then s.portDown p .reset else s) ps

def allPorts : List PortNo := [0, 1, 2, 3]

def State.markReset (s : State) : List PortNo → State
  | [] => s
  | p :: ps => State.markReset (s.setF (F.XLK_PSTAT_REASON p.val) 5) ps

/-- Reset a range of registers, keeping the words at some offsets. -/
def State.resetBut (s : State) (lo hi : Nat) (keep : List Nat) : State :=
  keep.foldl (fun t off => t.wr off (s.rd off)) (s.resetRange lo hi)

/-- The Ethernet addresses of the fuse map (ETH.MACn). -/
def State.setMacs (s : State) : State :=
  let m := s.boot.fuses.macBase.toNat
  (s.wr64 R.ETH_MAC0 m).wr64 R.ETH_MAC1 (m ||| 1)

/-- ETH registers that always show the present state (R138), and what XLK keeps (R465). -/
def ethKeeps : List Nat := [R.ETH_PSTAT, R.ETH_TSTAT, R.ETH_TOFS]
def xlkKeeps : List Nat :=
  [R.XLK_STAT, R.XLK_RANGE 0, R.XLK_RANGE 1, R.XLK_RANGE 2, R.XLK_CENS, R.XLK_CENS + 4, R.XLK_CTIME, R.XLK_CTIME + 4]

/-- What XLK holds after a reset of its domain: the census, its EPOCH and the sweep and TAG numbers stay (R465). -/
def Xlk.afterReset (x : Xlk) : Xlk :=
  { Xlk.reset with sweepNo := x.sweepNo, epoch := x.epoch, census := x.census, nextTag := x.nextTag }

/-- Spare rows and remap entries of the fuse map (R101). -/
def spareRowsOf (f : Fuses) : List Spare := f.spares.foldl (fun l p => l ++ [⟨p.1, p.2, true, (l.filter (fun (x : Spare) => x.bank == p.1)).length⟩]) []
def remapsOf (f : Fuses) : List Remap := f.seeds.map (fun p => ⟨p.1, p.2, true, false⟩)

/-! ### Motion in a reset (R113 step 2, R117, R372) -/

/-- Writing halts, long operations and READs of the tape end, and the tape stops (R113; the code 311 is a DESIGN CHOICE, log entry 49). -/
def State.stopTape (s : State) : State :=
  let s := s.haltWrite
  ((s.endOps .resetabort).failReads .resetabort s.allReads).endMotion

/-- The load sequence runs again with the tape threaded; it cannot while a unit of the reels or HEAD is tripped (R117). -/
def State.reload (s : State) : State :=
  if s.tape.threaded = false ∨ s.cart = .none then s
  else if s.motOf = .tripped then s.setCart .fault []
  else
    let s := (s.setCart .loading []).beginMove .load false 12
    { s with tape := { s.tape with c3arg := none } }

/-- Units whose trip input is low are latched as D6 leaves reset (R372). -/
def State.latchPins (s : State) : List MUnit → State
  | [] => s
  | u :: us => State.latchPins (if s.pinLow u then s.trip u 1 (some (inputRec u)) else s) us

/-! ### Domain resets (R117) -/

/-- Tenants that a reset of D1 resets first: those enabled, and those that own a queue. -/
def State.hostTenants (s : State) : List Tenant := (List.finRange 256).filter (fun t => s.enabled t || s.ownedBy t != [])

/-- D1 HOST: a function-level reset of every tenant, then the link, which trains again, and the HIF, QMG and INT registers. -/
def State.resetHost (s : State) : State :=
  let s := (s.flrs s.hostTenants).clearVf
  let s := { s with
    hif := { Hif.reset with perst := s.hif.perst }, pool := [], wlatch := s.wlatch.filter (fun (l : Latch) => l.src != Src.pf), rlatch := s.rlatch.filter (fun (l : Latch) => l.src != Src.pf) }
  (((s.resetRange 0x10000 0x20000).resetRange 0x20000 0x40000).resetRange 0x50000 0x60000).linkTrain

/-- D2 NET: the TCP and DRT sessions end; an ordered reset pulses ETH_RST_N (R490). A tenant that only its ETH.DRTTEN bit enabled keeps its queues while the bit is at its reset value: a reset is no clearing by
a write (R125), and its sessions reopen on the same queues (R156; DESIGN CHOICE, log entry 128). -/
def State.resetNet (s : State) (ordered : Bool) : State :=
  let s := (s.endSessions "RESET" tcpSids).drtGone s.eth.drt
  let s := { s with eth := { s.eth with noSession := [] } }
  let s := ((s.resetBut 0x60000 0x70000 ethKeeps).setMacs).setF F.ETH_TSTAT_GM 0
  let s := s.clkOf 2 false
  if ordered then (s.emit (.pin "ETH_RST_N" false)).emit (.pin "ETH_RST_N" true) else s

/-- T2 passes on every engine that no failure has disabled: the row that ran it has told its failures (R105). -/
def State.codecOk (s : State) : State :=
  { s with cdc := { s.cdc with rdc := s.cdc.rdc.map (fun (x : RdcEng) => { x with ok := !x.dead }), enl := s.cdc.enl.map (fun (x : EnlEng) => { x with ok := !x.dead }) } }

/-- The engines that fail the T2 of a reset of D3: ER 723 names each, and it is disabled (R105, R114, R241). -/
def State.t2Again (s : State) (no : Nat) : List Nat → State
  | [] => s
  | u :: us =>
    let e : Eng := ⟨u % 4, Nat.mod_lt u (by decide)⟩
    State.t2Again (if Config.t2Fails no u then
      let s := s.log (errRec .selftest .glb [⟨"TEST", .word "T2"⟩, ⟨"UNIT", .word (engName (decide (4 ≤ u)) e)⟩])
      if 4 ≤ u then s.setEnl e { s.cdc.enl[e] with dead := true, ok := false } else s.setEng e { s.eng e with dead := true, ok := false }
      else s) no us

/-- T2 runs again on every engine, which a reset of D3 has returned to use; its outcome is a free value (R105, R241; log entry 51). -/
def State.t2Run (s : State) : State :=
  let no := s.freeCtr
  let cdc : Cdc := { s.cdc with
    rdc := s.cdc.rdc.map (fun (x : RdcEng) => { x with dead := false, mism := 0, ok := true }), enl := s.cdc.enl.map (fun (x : EnlEng) => { x with dead := false, ok := true }) }
  ({ s.draw with cdc := cdc }).t2Again no (List.range 8)

/-- D3 CODEC: blocks in progress restart from their records, and T2 runs (R117, R241). -/
def State.resetCodec (s : State) : State :=
  (((s.dropCodecTest.restartCodec).resetRange 0x80000 0x90000).t2Run).settle

/-- D4 FORMAT, once the tape has stopped (R117, R298). -/
def State.resetFormat (s : State) : State :=
  { s with rch := { s.rch with dfm := none, seen := [], rows := [], found := [], sup := [] } }.resetRange 0xc0000 0xd0000

/-- D5 CHANNEL (R117, R323): the pass in progress is lost, the rows DFM keeps are not (R315). -/
def State.resetChannel (s : State) : State :=
  { s.dropProof with rch := { Rch.reset with dfm := s.rch.dfm, seen := s.rch.seen, rows := s.rch.rows, found := s.rch.found, sup := s.rch.sup }, prf := Prf.reset }.resetRange 0xd0000 0xe0000

/-- D6 MOTION: gates off, defaults, and the trip inputs that are low (R117, R351, R372, R397). -/
def State.resetMotion (s : State) : State :=
  let s := (((s.gatesOff 0).gatesOff 1).gatesOff 2).gatesZero
  let s := { s with mdr := { Mdr.reset with pins := s.mdr.pins }, srv := Srv.reset, cle := Cle.reset }
  (s.resetRange 0xe0000 0x110000).refreshMot.latchPins allUnits

/-- Does a half of the Tank hold a bank: D7 banks 0 to 31, D8 banks 32 to 63 (R117). -/
def inHalf (d b : Nat) : Bool := if d = 7 then decide (b < 32) else decide (32 ≤ b)

/-- Ports whose neighbour has borrowed pages of a half: its space is lost (R462; log entry 41). -/
def State.lenderPorts (s : State) (d : Nat) : List PortNo :=
  allPorts.filter (fun p => s.xlk.lent.any (fun (l : Lent) => l.port == p && l.pages.any (fun g => inHalf d (pageBank g))))

/-- Spare rows of a bank in use (R254). -/
def State.sparesOf (s : State) (bank : Nat) : Nat := (s.tnk.spares.filter (fun (x : Spare) => x.bank == bank)).length

/-- A bank is fenced with ER 702 (R255). -/
def State.fence (s : State) (bank : Nat) : State :=
  if s.tnk.fenced.contains bank then s
  else { s with tnk := { s.tnk with fenced := bank :: s.tnk.fenced } }.log (errRec .bankfence .tnk [⟨"BANK", .num bank⟩])

/-- The first free spare row of a bank that has not failed a test (R254, R259). -/
def State.freeSpare (s : State) (bank : Nat) : Option Nat :=
  (List.range 16).find? (fun i => !(s.tnk.spares.any (fun (x : Spare) => x.bank == bank && x.idx == i)) && !(s.tnk.badSpares.contains (bank, i)))

/-- A failing row takes a free spare row, or its bank is fenced (R254, R255): whether a spare was found. -/
def State.spareRow (s : State) (bank row : Nat) : State × Bool :=
  match s.freeSpare bank with
  | some i => ({ s with tnk := { s.tnk with spares := s.tnk.spares ++ [⟨bank, row, false, i⟩] } }, true)
  | none => (s.fence bank, false)

/-- T1 on the banks of a half (R105, R117): ER 723 for each bank that fails, and a spare row or a fence for each failing row. -/
def State.t1Again (s : State) (d : Nat) : List (Fin 64 × Fin 512) → List Nat → State
  | [], _ => s
  | p :: ps, seen =>
    let b := p.1.val
    if inHalf d b = false ∨ (s.tnk.spares.any (fun (x : Spare) => x.bank == b && x.row == p.2.val)) = true then State.t1Again s d ps seen
    else
      let s := if seen.contains b then s else s.log (errRec .selftest .glb [⟨"TEST", .word "T1"⟩, ⟨"UNIT", .num b⟩])
      State.t1Again (s.spareRow b p.2.val).1 d ps (b :: seen)

/-- T1 runs on the banks of the domain; which rows fail is a free value (R117; log entry 51). -/
def State.t1Run (s : State) (d : Nat) : State := (s.draw.t1Again d (Config.t1Rows s.freeCtr) [])

/-- The contents of the banks of a half are lost (R266). -/
def State.clearHalf (s : State) (d : Nat) : State :=
  let lo := if d = 7 then 0 else 32
  let gone (w : Nat) : Bool := inHalf d (w / 256 % 64)
  let t := s.tnk
  let march := match t.march with | some m => if inHalf d m.bank then none else some m | none => none
  let dropped := t.march.isSome && march.isNone
  let s := { s with
    tank := s.tank.filter (fun p => !(inHalf d (p.1 / pageBytes % 64)))
    tnk := { t with
      used := t.used.filter (fun p => !(inHalf d (pageBank p)) || s.fmt.pages.contains p), ce := t.ce.filter (fun w => !(gone w)), ue := t.ue.filter (fun w => !(gone w)), march := march
      corrAt := t.corrAt.filter (fun p => !(inHalf d p.1)), aged := t.aged.filter (fun p => !(inHalf d p.1.val)), waitq := t.waitq.filter (fun x => !(inHalf d (x.addr.toNat / 4096 % 64))), ptr := t.ptr.filter (fun p => !(inHalf d p.1.1)) } }
  let s := if dropped then { s with con := { s.con with opTank := none } } else s
  s.resetRange (R.TNK_ECNT lo) (R.TNK_ECNT lo + 128)

/-- The queues are cleared with what they hold; DRT sessions bound to them end (R114, R187; log entry 41). -/
def State.clearQueues (s : State) : State :=
  let s := s.drtResetAll s.eth.drt
  { s with qmg := { s.qmg with queues := [], recs := [], barriers := [] }, sch := { s.sch with turns := [] } }.resetRange 0x20000 0x28000

/-- Replay starts at once when the tape is writing (R108, R113). -/
def State.replayNow (s : State) (writing : Bool) : State := if writing then s.startReplay else s

/-- Encoded blocks of cleared banks are gone (R114). -/
def State.dropBlocks (s : State) : State := { s with cdc := { s.cdc with ready := [], redo := [] } }

/-- D7 TANK-A or D8 TANK-B: SECURED records go to the Fixer, the others end with 311 or 315, T1 runs on the banks, and what was saved is replayed before any new record (R113, R114,
R117). -/
def State.resetTank (s : State) (d : Nat) : State :=
  let s := s.haltWrite.groupLost.preserve (fun r => r.pages.any (fun g => inHalf d (pageBank g)))
  let s := (s.portsDown (s.lenderPorts d)).clearQueues.dropBlocks
  let s := ((s.clearHalf d).t1Run d).scanJournal
  s.replayNow (s.cart == .writing)

/-- D9 LINK: the four ports retrain; the node fields and the census stay (R117, R465). -/
def State.resetLink (s : State) : State :=
  let ups := allPorts.filter s.linkUp
  let s := s.portsDown allPorts
  let lent := s.xlk.lent.flatMap (fun (l : Lent) => l.pages)
  let s := s.freePagesOf lent
  let s := { s with xlk := { s.xlk.afterReset with cmds := s.xlk.cmds, dones := s.xlk.dones } }
  ((s.resetBut 0x120000 0x130000 xlkKeeps).setF F.XLK_STAT_SWEEP 0).markReset ups

/-- The reset of one domain from D1 to D9, its preamble done. -/
def State.resetDomain (s : State) (d : Nat) (ordered : Bool) : State :=
  match d with
  | 1 => s.resetHost
  | 2 => s.resetNet ordered
  | 3 => s.resetCodec
  | 4 => s.resetFormat
  | 5 => s.resetChannel
  | 6 => s.resetMotion
  | 7 => s.resetTank 7
  | 8 => s.resetTank 8
  | 9 => s.resetLink
  | _ => s

/-- Is a domain reset absorbed: before the first prompt, in rescue mode, after a dump, or with the domain off (R104, R119, R419). -/
def State.absorbs (s : State) (d : Nat) : Bool :=
  s.boot.phase != .up || s.boot.warming || s.boot.rescue || s.pw.halted || !(s.domainOn d) || d == 0

/-- A domain reset (R112, R113, R117): a reset of D4, D5 or D6 stops the tape first and runs the load sequence again. A `TEST BOOT` run ends without a result (R106). -/
def State.domReset (s : State) (d : Nat) (ordered : Bool) : State :=
  if s.absorbs d then s
  else
    let s := s.dropBootTest.flush (clksOf d)
    if d = 4 ∨ d = 5 ∨ d = 6 then
      let was := s.cart
      let s := (s.stopTape.resetDomain d ordered)
      if was = .none ∨ was = .present then s else s.reload
    else s.resetDomain d ordered

/-! ### Warm reset (R112 to R114, R116) -/

/-- GLB.RSTCAUSE as a warm reset rewrites it. -/
def warmCause (keep cascade wdog : Bool) : Word :=
  BitVec.ofNat 32 (2 + (if wdog then 4 else 0) + (if cascade then 8 else 0) + (if keep then 16 else 0))

/-- Register words that keep their value through a warm reset (R114, R39, R138, R423, R465, R492); CLK.STAT shows what is kept. -/
def warmKeeps : List Nat :=
  [R.CLK_STAT, R.CLK_LOSS, R.GLB_STRAP, R.AON_RTCSEC, R.AON_RTCALM, R.ERR_RSEL] ++ ethKeeps ++ xlkKeeps

/-- Registers after a warm reset; an up-port that stays trained keeps its status (R118). -/
def State.warmRegs (s : State) (keep cascade wdog : Bool) : State :=
  let t := s.resetBut 0 0x200000 (warmKeeps ++ (if cascade then [R.XLK_PSTAT 0, R.XLK_PCNT 0] else []) ++ (if keep then (List.range 8192).map (fun i => 0x20000 + 4 * i) else []))
  ((t.wr R.GLB_RSTCAUSE (warmCause keep cascade wdog)).setF F.XLK_STAT_SWEEP 0).setMacs

/-- The queues after a warm reset: kept with KEEPTANK, but for what a dump had given to replay (R114). -/
def Qmg.afterWarm (q : Qmg) (keep : Bool) : Qmg :=
  if keep then { q with recs := q.recs.filter (fun r => !r.replay), queues := q.queues.map (fun (x : Queue) => { x with bound := none }) } else Qmg.reset

/-- The Tank after a warm reset: with KEEPTANK its contents, spares and fences are kept (R114, R266). -/
def State.tnkAfterWarm (s : State) (keep : Bool) : Tnk :=
  if keep then { s.tnk with used := s.tnk.used.filter (fun p => !(s.fmt.pages.contains p)), march := none, waitq := [], stage := Tnk.reset.stage, parts := Tnk.reset.parts, aged := [], ptr := [] } else { Tnk.reset with spares := spareRowsOf s.boot.fuses }

/-- The function parts after a warm reset: PCI Express state is kept, the windows return to their reset values (R114, R134). -/
def Hif.afterWarm (h : Hif) : Hif := { h with fns := h.fns.map (fun (f : Fn) => { f with resetting := false, baddb := 0, confl := 0 }) }

/-- The blocks after a warm reset; time, the ERR log, keys, the retention SRAM, the Fixer and what the pins show are kept (R114). -/
def State.warmBlocks (s : State) (keep cascade : Bool) : State :=
  let up0 := s.xp 0
  { s with
    wlatch := [], rlatch := [], arb := ⟨[], [], [], [], s.err.next⟩, pool := [], dump := none, mot := .stopped, pwr := .run
    cart := if s.cart = .none then .none else .present
    con := { Console.reset with denials := s.con.denials, lockout := s.con.lockout, wakes := s.con.wakes }
    boot := { s.boot with phase := .image, warming := true, keepTank := keep, testing := false, rescue := false, commit := none, wdogHeld := true }
    pw := { s.pw with entry := none, leave := none, wake := none, exiting := false, ended := false, seq := none, stopped := false }
    hif := s.hif.afterWarm
    eth := { s.eth with drt := [], noSession := [] }
    qmg := s.qmg.afterWarm keep
    sch := { Sch.reset with nextFeed := s.sch.nextFeed }
    tank := if keep then s.tank else []
    flow := ⟨[], [], []⟩
    tnk := s.tnkAfterWarm keep
    spd := ⟨[], remapsOf s.boot.fuses, [], []⟩
    cdc := Cdc.reset, fmt := Fmt.reset, prf := Prf.reset, rch := Rch.reset, srv := Srv.reset, cle := Cle.reset
    mdr := { Mdr.reset with pins := s.mdr.pins }
    sec := { s.sec with chains := s.sec.verified }
    xlk := if cascade then { s.xlk.afterReset with ports := s.xlk.afterReset.ports.set 0 up0 } else s.xlk.afterReset }

/-- Is a warm order absorbed: by the power-on reset or the warm reset whose start-up has not reached its first prompt (R119); the re-run of start-up that a switch-on of D0 causes is a domain
reset, and smaller. After a dump the device stays halted (R419). -/
def State.warmBlocked (s : State) : Bool := (s.boot.phase != .up && !s.pw.exiting) || s.boot.warming || s.pw.halted

/-- A warm reset (R112 to R114): its preamble, and the reset, after which start-up runs from the boot image on. A cascade-commanded one leaves the up-port trained (R118). -/
def State.warm (s : State) (keep cascade wdog : Bool) : State :=
  if s.warmBlocked then s
  else
    let rescue := s.boot.rescue
    let s := { s.flush allClks with xlk := { s.xlk with cmds := [], dones := [], held := [] } }
    let s := s.haltWrite.groupLost
    let s := if keep then s.failReads .resetabort s.allReads else s
    let s := s.drtGone s.eth.drt
    let s := if keep then s else s.preserve (fun _ => true)
    let s := s.endSessions "RESET" allSids
    let ports := if cascade then [1, 2, 3] else allPorts
    let ups := ports.filter s.linkUp
    let s := s.portsDown ports
    let s := if keep then s.freePagesOf (s.xlk.lent.flatMap (fun (l : Lent) => l.pages)) else s
    let s := ((s.warmRegs keep cascade wdog).markReset ups).warmBlocks keep cascade
    if rescue then (s.emit (.pin "FAULT_N" true)).clkOf 1 true else s

/-! ### Power-on reset (R97, R112, R114) -/

/-- The journal and the flash survive power-on reset, as do the keys, the cartridge, and what the pins show; what has left the device, and the model's own counters, are kept. -/
def State.por (s : State) : State :=
  ({ State.reset with
    balls := s.balls
    pending := s.pending, out := (s.flush allClks).out, us := s.us, freeCtr := s.freeCtr, jrn := s.jrn
    cart := if s.cart = .none then .none else .present
    boot := { Boot.reset with slotA := s.boot.slotA, slotB := s.boot.slotB, pwrgd := s.boot.pwrgd, supplyLow := s.boot.supplyLow, refLost := s.boot.refLost }
    pw := { PwrSt.reset with ign := s.pw.ign, holdup := s.pw.holdup, pfail := s.pw.pfail }
    sec := { Sec.reset with keys := s.sec.keys }
    tape := { Tape.reset with id := s.tape.id, wp := s.tape.wp, blank := s.tape.blank, c3 := s.tape.c3, threaded := s.tape.threaded }
    mdr := { Mdr.reset with pins := s.mdr.pins }
    hif := { Hif.reset with perst := s.hif.perst } } : State).headBalls.gatesZero

end Sys2Proof.Machine
end

