-- ==== Sys2Proof/Machine/Boot.lean ====
section
/-! DEFINITION. Start-up and the reset commands (04_start_up R97 to R121): power-on, fuse map, boot image, self-test, journal scan, first prompt, rescue mode, `TEST BOOT`, warm and
domain resets, PERST_N, the watchdog; and the losses of clocks and supplies that hold the device in reset (01_device R38, 19_electrical R509, R517). -/

namespace Sys2Proof.Machine

/-! ### Power-on (R97, R98, R492) -/

/-- Power-on reset with the straps kept (R97). -/
def State.porKeep (s : State) : State :=
  { s.por with boot := { s.por.boot with master := s.boot.master, testEn := s.boot.testEn, vsel := s.boot.vsel } }

/-- The Safelight runs; GLB.STRAP and the node fields show the straps, and step 2 of R98 begins once the supplies and the reference allow it. With TEST_EN high the device stays held (R492). -/
def State.startUp (s : State) : State :=
  if s.boot.pwrgd = false ∨ s.boot.testEn = true then s
  else
    let v := s.boot.vsel.toNat
    let s := (s.setF F.GLB_STRAP_VSEL2 (v / 4)).setF F.GLB_STRAP_VSEL1 (v / 2)
    let s := ((s.setF F.GLB_STRAP_VSEL0 v).setF F.GLB_STRAP_MASTER (if s.boot.master then 1 else 0)).setF F.CLK_STAT_CKA_RUN 1
    let s := if s.boot.master then ((s.setF F.XLK_STAT_MASTER 1).setF F.XLK_STAT_IDVALID 1).setF F.XLK_CENS_NODES 1 else s
    let s := (s.emit (.pin "FAULT_N" true)).emit (.pin "ETH_RST_N" false)
    if s.boot.supplyLow = true ∨ s.boot.refLost = true then s else { s with boot := { s.boot with phase := .fuses } }

/-- PWRGD_RISE (R97, R98). -/
def execPwrgdRise (master testEn : Bool) (vsel : BitVec 3) (s : State) : Host.Outcome State Fault Refusal :=
  if s.boot.pwrgd = true then .next s
  else
    let s := s.por
    .next { s with boot := { s.boot with pwrgd := true, master := master, testEn := testEn, vsel := vsel } }.startUp

/-- PWRGD_FALL (R97, R112). -/
def execPwrgdFall (s : State) : Host.Outcome State Fault Refusal :=
  let s := s.por
  .next { s with boot := { s.boot with pwrgd := false } }

/-- SUPPLY_MONITOR_RESET (R509): held while low; start-up begins again at step 2 when it recovers. -/
def execSupplyMonitorReset (below : Bool) (s : State) : Host.Outcome State Fault Refusal :=
  if below then
    let s := s.porKeep
    .next { s with boot := { s.boot with supplyLow := true } }
  else if s.boot.supplyLow = false then .next s
  else .next { s with boot := { s.boot with supplyLow := false } }.startUp

/-- REF_CLOCK_LOSS (R517): power-on reset, and then its record in the emptied log. -/
def execRefClockLoss (s : State) : Host.Outcome State Fault Refusal :=
  if s.boot.refLost = true then .next s
  else
    let on := s.boot.pwrgd && !s.boot.testEn
    let s := s.porKeep
    let s := { s with boot := { s.boot with refLost := true } }
    .next (if on then s.log (errRec .clkloss .clk [⟨"DOM", .word "REF"⟩]) else s)

/-- REFERENCE_CLOCK_RETURN (R517). -/
def execReferenceClockReturn (s : State) : Host.Outcome State Fault Refusal :=
  if s.boot.refLost = false then .next s else .next { s with boot := { s.boot with refLost := false } }.startUp

/-! ### Clock losses (R38) -/

def clkName : Clk → String
  | .ckp => "CKP" | .cke0 => "CKE0" | .cke1 => "CKE1" | .ckwc => "CKWC" | .ckwe => "CKWE" | .ckm => "CKM" | .ckx => "CKX" | .cku => "CKU"

/-- What a lost domain does beyond its record: CKM trips every unit without a second record (R38, R366), a CKW that drives WCH ends the frames in flight (R35, R38), and without CKP the link is down. -/
def State.clkAction (s : State) (d : Clk) : State :=
  match d with
  | .ckm => (((s.trip .supply 3 none).trip .takeup 3 none).trip .fan 3 none).trip .head 3 none
  | .ckwc => if zoneE s.tape.wrap = false then s.fillInFlight else s
  | .ckwe => if zoneE s.tape.wrap = true then s.fillInFlight else s
  | .ckp => s.linkLost
  | _ => s

/-- A packet that stood half written in a FIFO whose source clock has stopped is discarded (R30): XC-1 counts it, and XC-3 as a runt. Of the other FIFOs with a watched source
clock, link-level retry recovers a frame of XC-5, and a character of XC-14 is lost before any row brings it. -/
def State.dropPartial (s : State) (d : Clk) : State :=
  let n := s.freeCtr
  match d with
  | .ckp => if Config.partialPacket n then s.draw.count F.HIF_CNT_PARTIAL 1 else s.draw
  | .cke0 | .cke1 => if Config.partialPacket n then { s.draw with eth := { s.eth with runts := s.eth.runts + 1 } } else s.draw
  | _ => s

/-- The clock stands still: its bits, and the FIFOs that it empties begin to hold what comes (R33, R38). -/
def State.clkStops (s : State) (d : Clk) : State :=
  let s := (s.setF ⟨R.CLK_STAT, clkBit d, 1⟩ 0).setF ⟨R.CLK_LOSS, clkBit d, 1⟩ 1
  { s with xc := { s.xc with stopped := d :: s.xc.stopped.filter (fun c => c != d) } }

/-- CLOCK_LOSS (R30, R38): of a clock that runs; one that is switched off or stopped is not lost again. -/
def execClockLoss (d : Clk) (s : State) : Host.Outcome State Fault Refusal :=
  if s.bit ⟨R.CLK_STAT, clkBit d, 1⟩ = false then .next s
  else .next ((((s.clkStops d).dropPartial d).log (errRec .clkloss .clk [⟨"DOM", .word (clkName d)⟩])).clkAction d)

/-! ### Fuse map and boot image (R101 to R104) -/

/-- FUSE_MAP_LOAD (R101). -/
def execFuseMapLoad (goodAt : Option (Fin 4)) (fuses : Fuses) (s : State) : Host.Outcome State Fault Refusal :=
  if s.boot.phase ≠ .fuses ∨ s.boot.noStart = true then .next s
  else match goodAt with
    | none => .next ({ s with boot := { s.boot with noStart := true } }.emit (.pin "FAULT_N" false))
    | some _ =>
      let s := { s with boot := { s.boot with fuses := fuses, phase := .image }, tnk := { s.tnk with spares := spareRowsOf fuses }, spd := { s.spd with remap := remapsOf fuses } }
      .next ((s.setMacs.clkOf 0 true).clkOf 1 true).linkTrain

/-- MAGIC of a slot header (R102). -/
def slotMagic : Nat := 0x44595046
def imageMax : Nat := 196608

/-- Does a slot's header name an image (R102, R103). -/
def slotHeader (x : Slot) : Bool := x.magic.toNat == slotMagic && x.length % 4 == 0 && decide (4 ≤ x.length ∧ x.length ≤ imageMax)

/-- The LENGTH bytes of an image; flash that holds none of it reads erased (DESIGN CHOICE, log entry 44). -/
def slotBytes (x : Slot) : List Byte := (x.image ++ List.replicate (x.length - x.image.length) 255#8).take x.length

def slotGood (x : Slot) : Bool := crc32 (slotBytes x) == x.crc.toNat

/-- Slots in the order the boot ROM tries them (R103); with equal SEQ slot A comes first (DESIGN CHOICE, log entry 44). -/
def slotOrder (a b : Slot) : List (Bool × Slot) :=
  let l := if a.seq.toNat < b.seq.toNat then [(true, b), (false, a)] else [(false, a), (true, b)]
  l.filter (fun p => slotHeader p.2)

/-- A slot failed its CRC. -/
def State.badSlot (s : State) (b : Bool) : State := s.log (errRec .bootimg .glb [⟨"SLOT", .word (if b then "B" else "A")⟩])

/-- Try slots in order (R103): the slot booted. -/
def State.trySlots (s : State) : List (Bool × Slot) → State × Option (Bool × Slot)
  | [] => (s, none)
  | (b, x) :: rest => if slotGood x then (s, some (b, x)) else State.trySlots (s.badSlot b) rest

/-- GLB.RSTCAUSE describes a power-on or warm reset, and not the switch-on of D0 (R112, GLB.RSTCAUSE). -/
def State.causeF (s : State) (f : Fld) (v : Nat) : State := if s.pw.exiting then s else s.setF f v

/-- RESCUE_MODE_ENTRY (R104, R488): only D0 and UART0 stay on. -/
def State.enterRescue (s : State) : State :=
  let s := { s with boot := { s.boot with phase := .up, rescue := true, warming := false, wdogHeld := true }, pw := { s.pw with exiting := false } }
  let s := (s.setF F.GLB_RSTCAUSE_RESCUE 1).setF F.PWR_STAT_DOMAINS 1
  let s := ((((s.clkOf 1 false).clkOf 2 false).clkOf 5 false).clkOf 6 false).clkOf 9 false
  ((s.emit (.pin "FAULT_N" false)).openSession 0 0).prompt 0

/-- BOOT_IMAGE_LOAD (R102 to R104): the slots as the flash holds them; the image is copied to the Scratchpad from address 0 (DESIGN CHOICE, log entry 44). -/
def execBootImageLoad (a b : Slot) (s : State) : Host.Outcome State Fault Refusal :=
  if s.boot.phase ≠ .image then .next s
  else
    let s := { s with boot := { s.boot with slotA := a, slotB := b } }
    match s.trySlots (slotOrder a b) with
    | (s, some (isB, x)) =>
      let s := s.causeF F.GLB_RSTCAUSE_IMGB (if isB then 1 else 0)
      .next { s with boot := { s.boot with bootedB := isB, version := x.version, phase := .test }, spd := { s.spd with mem := msetL [] 0 (slotBytes x) } }
    | (s, none) => .next (s.log (errRec .noimage .glb [])).enterRescue

/-! ### Boot self-test (R105, R106, R263) -/

def testName : Fin 8 → String
  | 0 => "T0" | 1 => "T1" | 2 => "T2" | 3 => "T3" | 4 => "T4" | 5 => "T5" | 6 => "T6" | _ => "T7"

/-- The engine a T2 failure names: units 0 to 3 are RDC0 to RDC3, 4 to 7 ENL0 to ENL3. -/
def engOf (unit : Nat) : Eng := ⟨unit % 4, Nat.mod_lt unit (by decide)⟩

/-- UNIT of ER 723: the engine, bank or channel (R529). -/
def unitVal (f : TestFail) : Val := if f.test = 2 then .word (engName (decide (4 ≤ f.unit)) (engOf f.unit)) else .num f.unit

/-- T0 adds a failing word to the remap table; false when the table is full (R105, R257). -/
def State.t0Fail (s : State) (bank word : Nat) : State × Bool :=
  if s.spd.remap.any (fun (x : Remap) => x.bank == bank && x.word == word) then (s, false)
  else if 8 ≤ (s.spd.remap.filter (fun (x : Remap) => x.bank == bank)).length then (s, true)
  else ({ s with spd := { s.spd with remap := s.spd.remap ++ [⟨bank, word, false, false⟩] } }, false)

/-- A failing engine is disabled (R105, R238). -/
def State.t2Fail (s : State) (unit : Nat) (running : Bool) : State :=
  let e := engOf unit
  if 4 ≤ unit then s.setEnl e { s.cdc.enl[e] with dead := true, ok := false }
  else if running then s.killEng e
  else s.setEng e { s.eng e with dead := true, ok := false }

/-- What one failure leaves behind, and whether it is fatal in itself (R105). -/
def State.testAct (s : State) (running : Bool) (f : TestFail) : State × Bool :=
  if f.test = 0 then s.t0Fail (f.unit % 4) f.item
  else if f.test = 1 then ((s.spareRow (f.unit % 64) f.item).1, false)
  else if f.test = 2 then (s.t2Fail f.unit running, false)
  else (s, true)

/-- Is the test part of the run: not T1 when the Tank is kept (R114), and from T2 on beside live traffic (R106). -/
def testRuns (running keep : Bool) (f : TestFail) : Bool := if running then decide (2 ≤ f.test.val) else !(keep && f.test == 1)

/-- Work through failures: ER 723 once for a test and unit, at start-up its bit in FAILTEST, its action; whether one was fatal. -/
def State.testFails (s : State) (running keep boot : Bool) : List TestFail → List (Fin 8 × Nat) → State × Bool
  | [], _ => (s, false)
  | f :: fs, seen =>
    if testRuns running keep f then
      let key := (f.test, f.unit)
      let s := if seen.contains key then s else s.log (errRec .selftest .glb [⟨"TEST", .word (testName f.test)⟩, ⟨"UNIT", unitVal f⟩])
      let s := if boot = false then s else s.causeF F.GLB_RSTCAUSE_FAILTEST (s.getF F.GLB_RSTCAUSE_FAILTEST ||| 2 ^ f.test.val)
      let r := s.testAct running f
      let q := State.testFails r.1 running keep boot fs (key :: seen)
      (q.1, r.2 || q.2)
    else State.testFails s running keep boot fs seen

/-- Fatal in sum: more than 8 fenced banks, or no engine of a kind left (R105). -/
def State.tooMany (s : State) (t1 : Bool) : Bool :=
  (t1 && decide (8 < s.tnk.fenced.length)) || (List.finRange 4).all (fun e => (s.eng e).dead) || (List.finRange 4).all (fun (e : Fin 4) => (s.cdc.enl[e]).dead)

/-- The largest charge at a write rate (R263). -/
def chargeLimit (mbs : Nat) : Nat := if 100 ≤ mbs then 3932160 else mbs * 39300 / 64 * 64

/-- FIXER_RATE_CHECK (R263). -/
def State.fixRate (s : State) (mbs : Nat) : State :=
  let s := ((s.setF F.FIX_STAT_RATE (min 65535 mbs)).setF F.FIX_STAT_RATEOK (if 100 ≤ mbs then 1 else 0)).setF F.FIX_RLIM_LIM (chargeLimit mbs)
  if 100 ≤ mbs then s else s.log (errRec .fixslow .fix [⟨"RATE", .num mbs⟩])

/-- BOOT_SELF_TEST (R105): `rate` is what T6 measures, `ms` the run's length. -/
def execBootSelfTest (fails : List TestFail) (rate : Nat) (ms : Nat) (s : State) : Host.Outcome State Fault Refusal :=
  if s.boot.phase ≠ .test then .next s
  else
    let keep := s.boot.warming && s.boot.keepTank
    let r := s.testFails false keep true fails []
    let s := (r.1.codecOk.fixRate rate).setF F.GLB_BOOTTIME_TEST (min 65535 ms)
    if r.2 || s.tooMany (!keep) then .next s.enterRescue else .next { s with boot := { s.boot with phase := .scan } }

/-! ### `TEST BOOT` (R91, R106) -/

/-- The first error of `TEST BOOT` (R106; the place of 409 is a DESIGN CHOICE, log entry 33). -/
def State.bootTestError (s : State) : Option Er :=
  if s.boot.testing = true then some .testbusy
  else if s.boot.rescue = true then (if s.con.update.isSome = true then some .updbusy else none)
  else if s.pwr ≠ .run then some .pwrstate
  else if s.cart ≠ .none ∧ s.cart ≠ .present ∧ s.cart ≠ .fault then some .cartstate
  else if s.mot = .tripped then some .tripped
  else if s.mot ≠ .stopped ∨ s.axisOn 0 = true ∨ s.axisOn 1 = true then some .motstate
  else none

/-- TEST BOOT. -/
def execTestBoot (ln : Ln) (s : State) : Host.Outcome State Fault Refusal :=
  .next (s.verb ln .service true
    (match s.bootTestError with
     | some e => .er e []
     | none => .ok { s with boot := { s.boot with testing := true }, con := { s.con with opBoot := some ln } } [] startedItems))

/-- A running fan has its gates held off for T7 and then starts again (R106, R360). -/
def State.fanAgain (s : State) : State :=
  if s.axisOn 2 = true then (((s.gatesOff 2).startAxis 2).setFan 0 s.mdr.stalls false).tidyLoops else s

/-- TEST_BOOT_COMPLETE (R106, R263), `rate` what T6 measures: in rescue mode T0 to T7 in full and no reset; elsewhere a fatal failure leads to a warm reset with KEEPTANK. -/
def execTestBootComplete (fails : List TestFail) (rate : Nat) (s : State) : Host.Outcome State Fault Refusal :=
  if s.boot.testing = false then .next s
  else
    let rescue := s.boot.rescue
    let ln := s.con.opBoot
    let failed := fails.any (testRuns (!rescue) false)
    let s := s.dropBootTest
    let r := s.testFails (!rescue) false false fails []
    let fatal := r.2 || (failed && r.1.tooMany false)
    let s := (r.1.codecOk.fixRate rate).fanAgain.done ln (resultItems (!failed) Er.selftest.code)
    .next (if fatal = true ∧ rescue = false then s.warm true false false else s)

/-! ### The journal and the first prompt (R98, R107, R111, R122, R473) -/

/-- The ERR log with the records restored from the journal first; those of this start-up follow with the next numbers (R107, R473; log entry 54). -/
def restoreLog (old : List ErrRec) (l : ErrLog) : ErrLog :=
  match old with
  | [] => l
  | top :: _ =>
    let kept := old.map (fun (r : ErrRec) => { r with flags := { r.flags with restored := true } })
    let base := (top.seq + 1) % 2 ^ 32
    let own := l.recs.map (fun (r : ErrRec) => { r with seq := (base + r.seq) % 2 ^ 32 })
    { recs := (own ++ kept).take logMax, next := (base + l.next) % 2 ^ 32, wrap := l.wrap
      last := match own with
        | r :: _ => some (r.seq, r.code)
        | [] => some (top.seq, top.code)
      fresh := l.fresh }

/-- After power-on the ERR records and the tape hint of the journal are taken (R107). -/
def State.takeJournal (s : State) : State := { s with err := restoreLog s.jrn.errs s.err, tape := { s.tape with hint := s.jrn.hint } }

/-- What a journal that holds only a part of a dump leaves (R111). -/
def State.partReplay (s : State) (lost : Nat) : State := (s.causeF F.GLB_RSTCAUSE_FIXPART 1).log (errRec .fixpart .fix [⟨"LOST", .num lost⟩])

/-- FIXER_JOURNAL_SCAN (R107, R111, R418). -/
def execFixerJournalScan (s : State) : Host.Outcome State Fault Refusal :=
  if s.boot.phase ≠ .scan then .next s
  else
    let part := s.jrn.st == 1 && decide (s.jrn.scan.1.length < s.jrn.charged)
    let t := (if s.boot.warming || s.pw.exiting then s else s.takeJournal).scanJournal
    let t := t.causeF F.GLB_RSTCAUSE_FIXDUMP (if t.fixer = .ready then 0 else 1)
    let t := if part then t.partReplay s.jrn.scan.2 else t
    .next { t with boot := { t.boot with phase := .init } }

/-- Sessions S0 and S1 begin, each with its prompt (R41, R122). -/
def State.openUarts (s : State) : State :=
  let s := if (s.ses 0).isOpen then s else (s.openSession 0 0).prompt 0
  if (s.ses 1).isOpen then s else (s.openSession 1 1).prompt 1

/-- Start-up is over (R98, R122). -/
def State.endBoot (s : State) : State := { s with boot := { s.boot with phase := .up, warming := false, wdogHeld := false, perstDue := false } }

/-- A sweep is due on a master with AUTOSWEEP (R437). -/
def State.sweepDue (s : State) : State :=
  if s.isMaster && s.bit F.XLK_CFG_AUTOSWEEP then { s with xlk := { s.xlk with due := true } } else s

/-- The switch-on of D0 that re-ran start-up is over: the device is in RUN (R404). -/
def State.endExit (s : State) : State := { s with pw := { s.pw with exiting := false }, pwr := .run }

/-- The clocks of D2 to D9 run, GLB.BOOTTIME and READY tell of it, and Ethernet leaves reset at power-on (R98, R121, R122). -/
def State.startUnits (s : State) (exiting warm : Bool) (ms : Nat) : State :=
  let s := ((s.clkOf 5 true).clkOf 6 true).clkOf 9 true
  let s := (if exiting then s else s.setF F.GLB_BOOTTIME_PROMPT (min 65535 ms)).setF F.GLB_RSTCAUSE_READY 1
  if warm || exiting then s else s.emit (.pin "ETH_RST_N" true)

/-- The timebase is loaded from the real-time clock, in whole seconds, at the end of every start-up, and counts as FREE until SRC 0 locks again (R140; log entry 96). -/
def State.loadTime (s : State) : State :=
  { s with eth := { s.eth with ns := s.getF F.AON_RTCSEC_SEC * 1000000000, good := 0, slew := 0 } }.setF F.ETH_TSTAT_LOCKED 0

/-- FIRST_PROMPT (R98 steps 8 and 9, R121, R122): firmware has initialised D2 to D9. -/
def execFirstPrompt (ms : Nat) (s : State) : Host.Outcome State Fault Refusal :=
  if s.boot.phase ≠ .init then .next s
  else
    let t := (((s.endBoot.startUnits s.pw.exiting s.boot.warming ms).loadTime.hifShow).latchPins allUnits).openUarts.sweepDue
    let t := if s.boot.warming || s.pw.exiting then t.reload else t
    let t := if s.pw.exiting then t.endExit else t
    .next (if s.boot.perstDue then t.domReset 1 false else t)

/-! ### Warm and domain resets by order (R90, R112, R117) -/

/-- May this line order it: the sender exists, and holds the level. -/
def State.mayOrder (s : State) (ln : Ln) (need : Level) : Bool := s.present ln.who && decide (need.num ≤ (s.levelOf ln.who).num)

/-- RESET WARM: the reply leaves first (R90). -/
def execResetWarm (ln : Ln) (keepTank : Bool) (s : State) : Host.Outcome State Fault Refusal :=
  let t := s.verb ln .service true (.ok s [] [⟨"RESET", .word "WARM"⟩])
  .next (if s.mayOrder ln .service then t.warm keepTank false false else t)

/-- RESET DOMAIN: D1 to D9; the reply leaves first (R89, R90). -/
def execResetDomain (ln : Ln) (d : Nat) (s : State) : Host.Outcome State Fault Refusal :=
  let bad := d == 0 || decide (9 < d)
  let t := s.verb ln .service false (if bad then .er .badarg [] else .ok s [] [⟨"RESET", .chars ('D' :: decText d)⟩])
  .next (if (s.mayOrder ln .service && !bad) && !s.boot.rescue then t.domReset d true else t)

/-- WARM_RESET (R112 to R114). -/
def execWarmReset (keepTank : Bool) (s : State) : Host.Outcome State Fault Refusal := .next (s.warm keepTank false false)

/-- DOMAIN_RESET (R112, R113, R117); a reset of D0 alone does not exist (R90, R112). -/
def execDomainReset (d : Domain) (s : State) : Host.Outcome State Fault Refusal := .next (s.domReset d.val true)

/-- A host's write of a GLB register is open before READY, but not during a warm reset or with D1 off (R116, R121). -/
def State.glbOpen (s : State) (src : Src) : Bool :=
  match src with
  | .pf => !s.boot.warming && s.domainOn 1 && !s.pw.halted && !(s.d3hot 0)
  | .vf _ => false
  | _ => true

/-- A write of GLB.RSTCTL (R112). -/
def State.wRstctl (s : State) (v : Word) : WRes :=
  let w := v.toNat
  let d := getBits w 8 4
  if getBits w 16 16 ≠ 0x4C59 then .refuse .badarg none
  else if getBits w 0 2 = 1 then .ok (s.warm (getBits w 2 1 == 1) false false)
  else if getBits w 0 2 = 2 then (if d = 0 ∨ 9 < d then .refuse .badarg (some { errRec .badarg .glb [] with src := .pf }) else .ok (s.domReset d true))
  else if getBits w 0 2 = 3 then .refuse .badarg none
  else .ok s

/-- A write of a GLB register by a source. -/
def State.glbWrite (s : State) (src : Src) (w : WRes) : State :=
  match src with
  | .vf _ => s
  | _ => if s.glbOpen src then s.apply src w else s.pfDrop src

/-- RSTCTL_WARM. -/
def execRstctlWarm (src : Src) (v : Word) (s : State) : Host.Outcome State Fault Refusal := .next (s.glbWrite src (s.wRstctl v))

/-- RSTCTL_DOMAIN. -/
def execRstctlDomain (src : Src) (v : Word) (s : State) : Host.Outcome State Fault Refusal := .next (s.glbWrite src (s.wRstctl v))

/-- PERST_ASSERT (R112): a reset of D1, which follows a warm reset or a start-up in progress. -/
def execPerstAssert (s : State) : Host.Outcome State Fault Refusal :=
  let s := { s with hif := { s.hif with perst := true } }.linkLost
  .next (if s.boot.warming then { s with boot := { s.boot with perstDue := true } } else s.domReset 1 false)

/-- PERST_DEASSERT (R100): the host drives its reference clock by then, so a lost CKP runs again (log entry 101); the rise is a wake event (R400). -/
def execPerstDeassert (s : State) : Host.Outcome State Fault Refusal := .next ((({ s with hif := { s.hif with perst := false } }.clkBack .ckp).linkTrain).edge s.hif.perst .pcie)

/-! ### The watchdog (R120) -/

/-- WATCHDOG_EXPIRY: it runs from the first prompt on, and not during a dump. -/
def execWatchdogExpiry (s : State) : Host.Outcome State Fault Refusal :=
  if s.boot.phase ≠ .up ∨ s.boot.wdogHeld = true ∨ s.pw.halted = true ∨ s.bit F.GLB_WDOG_EN = false then .next s
  else .next ((s.log (errRec .watchdog .seq [])).warm true false true)

/-- A write of GLB.WDOG: a period below 100 is stored as 100; the restart of the count is time (log entry 55). -/
def State.wWdog (s : State) (v : Word) : WRes :=
  .ok ((s.setF F.GLB_WDOG_EN (getBits v.toNat 31 1)).setF F.GLB_WDOG_PERIOD (max 100 (getBits v.toNat 0 16)))

/-- WATCHDOG_WRITE. -/
def execWatchdogWrite (src : Src) (v : Word) (s : State) : Host.Outcome State Fault Refusal := .next (s.glbWrite src (s.wWdog v))

end Sys2Proof.Machine
end

