-- ==== Sys2Proof/Machine/Bank.lean ====
section
/-! DEFINITION. The Tank at its banks and the Scratchpad's remap table (09_on_chip_memories R242 to R260): reads, partial writes and atomics with SECDED, the register window, the march
test, and fetch errors. -/

namespace Sys2Proof.Machine

/-! ### Arbitration at the bank (R245, R246) -/

/-- Urgency of a request as it is raised (R246): `fill` is how full the requester's FIFO of XC-8, XC-9 or XC-10 is, the emptiest lane for FMT and the fullest for DFM. -/
def urgencyOf (r : Req) (fill : Nat) : Nat :=
  match r with
  | .fmt => if fill < 4 then 2 else if fill < 16 then 1 else 0
  | .dfm => if 28 < fill then 2 else if 24 < fill then 1 else 0
  | .march => 2
  | _ => 0

/-- The ports an operation needs, the first one first: false is the read port, true the write port (R244, R248, R249). -/
def TankOp.ports : TankOp → List Bool
  | .read => [false]
  | .write _ en => if en = 0xFFFF#16 then [true] else [false, true]
  | .atomic _ _ _ => [false, true]

def TankReq.word (q : TankReq) : Nat := q.addr.toNat / 16
def TankReq.bank (q : TankReq) : Nat := wordBank q.word

/-- Places from a rotation pointer to a requester, in code order and round again (R245). -/
def State.distance (s : State) (b : Nat) (port : Bool) (r : Req) : Nat :=
  let p := match s.tnk.ptr.find? (fun (x : (Nat × Bool) × Nat) => x.1 == (b, port)) with | some x => x.2 | none => 0
  (reqPort r + 6 - p % 6) % 6

/-- Does a request come before another (R245): the higher urgency, then the pointer of the first port it needs. -/
def State.beats (s : State) (x y : TankReq) : Bool :=
  let d (q : TankReq) : Nat := s.distance q.bank (q.op.ports.headD false) q.r
  decide (y.urg < x.urg) || (x.urg == y.urg && decide (d x < d y))

/-- Is a request held back by one that has aged to U1 (R246) and is granted by a row still to come. -/
def State.heldBack (s : State) (q : TankReq) : Bool :=
  s.tnk.aged.any (fun (a : Bank × Bool × Req) =>
    a.1.val == q.bank && q.op.ports.contains a.2.1 && a.2.2 != q.r &&
      (q.urg == 0 || (q.urg == 1 && decide (s.distance q.bank a.2.1 a.2.2 < s.distance q.bank a.2.1 q.r))))

/-- The request granted next (R245), among those no aged one holds back; of equals the oldest. -/
def State.winner? (s : State) (l : List TankReq) : Option TankReq :=
  (l.filter (fun q => !(s.heldBack q))).foldl (fun w q => match w with | none => some q | some x => if s.beats q x then some q else some x) none

/-- A granted request: the pointers of its ports move past the winner, and the request no longer ages (R245, R246). -/
def State.granted (s : State) (w : Nat) (ports : List Bool) (r : Req) : State :=
  let b := wordBank w
  let n := (reqPort r + 1) % 6
  let rest := s.tnk.ptr.filter (fun (p : (Nat × Bool) × Nat) => !(p.1.1 == b && ports.contains p.1.2))
  { s with tnk := { s.tnk with
    ptr := if n = 0 then rest else ports.map (fun x => ((b, x), n)) ++ rest
    aged := s.tnk.aged.filter (fun (a : Bank × Bool × Req) => !(a.1.val == b && ports.contains a.2.1 && a.2.2 == r)) } }

/-- Does the bank of a word have its domain on (R117, R266). -/
def State.bankOn (s : State) (b : Nat) : Bool := s.domainOn (if b < 32 then 7 else 8)

/-! ### Reactions of the requesters (R239, R250, R253) -/

/-- The engine and the piece whose words were being read. -/
def State.jobAt (s : State) (w : Nat) (es : List (Fin 4)) : Option (Fin 4 × Job × Nat) :=
  es.findSome? (fun e =>
    match (s.eng e).job with
    | none => none
    | some j => (j.pieces.findIdx? (s.pieceAt w)).map (fun k => (e, j, k)))

/-- The frames of a stream are no longer awaited. -/
def State.dropFrames (s : State) (x : Stream) : State := x.frames.foldl (fun s f => s.dropRow f.ch f.slot) s

/-- FMT abandons the dataset in progress, which is formed again under the next number (R253; log entry 40). -/
def State.fmtLost (s : State) : State :=
  match s.writing? with
  | none => s
  | some x =>
    let s := (s.count F.FMT_CNT_ABANDON 1).dropFrames x
    ({ s with fmt := { s.fmt with streams := s.fmt.streams.filter (fun (y : Stream) => y.ds.num != x.ds.num) } }).reformAll x

/-- DFM decodes the dataset again from tape, which counts as one read retry; with none left the dataset is given up (R253, R317). The rows kept stay (R315). -/
def State.dfmAgain (s : State) : State :=
  match s.rch.dfm with
  | none => s
  | some d => if d.stop = false ∧ (8 ≤ d.tries ∨ s.ladder = []) then s.giveUp d else s.takeRetry

/-- What the requester does when an access of its operation fails with `e`. -/
def State.reqFails (s : State) (r : Req) (ctx : ReqCtx) (w : Nat) (e : Er) : State :=
  match r, ctx with
  | .hif, .read q slot => s.failRead q.val slot e
  | .eth, .drt id => match s.drt? id with | some d => s.drtEnd d e 0 | none => s
  | .eth, .tcp n => if (s.ses n).isOpen = true ∧ isUart n = false then (s.endSession n "END").emit (.tcpClosed n) else s
  | .codec, .read q slot => s.failRead q.val slot e
  | .codec, .record q seq =>
    match s.jobAt w (List.finRange 4) with
    | some (en, j, k) => s.losePiece en j k e
    | none => match s.qmg.recs.find? (fun (x : Rec) => x.qid == q && x.seq == seq && !x.replay) with
      | some x => s.abort [x.uid] e
      | none => s
  | .codec, .block en => match s.jobAt w [en] with | some (_, j, k) => s.losePiece en j k e | none => s
  | .codec, .expand en t ds reads => s.blockFails en e t.val ds reads
  | .fmt, _ => s.fmtLost
  | .dfm, _ => s.dfmAgain
  | .seq, _ => s.warm true false false
  | .window, .window src => match src with | .pf => s.emit (.completerAbort src) | _ => s
  | _, _ => s

/-- A failed access returns its error, and its requester reacts. -/
def State.accessFails (s : State) (r : Req) (ctx : ReqCtx) (w : Nat) (e : Er) : State := (s.emit (.tankError r e)).reqFails r ctx w e

/-! ### Accesses (R247 to R250) -/

/-- Bytes of a Tank address upward, as a value. -/
def State.tankVal (s : State) (a n : Nat) : Nat := leValue (mgetN s.tank a n)

/-- Write the enabled bytes of a word. -/
def putBytes (m : List (Nat × Byte)) (a : Nat) (en : Nat) : List Byte → List (Nat × Byte)
  | [] => m
  | b :: bs => putBytes (if en % 2 = 1 then mset m a b else m) (a + 1) (en / 2) bs

/-- A word is stored with its enabled bytes. -/
def State.putWord (s : State) (w : Nat) (data en : Nat) : State :=
  { s with tank := putBytes s.tank (16 * w) en (leBytes 16 data) }.freshWord w

/-- A read: its data, or its error (R251 to R253). -/
def State.readWord128 (s : State) (r : Req) (ctx : ReqCtx) (w : Nat) (ecc : Ecc) : State :=
  let c := s.secded r w ecc
  if c.2 then c.1.emit (.tankData r (16 * w) (c.1.tankVal (16 * w) 16)) else c.1.accessFails r ctx w .uncorr

/-- A write: with every byte enabled the word is written in full, else merged into the old word, and refused on one that is uncorrectable (R248). -/
def State.writeWord128 (s : State) (r : Req) (ctx : ReqCtx) (w : Nat) (data : BitVec 128) (en : BitVec 16) (ecc : Ecc) : State :=
  if en = 0xFFFF#16 then s.putWord w data.toNat 0xFFFF
  else
    let c := s.secded r w ecc
    if c.2 then c.1.putWord w data.toNat en.toNat else c.1.accessFails r ctx w .uncorr

/-- Bytes of an atomic (R249). -/
def wideBytes (wide : Bool) : Nat := if wide then 8 else 4

/-- An atomic: the old value is returned and the new one stored, modulo its width (R249); nothing is written where the read fails (R250). -/
def State.atomic (s : State) (r : Req) (ctx : ReqCtx) (addr : Nat) (wide : Bool) (ecc : Ecc) (new : Nat → Nat) : State :=
  let w := addr / 16
  let n := wideBytes wide
  let c := s.secded r w ecc
  if c.2 then
    let old := c.1.tankVal addr n
    let t := { c.1 with tank := msetL c.1.tank addr (leBytes n (new old)) }
    (t.freshWord w).emit (.tankData r addr old)
  else c.1.accessFails r ctx w .uncorr

/-- A request is granted and carried out. -/
def State.perform (s : State) (q : TankReq) : State :=
  let s := s.granted q.word q.op.ports q.r
  match q.op with
  | .read => s.readWord128 q.r q.ctx q.word q.ecc
  | .write data en => s.writeWord128 q.r q.ctx q.word data en q.ecc
  | .atomic wide swap v => s.atomic q.r q.ctx q.addr.toNat wide q.ecc (fun old => if swap then v.toNat else old + v.toNat)

/-- Requests are granted one after another until none is left or each is held back (R245). -/
def State.grantAll (s : State) : Nat → State
  | 0 => s
  | n + 1 =>
    match s.winner? s.tnk.waitq with
    | none => s
    | some q => State.grantAll ({ s with tnk := { s.tnk with waitq := s.tnk.waitq.erase q } }.perform q) n

/-- The urgency of a request as it is presented: one that has aged is at U1 at least (R246). -/
def State.presented (s : State) (q : TankReq) : TankReq :=
  if s.tnk.aged.any (fun (a : Bank × Bool × Req) => a.1.val == q.bank && q.op.ports.contains a.2.1 && a.2.2 == q.r) then { q with urg := max 1 q.urg } else q

/-- A request is presented to its bank; one that reaches a bank whose domain is off finds none (R266). -/
def State.presentReq (s : State) (q : TankReq) : State :=
  if s.bankOn q.bank = false then s
  else
    let x := s.presented q
    let s := { s with tnk := { s.tnk with
      aged := s.tnk.aged.filter (fun (a : Bank × Bool × Req) => !(a.1.val == q.bank && q.op.ports.contains a.2.1 && a.2.2 == q.r))
      waitq := s.tnk.waitq ++ [x] } }
    s.grantAll s.tnk.waitq.length

/-- REQUEST_AGE_EXPIRY (R246): a normal request that waits rises to U1; one whose grant is a row to come holds the others back from now on. -/
def execRequestAgeExpiry (b : Bank) (write : Bool) (r : Req) (s : State) : Host.Outcome State Fault Refusal :=
  let mine (q : TankReq) : Bool := q.bank == b.val && q.op.ports.contains write && q.r == r
  if s.tnk.waitq.any mine = true then
    let s := { s with tnk := { s.tnk with waitq := s.tnk.waitq.map (fun q => if mine q then { q with urg := max 1 q.urg } else q) } }
    .next (s.grantAll s.tnk.waitq.length)
  else if s.tnk.aged.contains (b, write, r) then .next s
  else .next { s with tnk := { s.tnk with aged := (b, write, r) :: s.tnk.aged } }

/-- TANK_READ (R251 to R253). -/
def execTankRead (r : Req) (ctx : ReqCtx) (addr : BitVec 25) (fill : Nat) (ecc : Ecc) (s : State) : Host.Outcome State Fault Refusal :=
  .next (s.presentReq ⟨r, ctx, addr, .read, ecc, urgencyOf r fill⟩)

/-- TANK_PARTIAL_WRITE (R248). -/
def execTankPartialWrite (r : Req) (ctx : ReqCtx) (addr : BitVec 25) (data : BitVec 128) (enables : BitVec 16) (fill : Nat) (ecc : Ecc) (s : State) : Host.Outcome State Fault Refusal :=
  .next (s.presentReq ⟨r, ctx, addr, .write data enables, ecc, urgencyOf r fill⟩)

/-- An atomic is presented (R249, R250): misaligned, it is not executed; a SEQ requester then only traps with ER 712, and any other ends its operation with status 712. -/
def State.presentAtomic (s : State) (q : TankReq) (wide : Bool) : State :=
  if s.bankOn q.bank = false then s
  else if q.addr.toNat % wideBytes wide ≠ 0 then (if q.r = .seq then s.log (errRec .align .tnk []) else s.accessFails q.r q.ctx q.word .align)
  else s.presentReq q

/-- TANK_ATOMIC_ADD: modulo 2^32 or 2^64. -/
def execTankAtomicAdd (r : Req) (ctx : ReqCtx) (addr : BitVec 25) (wide : Bool) (operand : DWord) (fill : Nat) (ecc : Ecc) (s : State) : Host.Outcome State Fault Refusal :=
  .next (s.presentAtomic ⟨r, ctx, addr, .atomic wide false operand, ecc, urgencyOf r fill⟩ wide)

/-- TANK_ATOMIC_SWAP. -/
def execTankAtomicSwap (r : Req) (ctx : ReqCtx) (addr : BitVec 25) (wide : Bool) (operand : DWord) (fill : Nat) (ecc : Ecc) (s : State) : Host.Outcome State Fault Refusal :=
  .next (s.presentAtomic ⟨r, ctx, addr, .atomic wide true operand, ecc, urgencyOf r fill⟩ wide)

/-! ### The register window (TNK.WADDR, TNK.WDATA) -/

/-- What a word reads as before READY: its reset value (R121), in a tenant window as R131 to R134 give it. -/
def resetView (src : Src) (off : Nat) : Word :=
  match src with
  | .vf t => if off = 0x2000 then BitVec.ofNat 32 (2 ^ 28 + t.val) else if 0x8000 ≤ off ∧ off < 0x8400 ∧ off % 16 = 12 then 1#32 else 0#32
  | _ => if off = 0x1A000 then 0x90000000#32 else RegMap.resetWord off

/-- A host's read that no block answers: all ones during a warm reset (R116), the register's reset value before READY (R121), nothing from a device whose host side is off. -/
def State.closedRead (s : State) (src : Src) (off : Nat) : State :=
  if s.boot.warming then s.emit (.readData src off 0xFFFFFFFF#32)
  else if s.domainOn 1 && !s.pw.halted then s.emit (.readData src off (resetView src off))
  else s

/-- The four parts of a word. -/
def wordParts (v : Nat) : List Word := [BitVec.ofNat 32 v, BitVec.ofNat 32 (v / 2 ^ 32), BitVec.ofNat 32 (v / 2 ^ 64), BitVec.ofNat 32 (v / 2 ^ 96)]

/-- A read of a part: WDATA0 reads the word and latches all four; none when the word is uncorrectable (R253). -/
def State.winRead (s : State) (part : Nat) (ecc : Ecc) : State × Option Word :=
  if s.bit F.TNK_CTRL_WINEN = false then (s, some 0#32)
  else if part = 0 then
    let w := s.getF F.TNK_WADDR_ADDR
    if s.bankOn (wordBank w) = false then (s, some 0#32)
    else
      let c := (s.granted w [false] .window).secded .window w ecc
      if c.2 then
        let ps := wordParts (c.1.tankVal (16 * w) 16)
        ({ c.1 with tnk := { c.1.tnk with parts := ps.drop 1 } }, some (ps.headD 0#32))
      else (c.1, none)
  else (s, some (s.tnk.parts.getD (part - 1) 0#32))

/-- A write of a part: the parts above the first are staged, and WDATA0 writes the whole word. -/
def State.winWrite (s : State) (part : Nat) (v : Word) : WRes :=
  if s.bit F.TNK_CTRL_WINEN = false then .refuse .badarg none
  else if part = 0 then
    let w := s.getF F.TNK_WADDR_ADDR
    let st (i : Nat) : Nat := (s.tnk.stage.getD i 0#32).toNat
    if s.bankOn (wordBank w) = false then .ok s
    else .ok ((s.granted w [true] .window).putWord w (v.toNat + 2 ^ 32 * st 0 + 2 ^ 64 * st 1 + 2 ^ 96 * st 2) 0xFFFF)
  else .ok { s with tnk := { s.tnk with stage := s.tnk.stage.set (part - 1) v } }

/-- TANK_WINDOW_ACCESS: a PF read of an uncorrectable word is answered with a Completer Abort (R253). -/
def execTankWindowAccess (src : Src) (write : Bool) (part : Fin 4) (v : Word) (ecc : Ecc) (s : State) : Host.Outcome State Fault Refusal :=
  match src with
  | .vf _ => .next s
  | _ =>
    if s.pfOpen src = false then .next (if write then s.pfDrop src else s.closedRead src (R.TNK_WDATA part.val))
    else if write then .next (s.apply src (s.winWrite part.val v))
    else match s.winRead part.val ecc with
      | (t, some x) => .next (t.emit (.readData src (R.TNK_WDATA part.val) x))
      | (t, none) => .next (t.accessFails .window (.window src) (s.getF F.TNK_WADDR_ADDR) .uncorr)

/-! ### The march test (R258 to R260) -/

/-- A run starts: its bank is fenced from allocation, and the result register tells of no result (TNK.TRES). On a bank fenced already it ends as a failure (R260). -/
def State.startMarch (s : State) (b : Nat) : State :=
  let s := { s with tnk := { s.tnk with march := some ⟨b, 0, 0, s.tnk.fenced.contains b⟩ } }
  (s.wr R.TNK_TRES 0#32).setF F.TNK_TRES_BANK b

/-- A PF write of TNK.TEST. -/
def State.wTankTest (s : State) (v : Word) : WRes :=
  let b := getBits v.toNat 0 6
  if getBits v.toNat 16 16 ≠ 0x4C59 then .refuse .badarg none
  else if s.tnk.march.isSome = true ∨ s.boot.testing = true then .refuse .testbusy (some { errRec .testbusy .tnk [] with src := .pf })
  else if s.bankOn b = false then .ok s
  else .ok (s.startMarch b)

/-- TEST TANK (R91, R258). -/
def execTestTank (via : Via) (bank : Bank) (s : State) : Host.Outcome State Fault Refusal :=
  match via with
  | .pf v => if s.pfOpen .pf = false then .next (s.pfDrop .pf) else .next (s.apply .pf (s.wTankTest v))
  | .line ln =>
    .next (s.verb ln .service false
      (if s.pwr ≠ .run then .er .pwrstate []
       else if s.tnk.march.isSome = true ∨ s.boot.testing = true then .er .testbusy []
       else
         let t := s.startMarch bank.val
         .ok { t with con := { t.con with opTank := some ln } } [] startedItems))

/-- The words of a row are copied: those with errors are told (R251, R252, R259). -/
def State.copyWords (s : State) : List Nat → State
  | [] => s
  | w :: ws => State.copyWords (s.secded .march w .clean).1 ws

def State.copyRow (s : State) (words : List Nat) : State := s.copyWords (words.filter (fun w => s.tnk.ce.contains w || s.tnk.ue.contains w))

/-- A row is written back with fresh check bits; a word that could not be read stays poisoned (R259). -/
def State.restoreRow (s : State) (words : List Nat) : State :=
  { s with tnk := { s.tnk with ce := s.tnk.ce.filter (fun w => !(words.contains w)) } }

/-- The spare row a row stands on. -/
def State.spareOf (s : State) (bank row : Nat) : Option Spare := s.tnk.spares.find? (fun (x : Spare) => x.bank == bank && x.row == row)

/-- A spare row has failed: it is used no more (R259). -/
def State.badSpare (s : State) (bank idx : Nat) : State :=
  if s.tnk.badSpares.contains (bank, idx) then s else { s with tnk := { s.tnk with badSpares := (bank, idx) :: s.tnk.badSpares } }

/-- A failing row takes a spare with ER 703, in place of the spare it stood on; without one its bank is fenced and it stays where it is (R259). -/
def State.marchFail (s : State) (m : March) (row : Nat) : State × March :=
  let s := match s.spareOf m.bank row with | some x => s.badSpare m.bank x.idx | none => s
  match s.freeSpare m.bank with
  | none => (s.fence m.bank, { m with failed := true })
  | some _ =>
    let s := { s with tnk := { s.tnk with spares := s.tnk.spares.filter (fun (x : Spare) => !(x.bank == m.bank && x.row == row)) } }
    ((s.spareRow m.bank row).1.log (errRec .spare .tnk [⟨"BANK", .num m.bank⟩, ⟨"ROW", .num row⟩]), { m with repl := m.repl + 1 })

/-- One row of a burst: copied, tested and written back (R259). -/
def State.marchRow (s : State) (m : March) (row : Nat) (bad : Bool) : State × March :=
  let words := (List.range 64).map (fun i => rowWord m.bank row + i)
  let s := (s.copyRow words).restoreRow words
  if bad then s.marchFail m row else (s, m)

/-- The rows of a burst, one after another (R259). -/
def State.marchRows (s : State) (bad : List Nat) : March → List Nat → State × March
  | m, [] => (s, m)
  | m, row :: rows =>
    let c := s.marchRow m row (bad.contains row)
    State.marchRows c.1 bad c.2 rows

/-- The spare rows of a burst: one in use holds the words of the row it replaces; a free one that fails is used no more (R258, R259). -/
def State.marchSpares (s : State) (bad : List Nat) : March → List Nat → State × March
  | m, [] => (s, m)
  | m, i :: is =>
    let c := match s.tnk.spares.find? (fun (x : Spare) => x.bank == m.bank && x.idx == i) with
      | some x => s.marchRow m x.row (bad.contains i)
      | none => (if bad.contains i then s.badSpare m.bank i else s, m)
    State.marchSpares c.1 bad c.2 is

/-- MARCH_RUN_END (R260). -/
def State.endMarch (s : State) (m : March) : State :=
  let ln := s.con.opTank
  let s := { s with tnk := { s.tnk with march := none }, con := { s.con with opTank := none } }
  let s := ((s.setF F.TNK_TRES_DONE 1).setF F.TNK_TRES_FAIL (if m.failed then 1 else 0)).setF F.TNK_TRES_BANK m.bank
  let s := (s.setF F.TNK_TRES_REPL (min 16 m.repl)).setF F.TNK_TRES_CODE (if m.failed then 702 else 0)
  s.done ln (resultItems (!m.failed) Er.bankfence.code)

/-- MARCH_BURST: `badRows` are the rows that fail, in the two last bursts the spare rows 0 to 15. -/
def execMarchBurst (badRows : List Nat) (s : State) : Host.Outcome State Fault Refusal :=
  match s.tnk.march with
  | none => .next s
  | some m =>
    let first := 8 * (m.burst % 64)
    let rows := (List.range 8).map (fun i => first + i)
    let c := if m.burst < 64 then s.marchRows badRows m rows else s.marchSpares badRows m rows
    let m' := { c.2 with burst := m.burst + 1 }
    .next (if m.burst < 65 then { c.1 with tnk := { c.1.tnk with march := some m' } } else c.1.endMarch m')

/-- A run is abandoned: its fence is lifted, without a result (R260). -/
def State.dropMarch (s : State) : State := { s with tnk := { s.tnk with march := none }, con := { s.con with opTank := none } }

/-! ### The Scratchpad (R256, R257) -/

/-- Bank and word index of a Scratchpad byte address. -/
def spdBank (a : Nat) : Nat := a / 65536 % 4
def spdWord (a : Nat) : Nat := a / 4 % 16384

/-- SPD.ELOG takes an error; a correctable one does not overwrite an uncorrectable one that is still VALID (R251, R256). -/
def State.spdElog (s : State) (ue fetch : Bool) (a : Nat) : State :=
  if (!ue && s.bit F.SPD_ELOG_VALID && s.bit F.SPD_ELOG_UE) = true then s
  else
    let s := ((s.setF F.SPD_ELOG_VALID 1).setF F.SPD_ELOG_UE (if ue then 1 else 0)).setF F.SPD_ELOG_FETCH (if fetch then 1 else 0)
    (s.setF F.SPD_ELOG_BANK (spdBank a)).setF F.SPD_ELOG_WORD (spdWord a)

/-- BANK and WORD of an error in the Scratchpad. -/
def spdItems (a : Nat) : List Item := [⟨"BANK", .num (spdBank a)⟩, ⟨"WORD", .num (spdWord a)⟩]

/-- May ER 701 be written for a Scratchpad bank now (R251, R256). -/
def State.spdCorrDue (s : State) (b : Nat) : Bool :=
  s.bit F.TNK_CTRL_CELOG && (match s.spd.corrAt.find? (fun (p : Nat × Nat) => p.1 == b) with | some p => decide (p.2 + 1000000 ≤ s.us) | none => true)

/-- A corrected access of the Scratchpad: counted, held in SPD.ELOG, and told at most once a second for a bank (R251, R256). -/
def State.spdCorrected (s : State) (fetch : Bool) (a : Nat) : State :=
  let b := spdBank a
  let s := (s.count F.SPD_ECNT_CE 1).spdElog false fetch a
  if s.spdCorrDue b then
    { s with spd := { s.spd with corrAt := (b, s.us) :: s.spd.corrAt.filter (fun (p : Nat × Nat) => p.1 != b) } }.log (errRec .corr .spd (spdItems a))
  else s

/-- What an access of a word meets: a remapped word whose value was lost is poisoned (SPD.RMADD). -/
def State.spdEcc (s : State) (a : Nat) (ecc : Ecc) : Ecc :=
  if s.spd.remap.any (fun (x : Remap) => x.bank == spdBank a && x.word == spdWord a && x.poison) then .uncorr else ecc

/-- Is the aligned 4 KiB of an address being reloaded (R257). -/
def State.spdReloading (s : State) (a : Nat) : Bool := s.spd.wait.any (fun (p : Nat × Nat × Bool) => p.2.2 && p.2.1 / 4096 == a / 4096)

/-- A sequencer waits for a reload; `found` when its own fetch failed. -/
def State.spdWait (s : State) (seqr a : Nat) (found : Bool) : State := { s with spd := { s.spd with wait := s.spd.wait ++ [(seqr, a, found)] } }

/-- SCRATCHPAD_FETCH_ERROR (R256, R257): an access by a sequencer that does not wait already. A failing fetch traps it until the reload ends, and one that fetches from that 4 KiB meanwhile waits
too; a failing data read traps as in R253. -/
def execScratchpadFetchError (seqr : Fin 4) (addr : BitVec 18) (fetch : Bool) (ecc : Ecc) (s : State) : Host.Outcome State Fault Refusal :=
  let a := addr.toNat
  if s.domainOn 0 = false ∨ (s.spd.wait.any (fun (p : Nat × Nat × Bool) => p.1 == seqr.val)) = true then .next s
  else if fetch = true ∧ s.spdReloading a = true then .next (s.spdWait seqr.val a false)
  else match s.spdEcc a ecc with
    | .clean => .next s
    | .corr => .next (s.spdCorrected fetch a)
    | .uncorr =>
      let s := (s.count F.SPD_ECNT_UE 1).spdElog true fetch a
      .next (if fetch then s.spdWait seqr.val a true else (s.log (errRec .uncorr .spd (spdItems a))).warm true false false)

/-- Is a remap table full (R257). -/
def State.spdFull (s : State) (bank : Nat) : Bool := decide (8 ≤ (s.spd.remap.filter (fun (x : Remap) => x.bank == bank)).length)

def State.spdMapped (s : State) (bank word : Nat) : Bool := s.spd.remap.any (fun (x : Remap) => x.bank == bank && x.word == word)

/-- A remap entry is added; `poison` marks a word whose value was lost (SPD.RMADD). -/
def State.remapAdd (s : State) (bank word : Nat) (poison : Bool) : State :=
  if s.spdMapped bank word then s else { s with spd := { s.spd with remap := s.spd.remap ++ [⟨bank, word, false, poison⟩] } }

/-- A full table: ER 713, and firmware performs a warm reset with KEEPTANK (R257). -/
def State.remapFull (s : State) : State := (s.log (errRec .remapfull .spd [])).warm true false false

/-- The aligned 4 KiB around an address come from the booted image again (R257; log entry 44). -/
def State.reloadSpd (s : State) (a : Nat) : State :=
  let base := a / 4096 * 4096
  let img := slotBytes (if s.boot.bootedB then s.boot.slotB else s.boot.slotA)
  { s with spd := { s.spd with mem := msetL s.spd.mem base ((img.drop base).take 4096) } }

/-- Reload and remap for each waiting sequencer whose fetch failed; whether a table was full. -/
def State.reloads (s : State) : List (Nat × Nat × Bool) → State × Bool
  | [] => (s, false)
  | p :: ps =>
    if p.2.2 = false then State.reloads s ps
    else
      let a := p.2.1
      let s := s.reloadSpd a
      if s.spdFull (spdBank a) && !(s.spdMapped (spdBank a) (spdWord a)) then (s, true) else State.reloads (s.remapAdd (spdBank a) (spdWord a) false) ps

/-- SCRATCHPAD_RELOAD_DONE (R257). -/
def execScratchpadReloadDone (s : State) : Host.Outcome State Fault Refusal :=
  let r := s.reloads s.spd.wait
  let s := { r.1 with spd := { r.1.spd with wait := [] } }
  .next (if r.2 then s.remapFull else s)

/-- A write of SPD.RMADD. -/
def State.wRmadd (s : State) (v : Word) : WRes :=
  let b := getBits v.toNat 14 2
  let w := getBits v.toNat 0 14
  if s.spdMapped b w then .ok s
  else if s.spdFull b then .refuse .remapfull none
  else .ok (s.remapAdd b w (s.spd.wait.any (fun (p : Nat × Nat × Bool) => p.2.2 && spdBank p.2.1 == b && spdWord p.2.1 == w)))

/-- SPD_REMAP_ADD: with a full table the write is ignored and the reset follows whoever wrote it (R257). -/
def execSpdRemapAdd (src : Src) (v : Word) (s : State) : Host.Outcome State Fault Refusal :=
  match src with
  | .vf _ => .next s
  | _ =>
    if s.pfOpen src = false then .next (s.pfDrop src)
    else match s.wRmadd v with
      | .ok t => .next t
      | .refuse _ _ => .next s.remapFull

end Sys2Proof.Machine
end

