-- ==== Sys2Proof/Machine/RegRead.lean ====
section
/-! DEFINITION. What a register reads as (00_scope R13 to R16, R528; the register tables of every chapter): registers that show the state of their
block, RC fields, the read latches of 64-bit registers, and the tenant windows (05_tenants R131 to R134). -/

namespace Sys2Proof.Machine

/-! ### Fields in words -/

/-- A word of fields, each given by its lowest bit and its value. -/
def packWord : List (Nat × Nat) → Nat
  | [] => 0
  | (lo, v) :: l => v * 2 ^ lo + packWord l

/-- A count in a saturating field. -/
def satTo (width v : Nat) : Nat := min (2 ^ width - 1) v

/-- A set of numbers below `n` as a mask. -/
def maskOf (n : Nat) (p : Nat → Bool) : Nat := ((List.range n).map (fun k => oneIf (p k) * 2 ^ k)).sum

/-- Bytes `4k` to `4k + 3` of a big-endian structure, byte `4k` in [31:24] (ERR.RDATAn, SEC.CMACn). -/
def beWord (l : List Byte) (k : Nat) : Nat := beValue ((l.drop (4 * k)).take 4)

/-! ### ERR records -/

/-- The record that ERR.RSEL selects, while it is held. -/
def State.selected (s : State) : Option ErrRec := s.err.recs.find? (fun (r : ErrRec) => r.seq == s.getF F.ERR_RSEL_SEQ)

/-! ### The save list (R410, R411) -/

/-- Words of the save list, and where it stands in the retention SRAM. -/
def slWords : Nat := 4032
def slBase : Nat := 0x100

def State.slWord (s : State) (k : Nat) : Nat := if k < slWords then leValue (mgetN s.pw.ret (slBase + 4 * k) 4) else 0

def State.setSlWord (s : State) (k v : Nat) : State :=
  if k < slWords then { s with pw := { s.pw with ret := msetL s.pw.ret (slBase + 4 * k) (leBytes 4 v) } } else s

/-! ### Registers that show the state of their block -/

def pwrCode : Pwr → Nat
  | .run => 0 | .standby => 1 | .park => 2 | .doze => 3 | .sleep => 4 | .off => 5

/-- PCL.SSTATn. -/
def State.vSstat (s : State) (n : Nat) : Nat :=
  if h : n < 6 then
    let x := s.ses ⟨n, h⟩
    if x.isOpen = false then 0
    else
      let queued := (x.lines.tail.filter (fun (w : WLine) => match w.kind with | .reject _ => false | .blank => false | _ => true)).length
      packWord [(9, min 4 queued), (8, oneIf x.crc), (7, oneIf (s.con.mlock == some (.sess ⟨n, h⟩))), (5, x.level.num), (4, oneIf x.echo),
        (3, oneIf x.edit), (0, 1)]
  else 0

/-- SCH.TBALt: the token balance of a CONTINUOUS tenant, the deficit of another. -/
def State.vTbal (s : State) (n : Nat) : Nat :=
  if h : n < 256 then
    let t : Tenant := ⟨n, h⟩
    let b := s.bal t
    toField 32 (sat32 (if s.classOf t = 0 then b.tokens else (b.deficit : Int)))
  else 0

/-- RDC.STAT and ENL.STAT. An expansion is one command and a slice of an ENL engine another, so between commands no ENL engine is in either (DESIGN CHOICE, log entry 56). -/
def State.vRdcStat (s : State) : Nat :=
  let each (p : RdcEng → Bool) : Nat := maskOf 4 (fun k => (s.cdc.rdc.toList[k]?).any p)
  packWord [(8, each (fun x => x.ok && !x.dead)), (4, each (fun x => x.job.isSome)), (0, if s.cdc.test.isSome then each (fun x => x.held) else 0)]

def State.vEnlStat (s : State) : Nat := packWord [(8, maskOf 4 (fun k => (s.cdc.enl.toList[k]?).any (fun x => x.ok && !x.dead)))]

/-- TNK.STAT. -/
def State.vTnkStat (s : State) : Nat :=
  let under := match s.tnk.march with | some m => oneIf (!(s.tnk.fenced.contains m.bank)) | none => 0
  packWord [(16, s.freePages), (15, oneIf s.tnk.march.isSome), (8, match s.tnk.march with | some m => m.bank | none => 0), (0, s.tnk.fenced.length + under)]

def State.remapsIn (s : State) (b : Nat) : List Remap := s.spd.remap.filter (fun (x : Remap) => x.bank == b)

/-- SPD.RMAPi: entry i of bank i div 8. -/
def State.vRmap (s : State) (i : Nat) : Nat :=
  match (s.remapsIn (i / 8))[i % 8]? with
  | some x => packWord [(31, 1), (30, oneIf x.fused), (0, x.word)]
  | none => 0

/-- FIX.STAT beside what T6 measured. -/
def State.vFixStat (s : State) : Nat :=
  packWord [(30, match s.fixer with | .ready => 0 | .dumped => 1 | .replay => 2), (29, oneIf (s.pw.halted && s.jrn.st == 1))]

/-- FMT.STAT. -/
def State.vFmtStat (s : State) : Nat :=
  match s.writing? with
  | some x => packWord [(31, 1), (30, oneIf s.fmt.group.isSome), (22, x.ds.nsub), (18, x.ds.pos), (0, x.pool)]
  | none => packWord [(30, oneIf s.fmt.group.isSome)]

/-- The verified chain link of the tenant that SEC.CSEL names. -/
def State.selLink (s : State) : Option Link := s.sec.verified.find? (fun (l : Link) => l.t.val == s.getF F.SEC_CSEL_TENANT)

/-- RCH.LPDATA: four samples of the word that LPADDR names, sample 4k + j in [8j + 7:8j] (R319). -/
def State.vLpdata (s : State) : Nat := leValue ((s.rch.loupe.held.drop (4 * s.getF F.RCH_LPADDR_WORD)).take 4)

/-- CLE.STAT. -/
def State.vCleStat (s : State) : Nat :=
  packWord [(31, s.getF F.CLE_ACCST_FAIL), (9, maskOf 9 (fun n => s.bit (F.CLE_LSTAT_FALLBACK n))), (0, maskOf 9 (fun n => s.getF (F.CLE_LSTAT_FLAGS n) != 0))]

/-- The largest bin of a reel in mA, saturating; a bin is in 1/256 mA (R375a, R384). -/
def peakOf (r : ReelSt) : Nat := satTo 16 ((r.bins.map (fun p => p.2.natAbs)).foldl max 0 / 256)

/-- CLE.LOUTn and CLE.LINTn: the last output and integrator; LINT of LAT is the last stored output of L4. -/
def State.vLout (s : State) (n : Nat) : Nat := match s.cle.loops.toList[n]? with | some l => toField 32 l.out | none => 0
def State.vLint (s : State) (n : Nat) : Nat :=
  match s.cle.loops.toList[n]? with
  | some l => toField 32 (if n = 4 then ((l.secs[3]?).map (fun (b : Biq) => b.y1)).getD 0 else l.i)
  | none => 0

/-- XLK.CTDATAk: the live node with the ID of CTADDR, or else the stale one. -/
def State.vCtdata (s : State) (k : Nat) : Nat :=
  let id := s.getF F.XLK_CTADDR_ID
  match (s.xlk.census.find? (fun (c : Census) => c.id == id && !c.stale)).or (s.xlk.census.find? (fun (c : Census) => c.id == id)) with
  | none => 0
  | some c =>
    match k with
    | 0 => c.uid.toNat / 2 ^ 32
    | 1 => c.uid.toNat % 2 ^ 32
    | 2 => packWord [(16, c.parent % 65536), (14, c.port % 4), (8, c.depth % 64), (7, oneIf c.stale), (6, 1)]
    | _ => c.path % 2 ^ 32

/-- MiB of this node's records that lenders hold. -/
def State.borrowedMiB (s : State) : Nat := (((s.qmg.recs.filter (fun (r : Rec) => r.lent.isSome)).map (fun (r : Rec) => r.length)).sum + 1048575) / 1048576

/-- ERR.STAT. -/
def State.vErrStat (s : State) : Nat :=
  packWord [(31, oneIf s.err.wrap), (16, s.err.recs.length), (0, match s.err.last with | some (_, e) => e.code | none => 0)]

/-- The value of word `w` of entry `i` of a register that shows its block's state; `old` is the word stored for its other fields. -/
def State.derived (s : State) (d : RegDef) (i w old : Nat) : Nat :=
  match d.base with
  | 0x70020 => s.vSstat i
  | 0x60070 => s.eth.ns / 2 ^ (32 * w) % 2 ^ 32
  | 0x20014 => packWord [(16, satTo 16 (s.qAcc i)), (0, satTo 16 (s.qSec i))]
  | 0x20018 => satTo 16 (s.qDur i)
  | 0x28000 => s.resUsed
  | 0x28008 => packWord [(31, oneIf s.secOk), (0, s.qmg.queues.length)]
  | 0x40004 => putBits old 8 8 s.rateSum
  | 0x40500 => s.vTbal i
  | 0x50008 => ((List.finRange 256).map s.vecCount).sum
  | 0x80004 => s.vRdcStat
  | 0x88004 => s.vEnlStat
  | 0x90000 => s.vTnkStat
  | 0x90008 => maskOf 64 (fun b => s.tnk.fenced.contains b) / 2 ^ (32 * w) % 2 ^ 32
  | 0x90100 => putBits old 0 5 (s.sparesOf i)
  | 0xa0000 => packWord [(12, (s.remapsIn 3).length), (8, (s.remapsIn 2).length), (4, (s.remapsIn 1).length), (0, (s.remapsIn 0).length)]
  | 0xa0040 => s.vRmap i
  | 0xb0000 => old % 2 ^ 29 + s.vFixStat
  | 0xb000c => satTo 32 s.jrn.dumps
  | 0xb0010 => satTo 32 ((s.jrn.total + dumpUnits - 1) / dumpUnits)
  | 0xc0004 => s.vFmtStat
  | 0xc0008 => match s.writing? with | some x => x.ds.num | none => 0
  | 0xc0208 => match s.selLink with | some l => l.no | none => 0xFFFFFFFF
  | 0xc020c => match s.selLink with | some l => l.ds | none => 0xFFFFFFFF
  | 0xc0210 => match s.selLink with | some l => beWord l.mac i | none => 0
  | 0xd002c => s.vLpdata
  | 0xd0100 => putBits old 31 1 (oneIf (s.inputOn i))
  | 0xf0800 => putBits old 16 4 (maskOf 4 (fun b => allUnits.any (fun u => unitBit u == b && s.pinLow u)))
  | 0x100000 => s.vCleStat
  | 0x100024 => packWord [(16, peakOf s.cle.sup), (0, peakOf s.cle.tku)]
  | 0x100104 => putBits old 27 1 (oneIf (s.loopOn i))
  | 0x100110 => s.vLout i
  | 0x100114 => s.vLint i
  | 0x110004 => putBits (putBits old 29 3 (pwrCode s.pwr)) 28 1 (oneIf (s.pw.entry.isSome || s.pw.leave.isSome || s.pw.exiting))
  | 0x110010 => putBits old 29 1 (oneIf s.pw.ign)
  | 0x110018 => putBits (putBits (putBits old 31 1 (oneIf s.pw.pfail)) 30 1 (oneIf s.pw.holdup)) 0 16 (satTo 16 s.jrn.lastMs)
  | 0x110024 => s.slWord (s.getF F.PWR_SLADDR_WORD)
  | 0x120054 => s.vCtdata i
  | 0x120090 => putBits old 8 5 (s.lentPages / 256)
  | 0x120094 => putBits old 8 5 (min 31 s.borrowedMiB)
  | 0x130000 => s.vErrStat
  | 0x130004 => match s.err.last with | some (q, _) => q | none => 0xFFFFFFFF
  | 0x130008 => s.err.firstSeq
  | 0x130014 => oneIf s.selected.isSome * 2 ^ 31
  | 0x130040 => match s.selected with | some r => beWord (recWhole r) i | none => 0
  | 0x90024 =>
    if s.bit F.TNK_CTRL_WINEN = false then 0
    else if i = 0 then ((wordParts (s.tankVal (16 * s.getF F.TNK_WADDR_ADDR) 16)).headD 0#32).toNat
    else (s.tnk.parts.getD (i - 1) 0#32).toNat
  | _ => old

/-! ### The tenant windows (R131 to R134) -/

/-- QSTATn, word `k` of slot `n`. -/
def State.vQstat (s : State) (t : Tenant) (n k : Nat) : Nat :=
  match s.slotQueue? t n with
  | none => 0
  | some q =>
    match k with
    | 0 => packWord [(31, 1), (30, oneIf q.drt), (29, oneIf q.shortTmo), (28, oneIf q.bound.isSome), (0, q.id.val)]
    | 1 => packWord [(16, q.tail), (0, q.head)]
    | 2 => q.nextReported % 2 ^ 32
    | _ => q.nextReported / 2 ^ 32

/-- TSTAT. -/
def State.vTstat (s : State) (t : Tenant) : Nat :=
  packWord [(31, if t = 0 then 1 else oneIf (s.enabled t)), (30, oneIf (s.fn t).resetting), (28, s.classOf t), (21, (s.ownedBy t).length),
    (20, oneIf (s.drtTen t)), (0, t.val)]

/-- The MSI-X table and the pending bits of a function, from offset `o` of its table on (R130). -/
def State.vMsix (s : State) (t : Tenant) (o : Nat) : Nat :=
  if o < 0x400 then (s.msixRd t ⟨o / 16 % 64, Nat.mod_lt _ (by decide)⟩ ⟨o / 4 % 4, Nat.mod_lt _ (by decide)⟩).toNat
  else if o = 0x1000 ∨ o = 0x1004 then maskOf 32 (fun k => (s.fn t).pend.any (fun (e : Fin 64) => e.val == k + 8 * (o - 0x1000)))
  else 0

/-- A word of the window of a tenant; the MSI-X structures lie in the windows of VFs only. -/
def State.vWindow (s : State) (t : Tenant) (off : Nat) : Nat :=
  if off < 0x100 then (match s.slotQueue? t (off / 4) with | some q => q.tail | none => 0)
  else if 0x1000 ≤ off ∧ off < 0x1400 then s.vQstat t ((off - 0x1000) / 16) (off % 16 / 4)
  else if off = 0x2000 then s.vTstat t
  else if off = 0x2004 then packWord [(16, (s.fn t).baddb), (0, (s.fn t).confl)]
  else if t.val ≠ 0 ∧ 0x8000 ≤ off then s.vMsix t (off - 0x8000)
  else 0

/-- The PF's MSI-X table and PBA in the PF BAR0 (R130). -/
def pfMsix : Nat := 0x58000
def inPfMsix (off : Nat) : Bool := decide (pfMsix ≤ off ∧ off < pfMsix + 0x1008)

/-- The tenant 0 window in the PF BAR0 (R528). -/
def win0 : Nat := 0x18000
def inWin0 (off : Nat) : Bool := decide (win0 ≤ off ∧ off < win0 + 0x8000)

/-! ### Reading -/

/-- What a word of the PF BAR0 reads as, with no side effect: reserved, WO and unimplemented places read 0 (R13 to R15). -/
def State.viewWord (s : State) (off : Nat) : Word :=
  if inWin0 off then BitVec.ofNat 32 (s.vWindow 0 (off - win0))
  else if inPfMsix off then BitVec.ofNat 32 (s.vMsix 0 (off - pfMsix))
  else match RegMap.find off with
    | none => 0#32
    | some (d, i, w) => BitVec.ofNat 32 (s.derived d i w (s.rd off).toNat)

/-- The window and the place in it that an access meets, or none for a register of the PF BAR0. -/
def winAt (src : Src) (off : Nat) : Option (Tenant × Nat) :=
  match src with
  | .vf t => some (t, off)
  | _ => if inWin0 off then some (0, off - win0) else none

/-- What a word reads as for a source. -/
def State.viewFor (s : State) (src : Src) (off : Nat) : Word :=
  match winAt src off with
  | some (t, o) => BitVec.ofNat 32 (s.vWindow t o)
  | none => s.viewWord off

/-- Does a word of a register hold RC fields (R82). -/
def rcIn (d : RegDef) (w : Nat) : Bool := d.fields.any (fun (f : FieldDef) => f.acc == .rc && f.lo / 32 == w)

/-- The word with its RC fields cleared. -/
def clearFields (w : Nat) : List FieldDef → Nat → Nat
  | [], v => v
  | f :: fs, v => clearFields w fs (if f.acc = .rc ∧ f.lo / 32 = w then putBits v (f.lo % 32) f.width 0 else v)

/-- A read clears the RC fields of the word it meets, in the same cycle (R13). -/
def State.clearRc (s : State) (src : Src) (off : Nat) : State :=
  match winAt src off with
  | some (t, o) => if o = 0x2004 then s.setFn { s.fn t with baddb := 0, confl := 0 } else s
  | none =>
    match RegMap.find off with
    | none => s
    | some (d, _, w) => if rcIn d w then s.wr off (BitVec.ofNat 32 (clearFields w d.fields (s.rd off).toNat)) else s

/-- Is a word half of a 64-bit register (R16, R133): the offset of its low half, and whether it is the high half. -/
def halfOf (src : Src) (off : Nat) : Option (Nat × Bool) :=
  match winAt src off with
  | some (_, o) => if 0x1000 ≤ o ∧ o < 0x1400 ∧ 8 ≤ o % 16 then (if o % 16 < 12 then some (off, false) else some (off - 4, true)) else none
  | none =>
    match RegMap.find off with
    | some (d, _, w) => if d.wide then (if w = 0 then some (off, false) else some (off - 4, true)) else none
    | none => none

/-- The read latches without those of a source. -/
def State.noLatch (s : State) (src : Src) : List Latch := s.rlatch.filter (fun (l : Latch) => l.src != src)

/-- A 32-bit read by a source, with its side effects: RC fields are cleared, and the halves of 64-bit registers go by the source's read latch (R16). -/
def State.readWord (s : State) (src : Src) (off : Nat) : State × Word :=
  match halfOf src off with
  | none => (s.clearRc src off, s.viewFor src off)
  | some (low, false) =>
    ({ (s.clearRc src low).clearRc src (low + 4) with rlatch := ⟨src, low, s.viewFor src (low + 4)⟩ :: s.noLatch src }, s.viewFor src low)
  | some (low, true) =>
    match s.rlatch.find? (fun (l : Latch) => l.src == src && l.off == low) with
    | some l => ({ s with rlatch := s.noLatch src }, l.half)
    | none => (s.clearRc src off, s.viewFor src off)

/-- PWR.SLDATA was accessed: SLADDR goes one on. -/
def State.slNext (s : State) : State := s.setF F.PWR_SLADDR_WORD ((s.getF F.PWR_SLADDR_WORD + 1) % 4096)

/-- A read with the side effects of the registers that act on being read: the Tank window (TNK.WDATA) and the save list (PWR.SLDATA); none when the memory word is uncorrectable. -/
def State.readAct (s : State) (src : Src) (off : Nat) : State × Option Word :=
  match winAt src off with
  | some _ => let r := s.readWord src off; (r.1, some r.2)
  | none =>
    if R.TNK_WDATA 0 ≤ off ∧ off < R.TNK_WDATA 4 then s.winRead ((off - R.TNK_WDATA 0) / 4) .clean
    else if off = R.PWR_SLDATA then (s.slNext, some (BitVec.ofNat 32 (s.slWord (s.getF F.PWR_SLADDR_WORD))))
    else let r := s.readWord src off; (r.1, some r.2)

/-- A word of the PF BAR0 is aligned and inside it. -/
def wordOk (off : Nat) : Bool := off % 4 == 0 && decide (off < 0x200000)

/-- The word read goes to its source; an uncorrectable Tank word fails the access (R253). -/
def State.readTo (s : State) (src : Src) (off : Nat) : State :=
  match s.readAct src off with
  | (t, some v) => t.emit (.readData src off v)
  | (t, none) => t.accessFails .window (.window src) (s.getF F.TNK_WADDR_ADDR) .uncorr

/-- A read that no function takes is answered with Unsupported Request while the link's domain works (R127, R134). -/
def State.noFunction (s : State) (src : Src) : State := if s.domainOn 1 && !s.pw.halted then s.emit (.unsupportedRequest src) else s

/-- A read by a source (R13, R16, R100, R116, R121, R127, R134): a host's read above BAR0 is a configuration request; a VF reads its own window while it is enabled; a host reads while the host side
runs, and the GLB registers from the link on. A function in D3hot, or a VF that is not enabled, does not answer. -/
def State.busRead (s : State) (src : Src) (off : Nat) : State :=
  if off % 4 ≠ 0 then s
  else match src with
    | .vf t =>
      if cfgBase ≤ off then s.cfgRead src (off - cfgBase)
      else if s.vfOn t = false ∨ s.d3hot t = true ∨ 0x10000 ≤ off then s.noFunction src
      else if s.hostOn = false then s.closedRead src off
      else let r := s.readWord src off; r.1.emit (.readData src off r.2)
    | .pf =>
      if cfgBase ≤ off then s.cfgRead src (off - cfgBase)
      else if s.d3hot 0 = true then s.noFunction src
      else if s.hostOn = true ∨ (off < 0x10000 ∧ s.boot.warming = false ∧ s.domainOn 1 = true ∧ s.pw.halted = false) then s.readTo .pf off
      else s.closedRead src off
    | .sess n => s.readTo (.sess n) off
    | .master => s.readTo .master off
    | .fwd nd => s.readTo (.fwd nd) off

/-- The register source of an order, if it is one (R16). -/
def orderSrc : OrderSrc → Option Src
  | .pf => some .pf
  | .vf n => some (.vf n)
  | .sess n _ => some (.sess n)
  | .master _ _ => some .master
  | .remote nd _ => some (.fwd nd)
  | .trip _ => none
  | .drt .. => none
  | .ign => none

/-- Has a source an earlier write that is not decided, or decided and not yet in effect (R68). -/
def State.awaits (s : State) (src : Src) : Bool :=
  s.arb.carried.any (fun (o : Order) => orderSrc o.src == some src) || s.arb.winners.any (fun (o : Order) => orderSrc o.src == some src) || s.arb.losers.any (fun o => orderSrc o == some src)

/-- A read waits until every earlier write of its source has taken effect or been rejected (R68). -/
def State.read (s : State) (src : Src) (off : Nat) : State :=
  if s.awaits src then { s with arb := { s.arb with reads := s.arb.reads ++ [.bus src off] } } else s.busRead src off

/-- RC_FIELD_READ (R13). -/
def execRcFieldRead (src : Src) (off : Nat) (s : State) : Host.Outcome State Fault Refusal := .next (s.read src off)

/-- READ_LOW_HALF (R16). -/
def execReadLowHalf (src : Src) (off : Nat) (s : State) : Host.Outcome State Fault Refusal := .next (s.read src off)

/-- READ_HIGH_HALF (R16). -/
def execReadHighHalf (src : Src) (off : Nat) (s : State) : Host.Outcome State Fault Refusal := .next (s.read src off)

end Sys2Proof.Machine
end

