-- ==== Sys2Proof/Machine/RegWrite.lean ====
section
/-! DEFINITION. What a register write does (00_scope R13 to R18, and the rules of every chapter that a register names): the writes of registers without a row
of their own, the write latches of 64-bit registers, and every other register write in one place for `POKE`, the save list and the arbiter. -/

namespace Sys2Proof.Machine

/-! ### Power requests (R399, R402, R408) -/

/-- The domains a power state keeps on (R398). -/
def pwrDomains : Pwr → Nat
  | .run => 0x3FF | .standby => 0x387 | .park => 0x205 | .doze => 0x001 | .sleep => 0 | .off => 0

def pwrOf : Nat → Option Pwr
  | 0 => some .run | 1 => some .standby | 2 => some .park | 3 => some .doze | 4 => some .sleep | 5 => some .off | _ => none

/-- The order in which domains are quiesced (R402) and in which they are switched on (R409). -/
def quiesceOrder : List Nat := [6, 5, 4, 3, 9, 2, 1, 8, 7, 0]
def exitOrder : List Nat := [7, 8, 0, 1, 2, 9, 3, 4, 5, 6]

/-- Is a domain switched on (PWR.STAT.DOMAINS). -/
def State.powered (s : State) (d : Nat) : Bool := getBits (s.getF F.PWR_STAT_DOMAINS) d 1 == 1

def keepsOn (p : Pwr) (d : Nat) : Bool := getBits (pwrDomains p) d 1 == 1

/-- Is an entry or an exit in progress (R408). -/
def State.pwrBusy (s : State) : Bool := s.pw.entry.isSome || s.pw.leave.isSome || s.pw.exiting

/-- An entry or an exit begins, as the request is decided (R399, R401, R402); an entry clears the wake latch, and a `TEST BOOT` run is abandoned (R106). The state record keeps its target (R411). -/
def State.pwrBegin (s : State) (p : Pwr) (who : Asker) : State :=
  let s := match who with | .line ln => { s with con := { s.con with opPower := some ln } } | _ => s
  let s := { s with pw := { s.pw with rec' := { s.pw.rec' with target := p } } }
  if pwrCode s.pwr < pwrCode p then
    let left := quiesceOrder.filter (fun d => s.powered d && !(keepsOn p d))
    let s := s.dropBootTest
    { s with pw := { s.pw with wake := none, entry := some ⟨p, who, .ap0, left, [], []⟩ } }
  else { s with pw := { s.pw with leave := some (p, none) } }

/-- A write of PWR.CTL. -/
def State.wPwrctl (s : State) (v : Word) : WRes :=
  if getBits v.toNat 16 16 ≠ 0x4C59 then .refuse .badarg none
  else match pwrOf (getBits v.toNat 0 3) with
    | none => .refuse .badarg none
    | some p =>
      if s.pwrBusy = true then .refuse .pwrbusy (some { errRec .pwrbusy .pwr [] with src := .pf })
      else if p = s.pwr then .ok s
      else .ok (s.pwrBegin p .pf)

/-! ### Registers with rules of their own and no row -/

/-- ETH.DRTCFG: EN written 0 ends every DRT session (R155). -/
def State.wDrtcfg (s : State) (v : Word) : WRes :=
  .ok ((if s.bit F.ETH_DRTCFG_EN = true ∧ getBits v.toNat 31 1 = 0 then s.drtOff else s).storeAt R.ETH_DRTCFG v)

/-- Tenants whose bit of ETH.DRTTENk goes from 1 to 0. -/
def State.drtTensOff (s : State) : List Tenant → State
  | [] => s
  | t :: ts => State.drtTensOff (s.drtTenOff t) ts

/-- ETH.DRTTENk: the sessions of each tenant whose bit is cleared end (R125, R155). -/
def State.wDrtten (s : State) (k : Nat) (v : Word) : WRes :=
  let gone := (List.finRange 256).filter (fun (t : Tenant) => t.val / 32 == k && s.drtTen t && getBits v.toNat (t.val % 32) 1 == 0)
  .ok ((s.drtTensOff gone).storeAt (R.ETH_DRTTEN k) v)

/-- ETH.TCFG: with PRIO1 at 255 the device is never grandmaster (R139). -/
def State.wTcfg (s : State) (v : Word) : WRes :=
  let s := s.storeAt R.ETH_TCFG v
  .ok (if s.getF F.ETH_TCFG_PRIO1 = 255 then s.setF F.ETH_TSTAT_GM 0 else s)

/-- QMG.QCFGn while the queue exists (R186). -/
def State.wQcfg (s : State) (n : Nat) (v : Word) : WRes :=
  if s.bit (F.QMG_QCFG_VALID n) = true then .refuse .locked none else .ok (s.storeAt (R.QMG_QCFG n) v)

/-- QMG.QCMDn. -/
def State.wQcmd (s : State) (n : Nat) (v : Word) : WRes :=
  if h : n < 1024 then
    let op := getBits v.toNat 0 2
    .ok (if op = 1 then s.qcmdCreate ⟨n, h⟩ else if op = 2 then s.qcmdDelete ⟨n, h⟩ else s)
  else .ok s

/-- MDR.ACFGa, MDR.ARATEa, MDR.ASTARTa and MDR.HCFG: ignored while their unit is energised (R373). -/
def State.wMdr (s : State) (u : MUnit) (off : Nat) (v : Word) : WRes :=
  if s.unitOn u = true then .refuse .motstate none else .ok (s.storeAt off v)

def axisUnit : Nat → MUnit
  | 0 => .supply | 1 => .takeup | _ => .fan

/-- PWR.SLDATA: the word at SLADDR, and SLADDR goes one on; words above 4,031 do not exist. -/
def State.wSldata (s : State) (v : Word) : WRes := .ok ((s.setSlWord (s.getF F.PWR_SLADDR_WORD) v.toNat).slNext)

/-- ERR.CTL (R470). -/
def State.wErrctl (s : State) (v : Word) : WRes :=
  if getBits v.toNat 16 16 ≠ 0x4C59 then .refuse .badarg none else .ok (if getBits v.toNat 0 1 = 1 then s.clearLog else s)

/-- XLK.CCMD: with GO at 1 the master sends the command, its arguments from CARG0 and CARG1 (R444, R445). While CRES.BUSY is 1, on another node, and for an OP that is none of 0x02 to
0x06 (DESIGN CHOICE, log entry 59), GO is ignored. -/
def State.wCcmd (s : State) (src : Src) (v : Word) : WRes :=
  let go := getBits v.toNat 31 1 == 1
  let op := getBits v.toNat 16 8
  let bad := s.bit F.XLK_CRES_BUSY || !s.isMaster || decide (op < 2 ∨ 6 < op)
  if go = true ∧ bad = true ∧ src ≠ .pf then .refuse .badarg none
  else
    let s := s.storeAt R.XLK_CCMD v
    if go = true ∧ bad = false then
      let s := (((s.setF F.XLK_CRES_DONE 0).setF F.XLK_CRES_BUSY 1).setF F.XLK_CRES_RESULT 0).setF F.XLK_CRES_STATUS 0
      let args := beBytes 4 (s.rd (R.XLK_CARG 0)).toNat ++ beBytes 4 (s.rd (R.XLK_CARG 1)).toNat
      .ok (s.sendCmd (getBits v.toNat 0 16) op 0 args none (op != 6))
    else .ok s

/-- A coefficient word: 288 of a bank, 32 a loop (R392). -/
def State.wCoefAt (s : State) (bankB : Bool) (i : Nat) (shiftWord : Bool) (v : Word) : WRes :=
  s.wCoef bankB ⟨i / 32 % 9, Nat.mod_lt _ (by decide)⟩ ⟨i % 32, Nat.mod_lt _ (by decide)⟩ shiftWord v

/-- Does a write of word `w` of a register act on any field (R13): else it is ignored. -/
def writableIn (d : RegDef) (w : Nat) : Bool :=
  d.fields.any (fun (f : FieldDef) => (f.acc == .rw || f.acc == .w1c || f.acc == .wo) && decide (f.lo / 32 ≤ w ∧ w ≤ (f.lo + f.width - 1) / 32))

def fin9 (i : Nat) : Fin 9 := ⟨i % 9, Nat.mod_lt _ (by decide)⟩
def fin4 (i : Nat) : Fin 4 := ⟨i % 4, Nat.mod_lt _ (by decide)⟩
def fin256 (i : Nat) : Fin 256 := ⟨i % 256, Nat.mod_lt _ (by decide)⟩

/-- A write of entry `i` of a 32-bit register. -/
def State.wEntry (s : State) (src : Src) (d : RegDef) (i off : Nat) (v : Word) : WRes :=
  match d.base with
  | 0x10 => s.wRstctl v
  | 0x14 => s.wWdog v
  | 0x60020 => s.wDrtcfg v
  | 0x60030 => s.wDrtten i v
  | 0x60060 => s.wTcfg v
  | 0x70000 => .ok ((s.storeAt off v).rtsFrom s 0)
  | 0x70004 => .ok ((s.storeAt off v).rtsFrom s 1)
  | 0x20008 => s.wQcfg i v
  | 0x2000c => s.wQcmd i v
  | 0x40004 => s.wGcap v
  | 0x40100 => s.wTshare src (fin256 i) v
  | 0x50000 => s.wPfevt v
  | 0x50400 => s.wTvec (fin256 i) v
  | 0x53000 => s.wQvec i v
  | 0x80000 => s.wRdcCfg v
  | 0x88000 => s.wEnlCfg v
  | 0x90024 => s.winWrite i v
  | 0x90044 => s.wTankTest v
  | 0xa000c => s.wRmadd v
  | 0xd0020 => s.wLpcfg v
  | 0xe0010 => s.wSpd src v
  | 0xf0000 => s.wMdr (axisUnit i) off v
  | 0xf0004 => s.wMdr (axisUnit i) off v
  | 0xf0014 => s.wMdr (axisUnit i) off v
  | 0xf0300 => s.wMdr .head off v
  | 0xf0804 => s.wTripclr src v
  | 0xf0810 => s.wFancfg v
  | 0xf0820 => s.wFanpt i v
  | 0x10000c => s.wRadius v
  | 0x100010 => s.wAcfg v
  | 0x100020 => s.wRcctl v
  | 0x100100 => s.wLctl src (fin9 i) v
  | 0x100108 => s.wLman src (fin9 i) v
  | 0x104000 => s.wCoefAt false i false v
  | 0x104004 => s.wCoefAt false i true v
  | 0x105000 => s.wCoefAt true i false v
  | 0x105004 => s.wCoefAt true i true v
  | 0x110000 => s.wPwrctl v
  | 0x110024 => s.wSldata v
  | 0x120070 => s.wCcmd src v
  | 0x120084 => .ok (s.wakeDown (getBits v.toNat 0 3))
  | 0x120100 => s.wSgcfg src (fin4 i) v
  | 0x120104 => s.wSgmem 0 i v
  | 0x120184 => s.wSgmem 1 i v
  | 0x120204 => s.wSgmem 2 i v
  | 0x120284 => s.wSgmem 3 i v
  | 0x13000c => s.wErrctl v
  | _ => .ok (s.storeAt off v)

/-- A write of a 64-bit register as a whole (R16): QMG.QRINGn is locked while its queue exists (R186). -/
def State.wWide (s : State) (d : RegDef) (i v : Nat) : WRes :=
  if d.base = 0x20000 ∧ s.bit (F.QMG_QCFG_VALID i) = true then .refuse .locked none
  else if writableIn d 0 || writableIn d 1 then .ok (s.storeReg d i v)
  else .refuse .badarg none

/-! ### The tenant windows and the MSI-X tables (R130 to R132) -/

/-- A write of a word of a function's MSI-X table, `o` from the table's start. -/
def State.wMsix (s : State) (t : Tenant) (o : Nat) (v : Word) : State :=
  if o < 0x400 then s.msixWr t ⟨o / 16 % 64, Nat.mod_lt _ (by decide)⟩ ⟨o / 4 % 4, by have := Nat.mod_lt (o / 4) (show 4 > 0 by decide); omega⟩ v else s

/-- A write of a word of a tenant's window: a doorbell, or the MSI-X table of a VF (R131, R132). -/
def State.wWindow (s : State) (t : Tenant) (o : Nat) (v : Word) : State :=
  if o < 0x100 then s.applyDoor t (o / 4) (v.toNat % 65536)
  else if t.val ≠ 0 ∧ 0x8000 ≤ o then s.wMsix t (o - 0x8000) v
  else s

/-- A `POKE` of DBn that the device would discard or refuse fails (R83, R132, R168, R528). -/
def State.doorRefused (s : State) (slot tail : Nat) : Option Er :=
  match s.slotQueue? 0 slot with
  | none => some .badarg
  | some q => if q.drt = true ∨ (s.fn 0).resetting = true then some .badarg else if q.badTail tail = true then some .badtail else none

/-! ### Writing -/

/-- Does a write of this register cross to CKM: those of MDR and CLE, but MDR.TRIPCLR, which the arbitration tick decides (R370). -/
def ckmSide (off : Nat) : Bool := decide (0xf0000 ≤ off ∧ off < 0x110000) && off != R.MDR_TRIPCLR && (RegMap.find off).isSome

/-- A 32-bit write to the PF BAR0 (R13 to R16): the low half of a 64-bit register only loads the source's latch, the high half commits both. A word without a register takes nothing (R15), and a `POKE` of it is refused, as of every write
that is ignored (R83). -/
def State.wWord (s : State) (src : Src) (off : Nat) (v : Word) : WRes :=
  if s.xc.stopped.contains .ckm = true ∧ ckmSide off = true then s.toCkm src off v (.ok s)
  else if inWin0 off then
    (match src, (if off - win0 < 0x100 then s.doorRefused ((off - win0) / 4) (v.toNat % 65536) else none) with
     | .sess _, some e => .refuse e none
     | .master, some e => .refuse e none
     | .fwd _, some e => .refuse e none
     | _, _ => if off - win0 < 0x100 then .ok (s.wWindow 0 (off - win0) v) else .refuse .badarg none)
  else if inPfMsix off then (if off < pfMsix + 0x400 then .ok (s.wMsix 0 (off - pfMsix) v) else .refuse .badarg none)
  else match RegMap.find off with
    | none => .refuse .badarg none
    | some (d, i, w) =>
      if d.wide then
        let rest := s.wlatch.filter (fun (l : Latch) => l.src != src)
        if w = 0 then .ok { s with wlatch := ⟨src, off, v⟩ :: rest }
        else
          let low := match s.wlatch.find? (fun (l : Latch) => l.src == src && l.off == off - 4) with
            | some l => l.half.toNat
            | none => (s.rd (off - 4)).toNat
          let s := { s with wlatch := rest }
          match s.wWide d i (v.toNat * 2 ^ 32 + low) with
          | .ok t => .ok t
          | .refuse e rec => match src with | .pf => .ok s | _ => .refuse e rec
      else if writableIn d 0 then s.wEntry src d i off v
      else .refuse .badarg none

/-- What a write leaves with its source: a refused PF write its ERR record; a full remap table resets the device whoever wrote (R83, R257). -/
def State.settleWrite (s : State) (src : Src) (w : WRes) : State :=
  match w with
  | .refuse .remapfull _ => s.remapFull
  | w => s.apply src w

/-- A write by a source: a host's write above BAR0 is a configuration request (R100, R127); a VF reaches its own window while it is enabled; a host's writes are discarded before READY, but those of GLB, and during a warm reset (R116, R121, R133, R134). -/
def State.busWrite (s : State) (src : Src) (off : Nat) (v : Word) : State :=
  if off % 4 ≠ 0 then s
  else match src with
    | .vf t =>
      if cfgBase ≤ off then s.cfgWrite src (off - cfgBase) v
      else if s.pfOpen src = false then s.pfDrop src
      else if s.vfOn t = true ∧ off < 0x10000 then s.wWindow t off v
      else s
    | .pf =>
      if cfgBase ≤ off then s.cfgWrite src (off - cfgBase) v
      else if s.pfOpen .pf = true ∨ (off < 0x10000 ∧ s.glbOpen .pf = true) then s.settleWrite .pf (s.wWord .pf off v)
      else s.pfDrop .pf
    | .sess n => s.settleWrite (.sess n) (s.wWord (.sess n) off v)
    | .master => s.settleWrite .master (s.wWord .master off v)
    | .fwd nd => s.settleWrite (.fwd nd) (s.wWord (.fwd nd) off v)

/-- REGISTER_WRITE (R13). -/
def execRegisterWrite (src : Src) (off : Nat) (v : Word) (s : State) : Host.Outcome State Fault Refusal := .next (s.busWrite src off v)

/-- WRITE_LOW_HALF (R16). -/
def execWriteLowHalf (src : Src) (off : Nat) (v : Word) (s : State) : Host.Outcome State Fault Refusal := .next (s.busWrite src off v)

/-- WRITE_HIGH_HALF (R16). -/
def execWriteHighHalf (src : Src) (off : Nat) (v : Word) (s : State) : Host.Outcome State Fault Refusal := .next (s.busWrite src off v)

/-! ### CKM runs again (R33) -/

/-- What stood in XC-12 takes effect, in order. -/
def State.applyCmds (s : State) : List (Src × Nat × Word) → State
  | [] => s
  | (src, off, v) :: l => State.applyCmds (s.settleWrite src (s.wWord src off v)) l

/-- What stood in XC-11 leaves it: LAT uses the newest sample (R328, collision table of 14_control). -/
def State.takeSamples (s : State) : State :=
  match s.xc.samples.getLast? with
  | some x => { s with xc := { s.xc with samples := [] }, srv := { s.srv with sample := x, fresh := true } }
  | none => s

/-- A carrier period tells that CKM runs: what stood in XC-11 and XC-12 leaves them (log entry 101). -/
def State.ckmBack (s : State) : State :=
  if s.xc.stopped.contains .ckm = false then s
  else
    let t := (s.clkBack .ckm).takeSamples
    ({ t with xc := { t.xc with cmds := [] } }).applyCmds t.xc.cmds

/-- CARRIER_PERIOD (R354 to R358, R374). -/
def execCarrierPeriod (axes : List AxisSample) (coil : Int) (vbus : Nat) (s : State) : Host.Outcome State Fault Refusal :=
  if s.domainOn 6 = false then .next s else .next (s.ckmBack.carrier axes coil vbus)

/-- SAVE_LIST_ACCESS (R410, PWR.SLDATA). -/
def execSaveListAccess (src : Src) (write : Bool) (v : Word) (s : State) : Host.Outcome State Fault Refusal :=
  match src with
  | .vf _ => .next s
  | _ => .next (if write then s.busWrite src R.PWR_SLDATA v else s.read src R.PWR_SLDATA)

end Sys2Proof.Machine
end

