-- ==== Sys2Proof/Machine/Poke.lean ====
section
/-! DEFINITION. `PEEK` and `POKE` (03_command_reference R82, R83; 05_tenants R528). -/

namespace Sys2Proof.Machine

/-- The source whose latches a line's register accesses have: its session, or the node a forwarded line comes from (DESIGN CHOICE, log entry 65). -/
def srcOf (ln : Ln) : Src :=
  match ln.who with
  | .sess n => .sess n
  | .remote nd _ => .fwd nd

/-- A key made of characters. -/
def labelOf (l : List Char) : String := String.ofList l

/-- An offset as the spec writes it, six digits (DEDUCED, log entry 65). -/
def offText (off : Nat) : List Char := hexText 6 off

/-- The register a word offset belongs to, if it is that register's first word. -/
def regAt (off : Nat) : Option (RegDef × Nat) :=
  match RegMap.find off with
  | some (d, i, 0) => some (d, i)
  | _ => none

/-- The field of a register at a place. -/
def fieldAt (d : RegDef) (lo width : Nat) : Option FieldDef := d.fields.find? (fun (f : FieldDef) => f.lo == lo && f.width == width)

/-- The words a field touches. -/
def fieldWords (f : FieldDef) : List Nat := (List.range 2).filter (fun w => decide (f.lo / 32 ≤ w ∧ w ≤ (f.lo + f.width - 1) / 32))

/-- The level a read of words of a register needs (R82). -/
def wordsLevel (d : RegDef) (off : Nat) (ws : List Nat) : Level :=
  if 0xA0000 ≤ off ∧ off < 0xB0000 then .service else if ws.any (fun w => rcIn d w) then .operate else .view

/-- The level a read of an offset needs: TCNT of tenant 0 counts as RC (R82, R131). -/
def offLevel (off : Nat) : Level :=
  if 0xA0000 ≤ off ∧ off < 0xB0000 then .service
  else if inWin0 off then (if off - win0 = 0x2004 then .operate else .view)
  else match RegMap.find off with
    | some (d, _, w) => if rcIn d w then .operate else .view
    | none => .view

/-- The level a `PEEK` needs (R82). -/
def peekLevel (target : Target) (count : Nat) : Level :=
  match target with
  | .reg off _ => match regAt off with
    | some (d, _) => wordsLevel d off (if d.wide then [0, 1] else [0])
    | none => .view
  | .field off lo width => match regAt off with
    | some (d, _) => match fieldAt d lo width with
      | some f => wordsLevel d off (fieldWords f)
      | none => .view
    | none => .view
  | .offset n =>
    let ls := (List.range count).map (fun k => offLevel (n + 4 * k))
    if ls.contains .service then .service else if ls.contains .operate then .operate else .view
  | .unknown => .view

/-- What a whole register reads as, without side effects. -/
def State.viewReg (s : State) (d : RegDef) (i : Nat) : Nat :=
  (s.viewWord (regOff d i)).toNat + (if d.wide then 2 ^ 32 * (s.viewWord (regOff d i + 4)).toNat else 0)

/-- Read a whole register in one access: a 64-bit one needs no latch (R82). None when the Tank word behind it is uncorrectable. -/
def State.readReg (s : State) (src : Src) (d : RegDef) (i : Nat) : State × Option Nat :=
  if d.wide then ((s.clearRc src (regOff d i)).clearRc src (regOff d i + 4), some (s.viewReg d i))
  else let r := s.readAct src (regOff d i); (r.1, r.2.map (fun w => w.toNat))

/-- Read words by offset, each by the source's latch (R16); none at the first that is uncorrectable. -/
def State.peekWords (s : State) (src : Src) : Nat → Nat → List (Nat × Word) → State × Option (List (Nat × Word))
  | 0, _, acc => (s, some acc.reverse)
  | n + 1, off, acc =>
    match s.readAct src off with
    | (t, some w) => State.peekWords t src n (off + 4) ((off, w) :: acc)
    | (t, none) => (t, none)

/-- The digits of a register and of a field (R82). -/
def regDigits (d : RegDef) : Nat := if d.wide then 16 else 8
def fieldDigits (f : FieldDef) : Nat := (f.width + 3) / 4

def wordItem (p : Nat × Word) : Item := ⟨labelOf (offText p.1), .hex 8 p.2.toNat⟩

/-- The answer to a `PEEK` at sufficient level. -/
def State.peek (s : State) (src : Src) (target : Target) (count : Option Nat) : Ans :=
  match target with
  | .unknown => .er .noname []
  | .reg off _ => match regAt off with
    | none => .er .noname []
    | some (d, i) =>
      if count.isSome then .er .args []
      else match s.readReg src d i with
        | (t, some v) => .ok t [] [⟨labelOf (regText d i), .hex (regDigits d) v⟩]
        | (t, none) => .fail t .uncorr
  | .field off lo width => match regAt off with
    | none => .er .noname []
    | some (d, i) => match fieldAt d lo width with
      | none => .er .noname []
      | some f =>
        if count.isSome then .er .args []
        else match s.readReg src d i with
          | (t, some v) => .ok t [] [⟨labelOf (regText d i ++ '.' :: f.name.toList), .hex (fieldDigits f) (getBits v f.lo f.width)⟩]
          | (t, none) => .fail t .uncorr
  | .offset n =>
    let c := count.getD 1
    if offsetOk n = false ∨ c = 0 ∨ 16 < c ∨ 0x200000 < n + 4 * c then .er .badarg []
    else match s.peekWords src c n [] with
      | (t, none) => .fail t .uncorr
      | (t, some ps) =>
        if c = 1 then .ok t [] (ps.map wordItem) else .ok t (ps.map (fun p => [wordItem p])) [⟨"WORDS", .num c⟩]

/-- PEEK (R82): behind the earlier writes of its own source (R68). -/
def execPeek (ln : Ln) (target : Target) (count : Option Nat) (s : State) : Host.Outcome State Fault Refusal :=
  .next (if s.awaits (srcOf ln) = true then { s with arb := { s.arb with reads := s.arb.reads ++ [.line ln target count] } } else s.verb ln (peekLevel target (min 16 (count.getD 1))) false (s.peek (srcOf ln) target count))

/-! ### POKE -/

/-- A register's value as a write that leaves every field but one alone: RW fields keep theirs, a 0 leaves W1C bits, and WO fields get 0 (R83). -/
def othersKept (d : RegDef) (old : Nat) : Nat :=
  d.fields.foldl (fun acc (f : FieldDef) => if f.acc = .rw then putBits acc f.lo f.width (getBits old f.lo f.width) else acc) 0

/-- Write one field of a register (R83): the whole register is written with the other fields as they are. -/
def State.pokeField (s : State) (src : Src) (d : RegDef) (i : Nat) (f : FieldDef) (v : Nat) : WRes :=
  if f.acc = .ro ∨ f.acc = .rc then .refuse .badarg none
  else
    let old := if d.wide then s.rd64 (regOff d i) else (s.rd (regOff d i)).toNat
    let whole := putBits (othersKept d old) f.lo f.width v
    if d.wide then s.wWide d i whole else s.wWord src (regOff d i) (BitVec.ofNat 32 whole)

/-- Is a register written whole by a motion order: LCTLn, LMANn, SRV.SPD, MDR.TRIPCLR (R74, R393; log entry 57). -/
def motionReg (off : Nat) : Bool :=
  match RegMap.find off with
  | some (d, _, _) => [0xe0010, 0xf0804, 0x100100, 0x100108].contains d.base
  | none => false

/-- The word offset a target's write meets first. -/
def targetOff : Target → Nat
  | .reg off _ => off
  | .field off _ _ => off
  | .offset n => n
  | .unknown => 0

/-- What a `POKE` writes, and the item that reads it back (R83); an error where the target or the value is wrong. -/
def State.pokeParts (s : State) (src : Src) (target : Target) (v : Nat) : Er ⊕ (WRes × (State → Item)) :=
  match target with
  | .unknown => .inl .noname
  | .reg off _ => match regAt off with
    | none => .inl .noname
    | some (d, i) =>
      if 2 ^ (if d.wide then 64 else 32) ≤ v then .inl .badarg
      else .inr (if d.wide then s.wWide d i v else s.wWord src off (BitVec.ofNat 32 v),
        fun t => ⟨labelOf (regText d i), .hex (regDigits d) (t.viewReg d i)⟩)
  | .field off lo width => match regAt off with
    | none => .inl .noname
    | some (d, i) => match fieldAt d lo width with
      | none => .inl .noname
      | some f =>
        if 2 ^ f.width ≤ v then .inl .badarg
        else .inr (s.pokeField src d i f v,
          fun t => ⟨labelOf (regText d i ++ '.' :: f.name.toList), .hex (fieldDigits f) (getBits (t.viewReg d i) f.lo f.width)⟩)
  | .offset n =>
    if offsetOk n = false ∨ 2 ^ 32 ≤ v then .inl .badarg
    else .inr (s.wWord src n (BitVec.ofNat 32 v), fun t => wordItem (n, t.viewWord n))

/-- POKE (R83). A forwarded `POKE` of a motion register needs the lock like a local one (R74). A write that ends the session is answered before it acts. -/
def execPoke (ln : Ln) (target : Target) (v : Nat) (s : State) : Host.Outcome State Fault Refusal :=
  let src := srcOf ln
  let remote := match ln.who with | .remote .. => true | _ => false
  if remote = true ∧ motionReg (targetOff target) = true ∧ s.holdsLock ln = false then .next (s.verb ln .service false (.er .nolock []))
  else
    match s.pokeParts src target v with
    | .inl e => .next (s.verb ln .service false (.er e []))
    | .inr (.refuse .remapfull _, _) =>
      if s.present ln.who = true ∧ Level.service.num ≤ (s.levelOf ln.who).num ∧ s.boot.rescue = false then .next (s.verb ln .service false (.er .remapfull [])).remapFull
      else .next (s.verb ln .service false (.er .remapfull []))
    | .inr (.refuse e _, _) => .next (s.verb ln .service false (.er e []))
    | .inr (.ok t, item) =>
      if t.present ln.who then .next (s.verb ln .service false (.ok t [] [item t]))
      else if s.present ln.who = true ∧ Level.service.num ≤ (s.levelOf ln.who).num ∧ s.boot.rescue = false then
        (match (s.verb ln .service false (.ok s [] [item s])).pokeParts src target v with
         | .inr (.ok u, _) => .next u
         | _ => .next s)
      else .next (s.verb ln .service false (.ok s [] []))

end Sys2Proof.Machine
end

