-- ==== Sys2Proof/Machine/Power.lean ====
section
/-! DEFINITION. Power states, wakes, the save list, ignition, PFAIL_N and the dump (15_power_states_and_fixer R398 to R422). -/

namespace Sys2Proof.Machine

/-! ### Wakes (R400, R401) -/

def wakeBit : Wake → Nat
  | .ign => 0 | .cart => 1 | .pcie => 2 | .eth => 3 | .xlk => 4 | .uart => 5 | .rtc => 6

/-- Is a source armed in a state (R400). -/
def armedIn (p : Pwr) (w : Wake) : Bool :=
  match p with
  | .run => false
  | .standby => w != .pcie && w != .uart
  | .park => w != .uart
  | .doze => w != .uart
  | .sleep => true
  | .off => w == .ign || w == .rtc

/-- Is a source enabled (PWR.WAKEEN). -/
def State.wakeOn (s : State) (w : Wake) : Bool := getBits (s.getF F.PWR_WAKEEN_EN) (wakeBit w) 1 == 1

/-- PWR.WSTAT records the first source latched and the state it woke from; a recorded wake stays until software clears it (R401). The state record keeps the last one (R411). -/
def State.wakeRecord (s : State) (w : Wake) : State :=
  let s := { s with pw := { s.pw with rec' := { s.pw.rec' with wake := some w } } }
  if s.bit F.PWR_WSTAT_VALID = true then s
  else ((s.setF F.PWR_WSTAT_VALID 1).setF F.PWR_WSTAT_FROM (pwrCode s.pwr)).setF F.PWR_WSTAT_SRC (2 ^ wakeBit w)

/-! ### The end of a request (R89, R403, R406, R445) -/

/-- The `!DONE` of a `POWER` line. -/
def State.powerDone (s : State) (items : List Item) : State := { s with con := { s.con with opPower := none } }.done s.con.opPower items

/-- The RSP to a cascade POWER: RESULT 0 entered, 1 woken, 2 refused (R444). -/
def State.powerRsp (s : State) (who : Asker) (result status : Nat) : State :=
  match who with
  | .master src tag => s.sendRsp src.toNat tag.toNat 3 result status []
  | _ => s

def State.noEntry (s : State) : State := { s with pw := { s.pw with entry := none, wake := none } }

/-- Where the ignition sequence stands (R412). -/
def State.setSeq (s : State) (q : Option IgnStep) : State := { s with pw := { s.pw with seq := q } }

/-- An abort point finds a latched wake: the entry is abandoned and every block goes on (R403); the state record keeps the point (R411). -/
def State.woken (s : State) (e : Entry) (ap : Nat) : State :=
  let s := { s with pw := { s.pw with rec' := { s.pw.rec' with ap := ap } } }
  let s := (s.noEntry.setF F.PWR_STAT_LASTRES 1).setF F.PWR_STAT_AP ap
  let s := if e.by' = .ign ∧ s.pw.seq = some .enter then s.setSeq none else s
  let s := s.powerRsp e.by' 1 0
  match e.by' with
  | .line _ => s.powerDone [⟨"STATUS", .word "WOKEN"⟩, ⟨"AP", .num ap⟩]
  | _ => s

/-! ### Refusals (R405, R406) -/

/-- A reel turns at 2 % of RATED or more (R372, R405). -/
def State.reelTurns (s : State) (a : Nat) : Bool := decide (s.getF (F.MDR_ARATE_RATED a) ≤ 50 * (ofField 16 (s.getF (F.MDR_ASTAT_RPM a))).natAbs)

/-- The block that refuses the quiesce of a domain: 1 MDR, 2 FMT, 3 XLK, 4 QMG, 5 PCL (R405). -/
def State.refuser (s : State) (d : Nat) : Option Nat :=
  let q := s.qmg.recs.any (fun (r : Rec) => !r.final) || s.qmg.queues.any (fun (x : Queue) => x.out.any (fun (o : Outstanding) => match o.use with | .write _ => false | _ => true)) ||
    s.qmg.recs.any (fun (r : Rec) => r.carried)
  match d with
  | 6 => if s.axisOn 0 || s.axisOn 1 || s.axisOn 2 || s.headOn || s.reelTurns 0 || s.reelTurns 1 then some 1 else none
  | 4 => if s.cart = .writing then some 2 else none
  | 9 => if s.xlk.sweep.isSome then some 3 else none
  | 1 => if q then some 4 else none
  | 7 => if q then some 4 else none
  | 8 => if q then some 4 else none
  | 0 => if s.boot.commit.isSome then some 5 else none
  | _ => none

def refuserName : Nat → String
  | 1 => "MDR" | 2 => "FMT" | 3 => "XLK" | 4 => "QMG" | _ => "PCL"

/-- A refusal: the quiesced domains go on, and the request ends; the ignition sequence writes ER 922 and waits to start again (R406, R412). -/
def State.refusedEntry (s : State) (e : Entry) (b : Nat) : State :=
  let s := (s.noEntry.setF F.PWR_STAT_LASTRES 2).setF F.PWR_STAT_BLOCK b
  let s := s.powerRsp e.by' 2 0
  let blk : Item := ⟨"BLOCK", .word (refuserName b)⟩
  match e.by' with
  | .line _ => s.powerDone (erItems .refused [blk])
  | .pf => s.log { errRec .refused .pwr [blk] with src := .pf }
  | .ign => (s.setSeq (some .again)).log (errRec .drain .pwr [])
  | .master .. => s

/-! ### Entry (R402) -/

/-- Runs in a domain that is being quiesced are abandoned (R238, R260, R321, R405). -/
def State.dropRuns (s : State) (d : Nat) : State :=
  match d with
  | 3 => if s.cdc.test.isSome then s.dropCodecTest else s
  | 5 => if s.prf.test.isSome then s.dropProof else s
  | 7 => if (match s.tnk.march with | some m => inHalf 7 m.bank | none => false) then s.dropMarch else s
  | 8 => if (match s.tnk.march with | some m => inHalf 8 m.bank | none => false) then s.dropMarch else s
  | _ => s

/-- PFAIL_N abandons every run without a result (R238, R260, R321). -/
def State.dropTests (s : State) : State :=
  let s := ((s.dropBootTest).dropRuns 3).dropRuns 5
  if s.tnk.march.isSome then s.dropMarch else s

def State.setEntry (s : State) (e : Entry) : State := { s with pw := { s.pw with entry := some e } }

/-- The quiesce of the next domain begins, with its check; when none is left, AP1 is read (R402, R405). -/
def State.quiesceNext (s : State) (e : Entry) : State :=
  match e.left with
  | [] => if s.pw.wake.isSome then s.woken e 1 else s.setEntry { e with stage := .save }
  | d :: _ =>
    match s.refuser d with
    | some b => s.refusedEntry e b
    | none => (s.setEntry { e with stage := .quiesce }).dropRuns d

/-- AP0 (R402, R404). -/
def State.ap0 (s : State) (e : Entry) : State := if s.pw.wake.isSome then s.woken e 0 else s.quiesceNext e

/-- Save-list entries of a domain: the entry's number and its offset (R410). -/
def State.saveEntries (s : State) (d : Nat) : List (Nat × Nat) :=
  (List.range 2016).filterMap (fun i =>
    let w := s.slWord (2 * i)
    if getBits w 31 1 = 1 ∧ getBits w 27 4 = d then some (i, getBits w 0 21 / 4 * 4) else none)

/-- PWR's own accesses of registers on the save list have latches of their own. -/
def pwrSrc : Src := .vf 0

/-- The save: the present value of each listed register, read with the effects its access code gives (R410). -/
def State.capture (s : State) : List (Nat × Nat) → List (Nat × Word) → State × List (Nat × Word)
  | [], acc => (s, acc.reverse)
  | (i, off) :: l, acc => State.capture (s.clearRc .pf off) l ((i, s.viewWord off) :: acc)

/-- The effects that the reads of the save had on the registers read (R410). A wake up to AP3 leaves every register as it was (R403), so they show at the commit. -/
def State.clearSaved (s : State) : List (Nat × Word) → State
  | [] => s
  | (i, _) :: l => State.clearSaved (s.clearRc .pf (getBits (s.slWord (2 * i)) 0 21 / 4 * 4)) l

/-- The captured values become part of the save list, as the entry is committed (R403, R410). -/
def State.keepSaved (s : State) : List (Nat × Word) → State
  | [] => s
  | (i, v) :: l => State.keepSaved (s.setSlWord (2 * i + 1) v.toNat) l

/-- The block that an offset of PF BAR0 belongs to (R19). -/
def blockAt (off : Nat) : Blk :=
  if off < 0x10000 then .glb else if off < 0x20000 then .hif else if off < 0x40000 then .qmg else if off < 0x50000 then .sch else if off < 0x60000 then .int
  else if off < 0x70000 then .eth else if off < 0x80000 then .pcl else if off < 0x88000 then .rdc else if off < 0x90000 then .enl else if off < 0xA0000 then .tnk
  else if off < 0xB0000 then .spd else if off < 0xC0000 then .fix else if off < 0xC0100 then .fmt else if off < 0xC0200 then .dfm else if off < 0xD0000 then .sec
  else if off < 0xD8000 then .rch else if off < 0xE0000 then .prf else if off < 0xF0000 then .srv else if off < 0x100000 then .mdr else if off < 0x110000 then .cle
  else if off < 0x118000 then .pwr else if off < 0x120000 then .aon else if off < 0x130000 then .xlk else if off < 0x140000 then .err else .clk

/-- Blocks with an entry that reads as uncorrectable at this restore (R265; log entry 98). -/
def State.lostBlocks (s : State) (l : List (Nat × Nat)) : List Blk :=
  ((l.filter (fun p => Config.slBad s.freeCtr p.1)).map (fun p => blockAt p.2)).eraseDups

/-- ER 715 names each of them (R265). -/
def State.lostRecs (s : State) : List Blk → State
  | [] => s
  | b :: bs => State.lostRecs (s.log (errRec .retuncorr b [])) bs

/-- At an exit the saved values of a domain are written back, in list order (R409, R410). -/
def State.restore (s : State) : List (Nat × Nat) → State
  | [] => s
  | (i, off) :: l => State.restore (s.settleWrite pwrSrc (s.wWord pwrSrc off (BitVec.ofNat 32 (s.slWord (2 * i + 1))))) l

/-- XLK parks its ports before D9 is switched off (R450). -/
def State.parkPorts (s : State) : List PortNo → State
  | [] => s
  | p :: ps => State.parkPorts (if s.linkUp p then (s.emit (.park p)).portDown p .sleep else s) ps

/-- The domains of a mask are switched off; the gate outputs of D6 and the balls of D5 take their levels (R38, R353, R398, R486). -/
def State.switchOff (s : State) : List Nat → State
  | [] => s.headBalls
  | d :: ds =>
    let s := if d = 6 then s.gatesZero else s
    State.switchOff ((s.setF F.PWR_STAT_DOMAINS (putBits (s.getF F.PWR_STAT_DOMAINS) d 1 0)).clkOf d false) ds

/-- What is lost with D1: every tenant's queues end as by a function-level reset, and the PCIe link goes down (R407). -/
def State.hostOff (s : State) : State :=
  let s := (s.flrs s.hostTenants).clearVf
  { s with hif := { Hif.reset with perst := s.hif.perst }, qmg := { s.qmg with queues := [] } }

/-- The commit: sessions whose port goes off end, the domains are switched off, and the request ends (R402, R407). -/
def State.commitEntry (s : State) (e : Entry) : State :=
  let off (d : Nat) : Bool := e.done.contains d
  let s := (s.clearSaved e.saved).keepSaved e.saved
  let s := if off 9 then (s.powerRsp e.by' 0 0).parkPorts allPorts else s
  let s := if off 0 then (s.endSessions "END" allSids).drtGone s.eth.drt else if off 2 then (s.endSessions "END" tcpSids).drtGone s.eth.drt else s
  let s := if off 1 then s.hostOff else s
  let s := (s.noEntry.switchOff e.done).setF F.PWR_STAT_LASTRES 0
  let s := { s with pwr := e.target, pw := { s.pw with ended := s.pw.ended || off 2 || off 0, seq := if e.by' = .ign then none else s.pw.seq, stopped := if e.by' = .ign then false else s.pw.stopped }
                    boot := { s.boot with wdogHeld := s.boot.wdogHeld || off 0 } }
  let s := if off 9 then s else s.powerRsp e.by' 0 0
  match e.by' with
  | .line _ => s.powerDone [⟨"STATE", .word (pwrText e.target)⟩]
  | _ => s

/-- What an entry does as time passes: AP0 before the first quiesce, the save with AP2 after it, isolation with AP3 and the commit after it (R402; log entry 61). -/
def State.entryTick (s : State) : State :=
  match s.pw.entry with
  | none => s
  | some e =>
    match e.stage with
    | .ap0 => s.ap0 e
    | .quiesce => s
    | .save =>
      let c := s.capture (e.done.flatMap s.saveEntries) []
      if s.pw.wake.isSome then s.woken e 2 else s.setEntry { e with stage := .isolate, saved := c.2 }
    | .isolate => if s.pw.wake.isSome then s.woken e 3 else s.commitEntry e

/-- QUIESCE_COMPLETE: a domain has finished its work in progress (R402). -/
def State.quiesced1 (s : State) (d : Nat) : State :=
  match s.pw.entry with
  | some e =>
    if e.stage = .quiesce ∧ e.left.head? = some d then s.quiesceNext { e with left := e.left.tail, done := d :: e.done } else s
  | none => s

def execQuiesceComplete (d : Domain) (s : State) : Host.Outcome State Fault Refusal :=
  match s.pw.entry with
  | some e => if e.stage = .ap0 then .next ((s.ap0 e).quiesced1 d.val) else .next (s.quiesced1 d.val)
  | none => .next s

/-! ### Exit (R409) -/

/-- D0 is switched on: its start-up runs again from step 4 of R98, its registers return to reset, and the Scratchpad is empty until the image is loaded (R112, R114). -/
def State.coreOn (s : State) : State :=
  let s := (s.resetRange 0x70000 0x80000).setF F.GLB_RSTCAUSE_READY 0
  { s with
    wlatch := [], rlatch := []
    boot := { s.boot with phase := .image, wdogHeld := true }, pw := { s.pw with exiting := true }
    spd := ⟨[], remapsOf s.boot.fuses, [], []⟩, con := { Console.reset with denials := s.con.denials, lockout := s.con.lockout, wakes := s.con.wakes } }

/-- WAKE_N tells the host that its port is on again (R409). -/
def State.wakeHost (s : State) : State := { s with pw := { s.pw with wakeLow := some s.us } }.emit (.pin "WAKE_N" false)

/-- One domain is switched on: its clocks, its domain reset, its save-list entries, but those of a block that lost one (R265, R409). -/
def State.domainUp (s : State) (d : Nat) : State :=
  let s := (s.setF F.PWR_STAT_DOMAINS (putBits (s.getF F.PWR_STAT_DOMAINS) d 1 1)).clkOf d true
  let s := if d = 0 then s.coreOn else s.resetDomain d false
  let s := if d = 1 then s.wakeHost else s
  let l := s.saveEntries d
  let bad := s.lostBlocks l
  ((s.draw.lostRecs bad).restore (l.filter (fun p => !(bad.contains (blockAt p.2)))))

def State.domainsUp (s : State) : List Nat → State
  | [] => s
  | d :: ds => State.domainsUp (s.domainUp d) ds

/-- The exit that has been asked for: with D0 off it ends at the first prompt, else at once (R399, R409). -/
def State.exitNow (s : State) : State :=
  match s.pw.leave with
  | none => s
  | some (p, w) =>
    let from' := s.pwr
    let on := exitOrder.filter (fun d => keepsOn p d && !(s.powered d))
    let s := { s with pw := { s.pw with leave := none } }
    let s := match w with
      | some k => if s.pw.ended then { s with con := { s.con with wakes := s.con.wakes ++ [(k, from')] } } else s
      | none => s
    let s := { s with pw := { s.pw with ended := false } }
    let s := s.domainsUp on
    if on.contains 0 then s
    else
      let s := { s with pwr := p }
      let s := if on.contains 6 then (s.latchPins allUnits).reload else s
      s.powerDone [⟨"STATE", .word (pwrText p)⟩]

/-! ### Requests (R89, R399, R408) -/

/-- POWER, on a line or as a PF write of PWR.CTL. The exit it asks for follows its reply. The ER 306 that the table of R89 lists is never returned: no rule gives a power state from which a verb that can be
executed may not order another (DESIGN CHOICE, log entry 89). -/
def execPower (via : Via) (target : Pwr) (s : State) : Host.Outcome State Fault Refusal :=
  match via with
  | .pf v => if s.pfOpen .pf = false then .next (s.pfDrop .pf) else .next (s.settleWrite .pf (s.wPwrctl v)).exitNow
  | .line ln =>
    .next (s.verb ln .operate false
      (if s.pwrBusy = true then .er .pwrbusy []
       else if target = s.pwr then .ok s [] [⟨"STATE", .word (pwrText s.pwr)⟩]
       else if 1 < pwrCode target ∧ (s.cart = .writing ∨ s.cart = .reading) then .er .cartstate []
       else .ok (s.pwrBegin target (.line ln)) [] startedItems)).exitNow

def fixText : FixSt → String
  | .ready => "READY" | .dumped => "DUMPED" | .replay => "REPLAY"

/-- POWER? (R89). -/
def execPowerQuery (ln : Ln) (s : State) : Host.Outcome State Fault Refusal :=
  .next (s.verb ln .view false (.ok s []
    [⟨"STATE", .word (pwrText s.pwr)⟩, ⟨"DOMAINS", .hex 4 (s.getF F.PWR_STAT_DOMAINS)⟩, ⟨"HOLDUP", .word (if s.pw.holdup then "OK" else "LOW")⟩,
     ⟨"FIXER", .word (fixText s.fixer)⟩, ⟨"RES", .num s.resUsed⟩]))

/-- A wake event reaches the latch: during an entry it is latched, if armed in the state entered; during an exit it is only recorded; in a power state it starts the exit to RUN (R399 to
R401, R409; log entry 60). -/
def State.wakeNow (s : State) (w : Wake) : State :=
  if s.pw.halted = true ∨ s.wakeOn w = false then s
  else match s.pw.entry with
    | some e => if armedIn e.target w then { s.wakeRecord w with pw := { (s.wakeRecord w).pw with wake := s.pw.wake.or (some w) } } else s
    | none =>
      if armedIn s.pwr w = false then s
      else if s.pw.exiting = true ∨ s.pw.leave.isSome = true then s.wakeRecord w
      else ({ s.wakeRecord w with pw := { (s.wakeRecord w).pw with leave := some (.run, some w) } }).exitNow

/-- WAKE_EVENT. -/
def execWakeEvent (w : Wake) (s : State) : Host.Outcome State Fault Refusal := .next (s.wakeNow w)

/-! ### Ignition (R412) -/

/-- IGNITION_CHANGE: a rise is also the wake source IGN, and stops the sequence; recording that the sequence stopped starts again. -/
def execIgnitionChange (high : Bool) (s : State) : Host.Outcome State Fault Refusal :=
  if s.boot.pwrgd = false ∨ s.pw.halted = true ∨ s.pw.ign = high then .next s
  else
    let s := { s with pw := { s.pw with ign := high } }.log { errRec (if high then .ignon else .ignoff) .pwr [] with flags := infoFlag }
    if high then
      let s := s.setSeq (if s.pw.stopped && s.pw.seq.isSome then some .restart else none)
      .next (s.wakeNow .ign)
    else .next s

/-- IGNITION_HOLD_EXPIRY: IGN has been low for HOLD seconds, or that long since the sequence stalled. -/
def execIgnitionHoldExpiry (s : State) : Host.Outcome State Fault Refusal :=
  if s.pw.ign = true ∨ s.bit F.PWR_IGN_AUTO = false ∨ s.boot.phase ≠ .up ∨ s.boot.rescue = true ∨ s.pw.halted = true then .next s
  else match s.pw.seq with
    | none => .next { s.setSeq (some .drain) with pw := { (s.setSeq (some .drain)).pw with stopped := false } }
    | some .again => .next (s.setSeq (some .drain))
    | some _ => .next s

/-- IGNITION_DRAIN_TIMEOUT: step 1 has not ended within DRAINMAX seconds. -/
def execIgnitionDrainTimeout (s : State) : Host.Outcome State Fault Refusal :=
  if s.pw.seq = some .drain ∨ s.pw.seq = some .stop then .next ((s.setSeq (some .again)).log (errRec .drain .pwr [])) else .next s

/-- What the orders of the sequence do: `RECORD STOP`, `UNLOAD` and `RECORD START`. -/
def State.seqRecordStop (s : State) : State := ({ s with fmt := { s.fmt with stopping := true }, pw := { s.pw with stopped := true } }).flushNow
def State.seqUnload (s : State) : State := (s.takenOver.clearBins.writeDirs.setCart .unloading []).beginMove .unload true 1
def State.seqRecordStart (s : State) : State :=
  if s.pwr = .run ∧ s.mot = .stopped ∧ s.boot.testing = false ∧ s.tape.wp = false ∧ s.cartFull = false then
    (s.startReplay.headTo s.tape.wrap).beginMove .record (wrapRev s.tape.wrap) s.recordStep
  else s

/-- The state the sequence is to enter, when it lies beyond the present one (R412). -/
def State.ignTarget (s : State) : Option Pwr := (pwrOf (s.getF F.PWR_IGN_TARGET)).filter (fun p => decide (pwrCode s.pwr < pwrCode p))

/-- The order that the sequence issues to the arbiter where it stands, each once it could be accepted (R412). -/
def State.ignIssue (s : State) : Option IgnOrder :=
  if s.pw.halted = true then none
  else match s.pw.seq with
    | some .drain => if s.cart = .writing ∧ s.qmg.recs.all (·.final) = true then some .recordStop else none
    | some .unload => if (s.cart = .ready ∨ s.cart = .fault) ∧ s.mot ≠ .tripped ∧ s.pwr = .run then some .unload else none
    | some .enter => if s.pwrBusy = false ∧ s.ignTarget.isSome = true then some .enter else none
    | some .restart => if s.cart = .ready ∧ s.pwr = .run then some .recordStart else none
    | _ => none

/-- An order of the sequence has won at the arbiter (R412); it acts if it is still the one to be issued. -/
def State.ignAct (s : State) (k : IgnOrder) : State :=
  if s.ignIssue ≠ some k then s
  else match k with
    | .recordStop => s.seqRecordStop.setSeq (some .stop)
    | .unload => s.seqUnload
    | .enter => match s.ignTarget with | some p => s.pwrBegin p .ign | none => s
    | .recordStart =>
      let s := s.setSeq none
      { s with pw := { s.pw with stopped := false } }.seqRecordStart

/-- The step of the sequence after the tape has stopped. -/
def State.seqAfterStop (s : State) : State := s.setSeq (some (if s.bit F.PWR_IGN_UNLOAD then .unload else .enter))

/-- The sequence goes on to its next step when the one it is at is over (R412). -/
def State.ignTick (s : State) : State :=
  match s.pw.seq with
  | some .drain => if s.cart = .writing then s else s.seqAfterStop
  | some .stop => if s.cart = .writing then s else s.seqAfterStop
  | some .unload => if s.cart = .unloading ∨ s.ignIssue = some .unload then s else s.setSeq (some .enter)
  | some .enter => if s.pwrBusy = true ∨ s.ignIssue = some .enter then s else s.setSeq none
  | _ => s

/-! ### HOLDUP_OK and PFAIL_N (R413 to R422, R522) -/

/-- HOLDUP_OK_CHANGE (R422). -/
def execHoldupOkChange (high : Bool) (s : State) : Host.Outcome State Fault Refusal :=
  let was := s.secOk
  .next ({ s with pw := { s.pw with holdup := high } }.secChanged was)

/-- Does a pulse of PFAIL_N act: 20 ns or more does, below 5 ns does not (R413, R522; the rest is a free value). -/
def pfailActs (k w : Nat) : Bool := if w < 5 then false else if 20 ≤ w then true else Config.shortPfail k

/-- The control block, the hint, the ERR records and the charged records, whose words are read first (R252, R264), as the dump engine writes them; a dump that has not been replayed keeps its
records (R107, R414, R420; log entry 62). -/
def State.dumpStart (s : State) (st : Nat) : State :=
  if s.fixer = .ready then
    let rs := if st = 1 then s.charged else []
    let s := s.dumpReads rs
    { s with jrn := { s.journalOf st rs with tpfail := s.now } }.writeCtl.writeDump
  else { s with jrn := { s.jrn with errs := s.err.recs.take savedErrs, hint := s.tape.hint, tpfail := s.now } }.writeErrs

/-- Gates at PFAIL_N: zero vectors on the reels with BRAKE at 1, else every gate output at 0 (R413). -/
def State.pfailGates (s : State) : State :=
  let s := s.gatesOff 2
  let s := if s.bit F.PWR_PFCFG_BRAKE then (if s.axisOn 0 then s.setMode 0 5 else s) else s.gatesOff 0
  if s.bit F.PWR_PFCFG_BRAKE then (if s.axisOn 1 then s.setMode 1 5 else s) else s.gatesOff 1

/-- What a power-fail ends at once: an entry, an exit and the ignition sequence; the watchdog stops (R413). -/
def State.powerLost (s : State) : State :=
  { s with pw := { s.pw with pfail := true, entry := none, leave := none, wake := none, exiting := false, seq := none }, boot := { s.boot with wdogHeld := true } }

/-- After a dump the device is halted until power returns (R419). -/
def State.halt (s : State) : State := { s with pw := { s.pw with halted := true } }

/-- PFAIL_ASSERT. -/
def execPfailAssert (widthNs : Nat) (s : State) : Host.Outcome State Fault Refusal :=
  if s.boot.pwrgd = false ∨ s.pw.halted = true ∨ s.boot.phase = .held then .next s
  else
    let acts := pfailActs s.freeCtr widthNs
    let s := if 5 ≤ widthNs ∧ widthNs < 20 then s.draw else s
    if acts = false then .next s
    else if (s.pwr = .sleep ∨ s.pwr = .off) ∧ s.pw.exiting = false then .next (s.setF F.PWR_PFSTAT_SEEN 1)
    else
      let tankOn := s.powered 7 && s.powered 8
      let early := s.boot.phase != .init && s.boot.phase != .up
      let res := s.resUsed
      let was := s.secOk
      let s := ((s.setF F.PWR_PFSTAT_SEEN 1).dropTests.powerLost).secChanged was
      let s := (s.haltWrite.groupLost.pfailGates.cause 3).eventAll "PFAIL" [⟨"RES", .num res⟩]
      let s := s.notify 7 res
      let s := if early then s else s.dumpStart (if tankOn then 1 else 0)
      let s := (s.endSessions "END" tcpSids).drtGone s.eth.drt
      .next (s.headBalls.switchOff (([1, 2, 3, 4, 5, 6, 9] : List Nat).filter s.powered)).halt

/-- DUMP_COMPLETE: the control block reads DUMPED, or NONE when no record was charged (R414). -/
def execDumpComplete (centiMs : Nat) (s : State) : Host.Outcome State Fault Refusal :=
  if s.pw.halted = true ∧ s.jrn.st = 1 then
    .next { s with jrn := { s.jrn with seq := s.jrn.seq + 1, st := if s.jrn.recs = [] then 0 else 2, lastMs := min 65535 centiMs } }.writeCtl
  else .next s

/-! ### Time in PWR -/

/-- WAKE_N is released when the link has trained, or after 100 ms (R409; log entry 63). -/
def wakeUs : Nat := 100000

def State.wakeRelease (s : State) : State :=
  match s.pw.wakeLow with
  | some t => if t + wakeUs ≤ s.us ∨ s.hif.link.isSome = true then { s with pw := { s.pw with wakeLow := none } }.emit (.pin "WAKE_N" true) else s
  | none => s

/-- Wake events that blocks have raised reach the latch (R400, R401). -/
def State.wakeAll (s : State) : List Wake → State
  | [] => s
  | w :: ws => State.wakeAll (s.wakeNow w) ws

def State.takeEdges (s : State) : State := { s with pw := { s.pw with edges := [] } }.wakeAll s.pw.edges

/-- What PWR does as time passes. -/
def State.powerTick (s : State) : State := if s.pw.halted then s else s.takeEdges.wakeRelease.exitNow.ignTick.entryTick

end Sys2Proof.Machine
end

