-- ==== Sys2Proof/Machine/Cascade.lean ====
section
/-! DEFINITION. Cascade commands at their target (16_xasen R444, R445, R447, R449; 04_start_up R118). -/

namespace Sys2Proof.Machine

/-- Does the node take frames: D9 on and no dump has halted it (R419, R465). -/
def State.linkAlive (s : State) : Bool := s.domainOn 9 && !s.pw.halted

/-- An RSP without reply data. -/
def State.rsp (s : State) (src tag : BitVec 16) (op result status : Nat) : State := s.sendRsp src.toNat tag.toNat op result status []

/-- Cascade control from any other source than the master is answered with 201 (R445). -/
def State.control (s : State) (src tag : BitVec 16) (op : Nat) (act : State) : State :=
  if s.linkAlive = false then s
  else if src.toNat ≠ 0 then s.rsp src tag op 0 Er.priv.code
  else act

/-- CMD_PLOVA (R447): the line waits for its verb as a line of the origin's session, at the level it carries; one that is no line of a verb the device knows, or above that level, is
answered at once (R49, R61, R77, R104). -/
def execCmdPlova (src tag : BitVec 16) (level : Fin 3) (text : List Char) (s : State) : Host.Outcome State Fault Refusal :=
  let ln : Ln := ⟨.remote src tag, [], false⟩
  let toks := tokens text
  let lv : Level := match level with | 0 => .view | 1 => .operate | 2 => .service
  .next (if s.linkAlive = false then s
    else match verbWrong toks, formOf toks with
      | some e, _ => s.reply ln [] (.er e [])
      | none, none => s.reply ln [] (.er .noverb [])
      | none, some f =>
        if lv.num < f.level then s.reply ln [] (.er .priv [])
        else if s.boot.rescue = true ∧ f.rescue = false then s.reply ln [] (.er .rescue [])
        else { s with con := { s.con with remotes := s.con.remotes.filter (fun (r : Remote) => !(r.node == src && r.tag == tag)) ++ [(⟨src, tag, lv, text⟩ : Remote)] } })

/-- A cascade-commanded domain reset rewrites bits 8:0 and 23:16 of GLB.RSTCAUSE to describe itself, as every cascade-commanded reset does, and leaves READY and DROPPED (GLB.RSTCAUSE;
DEDUCED, log entry 95). -/
def State.cascadeCause (s : State) : State := s.wr R.GLB_RSTCAUSE ((s.rd R.GLB_RSTCAUSE &&& 0xFF00FE00#32) ||| 8#32)

/-- CMD_RESET (R118, R444): the reply leaves first, then the device acts as the local reset it names. A cascade-commanded reset of D1 resets the PCIe link and the MSI-X tables as the local one does: R118
lists all differences, against the `Kept` of the table of R114 (DESIGN CHOICE, log entry 95). -/
def execCmdReset (src tag : BitVec 16) (kind : Byte) (dom : Byte) (s : State) : Host.Outcome State Fault Refusal :=
  let ok := s.rsp src tag 2 0 0
  .next (s.control src tag 2
    (if kind = 1#8 then ok.warm false true false
     else if kind = 2#8 then ok.warm true true false
     else if kind = 3#8 ∧ 1 ≤ dom.toNat ∧ dom.toNat ≤ 9 then (if ok.absorbs dom.toNat = true then ok else ok.cascadeCause.domReset dom.toNat true)
     else s.rsp src tag 2 0 Er.badarg.code))

/-- CMD_POWER (R444, R445): an entry answers when it ends, an exit once it is done. -/
def execCmdPower (src tag : BitVec 16) (state : Byte) (s : State) : Host.Outcome State Fault Refusal :=
  .next (s.control src tag 3
    (match pwrOf state.toNat with
     | none => s.rsp src tag 3 0 Er.badarg.code
     | some p =>
       if s.pwrBusy then s.rsp src tag 3 0 Er.pwrbusy.code
       else if p = s.pwr then s.rsp src tag 3 0 0
       else
         let t := s.pwrBegin p (.master src tag)
         if t.pw.leave.isSome then t.exitNow.rsp src tag 3 0 0 else t))

/-- CMD_WAKE (R445, R449). -/
def execCmdWake (src tag : BitVec 16) (mask : Byte) (s : State) : Host.Outcome State Fault Refusal :=
  .next (s.control src tag 4 ((s.wakeDown (mask.toNat % 8)).rsp src tag 4 0 0))

/-- The value read back, as reply data. -/
def State.readBack (s : State) (src tag : BitVec 16) (op v : Nat) : State :=
  s.sendRsp src.toNat tag.toNat op 0 0 (beBytes 4 v)

/-- CMD_POKE (R83, R445): a refused write changes nothing and is answered with its code; one that would silence the link is answered before it acts. -/
def execCmdPoke (src tag : BitVec 16) (off v : Word) (s : State) : Host.Outcome State Fault Refusal :=
  let n := off.toNat
  .next (s.control src tag 5
    (if offsetOk n = false then s.rsp src tag 5 0 Er.badarg.code
     else match s.wWord .master n v with
       | .refuse .remapfull _ => (s.rsp src tag 5 0 Er.remapfull.code).remapFull
       | .refuse e _ => s.rsp src tag 5 0 e.code
       | .ok t =>
         if t.linkAlive && t.boot.phase == s.boot.phase && t.linkUp 0 == s.linkUp 0 then t.readBack src tag 5 (t.viewWord n).toNat
         else
           match (s.readBack src tag 5 (s.viewWord n).toNat).wWord .master n v with
           | .ok u => u
           | .refuse _ _ => s))

/-- CMD_PEEK (R82, R445): behind the master's own earlier writes (R68). -/
def execCmdPeek (src tag : BitVec 16) (off : Word) (s : State) : Host.Outcome State Fault Refusal :=
  let n := off.toNat
  .next (s.control src tag 6
    (if s.awaits .master = true then { s with arb := { s.arb with reads := s.arb.reads ++ [.peek src tag off] } }
     else if offsetOk n = false then s.rsp src tag 6 0 Er.badarg.code
     else match s.readAct .master n with
       | (t, some v) => t.readBack src tag 6 v.toNat
       | (t, none) => t.rsp src tag 6 0 Er.uncorr.code))

end Sys2Proof.Machine
end

