-- ==== Sys2Proof/Machine/Line.lean ====
section
/-! DEFINITION. Complete lines: what a terminator makes of the characters typed (02_command_line R45 to R52, R54, R61, R104) and forwarding (R64 to R66). -/

namespace Sys2Proof.Machine

/-! ### Forwarding (R64 to R66, R447) -/

/-- Tokens with a space between them. -/
def spaced : List (List Char) → List Char
  | [] => []
  | [t] => t
  | t :: ts => t ++ ' ' :: spaced ts

/-- The IDs of the census, each once, in rising order (R66); the master counts itself, as XLK.CENS does before the first sweep. -/
def State.censusIds (s : State) : List Nat :=
  (s.xlk.census.map (fun (c : Census) => c.id)).foldr insertNat (if s.isMaster then [s.nodeId] else [])

/-- Send a line's text to nodes, one command each. -/
def State.forwardAll (s : State) (lv : Nat) (text : List Byte) (ln : Ln) (writes : Bool) : List Nat → State
  | [] => s
  | m :: ms => State.forwardAll (s.sendCmd m 1 lv text (some ln) writes) lv text ln writes ms

/-- Send the line at a session's front to its node, or to every node of the census, once its turn has come (R45, R64, R66): it travels without tag, node token and suffix, at the
session's level (R447). With no node to send it to it is answered at once. -/
def State.forwardFront (s : State) (n : Sid) : State :=
  let x := s.ses n
  match x.lines with
  | [] => s
  | w :: ws =>
    match w.kind with
    | .forward star writes [] [] [] =>
      let p := parseLine false w.text
      let ids := match p.node with | some (some m) => [m] | _ => s.censusIds
      let tags := (List.range ids.length).map (fun k => (s.xlk.nextTag + k) % 65536)
      let s := s.setSes n { x with lines := { w with kind := .forward star writes (tags.zip ids) [] [] } :: ws }
      if ids = [] then (s.sendLines (.sess n) (forwardReply w.ln star [] [])).lineDone n
      else s.forwardAll x.level.num (charBytes (spaced p.toks)) w.ln writes ids
    | _ => s

/-! ### Terminators (R45 to R52) -/

/-- How many lines wait behind the one executing (R45). -/
def waitingLines (x : Session) : Nat := (x.lines.tail.filter (fun (w : WLine) => match w.kind with | .reject _ => false | .blank => false | _ => true)).length

/-- Is a node ID the receiving node's own (R64). -/
def State.ownId (s : State) (m : Nat) : Bool := s.bit F.XLK_STAT_IDVALID && s.getF F.XLK_STAT_NODE == m

/-- What becomes of a line whose characters are in order (R49 to R52, R61, R64, R66, R104). The level and rescue mode of a line that must wait are checked with its verb. -/
def State.lineKind (s : State) (x : Session) (p : Parsed) : WKind :=
  match p.err, p.form with
  | some e, _ => .reject e
  | none, none => .reject .noverb
  | none, some f =>
    if s.boot.rescue = true ∧ f.rescue = false then .reject .rescue
    else match p.node with
      | some none => if f.level = 0 then .forward true false [] [] [] else .reject .priv
      | some (some m) =>
        if s.ownId m then (if x.lines = [] ∧ x.level.num < f.level then .reject .priv else .run)
        else .forward false (f.level != 0) [] [] []
      | none => if x.lines = [] ∧ x.level.num < f.level then .reject .priv else .run

/-- A completed line (R45 to R52): a rejection before its tag is parsed is untagged (R51). When it spoils in more than one way, the overrun is reported first, then the length, then the
characters (DEDUCED, log entry 69). Lines that will only be rejected, and blank ones, are not among the four that wait, and whether four wait is looked at after the overrun, the length, the
characters and blankness (R45; DESIGN CHOICE, log entry 69). -/
def State.lineOf (s : State) (n : Sid) (x : Session) : WLine :=
  let bare : Ln := ⟨.sess n, [], false⟩
  if x.overrun then ⟨bare, [], .reject .overrun⟩
  else if x.tooLong then ⟨bare, [], .reject .toolong⟩
  else if x.badChar then ⟨bare, [], .reject .badchar⟩
  else if x.buf.all (fun c => c == ' ') then ⟨bare, [], .blank⟩
  else if 4 ≤ waitingLines x then ⟨bare, [], .reject .busy⟩
  else
    let p := parseLine x.crc x.buf
    ⟨⟨.sess n, p.tag, p.suffix⟩, x.buf, s.lineKind x p⟩

/-- PLOVA_LINE: a terminator (R47). The LF of a CR LF pair belongs to the terminator before it. The line takes its place; one that need not be executed is answered when its turn comes. -/
def execPlovaLine (n : Sid) (term : Term) (s : State) : Host.Outcome State Fault Refusal :=
  let s := s.uartAlive n
  let x := s.ses n
  if s.present (.sess n) = false then .next s
  else if term = .lf ∧ x.lastCr = true then .next (s.setSes n { x with lastCr := false })
  else
    let w := s.lineOf n x
    let x' : Session := { x with
      buf := [], tooLong := false, badChar := false, overrun := false, lastCr := term == .cr, lines := x.lines ++ [w] }
    let was := s
    let s := (s.setSes n x').echoTo n ['\r', '\n']
    .next ((if x.lines = [] then (s.answerFront n [w]).forwardFront n else s).rtsFrom was n)

end Sys2Proof.Machine
end

