-- ==== Sys2Proof/Machine/Arbiter.lean ====
section
/-! DEFINITION. The 1 us arbitration tick (02_command_line R68 to R73; 06_queues R170): contradictions, precedence, what winners do and how losers learn; and what happens in the
device as a microsecond passes. -/

namespace Sys2Proof.Machine

/-! ### What orders declare (R69) -/

/-- Bits of a word that an order writes, or needs as they are: its offset, a mask and their values. -/
structure Bits where
  off : Nat
  mask : Nat
  v : Nat
  deriving DecidableEq, Repr

def fieldBits (off lo width v : Nat) : Bits := ⟨off, (2 ^ width - 1) * 2 ^ lo, v % 2 ^ width * 2 ^ lo⟩

/-- Do two declarations of bits give some bit different values. -/
def Bits.clash (a b : Bits) : Bool := a.off == b.off && (a.v ^^^ b.v) &&& a.mask &&& b.mask != 0

/-- The bits among declared resources, and the other resources. -/
def claimBits (l : List (Resource × Nat)) : List Bits :=
  l.filterMap (fun p => match p.1 with | .regField off lo width => some (fieldBits off lo width p.2) | _ => none)

def claimRest (l : List (Resource × Nat)) : List (Resource × Nat) := l.filter (fun p => match p.1 with | .regField .. => false | _ => true)

/-- What an order declares: bits and resources it writes, those it requires, and exclusive locks it asks for. -/
structure Claim where
  bits : List Bits
  writes : List (Resource × Nat)
  needs : List (Resource × Nat)
  locks : List Resource
  deriving DecidableEq, Repr

/-- The rank of a Plova order at a level (R70). -/
def rankAt (l : Level) : Nat := if l = .service then 4 else 5

/-- The rank of a source, the number within the rank, and what stands between orders of one number (R70); all three are equal for one source only. A forwarded line keeps its Plova rank (R72), behind the
node's own sessions and by node; a DRT order stands at rank 6 by its tenant, in the order its frames entered XC-3, port 0 first (R158; DESIGN CHOICE, log entry 121). The ignition sequence stands at rank 3 (R412), behind the PF (DESIGN CHOICE, log entry 121). -/
def State.rankOf (s : State) : OrderSrc → Nat × Nat × Nat
  | .trip u => (1, unitBit u, 0)
  | .master _ _ => (2, 0, 0)
  | .pf => (3, 0, 0)
  | .sess n _ => (rankAt (s.ses n).level, n.val, 0)
  | .remote nd tg => (rankAt (s.levelOf (.remote nd tg)), 6 + nd.toNat, 0)
  | .ign => (3, 1, 0)
  | .vf n => (6, n.val, 0)
  | .drt t at' port => (6, t.val, 1 + 2 * at' + port.val)

/-- The doorbell that a write of a window word is (R131, R132, R528): tenant 0's by its offset in PF BAR0, a VF's by its offset in the VF BAR. -/
def doorOf (src : OrderSrc) (off : Nat) : Option (Tenant × Nat) :=
  match src with
  | .vf n => if off < 0x100 then some (n, off / 4) else none
  | _ => if inWin0 off = true ∧ off - win0 < 0x100 then some (0, (off - win0) / 4) else none

/-- The motor units that a write of MDR.TRIPCLR names (R370). -/
def tripUnits (v : Nat) : List MUnit := [MUnit.supply, .takeup, .fan, .head].filter (fun u => v.testBit (unitBit u))

/-- Beside its fields, what a register write declares: the state of a queue for QCMDn, the power state, the reset, a tenant's share, the latches a trip clear returns to 0, a doorbell. -/
def regResources (src : OrderSrc) (off v : Nat) : List (Resource × Nat) :=
  match doorOf src off, src with
  | some (t, slot), _ => [(.door t.val slot, v % 65536)]
  | none, .vf _ => []
  | none, _ =>
  if off = R.GLB_RSTCTL then [(.reset, v)]
  else if off = R.PWR_CTL then [(.power, v % 8)]
  else if off = R.MDR_TRIPCLR then (tripUnits v).map (fun u => (.trip u, 0))
  else match RegMap.find off with
    | some (d, i, _) =>
      if d.base = 0x2000c then (if v % 4 = 1 then [(.queue i, 1)] else if v % 4 = 2 then [(.queue i, 0)] else [])
      else if d.base = 0x40100 then [(.shares i, v)]
      else []
    | none => []

/-- The bits of one field that a write of `v` to its register leaves, as stored: none of a field that takes no write, the cleared ones of a field cleared by writing 1 (R13, R17). -/
def fieldClaim (off i : Nat) (wide : Bool) (word v : Nat) (f : FieldDef) : List Bits :=
  let mask := (2 ^ f.width - 1) * 2 ^ f.lo / 2 ^ (32 * word) % 2 ^ 32
  match f.acc with
  | .ro => []
  | .rc => []
  | .w1c => [⟨off, mask &&& v, 0⟩]
  | _ => if wide then [⟨off, mask, v⟩] else [⟨off, mask, RegMap.stored f i (v / 2 ^ f.lo % 2 ^ f.width) * 2 ^ f.lo⟩]

/-- The bits that a register write declares (R69): those of the fields that take it. A VF reaches none. -/
def regBits (src : OrderSrc) (off v : Nat) : List Bits :=
  match src with
  | .vf _ => []
  | _ => match RegMap.find off with
    | some (d, i, w) => (d.fields.map (fieldClaim off i d.wide w v)).flatten
    | none => []

/-- What a doorbell requires: its queue. -/
def State.doorNeeds (s : State) (t : Tenant) (slot : Nat) : List (Resource × Nat) :=
  match s.slotQueue? t slot with
  | some q => [(.queue q.id.val, 1)]
  | none => []

/-- Does a register write create a queue, which excludes another creation of it (R87, R161). -/
def creates (l : List (Resource × Nat)) : Bool := l.any (fun p => match p with | (.queue _, 1) => true | _ => false)

/-- The state of the cartridge as a number. -/
def cartCode : Cart → Nat
  | .none => 0 | .present => 1 | .loading => 2 | .ready => 3 | .writing => 4 | .reading => 5 | .unloading => 6 | .fault => 7

/-- What an order of the ignition sequence changes: the state of the cartridge, to READY, UNLOADING or WRITING, or the power state (R69, R412). -/
def State.ignWrites (s : State) : IgnOrder → List (Resource × Nat)
  | .recordStop => [(.cart, cartCode .ready)]
  | .unload => [(.cart, cartCode .unloading)]
  | .recordStart => [(.cart, cartCode .writing)]
  | .enter => match s.ignTarget with | some p => [(.power, pwrCode p)] | none => []

/-- What an order declares. A creation that names its queue excludes another of the same (R87); a doorbell requires its queue. -/
def State.claim (s : State) (o : Order) : Claim :=
  let n := (s.rankOf o.src).2.1
  match o.act with
  | .writeReg off v =>
    let rs := regResources o.src off v.toNat
    ⟨regBits o.src off v.toNat, rs, match doorOf o.src off with | some (t, slot) => s.doorNeeds t slot | none => [], if creates rs then rs.map (·.1) else []⟩
  | .writeField off lo width v => ⟨[fieldBits off lo width v], [], [], []⟩
  | .lockMotion => ⟨[], [(.motionLock, n + 1)], [], [.motionLock]⟩
  | .freeMotion => ⟨[], [(.motionLock, 0)], [], []⟩
  | .queueCreate _ (some q) _ _ _ => ⟨[], [(.queue q.val, 1)], [], [.queue q.val]⟩
  | .queueCreate _ none _ _ _ => ⟨[], [], [], []⟩
  | .queueDelete q => ⟨[], [(.queue q.val, 0)], [], []⟩
  | .doorbell t slot tail => ⟨[], [(.door t.val slot.val, tail.toNat)], s.doorNeeds t slot.val, []⟩
  | .tripLatch u => ⟨[], [(.trip u, 1)], [], []⟩
  | .ignOrder k => ⟨[], s.ignWrites k, [], []⟩
  | .drtOpen _ p => ⟨[], [(.binding p.queue.toNat, (s.rankOf o.src).2.2)], [(.queue p.queue.toNat, 1)], []⟩
  | .other writes needs => ⟨claimBits writes, claimRest writes, needs, []⟩

/-- Does one order change a state the other requires. -/
def Claim.spoils (a b : Claim) : Bool :=
  a.writes.any (fun p => b.needs.any (fun q => q.1 == p.1 && q.2 != p.2)) || a.bits.any (fun x => (claimBits b.needs).any (fun y => x.clash y))

/-- Are two orders of different sources contradictory (R69, R73). -/
def State.contradict (s : State) (a b : Order) : Bool :=
  let x := s.claim a
  let y := s.claim b
  s.rankOf a.src != s.rankOf b.src &&
    (x.bits.any (fun p => y.bits.any (fun q => p.clash q)) || x.writes.any (fun p => y.writes.any (fun q => p.1 == q.1 && p.2 != q.2)) ||
      x.spoils y || y.spoils x || x.locks.any (fun r => y.locks.contains r))

/-- Does rank and number `a` stand before `b` (R70). -/
def before (a b : Nat × Nat × Nat) : Bool := decide (a.1 < b.1) || (a.1 == b.1 && (decide (a.2.1 < b.2.1) || (a.2.1 == b.2.1 && decide (a.2.2 < b.2.2))))

/-- The order that beats `o`: the first in precedence among those it contradicts and does not beat; none when it wins (R70). A trip is never rejected (R71). -/
def State.beatenBy (s : State) (l : List Order) (o : Order) : Option Order :=
  match o.src with
  | .trip _ => none
  | _ => (l.filter (fun (b : Order) => s.contradict o b && before (s.rankOf b.src) (s.rankOf o.src))).foldl
      (fun best b => match best with
        | none => some b
        | some c => if before (s.rankOf b.src) (s.rankOf c.src) then some b else some c) none

/-- Insert an order by precedence, behind the earlier ones of its source (R73, R87). -/
def State.insertOrder (s : State) (o : Order) : List Order → List Order
  | [] => [o]
  | b :: bs => if before (s.rankOf o.src) (s.rankOf b.src) then o :: b :: bs else b :: State.insertOrder s o bs

/-! ### Winners (R68) -/

/-- The next state of an outcome. -/
def nextOf (s : State) : Host.Outcome State Fault Refusal → State
  | .next t => t
  | _ => s

/-- The line a session's order came on: the one it executes, if the tag agrees. -/
def State.orderLn (s : State) (n : Sid) (tag : List Char) : Ln :=
  match (s.ses n).lines with
  | w :: _ => if w.ln.tag = tag then w.ln else ⟨.sess n, tag, false⟩
  | [] => ⟨.sess n, tag, false⟩

/-- The line a forwarded order came on (R64). -/
def remoteLn (nd tg : BitVec 16) : Ln := ⟨.remote nd tg, [], false⟩

/-- A register write of a source, one field or the whole word. -/
def State.orderWrite (s : State) (src : Src) (off : Nat) (v : Word) : State := s.busWrite src off v

def State.withField (s : State) (off lo width v : Nat) : Word := BitVec.ofNat 32 (putBits (s.rd off).toNat lo width v)

/-- What the order of a line does when it has won: the verb acts and answers. An order that landed completes although its session has ended since (R43). -/
def State.lineAct (s : State) (ln : Ln) (a : Act) : State :=
  let here := s.present ln.who
  match a with
  | .writeReg off v => if here then nextOf s (execPoke ln (.offset off) v.toNat s) else s.orderWrite (srcOf ln) off v
  | .writeField off lo width v =>
    if here then nextOf s (execPoke ln (.field off lo width) v s) else s.orderWrite (srcOf ln) off (s.withField off lo width v)
  | .lockMotion => nextOf s (execLockMotion ln s)
  | .freeMotion => nextOf s (execFreeMotion ln s)
  | .queueCreate t q ring sizeLog timeout =>
    if here then nextOf s (execQueueCreate ln t (q.map (·.val)) ring (some (2 ^ sizeLog)) (some timeout) s)
    else (match s.create ⟨t.val, q.map (·.val), ring.map (·.toNat), some sizeLog, timeout⟩ with
      | .ok (t, _) => t
      | .error _ => s)
  | .queueDelete q => if here then nextOf s (execQueueDelete ln q.val s) else if (s.deleteCheck q.val).isSome then s else s.dropQueue q
  | .doorbell t slot tail => s.applyDoor t slot.val tail.toNat
  | .tripLatch _ => s
  | .drtOpen _ _ => s
  | .ignOrder _ => s
  | .other _ _ => s

/-- What an order of another source does when it has won. -/
def State.busAct (s : State) (src : Src) (a : Act) : State :=
  match a with
  | .writeReg off v => s.orderWrite src off v
  | .writeField off lo width v => s.orderWrite src off (s.withField off lo width v)
  | .queueCreate _ (some q) _ _ _ => nextOf s (execQcmdCreate src q s)
  | .queueDelete q => nextOf s (execQcmdDelete src q s)
  | .doorbell t slot tail => nextOf s (execDoorbellWrite t slot tail s)
  | _ => s

/-- A winner takes effect (R68). The master's `POKE` is answered like one that met no other order. -/
def State.win (s : State) (o : Order) : State :=
  match o.src, o.act with
  | .trip u, .tripLatch _ => if s.domainOn 6 && !(s.latched u) then s.trip u 1 (some (inputRec u)) else s
  | .trip _, _ => s
  | .master tag _, .writeReg off v => nextOf s (execCmdPoke 0#16 tag (BitVec.ofNat 32 off) v s)
  | .master _ _, a => s.busAct .master a
  | .pf, a => s.busAct .pf a
  | .vf n, a => s.busAct (.vf n) a
  | .sess n tag, a => s.lineAct (s.orderLn n tag) a
  | .remote nd tg, a => s.lineAct (remoteLn nd tg) a
  | .drt _ _ _, .drtOpen h p => nextOf s (execDrtOpen h p s)
  | .drt _ _ _, _ => s
  | .ign, .ignOrder k => s.ignAct k
  | .ign, _ => s

def State.winAll (s : State) : List Order → State
  | [] => s
  | o :: os => State.winAll (s.win o) os

/-! ### Losers (R71, R170) -/

/-- How a source is named to a loser (R71). A forwarded line is named by its node, a DRT order as its tenant's function, and the ignition sequence as the other source of its rank (DESIGN CHOICE, log entry 121: the spec names none of them). -/
def srcName : OrderSrc → List Char
  | .trip _ => "TRIP".toList
  | .master _ _ => "MASTER".toList
  | .pf => "PF".toList
  | .ign => "PF".toList
  | .sess n _ => 'S' :: decText n.val
  | .vf n => 'V' :: 'F' :: decText n.val
  | .remote nd _ => '@' :: decText nd.toNat
  | .drt t _ _ => 'V' :: 'F' :: decText t.val

/-- The offset of the register that a PF order writes. -/
def actOff : Act → Option Nat
  | .writeReg off _ => some off
  | .writeField off _ _ _ => some off
  | .queueCreate _ (some q) _ _ _ => some (R.QMG_QCMD q.val)
  | .queueDelete q => some (R.QMG_QCMD q.val)
  | .doorbell _ slot _ => some (win0 + 4 * slot.val)
  | _ => none

/-- The ring queue on which a lost doorbell is told, with its tail (R71, R170); none when there is no such queue. -/
def State.ringTail (s : State) (t : Tenant) (slot tail : Nat) : Option (Queue × Nat) :=
  match s.slotQueue? t slot with
  | none => none
  | some q => if q.drt then none else some (q, tail)

def State.noticeQueue (s : State) (o : Order) : Option (Queue × Nat) :=
  match o.act with
  | .doorbell t slot tail => s.ringTail t slot.val tail.toNat
  | .writeReg off v => match doorOf o.src off with
    | some (t, slot) => s.ringTail t slot (v.toNat % 65536)
    | none => none
  | _ => none

/-- The queue of a lost doorbell, unless a winner of the tick deletes it: then no queue is left to tell the loss on (R71, R133). -/
def State.noticeLeft (s : State) (won : List Order) (o : Order) : Option (Queue × Nat) :=
  match s.noticeQueue o with
  | some (q, tail) => if won.any (fun w => (s.claim w).writes.contains (.queue q.id.val, 0)) then none else some (q, tail)
  | none => none

/-- The queue whose QCMDn register a lost order wrote: its QRESn tells the loss (QMG.QRESn). -/
def qcmdOf (o : Order) : Option Nat :=
  match o.src, o.act with
  | .pf, .queueCreate _ (some q) _ _ _ => some q.val
  | .pf, .queueDelete q => some q.val
  | .master _ _, .queueCreate _ (some q) _ _ _ => some q.val
  | .master _ _, .queueDelete q => some q.val
  | .vf _, _ => none
  | _, .writeReg off _ => match RegMap.find off with
    | some (d, i, _) => if d.base = 0x2000c then some i else none
    | none => none
  | _, _ => none

/-- The notice of a doorbell that lost: at the applied tail, if the write would have made a slot available (R170). -/
def State.postNotice (s : State) (q : Queue) (tail : Nat) : State :=
  if q.badTail tail = true ∨ tail = q.tail then s else s.complete q q.tail (plainCqe q 0#16 Er.conflict.code 6)

/-- A function's loss without a queue to tell it on (TCNT.CONFL). -/
def State.countLoss (s : State) (t : Tenant) : State := s.setFn { s.fn t with confl := min 65535 ((s.fn t).confl + 1) }

/-- A PF write has lost: an ERR record names its register and the winner, PFLOST counts it, and the PF is told (R71, R196). -/
def State.pfLost (s : State) (o w : Order) : State :=
  let ofs : List Item := match actOff o.act with | some off => [⟨"OFS", .hex 6 off⟩] | none => []
  ((s.log { errRec .conflict .pcl (ofs ++ [⟨"WIN", .chars (srcName w.src)⟩]) with src := .pf }).count F.PCL_ARB_PFLOST 1).cause 8

/-- What every loss leaves: CONFL counts it, QRESn tells a lost queue command (R186), and a lost doorbell is told on its ring queue (R170). -/
def State.lossSeen (s : State) (won : List Order) (o : Order) : State :=
  let s := s.count F.PCL_ARB_CONFL 1
  let s := match qcmdOf o with
    | some q => s.qres q Er.conflict.code
    | none => s
  match s.noticeLeft won o with
  | some (q, tail) => s.postNotice q tail
  | none => s

/-- A loser that sent a line learns of its loss by the reply (R71). -/
def State.loseLine (s : State) (ln : Ln) (w : Order) : State :=
  if s.present ln.who then s.reply ln [] (.er .conflict [⟨"WINNER", .chars (srcName w.src)⟩]) else s

/-- A loser learns of its loss (R71, R158). The ignition sequence issues its order again (log entry 121). -/
def State.lose (s : State) (won : List Order) (o w : Order) : State :=
  let t := s.lossSeen won o
  match o.src, o.act with
  | .sess n tag, _ => t.loseLine (t.orderLn n tag) w
  | .remote nd tg, _ => t.loseLine (remoteLn nd tg) w
  | .pf, _ => t.pfLost o w
  | .vf n, _ => if (s.noticeLeft won o).isSome then t else t.countLoss n
  | .drt _ _ _, .drtOpen h _ => t.drtRefuse h .conflict
  | .drt _ _ _, _ => t
  | .master tag op, _ => t.sendRsp 0 tag.toNat op.toNat 0 Er.conflict.code []
  | .trip _, _ => t
  | .ign, _ => t

/-- The most orders a tick takes (R68). -/
def tickMax : Nat := 16

def State.decideTick (s : State) (l : List Order) : State :=
  let now := l.take tickMax
  let ranked := now.foldl (fun acc o => s.insertOrder o acc) []
  let won := ranked.filter (fun o => (s.beatenBy now o).isNone)
  let lost := ranked.filterMap (fun o => (s.beatenBy now o).map (fun w => (o, w)))
  let s := { s with arb := { s.arb with carried := l.drop tickMax, winners := won, losers := lost.map (fun (p : Order × Order) => p.1.src), mark := s.err.next } }
  lost.foldl (fun t p => t.lose won p.1 p.2) s

/-! ### Reads behind writes (R68) -/

/-- A read that waited returns its value. -/
def State.serveRead (s : State) : HeldRead → State
  | .bus src off => s.busRead src off
  | .peek node tag off => nextOf s (execCmdPeek node tag off s)
  | .line ln target count => nextOf s (execPeek ln target count s)

def HeldRead.src : HeldRead → Src
  | .bus src _ => src
  | .peek _ _ _ => .master
  | .line ln _ _ => srcOf ln

/-- The reads whose sources have nothing undecided left return, in order; the others wait on. -/
def State.serveReads (s : State) : List HeldRead → State
  | [] => s
  | r :: rs => State.serveReads (if s.awaits r.src then { s with arb := { s.arb with reads := s.arb.reads ++ [r] } } else s.serveRead r) rs

/-- The ERR log knows the first record of the tick whose winners take effect (R470). -/
def State.tickLog (s : State) (m : Option Nat) : State := { s with err := { s.err with fresh := m } }

/-- What the tick before decided takes effect, and the reads behind it return (R68). -/
def State.settleTick (s : State) : State :=
  let t := ({ s with arb := { s.arb with winners := [], losers := [], reads := [] } }.tickLog (some s.arb.mark)).winAll s.arb.winners
  (t.tickLog none).serveReads s.arb.reads

/-! ### A microsecond (R68, R140, R208, R423) -/

/-- Token balances grow by RATE bytes a microsecond up to their cap (R208). -/
def State.tokens (s : State) : State :=
  let ts := (List.finRange 256).filter (fun t => s.classOf t == 0 && decide (0 < s.rateOf t))
  ts.foldl (fun s t =>
    let b := s.bal t
    s.setBal { b with tokens := min (s.tokenCap t : Int) (b.tokens + s.rateOf t) }) s

/-- The timebase goes on by 1 us at its last rate correction, and is slewed by at most 500 ppm: 1 ns in each second tick (R139). -/
def State.timebase (s : State) : State :=
  let step : Int := if s.us % 2 = 1 ∨ s.eth.slew = 0 then 0 else if 0 < s.eth.slew then 1 else -1
  let f := s.eth.frac + s.eth.rate
  let whole := f.tdiv 1000000
  { s with eth := { s.eth with ns := ((s.eth.ns : Int) + 1000 + step + whole).toNat % 2 ^ 64, slew := s.eth.slew - step, frac := f - whole * 1000000 } }

/-- The real-time clock counts seconds, and is set from the timebase while SYNC is LOCKED; when it reaches the alarm it is a wake source (R400, AON.RTCSEC). -/
def State.rtc (s : State) : State :=
  if s.us % 1000000 = 0 then
    let n := (if s.bit F.ETH_TSTAT_LOCKED then s.eth.ns / 1000000000 else s.getF F.AON_RTCSEC_SEC + 1) % 2 ^ 32
    let s := s.setF F.AON_RTCSEC_SEC n
    if n ≠ 0 ∧ n = (s.rd R.AON_RTCALM).toNat then s.wakeNow .rtc else s
  else s

/-- Lines of every session whose turn has come are forwarded (R45, R64). -/
def State.forwardFronts (s : State) : State := allSids.foldl (fun t n => t.forwardFront n) s

/-- What happens in the device as a microsecond passes, beside arbitration. -/
def State.microsecond (s : State) : State :=
  let s := ({ s with us := s.us + 1 }.timebase).rtc
  let s := s.drtResume
  (((s.tokens.drtSyncAll s.eth.drt).selfReplies.powerTick).forwardFronts).headBalls

/-- The order of the ignition sequence that lands in this tick (R412). -/
def State.ignOrders (s : State) : List Order := match s.ignIssue with | some k => [⟨.ign, .ignOrder k⟩] | none => []

/-- ARBITRATION_TICK: the winners of the tick before take effect, a microsecond passes, and the orders that landed in it are decided, at most 16; further ones land in the next (R68). -/
def execArbitrationTick (orders : List Order) (s : State) : Host.Outcome State Fault Refusal :=
  let s := s.settleTick.microsecond
  .next (s.decideTick (s.ignOrders ++ s.arb.carried ++ orders))

end Sys2Proof.Machine
end

