-- ==== Sys2Proof/Machine/Query.lean ====
section
/-! DEFINITION. The status queries and the census verbs (03_command_reference R81, R89, R96; 16_xasen R437). -/

namespace Sys2Proof.Machine

/-- The holder of a seat or a lock, or NONE. -/
def holderVal : Option Who → Val
  | some w => whoVal w
  | none => .word "NONE"

/-- The session at SERVICE, or NONE. -/
def State.svcVal (s : State) : Val := holderVal (s.svcHolder.map Who.sess)

/-- The zone of the present wrap: C or E. -/
def State.zoneVal (s : State) : Val := dashUnless s.isLoaded (.word (if zoneE s.tape.wrap then "E" else "C"))

/-- The dataset being written or read. -/
def State.dsVal (s : State) : Val :=
  match s.writing?, s.rch.dfm with
  | some x, _ => .num x.ds.num
  | none, some d => .num d.ds
  | none, none => .dash

/-- STATE? (R81); in rescue mode PWR reads STANDBY and the other fields do not apply (R104). -/
def execStateQuery (ln : Ln) (s : State) : Host.Outcome State Fault Refusal :=
  .next (s.verb ln .view true (.ok s []
    (if s.boot.rescue then [⟨"PWR", .word "STANDBY"⟩, ⟨"CART", .dash⟩, ⟨"MOT", .dash⟩, ⟨"STEP", .dash⟩, ⟨"ZONE", .dash⟩, ⟨"DS", .dash⟩, ⟨"LOCK", .dash⟩, ⟨"SVC", .dash⟩]
     else
    [⟨"PWR", .word (pwrText s.pwr)⟩, ⟨"CART", .word s.cart.text⟩, ⟨"MOT", .word (motText s.mot)⟩, ⟨"STEP", .num (s.getF F.SRV_SPD_CUR)⟩,
     ⟨"ZONE", s.zoneVal⟩, ⟨"DS", s.dsVal⟩, ⟨"LOCK", holderVal s.con.mlock⟩, ⟨"SVC", s.svcVal⟩])))

/-- A cascade port's state. -/
def State.portVal (s : State) (p : Nat) : Val :=
  .word (match s.getF (F.XLK_PSTAT_STATE p) with | 2 => "UP" | 1 => "TRAIN" | _ => "DOWN")

/-- An Ethernet port's state. -/
def upDownVal (b : Bool) : Val := .word (if b then "UP" else "DOWN")

/-- The PCIe link as `CONTACT?` writes it, from HIF.STAT. -/
def State.linkVal (s : State) : Val :=
  if s.bit F.HIF_STAT_LINKUP then .chars ("GEN".toList ++ decText (s.getF F.HIF_STAT_SPEED) ++ 'X' :: decText (s.getF F.HIF_STAT_WIDTH)) else .word "DOWN"

/-- Census counts, which the master holds. -/
def State.censusVal (s : State) (n : Nat) : Val := dashUnless s.isMaster (.num n)

/-- A section of the sheet. -/
def sheetLine (name : String) (items : List Item) : List Item := ⟨"", .word name⟩ :: items

/-- Lines 1 to 7 of the sheet (R96). IN and OUT are the bytes taken and given in the last second (log entry 66). -/
def State.sheetA (s : State) : List (List Item) :=
  [sheetLine "ID" s.idItems,
   sheetLine "TIME" s.timeItems,
   sheetLine "POWER" [⟨"STATE", .word (pwrText s.pwr)⟩, ⟨"DOMAINS", .hex 4 (s.getF F.PWR_STAT_DOMAINS)⟩, ⟨"HOLDUP", .word (if s.pw.holdup then "OK" else "LOW")⟩,
     ⟨"FIXER", .word (fixText s.fixer)⟩],
   sheetLine "CART" [⟨"STATE", .word s.cart.text⟩, ⟨"ID", dashUnless s.isLoaded (.chars s.tape.id)⟩, ⟨"C3", dashUnless s.isLoaded (onOff s.tape.c3)⟩,
     ⟨"WP", dashUnless (s.cart != .none) (.num (if s.tape.wp then 1 else 0))⟩, ⟨"USED", dashUnless s.isLoaded (.num s.usedPct)⟩, ⟨"DS", s.dsVal⟩],
   sheetLine "MOTION" [⟨"MOT", .word (motText s.mot)⟩, ⟨"STEP", .num (s.getF F.SRV_SPD_CUR)⟩, ⟨"DIR", .word (dirText (s.bit F.SRV_STAT_DIR))⟩, ⟨"ZONE", s.zoneVal⟩,
     ⟨"BAND", dashUnless s.isLoaded (.num (s.getF F.SRV_STAT_BAND))⟩, ⟨"WRAP", dashUnless s.isLoaded (.num (s.getF F.SRV_STAT_WRAP))⟩, ⟨"TRIP", .axes s.trippedNames⟩],
   sheetLine "RATE" [⟨"IN", .num s.ingestNow⟩, ⟨"OUT", .num (s.rateOfLast s.flow.gave / 1000000)⟩],
   sheetLine "TANK" [⟨"USED", .num (s.tnk.used.length / 256)⟩, ⟨"FREE", .num (s.freePages / 256)⟩, ⟨"FENCED", .num (s.tnk.fenced.length / 2)⟩]]

/-- Lines 8 to 13. -/
def State.sheetB (s : State) : List (List Item) :=
  [sheetLine "FIXER" [⟨"RES", .num s.resUsed⟩, ⟨"MAX", .num 3932160⟩],
   sheetLine "HOST" [⟨"LINK", s.linkVal⟩, ⟨"VFS", .num (if s.hif.vfen then s.hif.numVf else 0)⟩, ⟨"QUEUES", .num s.qmg.queues.length⟩],
   sheetLine "NET" [⟨"P0", upDownVal (s.bit F.ETH_PSTAT_UP0)⟩, ⟨"P1", upDownVal (s.bit F.ETH_PSTAT_UP1)⟩, ⟨"DRT", onOff (s.bit F.ETH_DRTCFG_EN)⟩,
     ⟨"TCP", .num (tcpSids.filter (fun (n : Sid) => (s.ses n).isOpen)).length⟩],
   sheetLine "CASCADE" [⟨"NODES", s.censusVal (s.getF F.XLK_CENS_NODES)⟩, ⟨"STALE", s.censusVal (s.getF F.XLK_CENS_STALE)⟩, ⟨"U", s.portVal 0⟩, ⟨"D0", s.portVal 1⟩,
     ⟨"D1", s.portVal 2⟩, ⟨"D2", s.portVal 3⟩],
   sheetLine "ERR" [⟨"COUNT", .num s.err.recs.length⟩, ⟨"LASTCODE", match s.err.last with | some (_, e) => .num e.code | none => .dash⟩,
     ⟨"LASTSEQ", match s.err.last with | some (q, _) => .num q | none => .dash⟩],
   sheetLine "LOCK" [⟨"MOTION", holderVal s.con.mlock⟩, ⟨"SERVICE", s.svcVal⟩]]

/-- CONTACT? (R96). -/
def execContactQuery (ln : Ln) (s : State) : Host.Outcome State Fault Refusal :=
  .next (s.verb ln .view true (.ok s (s.sheetA ++ s.sheetB) [⟨"LINES", .num 13⟩]))

/-- NODE? (R89). -/
def execNodeQuery (ln : Ln) (s : State) : Host.Outcome State Fault Refusal :=
  .next (s.verb ln .view false (.ok s []
    [⟨"NODE", s.nodeVal⟩, ⟨"MASTER", .num (s.getF F.XLK_STAT_MASTER)⟩, ⟨"UP", s.portVal 0⟩, ⟨"D0", s.portVal 1⟩, ⟨"D1", s.portVal 2⟩, ⟨"D2", s.portVal 3⟩,
     ⟨"STALE", .num (s.getF F.XLK_STAT_STALE)⟩]))

/-- CENSUS (R89, R437): it starts a sweep on the master, or joins the one that runs. The sweep begins once the reply has left. -/
def execCensus (ln : Ln) (s : State) : Host.Outcome State Fault Refusal :=
  let t := s.verb ln .operate false
    (if s.isMaster = false then .er .notmaster [] else .ok { s with con := { s.con with opCensus := s.con.opCensus ++ [ln] } } [] startedItems)
  let begun := t.con.opCensus.length != s.con.opCensus.length
  .next (if begun && t.xlk.sweep.isNone then t.startSweep else t)

/-- CENSUS? (R89). -/
def execCensusQuery (ln : Ln) (s : State) : Host.Outcome State Fault Refusal :=
  .next (s.verb ln .view false
    (if s.isMaster = false then .er .notmaster []
     else .ok s [] [⟨"NODES", .num (s.getF F.XLK_CENS_NODES)⟩, ⟨"STALE", .num (s.getF F.XLK_CENS_STALE)⟩,
       ⟨"LAST", if s.rd64 R.XLK_CTIME = 0 then .dash else .sec (s.rd64 R.XLK_CTIME)⟩]))

end Sys2Proof.Machine
end

