-- ==== Sys2Proof/Machine/Service.lean ====
section
/-! DEFINITION. The service verbs: keys (03_command_reference R91, R92; 10_dataset R291, R293) and firmware updates (R91, R93; 04_start_up R102, R103). -/

namespace Sys2Proof.Machine

/-! ### Keys -/

/-- The key a line's sender has in staging. Lines from one node share one (DESIGN CHOICE, log entry 65). -/
def State.staging (s : State) (who : Who) : Option KeyStage :=
  match who with
  | .sess n => (s.ses n).key
  | .remote .. => (s.con.remKeys.find? (fun p => p.1 == Who.owner who)).map (·.2)

def State.setStaging (s : State) (who : Who) (k : Option KeyStage) : State :=
  match who with
  | .sess n => s.setSes n { s.ses n with key := k }
  | .remote .. =>
    let rest := s.con.remKeys.filter (fun p => p.1 != Who.owner who)
    { s with con := { s.con with remKeys := match k with | some k => (Who.owner who, k) :: rest | none => rest } }

/-- The check value of a key: the first two bytes of HMAC-SHA-256 under it over `ZHEVVEX-CHECK` (R91). -/
def keyCheck (key : List Byte) : List Char :=
  ((hmacSha256 key (charBytes "ZHEVVEX-CHECK".toList)).take 2).flatMap (fun b => hexDigits 2 b.toNat)

/-- A slot of the key store. -/
def slotOf (ks : List KeySlot) (t : Tenant) : KeySlot := (ks.find? (fun (k : KeySlot) => k.t == t)).getD ⟨t, none, none, 0⟩

def putSlot (ks : List KeySlot) (k : KeySlot) : List KeySlot := k :: ks.filter (fun (x : KeySlot) => x.t != k.t)

/-- Write a key into its slot; the next extent built under it starts a new chain (R92, R293). -/
def State.writeKey (s : State) (t : Tenant) (kind : KeyKind) (key : List Byte) : State :=
  let k := slotOf s.sec.keys t
  let k : KeySlot := match kind with
    | .hmac => { k with hmac := some key, gen := k.gen + 1 }
    | .aes => { k with aes := some key, gen := k.gen + 1 }
  { s with sec := { s.sec with keys := putSlot s.sec.keys k } }

def kindText : KeyKind → String
  | .hmac => "HMAC" | .aes => "AES"

/-- The parts staged so far when the next one of a slot and kind arrives (R92). -/
def stagedFor (st : Option KeyStage) (kind : KeyKind) (slot : Tenant) : List DWord :=
  match st with
  | some k => if k.kind = kind ∧ k.slot = slot.val then k.parts else []
  | none => []

/-- KEY (R91, R92): the parts in order; one out of order discards the staging. -/
def execKey (ln : Ln) (kind : KeyKind) (slot : Tenant) (part : Nat) (hex : DWord) (s : State) : Host.Outcome State Fault Refusal :=
  .next (s.verb ln .service false
    (if part = 0 ∨ 4 < part then .er .badarg []
     else
       let parts := stagedFor (s.staging ln.who) kind slot
       if part ≠ parts.length + 1 then .fail (s.setStaging ln.who none) .keyseq
       else if part < 4 then .ok (s.setStaging ln.who (some ⟨kind, slot.val, parts ++ [hex]⟩)) [] [⟨"PART", .num part⟩]
       else
         let key := (parts ++ [hex]).flatMap (fun (p : DWord) => beBytes 8 p.toNat)
         .ok ((s.setStaging ln.who none).writeKey slot kind key) []
           [⟨"SLOT", .num slot.val⟩, ⟨"KIND", .word (kindText kind)⟩, ⟨"CHECK", .chars (keyCheck key)⟩]))

def setVal (k : Option (List Byte)) : Val := .word (if k.isSome then "SET" else "EMPTY")

/-- KEY? (R91): the check value of the HMAC key, or of the AES key in a slot with that one only (DESIGN CHOICE, log entry 68). -/
def execKeyQuery (ln : Ln) (slot : Tenant) (s : State) : Host.Outcome State Fault Refusal :=
  .next (s.verb ln .view false
    (let k := slotOf s.sec.keys slot
     .ok s [] [⟨"SLOT", .num slot.val⟩, ⟨"HMAC", setVal k.hmac⟩, ⟨"AES", setVal k.aes⟩,
       ⟨"CHECK", match k.hmac.or k.aes with | some x => .chars (keyCheck x) | none => .dash⟩]))

/-- KEY ERASE (R91): with the HMAC key the tenant's chain ends (R293). -/
def execKeyErase (ln : Ln) (slot : Tenant) (which : EraseArg) (s : State) : Host.Outcome State Fault Refusal :=
  .next (s.verb ln .service false
    (let k := slotOf s.sec.keys slot
     let h := which != .aes
     let a := which != .hmac
     let k : KeySlot := { k with hmac := if h then none else k.hmac, aes := if a then none else k.aes }
     let chains := if h then s.sec.chains.filter (fun (l : Link) => l.t != slot) else s.sec.chains
     .ok { s with sec := { s.sec with keys := putSlot s.sec.keys k, chains := chains } } []
       [⟨"SLOT", .num slot.val⟩, ⟨"HMAC", setVal k.hmac⟩, ⟨"AES", setVal k.aes⟩]))

/-! ### Firmware updates -/

/-- The update that a line's sender has open (R91, R93). -/
def State.openUpdate (s : State) (ln : Ln) : Option Update :=
  match s.con.update with
  | some u => if u.owner = Who.owner ln.who then some u else none
  | none => none

/-- The bytes of an update's image: its words big-endian, as many bytes as it was opened for (log entry 67). -/
def updateBytes (u : Update) : List Byte := (u.words.flatMap (fun (w : Word) => beBytes 4 w.toNat)).take u.size

/-- FWUPDATE START (R91, R93, R102). A `TEST BOOT` run in rescue mode, which an open update excludes, excludes an update in turn (R106; DEDUCED, log entry 67). -/
def execFwupdateStart (ln : Ln) (size : Nat) (s : State) : Host.Outcome State Fault Refusal :=
  .next (s.verb ln .service true
    (if s.con.update.isSome = true ∨ s.boot.commit.isSome = true ∨ (s.boot.rescue = true ∧ s.boot.testing = true) then .er .updbusy []
     else if size % 4 ≠ 0 ∨ size < 4 ∨ imageMax < size then .er .badarg []
     else .ok { s with con := { s.con with update := some ⟨Who.owner ln.who, size, []⟩ } } [] [⟨"MAX", .num imageMax⟩]))

/-- FLASH WRITE (R91): 16 words at the NEXT of the previous reply. -/
def execFlashWrite (ln : Ln) (off : Nat) (words : List Word) (s : State) : Host.Outcome State Fault Refusal :=
  .next (s.verb ln .service true
    (match s.openUpdate ln with
     | none => .er .noupdate []
     | some u =>
       let next := 4 * u.words.length
       if words.length ≠ 16 then .er .args []
       else if off ≠ next ∨ u.size ≤ next then .er .badarg []
       else .ok { s with con := { s.con with update := some { u with words := u.words ++ words } } } [] [⟨"NEXT", .hex 6 (next + 64)⟩]))

/-- FWUPDATE COMMIT (R91, R103): the write of the image starts; its CRC-32 is checked on the way. -/
def execFwupdateCommit (ln : Ln) (crc : Word) (s : State) : Host.Outcome State Fault Refusal :=
  .next (s.verb ln .service true
    (match s.openUpdate ln with
     | none => .er .noupdate []
     | some u =>
       if 4 * u.words.length < u.size then .er .noupdate []
       else .ok { s with con := { s.con with update := none, opFw := some ln }, boot := { s.boot with commit := some (crc, u) } } [] startedItems))

/-- The slot that did not boot receives the image, with SEQ one higher than that of the running image (R103). -/
def State.writeSlot (s : State) (crc : Word) (u : Update) : State × Slot :=
  let bytes := updateBytes u
  let running := if s.boot.bootedB then s.boot.slotB else s.boot.slotA
  let new : Slot := Slot.of (BitVec.ofNat 32 slotMagic) (running.seq + 1#32) u.size crc (Config.imageVersion bytes) bytes
  let b := s.boot
  let s := { s with boot := if b.bootedB then { b with slotA := new } else { b with slotB := new } }
  ((s.emit (.flashWritten (imageBase (!b.bootedB)) bytes)).emit (.flashWritten (slotBase (!b.bootedB)) (headerBytes new)), new)

/-- FWUPDATE_COMMIT_COMPLETE (R91): with a wrong CRC-32 nothing is written and the update is abandoned (R93). -/
def execFwupdateCommitComplete (s : State) : Host.Outcome State Fault Refusal :=
  match s.boot.commit with
  | none => .next s
  | some (crc, u) =>
    let ln := s.con.opFw
    let s := { s with boot := { s.boot with commit := none }, con := { s.con with opFw := none } }
    if crc32 (updateBytes u) = crc.toNat then
      let r := s.writeSlot crc u
      .next (r.1.done ln [⟨"FW", .chars (versionText r.2.version)⟩])
    else .next (s.done ln (erItems .fwcrc []))

/-- FWUPDATE ABORT (R91, R93). -/
def execFwupdateAbort (ln : Ln) (s : State) : Host.Outcome State Fault Refusal :=
  .next (s.verb ln .service true
    (match s.openUpdate ln with
     | none => .er .noupdate []
     | some _ => .ok { s with con := { s.con with update := none } } [] []))

end Sys2Proof.Machine
end

