-- ==== Sys2Proof/Machine/Dispatch.lean ====
section
/-! DEFINITION. The meaning of every command. -/

namespace Sys2Proof.Machine

def exec (i : Instr) (s : State) : Host.Outcome State Fault Refusal :=
  match i with
  | .registerWrite a0 a1 a2 => Sys2Proof.Machine.execRegisterWrite a0 a1 a2 s
  | .rcFieldRead a0 a1 => Sys2Proof.Machine.execRcFieldRead a0 a1 s
  | .writeLowHalf a0 a1 a2 => Sys2Proof.Machine.execWriteLowHalf a0 a1 a2 s
  | .writeHighHalf a0 a1 a2 => Sys2Proof.Machine.execWriteHighHalf a0 a1 a2 s
  | .readLowHalf a0 a1 => Sys2Proof.Machine.execReadLowHalf a0 a1 s
  | .readHighHalf a0 a1 => Sys2Proof.Machine.execReadHighHalf a0 a1 s
  | .arbitrationTick a0 => Sys2Proof.Machine.execArbitrationTick a0 s
  | .clockLoss a0 => Sys2Proof.Machine.execClockLoss a0 s
  | .refClockLoss => Sys2Proof.Machine.execRefClockLoss s
  | .writeUnderrun a0 => Sys2Proof.Machine.execWriteUnderrun a0 s
  | .doorbellWrite a0 a1 a2 => Sys2Proof.Machine.execDoorbellWrite a0 a1 a2 s
  | .plovaLine a0 a1 => Sys2Proof.Machine.execPlovaLine a0 a1 s
  | .lineEditCharacter a0 a1 => Sys2Proof.Machine.execLineEditCharacter a0 a1 s
  | .uartBreak a0 => Sys2Proof.Machine.execUartBreak a0 s
  | .tcpConnect a0 => Sys2Proof.Machine.execTcpConnect a0 s
  | .tcpClose a0 => Sys2Proof.Machine.execTcpClose a0 s
  | .tcpIdleTimeout a0 => Sys2Proof.Machine.execTcpIdleTimeout a0 s
  | .serviceTimeout a0 => Sys2Proof.Machine.execServiceTimeout a0 s
  | .level a0 a1 => Sys2Proof.Machine.execLevel a0 a1 s
  | .session a0 a1 a2 a3 a4 => Sys2Proof.Machine.execSession a0 a1 a2 a3 a4 s
  | .sessionQuery a0 => Sys2Proof.Machine.execSessionQuery a0 s
  | .lockMotion a0 => Sys2Proof.Machine.execLockMotion a0 s
  | .freeMotion a0 => Sys2Proof.Machine.execFreeMotion a0 s
  | .helpQuery a0 a1 => Sys2Proof.Machine.execHelpQuery a0 a1 s
  | .idQuery a0 => Sys2Proof.Machine.execIdQuery a0 s
  | .stateQuery a0 => Sys2Proof.Machine.execStateQuery a0 s
  | .timeQuery a0 => Sys2Proof.Machine.execTimeQuery a0 s
  | .errQuery a0 a1 a2 => Sys2Proof.Machine.execErrQuery a0 a1 a2 s
  | .errClear a0 => Sys2Proof.Machine.execErrClear a0 s
  | .errCtlClear a0 a1 => Sys2Proof.Machine.execErrCtlClear a0 a1 s
  | .contactQuery a0 => Sys2Proof.Machine.execContactQuery a0 s
  | .peek a0 a1 a2 => Sys2Proof.Machine.execPeek a0 a1 a2 s
  | .poke a0 a1 a2 => Sys2Proof.Machine.execPoke a0 a1 a2 s
  | .load a0 a1 => Sys2Proof.Machine.execLoad a0 a1 s
  | .loadComplete a0 => Sys2Proof.Machine.execLoadComplete a0 s
  | .unload a0 => Sys2Proof.Machine.execUnload a0 s
  | .unloadComplete a0 => Sys2Proof.Machine.execUnloadComplete a0 s
  | .cartQuery a0 => Sys2Proof.Machine.execCartQuery a0 s
  | .recordStart a0 => Sys2Proof.Machine.execRecordStart a0 s
  | .recordStartComplete => Sys2Proof.Machine.execRecordStartComplete s
  | .recordStop a0 => Sys2Proof.Machine.execRecordStop a0 s
  | .recordStopComplete => Sys2Proof.Machine.execRecordStopComplete s
  | .flush a0 => Sys2Proof.Machine.execFlush a0 s
  | .flushDatasetClose => Sys2Proof.Machine.execFlushDatasetClose s
  | .motionStart a0 a1 a2 => Sys2Proof.Machine.execMotionStart a0 a1 a2 s
  | .motionStop a0 => Sys2Proof.Machine.execMotionStop a0 s
  | .speed a0 a1 => Sys2Proof.Machine.execSpeed a0 a1 s
  | .locate a0 a1 => Sys2Proof.Machine.execLocate a0 a1 s
  | .locateLpw a0 a1 => Sys2Proof.Machine.execLocateLpw a0 a1 s
  | .locateComplete a0 a1 a2 => Sys2Proof.Machine.execLocateComplete a0 a1 a2 s
  | .locateProbe a0 => Sys2Proof.Machine.execLocateProbe a0 s
  | .motionQuery a0 => Sys2Proof.Machine.execMotionQuery a0 s
  | .tripQuery a0 => Sys2Proof.Machine.execTripQuery a0 s
  | .tripClear a0 a1 => Sys2Proof.Machine.execTripClear a0 a1 s
  | .mdrTripclrWrite a0 a1 => Sys2Proof.Machine.execMdrTripclrWrite a0 a1 s
  | .tenantQuery a0 a1 => Sys2Proof.Machine.execTenantQuery a0 a1 s
  | .tenant a0 a1 a2 a3 a4 => Sys2Proof.Machine.execTenant a0 a1 a2 a3 a4 s
  | .queueCreate a0 a1 a2 a3 a4 a5 => Sys2Proof.Machine.execQueueCreate a0 a1 a2 a3 a4 a5 s
  | .queueDelete a0 a1 => Sys2Proof.Machine.execQueueDelete a0 a1 s
  | .queueQuery a0 a1 => Sys2Proof.Machine.execQueueQuery a0 a1 s
  | .qcmdCreate a0 a1 => Sys2Proof.Machine.execQcmdCreate a0 a1 s
  | .qcmdDelete a0 a1 => Sys2Proof.Machine.execQcmdDelete a0 a1 s
  | .resetFunction a0 a1 => Sys2Proof.Machine.execResetFunction a0 a1 s
  | .power a0 a1 => Sys2Proof.Machine.execPower a0 a1 s
  | .powerQuery a0 => Sys2Proof.Machine.execPowerQuery a0 s
  | .resetWarm a0 a1 => Sys2Proof.Machine.execResetWarm a0 a1 s
  | .resetDomain a0 a1 => Sys2Proof.Machine.execResetDomain a0 a1 s
  | .nodeQuery a0 => Sys2Proof.Machine.execNodeQuery a0 s
  | .census a0 => Sys2Proof.Machine.execCensus a0 s
  | .censusQuery a0 => Sys2Proof.Machine.execCensusQuery a0 s
  | .testCodec a0 => Sys2Proof.Machine.execTestCodec a0 s
  | .testProof a0 => Sys2Proof.Machine.execTestProof a0 s
  | .testBoot a0 => Sys2Proof.Machine.execTestBoot a0 s
  | .testBootComplete a0 a1 => Sys2Proof.Machine.execTestBootComplete a0 a1 s
  | .testTank a0 a1 => Sys2Proof.Machine.execTestTank a0 a1 s
  | .key a0 a1 a2 a3 a4 => Sys2Proof.Machine.execKey a0 a1 a2 a3 a4 s
  | .keyQuery a0 a1 => Sys2Proof.Machine.execKeyQuery a0 a1 s
  | .keyErase a0 a1 a2 => Sys2Proof.Machine.execKeyErase a0 a1 a2 s
  | .fwupdateStart a0 a1 => Sys2Proof.Machine.execFwupdateStart a0 a1 s
  | .flashWrite a0 a1 a2 => Sys2Proof.Machine.execFlashWrite a0 a1 a2 s
  | .fwupdateCommit a0 a1 => Sys2Proof.Machine.execFwupdateCommit a0 a1 s
  | .fwupdateCommitComplete => Sys2Proof.Machine.execFwupdateCommitComplete s
  | .fwupdateAbort a0 => Sys2Proof.Machine.execFwupdateAbort a0 s
  | .pwrgdRise a0 a1 a2 => Sys2Proof.Machine.execPwrgdRise a0 a1 a2 s
  | .pwrgdFall => Sys2Proof.Machine.execPwrgdFall s
  | .fuseMapLoad a0 a1 => Sys2Proof.Machine.execFuseMapLoad a0 a1 s
  | .bootImageLoad a0 a1 => Sys2Proof.Machine.execBootImageLoad a0 a1 s
  | .bootSelfTest a0 a1 a2 => Sys2Proof.Machine.execBootSelfTest a0 a1 a2 s
  | .fixerJournalScan => Sys2Proof.Machine.execFixerJournalScan s
  | .firstPrompt a0 => Sys2Proof.Machine.execFirstPrompt a0 s
  | .warmReset a0 => Sys2Proof.Machine.execWarmReset a0 s
  | .domainReset a0 => Sys2Proof.Machine.execDomainReset a0 s
  | .rstctlWarm a0 a1 => Sys2Proof.Machine.execRstctlWarm a0 a1 s
  | .rstctlDomain a0 a1 => Sys2Proof.Machine.execRstctlDomain a0 a1 s
  | .perstAssert => Sys2Proof.Machine.execPerstAssert s
  | .watchdogExpiry => Sys2Proof.Machine.execWatchdogExpiry s
  | .watchdogWrite a0 a1 => Sys2Proof.Machine.execWatchdogWrite a0 a1 s
  | .functionLevelReset a0 => Sys2Proof.Machine.execFunctionLevelReset a0 s
  | .pfFlr => Sys2Proof.Machine.execPfFlr s
  | .vfEnable a0 a1 => Sys2Proof.Machine.execVfEnable a0 a1 s
  | .vfDisable => Sys2Proof.Machine.execVfDisable s
  | .drtTenantDisable a0 a1 => Sys2Proof.Machine.execDrtTenantDisable a0 a1 s
  | .drtDisable a0 => Sys2Proof.Machine.execDrtDisable a0 s
  | .msixTableWrite a0 a1 a2 => Sys2Proof.Machine.execMsixTableWrite a0 a1 a2 s
  | .drtOpen a0 a1 => Sys2Proof.Machine.execDrtOpen a0 a1 s
  | .drtData a0 a1 => Sys2Proof.Machine.execDrtData a0 a1 s
  | .drtClose a0 => Sys2Proof.Machine.execDrtClose a0 s
  | .drtKeepalive a0 => Sys2Proof.Machine.execDrtKeepalive a0 s
  | .drtAckTimer a0 => Sys2Proof.Machine.execDrtAckTimer a0 s
  | .drtGapTimer a0 => Sys2Proof.Machine.execDrtGapTimer a0 s
  | .drtIdleTimeout a0 => Sys2Proof.Machine.execDrtIdleTimeout a0 s
  | .arpRequest a0 a1 a2 => Sys2Proof.Machine.execArpRequest a0 a1 a2 s
  | .icmpEcho a0 a1 a2 a3 => Sys2Proof.Machine.execIcmpEcho a0 a1 a2 a3 s
  | .ethLinkChange a0 a1 a2 a3 => Sys2Proof.Machine.execEthLinkChange a0 a1 a2 a3 s
  | .gptpSync a0 a1 => Sys2Proof.Machine.execGptpSync a0 a1 s
  | .gptpSyncTimeout => Sys2Proof.Machine.execGptpSyncTimeout s
  | .descriptorFetchWrite a0 a1 => Sys2Proof.Machine.execDescriptorFetchWrite a0 a1 s
  | .descriptorFetchRead a0 a1 => Sys2Proof.Machine.execDescriptorFetchRead a0 a1 s
  | .descriptorFetchBarrier a0 a1 => Sys2Proof.Machine.execDescriptorFetchBarrier a0 a1 s
  | .descriptorFetchNop a0 a1 => Sys2Proof.Machine.execDescriptorFetchNop a0 a1 s
  | .descriptorDmaError a0 => Sys2Proof.Machine.execDescriptorDmaError a0 s
  | .recordDmaComplete a0 a1 a2 => Sys2Proof.Machine.execRecordDmaComplete a0 a1 a2 s
  | .recordDmaError a0 a1 => Sys2Proof.Machine.execRecordDmaError a0 a1 s
  | .reservationCharge => Sys2Proof.Machine.execReservationCharge s
  | .msixCoalesceTimeout a0 => Sys2Proof.Machine.execMsixCoalesceTimeout a0 s
  | .readComplete a0 a1 => Sys2Proof.Machine.execReadComplete a0 a1 s
  | .readTimeout a0 a1 => Sys2Proof.Machine.execReadTimeout a0 a1 s
  | .cartReadingIdle => Sys2Proof.Machine.execCartReadingIdle s
  | .notifyHoldoffEnd a0 a1 => Sys2Proof.Machine.execNotifyHoldoffEnd a0 a1 s
  | .overrateCheck a0 a1 => Sys2Proof.Machine.execOverrateCheck a0 a1 s
  | .tvecWrite a0 a1 a2 => Sys2Proof.Machine.execTvecWrite a0 a1 a2 s
  | .qvecWrite a0 a1 a2 => Sys2Proof.Machine.execQvecWrite a0 a1 a2 s
  | .tshareWrite a0 a1 a2 => Sys2Proof.Machine.execTshareWrite a0 a1 a2 s
  | .gcapWrite a0 a1 => Sys2Proof.Machine.execGcapWrite a0 a1 s
  | .schFeed a0 => Sys2Proof.Machine.execSchFeed a0 s
  | .bulkStarve a0 => Sys2Proof.Machine.execBulkStarve a0 s
  | .blockEncodeComplete a0 a1 => Sys2Proof.Machine.execBlockEncodeComplete a0 a1 s
  | .blockPlace => Sys2Proof.Machine.execBlockPlace s
  | .rdcEngineEnableWrite a0 a1 => Sys2Proof.Machine.execRdcEngineEnableWrite a0 a1 s
  | .enlEngineEnableWrite a0 a1 => Sys2Proof.Machine.execEnlEngineEnableWrite a0 a1 s
  | .blockExpand a0 a1 a2 a3 a4 a5 => Sys2Proof.Machine.execBlockExpand a0 a1 a2 a3 a4 a5 s
  | .codecTestPeriod => Sys2Proof.Machine.execCodecTestPeriod s
  | .codecTestSlice a0 a1 a2 => Sys2Proof.Machine.execCodecTestSlice a0 a1 a2 s
  | .codecTestWaitExpiry a0 => Sys2Proof.Machine.execCodecTestWaitExpiry a0 s
  | .tankRead a0 a1 a2 a3 a4 => Sys2Proof.Machine.execTankRead a0 a1 a2 a3 a4 s
  | .tankPartialWrite a0 a1 a2 a3 a4 a5 a6 => Sys2Proof.Machine.execTankPartialWrite a0 a1 a2 a3 a4 a5 a6 s
  | .tankAtomicAdd a0 a1 a2 a3 a4 a5 a6 => Sys2Proof.Machine.execTankAtomicAdd a0 a1 a2 a3 a4 a5 a6 s
  | .tankAtomicSwap a0 a1 a2 a3 a4 a5 a6 => Sys2Proof.Machine.execTankAtomicSwap a0 a1 a2 a3 a4 a5 a6 s
  | .requestAgeExpiry a0 a1 a2 => Sys2Proof.Machine.execRequestAgeExpiry a0 a1 a2 s
  | .tankWindowAccess a0 a1 a2 a3 a4 => Sys2Proof.Machine.execTankWindowAccess a0 a1 a2 a3 a4 s
  | .marchBurst a0 => Sys2Proof.Machine.execMarchBurst a0 s
  | .scratchpadFetchError a0 a1 a2 a3 => Sys2Proof.Machine.execScratchpadFetchError a0 a1 a2 a3 s
  | .scratchpadReloadDone => Sys2Proof.Machine.execScratchpadReloadDone s
  | .spdRemapAdd a0 a1 => Sys2Proof.Machine.execSpdRemapAdd a0 a1 s
  | .datasetClose => Sys2Proof.Machine.execDatasetClose s
  | .datasetStreamStart => Sys2Proof.Machine.execDatasetStreamStart s
  | .frameWrite a0 => Sys2Proof.Machine.execFrameWrite a0 s
  | .frameVerdict a0 a1 => Sys2Proof.Machine.execFrameVerdict a0 a1 s
  | .datasetDecode a0 => Sys2Proof.Machine.execDatasetDecode a0 s
  | .frameRead a0 a1 => Sys2Proof.Machine.execFrameRead a0 a1 s
  | .lossOfLock a0 a1 => Sys2Proof.Machine.execLossOfLock a0 a1 s
  | .readRetry => Sys2Proof.Machine.execReadRetry s
  | .loupeArm a0 a1 => Sys2Proof.Machine.execLoupeArm a0 a1 s
  | .loupeFire a0 a1 => Sys2Proof.Machine.execLoupeFire a0 a1 s
  | .loupeCaptureEnd => Sys2Proof.Machine.execLoupeCaptureEnd s
  | .proofCheckpoint a0 a1 => Sys2Proof.Machine.execProofCheckpoint a0 a1 s
  | .servoFrame a0 a1 a2 a3 a4 => Sys2Proof.Machine.execServoFrame a0 a1 a2 a3 a4 s
  | .servoLostTimeout => Sys2Proof.Machine.execServoLostTimeout s
  | .lpwokStopTimeout => Sys2Proof.Machine.execLpwokStopTimeout s
  | .turnaround => Sys2Proof.Machine.execTurnaround s
  | .speedEvaluation => Sys2Proof.Machine.execSpeedEvaluation s
  | .gapTimeout => Sys2Proof.Machine.execGapTimeout s
  | .backhitchResume => Sys2Proof.Machine.execBackhitchResume s
  | .packBurstStart => Sys2Proof.Machine.execPackBurstStart s
  | .carrierPeriod a0 a1 a2 => Sys2Proof.Machine.execCarrierPeriod a0 a1 a2 s
  | .catchEnd a0 a1 a2 a3 => Sys2Proof.Machine.execCatchEnd a0 a1 a2 a3 s
  | .alignEnd a0 => Sys2Proof.Machine.execAlignEnd a0 s
  | .observerHandover a0 => Sys2Proof.Machine.execObserverHandover a0 s
  | .startFail a0 => Sys2Proof.Machine.execStartFail a0 s
  | .motionStartComplete => Sys2Proof.Machine.execMotionStartComplete s
  | .controlledStopEnd => Sys2Proof.Machine.execControlledStopEnd s
  | .tripInput a0 a1 a2 => Sys2Proof.Machine.execTripInput a0 a1 a2 s
  | .overcurrent a0 => Sys2Proof.Machine.execOvercurrent a0 s
  | .blankingEnd a0 => Sys2Proof.Machine.execBlankingEnd a0 s
  | .followEnd a0 => Sys2Proof.Machine.execFollowEnd a0 s
  | .fanCurveEval a0 a1 => Sys2Proof.Machine.execFanCurveEval a0 a1 s
  | .fanStall => Sys2Proof.Machine.execFanStall s
  | .fanRestart a0 => Sys2Proof.Machine.execFanRestart a0 s
  | .currentLoop a0 => Sys2Proof.Machine.execCurrentLoop a0 s
  | .coilLoop => Sys2Proof.Machine.execCoilLoop s
  | .latLoop => Sys2Proof.Machine.execLatLoop s
  | .reelSpeedLoop => Sys2Proof.Machine.execReelSpeedLoop s
  | .tensionLoop => Sys2Proof.Machine.execTensionLoop s
  | .fanLoop => Sys2Proof.Machine.execFanLoop s
  | .loopBankRequest a0 a1 a2 => Sys2Proof.Machine.execLoopBankRequest a0 a1 a2 s
  | .loopModeWrite a0 a1 a2 => Sys2Proof.Machine.execLoopModeWrite a0 a1 a2 s
  | .coefficientWrite a0 a1 a2 a3 a4 a5 => Sys2Proof.Machine.execCoefficientWrite a0 a1 a2 a3 a4 a5 s
  | .rcClear a0 a1 => Sys2Proof.Machine.execRcClear a0 a1 s
  | .radiusWrite a0 a1 => Sys2Proof.Machine.execRadiusWrite a0 a1 s
  | .accelTransaction a0 => Sys2Proof.Machine.execAccelTransaction a0 s
  | .quiesceComplete a0 => Sys2Proof.Machine.execQuiesceComplete a0 s
  | .wakeEvent a0 => Sys2Proof.Machine.execWakeEvent a0 s
  | .saveListAccess a0 a1 a2 => Sys2Proof.Machine.execSaveListAccess a0 a1 a2 s
  | .ignitionChange a0 => Sys2Proof.Machine.execIgnitionChange a0 s
  | .ignitionHoldExpiry => Sys2Proof.Machine.execIgnitionHoldExpiry s
  | .ignitionDrainTimeout => Sys2Proof.Machine.execIgnitionDrainTimeout s
  | .holdupOkChange a0 => Sys2Proof.Machine.execHoldupOkChange a0 s
  | .pfailAssert a0 => Sys2Proof.Machine.execPfailAssert a0 s
  | .dumpComplete a0 => Sys2Proof.Machine.execDumpComplete a0 s
  | .cartInsert a0 a1 a2 a3 => Sys2Proof.Machine.execCartInsert a0 a1 a2 a3 s
  | .cartRemove => Sys2Proof.Machine.execCartRemove s
  | .portTrained a0 a1 a2 => Sys2Proof.Machine.execPortTrained a0 a1 a2 s
  | .trainingBurst a0 => Sys2Proof.Machine.execTrainingBurst a0 s
  | .linkFrameReceived a0 a1 => Sys2Proof.Machine.execLinkFrameReceived a0 a1 s
  | .linkRetry a0 => Sys2Proof.Machine.execLinkRetry a0 s
  | .linkIdleSend a0 => Sys2Proof.Machine.execLinkIdleSend a0 s
  | .portDown a0 a1 => Sys2Proof.Machine.execPortDown a0 a1 s
  | .censusAutoStart => Sys2Proof.Machine.execCensusAutoStart s
  | .creqReceived a0 a1 a2 a3 => Sys2Proof.Machine.execCreqReceived a0 a1 a2 a3 s
  | .crspReceived a0 a1 a2 a3 a4 a5 a6 a7 => Sys2Proof.Machine.execCrspReceived a0 a1 a2 a3 a4 a5 a6 a7 s
  | .probeExchange a0 a1 => Sys2Proof.Machine.execProbeExchange a0 a1 s
  | .commitReceived a0 => Sys2Proof.Machine.execCommitReceived a0 s
  | .timeFrameSend => Sys2Proof.Machine.execTimeFrameSend s
  | .timeFrameReceived a0 a1 a2 a3 a4 => Sys2Proof.Machine.execTimeFrameReceived a0 a1 a2 a3 a4 s
  | .cmdPlova a0 a1 a2 a3 => Sys2Proof.Machine.execCmdPlova a0 a1 a2 a3 s
  | .cmdReset a0 a1 a2 a3 => Sys2Proof.Machine.execCmdReset a0 a1 a2 a3 s
  | .cmdPower a0 a1 a2 => Sys2Proof.Machine.execCmdPower a0 a1 a2 s
  | .cmdWake a0 a1 a2 => Sys2Proof.Machine.execCmdWake a0 a1 a2 s
  | .cmdPoke a0 a1 a2 a3 => Sys2Proof.Machine.execCmdPoke a0 a1 a2 a3 s
  | .cmdPeek a0 a1 a2 => Sys2Proof.Machine.execCmdPeek a0 a1 a2 s
  | .rspReceived a0 a1 a2 a3 a4 a5 a6 => Sys2Proof.Machine.execRspReceived a0 a1 a2 a3 a4 a5 a6 s
  | .ctmoExpiry a0 => Sys2Proof.Machine.execCtmoExpiry a0 s
  | .evtReceived a0 a1 a2 a3 => Sys2Proof.Machine.execEvtReceived a0 a1 a2 a3 s
  | .xlkWakeWrite a0 a1 => Sys2Proof.Machine.execXlkWakeWrite a0 a1 s
  | .stripeGroupEnable a0 a1 a2 => Sys2Proof.Machine.execStripeGroupEnable a0 a1 a2 s
  | .stripeRowClose a0 => Sys2Proof.Machine.execStripeRowClose a0 s
  | .stripeRetransmit a0 a1 a2 => Sys2Proof.Machine.execStripeRetransmit a0 a1 a2 s
  | .lendAlloc a0 => Sys2Proof.Machine.execLendAlloc a0 s
  | .lendGrant a0 => Sys2Proof.Machine.execLendGrant a0 s
  | .lendPut a0 => Sys2Proof.Machine.execLendPut a0 s
  | .lendGet a0 => Sys2Proof.Machine.execLendGet a0 s
  | .lendData a0 => Sys2Proof.Machine.execLendData a0 s
  | .lendFree a0 => Sys2Proof.Machine.execLendFree a0 s
  | .recordSpill => Sys2Proof.Machine.execRecordSpill s
  | .recordRecall => Sys2Proof.Machine.execRecordRecall s
  | .characterReceived a0 a1 => Sys2Proof.Machine.execCharacterReceived a0 a1 s
  | .referenceClockReturn => Sys2Proof.Machine.execReferenceClockReturn s
  | .supplyMonitorReset a0 => Sys2Proof.Machine.execSupplyMonitorReset a0 s
  | .perstDeassert => Sys2Proof.Machine.execPerstDeassert s
  | .parkOrderedSet a0 => Sys2Proof.Machine.execParkOrderedSet a0 s
  | .brakeToStandstill a0 => Sys2Proof.Machine.execBrakeToStandstill a0 s
  | .unsupportedFrame a0 a1 => Sys2Proof.Machine.execUnsupportedFrame a0 a1 s

end Sys2Proof.Machine
end

