-- ==== Sys2Proof/Safety.lean ====
section
/-! DEFINITION. What a safe run of the block keeps: the invariant of the machine, in the words the statements use. -/

namespace Sys2Proof.Machine

/-- The register file, the Tank, the Scratchpad and the retention SRAM are in their canonical form (`swf`). -/
def State.canon (s : State) : Bool :=
  swf RegMap.resetWord s.regs && Memory.wf s.tank && Memory.wf s.spd.mem && Memory.wf s.pw.ret

/-- The Tank pages in use: each is one of the 8,192 pages, and none is taken twice (09_on_chip_memories R243). -/
def State.pagesOk (s : State) : Bool := s.tnk.used.all (fun p => decide (p < pageCount)) && decide s.tnk.used.Nodup

/-- The ERR log holds at most 1,024 records (17_errors_and_recovery R470). -/
def State.logOk (s : State) : Bool := decide (s.err.recs.length ≤ logMax)

/-- No session's event queue holds more than 64 lines (02_command_line R58, R60). -/
def State.eventsOk (s : State) : Bool := (List.finRange 6).all (fun n => decide ((s.ses n).evq.length ≤ evMax))

/-- The invariant of the machine. -/
def State.inv (s : State) : Bool := s.canon && s.pagesOk && s.logOk && s.eventsOk

/-- A verb's line is executed: its sender is there, its level is high enough (02_command_line R61), and the node is not in rescue mode (04_start_up R104). -/
abbrev State.serves (s : State) (ln : Ln) (need : Level) : Prop :=
  s.present ln.who = true ∧ need.num ≤ (s.levelOf ln.who).num ∧ s.boot.rescue = false

/-- The same of a verb that rescue mode answers too (R104). -/
abbrev State.answers (s : State) (ln : Ln) (need : Level) : Prop := s.present ln.who = true ∧ need.num ≤ (s.levelOf ln.who).num

/-- A motion or cartridge verb finds the drive free for it: its sender holds the motion lock (R74), the node is in RUN and D6 is not being quiesced (03_command_reference R78, R79; R402). -/
abbrev State.mayMove (s : State) (ln : Ln) : Prop := s.holdsLock ln = true ∧ s.pwr = .run ∧ s.quiesced 6 = false

/-- A source that may write a PF register now: a session, the master, or the PF while the host side runs (05_tenants R133; 04_start_up R116, R121). -/
abbrev State.mayWrite (s : State) (src : Src) : Prop := (∀ t, src ≠ .vf t) ∧ s.pfOpen src = true

/-- The registers whose write does more than store their fields: each has an action of its own in its chapter (`State.wEntry`). -/
def actingRegs : List Nat :=
  [0x10, 0x14, 0x60020, 0x60030, 0x60060, 0x70000, 0x70004, 0x20008, 0x2000c, 0x40004, 0x40100, 0x50000, 0x50400, 0x53000, 0x80000, 0x88000, 0x90024, 0x90044, 0xa000c, 0xd0020, 0xe0010] ++
  [0xf0000, 0xf0004, 0xf0014, 0xf0300, 0xf0804, 0xf0810, 0xf0820, 0x10000c, 0x100010, 0x100020, 0x100100, 0x100108, 0x104000, 0x104004, 0x105000, 0x105004, 0x110000, 0x110024, 0x120070] ++
  [0x120084, 0x120100, 0x120104, 0x120184, 0x120204, 0x120284, 0x13000c]

/-- An aligned offset of BAR0 with a register at it, outside the tenant 0 window and the MSI-X structures, whose side of the chip has its clock (01_device_in_one_pass R13, R14, R33). -/
abbrev State.atReg (s : State) (off : Nat) (d : RegDef) (i w : Nat) : Prop :=
  off % 4 = 0 ∧ off < 0x200000 ∧ inWin0 off = false ∧ inPfMsix off = false ∧ RegMap.find off = some (d, i, w) ∧ (s.xc.stopped.contains .ckm && ckmSide off) = false

/-- A step that is safe: it answers a next state. -/
def safeStep (s : State) : Prop := ∃ t, step s = .next t

end Sys2Proof.Machine
end

