-- ==== Sys2Proof/Certificates/Slice0/Obligations.lean ====
section
/-! DEFINITION. What the model is to be held to: the statements of this slice. -/

open Sys2Proof Sys2Proof.Machine

/-- O1. LEVEL: VIEW and OPERATE set the level, SERVICE gives a challenge, a right response unlocks and a wrong one denies. -/
def Obligations.LevelVerbChangesLevel : Prop :=
  (∀ (s : State) (ln : Ln) (n : Sid), ln.who = .sess n → s.present ln.who = true →
    exec (.level ln .view) s = .next ((s.drop n .view "CMD").reply ln [] (.ok [⟨"LEVEL", .word "V"⟩]))) ∧
  (∀ (s : State) (ln : Ln) (n : Sid), ln.who = .sess n → s.present ln.who = true →
    (n.val < 2 ∨ (s.ses n).level = .service ∨ s.bit F.PCL_TCPCFG_OPOK = true) →
    exec (.level ln .operate) s = .next ((s.drop n .operate "CMD").reply ln [] (.ok [⟨"LEVEL", .word "O"⟩]))) ∧
  (∀ (s : State) (ln : Ln) (n : Sid), ln.who = .sess n → s.present ln.who = true → 2 ≤ n.val → (s.ses n).level ≠ .service →
    s.bit F.PCL_TCPCFG_OPOK = false → exec (.level ln .operate) s = .next (s.reply ln [] (.er .noremote []))) ∧
  (∀ (s : State) (ln : Ln) (n : Sid), ln.who = .sess n → s.present ln.who = true →
    ∃ (c : List Char) (k : Nat), c.length = 4 ∧ (∀ x ∈ c, ∃ i : Fin 32, x = chalChar i) ∧
      exec (.level ln .challenge) s =
        .next (({ s with freeCtr := k }.setSes n { s.ses n with chal := some (c, s.us) }).reply ln [] (.ok [⟨"CHAL", .chars c⟩]))) ∧
  (∀ (s : State) (ln : Ln) (n : Sid) (r : List Char), ln.who = .sess n → s.present ln.who = true → (s.ses n).chal = none →
    exec (.level ln (.response r)) s = .next (s.reply ln [] (.er .nochal []))) ∧
  (∀ (s : State) (ln : Ln) (n : Sid) (r c : List Char) (t : Nat), ln.who = .sess n → s.present ln.who = true →
    (s.ses n).chal = some (c, t) → s.us ≤ t + 60000000 → s.lockedOut = false → (s.svcHolder = none ∨ s.svcHolder = some n) →
    r.map upper = s.goodResponse c →
    ∃ u : State, exec (.level ln (.response r)) s = .next (u.reply ln [] (.ok [⟨"LEVEL", .word "S"⟩])) ∧
      (u.ses n).level = .service ∧ (u.ses n).chal = none) ∧
  (∀ (s : State) (ln : Ln) (n : Sid) (r c : List Char) (t : Nat), ln.who = .sess n → s.present ln.who = true →
    (s.ses n).chal = some (c, t) → s.us ≤ t + 60000000 → s.lockedOut = false → (s.svcHolder = none ∨ s.svcHolder = some n) →
    r.map upper ≠ s.goodResponse c →
    exec (.level ln (.response r)) s = .next ((s.deny n).reply ln [] (.er .denied [])))

/-- O2. SESSION, SESSION?, LOCK MOTION and FREE MOTION do what R74 and R81 say. -/
def Obligations.SessionVerbsAnswer : Prop :=
  (∀ (s : State) (ln : Ln) (n : Sid) (echo edit crc : Option Bool) (ev : Option EvFilter), ln.who = .sess n → s.answers ln .view →
    ¬(echo = none ∧ edit = none ∧ crc = none ∧ ev = none) →
    exec (.session ln echo edit crc ev) s =
      (let x := s.ses n
       let y : Session := { x with echo := echo.getD x.echo, edit := edit.getD x.edit, crc := crc.getD x.crc, filter := ev.getD x.filter }
       .next ((s.setSes n y).reply ln [] (.ok [⟨"ECHO", onOff y.echo⟩, ⟨"EDIT", onOff y.edit⟩, ⟨"CRC", onOff y.crc⟩, ⟨"EVENTS", .word (filterName y.filter)⟩])))) ∧
  (∀ (s : State) (ln : Ln), s.answers ln .view → exec (.session ln none none none none) s = .next (s.reply ln [] (.er .args []))) ∧
  (∀ (s : State) (ln : Ln) (n : Sid), ln.who = .sess n → s.answers ln .view →
    exec (.sessionQuery ln) s = .next (s.reply ln [] (.ok
      ([⟨"S", .num n.val⟩, ⟨"PORT", .word (if n.val = 0 then "UART0" else if n.val = 1 then "UART1" else "TCP")⟩, ⟨"LEVEL", .word (levelLetter (s.ses n).level)⟩] ++ settings (s.ses n))))) ∧
  (∀ (s : State) (ln : Ln), s.serves ln .operate → s.con.mlock = none →
    exec (.lockMotion ln) s = .next ({ s with con.mlock := some (Who.owner ln.who) }.reply ln [] (.ok [⟨"LOCK", whoVal ln.who⟩]))) ∧
  (∀ (s : State) (ln : Ln), s.serves ln .operate → s.con.mlock = some (Who.owner ln.who) →
    exec (.lockMotion ln) s = .next (s.reply ln [] (.ok [⟨"LOCK", whoVal ln.who⟩]))) ∧
  (∀ (s : State) (ln : Ln) (w : Who), s.serves ln .operate → s.con.mlock = some w → w ≠ Who.owner ln.who →
    exec (.lockMotion ln) s = .next (s.reply ln [] (.er .held [⟨"HOLDER", whoVal w⟩]))) ∧
  (∀ (s : State) (ln : Ln), s.serves ln .operate → s.con.mlock = some (Who.owner ln.who) →
    exec (.freeMotion ln) s = .next ({ s with con.mlock := none }.reply ln [] (.ok [⟨"LOCK", .word "NONE"⟩]))) ∧
  (∀ (s : State) (ln : Ln), s.serves ln .operate → s.con.mlock ≠ some (Who.owner ln.who) →
    exec (.freeMotion ln) s = .next (s.reply ln [] (.er .nolock [])))

/-- O3. HELP?, ID?, STATE?, TIME?, ERR?, CONTACT?, NODE? and KEY? answer from the state and change nothing else. -/
def Obligations.StatusQueriesReport : Prop :=
  (∀ (s : State) (ln : Ln), s.answers ln .view →
    exec (.helpQuery ln none) s = .next (s.reply ln (helpTable.map (fun r => [⟨"", .word r.1⟩, ⟨"", .word r.2.1⟩])) (.ok [⟨"VERBS", .num helpTable.length⟩]))) ∧
  (∀ (s : State) (ln : Ln) (v : List Char) (r : String × String × String), s.answers ln .view → helpTable.find? (fun r => r.1.toList == v.map upper) = some r →
    exec (.helpQuery ln (some v)) s = .next (s.reply ln [[⟨"", .word r.2.2⟩]] (.ok [⟨"VERBS", .num 1⟩]))) ∧
  (∀ (s : State) (ln : Ln) (v : List Char), s.answers ln .view → helpTable.find? (fun r => r.1.toList == v.map upper) = none →
    exec (.helpQuery ln (some v)) s = .next (s.reply ln [] (.er .noverb []))) ∧
  (∀ (s : State) (ln : Ln), s.answers ln .view →
    exec (.idQuery ln) s = .next (s.reply ln [] (.ok [⟨"PART", .word "3260"⟩, ⟨"STEP", .word "B0"⟩, ⟨"SERIAL", .chars s.boot.fuses.serial⟩, ⟨"FW", .chars (versionText s.boot.version)⟩,
      ⟨"NODE", s.nodeVal⟩, ⟨"MASTER", .num (s.getF F.XLK_STAT_MASTER)⟩]))) ∧
  (∀ (s : State) (ln : Ln), s.serves ln .view →
    exec (.stateQuery ln) s = .next (s.reply ln [] (.ok [⟨"PWR", .word (pwrText s.pwr)⟩, ⟨"CART", .word s.cart.text⟩, ⟨"MOT", .word (motText s.mot)⟩,
      ⟨"STEP", .num (s.getF F.SRV_SPD_CUR)⟩, ⟨"ZONE", s.zoneVal⟩, ⟨"DS", s.dsVal⟩, ⟨"LOCK", holderVal s.con.mlock⟩, ⟨"SVC", s.svcVal⟩]))) ∧
  (∀ (s : State) (ln : Ln), s.serves ln .view →
    exec (.timeQuery ln) s = .next (s.reply ln [] (.ok [⟨"T", .sec s.now⟩, ⟨"SYNC", .word s.syncWord⟩, ⟨"OFFSET", .int s.offsetNs⟩]))) ∧
  (∀ (s : State) (ln : Ln) (count start : Option Nat), s.answers ln .view → 1 ≤ count.getD 16 → count.getD 16 ≤ 32 → start.getD 0 < 2 ^ 32 →
    exec (.errQuery ln count start) s =
      (let rs := s.err.select (count.getD 16) start
       .next (s.reply ln (rs.map recItems) (.ok [⟨"RECORDS", .num rs.length⟩, ⟨"NEXT", .num ((rs.getLast?.map (fun r => (r.seq + 1) % 2 ^ 32)).getD s.err.next)⟩])))) ∧
  (∀ (s : State) (ln : Ln), s.answers ln .view →
    exec (.contactQuery ln) s = .next (s.reply ln (s.sheetA ++ s.sheetB) (.ok [⟨"LINES", .num 13⟩])) ∧ (s.sheetA ++ s.sheetB).length = 13) ∧
  (∀ (s : State) (ln : Ln), s.serves ln .view →
    exec (.nodeQuery ln) s = .next (s.reply ln [] (.ok [⟨"NODE", s.nodeVal⟩, ⟨"MASTER", .num (s.getF F.XLK_STAT_MASTER)⟩, ⟨"UP", s.portVal 0⟩, ⟨"D0", s.portVal 1⟩, ⟨"D1", s.portVal 2⟩,
      ⟨"D2", s.portVal 3⟩, ⟨"STALE", .num (s.getF F.XLK_STAT_STALE)⟩]))) ∧
  (∀ (s : State) (ln : Ln) (t : Tenant), s.serves ln .view →
    exec (.keyQuery ln t) s = .next (s.reply ln [] (.ok [⟨"SLOT", .num t.val⟩, ⟨"HMAC", setVal (slotOf s.sec.keys t).hmac⟩, ⟨"AES", setVal (slotOf s.sec.keys t).aes⟩,
      ⟨"CHECK", match (slotOf s.sec.keys t).hmac.or (slotOf s.sec.keys t).aes with | some x => .chars (keyCheck x) | none => .dash⟩])))

/-- O4. ERR CLEAR and a keyed write of ERR.CTL.CLEAR empty the ERR log, but for the records of the clear's own arbitration tick, and have identical results. -/
def Obligations.ErrLogIsCleared : Prop :=
  (∀ (s : State) (ln : Ln) (k : Nat), s.serves ln .service → k = (match s.err.fresh with | some m => (s.err.next + 2 ^ 32 - m) % 2 ^ 32 | none => 0) →
    exec (.errClear ln) s = .next (({ s with err := { s.err with recs := s.err.recs.take k, wrap := false } } : State).reply ln [] (.ok [⟨"CLEARED", .num s.err.recs.length⟩]))) ∧
  (∀ (s : State) (ln : Ln), s.serves ln .service → s.err.fresh = none →
    exec (.errClear ln) s = .next (({ s with err := { s.err with recs := [], wrap := false } } : State).reply ln [] (.ok [⟨"CLEARED", .num s.err.recs.length⟩]))) ∧
  (∀ (s : State) (src : Src) (v : Word) (k : Nat), s.mayWrite src → getBits v.toNat 16 16 = 0x4C59 → getBits v.toNat 0 1 = 1 →
    k = (match s.err.fresh with | some m => (s.err.next + 2 ^ 32 - m) % 2 ^ 32 | none => 0) →
    exec (.errCtlClear src v) s = .next { s with err := { s.err with recs := s.err.recs.take k, wrap := false } }) ∧
  (∀ (s : State) (src : Src) (v : Word), s.mayWrite src → (getBits v.toNat 16 16 ≠ 0x4C59 ∨ getBits v.toNat 0 1 ≠ 1) →
    exec (.errCtlClear src v) s = .next s)

/-- O5. TCP connections take the lowest free session, the fifth is refused, and sessions end by close, idle, break and timeout. -/
def Obligations.SessionsOpenAndEnd : Prop :=
  (∀ (s : State) (port : Fin 2) (n : Sid), 2 ≤ n.val → s.listens port = true → (s.ses n).isOpen = false → (∀ m : Sid, 2 ≤ m.val → m.val < n.val → (s.ses m).isOpen = true) →
    exec (.tcpConnect port) s = .next (s.tcpOpen n port)) ∧
  (∀ (s : State) (port : Fin 2), s.listens port = false → exec (.tcpConnect port) s = .next s) ∧
  (∀ (s : State) (n : Sid), 2 ≤ n.val → exec (.tcpClose n) s = .next (s.endSession n "END")) ∧
  (∀ (s : State) (n : Sid), 2 ≤ n.val → s.getF F.PCL_TCPCFG_IDLE ≠ 0 → (s.ses n).isOpen = true →
    exec (.tcpIdleTimeout n) s = .next ((s.endSession n "END").emit (.tcpClosed n))) ∧
  (∀ (s w : State) (port : Fin 2) (n : Sid), n.val = port.val → w = s.uartAlive n → (w.ses n).isOpen = true →
    ∃ u : State, exec (.uartBreak port) s = .next (((u.flushEvents n).prompt n).rtsFrom w n) ∧ (u.ses n).isOpen = true ∧ (u.ses n).level = .operate ∧ (u.ses n).buf = [] ∧
      (u.ses n).lines = [] ∧ (u.ses n).key = none ∧ (u.ses n).chal = none) ∧
  (∀ (s : State) (n : Sid), (s.ses n).isOpen = true → (s.ses n).level = .service →
    exec (.serviceTimeout n) s = .next ((s.drop n (startLevel n) "TIMEOUT").event n "LEVEL" [] [⟨"NEW", .word (levelLetter (startLevel n))⟩]))

/-- O6. A TCP connection while S2 to S5 are open gets the single line ER 401 SESSIONS and creates no session. -/
def Obligations.FifthConnectionRefused : Prop :=
  ∀ (s : State) (port : Fin 2), s.listens port = true → (∀ n : Sid, 2 ≤ n.val → (s.ses n).isOpen = true) →
    exec (.tcpConnect port) s = .next (s.emit (.tcpRefused port ⟨[], none, .er .sessions [], false⟩)) ∧
      Line.text ⟨[], none, .er .sessions [], false⟩ = "ER 401 SESSIONS".toList

/-- O7. Characters, editing characters and terminators build a session line as R46 to R48, R53 and R54 say. -/
def Obligations.TypingKeepsTheLine : Prop :=
  (∀ (s u : State) (n : Sid) (c : Char), u = s.uartAlive n → (u.ses n).isOpen = true → 32 ≤ c.toNat → c.toNat ≤ 126 → (u.ses n).tooLong = false → (u.ses n).buf.length < 255 → (isUart n = true → buffered (u.ses n) < 256) →
    exec (.characterReceived n c) s = .next (((u.setSes n { u.ses n with buf := (u.ses n).buf ++ [c], lastCr := false }).echoTo n [c]).rtsFrom u n)) ∧
  (∀ (s u : State) (n : Sid) (c : Char), u = s.uartAlive n → (u.ses n).isOpen = true → 32 ≤ c.toNat → c.toNat ≤ 126 → (u.ses n).tooLong = false → 255 ≤ (u.ses n).buf.length → (isUart n = true → buffered (u.ses n) < 256) →
    exec (.characterReceived n c) s = .next (u.setSes n { u.ses n with tooLong := true, lastCr := false })) ∧
  (∀ (s u : State) (n : Sid) (c : Char), u = s.uartAlive n → (u.ses n).isOpen = true → 32 ≤ c.toNat → c.toNat ≤ 126 → (u.ses n).tooLong = false → isUart n = true → 256 ≤ buffered (u.ses n) → u.uartFlow n = false →
    exec (.characterReceived n c) s = .next (u.setSes n { u.ses n with overrun := true, lastCr := false })) ∧
  (∀ (s u : State) (n : Sid) (c : Char), u = s.uartAlive n → (u.ses n).isOpen = true → (c.toNat < 32 ∨ 126 < c.toNat) →
    exec (.characterReceived n c) s = .next (u.setSes n { u.ses n with badChar := true, lastCr := false })) ∧
  (∀ (s u : State) (n : Sid) (c : EditChar), u = s.uartAlive n → (u.ses n).isOpen = true → (u.ses n).edit = true → (c = .bs ∨ c = .del) → (u.ses n).buf ≠ [] →
    exec (.lineEditCharacter n c) s = .next (((u.setSes n { u.ses n with buf := (u.ses n).buf.dropLast, lastCr := false }).echoTo n [Char.ofNat 8, ' ', Char.ofNat 8]).rtsFrom u n)) ∧
  (∀ (s u : State) (n : Sid) (c : EditChar), u = s.uartAlive n → (u.ses n).isOpen = true → (u.ses n).edit = true → (c = .ctrlU ∨ c = .ctrlC) →
    exec (.lineEditCharacter n c) s =
      .next ((((u.setSes n { u.ses n with buf := [], tooLong := false, badChar := false, overrun := false, lastCr := false }).echoTo n
        (if c = .ctrlU then ['\r', '\n'] else ['^', 'C', '\r', '\n'])).prompt n).rtsFrom u n)) ∧
  (∀ (s u : State) (n : Sid) (c : EditChar), u = s.uartAlive n → (u.ses n).isOpen = true → (u.ses n).edit = false →
    exec (.lineEditCharacter n c) s = .next (u.setSes n { u.ses n with badChar := true, lastCr := false }))

/-- O8. LOAD, UNLOAD, RECORD START and RECORD STOP start their long operations as R84 says. -/
def Obligations.CartridgeVerbsStart : Prop :=
  (∀ (s : State) (ln : Ln) (c3 : Option Bool), s.serves ln .operate → s.mayMove ln → s.boot.testing = false → s.cart = .present → s.mot = .stopped → s.c3Contradicts c3 = false →
    exec (.load ln c3) s =
      (let u := (s.clearBins.setCart .loading [ln]).beginMove .load false 12
       .next ((({ u with tape := { u.tape with c3arg := c3 } } : State).opCart ln).reply ln [] (.ok [⟨"", .word "STARTED"⟩])))) ∧
  (∀ (s : State) (ln : Ln), s.serves ln .operate → s.mayMove ln → s.boot.testing = false → (s.cart = .ready ∨ s.cart = .fault) → s.mot ≠ .tripped →
    exec (.unload ln) s =
      (let u := (s.takenOver.clearBins.writeDirs.setCart .unloading [ln]).beginMove .unload true 1
       .next ((u.opCart ln).reply ln [] (.ok [⟨"", .word "STARTED"⟩])))) ∧
  (∀ (s : State) (ln : Ln), s.serves ln .operate → s.mayMove ln → s.boot.testing = false → s.cart = .ready → s.mot = .stopped → s.tape.wp = false → s.cartFull = false →
    exec (.recordStart ln) s =
      (let u := s.startReplay.headTo s.tape.wrap
       let v := u.beginMove .record (wrapRev s.tape.wrap) s.recordStep
       .next ((v.opCart ln).reply ln [] (.ok [⟨"", .word "STARTED"⟩])))) ∧
  (∀ (s : State) (ln : Ln), s.serves ln .operate → s.mayMove ln → s.cart = .writing →
    exec (.recordStop ln) s =
      .next ((({ s with fmt := { s.fmt with stopping := true } } : State).opCart ln).flushNow.reply ln [] (.ok [⟨"", .word "STARTED"⟩])))

/-- O9. The ends of LOAD, UNLOAD, RECORD START and RECORD STOP leave CART, the append point and the !DONE that R84 and R347 say. -/
def Obligations.CartridgeOperationsEnd : Prop :=
  (∀ (c : List Byte) (b : Bool), 3140 ≤ c.length → beValue (sub c 0 4) = 0x44594452 → beValue (sub c 4 1) = 1 → beValue (sub c 3136 4) = crc32 (c.take 3136) →
    ∃ i, copyInfo (c, b) = some i ∧ i.gen = beValue (sub c 8 4) ∧ i.dsnext = beValue (sub c 12 4) ∧ i.c3 = b ∧ i.wraps.length = min 192 (beValue (sub c 6 2)) ∧
      ∀ w, i.wraps.getLast? = some w → i.append = w.endLpw) ∧
  (∀ (l : List (List Byte × Bool)) (p : List Byte × Bool) (i : LoadInfo), p ∈ l → copyInfo p = some i → ∃ m, newestCopy l = some m ∧ i.gen ≤ m.gen ∧ ∃ q ∈ l, copyInfo q = some m) ∧
  (∀ (s : State) (f : LoadFinding) (i : LoadInfo), s.cart = .loading → s.mdr.stopping = false → s.hintFor = none → newestCopy f.copies = some i →
    exec (.loadComplete f) s = .next (s.loaded i)) ∧
  (∀ (s : State), s.cart = .loading → s.mdr.stopping = false → s.hintFor = none →
    exec (.loadComplete ⟨[], false⟩) s = .next (s.loaded ⟨0, 0, 10000, [], 0, s.tape.c3arg.getD (s.bit F.FMT_CFG_C3DEF)⟩)) ∧
  (∀ (s : State) (f : LoadFinding), s.cart = .loading → s.mdr.stopping = false → s.hintFor = none → newestCopy f.copies = none → (f.frames = true ∨ f.copies ≠ []) →
    exec (.loadComplete f) s =
      (let u : State := { s with tape := { s.tape with threaded := true, noDir := true, c3arg := none } }
       .next ((u.endMotion.setCart .fault s.con.opCart).cartDone (erItems .nodir [])))) ∧
  (∀ (s : State) (h : Hint) (f : LoadFinding), s.cart = .loading → s.mdr.stopping = false → s.hintFor = some h →
    ∃ (ws : List WrapEnt) (gen : Nat) (c3 : Bool), exec (.loadComplete f) s = .next (s.loaded ⟨h.highest + 1, h.wrap, h.endLpw, ws, gen, c3⟩)) ∧
  (∀ (s : State) (failed : List Bool), s.cart = .unloading → s.mdr.stopping = false →
    exec (.unloadComplete failed) s =
      (let v := if s.tape.noDir then s else s.rewriteDirs 0 0 failed
       let u : State := { v with tape := { v.tape with threaded := false, noDir := false } }
       .next ((u.endMotion.setCart .present u.con.opCart).cartDone [⟨"CART", .word "PRESENT"⟩]))) ∧
  (∀ (s : State), s.mdr.order = some .record → s.mdr.start.isSome = true → s.reelsRun = true → s.mdr.stopping = false → s.cart = .ready →
    exec .recordStartComplete s =
      (let v := ((s.clkBack .ckwc).clkBack .ckwe).started.setF F.SRV_SPD_CUR ((s.clkBack .ckwc).clkBack .ckwe).mdr.step
       let u := v.setF F.SRV_LPW_LPW v.tape.append
       .next ((u.setCart .writing u.con.opCart).cartDone [⟨"CART", .word "WRITING"⟩, ⟨"DS", .num u.fmt.nextDs⟩, ⟨"STEP", .num u.mdr.step⟩]))) ∧
  (∀ (s : State), s.cart = .writing → s.stopReady = true →
    exec .recordStopComplete s =
      .next ((s.hitchBehind.endMotion.setCart .ready s.con.opCart).cartDone [⟨"CART", .word "READY"⟩, ⟨"DSLAST", (s.fmt.last.map Val.num).getD .dash⟩]))

/-- O10. Insertion, removal, CART? and FLUSH: the slot, the report of the cartridge and the flush. -/
def Obligations.CartridgeComesAndGoes : Prop :=
  (∀ (s : State) (id : List Char) (wp blank c3 : Bool), s.cart = .none →
    exec (.cartInsert id wp blank c3) s =
      .next (({ s with tape := { Tape.reset with id := id, wp := wp, blank := blank, c3 := c3, hint := s.tape.hint } }.setCart .present []).edge true .cart)) ∧
  (∀ (s : State), s.cart ≠ .none → s.cart ≠ .writing → s.mot ≠ .moving →
    ∃ u : State, u = ({ (s.setCart .none []) with tape := { Tape.reset with hint := (s.setCart .none []).tape.hint } } : State).endOps .nocart ∧
      exec .cartRemove s = .next (let t := u.failReads .nocart (s.setCart .none []).allReads; if t.mot = .moving then t.beginStop else t)) ∧
  (∀ (s : State) (ln : Ln), s.serves ln .view → exec (.cartQuery ln) s = .next (s.reply ln [] (.ok s.cartItems)) ∧ s.cartItems.length = 8) ∧
  (∀ (s : State) (ln : Ln), s.serves ln .operate → s.pwr = .run → s.quiesced 6 = false → s.cart = .writing → s.nothingOpen = true →
    exec (.flush ln) s = .next (s.closeStripes.reply ln [] (.ok [⟨"DS", .dash⟩]))) ∧
  (∀ (s : State) (ln : Ln), s.serves ln .operate → s.pwr = .run → s.quiesced 6 = false → s.cart = .writing → s.nothingOpen = false →
    exec (.flush ln) s = .next ({ s with con := { s.con with opFlush := s.con.opFlush ++ [(s.sch.nextFeed, ln)] } } : State).flushNow) ∧
  (∀ (s : State), s.fmt.cur.isSome = true → s.flushReady = true → exec .flushDatasetClose s = .next s.flushClose)

/-- O11. MOTION START, MOTION STOP, SPEED and both LOCATEs act on the drive as R85, R348 and R349 say. -/
def Obligations.MotionVerbsAct : Prop :=
  (∀ (s : State) (ln : Ln) (a : StepArg) (rev : Bool), s.serves ln .operate → s.mayMove ln → s.boot.testing = false → s.cart = .ready → s.mot = .stopped → (∀ n, a = .step n → 1 ≤ n ∧ n ≤ 12) →
    exec (.motionStart ln a rev) s =
      (let u := s.takeStep a
       let v := u.beginMove .motion rev u.readStep
       .next ((v.opMotion ln).reply ln [] (.ok [⟨"", .word "STARTED"⟩])))) ∧
  (∀ (s : State) (ln : Ln), s.serves ln .operate → s.mayMove ln → s.mot = .stopped →
    exec (.motionStop ln) s = .next (s.reply ln [] (.ok [⟨"MOT", .word "STOPPED"⟩]))) ∧
  (∀ (s : State) (ln : Ln), s.serves ln .operate → s.mayMove ln → s.mot ≠ .stopped →
    exec (.motionStop ln) s =
      (let u := s.cutMotion .stopped
       let v : State := { u with con := { u.con with opMotion := some ln } }
       let w := if s.mdr.order.isSome || s.mdr.stopping then (if v.orderStop.mdr.order.isSome || v.orderStop.mdr.stopping then v.orderStop else v.orderStop.stopDone) else v.stopDone
       .next (w.reply ln [] (.ok [⟨"", .word "STARTED"⟩])))) ∧
  (∀ (s : State) (ln : Ln) (n : Nat), s.serves ln .operate → s.mayMove ln → s.mot = .moving → 1 ≤ n → n ≤ 12 → s.mdr.start = none → s.srv.hitch = false → s.mdr.stopping = false →
    exec (.speed ln (.step n)) s =
      (let u := s.takeStep (.step n)
       .next ((({ u with mdr := { u.mdr with step := n } } : State).setF F.SRV_SPD_CUR n).reply ln [] (.ok [⟨"STEP", .num n⟩])))) ∧
  (∀ (s : State) (ln : Ln), s.serves ln .operate → s.mayMove ln → s.mot = .moving →
    exec (.speed ln .auto) s = .next ((s.setF F.SRV_SPD_AUTO 1).reply ln [] (.ok [⟨"STEP", .word "AUTO"⟩]))) ∧
  (∀ (s : State) (ln : Ln) (n ix : Nat) (w : WrapEnt), s.serves ln .operate → s.mayMove ln → s.boot.testing = false → s.cart = .ready → s.mot = .stopped → n < 2 ^ 32 → s.findDs n = some (ix, w) →
    exec (.locate ln n) s =
      (let u := (s.headTo ix).seekTo (.locateDs n) (estimate w n) 12
       .next ((({ u with srv := { u.srv with seek := some ⟨n, ix, estimate w n, 0⟩ } } : State).opMotion ln).reply ln [] (.ok [⟨"", .word "STARTED"⟩])))) ∧
  (∀ (s : State) (ln : Ln) (n : Nat), s.serves ln .operate → s.mayMove ln → s.boot.testing = false → s.cart = .ready → s.mot = .stopped → n < 2 ^ 32 → s.findDs n = none →
    exec (.locate ln n) s = .next (((s.opMotion ln).reply ln [] (.ok [⟨"", .word "STARTED"⟩])).motionDone (erItems .notfound []))) ∧
  (∀ (s : State) (ln : Ln) (x : Nat), s.serves ln .operate → s.mayMove ln → s.boot.testing = false → s.cart = .ready → s.mot = .stopped → x ≤ 4799999 →
    exec (.locateLpw ln x) s =
      (let u := s.beginMove (.locateLpw x) (decide (x < s.getF F.SRV_LPW_LPW)) 12
       .next ((u.opMotion ln).reply ln [] (.ok [⟨"", .word "STARTED"⟩]))))

/-- O12. MOTION?, TRIP?, TRIP CLEAR and a write of MDR.TRIPCLR report and clear trips as R85 and R370 say. -/
def Obligations.MotionReportsAndTripClears : Prop :=
  (∀ (s : State) (ln : Ln), s.serves ln .view → exec (.motionQuery ln) s = .next (s.reply ln [] (.ok s.motionItems))) ∧
  (∀ (s : State) (ln : Ln), s.serves ln .view →
    exec (.tripQuery ln) s = .next (s.reply ln [] (.ok [⟨"TRIPPED", .axes ((allUnits.filter s.latched).map unitName)⟩, ⟨"ACTIVE", .axes ((allUnits.filter s.pinLow).map unitName)⟩]))) ∧
  (∀ (s : State) (ln : Ln) (a : TripArg) (us : List MUnit), s.serves ln .operate → s.mayMove ln →
    us = (match a with | .supply => [.supply] | .takeup => [.takeup] | .fan => [.fan] | .all => [.supply, .takeup, .fan, .head]) → s.clearRefused us = false →
    exec (.tripClear ln a) s = .next ((s.clearTrips us).refreshMot.reply ln [] (.ok [⟨"CLEARED", .axes (us.map unitName)⟩]))) ∧
  (∀ (s : State) (ln : Ln) (a : TripArg) (us : List MUnit), s.serves ln .operate → s.mayMove ln →
    us = (match a with | .supply => [.supply] | .takeup => [.takeup] | .fan => [.fan] | .all => [.supply, .takeup, .fan, .head]) → s.clearRefused us = true →
    exec (.tripClear ln a) s = .next (s.reply ln [] (.er .tripactive []))) ∧
  (∀ (s : State) (src : Src) (v : Word), s.mayWrite src → s.lacksLock src = false → s.clearRefused (unitsIn v.toNat) = false →
    exec (.mdrTripclrWrite src v) s = .next (((s.clearTrips (unitsIn v.toNat)).refreshMot).overrideBy src "TRIP"))

/-- O13. Starts, stops, braking, catches, alignment and locates end as R348, R349, R359 to R362 and R85 say. -/
def Obligations.MotionOperationsEnd : Prop :=
  (∀ (s : State), s.mdr.order = some .motion → s.mdr.start.isSome = true → s.reelsRun = true → s.mdr.stopping = false →
    exec .motionStartComplete s =
      (let u := ({ s.started with con := { s.con with opMotion := none } } : State).setF F.SRV_SPD_CUR s.mdr.step
       .next (u.done s.con.opMotion [⟨"MOT", .word "MOVING"⟩, ⟨"STEP", .num u.mdr.step⟩, ⟨"DIR", .word (dirText u.mdr.rev)⟩]))) ∧
  (∀ (s : State), s.mdr.stopping = true → exec .controlledStopEnd s = .next s.endMotion.stopDone) ∧
  (∀ (s : State) (u : MUnit) (x : Start), unitBit u < 2 → s.mdr.start = some x → (x.phase = .braking ∨ x.phase = .running) → x.stop = false → x.failed = false →
    exec (.startFail u) s =
      (let v := (s.count (F.MDR_ACNT_FLYFAIL (unitBit u)) 1).log (errRec .flyfail .mdr [])
       let w : State := ((v.setMode 0 5).setMode 1 5)
       .next (({ w with mdr := { w.mdr with start := some { x with phase := .braking, left := [0, 1], failed := true } } } : State).setF F.SRV_SPD_CUR 0).refreshMot)) ∧
  (∀ (s : State) (u : MUnit) (x : Start), unitBit u < 2 → s.mdr.start = some x → (x.phase = .braking ∨ x.phase = .running) → x.stop = false → x.failed = true →
    exec (.startFail u) s = .next (((s.count (F.MDR_ACNT_FLYFAIL (unitBit u)) 1).endOps .flyfail).endMotion)) ∧
  (∀ (s : State) (x : Start) (a b : Int) (ofs : List (Nat × Nat)), s.mdr.start = some x → x.phase = .catching → exec (.catchEnd false a b ofs) s = .next (s.catchReels x a b ofs)) ∧
  (∀ (s : State) (x : Start), s.mdr.start = some x → x.phase = .aligning → exec (.alignEnd false) s = .next (((s.setMode 0 2).setMode 1 2).runReels x)) ∧
  (∀ (s : State), s.axMode 2 = 1 → exec (.alignEnd true) s = .next (s.setMode 2 2)) ∧
  (∀ (s : State) (u : MUnit), unitBit u < 3 → (s.axMode (unitBit u) = 2 ∨ s.axMode (unitBit u) = 3) →
    exec (.observerHandover u) s = .next (((s.setMode (unitBit u) 3).setF (F.MDR_ASTAT_OBSOK (unitBit u)) 1).tidyLoops)) ∧
  (∀ (s : State) (u : MUnit) (x : Start), unitBit u < 2 → s.mdr.start = some x → x.phase = .braking → x.left = [unitBit u] → x.stop = false →
    exec (.brakeToStandstill u) s = .next (s.alignReels x)) ∧
  (∀ (s : State) (k : Seek) (n : Nat), s.srv.seek = some k →
    exec (.locateProbe n) s =
      (let d := fullLen (zoneE k.ix)
       let est := if n ≤ k.ds then onward k.ix k.est ((k.ds - n) * d) else backward k.ix k.est ((n - k.ds) * d)
       let step := if 3 ≤ k.probes then 6 else 12
       let u := (s.setF F.SRV_LPW_LPW k.est).setF F.SRV_SPD_CUR step
       .next (({ u with srv := { u.srv with seek := some { k with est := est, probes := k.probes + 1 } }, mdr := { u.mdr with step := step, rev := decide (est < k.est) } } : State).setF F.SRV_STAT_DIR
         (if est < k.est then 1 else 0)))) ∧
  (∀ (s : State) (n lpw : Nat) (d : Option Nat), s.mdr.stopping = false → s.mdr.order = some (.locateDs n) →
    exec (.locateComplete true d lpw) s = .next (s.locateDone (backward s.headIx lpw (runUp (stepCms s.readStep))) [⟨"DS", .num n⟩, ⟨"LPW", .num lpw⟩])) ∧
  (∀ (s : State) (x lpw : Nat) (d : Option Nat), s.mdr.stopping = false → s.mdr.order = some (.locateLpw x) → lpw ≤ x + 2 → x ≤ lpw + 2 →
    exec (.locateComplete true d lpw) s = .next (s.locateDone lpw [⟨"DS", (d.map Val.num).getD .dash⟩, ⟨"LPW", .num lpw⟩]))

/-- O14. POWER and POWER?: a request is decided by the state it finds, and the exit it asks for begins after the reply. -/
def Obligations.PowerVerbsRequest : Prop :=
  (∀ (s : State) (ln : Ln) (p : Pwr), s.serves ln .operate → s.pwrBusy = false → p = s.pwr →
    exec (.power (.line ln) p) s = .next (s.reply ln [] (.ok [⟨"STATE", .word (pwrText s.pwr)⟩])).exitNow) ∧
  (∀ (s : State) (ln : Ln) (p : Pwr), s.serves ln .operate → s.pwrBusy = false → p ≠ s.pwr → 1 < pwrCode p → (s.cart = .writing ∨ s.cart = .reading) →
    exec (.power (.line ln) p) s = .next (s.reply ln [] (.er .cartstate [])).exitNow) ∧
  (∀ (s : State) (ln : Ln) (p : Pwr), s.serves ln .operate → s.pwrBusy = false → p ≠ s.pwr → (pwrCode p ≤ 1 ∨ s.cart ≠ .writing ∧ s.cart ≠ .reading) →
    exec (.power (.line ln) p) s = .next ((s.pwrBegin p (.line ln)).reply ln [] (.ok [⟨"", .word "STARTED"⟩])).exitNow) ∧
  (∀ (s : State) (ln : Ln), s.serves ln .view →
    exec (.powerQuery ln) s = .next (s.reply ln [] (.ok [⟨"STATE", .word (pwrText s.pwr)⟩, ⟨"DOMAINS", .hex 4 (s.getF F.PWR_STAT_DOMAINS)⟩,
      ⟨"HOLDUP", .word (if s.pw.holdup then "OK" else "LOW")⟩, ⟨"FIXER", .word (fixText s.fixer)⟩, ⟨"RES", .num s.resUsed⟩])))

/-- O15. A POWER request or a PF write of PWR.CTL during an entry or an exit is refused with ER 320, the write with its record. -/
def Obligations.BusyPowerRequestRefused : Prop :=
  (∀ (s : State) (ln : Ln) (p : Pwr), s.serves ln .operate → s.pwrBusy = true → exec (.power (.line ln) p) s = .next (s.reply ln [] (.er .pwrbusy [])).exitNow ∧ Er.pwrbusy.code = 320) ∧
  (∀ (s : State) (v : Word) (p : Pwr), s.pfOpen .pf = true → getBits v.toNat 16 16 = 0x4C59 → pwrOf (getBits v.toNat 0 3) = some p → s.pwrBusy = true →
    exec (.power (.pf v) p) s = .next (s.log { errRec .pwrbusy .pwr [] with src := .pf }).exitNow) ∧
  (∀ (s : State) (v : Word), s.pfOpen .pf = true → getBits v.toNat 16 16 = 0x4C59 → pwrOf (getBits v.toNat 0 3) = some s.pwr → s.pwrBusy = false →
    exec (.power (.pf v) s.pwr) s = .next s.exitNow ∧ s.exitNow = s)

/-- O16. Quiesce, wake, ignition, hold-up, power-fail and dump events change the power state machine as R400 to R422 say. -/
def Obligations.PowerEventsAct : Prop :=
  (∀ (s : State) (e : Entry) (d : Domain), s.pw.entry = some e → e.stage = .quiesce → e.left.head? = some d.val →
    exec (.quiesceComplete d) s = .next (s.quiesceNext { e with left := e.left.tail, done := d.val :: e.done })) ∧
  (∀ (s : State) (e : Entry) (w : Wake), s.pw.halted = false → s.wakeOn w = true → s.pw.entry = some e → armedIn e.target w = true →
    ∃ u : State, u = s.wakeRecord w ∧ exec (.wakeEvent w) s = .next { u with pw := { u.pw with wake := s.pw.wake.or (some w) } }) ∧
  (∀ (s : State) (w : Wake), s.pw.halted = false → s.wakeOn w = true → s.pw.entry = none → armedIn s.pwr w = true → s.pw.exiting = false → s.pw.leave = none →
    ∃ u : State, u = s.wakeRecord w ∧ exec (.wakeEvent w) s = .next ({ u with pw := { u.pw with leave := some (.run, some w) } } : State).exitNow) ∧
  (∀ (s : State), s.boot.pwrgd = true → s.pw.halted = false → s.pw.ign = true →
    exec (.ignitionChange false) s = .next (({ s with pw := { s.pw with ign := false } } : State).log { errRec .ignoff .pwr [] with flags := infoFlag })) ∧
  (∀ (s : State), s.boot.pwrgd = true → s.pw.halted = false → s.pw.ign = false →
    ∃ (u : State) (q : Option IgnStep), u = ({ s with pw := { s.pw with ign := true } } : State).log { errRec .ignon .pwr [] with flags := infoFlag } ∧
      exec (.ignitionChange true) s = .next ((u.setSeq q).wakeNow .ign)) ∧
  (∀ (s : State), s.pw.ign = false → s.bit F.PWR_IGN_AUTO = true → s.boot.phase = .up → s.boot.rescue = false → s.pw.halted = false → s.pw.seq = none →
    exec .ignitionHoldExpiry s = .next { s with pw := { s.pw with seq := some .drain, stopped := false } }) ∧
  (∀ (s : State), (s.pw.seq = some .drain ∨ s.pw.seq = some .stop) →
    exec .ignitionDrainTimeout s = .next (({ s with pw := { s.pw with seq := some .again } } : State).log (errRec .drain .pwr []))) ∧
  (∀ (s : State) (b : Bool), exec (.holdupOkChange b) s = .next (({ s with pw := { s.pw with holdup := b } } : State).secChanged s.secOk)) ∧
  (∀ (s : State) (w : Nat), s.boot.pwrgd = true → s.pw.halted = false → s.boot.phase ≠ .held → 20 ≤ w → (s.pwr = .sleep ∨ s.pwr = .off) → s.pw.exiting = false →
    exec (.pfailAssert w) s = .next (s.setF F.PWR_PFSTAT_SEEN 1)) ∧
  (∀ (s : State) (w : Nat), s.boot.pwrgd = true → s.pw.halted = false → s.boot.phase ≠ .held → 20 ≤ w → s.pwr = .run →
    ∃ t : State, exec (.pfailAssert w) s = .next t ∧ t.pw.halted = true) ∧
  (∀ (s : State) (n : Nat), s.pw.halted = true → s.jrn.st = 1 →
    exec (.dumpComplete n) s = .next ({ s with jrn := { s.jrn with seq := s.jrn.seq + 1, st := if s.jrn.recs = [] then 0 else 2, lastMs := min 65535 n } } : State).writeCtl)

/-- O17. The reset verbs, GLB.RSTCTL, PERST_N and the watchdog carry out their resets, a verb after its reply. -/
def Obligations.ResetCommandsReset : Prop :=
  (∀ (s : State) (ln : Ln) (k : Bool), s.answers ln .service → exec (.resetWarm ln k) s = .next ((s.reply ln [] (.ok [⟨"RESET", .word "WARM"⟩])).warm k false false)) ∧
  (∀ (s : State) (ln : Ln) (d : Nat), s.serves ln .service → 1 ≤ d → d ≤ 9 →
    exec (.resetDomain ln d) s = .next ((s.reply ln [] (.ok [⟨"RESET", .chars ('D' :: decText d)⟩])).domReset d true)) ∧
  (∀ (s : State) (k : Bool), exec (.warmReset k) s = .next (s.warm k false false)) ∧
  (∀ (s : State) (d : Domain), exec (.domainReset d) s = .next (s.domReset d.val true)) ∧
  (∀ (s : State) (src : Src) (v : Word), (∀ t, src ≠ .vf t) → s.glbOpen src = true → getBits v.toNat 16 16 = 0x4C59 → getBits v.toNat 0 2 = 1 →
    exec (.rstctlWarm src v) s = .next (s.warm (getBits v.toNat 2 1 == 1) false false)) ∧
  (∀ (s : State) (src : Src) (v : Word), (∀ t, src ≠ .vf t) → s.glbOpen src = true → getBits v.toNat 16 16 = 0x4C59 → getBits v.toNat 0 2 = 2 → 1 ≤ getBits v.toNat 8 4 → getBits v.toNat 8 4 ≤ 9 →
    exec (.rstctlDomain src v) s = .next (s.domReset (getBits v.toNat 8 4) true)) ∧
  (∀ (s : State), s.boot.warming = false → exec .perstAssert s = .next (({ s with hif := { s.hif with perst := true } } : State).linkLost.domReset 1 false)) ∧
  (∀ (s u : State), s.boot.warming = true → u = ({ s with hif := { s.hif with perst := true } } : State).linkLost → exec .perstAssert s = .next { u with boot := { u.boot with perstDue := true } }) ∧
  (∀ (s : State), exec .perstDeassert s = .next (((({ s with hif := { s.hif with perst := false } } : State).clkBack .ckp).linkTrain).edge s.hif.perst .pcie)) ∧
  (∀ (s : State), s.boot.phase = .up → s.boot.wdogHeld = false → s.pw.halted = false → s.bit F.GLB_WDOG_EN = true →
    exec .watchdogExpiry s = .next ((s.log (errRec .watchdog .seq [])).warm true false true)) ∧
  (∀ (s : State) (src : Src) (v : Word), (∀ t, src ≠ .vf t) → s.glbOpen src = true →
    exec (.watchdogWrite src v) s = .next ((s.setF F.GLB_WDOG_EN (getBits v.toNat 31 1)).setF F.GLB_WDOG_PERIOD (max 100 (getBits v.toNat 0 16))))

/-- O18. Start-up runs from PWRGD over the fuse map, the boot image, the self-test and the journal scan to the first prompt. -/
def Obligations.StartUpSteps : Prop :=
  (∀ (s : State) (m te : Bool) (v : BitVec 3), s.boot.pwrgd = false →
    exec (.pwrgdRise m te v) s = .next ({ s.por with boot := { s.por.boot with pwrgd := true, master := m, testEn := te, vsel := v } } : State).startUp) ∧
  (∀ (s : State), exec .pwrgdFall s = .next { s.por with boot := { s.por.boot with pwrgd := false } }) ∧
  (∀ (s : State) (k : Fin 4) (f : Fuses), s.boot.phase = .fuses → s.boot.noStart = false →
    exec (.fuseMapLoad (some k) f) s =
      .next (((({ s with boot := { s.boot with fuses := f, phase := .image }, tnk := { s.tnk with spares := spareRowsOf f }, spd := { s.spd with remap := remapsOf f } } : State).setMacs.clkOf 0 true).clkOf 1 true).linkTrain)) ∧
  (∀ (s : State) (f : Fuses), s.boot.phase = .fuses → s.boot.noStart = false →
    exec (.fuseMapLoad none f) s = .next (({ s with boot := { s.boot with noStart := true } } : State).emit (.pin "FAULT_N" false))) ∧
  (∀ (s : State) (a b : Slot), s.boot.phase = .image → slotHeader a = true → slotHeader b = true → slotGood a = true → slotGood b = true →
    ∃ t : State, exec (.bootImageLoad a b) s = .next t ∧ t.boot.phase = .test ∧ t.boot.bootedB = decide (a.seq.toNat < b.seq.toNat) ∧
      t.spd.mem = msetL [] 0 (slotBytes (if a.seq.toNat < b.seq.toNat then b else a))) ∧
  (∀ (s : State) (rate ms : Nat), s.boot.phase = .test →
    ∃ u : State, u = (s.codecOk.fixRate rate).setF F.GLB_BOOTTIME_TEST (min 65535 ms) ∧
      exec (.bootSelfTest [] rate ms) s = .next (if u.tooMany (!(s.boot.warming && s.boot.keepTank)) then u.enterRescue else { u with boot := { u.boot with phase := .scan } })) ∧
  (∀ (s : State), s.boot.phase = .scan → ∃ t : State, exec .fixerJournalScan s = .next t ∧ t.boot.phase = .init) ∧
  (∀ (s : State) (ms : Nat), s.boot.phase = .init → s.boot.warming = false → s.pw.exiting = false → s.boot.perstDue = false →
    exec (.firstPrompt ms) s = .next ((((s.endBoot.startUnits false false ms).loadTime.hifShow).latchPins allUnits).openUarts.sweepDue)) ∧
  (∀ (s : State) (d : Clk), s.bit ⟨R.CLK_STAT, clkBit d, 1⟩ = true →
    exec (.clockLoss d) s = .next ((((s.clkStops d).dropPartial d).log (errRec .clkloss .clk [⟨"DOM", .word (clkName d)⟩])).clkAction d)) ∧
  (∀ (s : State), s.boot.refLost = false → s.boot.pwrgd = true → s.boot.testEn = false →
    exec .refClockLoss s = .next (({ s.porKeep with boot := { s.porKeep.boot with refLost := true } } : State).log (errRec .clkloss .clk [⟨"DOM", .word "REF"⟩]))) ∧
  (∀ (s : State), s.boot.refLost = true → exec .referenceClockReturn s = .next ({ s with boot := { s.boot with refLost := false } } : State).startUp) ∧
  (∀ (s : State), exec (.supplyMonitorReset true) s = .next { s.porKeep with boot := { s.porKeep.boot with supplyLow := true } }) ∧
  (∀ (s : State), s.boot.supplyLow = true → exec (.supplyMonitorReset false) s = .next ({ s with boot := { s.boot with supplyLow := false } } : State).startUp)

/-- O19. TEST BOOT, keys and firmware updates: what each verb checks, does and replies. -/
def Obligations.TestsAndFirmware : Prop :=
  (∀ (s : State) (ln : Ln), s.serves ln .service → s.bootTestError = none →
    exec (.testBoot ln) s = .next (({ s with boot := { s.boot with testing := true }, con := { s.con with opBoot := some ln } } : State).reply ln [] (.ok [⟨"", .word "STARTED"⟩]))) ∧
  (∀ (s : State) (rate : Nat), s.boot.testing = true →
    exec (.testBootComplete [] rate) s = .next ((s.dropBootTest.codecOk.fixRate rate).fanAgain.done s.con.opBoot (resultItems true Er.selftest.code))) ∧
  (∀ (s : State) (ln : Ln) (k : KeyKind) (t : Tenant) (n : Nat) (h : DWord), s.serves ln .service → 1 ≤ n → n ≤ 3 → (stagedFor (s.staging ln.who) k t).length + 1 = n →
    exec (.key ln k t n h) s = .next ((s.setStaging ln.who (some ⟨k, t.val, stagedFor (s.staging ln.who) k t ++ [h]⟩)).reply ln [] (.ok [⟨"PART", .num n⟩]))) ∧
  (∀ (s : State) (ln : Ln) (k : KeyKind) (t : Tenant) (h : DWord), s.serves ln .service → (stagedFor (s.staging ln.who) k t).length = 3 →
    exec (.key ln k t 4 h) s =
      (let bytes := (stagedFor (s.staging ln.who) k t ++ [h]).flatMap (fun p => beBytes 8 p.toNat)
       .next (((s.setStaging ln.who none).writeKey t k bytes).reply ln [] (.ok [⟨"SLOT", .num t.val⟩, ⟨"KIND", .word (kindText k)⟩, ⟨"CHECK", .chars (keyCheck bytes)⟩])))) ∧
  (∀ (s : State) (ln : Ln) (k : KeyKind) (t : Tenant) (n : Nat) (h : DWord), s.serves ln .service → 1 ≤ n → n ≤ 4 → (stagedFor (s.staging ln.who) k t).length + 1 ≠ n →
    exec (.key ln k t n h) s = .next ((s.setStaging ln.who none).reply ln [] (.er .keyseq []))) ∧
  (∀ (s : State) (ln : Ln) (t : Tenant) (w : EraseArg), s.serves ln .service →
    exec (.keyErase ln t w) s =
      (let k := slotOf s.sec.keys t
       let k' : KeySlot := { k with hmac := if w = .aes then k.hmac else none, aes := if w = .hmac then k.aes else none }
       .next (({ s with sec := { s.sec with keys := putSlot s.sec.keys k', chains := if w = .aes then s.sec.chains else s.sec.chains.filter (fun l => l.t != t) } } : State).reply ln []
         (.ok [⟨"SLOT", .num t.val⟩, ⟨"HMAC", setVal k'.hmac⟩, ⟨"AES", setVal k'.aes⟩])))) ∧
  (∀ (s : State) (ln : Ln) (n : Nat), s.answers ln .service → s.con.update = none → s.boot.commit = none → s.boot.testing = false → n % 4 = 0 → 4 ≤ n → n ≤ 196608 →
    exec (.fwupdateStart ln n) s = .next (({ s with con := { s.con with update := some ⟨Who.owner ln.who, n, []⟩ } } : State).reply ln [] (.ok [⟨"MAX", .num 196608⟩]))) ∧
  (∀ (s : State) (ln : Ln) (u : Update) (ws : List Word), s.answers ln .service → s.openUpdate ln = some u → ws.length = 16 → 4 * u.words.length < u.size →
    exec (.flashWrite ln (4 * u.words.length) ws) s =
      .next (({ s with con := { s.con with update := some { u with words := u.words ++ ws } } } : State).reply ln [] (.ok [⟨"NEXT", .hex 6 (4 * u.words.length + 64)⟩]))) ∧
  (∀ (s : State) (ln : Ln) (u : Update) (crc : Word), s.answers ln .service → s.openUpdate ln = some u → u.size ≤ 4 * u.words.length →
    exec (.fwupdateCommit ln crc) s = .next (({ s with con := { s.con with update := none, opFw := some ln }, boot := { s.boot with commit := some (crc, u) } } : State).reply ln [] (.ok [⟨"", .word "STARTED"⟩]))) ∧
  (∀ (s : State) (ln : Ln) (u : Update), s.answers ln .service → s.openUpdate ln = some u →
    exec (.fwupdateAbort ln) s = .next (({ s with con := { s.con with update := none } } : State).reply ln [] (.ok []))) ∧
  (∀ (s : State) (u : Update) (crc : Word), s.boot.commit = some (crc, u) → crc32 (updateBytes u) = crc.toNat →
    ∃ (v : State) (x : Slot), (v, x) = ({ s with boot := { s.boot with commit := none }, con := { s.con with opFw := none } } : State).writeSlot crc u ∧ x.image = updateBytes u ∧
      (if s.boot.bootedB then v.boot.slotA = x ∧ v.boot.slotB = s.boot.slotB else v.boot.slotB = x ∧ v.boot.slotA = s.boot.slotA) ∧
      exec .fwupdateCommitComplete s = .next (v.done s.con.opFw [⟨"FW", .chars (versionText x.version)⟩])) ∧
  (∀ (s : State) (u : Update) (crc : Word), s.boot.commit = some (crc, u) → crc32 (updateBytes u) ≠ crc.toNat →
    exec .fwupdateCommitComplete s = .next (({ s with boot := { s.boot with commit := none }, con := { s.con with opFw := none } } : State).done s.con.opFw (erItems .fwcrc [])))

/-- O20. Queue and tenant verbs, and QCMD, create, delete, report and change what R86 to R88, R160 to R163 and R206 say. -/
def Obligations.QueueVerbsAct : Prop :=
  (∀ (s : State) (ln : Ln) (t : Tenant), s.serves ln .view →
    exec (.tenantQuery ln t) s =
      (let w := (s.rd (R.SCH_TSHARE t.val)).toNat
       .next (s.reply ln [] (.ok [⟨"T", .num t.val⟩, ⟨"EN", .num (if s.enabled t then 1 else 0)⟩, ⟨"CLASS", .word (clsName (getBits w 28 2))⟩,
         ⟨"WEIGHT", .num (getBits w 8 8)⟩, ⟨"RATE", .num (getBits w 0 8)⟩, ⟨"QUEUES", .num (s.ownedBy t).length⟩, ⟨"VEC", .num (s.vecCount t)⟩])))) ∧
  (∀ (s : State) (ln : Ln) (t : Tenant) (c : Cls) (wt r : Nat), s.serves ln .operate → s.enabled t = true → 1 ≤ wt → wt ≤ 255 → r ≤ 255 →
    exec (.tenant ln t (some c) (some wt) (some r)) s =
      (let w : Word := BitVec.ofNat 32 (2 ^ 28 * clsNum c + 2 ^ 8 * wt + r)
       .next (if s.shareBad t w then s.reply ln [] (.er .rate [])
         else (s.changeShare t w).reply ln [] (.ok [⟨"T", .num t.val⟩, ⟨"CLASS", .word (clsName (clsNum c))⟩, ⟨"WEIGHT", .num wt⟩, ⟨"RATE", .num r⟩])))) ∧
  (∀ (s : State) (ln : Ln) (t : Tenant) (q : Option Nat) (ring : Option DWord) (size tmo : Option Nat) (i : Tenant × Qid × Fin 64), s.serves ln .operate →
    s.createCheck ⟨t.val, q, ring.map (·.toNat), sizeLogOf (size.getD 256), tmo.getD 30000⟩ = .ok i →
    exec (.queueCreate ln t q ring size tmo) s =
      .next ((s.makeQueue i.1 i.2.1 i.2.2 (ring.map (·.toNat)) ((sizeLogOf (size.getD 256)).getD 8) (tmo.getD 30000)).reply ln []
        (.ok (⟨"Q", .num i.2.1.val⟩ :: (if tmo.getD 30000 < 19200 then [⟨"FLAG", .word "SHORTTMO"⟩] else []))))) ∧
  (∀ (s : State) (ln : Ln) (t : Tenant) (q : Option Nat) (ring : Option DWord) (size tmo : Option Nat) (e : Er), s.serves ln .operate →
    s.createCheck ⟨t.val, q, ring.map (·.toNat), sizeLogOf (size.getD 256), tmo.getD 30000⟩ = .error e →
    exec (.queueCreate ln t q ring size tmo) s = .next (s.reply ln [] (.er e []))) ∧
  (∀ (s : State) (ln : Ln) (q : Qid), s.serves ln .operate → s.deleteCheck q.val = none →
    exec (.queueDelete ln q.val) s = .next ((s.dropQueue q).reply ln [] (.ok [⟨"Q", .num q.val⟩]))) ∧
  (∀ (s : State) (ln : Ln) (q : Qid) (e : Er), s.serves ln .operate → s.deleteCheck q.val = some e →
    exec (.queueDelete ln q.val) s = .next (s.reply ln [] (.er e []))) ∧
  (∀ (s : State) (ln : Ln) (q : Nat) (x : Queue), s.serves ln .view → q < 1024 → s.queue? q = some x →
    exec (.queueQuery ln q) s = .next (s.reply ln [] (.ok [⟨"Q", .num q⟩, ⟨"T", .num x.tenant.val⟩, ⟨"NEXTSEQ", .num x.nextReported⟩, ⟨"ACC", .num (s.qAcc q)⟩,
      ⟨"SEC", .num (s.qSec q)⟩, ⟨"DUR", .num (s.qDur q)⟩, ⟨"TIMEOUT", .num x.timeout⟩, ⟨"FLAG", if x.shortTmo then .word "SHORTTMO" else .dash⟩]))) ∧
  (∀ (s : State) (src : Src) (q : Qid) (r : CreateReq), (∀ t, src ≠ .vf t) → (src = .pf → s.boot.warming = false ∧ s.d3hot 0 = false) →
    r = ⟨s.getF (F.QMG_QCFG_TENANT q.val), some q.val, if s.bit (F.QMG_QCFG_DRT q.val) then none else some (s.rd64 (R.QMG_QRING q.val)),
      if 4 ≤ s.getF (F.QMG_QCFG_SIZELOG q.val) then some (s.getF (F.QMG_QCFG_SIZELOG q.val)) else none, s.getF (F.QMG_QCFG_TIMEOUT q.val)⟩ →
    exec (.qcmdCreate src q) s = .next (match s.createCheck r with
      | .ok i => (s.makeQueue i.1 i.2.1 i.2.2 r.ring (r.sizeLog.getD 8) r.timeout).qres q.val 0
      | .error e => s.qres q.val e.code)) ∧
  (∀ (s : State) (src : Src) (q : Qid), s.mayWrite src → s.deleteCheck q.val = none → exec (.qcmdDelete src q) s = .next ((s.dropQueue q).qres q.val 0)) ∧
  (∀ (s : State) (src : Src) (q : Qid) (e : Er), s.mayWrite src → s.deleteCheck q.val = some e → exec (.qcmdDelete src q) s = .next (s.qres q.val e.code))

/-- O21. Function-level resets, SR-IOV and the DRT enables act on their tenants as R125, R128, R155, R201 and R204 say. -/
def Obligations.FunctionsResetAndEnable : Prop :=
  (∀ (s : State) (ln : Ln) (t : Tenant), s.serves ln .operate → t ≠ 0 → s.enabled t = true →
    exec (.resetFunction ln t) s = .next (({ (s.setFn { s.fn t with resetting := true }) with con := { s.con with opReset := s.con.opReset ++ [(t, ln)] } } : State).reply ln [] (.ok [⟨"", .word "STARTED"⟩]))) ∧
  (∀ (s : State) (t : Tenant), s.flrAbsorbed = false → (s.enabled t = true ∨ s.ownedBy t ≠ []) → exec (.functionLevelReset t) s = .next (s.flrAll t)) ∧
  (∀ (s : State), s.flrAbsorbed = false → s.cfgMet = .served → exec .pfFlr s = .next ((s.clearVf.flrAll 0).flrs ((List.finRange 256).filter (fun t => s.hif.vfen && decide (1 ≤ t.val ∧ t.val ≤ s.hif.numVf))))) ∧
  (∀ (s : State) (ari : Bool) (n : Nat), s.cfgMet = .served → s.hif.vfen = false →
    exec (.vfEnable ari n) s = .next (((({ s with hif := { s.hif with vfen := true, numVf := min 255 n, ari := ari } } : State).setF F.HIF_STAT_VFEN 1).setF F.HIF_STAT_NUMVF (min 255 n)).setF F.HIF_STAT_ARI
      (if ari then 1 else 0))) ∧
  (∀ (s : State), s.cfgMet = .served → s.hif.vfen = true → exec .vfDisable s = .next (s.clearVf.flrs ((List.finRange 256).filter (fun t => decide (1 ≤ t.val ∧ t.val ≤ s.hif.numVf))))) ∧
  (∀ (s : State) (src : Src) (t : Tenant), s.mayWrite src → s.drtTen t = true →
    ∃ u : State, u = (let v := s.drtEndAll .drtoff (s.eth.drt.filter (fun d => d.tenant == t))
        v.setF (F.ETH_DRTTEN_EN (t.val / 32)) (putBits (v.getF (F.ETH_DRTTEN_EN (t.val / 32))) (t.val % 32) 1 0)) ∧
      exec (.drtTenantDisable src t) s = .next (if u.enabled t then u else u.flrAll t)) ∧
  (∀ (s : State) (src : Src), s.mayWrite src → exec (.drtDisable src) s = .next ((s.drtEndAll .drtoff s.eth.drt).setF F.ETH_DRTCFG_EN 0))

/-- O22. Writes of TVEC, QVEC, TSHARE and GCAP, the MSI-X tables and the coalescing timeout act as R130, R189 to R193 and R206 say. -/
def Obligations.SharesAndVectorsAreWritten : Prop :=
  (∀ (s : State) (src : Src) (t : Tenant) (v : Word) (b c : Nat), s.mayWrite src → b = getBits v.toNat 16 11 → c = min 64 (getBits v.toNat 0 7) → (s.fn t).enable = false →
    b + c ≤ 2048 → (c = 0 ∨ s.rangeTaken t b c = false) →
    exec (.tvecWrite src t v) s =
      (let u := ((s.setF (F.INT_TVEC_BASE t.val) b).setF (F.INT_TVEC_COUNT t.val) c).dropPend t c
       .next (if s.vecCount t = c then u else u.reduceVecs c (u.ownedBy t)))) ∧
  (∀ (s : State) (t : Tenant) (v : Word) (b c : Nat), s.pfOpen .pf = true → b = getBits v.toNat 16 11 → c = min 64 (getBits v.toNat 0 7) → (s.fn t).enable = false →
    (2048 < b + c ∨ (c ≠ 0 ∧ s.rangeTaken t b c = true)) →
    exec (.tvecWrite .pf t v) s = .next (s.log { errRec .veclimit .int [⟨"BASE", .num b⟩, ⟨"COUNT", .num c⟩] with src := .pf, tenant := some t.val })) ∧
  (∀ (s : State) (src : Src) (q : Qid) (v : Word) (x : Queue), s.mayWrite src → s.queue? q.val = some x → getBits v.toNat 0 6 < s.vecCount x.tenant →
    exec (.qvecWrite src q v) s = .next (s.setF (F.INT_QVEC_VEC q.val) (getBits v.toNat 0 6))) ∧
  (∀ (s : State) (src : Src) (t : Tenant) (v : Word), s.mayWrite src → (pokes src = true → getBits v.toNat 28 2 ≠ 3) → s.shareBad t (s.normShare t v) = false →
    exec (.tshareWrite src t v) s = .next (s.changeShare t (s.normShare t v))) ∧
  (∀ (s : State) (t : Tenant) (v : Word), s.pfOpen .pf = true → s.shareBad t (s.normShare t v) = true →
    exec (.tshareWrite .pf t v) s = .next (s.log { errRec .rate .sch [⟨"SUM", .num s.rateSum⟩] with src := .pf, tenant := some t.val })) ∧
  (∀ (s : State) (src : Src) (v : Word), s.mayWrite src → s.rateSum ≤ min 233 (getBits v.toNat 0 8) →
    exec (.gcapWrite src v) s = .next (s.setF F.SCH_GCAP_LIMIT (min 233 (getBits v.toNat 0 8)))) ∧
  (∀ (s : State) (src : Src) (l : MsixAt) (v : Word), (src = .vf l.fn ∧ s.vfOn l.fn = true ∨ (∀ t, src ≠ .vf t) ∧ l.fn = 0) → s.pfOpen src = true → l.word ≠ 4 →
    exec (.msixTableWrite src l v) s = .next (s.msixWr l.fn l.entry l.word v)) ∧
  (∀ (s : State) (src : Src) (l : MsixAt) (v : Word), (src = .vf l.fn ∧ s.vfOn l.fn = true ∨ src = .pf ∧ l.fn = 0) → s.cfgMet = .served → l.word = 4 →
    exec (.msixTableWrite src l v) s = .next (s.msixWr l.fn l.entry l.word v)) ∧
  (∀ (s : State) (p : Fin 2048) (x : Pool) (t : Tenant), s.pool.find? (fun q => q.p == p.val) = some x → s.poolOwner p.val = some t →
    exec (.msixCoalesceTimeout p) s = .next ((s.poolClear p.val).signal t (p.val - s.vecBase t)))

/-- O23. Doorbells are applied or discarded, and WRITE, BARRIER and NOP descriptors, DMA ends and the reservation act as R164 to R180 say. -/
def Obligations.DescriptorsAreFetched : Prop :=
  (∀ (s : State) (t : Tenant) (slot : Fin 64) (tail : BitVec 16) (q : Queue), s.pfOpen (ownSrc t) = true → s.slotQueue? t slot.val = some q → q.drt = false → (s.fn t).resetting = false → q.badTail tail.toNat = false →
    exec (.doorbellWrite t slot tail) s = .next (s.setQueue { q with tail := tail.toNat })) ∧
  (∀ (s : State) (t : Tenant) (slot : Fin 64) (tail : BitVec 16) (q : Queue), s.pfOpen (ownSrc t) = true → s.slotQueue? t slot.val = some q → q.drt = false → (s.fn t).resetting = false → q.badTail tail.toNat = true →
    exec (.doorbellWrite t slot tail) s = .next (s.log { errRec .badtail .qmg [⟨"TAIL", .num tail.toNat⟩] with src := if t = 0 then .pf else .vf, tenant := some t.val, qid := some q.id.val })) ∧
  (∀ (s : State) (t : Tenant) (slot : Fin 64) (tail : BitVec 16), s.pfOpen (ownSrc t) = true → (∀ q, s.slotQueue? t slot.val = some q → q.drt = true ∨ (s.fn t).resetting = true) →
    exec (.doorbellWrite t slot tail) s = .next (s.setFn { s.fn t with baddb := satAdd 16 (s.fn t).baddb 1 })) ∧
  (∀ (s : State) (n : Qid) (d : Desc) (q : Queue), s.queue? n.val = some q → s.canFetch q = true → Desc.goodWrite d = true → q.nextSeq ≤ seqMax → pagesFor d.length.toNat ≤ s.roomFor q.tenant →
    ∃ (ps : List Nat) (u : State) (r : Rec), (ps, u) = s.takePages (pagesFor d.length.toNat) ∧ exec (.descriptorFetchWrite n d) s =
        .next ((u.addRec r).setQueue { q.advance with nextSeq := q.nextSeq + 1, barred := false, out := q.out ++ [⟨q.head, d.cid, .write r.uid⟩] }) ∧
      r.pages = ps ∧ r.uid = u.qmg.nextUid ∧ r.tenant = q.tenant ∧ r.qid = q.id ∧ r.seq = q.nextSeq ∧ r.level = .moving ∧ r.length = d.length.toNat ∧ r.addr = d.addr ∧ r.cid = d.cid ∧
      r.tstamp = (if d.flags = 1#8 then d.tstamp.toNat else s.now)) ∧
  (∀ (s u v : State) (n : Qid) (d : Desc) (q : Queue), s.queue? n.val = some q → s.canFetch q = true → Desc.goodRead d = true →
    u = (if s.readRefused q d = none ∧ s.cart = .ready then s.setCart .reading [] else s) →
    v = (if s.readRefused q d = none ∧ u.mot = .stopped then u.beginMove .read (wrapRev u.headIx) u.readStep else u) →
    exec (.descriptorFetchRead n d) s =
      .next ((v.setQueue { q.advance with out := q.out ++ [⟨q.head, d.cid, .read ⟨d, v.us, none, s.readRefused q d, []⟩⟩] }).readsDone n.val 65536)) ∧
  (∀ (s : State) (n : Qid) (d : Desc) (q : Queue), s.queue? n.val = some q → s.canFetch q = true → Desc.plain d 3 = true →
    ∃ u : State, u = s.addBarrier q (some (q.head, d.cid)) ∧
      exec (.descriptorFetchBarrier n d) s = .next (u.setQueue { q.advance with barred := true, out := q.out ++ [⟨q.head, d.cid, .barrier (u.qmg.nextUid - 1)⟩] }).report) ∧
  (∀ (s : State) (n : Qid) (d : Desc) (q : Queue), s.queue? n.val = some q → s.canFetch q = true → Desc.plain d 0 = true →
    exec (.descriptorFetchNop n d) s = .next ((s.setQueue q.advance).complete q q.head (plainCqe q d.cid 0 5))) ∧
  (∀ (s : State) (n : Qid) (q : Queue), s.queue? n.val = some q → s.canFetch q = true →
    exec (.descriptorDmaError n) s = .next ((s.setQueue q.advance).complete q q.head (plainCqe q 0#16 811 4))) ∧
  (∀ (s : State) (n : Qid) (k : BitVec 48) (data : List Byte) (r : Rec), s.moving? n k.toNat = some r → exec (.recordDmaComplete n k data) s = .next (s.accept r (data.take r.length))) ∧
  (∀ (s : State) (n : Qid) (k : BitVec 48) (r : Rec), s.moving? n k.toNat = some r → exec (.recordDmaError n k) s = .next (s.abort [r.uid] .dmaerr)) ∧
  (∀ (s : State) (r : Rec), s.secOk = true → s.firstEligible = some r → r.length ≤ s.getF F.QMG_FCAP_CAP → s.resUsed + chargeOf r.length ≤ s.getF F.FIX_RLIM_LIM →
    exec .reservationCharge s = .next ({ (s.setRec { r with level := .secured, sec := some s.qmg.nextSec }) with
      qmg := { (s.setRec { r with level := .secured, sec := some s.qmg.nextSec }).qmg with nextSec := s.qmg.nextSec + 1 } } : State).report) ∧
  (∀ (s : State) (r : Rec), s.secOk = true → s.firstEligible = some r → s.getF F.QMG_FCAP_CAP < r.length → exec .reservationCharge s = .next (s.setRec { r with unsec := true }))

/-- O24. A malformed descriptor completes ABORTED with ER 111 BADDESC and takes no sequence number. -/
def Obligations.MalformedDescriptorAborted : Prop :=
  ∀ (s : State) (n : Qid) (d : Desc) (q : Queue) (c : Instr), s.queue? n.val = some q → s.canFetch q = true →
    (c = .descriptorFetchWrite n d ∧ Desc.goodWrite d = false ∨ c = .descriptorFetchRead n d ∧ Desc.goodRead d = false ∨
      c = .descriptorFetchBarrier n d ∧ Desc.plain d 3 = false ∨ c = .descriptorFetchNop n d ∧ Desc.plain d 0 = false) →
    ∃ t : State, exec c s = .next t ∧ Out.completion q.id (q.ring + 64 * q.size + 32 * q.head) (plainCqe q d.cid 111 4).bytes ∈ t.out ∧ t.qmg.recs = s.qmg.recs ∧
      (∀ x ∈ t.qmg.queues, x = { q with head := (q.head + 1) % q.size } ∨ x ∈ s.qmg.queues ∧ x.id ≠ q.id) ∧ t.tnk = s.tnk ∧ t.tank = s.tank

/-- O25. ARP, ICMP echo, other frames, link changes and time synchronisation act as R135 to R140 say. -/
def Obligations.NetworkServicesAnswer : Prop :=
  (∀ (s u : State) (e : EthIn) (a b : Word), s.portUp e.port = true → e.xc3Full = false → s.tagOk e.port e.vid = true → u = s.heard e.port e.mac a → u.portIp e.port ≠ 0 → b.toNat = u.portIp e.port →
    exec (.arpRequest e a b) s = .next (u.emit (.arpReply (u.ethTx e.port e.mac false) a))) ∧
  (∀ (s u : State) (e : EthIn) (a b : Word) (d : List Byte), s.portUp e.port = true → e.xc3Full = false → s.tagOk e.port e.vid = true → u = s.heard e.port e.mac a → u.portIp e.port ≠ 0 → b.toNat = u.portIp e.port →
    exec (.icmpEcho e a b d) s = .next (u.emit (.icmpReply (u.ethTx e.port e.mac true) a d))) ∧
  (∀ (s : State) (e : EthIn) (a b : Word) (d : List Byte), s.portUp e.port = true →
    (e.xc3Full = true → exec (.arpRequest e a b) s = .next (s.count F.ETH_DROP_FULL 1) ∧ exec (.icmpEcho e a b d) s = .next (s.count F.ETH_DROP_FULL 1)) ∧
    (e.xc3Full = false → s.tagOk e.port e.vid = false → exec (.arpRequest e a b) s = .next (s.count F.ETH_DROP_OTHER 1) ∧ exec (.icmpEcho e a b d) s = .next (s.count F.ETH_DROP_OTHER 1))) ∧
  (∀ (s : State) (p : Fin 2) (full : Bool), s.portUp p = true → exec (.unsupportedFrame p full) s = .next (s.count (if full then F.ETH_DROP_FULL else F.ETH_DROP_OTHER) 1)) ∧
  (∀ (s u : State) (p : Fin 2) (mbps : Nat) (fd link : Bool) (v : Nat), v = (if link = true ∧ fd = true ∧ mbps = 1000 ∧ s.domainOn 2 = true then 1 else 0) →
    u = (if v = 1 then s.clkBack (if p.val = 0 then .cke0 else .cke1) else s) →
    exec (.ethLinkChange p mbps fd link) s =
      .next (if p.val = 0 then (u.setF F.ETH_PSTAT_UP0 v).setF F.CLK_STAT_CKE0_LOCK v else (u.setF F.ETH_PSTAT_UP1 v).setF F.CLK_STAT_CKE1_LOCK v)) ∧
  (∀ (s : State) (p : Fin 2) (o : Int), s.portUp p = false → exec (.gptpSync p o) s = .next s) ∧
  (∀ (s u : State) (p : Fin 2) (o : Int), s.portUp p = true →
    u = ((s.setF F.ETH_TOFS_OFFSET (BitVec.ofInt 32 (max (-2147483648) (min 2147483647 o))).toNat).setF F.ETH_TSTAT_SLVPORT p.val).setF F.ETH_TSTAT_GM 0 →
    exec (.gptpSync p o) s = .next (if u.bit F.ETH_TCFG_SRC then u else u.steer o)) ∧
  (∀ (s : State) (p : Fin 2) (o : Int), s.portUp p = true → s.bit F.ETH_TCFG_SRC = false → 1000000 < o.natAbs →
    ∃ t : State, exec (.gptpSync p o) s = .next t ∧ t.eth.ns = ((s.eth.ns : Int) - o).toNat) ∧
  (∀ (s u : State), u = ({ s with eth := { s.eth with good := 0 } } : State).setLocked false →
    exec .gptpSyncTimeout s = .next (if u.getF F.ETH_TCFG_PRIO1 = 255 ∨ u.domainOn 2 = false then u else u.setF F.ETH_TSTAT_GM 1))

/-- O26. DRT_OPEN binds a session, repeats its OPENACK, or is answered with the ERROR of its first failed check. -/
def Obligations.DrtSessionsOpen : Prop :=
  (∀ (s : State) (h : DrtHdr) (p : DrtOpenP), h.link = none →
    (h.xc3Full = true → exec (.drtOpen h p) s = .next (s.count F.ETH_DROP_FULL 1)) ∧
    (h.xc3Full = false → (s.drtPort h.port = false ∨ s.tagOk h.port h.vid = false) → exec (.drtOpen h p) s = .next (s.count F.ETH_DROP_OTHER 1))) ∧
  (∀ (s : State) (h : DrtHdr) (p : DrtOpenP), (h.link ≠ none ∨ h.xc3Full = false ∧ s.drtPort h.port = true ∧ s.tagOk h.port h.vid = true) →
    ((h.sumOk = false ∨ h.magicOk = false ∨ h.lenOk = false ∨ h.session ≠ 0#16) → exec (.drtOpen h p) s = .next (s.count F.ETH_DROP_BAD 1)) ∧
    (∀ (u : State) (same : Drt → Bool), h.sumOk = true → h.magicOk = true → h.lenOk = true → h.session = 0#16 → s.domainOn 1 = true → u = (s.hear h).edge h.link.isNone .eth →
      same = (fun d => samePeer d h && d.nonce == h.aux && d.tenant == p.tenant && d.qid.val == p.queue.toNat) →
      (∀ d, u.eth.drt.find? same = some d → exec (.drtOpen h p) s = .next (u.drtEmit h.link h.port h.mac ⟨h.ip, h.udp, tOPENACK, d.id, 0, 0, h.aux.toNat, d.openAck⟩)) ∧
      (∀ e : Er, u.eth.drt.find? same = none → u.openCheck h.link.isSome p = some e →
        exec (.drtOpen h p) s = .next (u.drtEmit h.link h.port h.mac ⟨h.ip, h.udp, tERROR, 0, fEND, 0, 0, errPayload e⟩)) ∧
      (∀ q : Queue, u.eth.drt.find? same = none → u.openCheck h.link.isSome p = none → u.queue? p.queue.toNat = some q → exec (.drtOpen h p) s = .next (u.drtBind h p q))))

/-- O27. DRT_DATA: a datagram is staged and acknowledged, held in XC-3 while its domains are quiesced, or dropped and counted under the reason R154 names. -/
def Obligations.DrtDataIsStagedOrCounted : Prop :=
  (∀ (s : State) (h : DrtHdr) (g : DrtSeg), h.link = none → h.xc3Full = true → exec (.drtData h g) s = .next (s.count F.ETH_DROP_FULL 1)) ∧
  (∀ (s : State) (h : DrtHdr) (g : DrtSeg), (h.link ≠ none ∨ h.xc3Full = false) → (s.quiesced 1 = true ∨ s.quiesced 7 = true ∨ s.quiesced 8 = true) →
    ((h.link ≠ none ∨ s.xc3Used h.port + 82 + g.data.length ≤ 2048) → exec (.drtData h g) s = .next { s with xc := { s.xc with rx := s.xc.rx ++ [(h, g)] } }) ∧
    (h.link = none → 2048 < s.xc3Used h.port + 82 + g.data.length → exec (.drtData h g) s = .next (s.count F.ETH_DROP_FULL 1))) ∧
  (∀ (s : State) (h : DrtHdr) (g : DrtSeg), (h.link ≠ none ∨ h.xc3Full = false) → s.quiesced 1 = false → s.quiesced 7 = false → s.quiesced 8 = false →
    (∀ (u : State) (d : Drt), s.drtCheck h = .known d → u = s.hear h →
      ((g.data = [] ∨ d.maxseg < g.data.length) → exec (.drtData h g) s = .next (s.count F.ETH_DROP_BAD 1)) ∧
      (g.data ≠ [] → g.data.length ≤ d.maxseg → (d.closing = true ∨ seqDiff h.seq.toNat d.cum = 0 ∨ 2 ^ 31 ≤ seqDiff h.seq.toNat d.cum ∨ d.held.any (fun x => x.seq == h.seq.toNat) = true) →
        exec (.drtData h g) s = .next ((u.count F.ETH_DROP_DUP 1).ackSoon d)) ∧
      (g.data ≠ [] → g.data.length ≤ d.maxseg → d.closing = false → d.held.any (fun x => x.seq == h.seq.toNat) = false →
        1 < seqDiff h.seq.toNat d.cum → seqDiff h.seq.toNat d.cum < 2 ^ 31 → u.winOf d < seqDiff h.seq.toNat d.cum →
        exec (.drtData h g) s = .next ((u.count F.ETH_DROP_WIN 1).ackSoon d)) ∧
      (g.data ≠ [] → g.data.length ≤ d.maxseg → d.closing = false → d.held.any (fun x => x.seq == h.seq.toNat) = false →
        1 ≤ seqDiff h.seq.toNat d.cum → seqDiff h.seq.toNat d.cum < 2 ^ 31 → (seqDiff h.seq.toNat d.cum = 1 ∨ seqDiff h.seq.toNat d.cum ≤ u.winOf d) →
        exec (.drtData h g) s =
          (let x : Held := ⟨h.seq.toNat, g, getBits h.flags.toNat 2 1 == 1, getBits h.flags.toNat 3 1 == 1, u.now, u.bit F.ETH_TSTAT_LOCKED⟩
           let w := ((((u.setDrt { d with held := d.held ++ [x], sinceAck := d.sinceAck + 1 }).drtAdvance d.id 257).drtDrain d.id (d.wait.length + 257)).report).drtClosed d.id
           .next (match w.drt? d.id with
             | some e => if 8 ≤ e.sinceAck then w.ackSoon e else w
             | none => w)))) ∧
    ((∀ d, s.drtCheck h ≠ .known d) → exec (.drtData h g) s = .next (s.drtDrop h (s.drtCheck h))))

/-- O28. DRT CLOSE, KEEPALIVE, the ACK, gap and idle timers, the NOTIFY holdoff and the over-rate check act on their session as R152 to R157, R198 and R199 say. -/
def Obligations.DrtTimersAndClose : Prop :=
  (∀ (s u : State) (h : DrtHdr) (d : Drt), (h.link ≠ none ∨ h.xc3Full = false) → s.drtCheck h = .known d → u = s.hear h →
    (d.closing = false → exec (.drtClose h) s = .next ((u.setDrt { d with final := some h.aux.toNat }).drtClosed d.id)) ∧
    (∀ f, d.closing = true → d.final = some f → exec (.drtClose h) s = .next (u.drtSend d tCLOSEACK (if d.cut then fPARTIAL else 0) f (u.ackBytes d))) ∧
    exec (.drtKeepalive h) s = .next (u.ackSoon d)) ∧
  (∀ (s : State) (h : DrtHdr), (h.link ≠ none ∨ h.xc3Full = false) → (∀ d, s.drtCheck h ≠ .known d) →
    exec (.drtClose h) s = .next (s.drtDrop h (s.drtCheck h)) ∧ exec (.drtKeepalive h) s = .next (s.drtDrop h (s.drtCheck h))) ∧
  (∀ (s : State) (h : DrtHdr), h.link = none → h.xc3Full = true →
    exec (.drtClose h) s = .next (s.count F.ETH_DROP_FULL 1) ∧ exec (.drtKeepalive h) s = .next (s.count F.ETH_DROP_FULL 1)) ∧
  (∀ (s : State) (n : BitVec 16) (d : Drt), s.drt? n.toNat = some d →
    exec (.drtAckTimer n) s = .next (if d.sinceAck = 0 then s else s.ackSoon d) ∧
    exec (.drtGapTimer n) s = .next (if d.held = [] then s else s.ackSoon d) ∧
    (s.getF F.ETH_DRTIDLE_IDLE ≠ 0 → d.ndur = d.nacc → exec (.drtIdleTimeout n) s = .next (s.drtEnd d .idle 0)) ∧
    ((s.getF F.ETH_DRTIDLE_IDLE = 0 ∨ d.ndur ≠ d.nacc) → exec (.drtIdleTimeout n) s = .next s) ∧
    (∀ (ev : Fin 9) (x : Notified) (e : Drt), d.notes.find? (fun y => y.kind == noteKind ev.val) = some x → e = { d with notes := d.notes.filter (fun m => m.kind != x.kind) } →
      (∀ c v at', x.held = some (c, v, at') → s.noteOn d.tenant = true → noteDiffers x c v = true → exec (.notifyHoldoffEnd n ev) s = .next (s.noteSend e c v at')) ∧
      ((∀ c v at', x.held = some (c, v, at') → s.noteOn d.tenant = false ∨ noteDiffers x c v = false) → exec (.notifyHoldoffEnd n ev) s = .next (s.setDrt e)))) ∧
  (∀ (s : State) (n : BitVec 16) (ev : Fin 9), s.drt? n.toNat = none →
    exec (.drtAckTimer n) s = .next s ∧ exec (.drtGapTimer n) s = .next s ∧ exec (.drtIdleTimeout n) s = .next s ∧ exec (.notifyHoldoffEnd n ev) s = .next s) ∧
  (∀ (s : State) (t : Tenant) (v : Nat), s.classOf t = 0 → s.getF (F.SCH_TSHARE_RATE t.val) < v → exec (.overrateCheck t v) s = .next (s.noteEach (some t) 8 (fun _ => v) s.eth.drt)) ∧
  (∀ (s : State) (t : Tenant) (v : Nat), (s.classOf t ≠ 0 ∨ v ≤ s.getF (F.SCH_TSHARE_RATE t.val)) → exec (.overrateCheck t v) s = .next s)

/-- O29. READ_COMPLETE, READ_TIMEOUT and the end of READING: a READ ends in ring order with the status R183 to R185 and R476 give it. -/
def Obligations.ReadsComplete : Prop :=
  (∀ (s : State) (q : Qid) (n : Nat) (x : Queue) (o f : Outstanding) (op : ReadOp), s.readOp? q.val n = some (x, o, op) → x.firstRead = some f →
    (f.slot ≠ o.slot → exec (.readComplete q n) s = .next s) ∧
    (f.slot = o.slot →
      (∀ e, op.status = some e → exec (.readComplete q n) s = .next ((s.endRead x o op (some e)).readsDone q.val 65536)) ∧
      (∀ g, op.status = none → op.got = some g → g.data.length ≠ g.rlen → exec (.readComplete q n) s = .next s) ∧
      (∀ g, op.status = none → op.got = some g → g.data.length = g.rlen → op.d.length.toNat < g.rlen →
        exec (.readComplete q n) s = .next ((s.endRead x o op (some .shortbuf)).readsDone q.val 65536)) ∧
      (∀ g, op.status = none → op.got = some g → g.data.length = g.rlen → g.rlen ≤ op.d.length.toNat →
        exec (.readComplete q n) s = .next ((s.endRead x o op none).readsDone q.val 65536)) ∧
      (op.status = none → op.got = none →
        exec (.readComplete q n) s = .next ((s.endRead x o op (some (if op.d.flags = 2#8 then .enddata else .notfound))).readsDone q.val 65536)))) ∧
  (∀ (s : State) (q : Qid) (n : Nat) (x : Queue) (o : Outstanding) (op : ReadOp), s.readOp? q.val n = some (x, o, op) →
    (op.status = none → s.dfmFor q n = none → exec (.readTimeout q n) s = .next ((s.readErr .rtimeout x op true 0 none).failRead q.val n .rtimeout)) ∧
    (∀ d, op.status = none → s.dfmFor q n = some d →
      exec (.readTimeout q n) s =
        .next ((if s.lastOf d q n = true then (s.readErr .rtimeout x op true d.tries (some d.ds)).stopLadder else s.readErr .rtimeout x op true d.tries (some d.ds)).failRead q.val n .rtimeout)) ∧
    (op.status ≠ none → exec (.readTimeout q n) s = .next s)) ∧
  (∀ (s : State), s.cart = .reading → s.allReads = [] → exec .cartReadingIdle s = .next ((s.setCart .ready []).beginStop)) ∧
  (∀ (s : State), (s.cart ≠ .reading ∨ s.allReads ≠ []) → exec .cartReadingIdle s = .next s)

/-- O30. SCH_FEED serves the tenant whose turn it is with what R207, R208 or R108 gives it; BULK_STARVE owes a tenant one visit. -/
def Obligations.SchedulerServesTenants : Prop :=
  (∀ (s : State) (t : Tenant), (s.mayFeed = false ∨ s.idleEng = none) → exec (.schFeed t) s = .next s) ∧
  (∀ (s u : State) (t : Tenant) (e : Fin 4) (r : Rec) (rs : List Rec), s.mayFeed = true → s.idleEng = some e → u = (s.nokeys (List.finRange 256)).settleShares → u.replayLeft = r :: rs →
    (r.tenant = t → u.keyless t = false → exec (.schFeed t) s = .next (u.feedReplay e t)) ∧ ((r.tenant ≠ t ∨ u.keyless t = true) → exec (.schFeed t) s = .next u)) ∧
  (∀ (s u : State) (t : Tenant) (e : Fin 4), s.mayFeed = true → s.idleEng = some e → u = (s.nokeys (List.finRange 256)).settleShares → u.replayLeft = [] →
    (∀ r, nextAfter u.sch.rr1 (u.backlog.filter u.holdsTokens) = some t → u.nextRec t = some r →
      exec (.schFeed t) s =
        (let v := (u.setBal { u.bal t with tokens := (u.bal t).tokens - r.length }).markFed r u.sch.nextFeed
         .next ((({ v with sch := { v.sch with rr1 := t.val } } : State).giveFeed e t [r.uid] false).settleShares))) ∧
    (∀ x, nextAfter u.sch.rr1 (u.backlog.filter u.holdsTokens) = some x → x ≠ t → exec (.schFeed t) s = .next u) ∧
    (∀ us, nextAfter u.sch.rr1 (u.backlog.filter u.holdsTokens) = none → u.startRound.sch.round = t :: us →
      exec (.schFeed t) s =
        (let v : State := { u.startRound with sch := { u.startRound.sch with round := us } }
         let w := (v.setBal { v.bal t with deficit := (v.bal t).deficit + v.quantum t }).feedDeficit t v.qmg.recs.length
         .next ((if w.2 = [] then w.1 else w.1.giveFeed e t w.2 false).settleShares))) ∧
    (nextAfter u.sch.rr1 (u.backlog.filter u.holdsTokens) = none → u.startRound.sch.round.head? ≠ some t → exec (.schFeed t) s = .next u.startRound)) ∧
  (∀ (s : State) (t : Tenant), s.classOf t = 2 → s.heads t ≠ [] → s.sch.starved.contains t = false →
    exec (.bulkStarve t) s = .next { s with sch := { s.sch with starved := s.sch.starved ++ [t] } }) ∧
  (∀ (s : State) (t : Tenant), (s.classOf t ≠ 2 ∨ s.heads t = [] ∨ s.sch.starved.contains t = true) → exec (.bulkStarve t) s = .next s)

/-- O31. BLOCK_ENCODE_COMPLETE and BLOCK_PLACE: a block is written, offered and placed in feed order as R215, R218, R232, R239 and R272 say. -/
def Obligations.BlocksAreEncodedAndPlaced : Prop :=
  (∀ (s : State) (e : Eng) (enc : Encode), (s.eng e).job = none → exec (.blockEncodeComplete e enc) s = .next s) ∧
  (∀ (s u v : State) (e : Eng) (enc : Encode) (j : Job), (s.eng e).job = some j → u = (match enc.bad with | some w => s.worsen j w | none => s) →
    ((u.readPieces 0 j.pieces).2 = none ∧ ((s.eng e).flush = false ∨ ∀ k, enc.flushAt = some k → j.pieces.length ≤ k + 1) ∧ v = (u.readPieces 0 j.pieces).1 ∨
      (∃ k, (u.readPieces 0 j.pieces).2 = none ∧ (s.eng e).flush = true ∧ enc.flushAt = some k ∧ k + 1 < j.pieces.length ∧ v = (u.readPieces 0 j.pieces).1.shorten e j (k + 1)) ∨
      (∃ k, (u.readPieces 0 j.pieces).2 = some k ∧ v = (u.readPieces 0 j.pieces).1.losePiece e j k .uncorr)) →
    ((v.eng e).job = none → exec (.blockEncodeComplete e enc) s = .next (v.hold e).settle) ∧
    (∀ i, (v.eng e).job = some i → i.pieces = [] → exec (.blockEncodeComplete e enc) s = .next ((v.setEng e { v.eng e with job := none }).hold e).settle) ∧
    (∀ i, (v.eng e).job = some i → i.pieces ≠ [] → exec (.blockEncodeComplete e enc) s = .next ((v.offer e i ((s.eng e).flush && enc.flushAt.isSome) enc).hold e).settle)) ∧
  (∀ (s : State) (b : BlkOut), s.cart = .writing → s.nextBlock = some b → (∀ n ∈ s.fmt.flushTo, b.job.feed < n) →
    (∀ d, s.fmt.cur = some d → d.mustClose b.job.tenant = false → (d.exts = [] ∨ d.replay = b.job.replay) → exec .blockPlace s = .next (s.place d b)) ∧
    (∀ d, s.fmt.cur = some d → (d.mustClose b.job.tenant = true ∨ d.exts ≠ [] ∧ d.replay ≠ b.job.replay) → exec .blockPlace s = .next s) ∧
    (s.fmt.cur = none → 2 ≤ s.heldDs → exec .blockPlace s = .next s) ∧
    (∀ u d, s.fmt.cur = none → s.heldDs < 2 → s.openDs b.job.replay = (u, d) →
      exec .blockPlace s = .next (if d.replay = b.job.replay then u.place d b else { u with fmt := { u.fmt with cur := some d } }))) ∧
  (∀ (s : State), (s.cart ≠ .writing ∨ s.nextBlock = none) → exec .blockPlace s = .next s) ∧
  (∀ (s : State) (b : BlkOut) (n : Nat), s.nextBlock = some b → n ∈ s.fmt.flushTo → n ≤ b.job.feed → exec .blockPlace s = .next s)

/-- O32. The codec enables, its self-test and block expansion act as R233 to R240 say. -/
def Obligations.CodecEnablesAndSelfTest : Prop :=
  (∀ (s : State) (src : Src) (v : Word), s.mayWrite src →
    exec (.rdcEngineEnableWrite src v) s =
      (let b := getBits v.toNat 16 9
       .next (((s.setF F.RDC_CFG_EN (getBits v.toNat 0 4)).setF F.RDC_CFG_BLKMAX (if b < 16 ∨ 256 < b then 256 else b)).settle.engFail s.rdcCount))) ∧
  (∀ (s : State) (src : Src) (v : Word), s.mayWrite src → exec (.enlEngineEnableWrite src v) s = .next (s.setF F.ENL_CFG_EN (getBits v.toNat 0 4))) ∧
  (∀ (s : State) (ln : Ln), s.answers ln .service → s.boot.rescue = false →
    (s.pwr ≠ .run → exec (.testCodec ln) s = .next (s.reply ln [] (.er .pwrstate []))) ∧
    (s.pwr = .run → (s.cdc.test.isSome = true ∨ s.boot.testing = true) → exec (.testCodec ln) s = .next (s.reply ln [] (.er .testbusy []))) ∧
    (s.pwr = .run → s.cdc.test = none → s.boot.testing = false →
      exec (.testCodec ln) s = .next (({ s.startTest with con := { s.startTest.con with opCodec := [ln] } } : State).reply ln [] (.ok [⟨"", .word "STARTED"⟩])))) ∧
  (∀ (s : State), exec .codecTestPeriod s = .next (if s.cdc.test.isSome = true ∨ s.getF F.RDC_STEST_PERIOD = 0 ∨ s.domainOn 3 = false then s else s.startTest)) ∧
  (∀ (s : State) (e : Eng) (v : Verdict) (t : CodecTest), s.cdc.test = some t →
    (t.enl.getD e.val 16 < 16 → exec (.codecTestSlice true e v) s = .next (((s.setEnl e { s.cdc.enl[e] with held := false }).slice t true e (v == .pass)).endTest.settle)) ∧
    (t.rdc.getD e.val 16 < 16 → (s.eng e).job = none →
      exec (.codecTestSlice false e v) s = .next (((s.setEng e { s.eng e with held := false }).slice t false e (v == .pass)).endTest.settle)) ∧
    (16 ≤ t.enl.getD e.val 16 → exec (.codecTestSlice true e v) s = .next s) ∧
    ((16 ≤ t.rdc.getD e.val 16 ∨ (s.eng e).job.isSome = true) → exec (.codecTestSlice false e v) s = .next s) ∧
    exec (.codecTestWaitExpiry true) s = .next { s with cdc := { s.cdc with test := some { t with enlWait := true } } } ∧
    exec (.codecTestWaitExpiry false) s = .next { s with cdc := { s.cdc with test := some { t with rdcWait := true } } }) ∧
  (∀ (s : State) (e : Eng) (blk : List Byte) (t : Tenant) (room ds : Nat) (rs : List (Qid × Nat)), s.domainOn 3 = true → s.enlOn e = true → (s.cdc.enl[e]).held = false →
    (∀ p ∈ s.rch.sup, p.1 ≠ ds) →
    exec (.blockExpand e blk t room ds rs) s =
      (let u := s.count (F.ENL_ECNT_BLOCKS e.val) 1
       .next ((match readBlock t.val room blk with
         | .ok (ps, replay) => u.givePieces e t.val ds ps replay rs
         | .error er => (((((u.count (F.ENL_ECNT_ERRORS e.val) 1).setF F.ENL_LASTERR_ENGINE e.val).setF F.ENL_LASTERR_CODE er.code).blockErr er e t.val ds).failReads er rs)).holdEnl e))) ∧
  (∀ (s : State) (e : Eng) (blk : List Byte) (t : Tenant) (room ds : Nat) (rs : List (Qid × Nat)), s.domainOn 3 = true → (∀ x, s.enlOn x = false) →
    exec (.blockExpand e blk t room ds rs) s = .next (s.failReads .engfail rs))

/-- O33. Closing, streaming and writing datasets and their frames act as R35, R274, R280, R283 and R313 say. -/
def Obligations.DatasetsStreamToTape : Prop :=
  (∀ (s : State), exec .datasetClose s = .next (if s.closeDue = true then s.closeDs false else s)) ∧
  (∀ (s : State) (b : Built) (bs : List Built), s.fmt.built = b :: bs → s.mayStream b = true →
    exec .datasetStreamStart s =
      (let x : Stream := ⟨b, List.replicate 16 0, [], [], [], 0, false, s.rd R.PRF_CFG, s.startAt, false⟩
       .next (({ s with fmt := { s.fmt with built := bs, streams := s.fmt.streams ++ [x] } } : State).hintStart b.num))) ∧
  (∀ (s : State), (s.fmt.built = [] ∨ ∀ b, s.fmt.built.head? = some b → s.mayStream b = false) → exec .datasetStreamStart s = .next s) ∧
  (∀ (s : State) (ch : Chan) (x : Stream) (p : Nat), s.writing? = some x → s.gateOpen = true → p = x.next.getD ch.val 0 →
    (p < 8 * x.ds.nsub → s.bufRoom ch.val = true →
      exec (.frameWrite ch) s =
        (let sr := slotRow x.ds.nsub ch.val p
         let y := { x with next := x.next.set ch.val (p + 1), frames := x.frames ++ [⟨ch.val, p, 128 * sr.1 + sr.2, false⟩] }
         .next (((s.headBalls.writeRow ch.val p (s.headerOf x.ds x.ds.kind sr.1 false sr.2) (codedRow (subsetRow x.ds.content sr.1 sr.2))).setStream y).afterSlots y).burstEnd)) ∧
    (∀ r f, 8 * x.ds.nsub ≤ p → p < slotCount x.ds.nsub → poolPick ch.val x.queue = some (r, f) → s.bufRoom ch.val = true →
      exec (.frameWrite ch) s =
        (let y := { x with next := x.next.set ch.val (p + 1), queue := x.queue.filter (fun q => q.1 != r), pool := x.pool + 1, frames := x.frames ++ [⟨ch.val, p, r, false⟩] }
         let u := s.count F.FMT_CNT_REWRITES 1
         .next (((u.headBalls.writeRow ch.val p (u.headerOf x.ds x.ds.kind (r / 128) true (r % 128)) (codedRow (subsetRow x.ds.content (r / 128) (r % 128)))).setStream y).afterSlots y).burstEnd)) ∧
    (8 * x.ds.nsub ≤ p → p < slotCount x.ds.nsub → poolPick ch.val x.queue = none →
      exec (.frameWrite ch) s =
        (let y := { x with next := x.next.set ch.val (p + 1) }
         .next ((((s.headBalls.emit (.frame ch.val (channelBits (s.headerOf x.ds 2 0 false 0) (List.replicate 496 0#8)))).setStream y).afterSlots y).endStream x.ds.num).burstEnd)) ∧
    (slotCount x.ds.nsub ≤ p → exec (.frameWrite ch) s = .next s.burstEnd)) ∧
  (∀ (s : State) (ch : Chan), (s.writing? = none ∨ s.gateOpen = false) → exec (.frameWrite ch) s = .next s.burstEnd) ∧
  (∀ (s : State) (ch : Chan) (x : Stream), s.inFlight ch.val = some x → exec (.writeUnderrun ch) s = .next ((s.setStream (x.cutSlot ch.val)).emit (.rowFill ch.val))) ∧
  (∀ (s : State) (ch : Chan), s.inFlight ch.val = none → exec (.writeUnderrun ch) s = .next s)

/-- O34. FRAME_VERDICT counts and takes the verdict of R311 on one frame; a frame none waits for changes nothing. -/
def Obligations.VerdictsDecideDatasets : Prop :=
  (∀ (s : State) (ch : Chan) (slot : Nat), s.fmt.streams.find? (fun x => x.frames.any (fun f => f.ch == ch.val && f.slot == slot)) = none →
    exec (.frameVerdict ch slot) s = .next s) ∧
  (∀ (s t : State) (ch : Chan) (slot : Nat) (x y : Stream) (f : Frame) (v : Nat),
    s.fmt.streams.find? (fun x => x.frames.any (fun f => f.ch == ch.val && f.slot == slot)) = some x → x.frames.find? (fun f => f.ch == ch.val && f.slot == slot) = some f →
    v = verdictOf f.cut (getBits x.thr.toNat 8 8) (getBits x.thr.toNat (if zoneE s.tape.wrap then 4 else 0) 4) (s.readback ch.val slot) →
    y = { x with frames := x.frames.filter (fun g => !(g.ch == ch.val && g.slot == slot)) } → t = (s.dropRow ch.val slot).count (F.PRF_VCNT_FRAMES ch.val) 1 →
    (v = 0 → exec (.frameVerdict ch slot) s =
      (let z := { y with passed := if y.passed.contains f.row then y.passed else f.row :: y.passed }
       let u := ({ t with prf := { t.prf with runs := t.prf.runs.set ch.val 0 } } : State).setStream z
       .next ((if z.passed.length = 128 * z.ds.nsub ∧ z.verified = false then u.passDs z else u).endStream z.ds.num))) ∧
    (v ≠ 0 → exec (.frameVerdict ch slot) s =
      (let q : State := { t with prf := { t.prf with runs := t.prf.runs.set ch.val (t.prf.runs.getD ch.val 0 + 1) } }
       let z := { y with queue := y.queue ++ [(f.row, ch.val)] }
       let u := (((q.count (F.PRF_VCNT_FAILS ch.val) 1).setF F.PRF_STAT_LASTREASON v).setF F.PRF_STAT_LASTCH ch.val).setF F.PRF_STAT_LASTSLOT slot
       let w := (u.loupeEvent 2 (ch.val + (if wrapRev u.tape.wrap then 0 else 16))).vfyChan z ch.val
       .next ((w.1.setStream w.2).endStream w.2.ds.num))))

/-- O35. FRAME_READ, LOSS_OF_LOCK, DATASET_DECODE and READ_RETRY act as R290 and R304 to R317 say. -/
def Obligations.FramesAreReadAndDatasetsDecoded : Prop :=
  (∀ (s : State) (i : Fin 36) (f : FrameIn), s.inputOn i.val = false → exec (.frameRead i f) s = .next s) ∧
  (∀ (s : State) (i : Fin 36) (f : FrameIn), 32 ≤ i.val → s.inputOn i.val = true →
    (s.getF F.RCH_LPCFG_SRC = 0 → exec (.frameRead i f) s = .next (s.loupeTake i.val f.samples)) ∧ (s.getF F.RCH_LPCFG_SRC ≠ 0 → exec (.frameRead i f) s = .next s)) ∧
  (∀ (s u : State) (i : Fin 36) (f : FrameIn) (l m : Loops) (ds : List (Nat × Nat)), i.val < 32 → s.inputOn i.val = true → ds = s.defects f → u = s.count (F.RCH_ICNT_DEF i.val) ds.length →
    l = u.loopsOf i.val (zoneE u.headIx) →
    (u.frameAt f = none → m = u.runLoops l ds 64 false f →
      exec (.frameRead i f) s =
        (let w := ((if (lockLost ds).isSome then u.count (F.RCH_ICNT_LOL i.val) 1 else u).keepLoops m).inputStatus i.val false ds m f
         .next ((if w.verifies then w.toProof i.val 0 none false else w.toDfm i.val 0 none).loupeAt 3 i.val 64 (u.loupeSource l f)))) ∧
    (∀ (o : Nat) (lost first : Option Nat) (w x : State) (out : List (Byte × Bool)), u.frameAt f = some o → lost = u.lossIn i.val o ds →
      first = firstDefect ds → m = u.runLoops l ds o true f →
      w = ((if (lockLost ds).isSome then u.count (F.RCH_ICNT_LOL i.val) 1 else u).keepLoops m).inputStatus i.val lost.isNone ds m f →
      out = (padTake 508 (frameBytes (f.bits.drop (o + syncLen)))).zipIdx.map (fun p => (p.1, flagged w.defExt ds lost o p.2)) →
      x = (let v := ({ w with rch := { w.rch with lost := w.rch.lost.filter (fun p => p.1 != i.val) } } : State).emit (.rowRead i.val out)
           if v.verifies then v.toProof i.val ((o : Int) - 64) (some out) lost.isSome else v.toDfm i.val ((o : Int) - 64) (some out)) →
      (∀ k, lockLost ds = some k → s.getF F.RCH_LPCFG_TRIG = 4 → exec (.frameRead i f) s = .next (x.loupeAt 4 i.val k (u.loupeSource l f))) ∧
      (∀ k, (lockLost ds = none ∨ s.getF F.RCH_LPCFG_TRIG ≠ 4) → first = some k → exec (.frameRead i f) s = .next (x.loupeAt 1 i.val k (u.loupeSource l f))) ∧
      (first = none → exec (.frameRead i f) s = .next (x.loupeTake i.val (u.loupeSource l f))))) ∧
  (∀ (s u : State) (i : Fin 36) (n : Nat), i.val < 32 → s.inputOn i.val = true → s.rch.lost.any (fun p => p.1 == i.val) = false → u = (s.count (F.RCH_ICNT_LOL i.val) 1).setF (F.RCH_ISTAT_LOCK i.val) 0 →
    exec (.lossOfLock i n) s = .next (({ u with rch := { u.rch with lost := (i.val, n) :: u.rch.lost } } : State).loupeEvent 4 i.val)) ∧
  (∀ (s : State) (i : Fin 36) (n : Nat), (32 ≤ i.val ∨ s.inputOn i.val = false ∨ s.rch.lost.any (fun p => p.1 == i.val) = true) → exec (.lossOfLock i n) s = .next s) ∧
  (∀ (s : State) (p : PassResult), s.domainOn 4 = false → exec (.datasetDecode p) s = .next s) ∧
  (∀ (s u : State) (p : PassResult) (d : Dfm) (n : Nat), s.domainOn 4 = true → n = ((s.seen? p.ds).map (fun x => x.nsub)).getD p.nsub →
    d = (match s.rch.dfm with | some d => if d.ds = p.ds then { d with reads := p.reads } else ⟨p.ds, 0, 0, false, p.reads, 0⟩ | none => ⟨p.ds, 0, 0, false, p.reads, 0⟩) →
    u = (s.count F.DFM_CNT0_C1FAIL ((List.range n).map (s.missing p.ds)).sum).count F.DFM_CNT0_C2FAIL ((List.range n).filter (fun sb => !(s.subsetRows? p.ds sb).2)).length →
    (∀ c, s.decoded p.ds n = some (c, false) → exec (.datasetDecode p) s = .next (u.recovered c p)) ∧
    (∀ c, s.decoded p.ds n = some (c, true) →
      exec (.datasetDecode p) s = .next (((u.count F.DFM_CNT1_C3REB 1).log { errRec .c3rebuild .dfm [] with flags := infoFlag, ds := some p.ds }).recovered c p)) ∧
    (s.decoded p.ds n = none →
      (d.stop = true → exec (.datasetDecode p) s = .next u.ladderEnd) ∧
      (d.stop = false → d.tries < 8 → u.ladder ≠ [] → exec (.datasetDecode p) s = .next { u with rch := { u.rch with dfm := some d } }) ∧
      (d.stop = false → (8 ≤ d.tries ∨ u.ladder = []) → exec (.datasetDecode p) s = .next (u.giveUp d)))) ∧
  (∀ (s : State), s.rch.dfm = none → exec .readRetry s = .next s) ∧
  (∀ (s : State) (d : Dfm), s.rch.dfm = some d →
    ((d.stop = true ∨ 8 ≤ d.tries) → exec .readRetry s = .next s.ladderEnd) ∧
    (∀ i, d.stop = false → d.tries < 8 → s.ladder[d.tries % max 1 s.ladder.length]? = some i →
      exec .readRetry s =
        (let base := if d.tries = 0 then s.getF F.SRV_SPD_CUR else d.base
         .next (({ s with rch := { s.rch with dfm := some { d with tries := d.tries + 1, step := i + 1, base := base } } } : State).passAt (s.retrySpeed (i + 1) base)))))

/-- O36. The Loupe is armed, fired and ends its capture, and Proof tests itself, as R318 to R321 say. -/
def Obligations.LoupeAndProof : Prop :=
  (∀ (s : State) (src : Src) (v : Word), s.mayWrite src → ∃ t, s.wLpcfg v = .ok t ∧ exec (.loupeArm src v) s = .next t ∧ exec (.loupeFire src v) s = .next t ∧
    t.getF F.RCH_LPCFG_PRE = getBits v.toNat 0 15 ∧ t.getF F.RCH_LPCFG_INPUT = getBits v.toNat 16 6 ∧
    (getBits v.toNat 31 1 = 1 → getBits v.toNat 30 1 = 0 → t.rch.loupe = ⟨true, none, [], []⟩ ∧ t.bit F.RCH_LPSTAT_ARMED = true ∧ t.bit F.RCH_LPSTAT_DONE = false)) ∧
  (∀ (s : State) (n : Nat), s.rch.loupe.fired = some n → s.rch.loupe.armed = true → 32768 - s.getF F.RCH_LPCFG_PRE ≤ n →
    ∃ t, exec .loupeCaptureEnd s = .next t ∧ t.rch.loupe.armed = false ∧ t.rch.loupe.fired = none ∧ t.getF F.RCH_LPSTAT_ARMED = 0 ∧ t.getF F.RCH_LPSTAT_DONE = 1 ∧
      t.getF F.RCH_LPSTAT_TRIGPOS = s.getF F.RCH_LPCFG_PRE) ∧
  (∀ (s : State), (s.rch.loupe.fired = none ∨ s.rch.loupe.armed = false) → exec .loupeCaptureEnd s = .next s) ∧
  (∀ (s : State) (ln : Ln), s.answers ln .service → s.boot.rescue = false →
    (s.pwr ≠ .run → exec (.testProof ln) s = .next (s.reply ln [] (.er .pwrstate []))) ∧
    (s.pwr = .run → (s.prf.test.isSome = true ∨ s.boot.testing = true) → exec (.testProof ln) s = .next (s.reply ln [] (.er .testbusy []))) ∧
    (s.pwr = .run → s.prf.test = none → s.boot.testing = false →
      exec (.testProof ln) s =
        (let u : State := { s with prf := { s.prf with test := some ⟨0, none⟩ }, con := { s.con with opProof := some ln } }
         .next ((u.setF F.PRF_STAT_TESTRUN 1).reply ln [] (.ok [⟨"", .word "STARTED"⟩]))))) ∧
  (∀ (s : State) (ch : Chan) (rs : List (Nat × Readback)), s.prf.test = none → exec (.proofCheckpoint ch rs) s = .next s) ∧
  (∀ (s : State) (ch : Chan) (rs : List (Nat × Readback)) (p : ProofRun) (b : Option Nat), s.prf.test = some p →
    b = (match p.bad with | some b => some b | none => if proofRows (s.getF F.PRF_CFG_RUN) (s.getF F.PRF_CFG_THRC) rs then none else some ch.val) →
    (s.writeWaits = true → exec (.proofCheckpoint ch rs) s = .next (s.endProof 317 0)) ∧
    (s.writeWaits = false → p.next ≠ ch.val → exec (.proofCheckpoint ch rs) s = .next s) ∧
    (s.writeWaits = false → p.next = ch.val → ch.val < 15 → exec (.proofCheckpoint ch rs) s = .next { s with prf := { s.prf with test := some ⟨ch.val + 1, b⟩ } }) ∧
    (s.writeWaits = false → p.next = ch.val → ch.val = 15 → b = none → exec (.proofCheckpoint ch rs) s = .next ((s.setF F.PRF_STAT_BAD 0).endProof 0 0)) ∧
    (∀ n, s.writeWaits = false → p.next = ch.val → ch.val = 15 → b = some n →
      exec (.proofCheckpoint ch rs) s = .next (((s.setF F.PRF_STAT_BAD 1).endProof 517 n).log (errRec .prooffail .prf [⟨"CH", .num n⟩]))))

/-- O37. Tank reads, partial writes and atomics check a word, return its old value, write what is enabled, or fail, as R244 to R253 say. -/
def Obligations.TankWordsAreCheckedAndWritten : Prop :=
  (∀ (s u : State) (r : Req) (c : ReqCtx) (a : BitVec 25) (f : Nat) (e : Ecc) (ok : Bool), s.bankOn (wordBank (a.toNat / 16)) = true → s.tnk.waitq = [] → s.tnk.aged = [] →
    (s.granted (a.toNat / 16) [false] r).secded r (a.toNat / 16) e = (u, ok) →
    exec (.tankRead r c a f e) s =
      .next (if ok then u.emit (.tankData r (16 * (a.toNat / 16)) (u.tankVal (16 * (a.toNat / 16)) 16)) else u.accessFails r c (a.toNat / 16) .uncorr)) ∧
  (∀ (s : State) (r : Req) (c : ReqCtx) (a : BitVec 25) (d : BitVec 128) (f : Nat) (e : Ecc), s.bankOn (wordBank (a.toNat / 16)) = true → s.tnk.waitq = [] → s.tnk.aged = [] →
    exec (.tankPartialWrite r c a d 0xFFFF#16 f e) s = .next ((s.granted (a.toNat / 16) [true] r).putWord (a.toNat / 16) d.toNat 0xFFFF)) ∧
  (∀ (s u : State) (r : Req) (c : ReqCtx) (a : BitVec 25) (d : BitVec 128) (en : BitVec 16) (f : Nat) (e : Ecc) (ok : Bool), s.bankOn (wordBank (a.toNat / 16)) = true → s.tnk.waitq = [] → s.tnk.aged = [] →
    en ≠ 0xFFFF#16 → (s.granted (a.toNat / 16) [false, true] r).secded r (a.toNat / 16) e = (u, ok) →
    exec (.tankPartialWrite r c a d en f e) s = .next (if ok then u.putWord (a.toNat / 16) d.toNat en.toNat else u.accessFails r c (a.toNat / 16) .uncorr)) ∧
  (∀ (s u : State) (r : Req) (c : ReqCtx) (a : BitVec 25) (wide : Bool) (x : DWord) (f : Nat) (e : Ecc) (n : Nat) (ok : Bool), s.bankOn (wordBank (a.toNat / 16)) = true → s.tnk.waitq = [] → s.tnk.aged = [] →
    n = (if wide then 8 else 4) → a.toNat % n = 0 → (s.granted (a.toNat / 16) [false, true] r).secded r (a.toNat / 16) e = (u, ok) →
    exec (.tankAtomicAdd r c a wide x f e) s =
      .next (if ok then (({ u with tank := msetL u.tank a.toNat (leBytes n (u.tankVal a.toNat n + x.toNat)) } : State).freshWord (a.toNat / 16)).emit (.tankData r a.toNat (u.tankVal a.toNat n))
        else u.accessFails r c (a.toNat / 16) .uncorr) ∧
    exec (.tankAtomicSwap r c a wide x f e) s =
      .next (if ok then (({ u with tank := msetL u.tank a.toNat (leBytes n x.toNat) } : State).freshWord (a.toNat / 16)).emit (.tankData r a.toNat (u.tankVal a.toNat n))
        else u.accessFails r c (a.toNat / 16) .uncorr)) ∧
  (∀ (s : State) (r : Req) (c : ReqCtx) (a : BitVec 25) (wide : Bool) (x : DWord) (f : Nat) (e : Ecc) (n : Nat), s.bankOn (wordBank (a.toNat / 16)) = true → n = (if wide then 8 else 4) → a.toNat % n ≠ 0 →
    (r = .seq → exec (.tankAtomicAdd r c a wide x f e) s = .next (s.log (errRec .align .tnk [])) ∧ exec (.tankAtomicSwap r c a wide x f e) s = .next (s.log (errRec .align .tnk []))) ∧
    (r ≠ .seq → exec (.tankAtomicAdd r c a wide x f e) s = .next (s.accessFails r c (a.toNat / 16) .align) ∧
      exec (.tankAtomicSwap r c a wide x f e) s = .next (s.accessFails r c (a.toNat / 16) .align))) ∧
  (∀ (s : State) (r : Req) (c : ReqCtx) (a : BitVec 25) (d : BitVec 128) (en : BitVec 16) (wide : Bool) (x : DWord) (f : Nat) (e : Ecc), s.bankOn (wordBank (a.toNat / 16)) = false →
    exec (.tankRead r c a f e) s = .next s ∧ exec (.tankPartialWrite r c a d en f e) s = .next s ∧ exec (.tankAtomicAdd r c a wide x f e) s = .next s ∧ exec (.tankAtomicSwap r c a wide x f e) s = .next s) ∧
  (∀ (s : State) (b : Bank) (w : Bool) (r : Req), s.tnk.waitq = [] →
    exec (.requestAgeExpiry b w r) s = .next (if s.tnk.aged.contains (b, w, r) then s else { s with tnk := { s.tnk with aged := (b, w, r) :: s.tnk.aged } }))

/-- O38. The Tank window, the march test and the Scratchpad remap act as R253 and R257 to R260 and TNK.WADDR to TNK.TEST say. -/
def Obligations.TankTestsAndWindow : Prop :=
  (∀ (s u : State) (src : Src) (e : Ecc) (v : Word) (w : Nat) (ok : Bool), s.mayWrite src → s.bit F.TNK_CTRL_WINEN = true → w = s.getF F.TNK_WADDR_ADDR → s.bankOn (wordBank w) = true →
    (s.granted w [false] .window).secded .window w e = (u, ok) →
    exec (.tankWindowAccess src false 0 v e) s =
      (let ps := wordParts (u.tankVal (16 * w) 16)
       .next (if ok then ({ u with tnk := { u.tnk with parts := ps.drop 1 } } : State).emit (.readData src (R.TNK_WDATA 0) (ps.headD 0#32)) else u.accessFails .window (.window src) w .uncorr)) ∧
    (let st (i : Nat) : Nat := (s.tnk.stage.getD i 0#32).toNat
     exec (.tankWindowAccess src true 0 v e) s = .next ((s.granted w [true] .window).putWord w (v.toNat + 2 ^ 32 * st 0 + 2 ^ 64 * st 1 + 2 ^ 96 * st 2) 0xFFFF)) ∧
    (∀ i : Fin 4, i ≠ 0 → exec (.tankWindowAccess src true i v e) s = .next { s with tnk := { s.tnk with stage := s.tnk.stage.set (i.val - 1) v } } ∧
      exec (.tankWindowAccess src false i v e) s = .next (s.emit (.readData src (R.TNK_WDATA i.val) (s.tnk.parts.getD (i.val - 1) 0#32))))) ∧
  (∀ (s : State) (src : Src) (e : Ecc) (v : Word) (i : Fin 4), s.mayWrite src → s.bit F.TNK_CTRL_WINEN = false →
    exec (.tankWindowAccess src false i v e) s = .next (s.emit (.readData src (R.TNK_WDATA i.val) 0#32))) ∧
  (∀ (s : State) (ln : Ln) (b : Bank), s.answers ln .service → s.boot.rescue = false →
    (s.pwr ≠ .run → exec (.testTank (.line ln) b) s = .next (s.reply ln [] (.er .pwrstate []))) ∧
    (s.pwr = .run → (s.tnk.march.isSome = true ∨ s.boot.testing = true) → exec (.testTank (.line ln) b) s = .next (s.reply ln [] (.er .testbusy []))) ∧
    (s.pwr = .run → s.tnk.march = none → s.boot.testing = false →
      exec (.testTank (.line ln) b) s = .next (({ s.startMarch b.val with con := { (s.startMarch b.val).con with opTank := some ln } } : State).reply ln [] (.ok [⟨"", .word "STARTED"⟩])))) ∧
  (∀ (s : State) (b : Bank) (v : Word), s.pfOpen .pf = true → getBits v.toNat 16 16 = 0x4C59 →
    (s.tnk.march = none → s.boot.testing = false → s.bankOn (getBits v.toNat 0 6) = true → exec (.testTank (.pf v) b) s = .next (s.startMarch (getBits v.toNat 0 6))) ∧
    ((s.tnk.march.isSome = true ∨ s.boot.testing = true) → exec (.testTank (.pf v) b) s = .next (s.log { errRec .testbusy .tnk [] with src := .pf }))) ∧
  (∀ (s : State) (bad : List Nat), s.tnk.march = none → exec (.marchBurst bad) s = .next s) ∧
  (∀ (s : State) (bad rows : List Nat) (m : March) (c : State × March), s.tnk.march = some m → rows = (List.range 8).map (fun i => 8 * (m.burst % 64) + i) →
    c = (if m.burst < 64 then s.marchRows bad m rows else s.marchSpares bad m rows) →
    exec (.marchBurst bad) s =
      .next (if m.burst < 65 then { c.1 with tnk := { c.1.tnk with march := some { c.2 with burst := m.burst + 1 } } } else c.1.endMarch { c.2 with burst := m.burst + 1 })) ∧
  (∀ (s : State) (n : Fin 4) (a : BitVec 18) (e : Ecc), s.domainOn 0 = true → s.spd.wait.any (fun (p : Nat × Nat × Bool) => p.1 == n.val) = false → s.spdReloading a.toNat = false →
    (s.spdEcc a.toNat e = .corr → ∀ fetch, exec (.scratchpadFetchError n a fetch e) s = .next (s.spdCorrected fetch a.toNat)) ∧
    (s.spdEcc a.toNat e = .uncorr →
      exec (.scratchpadFetchError n a true e) s = .next (((s.count F.SPD_ECNT_UE 1).spdElog true true a.toNat).spdWait n.val a.toNat true) ∧
      exec (.scratchpadFetchError n a false e) s =
        .next ((((s.count F.SPD_ECNT_UE 1).spdElog true false a.toNat).log (errRec .uncorr .spd (spdItems a.toNat))).warm true false false))) ∧
  (∀ (s u : State) (full : Bool), s.reloads s.spd.wait = (u, full) →
    exec .scratchpadReloadDone s = .next (if full then ({ u with spd := { u.spd with wait := [] } } : State).remapFull else { u with spd := { u.spd with wait := [] } })) ∧
  (∀ (s : State) (src : Src) (v : Word), s.mayWrite src →
    (s.spdMapped (getBits v.toNat 14 2) (getBits v.toNat 0 14) = true → exec (.spdRemapAdd src v) s = .next s) ∧
    (s.spdMapped (getBits v.toNat 14 2) (getBits v.toNat 0 14) = false → s.spdFull (getBits v.toNat 14 2) = true → exec (.spdRemapAdd src v) s = .next s.remapFull) ∧
    (s.spdMapped (getBits v.toNat 14 2) (getBits v.toNat 0 14) = false → s.spdFull (getBits v.toNat 14 2) = false →
      ∃ b, exec (.spdRemapAdd src v) s = .next (s.remapAdd (getBits v.toNat 14 2) (getBits v.toNat 0 14) b)))

/-- O39. Carrier periods, trip inputs, overcurrent, the end of blanking and of a follow act as R354 to R358 and R366 to R372 say. -/
def Obligations.CarriersAndTrips : Prop :=
  (∀ (s u v : State) (a b c : AxisSample) (coil : Int) (vbus : Nat), s.domainOn 6 = true →
    u = ((s.ckmBack.carrierAxis 0 a vbus).carrierAxis 1 b vbus).carrierAxis 2 c vbus → v = (u.carrierHead coil).setF F.MDR_MEAS_VBUS vbus →
    exec (.carrierPeriod [a, b, c] coil vbus) s = .next { v with cle := { v.cle with k := (v.cle.k + 1) % 500 } }) ∧
  (∀ (s : State) (axes : List AxisSample) (coil : Int) (vbus : Nat), s.domainOn 6 = false → exec (.carrierPeriod axes coil vbus) s = .next s) ∧
  (∀ (s : State) (u : MUnit), s.domainOn 6 = true →
    exec (.tripInput u none false) s = .next ((s.setPin u true).trip u 1 (some (inputRec u))) ∧
    (∀ w, 50 ≤ w → exec (.tripInput u (some w) false) s = .next ((s.setPin u false).draw.trip u 1 (some (inputRec u)))) ∧
    (∀ w, w < 20 → exec (.tripInput u (some w) false) s = .next (s.setPin u false).draw) ∧
    (∀ w, 20 ≤ w → w < 50 →
      exec (.tripInput u (some w) false) s = .next (if Config.shortTrip s.freeCtr then (s.setPin u false).draw.trip u 1 (some (inputRec u)) else (s.setPin u false).draw)) ∧
    exec (.blankingEnd u) s = .next (if s.pinLow u then s.trip u 1 (some (inputRec u)) else s) ∧
    exec (.overcurrent u) s = .next (if s.unitOn u then s.trip u 2 (some (overcurRec u)) else s)) ∧
  (∀ (s : State) (u : MUnit) (w : Option Nat), exec (.tripInput u w true) s = .next (s.setPin u w.isNone)) ∧
  (∀ (s : State) (u : MUnit) (w : Option Nat) (b : Bool), s.domainOn 6 = false →
    exec (.tripInput u w b) s = .next (s.setPin u w.isNone) ∧ exec (.blankingEnd u) s = .next s ∧ exec (.overcurrent u) s = .next s) ∧
  (∀ (s : State) (u : MUnit) (cause : Nat) (r : Option ErrRec), s.latched u = true → s.trip u cause r = s) ∧
  (∀ (s : State) (u : MUnit), unitBit u < 2 → s.axMode (unitBit u) = 6 → s.mdr.start = none →
    exec (.followEnd u) s = .next (((s.gatesOff (unitBit u)).setF F.SRV_SPD_MMS 0).srvOff).refreshMot) ∧
  (∀ (s : State) (u : MUnit), (2 ≤ unitBit u ∨ s.axMode (unitBit u) ≠ 6 ∨ s.mdr.start ≠ none) → exec (.followEnd u) s = .next s)

/-- O40. SERVO_FRAME and the servo timeouts take position, state, write gate and sample as R326 to R333 say. -/
def Obligations.ServoFollowsTheTape : Prop :=
  (∀ (s : State) (a0 a1 b0 b1 : ServoRead) (v : Rat) (st : DWord) (u : State), s.domainOn 6 = true → s.domainOn 5 = true →
    v = s.speedOf (if s.mdr.rev then [b0, b1, a0, a1] else [a0, a1, b0, b1]) → u = (if s.mdr.rev then s.servoIn b0 b1 a0 a1 v else s.servoIn a0 a1 b0 b1 v) →
    (v = 0 → exec (.servoFrame a0 a1 b0 b1 st) s = .next (u.setF F.SRV_STAT_WINHIB 0).headBalls) ∧
    (∀ w, v ≠ 0 → w = u.setGate (s.getF F.SRV_STAT_STATE == 2 && !(s.bit F.SRV_STAT_WINHIB)) (u.gateNow v) →
      (w.xc.stopped.contains .ckm = false → exec (.servoFrame a0 a1 b0 b1 st) s = .next ({ w with srv := { w.srv with sample := w.sampleOf st, fresh := true } } : State).headBalls) ∧
      (w.xc.stopped.contains .ckm = true →
        exec (.servoFrame a0 a1 b0 b1 st) s = .next ({ w with xc := { w.xc with samples := (w.xc.samples ++ [w.sampleOf st]).drop (w.xc.samples.length - 15) } } : State).headBalls))) ∧
  (∀ (r : ServoRead) (p q x y : Nat × Nat), r.bursts = true → r.period ≠ 0 → r.pairs = [p, q, x, y] →
    posOf r = (let m : Rat := 240 - 800 * (((p.2 : Rat) - p.1 + (q.2 - q.1) + (x.2 - x.1) + (y.2 - y.1)) / r.period) / 4
               if -88 ≤ m ∧ m ≤ 88 then some m else none)) ∧
  (∀ (s : State) (r : ServoRead) (l : List ServoRead), r.bursts = true → r.period ≠ 0 → s.speedOf (r :: l) = (200000000000 : Rat) / r.period) ∧
  (∀ (s : State) (a0 a1 b0 b1 : ServoRead) (st : DWord), (s.domainOn 6 = false ∨ s.domainOn 5 = false) → exec (.servoFrame a0 a1 b0 b1 st) s = .next s) ∧
  (∀ (s : State), s.srv.sinceLost = false → exec .servoLostTimeout s = .next s) ∧
  (∀ (s u : State), s.srv.sinceLost = true → u = ({ s with srv := { s.srv with sinceLost := false } } : State).log (errRec .servolost .srv []) →
    exec .servoLostTimeout s = .next (((match u.writing? with | some x => u.abandonDs x | none => u).stopWriting.endOps .servolost).beginStop)) ∧
  (∀ (s : State), exec .lpwokStopTimeout s = .next (if s.getF F.SRV_SPD_MMS = 0 then s.setF F.SRV_STAT_LPWOK 0 else s))

/-- O41. The write gate is open after a moving frame exactly when every condition of R332 that a frame decides holds; a closing gate is counted once. -/
def Obligations.WriteGateConditions : Prop :=
  ∀ (s t : State) (a0 a1 b0 b1 : ServoRead) (v p : Rat) (st : DWord), s.domainOn 6 = true → s.domainOn 5 = true → v = s.speedOf (if s.mdr.rev then [b0, b1, a0, a1] else [a0, a1, b0, b1]) → v ≠ 0 →
    exec (.servoFrame a0 a1 b0 b1 st) s = .next t → p = (if t.mdr.vRef < 0 then -t.mdr.vRef else t.mdr.vRef) * 1000 / 65536 →
    (t.getF F.SRV_STAT_WINHIB = 0 ↔
      t.getF F.SRV_STAT_STATE = 2 ∧ t.bit F.SRV_STAT_LPWOK = true ∧ t.inRegion = true ∧ t.mot ≠ .tripped ∧ 995 * p ≤ 1000 * v ∧ 1000 * v ≤ 1005 * p) ∧
    (s.xc.stopped.contains .ckm = false → t.srv.fresh = true)

/-- O42. Speed evaluation, turnarounds, gaps, backhitches and pack bursts act as R335 and R338 to R343 say. -/
def Obligations.SpeedMatchingActs : Prop :=
  (∀ (s u : State), u = { s with srv := { s.srv with demand := s.demandNow, ingest := s.ingestNow } } →
    ((s.cart ≠ .writing ∨ s.bit F.SRV_SPD_AUTO = false) → exec .speedEvaluation s = .next { u with srv := { u.srv with below := 0 } }) ∧
    (∀ t v, s.cart = .writing → s.bit F.SRV_SPD_AUTO = true → t = targetStep (zoneE s.tape.wrap) (s.getF F.SRV_MATCH_MARGIN) s.demandNow → v = u.setF F.SRV_SPD_TARGET t →
      (u.presentStep < t → exec .speedEvaluation s = .next (v.toTarget t s.ingestNow)) ∧
      (t < u.presentStep → v.getF F.SRV_MATCH_DOWNHOLD ≤ s.srv.below → exec .speedEvaluation s = .next (v.toTarget t s.ingestNow)) ∧
      (t < u.presentStep → s.srv.below < v.getF F.SRV_MATCH_DOWNHOLD → exec .speedEvaluation s = .next { v with srv := { v.srv with below := s.srv.below + 1 } }) ∧
      (t = u.presentStep → exec .speedEvaluation s = .next { v with srv := { v.srv with below := 0 } }))) ∧
  (∀ (s : State), s.mot = .moving → s.cart ≠ .writing → s.headIx < 191 → exec .turnaround s = .next (s.turnTo s.headIx (s.headIx + 1))) ∧
  (∀ (s : State), s.mot = .moving → s.cart = .writing → s.tape.wrap < 191 → s.wrapFull = true → s.writing? = none →
    exec .turnaround s = .next ((s.turnTo s.tape.wrap (s.tape.wrap + 1)).turnWrite (s.tape.wrap + 1))) ∧
  (∀ (s : State), (s.mot ≠ .moving ∨ s.cart ≠ .writing ∧ 191 ≤ s.headIx ∨ s.cart = .writing ∧ (191 ≤ s.tape.wrap ∨ s.wrapFull = false ∨ s.writing? ≠ none)) → exec .turnaround s = .next s) ∧
  (∀ (s : State), s.cart = .writing → s.mot = .moving → s.srv.hitch = false → s.writing? = none → s.fmt.built = [] → exec .gapTimeout s = .next s.backhitch) ∧
  (∀ (s : State), (s.cart ≠ .writing ∨ s.mot ≠ .moving ∨ s.srv.hitch = true ∨ s.writing? ≠ none ∨ s.fmt.built ≠ []) → exec .gapTimeout s = .next s) ∧
  (∀ (s : State), s.srv.hitch = true → s.cart = .writing → s.fmt.built ≠ [] →
    (s.bit F.SRV_SPD_PACK = false → exec .backhitchResume s = .next s.resume ∧ exec .packBurstStart s = .next s) ∧
    (s.bit F.SRV_SPD_PACK = true → exec .packBurstStart s = .next (s.stepChange 1 s.srv.ingest).resume ∧ exec .backhitchResume s = .next s)) ∧
  (∀ (s : State), s.srv.hitch = true → s.cart = .reading → 635 ≤ s.freePages → exec .backhitchResume s = .next s.resumeRead) ∧
  (∀ (s : State), (s.srv.hitch = false ∨ s.cart ≠ .writing ∨ s.fmt.built = []) → (s.srv.hitch = false ∨ s.cart ≠ .reading ∨ s.freePages < 635) → exec .backhitchResume s = .next s) ∧
  (∀ (s : State), (s.srv.hitch = false ∨ s.cart ≠ .writing ∨ s.fmt.built = []) → exec .packBurstStart s = .next s)

/-- O43. The fan is evaluated, stalls and restarts as R363 and R364 say. -/
def Obligations.FanActs : Prop :=
  (∀ (s u : State) (die ext : Int), s.domainOn 6 = true → u = (s.setF F.MDR_MEAS_DIE (toField 8 die)).setF F.MDR_MEAS_EXT (toField 8 ext) →
    exec (.fanCurveEval die ext) s = .next ((u.overTemp (max die ext)).fanStep (max die ext))) ∧
  (∀ (s : State) (die ext : Int) (t : Turning), s.domainOn 6 = false → exec (.fanCurveEval die ext) s = .next s ∧ exec .fanStall s = .next s ∧ exec (.fanRestart t) s = .next s) ∧
  (∀ (s : State), s.domainOn 6 = true → s.axMode 2 = 3 → s.bit (F.MDR_ASTAT_OBSOK 2) = true →
    exec .fanStall s = .next ((((s.log (errRec .fanstall .mdr [])).gatesOff 2).setFan 0 (s.mdr.stalls + 1) true).tidyLoops)) ∧
  (∀ (s : State), (s.axMode 2 ≠ 3 ∨ s.bit (F.MDR_ASTAT_OBSOK 2) = false) → exec .fanStall s = .next s) ∧
  (∀ (s : State) (t : Turning), s.domainOn 6 = true → s.mdr.stalled = true → s.mdr.stalls < 3 → s.latched .fan = false →
    exec (.fanRestart t) s = .next (((s.startAxis 2).setFan 0 s.mdr.stalls false).fanTurn t)) ∧
  (∀ (s : State) (t : Turning), (s.mdr.stalled = false ∨ 3 ≤ s.mdr.stalls ∨ s.latched .fan = true) → exec (.fanRestart t) s = .next s)

/-- O44. Each control loop, while it runs, executes as R379 to R385 and R389 to R394 say; one that does not run changes nothing. -/
def Obligations.LoopsExecute : Prop :=
  (∀ (s : State), s.loopOn 3 = true → exec .coilLoop s = .next (s.runPi 3 0 1 2 ((s.loop 4).out - s.mdr.coil) 0)) ∧
  (∀ (s : State), s.loopOn 8 = true → s.cle.k = 5 → exec .fanLoop s = .next (s.runPi 8 0 1 2 (s.fanSpeedRef - (s.axis 2).w) 0)) ∧
  (∀ (s u : State) (v : Rat), s.domainOn 6 = true → s.cle.k % 10 = 1 → v = towards s.rampStep s.mdr.vRef s.tapeTarget → u = { s with mdr := { s.mdr with vRef := v } } →
    exec .reelSpeedLoop s = .next ((u.speedLoop 0 (roundQ v) (roundQ ((v - s.mdr.vRef) * 5000))).speedLoop 1 (roundQ v) (roundQ ((v - s.mdr.vRef) * 5000)))) ∧
  (∀ (s t : State) (a : Fin 3) (n : Fin 9) (v dv : Int), n = (if a.val = 0 then 5 else 6) → s.loopOn n.val = true → t = s.loopStart n →
    s.speedLoop a v dv = t.runPi n 0 1 4 (s.speedRef a v (s.axis (if a.val = 0 then 1 else 0)).w - (s.axis a).w) (term (t.coef n.val 2) dv + term (t.coef n.val 3) s.tset)) ∧
  (∀ (s t : State), s.loopOn 4 = true → s.cle.k % 2 = 0 → t = s.loopStart 4 →
    (t.manual 4 = true → exec .latLoop s = .next (((t.setLoop 4 { t.loop 4 with out := clamp (t.coef 4 20).c (t.manualOut 4) }).flag 4 2 (clamp (t.coef 4 20).c (t.manualOut 4) != t.manualOut 4)).setErr 4 t.sampleLpe)) ∧
    (t.manual 4 = false → t.srv.fresh = false → exec .latLoop s = .next t) ∧
    (t.manual 4 = false → t.srv.fresh = true → exec .latLoop s = .next ((({ t with srv := { t.srv with fresh := false } } : State).setErr 4 t.sampleLpe).latAuto t.sampleLpe))) ∧
  (∀ (s t : State) (a : Fin 3) (n : Fin 9) (idM iqM w : Int) (rd rq : Int), n.val = a.val → s.loopOn a.val = true → (rd, rq) = s.currentRef a → idM = (s.axis a).id → iqM = (s.axis a).iq → w = s.omega a →
    t = ((s.loopStart n).setErr a.val (sat32 (rq - iqM))).flag a.val 0 (over32 (rd - idM) || over32 (rq - iqM)) →
    (t.manual a.val = true →
      exec (.currentLoop a) s =
        (let u := clamp ((s.loopStart n).coef a.val 5).c (t.manualOut a.val)
         .next ((t.setLoop n { t.loop n with out := u, outD := 0 }).flag a.val 2 (u != t.manualOut a.val)))) ∧
    (t.manual a.val = false →
      exec (.currentLoop a) s =
        (let l := t.loop n
         let lim := ((s.loopStart n).coef a.val 5).c
         let d := piStep (t.coef a.val 0) (t.coef a.val 1) 2147483647 (sat32 (rd - idM)) (term (t.coef a.val 4) (-(w * iqM))) l.iD (if l.preset then some l.outD else none)
         let q := piStep (t.coef a.val 2) (t.coef a.val 3) 2147483647 (sat32 (rq - iqM)) (term (t.coef a.val 4) (w * idM)) l.i (if l.preset then some l.out else none)
         let big := decide (lim * lim < d.u * d.u + q.u * q.u)
         let hold := t.bit (F.MDR_ASTAT_MODLIM a.val) && !l.preset
         let keepD := hold || (big && decide ((d.u - (d.i - l.iD)) ^ 2 < d.u ^ 2)) && !l.preset
         let keepQ := hold || (big && decide ((q.u - (q.i - l.i)) ^ 2 < q.u ^ 2)) && !l.preset
         let x := t.setLoop n { l with
           out := if big then Config.scaleQ d.u q.u lim else q.u, outD := if big then Config.scaleD d.u q.u lim else d.u
           i := if keepQ then l.i else q.i, iD := if keepD then l.iD else d.i, preset := false }
         .next ((((x.flag a.val 0 (d.acc || q.acc)).flag a.val 1 (d.int || q.int)).flag a.val 2 big).detect n (sat32 (rq - iqM)))))) ∧
  (∀ (s t u : State) (rS rT : Int), s.loopOn 7 = true → s.cle.k % 50 = 3 → t = s.loopStart 7 → rS = t.newRadius 0 t.cle.sup (t.axis 0).w t.tapeSpeed → rT = t.newRadius 1 t.cle.tku (t.axis 1).w t.tapeSpeed →
    (∃ tens, u = { t with cle := { t.cle with sup := { t.cle.sup with radius := rS, w := (t.axis 0).w }, tku := { t.cle.tku with radius := rT, w := (t.axis 1).w }, tens := tens } } ∧
      tens = t.tfilt t.cle.tens (sat32 (roundQ ((quot (t.torque 14 16 (t.axis 1).iq (t.axis 1).w t.cle.tku) rT - quot (t.torque 13 15 (t.axis 0).iq (t.axis 0).w t.cle.sup) rS : Int) / (2 : Rat))))) →
    exec .tensionLoop s =
      (let x := ((u.setF F.CLE_RADIUS_RS (min 65535 rS.toNat)).setF F.CLE_RADIUS_RT (min 65535 rT.toNat)).setF F.CLE_TENS_MN
          (toField 16 (max (-32768) (min 32767 (roundQ ((u.cle.tens * 1000 : Int) / (65536 : Rat))))))
       let c := x.chain 7 0 (x.loop 7).secs (sat32 (x.tset - u.cle.tens))
       let y := if x.manual 7 = true then x else (x.setLoop 7 { x.loop 7 with secs := c.1 }).flag 7 1 c.2.2
       .next ((y.flag 7 0 c.2.2).runPi 7 10 11 12 (if y.manual 7 = true then sat32 (y.tset - u.cle.tens) else c.2.1) 0))) ∧
  (∀ (s : State) (a : Fin 3),
    (s.loopOn a.val = false → exec (.currentLoop a) s = .next s) ∧ (s.loopOn 3 = false → exec .coilLoop s = .next s) ∧ ((s.loopOn 4 = false ∨ s.cle.k % 2 ≠ 0) → exec .latLoop s = .next s) ∧
    ((s.domainOn 6 = false ∨ s.cle.k % 10 ≠ 1) → exec .reelSpeedLoop s = .next s) ∧
    ((s.loopOn 7 = false ∨ s.cle.k % 50 ≠ 3) → exec .tensionLoop s = .next s) ∧ ((s.loopOn 8 = false ∨ s.cle.k ≠ 5) → exec .fanLoop s = .next s))

/-- O45. Writes of loop control, coefficients, the repetitive controller and the radii, and accelerometer reads, act as R386 to R393 say. -/
def Obligations.LoopWritesAct : Prop :=
  (∀ (s : State) (src : Src) (n : Fin 9) (v : Word), s.mayWrite src → s.xc.stopped.contains .ckm = false →
    exec (.loopBankRequest src n v) s = exec (.loopModeWrite src n v) s ∧
    (n.val ≤ 6 → s.lacksLock src = true → exec (.loopBankRequest src n v) s = .next s) ∧
    ((6 < n.val ∨ s.lacksLock src = false) → ∃ t, exec (.loopBankRequest src n v) s = .next t ∧ t.manual n.val = (getBits v.toNat 31 1 == 1) ∧
      (getBits v.toNat 0 2 ≠ 3 → t.getF (F.CLE_LCTL_BANK n.val) = getBits v.toNat 0 2 ∧
        (t.bit (F.CLE_LSTAT_PENDING n.val) = false ↔ getBits v.toNat 0 2 = s.getF (F.CLE_LSTAT_ACTIVE n.val))) ∧
      (s.manual n.val = true → getBits v.toNat 31 1 = 0 → (t.loop n).preset = true))) ∧
  (∀ (s : State) (src : Src) (b : Bool) (n : Fin 9) (slot : Fin 32) (sh : Bool) (v : Word), s.mayWrite src → s.xc.stopped.contains .ckm = false →
    ((s.getF (F.CLE_LSTAT_ACTIVE n.val) = (if b then 1 else 0) ∨ s.bit (F.CLE_LSTAT_PENDING n.val) = true) → exec (.coefficientWrite src b n slot sh v) s = .next s) ∧
    (s.getF (F.CLE_LSTAT_ACTIVE n.val) ≠ (if b then 1 else 0) → s.bit (F.CLE_LSTAT_PENDING n.val) = false →
      exec (.coefficientWrite src b n slot sh v) s = .next (s.setF (match b, sh with
        | false, false => F.CLE_COEFA_V_VALUE (32 * n.val + slot.val) | false, true => F.CLE_COEFA_S_SHIFT (32 * n.val + slot.val)
        | true, false => F.CLE_COEFB_V_VALUE (32 * n.val + slot.val) | true, true => F.CLE_COEFB_S_SHIFT (32 * n.val + slot.val)) v.toNat))) ∧
  (∀ (s : State) (src : Src) (v : Word), s.mayWrite src → s.xc.stopped.contains .ckm = false →
    exec (.rcClear src v) s = .next (if getBits v.toNat 2 1 = 1 then (s.storeAt R.CLE_RCCTL v).clearBins else s.storeAt R.CLE_RCCTL v) ∧
    (s.mot ≠ .stopped → exec (.radiusWrite src v) s = .next s) ∧
    (s.mot = .stopped → ∃ t, exec (.radiusWrite src v) s = .next t ∧ t.cle.sup.radius = (getBits v.toNat 16 16 : Nat) ∧ t.cle.tku.radius = (getBits v.toNat 0 16 : Nat))) ∧
  (∀ (s : State) (src : Src) (b : Bool) (n : Fin 9) (slot : Fin 32) (sh : Bool) (v : Word) (later : Nat → State), s.mayWrite src → s.xc.stopped.contains .ckm = true →
    later = (fun off => { s with xc := { s.xc with cmds := s.xc.cmds ++ [(src, off, v)] } }) →
    exec (.loopBankRequest src n v) s = .next (later (R.CLE_LCTL n.val)) ∧ exec (.loopModeWrite src n v) s = .next (later (R.CLE_LCTL n.val)) ∧
    exec (.coefficientWrite src b n slot sh v) s = .next (later (coefOff b n slot sh)) ∧ exec (.rcClear src v) s = .next (later R.CLE_RCCTL) ∧ exec (.radiusWrite src v) s = .next (later R.CLE_RADIUS)) ∧
  (∀ (s : State) (bs : List Byte), (s.domainOn 6 = false ∨ s.bit F.CLE_ACFG_EN = false ∨ s.cle.k % 2 ≠ 0) → exec (.accelTransaction bs) s = .next s) ∧
  (∀ (s r u : State) (bs : List Byte), s.domainOn 6 = true → s.bit F.CLE_ACFG_EN = true → s.cle.k % 2 = 0 → r = s.emit (.accel (s.getF F.CLE_ACFG_CMD) (s.getF F.CLE_ACFG_DIV + 1)) → accelBad (bs.take 6) = true →
    u = ({ r with cle := { r.cle with badRun := r.cle.badRun + 1, good := 0 } } : State).count F.CLE_ACCST_BAD 1 →
    (s.cle.badRun + 1 < 16 → exec (.accelTransaction bs) s = .next u) ∧
    (16 ≤ s.cle.badRun + 1 → u.bit F.CLE_ACCST_FAIL = false →
      exec (.accelTransaction bs) s = .next ((({ u with cle := { u.cle with ff := 0, f1 := 0, g1 := 0 } } : State).setF F.CLE_ACCST_FAIL 1).log (errRec .accelfail .cle []))) ∧
    (u.bit F.CLE_ACCST_FAIL = true → exec (.accelTransaction bs) s = .next u)) ∧
  (∀ (s r u : State) (bs : List Byte), s.domainOn 6 = true → s.bit F.CLE_ACFG_EN = true → s.cle.k % 2 = 0 → r = s.emit (.accel (s.getF F.CLE_ACFG_CMD) (s.getF F.CLE_ACFG_DIV + 1)) → accelBad (bs.take 6) = false →
    u = (((({ r with cle := { r.cle with badRun := 0, good := r.cle.good + 1 } } : State).setF F.CLE_ACCXY_X (toField 16 (r.accelAxis (bs.take 6) 0))).setF F.CLE_ACCXY_Y (toField 16 (r.accelAxis (bs.take 6) 1))).setF
      F.CLE_ACCZ_Z (toField 16 (r.accelAxis (bs.take 6) 2))) →
    (u.bit F.CLE_ACCST_FAIL = false → exec (.accelTransaction bs) s = .next (u.feed (r.accelAxis (bs.take 6) 0) (r.accelAxis (bs.take 6) 1) (r.accelAxis (bs.take 6) 2))) ∧
    (u.bit F.CLE_ACCST_FAIL = true → s.cle.good + 1 < 16 → exec (.accelTransaction bs) s = .next u) ∧
    (u.bit F.CLE_ACCST_FAIL = true → 16 ≤ s.cle.good + 1 → exec (.accelTransaction bs) s = .next (({ u with cle := { u.cle with ff := 0, f1 := 0, g1 := 0 } } : State).setF F.CLE_ACCST_FAIL 0)))

/-- O46. The register rows read and write the word they name for an open source as R13 to R16, R33, R410 and the register chapters say. -/
def Obligations.RegistersAreReadAndWritten : Prop :=
  (∀ (s : State) (src : Src) (off i : Nat) (d : RegDef) (v : Word), s.mayWrite src → s.atReg off d i 0 → d.wide = false →
    (writableIn d 0 = true → d.base ∉ actingRegs → exec (.registerWrite src off v) s = .next (s.storeAt off v)) ∧
    (writableIn d 0 = false → exec (.registerWrite src off v) s = .next s)) ∧
  (∀ (s : State) (src : Src) (off : Nat) (v : Word), s.mayWrite src → off % 4 = 0 → off < 0x200000 → s.xc.stopped.contains .ckm = true → ckmSide off = true →
    exec (.registerWrite src off v) s = .next { s with xc := { s.xc with cmds := s.xc.cmds ++ [(src, off, v)] } }) ∧
  (∀ (s : State) (src : Src) (off i : Nat) (d : RegDef), s.mayWrite src → s.atReg off d i 0 → d.wide = false → s.awaits src = false → off ≠ R.PWR_SLDATA → (∀ k < 4, off ≠ R.TNK_WDATA k) →
    exec (.rcFieldRead src off) s =
      .next ((if rcIn d 0 = true then s.wr off (BitVec.ofNat 32 (clearFields 0 d.fields (s.rd off).toNat)) else s).emit (.readData src off (BitVec.ofNat 32 (s.derived d i 0 (s.rd off).toNat))))) ∧
  (∀ (s : State) (t : Tenant), s.hostOn = true → s.vfOn t = true → s.d3hot t = false → s.awaits (.vf t) = false →
    exec (.rcFieldRead (.vf t) 0x2004) s =
      .next ((s.setFn { s.fn t with baddb := 0, confl := 0 }).emit (.readData (.vf t) 0x2004 (BitVec.ofNat 32 (packWord [(16, (s.fn t).baddb), (0, (s.fn t).confl)]))))) ∧
  (∀ (s : State) (src : Src) (off : Nat), s.awaits src = true → ∃ u, u = { s with arb := { s.arb with reads := s.arb.reads ++ [.bus src off] } } ∧
    exec (.rcFieldRead src off) s = .next u ∧ exec (.readLowHalf src off) s = .next u ∧ exec (.readHighHalf src off) s = .next u) ∧
  (∀ (s : State) (src : Src) (off i : Nat) (d : RegDef) (v : Word), s.mayWrite src → s.atReg off d i 0 → d.wide = true →
    exec (.writeLowHalf src off v) s = .next { s with wlatch := ⟨src, off, v⟩ :: s.wlatch.filter (fun (l : Latch) => l.src != src) }) ∧
  (∀ (s : State) (src : Src) (off i : Nat) (d : RegDef) (v : Word), s.mayWrite src → s.atReg off d i 1 → d.wide = true → (writableIn d 0 || writableIn d 1) = true →
    (d.base = 0x20000 → s.bit (F.QMG_QCFG_VALID i) = false) →
    exec (.writeHighHalf src off v) s =
      .next (({ s with wlatch := s.wlatch.filter (fun (l : Latch) => l.src != src) } : State).storeReg d i (v.toNat * 2 ^ 32 +
        match s.wlatch.find? (fun (l : Latch) => l.src == src && l.off == off - 4) with | some l => l.half.toNat | none => (s.rd (off - 4)).toNat))) ∧
  (∀ (s : State) (off i : Nat) (d : RegDef) (v : Word), s.pfOpen .pf = true → s.atReg off d i 1 → d.wide = true →
    ((writableIn d 0 || writableIn d 1) = false ∨ d.base = 0x20000 ∧ s.bit (F.QMG_QCFG_VALID i) = true) →
    exec (.writeHighHalf .pf off v) s = .next { s with wlatch := s.wlatch.filter (fun (l : Latch) => l.src != .pf) }) ∧
  (∀ (s : State) (src : Src) (off i : Nat) (d : RegDef), s.mayWrite src → s.atReg off d i 0 → d.wide = true → s.awaits src = false →
    exec (.readLowHalf src off) s =
      .next (({ (s.clearRc src off).clearRc src (off + 4) with rlatch := ⟨src, off, s.viewFor src (off + 4)⟩ :: s.noLatch src } : State).emit (.readData src off (s.viewFor src off)))) ∧
  (∀ (s : State) (src : Src) (off i : Nat) (d : RegDef), s.mayWrite src → s.atReg off d i 1 → d.wide = true → s.awaits src = false →
    exec (.readHighHalf src off) s =
      match s.rlatch.find? (fun (l : Latch) => l.src == src && l.off == off - 4) with
      | some l => .next (({ s with rlatch := s.noLatch src } : State).emit (.readData src off l.half))
      | none => .next ((s.clearRc src off).emit (.readData src off (s.viewFor src off)))) ∧
  (∀ (s : State) (n : Sid) (off : Nat) (v : Word) (e : Er) (r : Option ErrRec), off % 4 = 0 → s.wWord (.sess n) off v = .refuse e r → e ≠ .remapfull →
    exec (.registerWrite (.sess n) off v) s = .next s) ∧
  (∀ (s : State) (src : Src) (v : Word), s.mayWrite src →
    exec (.saveListAccess src true v) s = .next ((s.setSlWord (s.getF F.PWR_SLADDR_WORD) v.toNat).slNext) ∧
    exec (.saveListAccess src false v) s =
      .next (if s.awaits src = true then { s with arb := { s.arb with reads := s.arb.reads ++ [.bus src R.PWR_SLDATA] } }
        else s.slNext.emit (.readData src R.PWR_SLDATA (BitVec.ofNat 32 (s.slWord (s.getF F.PWR_SLADDR_WORD))))))

/-- O47. A read of an unimplemented offset in either BAR0 returns 0; a write to one is ignored; neither raises an error. -/
def Obligations.UnimplementedOffsetReadsZero : Prop :=
  (∀ (s t : State) (src : Src) (off : Nat) (v : Word), s.mayWrite src → off % 4 = 0 → off < 0x200000 →
    (inWin0 off = false ∧ inPfMsix off = false ∧ RegMap.find off = none ∨
      inWin0 off = true ∧ 0x100 ≤ off - win0 ∧ ¬(0x1000 ≤ off - win0 ∧ off - win0 < 0x1400) ∧ off - win0 ≠ 0x2000 ∧ off - win0 ≠ 0x2004 ∨
      inPfMsix off = true ∧ 0x400 ≤ off - pfMsix ∧ off - pfMsix < 0x1000) →
    t = (if s.awaits src = true then { s with arb := { s.arb with reads := s.arb.reads ++ [.bus src off] } } else s.emit (.readData src off 0#32)) →
    exec (.rcFieldRead src off) s = .next t ∧ exec (.readLowHalf src off) s = .next t ∧ exec (.readHighHalf src off) s = .next t ∧
    s.serveRead (.bus src off) = s.emit (.readData src off 0#32) ∧
    exec (.registerWrite src off v) s = .next s ∧ exec (.writeLowHalf src off v) s = .next s ∧ exec (.writeHighHalf src off v) s = .next s) ∧
  (∀ (s u : State) (t : Tenant) (off : Nat) (v : Word), s.hostOn = true → s.vfOn t = true → s.d3hot t = false → off < 0x10000 → off % 4 = 0 →
    0x100 ≤ off → ¬(0x1000 ≤ off ∧ off < 0x1400) → off ≠ 0x2000 → off ≠ 0x2004 → ¬(0x8000 ≤ off ∧ off < 0x8400) → off ≠ 0x9000 → off ≠ 0x9004 →
    u = (if s.awaits (.vf t) = true then { s with arb := { s.arb with reads := s.arb.reads ++ [.bus (.vf t) off] } } else s.emit (.readData (.vf t) off 0#32)) →
    exec (.rcFieldRead (.vf t) off) s = .next u ∧ exec (.readLowHalf (.vf t) off) s = .next u ∧ exec (.readHighHalf (.vf t) off) s = .next u ∧
    s.serveRead (.bus (.vf t) off) = s.emit (.readData (.vf t) off 0#32) ∧
    exec (.registerWrite (.vf t) off v) s = .next s ∧ exec (.writeLowHalf (.vf t) off v) s = .next s ∧ exec (.writeHighHalf (.vf t) off v) s = .next s)

/-- O48. A terminator ends a line; PEEK and POKE read and write what they name; CENSUS starts a sweep; the arbitration tick decides its orders. -/
def Obligations.LinesAndWordsAreAnswered : Prop :=
  (∀ (s w : State) (n : Sid) (t : Term), w = s.uartAlive n → w.present (.sess n) = true → (t = .lf → (w.ses n).lastCr = false) →
    ∃ u, u = (w.setSes n { w.ses n with buf := [], tooLong := false, badChar := false, overrun := false, lastCr := t == .cr, lines := (w.ses n).lines ++ [w.lineOf n (w.ses n)] }).echoTo n ['\r', '\n'] ∧
      exec (.plovaLine n t) s = .next ((if (w.ses n).lines = [] then (u.answerFront n [w.lineOf n (w.ses n)]).forwardFront n else u).rtsFrom w n)) ∧
  (∀ (s w : State) (n : Sid), w = s.uartAlive n → w.present (.sess n) = true → (w.ses n).lastCr = true → exec (.plovaLine n .lf) s = .next (w.setSes n { w.ses n with lastCr := false })) ∧
  (∀ (s w : State) (n : Sid) (t : Term), w = s.uartAlive n → w.present (.sess n) = false → exec (.plovaLine n t) s = .next w) ∧
  (∀ (s : State) (ln : Ln) (off : Nat) (d : RegDef) (i : Nat) (v : Nat) (u : State) (b : Bool), s.serves ln (peekLevel (.reg off b) 1) → s.awaits (srcOf ln) = false → regAt off = some (d, i) →
    s.readReg (srcOf ln) d i = (u, some v) → exec (.peek ln (.reg off b) none) s = .next (u.reply ln [] (.ok [⟨labelOf (regText d i), .hex (regDigits d) v⟩]))) ∧
  (∀ (s : State) (ln : Ln) (c : Option Nat), s.serves ln .view → s.awaits (srcOf ln) = false → exec (.peek ln .unknown c) s = .next (s.reply ln [] (.er .noname []))) ∧
  (∀ (s : State) (ln : Ln) (t : Target) (c : Option Nat), s.awaits (srcOf ln) = true → exec (.peek ln t c) s = .next { s with arb := { s.arb with reads := s.arb.reads ++ [.line ln t c] } }) ∧
  (∀ (s : State) (n : Sid) (tg : List Char) (sx : Bool) (off i : Nat) (b : Bool) (d : RegDef) (v : Nat), s.serves ⟨.sess n, tg, sx⟩ .service → s.atReg off d i 0 → d.wide = false → writableIn d 0 = true →
    d.base ∉ actingRegs → v < 2 ^ 32 →
    exec (.poke ⟨.sess n, tg, sx⟩ (.reg off b) v) s =
      .next ((s.storeAt off (BitVec.ofNat 32 v)).reply ⟨.sess n, tg, sx⟩ [] (.ok [⟨labelOf (regText d i), .hex (regDigits d) ((s.storeAt off (BitVec.ofNat 32 v)).viewReg d i)⟩]))) ∧
  (∀ (s u : State) (n : Sid) (tg : List Char) (sx : Bool) (target : Target) (v : Nat) (item : State → Item), s.serves ⟨.sess n, tg, sx⟩ .service →
    (s.pokeParts (.sess n) target v = .inr (.ok u, item) → u.serves ⟨.sess n, tg, sx⟩ .service → exec (.poke ⟨.sess n, tg, sx⟩ target v) s = .next (u.reply ⟨.sess n, tg, sx⟩ [] (.ok [item u]))) ∧
    (∀ e, s.pokeParts (.sess n) target v = .inl e → exec (.poke ⟨.sess n, tg, sx⟩ target v) s = .next (s.reply ⟨.sess n, tg, sx⟩ [] (.er e []))) ∧
    (∀ e r, s.pokeParts (.sess n) target v = .inr (.refuse e r, item) → e ≠ .remapfull → exec (.poke ⟨.sess n, tg, sx⟩ target v) s = .next (s.reply ⟨.sess n, tg, sx⟩ [] (.er e [])))) ∧
  (∀ (s : State) (ln : Ln), s.serves ln .operate → s.isMaster = false → exec (.census ln) s = .next (s.reply ln [] (.er .notmaster []))) ∧
  (∀ (s : State) (ln : Ln), s.serves ln .operate → s.isMaster = true →
    ∃ u, u = (({ s with con := { s.con with opCensus := s.con.opCensus ++ [ln] } } : State).reply ln [] (.ok startedItems)) ∧ exec (.census ln) s = .next (if u.xlk.sweep.isNone then u.startSweep else u)) ∧
  (∀ (s : State) (ln : Ln), s.serves ln .view →
    exec (.censusQuery ln) s = .next (s.reply ln [] (if s.isMaster = false then .er .notmaster [] else .ok [⟨"NODES", .num (s.getF F.XLK_CENS_NODES)⟩, ⟨"STALE", .num (s.getF F.XLK_CENS_STALE)⟩,
      ⟨"LAST", if s.rd64 R.XLK_CTIME = 0 then .dash else .sec (s.rd64 R.XLK_CTIME)⟩]))) ∧
  (∀ (s u : State) (os : List Order),
    u = (((((({ s with arb := { s.arb with winners := [], losers := [], reads := [] } } : State).tickLog (some s.arb.mark)).winAll s.arb.winners).tickLog none).serveReads s.arb.reads)).microsecond →
    (u.ignIssue = none → exec (.arbitrationTick os) s = .next (u.decideTick (u.arb.carried ++ os))) ∧
    (∀ k, u.ignIssue = some k → exec (.arbitrationTick os) s = .next (u.decideTick (⟨.ign, .ignOrder k⟩ :: u.arb.carried ++ os)))) ∧
  (∀ (s : State) (k : IgnOrder), s.ignIssue = some k →
    (k = .recordStop → s.win ⟨.ign, .ignOrder k⟩ = s.seqRecordStop.setSeq (some .stop)) ∧ (k = .unload → s.win ⟨.ign, .ignOrder k⟩ = s.seqUnload) ∧
    (k = .recordStart → s.win ⟨.ign, .ignOrder k⟩ = ({ s.setSeq none with pw := { (s.setSeq none).pw with stopped := false } } : State).seqRecordStart) ∧
    (∀ p, k = .enter → s.ignTarget = some p → s.win ⟨.ign, .ignOrder k⟩ = s.pwrBegin p .ign))

/-- O49. Ports train, go down, retry and take frames as R425, R431 to R434 and R450 say. -/
def Obligations.PortsTrainAndCarryFrames : Prop :=
  (∀ (s : State) (p : PortNo) (pr : PortNo) (pm : Bool), s.domainOn 9 = true → s.getF (F.XLK_PSTAT_STATE p.val) ≠ 2 →
    ((p.val == 0) = (pr.val == 0) → exec (.portTrained p pr pm) s = .next (s.clash p .role .portrole)) ∧
    (p.val = 0 → pr.val ≠ 0 → s.isMaster = true → exec (.portTrained p pr pm) s = .next (s.clash p .twomaster .twomaster)) ∧
    (p.val ≠ 0 → pr.val = 0 → pm = true → exec (.portTrained p pr pm) s = .next (s.setF (F.XLK_PSTAT_STATE p.val) 1)) ∧
    (p.val = 0 → pr.val ≠ 0 → s.isMaster = false → exec (.portTrained p pr pm) s = .next (((s.clkBack .ckx).setF (F.XLK_PSTAT_STATE 0) 2).setXp p XPort.reset)) ∧
    (p.val ≠ 0 → pr.val = 0 → pm = false → exec (.portTrained p pr pm) s = .next ((((s.clkBack .ckx).setF (F.XLK_PSTAT_STATE p.val) 2).setXp p XPort.reset).linkUpEvent p))) ∧
  (∀ (s : State) (p pr : PortNo) (pm : Bool), (s.domainOn 9 = false ∨ s.getF (F.XLK_PSTAT_STATE p.val) = 2) → exec (.portTrained p pr pm) s = .next s) ∧
  (∀ (s : State) (p : PortNo), exec (.trainingBurst p) s = .next (if s.domainOn 9 = true ∧ s.getF (F.XLK_PSTAT_STATE p.val) = 0 then s.emit (.training p) else s)) ∧
  (∀ (s : State) (p : PortNo) (r : DownReason), exec (.portDown p r) s = .next (if s.domainOn 9 = true then s.portDown p r else s)) ∧
  (∀ (s : State) (p : PortNo), exec (.parkOrderedSet p) s = .next (if s.linkUp p then s.portDown p .sleep else s)) ∧
  (∀ (s : State) (p : PortNo), s.linkUp p = true → (s.xp p).replay.any (fun y => y.out) = true →
    ((s.xp p).replay.any (fun y => y.out && decide (4 ≤ y.resent)) = true → exec (.linkRetry p) s = .next (s.portDown p .retry)) ∧
    ((s.xp p).replay.any (fun y => y.out && decide (4 ≤ y.resent)) = false →
      exec (.linkRetry p) s = .next (((((s.count (F.XLK_PCNT_RETRY p.val) 1).noteRetries (s.xp p).replay).setXp p { s.xp p with replay := (s.xp p).replay.map Sent.again })).pushPort p))) ∧
  (∀ (s : State) (p : PortNo), (s.linkUp p = false ∨ (s.xp p).replay.any (fun y => y.out) = false) → exec (.linkRetry p) s = .next s) ∧
  (∀ (s : State) (p : PortNo), exec (.linkIdleSend p) s = .next (if s.linkUp p then s.idle p false else s)) ∧
  (∀ (s : State) (p : PortNo) (h : LinkHdr), s.linkUp p = false → exec (.linkFrameReceived p h) s = .next s) ∧
  (∀ (s : State) (p : PortNo) (h : LinkHdr), s.linkUp p = true → h.ok = false →
    exec (.linkFrameReceived p h) s = .next (((s.count (F.XLK_PCNT_CRCERR p.val) 1).setXp p { s.xp p with given := ((s.xp p).given + frameCredits (linkFrame h)) % 256 }).idle p true)) ∧
  (∀ (s u : State) (p : PortNo) (h : LinkHdr), s.linkUp p = true → h.ok = true → u = (if (linkFrame h).nak then (s.takeAck p (linkFrame h)).retry p else s.takeAck p (linkFrame h)) →
    exec (.linkFrameReceived p h) s = .next (if u.linkUp p = false ∨ (linkFrame h).ty = 0 then u else u.takeFrame p (linkFrame h) h.len))

/-- O50. The census sweep, time frames and events act as R437 to R443 and R448 say. -/
def Obligations.SweepsAndTimeAct : Prop :=
  (∀ (s : State), exec .censusAutoStart s =
    .next (if s.isMaster = true ∧ s.bit F.XLK_CFG_AUTOSWEEP = true ∧ s.xlk.due = true ∧ s.domainOn 9 = true ∧ s.xlk.sweep.isSome = false then s.startSweep else s)) ∧
  (∀ (s : State) (id : BitVec 32) (no : BitVec 16) (d : Byte) (path : Word), s.linkUp 0 = true → s.isMaster = false →
    ((65536 ≤ id.toNat ∨ 63 < d.toNat) → exec (.creqReceived id no d path) s = .next ((s.setF F.XLK_STAT_STALE 1).sendHop 0 tCRSP (crspBytes 0 none true false s.boot.fuses.uid))) ∧
    (id.toNat < 65536 → d.toNat ≤ 63 →
      exec (.creqReceived id no d path) s = .next ((s.setF F.XLK_STAT_SWEEP 1).stepSweep ⟨no.toNat, id.toNat, d.toNat, path.toNat + s.getF (F.XLK_PSTAT_HOPDLY 0), s.upDown, s.upDown, none, [], none, false, false⟩))) ∧
  (∀ (s : State) (id : BitVec 32) (no : BitVec 16) (d : Byte) (path : Word), (s.linkUp 0 = false ∨ s.isMaster = true) → exec (.creqReceived id no d path) s = .next s) ∧
  (∀ (s : State) (p : PortNo) (n bn : Word) (bp : Byte) (b l g : Bool) (uid : DWord), (∀ w, s.xlk.sweep = some w → w.at' ≠ some p.val) → exec (.crspReceived p n bn bp b l g uid) s = .next s) ∧
  (∀ (s : State) (p : PortNo) (n bn : Word) (bp : Byte) (b l g : Bool) (uid : DWord) (w : Sweep), s.xlk.sweep = some w → w.at' = some p.val →
    exec (.crspReceived p n bn bp b l g uid) s = .next (s.stepSweep { w with
      at' := none, kids := if n = 0#32 then w.kids else w.kids ++ [⟨p.val - 1, w.id + w.count, n.toNat, uid⟩]
      limit := w.limit || l, long := w.long || g, brk := if b then w.brk.or (some (bn.toNat, bp.toNat)) else w.brk })) ∧
  (∀ (s u : State) (p : PortNo) (ds : List (Nat × Nat)) (hop : Nat), s.linkUp p = true → ds.length = 16 → hop = (roundQ (((ds.map (fun r => (r.1 : Int) - r.2)).sum : Int) / (32 : Rat))).toNat → u = s.setF (F.XLK_PSTAT_HOPDLY p.val) (min 65535 hop) →
    ((∀ w, s.xlk.sweep = some w → w.probe.contains p.val = false) → exec (.probeExchange p ds) s = .next u) ∧
    (∀ w, s.xlk.sweep = some w → w.probe.contains p.val = true → hop ≤ 1920 → exec (.probeExchange p ds) s = .next (u.stepSweep { w with probe := w.probe.filter (fun x => x != p.val) })) ∧
    (∀ w, s.xlk.sweep = some w → w.probe.contains p.val = true → 1920 < hop →
      exec (.probeExchange p ds) s = .next ((u.log (errRec .longhop .xlk [⟨"PORT", .word (portText p.val)⟩, ⟨"DLY", .num (hop / 16)⟩])).stepSweep { w with probe := w.probe.filter (fun x => x != p.val), long := true }))) ∧
  (∀ (s : State) (p : PortNo) (ds : List (Nat × Nat)), s.linkUp p = false → exec (.probeExchange p ds) s = .next s) ∧
  (∀ (s : State) (no : BitVec 16), (s.isMaster = true ∨ ∀ v, s.xlk.prov = some v → v.no ≠ no.toNat) → exec (.commitReceived no) s = .next s) ∧
  (∀ (s u : State) (no : BitVec 16) (v : Prov), s.isMaster = false → s.xlk.prov = some v → v.no = no.toNat →
    u = ((((((({ s with xlk := { s.xlk with prov := none, epoch := v.no % 256 } } : State).setF F.XLK_STAT_NODE v.id).setF F.XLK_STAT_IDVALID 1).setF F.XLK_STAT_DEPTH v.depth).setRanges v.kids).setF F.XLK_STAT_STALE 0).setF F.XLK_STAT_SWEEP 0) →
    exec (.commitReceived no) s = .next (if s.nodeId ≠ v.id ∨ s.bit F.XLK_STAT_IDVALID = false then ((u.cause 6).eventAll "CENSUS" [⟨"NODE", .num v.id⟩]).rejoinAll else u.rejoinAll)) ∧
  (∀ (s : State), s.isMaster = true → s.bit F.XLK_CFG_TIMEEN = true → s.domainOn 9 = true →
    exec .timeFrameSend s = .next (({ s with xlk := { s.xlk with timeCount := (s.xlk.timeCount + 1) % 2 ^ 32 } } : State).sendDown
      { s.frame tTIME 0 0 (beBytes 8 s.now ++ beBytes 4 0 ++ beBytes 4 s.xlk.timeCount) with bcast := true })) ∧
  (∀ (s : State), (s.isMaster = false ∨ s.bit F.XLK_CFG_TIMEEN = false ∨ s.domainOn 9 = false) → exec .timeFrameSend s = .next s) ∧
  (∀ (s u : State) (p : PortNo) (t : DWord) (c n r : Word), s.linkUp p = true →
    u = s.sendDown { s.frame tTIME 0 0 (beBytes 8 t.toNat ++ beBytes 4 (c.toNat + s.getF (F.XLK_PSTAT_HOPDLY p.val) + r.toNat) ++ beBytes 4 n.toNat) with bcast := true } →
    ((u.bit F.ETH_TCFG_SRC = false ∨ u.isMaster = true) → exec (.timeFrameReceived p t c n r) s = .next u) ∧
    (∀ off : Int, u.bit F.ETH_TCFG_SRC = true → u.isMaster = false → off = (u.eth.ns : Int) - (t.toNat + roundQ (((c.toNat + s.getF (F.XLK_PSTAT_HOPDLY p.val) : Nat)) / (16 : Rat))) →
      exec (.timeFrameReceived p t c n r) s = .next ((u.setF F.ETH_TOFS_OFFSET (BitVec.ofInt 32 (satOffset off)).toNat).steer off))) ∧
  (∀ (s : State) (p : PortNo) (t : DWord) (c n r : Word), s.linkUp p = false → exec (.timeFrameReceived p t c n r) s = .next s) ∧
  (∀ (s : State) (n : BitVec 16) (k p r : Byte), s.isMaster = true →
    exec (.evtReceived n 1#8 p r) s = .next (((s.markStale (s.cutOff n.toNat p.toNat)).breakEvent n.toNat p.toNat r.toNat (s.cutOff n.toNat p.toNat).length).evalGroups) ∧
    exec (.evtReceived n 2#8 p r) s = .next (({ s with xlk := { s.xlk with due := true } } : State).cause 6) ∧
    (k ≠ 1#8 → k ≠ 2#8 → exec (.evtReceived n k p r) s = .next s)) ∧
  (∀ (s : State) (n : BitVec 16) (k p r : Byte), s.isMaster = false → exec (.evtReceived n k p r) s = .next s)

/-- O51. Cascade commands act at their target and end at their origin as R444 to R449 say; control from any node but the master is refused with 201. -/
def Obligations.CascadeCommandsAct : Prop :=
  (∀ (s : State) (src tag : BitVec 16) (k d st m : Byte) (off v : Word), s.linkAlive = true → src.toNat ≠ 0 →
    exec (.cmdReset src tag k d) s = .next (s.rsp src tag 2 0 201) ∧ exec (.cmdPower src tag st) s = .next (s.rsp src tag 3 0 201) ∧ exec (.cmdWake src tag m) s = .next (s.rsp src tag 4 0 201) ∧
    exec (.cmdPoke src tag off v) s = .next (s.rsp src tag 5 0 201) ∧ exec (.cmdPeek src tag off) s = .next (s.rsp src tag 6 0 201)) ∧
  (∀ (s : State) (src tag : BitVec 16) (k d st m : Byte) (off v : Word) (l : Fin 3) (t : List Char), s.linkAlive = false →
    exec (.cmdReset src tag k d) s = .next s ∧ exec (.cmdPower src tag st) s = .next s ∧ exec (.cmdWake src tag m) s = .next s ∧
    exec (.cmdPoke src tag off v) s = .next s ∧ exec (.cmdPeek src tag off) s = .next s ∧ exec (.cmdPlova src tag l t) s = .next s) ∧
  (∀ (s : State) (tag : BitVec 16) (d : Byte), s.linkAlive = true →
    exec (.cmdReset 0#16 tag 1#8 d) s = .next ((s.rsp 0#16 tag 2 0 0).warm false true false) ∧ exec (.cmdReset 0#16 tag 2#8 d) s = .next ((s.rsp 0#16 tag 2 0 0).warm true true false) ∧
    (1 ≤ d.toNat → d.toNat ≤ 9 → ∃ u, u = s.rsp 0#16 tag 2 0 0 ∧ exec (.cmdReset 0#16 tag 3#8 d) s = .next (if u.absorbs d.toNat = true then u
      else (u.wr R.GLB_RSTCAUSE ((u.rd R.GLB_RSTCAUSE &&& 0xFF00FE00#32) ||| 8#32)).domReset d.toNat true)) ∧
    ((d.toNat = 0 ∨ 9 < d.toNat) → exec (.cmdReset 0#16 tag 3#8 d) s = .next (s.rsp 0#16 tag 2 0 107))) ∧
  (∀ (s : State) (tag : BitVec 16) (b : Byte) (p : Pwr), s.linkAlive = true → pwrOf b.toNat = some p →
    (s.pwrBusy = true → exec (.cmdPower 0#16 tag b) s = .next (s.rsp 0#16 tag 3 0 320)) ∧
    (s.pwrBusy = false → p = s.pwr → exec (.cmdPower 0#16 tag b) s = .next (s.rsp 0#16 tag 3 0 0)) ∧
    (s.pwrBusy = false → p ≠ s.pwr → (s.pwrBegin p (.master 0#16 tag)).pw.leave.isSome = false → exec (.cmdPower 0#16 tag b) s = .next (s.pwrBegin p (.master 0#16 tag))) ∧
    (s.pwrBusy = false → p ≠ s.pwr → (s.pwrBegin p (.master 0#16 tag)).pw.leave.isSome = true → exec (.cmdPower 0#16 tag b) s = .next ((s.pwrBegin p (.master 0#16 tag)).exitNow.rsp 0#16 tag 3 0 0))) ∧
  (∀ (s : State) (tag : BitVec 16) (m : Byte), s.linkAlive = true → exec (.cmdWake 0#16 tag m) s = .next ((s.wakeDown (m.toNat % 8)).rsp 0#16 tag 4 0 0)) ∧
  (∀ (s : State) (tag : BitVec 16) (off v : Word) (i : Nat) (d : RegDef), s.linkAlive = true → s.atReg off.toNat d i 0 → d.wide = false → writableIn d 0 = true → d.base ∉ actingRegs →
    exec (.cmdPoke 0#16 tag off v) s = .next ((s.storeAt off.toNat v).readBack 0#16 tag 5 ((s.storeAt off.toNat v).viewWord off.toNat).toNat)) ∧
  (∀ (s : State) (tag : BitVec 16) (off v : Word), s.linkAlive = true → offsetOk off.toNat = true →
    (s.awaits .master = true → exec (.cmdPeek 0#16 tag off) s = .next { s with arb := { s.arb with reads := s.arb.reads ++ [.peek 0#16 tag off] } }) ∧
    (∀ t w, s.awaits .master = false → s.readAct .master off.toNat = (t, some w) → exec (.cmdPeek 0#16 tag off) s = .next (t.readBack 0#16 tag 6 w.toNat)) ∧
    (∀ t, s.wWord .master off.toNat v = .ok t → t.linkAlive = true → t.boot.phase = s.boot.phase → t.linkUp 0 = s.linkUp 0 →
      exec (.cmdPoke 0#16 tag off v) s = .next (t.readBack 0#16 tag 5 (t.viewWord off.toNat).toNat)) ∧
    (∀ e r, s.wWord .master off.toNat v = .refuse e r → e ≠ .remapfull → exec (.cmdPoke 0#16 tag off v) s = .next (s.rsp 0#16 tag 5 0 e.code))) ∧
  (∀ (s : State) (src tag : BitVec 16) (l : Fin 3) (t : List Char) (f : Form), s.linkAlive = true → verbWrong (tokens t) = none → formOf (tokens t) = some f → f.level ≤ l.val → s.boot.rescue = false →
    ∃ lv : Level, lv.num = l.val ∧ exec (.cmdPlova src tag l t) s =
      .next { s with con := { s.con with remotes := s.con.remotes.filter (fun (r : Remote) => !(r.node == src && r.tag == tag)) ++ [(⟨src, tag, lv, t⟩ : Remote)] } }) ∧
  (∀ (s : State) (src tag : BitVec 16) (l : Fin 3) (t : List Char) (e : Er), s.linkAlive = true → verbWrong (tokens t) = some e → exec (.cmdPlova src tag l t) s = .next (s.reply ⟨.remote src tag, [], false⟩ [] (.er e []))) ∧
  (∀ (s : State) (tag : BitVec 16) (op res : Byte) (st : BitVec 16) (b : List Byte) (c : XCmd), s.xlk.cmds.find? (fun (c : XCmd) => c.tag == tag.toNat && c.op == op.toNat) = some c →
    exec (.rspReceived tag op res st false false b) s = .next (s.endCmd c res.toNat st.toNat (c.got ++ b)) ∧
    exec (.rspReceived tag op res st true false b) s = .next { s with xlk := { s.xlk with cmds := s.xlk.cmds.map (fun (x : XCmd) => if x.tag = c.tag then { x with got := x.got ++ b } else x) } }) ∧
  (∀ (s : State) (tag : BitVec 16) (op res : Byte) (st : BitVec 16) (m : Bool) (b : List Byte), s.xlk.cmds.find? (fun (c : XCmd) => c.tag == tag.toNat && c.op == op.toNat) = none →
    exec (.rspReceived tag op res st m false b) s = .next s) ∧
  (∀ (s : State) (tag : BitVec 16) (op res : Byte) (st : BitVec 16) (m : Bool) (b : List Byte) (d : XDone), s.xlk.dones.find? (fun (d : XDone) => d.tag == tag.toNat) = some d →
    exec (.rspReceived tag op res st m true b) s = .next (s.remoteDone d b)) ∧
  (∀ (s u : State) (tag : BitVec 16) (c : XCmd), s.xlk.cmds.find? (fun (c : XCmd) => c.tag == tag.toNat) = some c → u = { s with xlk := { s.xlk with held := s.xlk.held.filter (fun (f : LFrame) => f.tag != c.tag) } } →
    exec (.ctmoExpiry tag) s = .next (((((u.abandonCmd c.tag 0).abandonCmd c.tag 1).abandonCmd c.tag 2).abandonCmd c.tag 3).failCmd c .ctimeout [])) ∧
  (∀ (s : State) (tag : BitVec 16), s.xlk.cmds.find? (fun (c : XCmd) => c.tag == tag.toNat) = none → exec (.ctmoExpiry tag) s = .next s) ∧
  (∀ (s : State) (src : Src) (v : Word), s.mayWrite src → exec (.xlkWakeWrite src v) s = .next (s.wakeDown (getBits v.toNat 0 3)))

/-- O52. Stripe groups and Tank loans act as R451 to R461 and R466 say. -/
def Obligations.StripesAndLoans : Prop :=
  (∀ (s u : State) (src : Src) (g : Fin 4) (v : Word), s.mayWrite src → s.bit (F.XLK_SGCFG_EN g.val) = false →
    u = ((s.setF (F.XLK_SGCFG_K g.val) (getBits v.toNat 24 4)).setF (F.XLK_SGCFG_SUL g.val) (getBits v.toNat 20 4)).setF (F.XLK_SGCFG_QID g.val) (getBits v.toNat 0 10) →
    (getBits v.toNat 31 1 = 0 → exec (.stripeGroupEnable src g v) s = .next u) ∧
    (getBits v.toNat 31 1 = 1 → s.groupOk g (getBits v.toNat 24 4) (getBits v.toNat 0 10) = true → (s.group g).on = false →
      exec (.stripeGroupEnable src g v) s = .next ((u.setF (F.XLK_SGCFG_EN g.val) 1).enableGroup g)) ∧
    (getBits v.toNat 31 1 = 1 → (s.groupOk g (getBits v.toNat 24 4) (getBits v.toNat 0 10) = false ∨ (s.group g).on = true) → src ≠ .pf → exec (.stripeGroupEnable src g v) s = .next s)) ∧
  (∀ (s : State) (g : Fin 4) (v : Word), s.pfOpen .pf = true → s.bit (F.XLK_SGCFG_EN g.val) = true →
    exec (.stripeGroupEnable .pf g v) s = .next (if getBits v.toNat 31 1 = 1 then s else (s.disableGroup g).setF (F.XLK_SGCFG_EN g.val) 0)) ∧
  (∀ (s : State) (g : Fin 4), exec (.stripeRowClose g) s = .next (s.closeRow g)) ∧
  (∀ (s : State) (g : Fin 4) (i k : Nat) (n : Word) (m : SMember) (u : Unack), (s.group g).mems[i]? = some m → m.sess = some k → m.unack.find? (fun u => u.sent && u.seq % 2 ^ 32 == n.toNat) = some u →
    exec (.stripeRetransmit g i n) s = .next (s.memSend g i 3 k n.toNat 0 u.payload)) ∧
  (∀ (s : State) (g : Fin 4) (i : Nat) (n : Word), (∀ m, (s.group g).mems[i]? = some m → m.sess = none ∨ m.unack.find? (fun u => u.sent && u.seq % 2 ^ 32 == n.toNat) = none) → exec (.stripeRetransmit g i n) s = .next s) ∧
  (∀ (s : State) (p : LendP), s.linkUp p.port = true →
    ((pagesFor p.offset.toNat = 0 ∨ s.lendRoom < pagesFor p.offset.toNat) → exec (.lendAlloc p) s = .next (s.sendLend p.port lGRANT noHandle 0 [])) ∧
    (∀ ps u, pagesFor p.offset.toNat ≠ 0 → pagesFor p.offset.toNat ≤ s.lendRoom → s.takePages (pagesFor p.offset.toNat) = (ps, u) →
      exec (.lendAlloc p) s = .next (({ u with xlk := { u.xlk with lent := u.xlk.lent ++ [(⟨p.port, s.xlk.nextHandle, p.offset.toNat, ps⟩ : Lent)], nextHandle := (s.xlk.nextHandle + 1) % noHandle } } : State).sendLend
        p.port lGRANT s.xlk.nextHandle (s.lendRoom * pageBytes) [])) ∧
    (p.handle.toNat ≠ noHandle → exec (.lendGrant p) s = .next { s with xlk := { s.xlk with grants := s.xlk.grants ++ [(⟨p.port, p.handle.toNat, p.offset.toNat⟩ : Grant)] } }) ∧
    (p.handle.toNat = noHandle → exec (.lendGrant p) s = .next s)) ∧
  (∀ (s : State) (p : LendP), s.linkUp p.port = false → exec (.lendAlloc p) s = .next s ∧ exec (.lendGrant p) s = .next s) ∧
  (∀ (s : State) (p : LendP), s.lentTo p.port p.handle.toNat = none → exec (.lendPut p) s = .next s ∧ exec (.lendGet p) s = .next s ∧ exec (.lendFree p) s = .next s) ∧
  (∀ (s : State) (p : LendP) (l : Lent), s.lentTo p.port p.handle.toNat = some l →
    (p.offset.toNat + p.data.length ≤ l.len → exec (.lendPut p) s = .next { s with tank := writeAt s.tank l.pages p.offset.toNat p.data }) ∧
    (l.len < p.offset.toNat + p.data.length → exec (.lendPut p) s = .next s) ∧
    (∀ d, d = readPages s.tank l.pages (min p.offset.toNat l.len) → exec (.lendGet p) s = .next (s.sendParts p.port lDATA l.handle (d.length / lendMax + 1) 0 d)) ∧
    (∃ u : State, u = s.freePagesOf l.pages ∧ exec (.lendFree p) s = .next { u with xlk := { u.xlk with lent := u.xlk.lent.filter (fun (x : Lent) => !(x.port == l.port && x.handle == l.handle)) } })) ∧
  (∀ (s : State), (s.bit F.XLK_BORROW_EN = false ∨ 256 * s.getF F.XLK_BORROW_LOW ≤ s.freePages) → exec .recordSpill s = .next s) ∧
  (∀ (s u : State), s.bit F.XLK_BORROW_EN = true → s.freePages < 256 * s.getF F.XLK_BORROW_LOW →
    (∀ i r g, s.xlk.asked = some i → s.qmg.recs.find? (fun (r : Rec) => r.uid == i && s.canSpill r) = some r → bestGrant s.xlk.grants = some g → exec .recordSpill s = .next (s.spillTo r g)) ∧
    (((∀ i, s.xlk.asked = some i → s.qmg.recs.find? (fun (r : Rec) => r.uid == i && s.canSpill r) = none) ∨ bestGrant s.xlk.grants = none) → u = ({ s with xlk := { s.xlk with grants := [], asked := none } } : State).freeGrants s.xlk.grants →
      (u.spillNext = none → exec .recordSpill s = .next u) ∧
      (∀ r, u.spillNext = some r → exec .recordSpill s = .next (({ u with xlk := { u.xlk with asked := some r.uid } } : State).askAll r.length [0, 1, 2, 3])))) ∧
  (∀ (s : State), (∃ c, s.xlk.called = some c ∧ s.alive c.uid = true) → exec .recordRecall s = .next s) ∧
  (∀ (s : State), s.xlk.called = none →
    (s.recallNext = none → exec .recordRecall s = .next s) ∧
    (∀ (r : Rec) (p : PortNo) (h : Nat) (ps : List Nat) (u : State), s.recallNext = some r → r.lent = some (p.val, h) → pagesFor r.length ≤ s.freePages → s.takePages (pagesFor r.length) = (ps, u) →
      ∃ v : State, v = u.setRec { r with pages := ps } ∧ exec .recordRecall s = .next (({ v with xlk := { v.xlk with called := some ⟨r.uid, []⟩ } } : State).sendLend p lGET h r.length [])) ∧
    (∀ (r : Rec), s.recallNext = some r → s.freePages < pagesFor r.length → exec .recordRecall s = .next s)) ∧
  (∀ (s : State) (p : LendP), s.xlk.called = none → exec (.lendData p) s = .next s) ∧
  (∀ (s : State) (p : LendP) (c : Recall) (r : Rec), s.xlk.called = some c → s.rec? c.uid = some r →
    ((r.lent ≠ some (p.port.val, p.handle.toNat) ∨ p.offset.toNat ≠ c.got.length) → exec (.lendData p) s = .next s) ∧
    (r.lent = some (p.port.val, p.handle.toNat) → p.offset.toNat = c.got.length → (c.got ++ p.data).length < r.length →
      exec (.lendData p) s = .next { s with xlk := { s.xlk with called := some { c with got := c.got ++ p.data } } }) ∧
    (r.lent = some (p.port.val, p.handle.toNat) → p.offset.toNat = c.got.length → r.length ≤ (c.got ++ p.data).length →
      exec (.lendData p) s = .next ((({ s with tank := writePages s.tank r.pages ((c.got ++ p.data).take r.length), xlk := { s.xlk with called := none } } : State).setRec { r with lent := none }).sendLend
        p.port lFREE p.handle.toNat 0 [])))

/-- O53. A verb below its level is answered with ER PRIV and does nothing else; rescue mode refuses the verbs it does not serve; an absent sender is ignored. -/
def Obligations.VerbsNeedTheirLevel : Prop :=
  (∀ (s : State) (ln : Ln) (t : Tenant) (n : Nat) (c3 : Option Bool) (c : Option Cls) (w r : Option Nat) (d : Option DWord) (u : TripArg) (st : StepArg) (b : Bool), s.present ln.who = true → (s.levelOf ln.who).num < 1 →
    exec (.resetFunction ln t) s = .next (s.reply ln [] (.er .priv [])) ∧ exec (.lockMotion ln) s = .next (s.reply ln [] (.er .priv [])) ∧ exec (.freeMotion ln) s = .next (s.reply ln [] (.er .priv [])) ∧ exec (.load ln c3) s = .next (s.reply ln [] (.er .priv [])) ∧ exec (.unload ln) s = .next (s.reply ln [] (.er .priv [])) ∧ exec (.recordStart ln) s = .next (s.reply ln [] (.er .priv [])) ∧ exec (.recordStop ln) s = .next (s.reply ln [] (.er .priv [])) ∧ exec (.flush ln) s = .next (s.reply ln [] (.er .priv [])) ∧ exec (.locate ln n) s = .next (s.reply ln [] (.er .priv [])) ∧ exec (.locateLpw ln n) s = .next (s.reply ln [] (.er .priv [])) ∧ exec (.tenant ln t c w r) s = .next (s.reply ln [] (.er .priv [])) ∧ exec (.queueCreate ln t w d n r) s = .next (s.reply ln [] (.er .priv [])) ∧ exec (.queueDelete ln n) s = .next (s.reply ln [] (.er .priv [])) ∧ exec (.tripClear ln u) s = .next (s.reply ln [] (.er .priv [])) ∧ exec (.motionStart ln st b) s = .next (s.reply ln [] (.er .priv [])) ∧ exec (.motionStop ln) s = .next (s.reply ln [] (.er .priv [])) ∧ exec (.speed ln st) s = .next (s.reply ln [] (.er .priv []))) ∧
  (∀ (s : State) (ln : Ln) (t : Tenant) (n : Nat) (k : KeyKind) (d : DWord) (e : EraseArg) (bk : Bank) (b : Bool) (ws : List Word) (crc : Word), s.present ln.who = true → (s.levelOf ln.who).num < 2 →
    exec (.testProof ln) s = .next (s.reply ln [] (.er .priv [])) ∧ exec (.errClear ln) s = .next (s.reply ln [] (.er .priv [])) ∧ exec (.testCodec ln) s = .next (s.reply ln [] (.er .priv [])) ∧ exec (.resetDomain ln n) s = .next (s.reply ln [] (.er .priv [])) ∧ exec (.key ln k t n d) s = .next (s.reply ln [] (.er .priv [])) ∧ exec (.keyErase ln t e) s = .next (s.reply ln [] (.er .priv [])) ∧ exec (.testTank (.line ln) bk) s = .next (s.reply ln [] (.er .priv [])) ∧ exec (.testBoot ln) s = .next (s.reply ln [] (.er .priv [])) ∧ exec (.resetWarm ln b) s = .next (s.reply ln [] (.er .priv [])) ∧ exec (.fwupdateStart ln n) s = .next (s.reply ln [] (.er .priv [])) ∧ exec (.flashWrite ln n ws) s = .next (s.reply ln [] (.er .priv [])) ∧ exec (.fwupdateCommit ln crc) s = .next (s.reply ln [] (.er .priv [])) ∧ exec (.fwupdateAbort ln) s = .next (s.reply ln [] (.er .priv []))) ∧
  (∀ (s : State) (ln : Ln) (t : Tenant) (n : Nat) (c3 : Option Bool) (c : Option Cls) (w r : Option Nat) (d : Option DWord) (u : TripArg) (st : StepArg) (b : Bool), s.present ln.who = true → 1 ≤ (s.levelOf ln.who).num → s.boot.rescue = true →
    exec (.resetFunction ln t) s = .next (s.reply ln [] (.er .rescue [])) ∧ exec (.lockMotion ln) s = .next (s.reply ln [] (.er .rescue [])) ∧ exec (.freeMotion ln) s = .next (s.reply ln [] (.er .rescue [])) ∧ exec (.load ln c3) s = .next (s.reply ln [] (.er .rescue [])) ∧ exec (.unload ln) s = .next (s.reply ln [] (.er .rescue [])) ∧ exec (.recordStart ln) s = .next (s.reply ln [] (.er .rescue [])) ∧ exec (.recordStop ln) s = .next (s.reply ln [] (.er .rescue [])) ∧ exec (.flush ln) s = .next (s.reply ln [] (.er .rescue [])) ∧ exec (.locate ln n) s = .next (s.reply ln [] (.er .rescue [])) ∧ exec (.locateLpw ln n) s = .next (s.reply ln [] (.er .rescue [])) ∧ exec (.tenant ln t c w r) s = .next (s.reply ln [] (.er .rescue [])) ∧ exec (.queueCreate ln t w d n r) s = .next (s.reply ln [] (.er .rescue [])) ∧ exec (.queueDelete ln n) s = .next (s.reply ln [] (.er .rescue [])) ∧ exec (.tripClear ln u) s = .next (s.reply ln [] (.er .rescue [])) ∧ exec (.motionStart ln st b) s = .next (s.reply ln [] (.er .rescue [])) ∧ exec (.motionStop ln) s = .next (s.reply ln [] (.er .rescue [])) ∧ exec (.speed ln st) s = .next (s.reply ln [] (.er .rescue [])) ∧ exec (.timeQuery ln) s = .next (s.reply ln [] (.er .rescue [])) ∧ exec (.cartQuery ln) s = .next (s.reply ln [] (.er .rescue [])) ∧ exec (.powerQuery ln) s = .next (s.reply ln [] (.er .rescue [])) ∧ exec (.nodeQuery ln) s = .next (s.reply ln [] (.er .rescue [])) ∧ exec (.censusQuery ln) s = .next (s.reply ln [] (.er .rescue [])) ∧ exec (.keyQuery ln t) s = .next (s.reply ln [] (.er .rescue [])) ∧ exec (.tenantQuery ln t) s = .next (s.reply ln [] (.er .rescue [])) ∧ exec (.queueQuery ln n) s = .next (s.reply ln [] (.er .rescue [])) ∧ exec (.tripQuery ln) s = .next (s.reply ln [] (.er .rescue [])) ∧ exec (.motionQuery ln) s = .next (s.reply ln [] (.er .rescue []))) ∧
  (∀ (s : State) (ln : Ln) (t : Tenant) (n : Nat) (k : KeyKind) (d : DWord) (e : EraseArg) (bk : Bank), s.present ln.who = true → 2 ≤ (s.levelOf ln.who).num → s.boot.rescue = true →
    exec (.testProof ln) s = .next (s.reply ln [] (.er .rescue [])) ∧ exec (.errClear ln) s = .next (s.reply ln [] (.er .rescue [])) ∧ exec (.testCodec ln) s = .next (s.reply ln [] (.er .rescue [])) ∧ exec (.resetDomain ln n) s = .next (s.reply ln [] (.er .rescue [])) ∧ exec (.key ln k t n d) s = .next (s.reply ln [] (.er .rescue [])) ∧ exec (.keyErase ln t e) s = .next (s.reply ln [] (.er .rescue [])) ∧ exec (.testTank (.line ln) bk) s = .next (s.reply ln [] (.er .rescue []))) ∧
  (∀ (s : State) (ln : Ln) (t : Tenant) (n : Nat) (c3 : Option Bool) (c : Option Cls) (w r : Option Nat) (d : Option DWord) (u : TripArg) (st : StepArg) (b : Bool), s.present ln.who = false →
    exec (.resetFunction ln t) s = .next (s) ∧ exec (.lockMotion ln) s = .next (s) ∧ exec (.freeMotion ln) s = .next (s) ∧ exec (.load ln c3) s = .next (s) ∧ exec (.unload ln) s = .next (s) ∧ exec (.recordStart ln) s = .next (s) ∧ exec (.recordStop ln) s = .next (s) ∧ exec (.flush ln) s = .next (s) ∧ exec (.locate ln n) s = .next (s) ∧ exec (.locateLpw ln n) s = .next (s) ∧ exec (.tenant ln t c w r) s = .next (s) ∧ exec (.queueCreate ln t w d n r) s = .next (s) ∧ exec (.queueDelete ln n) s = .next (s) ∧ exec (.tripClear ln u) s = .next (s) ∧ exec (.motionStart ln st b) s = .next (s) ∧ exec (.motionStop ln) s = .next (s) ∧ exec (.speed ln st) s = .next (s) ∧ exec (.timeQuery ln) s = .next (s) ∧ exec (.cartQuery ln) s = .next (s) ∧ exec (.powerQuery ln) s = .next (s) ∧ exec (.nodeQuery ln) s = .next (s) ∧ exec (.censusQuery ln) s = .next (s) ∧ exec (.keyQuery ln t) s = .next (s) ∧ exec (.tenantQuery ln t) s = .next (s) ∧ exec (.queueQuery ln n) s = .next (s) ∧ exec (.tripQuery ln) s = .next (s) ∧ exec (.motionQuery ln) s = .next (s)) ∧
  (∀ (s : State) (ln : Ln) (t : Tenant) (n : Nat) (k : KeyKind) (d : DWord) (e : EraseArg) (bk : Bank) (b : Bool) (ws : List Word) (crc : Word), s.present ln.who = false →
    exec (.testProof ln) s = .next (s) ∧ exec (.errClear ln) s = .next (s) ∧ exec (.testCodec ln) s = .next (s) ∧ exec (.resetDomain ln n) s = .next (s) ∧ exec (.key ln k t n d) s = .next (s) ∧ exec (.keyErase ln t e) s = .next (s) ∧ exec (.testTank (.line ln) bk) s = .next (s) ∧ exec (.testBoot ln) s = .next (s) ∧ exec (.resetWarm ln b) s = .next (s) ∧ exec (.fwupdateStart ln n) s = .next (s) ∧ exec (.flashWrite ln n ws) s = .next (s) ∧ exec (.fwupdateCommit ln crc) s = .next (s) ∧ exec (.fwupdateAbort ln) s = .next (s))

/-- O54. A VF reaches no PF register by any row, and a PF write that the host side does not take is dropped and at most counted. -/
def Obligations.OnlyOpenSourcesReachRegisters : Prop :=
  (∀ (s : State) (x t : Tenant) (q : Qid) (v : Word) (b : Bool) (p : Fin 4) (n : Fin 9) (c : Fin 32) (e : Ecc),
    exec (.errCtlClear (.vf x) v) s = .next (s) ∧ exec (.mdrTripclrWrite (.vf x) v) s = .next (s) ∧ exec (.qcmdCreate (.vf x) q) s = .next (s) ∧ exec (.qcmdDelete (.vf x) q) s = .next (s) ∧ exec (.rstctlWarm (.vf x) v) s = .next (s) ∧ exec (.rstctlDomain (.vf x) v) s = .next (s) ∧ exec (.watchdogWrite (.vf x) v) s = .next (s) ∧ exec (.drtTenantDisable (.vf x) t) s = .next (s) ∧ exec (.drtDisable (.vf x)) s = .next (s) ∧ exec (.tvecWrite (.vf x) t v) s = .next (s) ∧ exec (.qvecWrite (.vf x) q v) s = .next (s) ∧ exec (.tshareWrite (.vf x) t v) s = .next (s) ∧ exec (.gcapWrite (.vf x) v) s = .next (s) ∧ exec (.rdcEngineEnableWrite (.vf x) v) s = .next (s) ∧ exec (.enlEngineEnableWrite (.vf x) v) s = .next (s) ∧ exec (.tankWindowAccess (.vf x) b p v e) s = .next (s) ∧ exec (.spdRemapAdd (.vf x) v) s = .next (s) ∧ exec (.loupeArm (.vf x) v) s = .next (s) ∧ exec (.loupeFire (.vf x) v) s = .next (s) ∧ exec (.loopBankRequest (.vf x) n v) s = .next (s) ∧ exec (.loopModeWrite (.vf x) n v) s = .next (s) ∧ exec (.coefficientWrite (.vf x) b n c b v) s = .next (s) ∧ exec (.rcClear (.vf x) v) s = .next (s) ∧ exec (.radiusWrite (.vf x) v) s = .next (s) ∧ exec (.saveListAccess (.vf x) b v) s = .next (s) ∧ exec (.xlkWakeWrite (.vf x) v) s = .next (s) ∧ exec (.stripeGroupEnable (.vf x) p v) s = .next (s)) ∧
  (∀ (s : State) (t : Tenant) (q : Qid) (v : Word) (b : Bool) (p : Fin 4) (n : Fin 9) (c : Fin 32), s.pfOpen .pf = false →
    exec (.errCtlClear .pf v) s = .next (if s.boot.warming then s.count F.GLB_RSTCAUSE_DROPPED 1 else s) ∧ exec (.mdrTripclrWrite .pf v) s = .next (if s.boot.warming then s.count F.GLB_RSTCAUSE_DROPPED 1 else s) ∧ exec (.tvecWrite .pf t v) s = .next (if s.boot.warming then s.count F.GLB_RSTCAUSE_DROPPED 1 else s) ∧ exec (.qvecWrite .pf q v) s = .next (if s.boot.warming then s.count F.GLB_RSTCAUSE_DROPPED 1 else s) ∧ exec (.tshareWrite .pf t v) s = .next (if s.boot.warming then s.count F.GLB_RSTCAUSE_DROPPED 1 else s) ∧ exec (.gcapWrite .pf v) s = .next (if s.boot.warming then s.count F.GLB_RSTCAUSE_DROPPED 1 else s) ∧ exec (.rdcEngineEnableWrite .pf v) s = .next (if s.boot.warming then s.count F.GLB_RSTCAUSE_DROPPED 1 else s) ∧ exec (.enlEngineEnableWrite .pf v) s = .next (if s.boot.warming then s.count F.GLB_RSTCAUSE_DROPPED 1 else s) ∧ exec (.spdRemapAdd .pf v) s = .next (if s.boot.warming then s.count F.GLB_RSTCAUSE_DROPPED 1 else s) ∧ exec (.loupeArm .pf v) s = .next (if s.boot.warming then s.count F.GLB_RSTCAUSE_DROPPED 1 else s) ∧ exec (.loupeFire .pf v) s = .next (if s.boot.warming then s.count F.GLB_RSTCAUSE_DROPPED 1 else s) ∧ exec (.loopBankRequest .pf n v) s = .next (if s.boot.warming then s.count F.GLB_RSTCAUSE_DROPPED 1 else s) ∧ exec (.loopModeWrite .pf n v) s = .next (if s.boot.warming then s.count F.GLB_RSTCAUSE_DROPPED 1 else s) ∧ exec (.coefficientWrite .pf b n c b v) s = .next (if s.boot.warming then s.count F.GLB_RSTCAUSE_DROPPED 1 else s) ∧ exec (.rcClear .pf v) s = .next (if s.boot.warming then s.count F.GLB_RSTCAUSE_DROPPED 1 else s) ∧ exec (.radiusWrite .pf v) s = .next (if s.boot.warming then s.count F.GLB_RSTCAUSE_DROPPED 1 else s) ∧ exec (.xlkWakeWrite .pf v) s = .next (if s.boot.warming then s.count F.GLB_RSTCAUSE_DROPPED 1 else s) ∧ exec (.stripeGroupEnable .pf p v) s = .next (if s.boot.warming then s.count F.GLB_RSTCAUSE_DROPPED 1 else s))

/-- O55. A query verb changes nothing but what its answer takes: the output, the sessions, the waiting remote lines and the link that carries it. -/
def Obligations.QueriesOnlyAnswer : Prop :=
  ∀ (s : State) (ln : Ln) (t : Tenant) (n : Nat) (a w : Option Nat) (c : Instr), c ∈ [.sessionQuery ln, .idQuery ln, .timeQuery ln, .errQuery ln a w, .cartQuery ln, .stateQuery ln, .nodeQuery ln, .censusQuery ln, .keyQuery ln t, .tenantQuery ln t, .queueQuery ln n, .tripQuery ln, .motionQuery ln] →
    ∃ o v r p i, exec c s = .next { s with out := o, con := { s.con with ses := v, remotes := r }, xlk := { s.xlk with ports := p, inbox := i } }

/-- O56. A 32-bit register takes a write field by field, by access code and range rule, and no other register changes. -/
def Obligations.FieldsFollowTheirAccessCode : Prop :=
  ∀ (s : State) (off i : Nat) (d : RegDef) (v : Word), RegMap.find off = some (d, i, 0) → d.wide = false →
    (∀ f ∈ d.fields, getBits ((s.storeAt off v).rd off).toNat f.lo f.width =
      match f.acc with
      | .rw => RegMap.stored f i (getBits v.toNat f.lo f.width) % 2 ^ f.width
      | .w1c => getBits (s.rd off).toNat f.lo f.width &&& (2 ^ f.width - 1 - getBits v.toNat f.lo f.width)
      | _ => getBits (s.rd off).toNat f.lo f.width) ∧
    (∀ o, o ≠ off → (s.storeAt off v).rd o = s.rd o)

/-- O57. A step executes the command at the front of the queue with the rest of the queue; on an empty queue the block idles (log entry 1). -/
def Obligations.StepRunsTheFrontCommand : Prop :=
  (∀ (c : Instr) (s : State) (rest : List Instr), step { s with pending := c :: rest } = exec c { s with pending := rest }) ∧
  (∀ s : State, s.pending = [] → step s = .next s)

/-- O58. Every command answers a next state in every state: none faults, and none is refused. -/
def Obligations.NoCommandStops : Prop :=
  ∀ (i : Instr) (s : State), ∃ t : State, exec i s = .next t

/-- O59. The state after power-on reset: the values the spec gives, and the invariant holds. -/
def Obligations.ResetState : Prop :=
  State.reset.pending = [] ∧ State.reset.viewWord R.GLB_ID = 0x32604200#32 ∧ State.reset.qmg.queues = [] ∧ State.reset.qmg.recs = [] ∧ State.reset.eth.drt = [] ∧ State.reset.err.recs = [] ∧
  State.reset.tnk.used = [] ∧ (∀ n : Sid, (State.reset.ses n).lines = []) ∧ State.reset.inv = true

/-- O60. Every step from a state that meets the invariant answers a next state that meets it, and takes exactly the front command from the queue. -/
def Obligations.EveryStepKeepsTheInvariant : Prop :=
  ∀ s : State, s.inv = true → ∃ t : State, step s = .next t ∧ t.inv = true ∧ t.pending = s.pending.tail
end

