-- ==== Sys2Proof/Laws/Access.lean ====
section
/-! SUPPORT. What a register access by a source that may make it comes down to: the lemmas the register statements' proofs cite in place of unfolding the bus. -/

namespace Sys2Proof.Machine

/-- A write by a source that may write an aligned offset of BAR0 is the register write itself, settled for its source. -/
theorem State.busWrite_open {s : State} {src : Src} {off : Nat} (hm : s.mayWrite src) (ha : off % 4 = 0) (hb : off < 0x200000) (v : Word) :
    s.busWrite src off v = s.settleWrite src (s.wWord src off v) := by
  obtain ⟨m1, m2⟩ := hm
  have h8 : ¬ cfgBase ≤ off := by unfold cfgBase; omega
  have h9 : ¬ (off % 4 ≠ 0) := by omega
  cases src with
  | pf => simp only [State.busWrite, if_neg h9, if_neg h8, m2, true_or, if_true]
  | vf t => exact absurd rfl (m1 t)
  | sess n => simp only [State.busWrite, if_neg h9]
  | master => simp only [State.busWrite, if_neg h9]
  | fwd n => simp only [State.busWrite, if_neg h9]

/-- A read by such a source that awaits no decision of the arbiter is performed at once. -/
theorem State.read_open {s : State} {src : Src} {off : Nat} (hm : s.mayWrite src) (ha : off % 4 = 0) (hb : off < 0x200000) (hw : s.awaits src = false) :
    s.read src off = s.readTo src off := by
  obtain ⟨m1, m2⟩ := hm
  have h8 : ¬ cfgBase ≤ off := by unfold cfgBase; omega
  have h9 : ¬ (off % 4 ≠ 0) := by omega
  cases src with
  | pf =>
    simp only [State.pfOpen, Bool.and_eq_true, Bool.not_eq_true'] at m2
    simp only [State.read, hw, State.busRead, if_neg h9, if_neg h8, m2.1, m2.2, true_or, if_true, Bool.false_eq_true, if_false]
  | vf t => exact absurd rfl (m1 t)
  | sess n => simp only [State.read, hw, State.busRead, if_neg h9, Bool.false_eq_true, if_false]
  | master => simp only [State.read, hw, State.busRead, if_neg h9, Bool.false_eq_true, if_false]
  | fwd n => simp only [State.read, hw, State.busRead, if_neg h9, Bool.false_eq_true, if_false]

/-- Outside the tenant 0 window only a VF reads a window. -/
theorem winAt_out {s : State} {src : Src} {off : Nat} (hm : s.mayWrite src) (h : inWin0 off = false) : winAt src off = none := by
  cases src with
  | vf t => exact absurd rfl (hm.1 t)
  | _ => simp only [winAt, h, Bool.false_eq_true, if_false]

/-- A write taken settles as the state it gives. -/
theorem State.settle_ok (s t : State) (src : Src) : s.settleWrite src (.ok t) = t := rfl

/-- A write refused as a bad argument leaves the state as it is. -/
theorem State.settle_arg (s : State) (src : Src) : s.settleWrite src (.refuse .badarg none) = s := by cases src <;> rfl

/-- A write refused as locked leaves the state as it is. -/
theorem State.settle_locked (s : State) (src : Src) : s.settleWrite src (.refuse .locked none) = s := by cases src <;> rfl

/-- A write at a 32-bit register that has its clock is that register's own write, or refused where no field of it can be written. -/
theorem State.wWord_atReg {s : State} {src : Src} {off i w : Nat} {d : RegDef} (ha : s.atReg off d i w) (v : Word) (hw : d.wide = false) :
    s.wWord src off v = if writableIn d 0 then s.wEntry src d i off v else .refuse .badarg none := by
  obtain ⟨_, _, h3, h4, h5, h6⟩ := ha
  have h7 : ¬(s.xc.stopped.contains .ckm = true ∧ ckmSide off = true) := by
    intro ⟨a, b⟩; rw [a, b] at h6; exact absurd h6 (by decide)
  unfold State.wWord
  rw [if_neg h7, if_neg (by rw [h3]; decide), if_neg (by rw [h4]; decide), h5]
  dsimp only
  rw [if_neg (by rw [hw]; decide)]

/-- A write at a half of a 64-bit register loads the latch (low half) or commits both halves (high half; 01_device_in_one_pass R13). -/
theorem State.wWord_wide {s : State} {src : Src} {off i w : Nat} {d : RegDef} (ha : s.atReg off d i w) (v : Word) (hw : d.wide = true) :
    s.wWord src off v =
      if w = 0 then .ok { s with wlatch := ⟨src, off, v⟩ :: s.wlatch.filter (fun (l : Latch) => l.src != src) }
      else match ({ s with wlatch := s.wlatch.filter (fun (l : Latch) => l.src != src) } : State).wWide d i (v.toNat * 2 ^ 32 +
          match s.wlatch.find? (fun (l : Latch) => l.src == src && l.off == off - 4) with | some l => l.half.toNat | none => (s.rd (off - 4)).toNat) with
        | .ok t => .ok t
        | .refuse e rec => match src with | .pf => .ok { s with wlatch := s.wlatch.filter (fun (l : Latch) => l.src != src) } | _ => .refuse e rec := by
  obtain ⟨_, _, h3, h4, h5, h6⟩ := ha
  have h7 : ¬(s.xc.stopped.contains .ckm = true ∧ ckmSide off = true) := by
    intro ⟨a, b⟩; rw [a, b] at h6; exact absurd h6 (by decide)
  unfold State.wWord
  rw [if_neg h7, if_neg (by rw [h3]; decide), if_neg (by rw [h4]; decide), h5]
  dsimp only
  exact if_pos hw

/-- A read of SLDATA by such a source that awaits no decision: the word SLADDR names, and SLADDR goes one on (15_power R410). -/
theorem State.read_sldata {s : State} {src : Src} (hm : s.mayWrite src) (hw : s.awaits src = false) :
    s.read src R.PWR_SLDATA = s.slNext.emit (.readData src R.PWR_SLDATA (BitVec.ofNat 32 (s.slWord (s.getF F.PWR_SLADDR_WORD)))) := by
  rw [State.read_open hm (by decide) (by decide) hw]
  unfold State.readTo State.readAct
  rw [winAt_out hm (by decide)]
  dsimp only
  rw [if_neg (by decide), if_pos rfl]

/-- No 64-bit register stands at SLDATA or in the Tank window's data words. -/
theorem wide_elsewhere {off i w : Nat} {d : RegDef} (h : RegMap.find off = some (d, i, w)) (hw : d.wide = true) (ha : off % 4 = 0) :
    ¬(R.TNK_WDATA 0 ≤ off ∧ off < R.TNK_WDATA 4) ∧ off ≠ R.PWR_SLDATA := by
  constructor
  · intro ⟨a, b⟩
    have e : ∀ k < 4, ((RegMap.find (R.TNK_WDATA 0 + 4 * k)).map fun x => x.1.wide) = some false := by decide
    obtain ⟨k, hk, rfl⟩ : ∃ k, k < 4 ∧ off = R.TNK_WDATA 0 + 4 * k := ⟨(off - R.TNK_WDATA 0) / 4, by simp only [R.TNK_WDATA] at *; omega, by simp only [R.TNK_WDATA] at *; omega⟩
    have := e k hk
    rw [h] at this
    simp only [Option.map_some, hw] at this
    cases this
  · intro e
    have f : ((RegMap.find R.PWR_SLDATA).map fun x => x.1.wide) = some false := by decide
    rw [e] at h
    rw [h] at f
    simp only [Option.map_some, hw] at f
    cases f

end Sys2Proof.Machine
end

