-- ==== Sys2Proof/Laws/Ops.lean ====
section
/-! SUPPORT. What the shared operations do: a verb's line (served, below its level, in rescue mode, of nobody), and what a reply and an event leave alone. -/

namespace Sys2Proof.Machine

/-! ### Verbs (R61, R104) -/

theorem verb_ok {s t : State} {ln : Ln} {need : Level} {c : List (List Item)} {f : List Item} (h : s.serves ln need) (r : Bool) :
    s.verb ln need r (.ok t c f) = t.reply ln c (.ok f) := by
  obtain ⟨h1, h2, h3⟩ := h
  simp [State.verb, h1, h3, Nat.not_lt.mpr h2]

theorem verb_er {s : State} {ln : Ln} {need : Level} {e : Er} {i : List Item} (h : s.serves ln need) (r : Bool) :
    s.verb ln need r (.er e i) = s.reply ln [] (.er e i) := by
  obtain ⟨h1, h2, h3⟩ := h
  simp [State.verb, h1, h3, Nat.not_lt.mpr h2]

theorem verb_fail {s t : State} {ln : Ln} {need : Level} {e : Er} (h : s.serves ln need) (r : Bool) :
    s.verb ln need r (.fail t e) = t.reply ln [] (.er e []) := by
  obtain ⟨h1, h2, h3⟩ := h
  simp [State.verb, h1, h3, Nat.not_lt.mpr h2]

theorem verb_ok_any {s t : State} {ln : Ln} {need : Level} {c : List (List Item)} {f : List Item} (h : s.answers ln need) :
    s.verb ln need true (.ok t c f) = t.reply ln c (.ok f) := by
  obtain ⟨h1, h2⟩ := h
  simp [State.verb, h1, Nat.not_lt.mpr h2]

theorem verb_er_any {s : State} {ln : Ln} {need : Level} {e : Er} {i : List Item} (h : s.answers ln need) :
    s.verb ln need true (.er e i) = s.reply ln [] (.er e i) := by
  obtain ⟨h1, h2⟩ := h
  simp [State.verb, h1, Nat.not_lt.mpr h2]

theorem verb_priv {s : State} {ln : Ln} {need : Level} {b : Ans} {r : Bool} (h : s.present ln.who = true) (hl : (s.levelOf ln.who).num < need.num) :
    s.verb ln need r b = s.reply ln [] (.er .priv []) := by
  simp [State.verb, h, hl]

theorem verb_rescue {s : State} {ln : Ln} {need : Level} {b : Ans} (h : s.answers ln need) (hr : s.boot.rescue = true) :
    s.verb ln need false b = s.reply ln [] (.er .rescue []) := by
  obtain ⟨h1, h2⟩ := h
  simp [State.verb, h1, Nat.not_lt.mpr h2, hr]

theorem verb_absent {s : State} {ln : Ln} {need : Level} {b : Ans} {r : Bool} (h : s.present ln.who = false) : s.verb ln need r b = s := by
  simp [State.verb, h]

/-! ### Tank requests (R245, R246) -/

/-- Where no request waits and none has aged, one that is presented is granted and carried out at once. -/
theorem presentReq_free (s : State) (q : TankReq) (h : s.bankOn q.bank = true) (hw : s.tnk.waitq = []) (ha : s.tnk.aged = []) : s.presentReq q = s.perform q := by
  have hx : s.presented q = q := by simp [State.presented, ha]
  have he : ({ s with tnk := { s.tnk with waitq := [q] } } : State).heldBack q = false := by simp [State.heldBack, ha]
  have hs : ({ s with tnk := { s.tnk with waitq := [] } } : State) = s := by rw [← hw]
  have h1 : s.presentReq q = ({ s with tnk := { s.tnk with waitq := [q] } } : State).grantAll 1 := by
    unfold State.presentReq
    rw [if_neg (by simp [h])]
    simp only [hx, hw, ha, List.filter_nil, List.nil_append, List.length_singleton]
  have h2 : ({ s with tnk := { s.tnk with waitq := [q] } } : State).winner? [q] = some q := by simp [State.winner?, he]
  rw [h1]
  simp only [State.grantAll, h2, List.erase_cons_head, hs]

/-! ### Checksums and directory copies (R102, R346) -/

theorem crc32Bits_lt (n c : Nat) (h : c < 2 ^ 32) : crc32Bits n c < 2 ^ 32 := by
  induction n generalizing c with
  | zero => exact h
  | succ n ih =>
    unfold crc32Bits
    apply ih
    split
    · exact Nat.xor_lt_two_pow (by omega) (by decide)
    · omega

theorem crc32_lt (l : List Byte) : crc32 l < 2 ^ 32 := by
  have key : ∀ (l : List Byte) (c : Nat), c < 2 ^ 32 → l.foldl (fun c b => crc32Bits 8 (c ^^^ b.toNat)) c < 2 ^ 32 := by
    intro l
    induction l with
    | nil => intro c h; exact h
    | cons b l ih => intro c h; exact ih _ (crc32Bits_lt _ _ (Nat.xor_lt_two_pow h (by have := b.isLt; omega)))
  exact Nat.xor_lt_two_pow (key l _ (by decide)) (by decide)

theorem beBytes4_length (n : Nat) : (beBytes 4 n).length = 4 := rfl

theorem beValue_beBytes4 (n : Nat) (h : n < 2 ^ 32) : beValue (beBytes 4 n) = n := by
  simp only [beValue, beBytes, leBytes, leValue, List.reverse_cons, List.reverse_nil, List.nil_append, List.cons_append, BitVec.toNat_ofNat]
  omega

/-- A value of four bytes that follows the bytes it was computed from reads back. -/
theorem read_crc (c : List Byte) (k : Nat) (h : c.length = k) : beValue (sub (c ++ beBytes 4 (crc32 c)) k 4) = crc32 ((c ++ beBytes 4 (crc32 c)).take k) := by
  subst h
  rw [List.take_left, show sub (c ++ beBytes 4 (crc32 c)) c.length 4 = beBytes 4 (crc32 c) by unfold sub; rw [List.drop_left]; exact List.take_of_length_le (by rw [beBytes4_length])]
  exact beValue_beBytes4 _ (crc32_lt _)

/-- A copy whose MAGIC, VER and CRC check tells its fields. -/
theorem copyInfo_valid (c : List Byte) (b : Bool) (h1 : beValue (sub c 0 4) = 0x44594452) (h2 : beValue (sub c 4 1) = 1) (h3 : 3140 ≤ c.length)
    (h4 : beValue (sub c 3136 4) = crc32 (c.take 3136)) : ∃ i, copyInfo (c, b) = some i := by
  unfold copyInfo
  exact ⟨_, if_pos ⟨h1, h2, h3, h4⟩⟩

end Sys2Proof.Machine
end

