-- ==== Sys2Proof/Laws/Frames.lean ====
section
/-! SUPPORT. What sending things leaves alone: outputs, events, frames on the cascade link, and replies. Each lemma gives the next state as the old one
with the parts named in it replaced. -/

namespace Sys2Proof.Machine

/-! ### Outputs -/

theorem echoTo_frame (s : State) (n : Sid) (l : List Char) : ∃ o, s.echoTo n l = { s with out := o } := by
  unfold State.echoTo State.emit; split
  · exact ⟨_, rfl⟩
  · exact ⟨s.out, rfl⟩

theorem prompt_frame (s : State) (n : Sid) : ∃ o, s.prompt n = { s with out := o } := echoTo_frame s n _

theorem sendLines_frame (ls : List Line) (w : Who) : ∀ s : State, ∃ o, s.sendLines w ls = { s with out := o } := by
  induction ls with
  | nil => exact fun s => ⟨s.out, rfl⟩
  | cons l ls ih => exact fun s => (ih (s.emit (.line w l))).imp fun _ h => h

theorem sendEvent_frame (s : State) (n : Sid) (l : Line) : ∃ o, s.sendEvent n l = { s with out := o } := by
  unfold State.sendEvent State.emit; dsimp only; split <;> exact ⟨_, rfl⟩

/-! ### Events (R58 to R60, R94) -/

/-- A session without its queued events. -/
def Session.core (x : Session) : Session := { x with evq := [], lost := 0 }

/-- `t` is `s` but for outputs and queued events. -/
def Tells (s t : State) : Prop :=
  ∃ o v, t = { s with out := o, con := { s.con with ses := v } } ∧ ∀ n : Sid, (v[n]).core = (s.con.ses[n]).core

theorem Tells.refl (s : State) : Tells s s := ⟨s.out, s.con.ses, rfl, fun _ => rfl⟩

theorem Tells.trans {s t u : State} (h : Tells s t) (g : Tells t u) : Tells s u := by
  obtain ⟨o, v, rfl, hv⟩ := h
  obtain ⟨o', v', rfl, hv'⟩ := g
  exact ⟨o', v', rfl, fun n => (hv' n).trans (hv n)⟩

theorem queueEvent_core (t : Nat) (x : Session) (l : Line) : (queueEvent t x l).core = x.core := by
  unfold queueEvent; split_ifs <;> rfl

theorem event_tells (s : State) (n : Sid) (name : String) (tag : List Char) (i : List Item) : Tells s (s.event n name tag i) := by
  unfold State.event; dsimp only
  split_ifs
  · obtain ⟨o, h⟩ := sendEvent_frame s n ⟨[], none, .event name tag s.now i, (s.ses n).crc⟩
    exact ⟨o, s.con.ses, h, fun _ => rfl⟩
  · refine ⟨s.out, _, rfl, fun m => ?_⟩
    by_cases h : n.val = m.val
    · simp only [Fin.getElem_fin, h, Vector.getElem_set_self]
      rw [queueEvent_core]; simp only [State.ses, Fin.getElem_fin, h]
    · simp only [Fin.getElem_fin, Vector.getElem_set_ne _ _ h]
  · exact Tells.refl s

theorem eventAll_tells (s : State) (name : String) (i : List Item) : Tells s (s.eventAll name i) :=
  (((((event_tells s 0 name [] i).trans (event_tells _ 1 name [] i)).trans (event_tells _ 2 name [] i)).trans (event_tells _ 3 name [] i)).trans
    (event_tells _ 4 name [] i)).trans (event_tells _ 5 name [] i)

/-- What a record changes: the log, the cause register, vectors and the events of the sessions. -/
theorem log_frame (s : State) (r : ErrRec) : ∃ o v rg po hf, s.log r = { s with err := s.err.put s.now r, out := o, con := { s.con with ses := v }, regs := rg, pool := po, hif := hf } ∧
    ∀ n : Sid, (v[n]).core = (s.con.ses[n]).core := by
  have hc : ∀ u : State, ∃ o rg po hf, u.cause 0 = { u with out := o, regs := rg, pool := po, hif := hf } := by
    intro u
    have hs : ∀ (u : State) (t : Tenant) (n : Nat), ∃ o hf, u.signal t n = { u with out := o, hif := hf } := by
      intro u t n; unfold State.signal; dsimp only
      split_ifs <;> first | exact ⟨u.out, u.hif, rfl⟩ | exact ⟨u.out, _, rfl⟩ | exact ⟨_, u.hif, rfl⟩
    have hv : ∀ (u : State) (n : Nat), ∃ o po hf, u.vecEvent 0 n false = { u with out := o, pool := po, hif := hf } := by
      intro u n; unfold State.vecEvent; dsimp only
      split_ifs
      · exact ⟨u.out, u.pool, u.hif, rfl⟩
      · obtain ⟨o, hf, h⟩ := hs (u.poolClear (u.vecBase 0 + n)) 0 n; exact ⟨o, _, hf, h⟩
      · exact ⟨u.out, _, u.hif, rfl⟩
    unfold State.cause; dsimp only
    split_ifs
    · exact ⟨u.out, u.regs, u.pool, u.hif, rfl⟩
    · obtain ⟨o, po, hf, h⟩ := hv (u.setF F.INT_PFCAUSE_CAUSE (u.getF F.INT_PFCAUSE_CAUSE + 2 ^ 0)) _
      exact ⟨o, _, po, hf, h⟩
    · exact ⟨u.out, _, u.pool, u.hif, rfl⟩
  unfold State.log; dsimp only
  obtain ⟨o, rg, po, hf, h⟩ := hc { s with err := s.err.put s.now r }
  rw [h]
  obtain ⟨o', v, h', hv⟩ := eventAll_tells { s with err := s.err.put s.now r, out := o, regs := rg, pool := po, hif := hf } "ERR"
    [⟨"SEQ", .num s.err.next⟩, ⟨"CODE", .num r.code.code⟩, ⟨"TOK", .word r.code.token⟩, ⟨"BLK", .word r.blk.text⟩]
  exact ⟨o', v, rg, po, hf, h', hv⟩

theorem log_core (s : State) (r : ErrRec) (n : Sid) : ((s.log r).ses n).core = (s.ses n).core := by
  obtain ⟨o, v, rg, po, hf, h, hv⟩ := log_frame s r
  rw [h]; exact hv n

/-! ### Frames (R431, R435) -/

/-- `t` is `s` but for outputs, the ports of the cascade link and its inbox. -/
def Sends (s t : State) : Prop := ∃ o p b, t = { s with out := o, xlk := { s.xlk with ports := p, inbox := b } }

theorem Sends.refl (s : State) : Sends s s := ⟨s.out, s.xlk.ports, s.xlk.inbox, rfl⟩
theorem Sends.trans {s t u : State} (h : Sends s t) (g : Sends t u) : Sends s u := by
  obtain ⟨o, p, b, rfl⟩ := h
  obtain ⟨o', p', b', rfl⟩ := g
  exact ⟨o', p', b', rfl⟩

theorem pushList_sends (p : PortNo) (l : List Sent) : ∀ s : State, Sends s (s.pushList p l).1 := by
  induction l with
  | nil => exact Sends.refl
  | cons x xs ih =>
    intro s; unfold State.pushList
    split_ifs
    · exact ih s
    · exact Sends.trans (t := (s.setXp p { s.xp p with used := ((s.xp p).used + frameCredits x.f) % 256 }).wire p x.f) ⟨_, _, _, rfl⟩ (ih _)
    · exact Sends.refl s

theorem sendOn_sends (s : State) (p : PortNo) (f : LFrame) : Sends s (s.sendOn p f) := by
  unfold State.sendOn; dsimp only
  split_ifs
  · refine Sends.trans (t := s.setXp p { s.xp p with next := ((s.xp p).next + 1) % 65536, replay := (s.xp p).replay ++ [⟨{ f with lseq := (s.xp p).next }, false, 0, false⟩] }) ⟨_, _, _, rfl⟩ ?_
    unfold State.pushPort; dsimp only
    exact Sends.trans (pushList_sends p _ _) ⟨_, _, _, rfl⟩
  · exact Sends.refl s

theorem routePlain_sends (s : State) (f : LFrame) : Sends s (s.routePlain f) := by
  unfold State.routePlain
  split
  · unfold State.toSelf; split_ifs
    · exact ⟨s.out, s.xlk.ports, _, rfl⟩
    · exact ⟨_, s.xlk.ports, s.xlk.inbox, rfl⟩
  · exact sendOn_sends s _ f
  · exact Sends.refl s

theorem sendRsp_sends (s : State) (d g o r st : Nat) (b : List Byte) : Sends s (s.sendRsp d g o r st b) := routePlain_sends s _

theorem route_sends (s : State) (f : LFrame) : Sends s (s.route f) := by
  unfold State.route; dsimp only
  split_ifs
  · exact routePlain_sends s f
  · exact sendRsp_sends s ..
  · split
    · unfold State.toSelf; split_ifs
      · exact ⟨s.out, s.xlk.ports, _, rfl⟩
      · exact ⟨_, s.xlk.ports, s.xlk.inbox, rfl⟩
    · split_ifs
      · exact sendOn_sends s _ f
      · exact sendRsp_sends s ..
    · exact sendRsp_sends s ..

theorem sendRsps_sends (d g st : Nat) : ∀ (n : Nat) (s : State) (b : List Byte), Sends s (s.sendRsps d g st n b)
  | 0, s, _ => Sends.refl s
  | n + 1, s, b => by
    unfold State.sendRsps; dsimp only
    split_ifs
    · exact routePlain_sends s _
    · exact Sends.trans (routePlain_sends s _) (sendRsps_sends d g st n _ _)

/-! ### Replies (R51 to R60) -/

/-- `t` is `s` but for outputs, the sessions, the forwarded lines that wait, and the cascade link's ports and inbox. -/
def Answers (s t : State) : Prop :=
  ∃ o v r p b, t = { s with out := o, con := { s.con with ses := v, remotes := r }, xlk := { s.xlk with ports := p, inbox := b } }

theorem Answers.refl (s : State) : Answers s s := ⟨s.out, s.con.ses, s.con.remotes, s.xlk.ports, s.xlk.inbox, rfl⟩
theorem Answers.trans {s t u : State} (h : Answers s t) (g : Answers t u) : Answers s u := by
  obtain ⟨o, v, r, p, b, rfl⟩ := h
  obtain ⟨o', v', r', p', b', rfl⟩ := g
  exact ⟨o', v', r', p', b', rfl⟩
theorem Answers.out (s : State) (o : List Out) : Answers s { s with out := o } := ⟨o, s.con.ses, s.con.remotes, s.xlk.ports, s.xlk.inbox, rfl⟩
theorem Answers.ses (s : State) (n : Sid) (x : Session) : Answers s (s.setSes n x) := ⟨s.out, _, s.con.remotes, s.xlk.ports, s.xlk.inbox, rfl⟩
theorem Sends.answers {s t : State} (h : Sends s t) : Answers s t := by
  obtain ⟨o, p, b, rfl⟩ := h; exact ⟨o, s.con.ses, s.con.remotes, p, b, rfl⟩
theorem Tells.answers {s t : State} (h : Tells s t) : Answers s t := by
  obtain ⟨o, v, rfl, _⟩ := h; exact ⟨o, v, s.con.remotes, s.xlk.ports, s.xlk.inbox, rfl⟩

theorem prompt_answers (s : State) (n : Sid) : Answers s (s.prompt n) := by
  obtain ⟨o, h⟩ := prompt_frame s n; rw [h]; exact Answers.out s o
theorem sendLines_answers (s : State) (w : Who) (ls : List Line) : Answers s (s.sendLines w ls) := by
  obtain ⟨o, h⟩ := sendLines_frame ls w s; rw [h]; exact Answers.out s o
theorem sendEvent_answers (s : State) (n : Sid) (l : Line) : Answers s (s.sendEvent n l) := by
  unfold State.sendEvent; dsimp only
  split_ifs <;> exact Answers.out s _
theorem sendEvents_answers (n : Sid) (ls : List Line) : ∀ s : State, Answers s (ls.foldl (fun t l => t.sendEvent n l) s) := by
  induction ls with
  | nil => exact Answers.refl
  | cons l ls ih => exact fun s => (sendEvent_answers s n l).trans (ih _)
theorem flushEvents_answers (s : State) (n : Sid) : Answers s (s.flushEvents n) :=
  (Answers.ses s n _).trans (sendEvents_answers n _ _)
/-- RTS_N moves, or it does not. -/
theorem rtsFrom_answers (s was : State) (n : Sid) : Answers s (s.rtsFrom was n) := by
  unfold State.rtsFrom
  split
  · exact Answers.refl s
  · exact Answers.out s _
theorem answerFront_answers (n : Sid) (l : List WLine) : ∀ s : State, Answers s (s.answerFront n l) := by
  induction l with
  | nil => exact fun s => Answers.ses s n _
  | cons w ws ih =>
    intro s; unfold State.answerFront
    split
    · exact (Answers.out s _).trans ((prompt_answers _ n).trans (ih _))
    · exact (prompt_answers s n).trans (ih _)
    · exact Answers.ses s n _
theorem afterReply_answers (s : State) (n : Sid) : Answers s (s.afterReply n) := by
  unfold State.afterReply
  split_ifs
  · exact (prompt_answers s n).trans (flushEvents_answers _ n)
  · exact (flushEvents_answers s n).trans (prompt_answers _ n)
theorem lineDone_answers (s : State) (n : Sid) : Answers s (s.lineDone n) :=
  (afterReply_answers s n).trans ((answerFront_answers n _ _).trans (rtsFrom_answers _ s n))

/-- A reply changes nothing but outputs, sessions, waiting forwarded lines, and frames on the link. -/
theorem reply_answers (s : State) (ln : Ln) (c : List (List Item)) (b : Body) : Answers s (s.reply ln c b) := by
  unfold State.reply; dsimp only
  split
  · exact (sendLines_answers s _ _).trans (lineDone_answers _ _)
  · exact (sendRsps_sends _ _ _ _ s _).answers.trans ⟨_, _, _, _, _, rfl⟩

/-- A verb that only answers changes nothing but what a reply changes. -/
theorem verb_answers (s : State) (ln : Ln) (need : Level) (r : Bool) (e : Er) (i : List Item) : Answers s (s.verb ln need r (.er e i)) := by
  unfold State.verb; split_ifs
  · exact Answers.refl s
  all_goals exact reply_answers s ..
theorem verb_ok_answers (s : State) (ln : Ln) (need : Level) (r : Bool) (c : List (List Item)) (i : List Item) : Answers s (s.verb ln need r (.ok s c i)) := by
  unfold State.verb; split_ifs
  · exact Answers.refl s
  all_goals exact reply_answers s ..

end Sys2Proof.Machine
end

