-- ==== Sys2Proof/Laws/Sparse.lean ====
section
/-! SUPPORT. Sparse storage: what a read gives after a write, and that every operation keeps the canonical form. -/

namespace Sys2Proof.Machine

section
variable {α : Type} {d : Nat → α}

theorem sget_serase_same (l : List (Nat × α)) (k : Nat) : sget d (serase l k) k = d k := by
  induction l with
  | nil => rfl
  | cons p t ih =>
    obtain ⟨k', v⟩ := p
    simp only [serase]
    split
    · exact ih
    · rename_i h; simp [sget, h, ih]

theorem sget_serase_other {k j : Nat} (h : j ≠ k) (l : List (Nat × α)) : sget d (serase l k) j = sget d l j := by
  induction l with
  | nil => rfl
  | cons p t ih =>
    obtain ⟨k', v⟩ := p
    simp only [serase]
    split
    · rename_i hk; subst hk; simp [sget, h, ih]
    · simp [sget, ih]

theorem sget_sinsert_same (l : List (Nat × α)) (k : Nat) (v : α) : sget d (sinsert l k v) k = v := by
  induction l with
  | nil => simp [sinsert, sget]
  | cons p t ih =>
    obtain ⟨k', v'⟩ := p
    simp only [sinsert]
    split
    · simp [sget]
    · split
      · simp [sget]
      · rename_i h; simp [sget, h, ih]

theorem sget_sinsert_other {k j : Nat} (h : j ≠ k) (l : List (Nat × α)) (v : α) : sget d (sinsert l k v) j = sget d l j := by
  induction l with
  | nil => simp [sinsert, sget, h]
  | cons p t ih =>
    obtain ⟨k', v'⟩ := p
    simp only [sinsert]
    split
    · simp [sget, h]
    · split
      · rename_i hk; subst hk; simp [sget, h]
      · simp [sget, ih]

/-- A read of the key just written gives the value written. -/
theorem sget_sset_same [DecidableEq α] (l : List (Nat × α)) (k : Nat) (v : α) : sget d (sset d l k v) k = v := by
  unfold sset
  split
  · rename_i h; rw [sget_serase_same, h]
  · exact sget_sinsert_same l k v

/-- A write leaves every other key alone. -/
theorem sget_sset_other [DecidableEq α] {k j : Nat} (h : j ≠ k) (l : List (Nat × α)) (v : α) : sget d (sset d l k v) j = sget d l j := by
  unfold sset
  split
  · exact sget_serase_other h l
  · exact sget_sinsert_other h l v

/-- Every key of a canonical list's tail lies above its head. -/
theorem swf_tail_above [DecidableEq α] {k : Nat} {v : α} {t : List (Nat × α)} (h : swf d ((k, v) :: t) = true) : ∀ p ∈ t, k < p.1 := by
  induction t generalizing k v with
  | nil => simp
  | cons q t ih =>
    obtain ⟨k', v'⟩ := q
    simp only [swf, sbelow, Bool.and_eq_true, decide_eq_true_eq] at h
    obtain ⟨⟨_, hk⟩, h2⟩ := h
    intro p hp
    rcases List.mem_cons.mp hp with rfl | hp
    · exact hk
    · exact lt_trans hk (ih (k := k') (v := v') (by simpa [swf, sbelow] using h2) p hp)

theorem sbelow_of_above {k : Nat} {l : List (Nat × α)} (h : ∀ p ∈ l, k < p.1) : sbelow k l = true := by
  cases l with
  | nil => rfl
  | cons p t => simpa [sbelow] using h p (by simp)

/-- The canonical form in one line: keys strictly rising, no pair at its default. -/
theorem swf_iff [DecidableEq α] (l : List (Nat × α)) : swf d l = true ↔ l.Pairwise (fun p q => p.1 < q.1) ∧ ∀ p ∈ l, p.2 ≠ d p.1 := by
  induction l with
  | nil => simp [swf]
  | cons p t ih =>
    obtain ⟨k, v⟩ := p
    constructor
    · intro h
      have ha := swf_tail_above h
      simp only [swf, Bool.and_eq_true, decide_eq_true_eq] at h
      obtain ⟨hp, hd⟩ := ih.mp h.2
      exact ⟨List.pairwise_cons.mpr ⟨ha, hp⟩, by simpa using ⟨h.1.1, fun a b m => hd (a, b) m⟩⟩
    · rintro ⟨hp, hd⟩
      obtain ⟨ha, hp⟩ := List.pairwise_cons.mp hp
      simp only [swf, Bool.and_eq_true, decide_eq_true_eq]
      exact ⟨⟨hd (k, v) (by simp), sbelow_of_above ha⟩, ih.mpr ⟨hp, fun p m => hd p (by simp [m])⟩⟩

theorem serase_sublist (l : List (Nat × α)) (k : Nat) : (serase l k).Sublist l := by
  induction l with
  | nil => exact List.Sublist.refl _
  | cons p t ih =>
    obtain ⟨k', v⟩ := p
    simp only [serase]
    split
    · exact ih.cons _
    · exact ih.cons_cons _

/-- Taking pairs out keeps the canonical form. -/
theorem swf_sublist [DecidableEq α] {l m : List (Nat × α)} (h : m.Sublist l) (hl : swf d l = true) : swf d m = true := by
  rw [swf_iff] at hl ⊢
  exact ⟨hl.1.sublist h, fun p m => hl.2 p (h.subset m)⟩

theorem sclear_sublist (lo hi : Nat) (l : List (Nat × α)) : (sclear lo hi l).Sublist l := by
  induction l with
  | nil => exact List.Sublist.refl _
  | cons p t ih =>
    obtain ⟨k', v⟩ := p
    simp only [sclear]
    split
    · exact ih.cons _
    · exact ih.cons_cons _

theorem swf_sclear [DecidableEq α] (lo hi : Nat) {l : List (Nat × α)} (h : swf d l = true) : swf d (sclear lo hi l) = true :=
  swf_sublist (sclear_sublist lo hi l) h

theorem mem_sinsert {l : List (Nat × α)} {k : Nat} {v : α} {p : Nat × α} (h : p ∈ sinsert l k v) : p = (k, v) ∨ p ∈ l := by
  induction l with
  | nil => simpa [sinsert] using h
  | cons q t ih =>
    obtain ⟨k', v'⟩ := q
    simp only [sinsert] at h
    split at h
    · simpa using h
    · split at h
      · rcases List.mem_cons.mp h with h | h <;> simp [h]
      · rcases List.mem_cons.mp h with h | h
        · simp [h]
        · rcases ih h with h | h <;> simp [h]

theorem swf_sinsert [DecidableEq α] {l : List (Nat × α)} {k : Nat} {v : α} (hv : v ≠ d k) (h : swf d l = true) : swf d (sinsert l k v) = true := by
  rw [swf_iff] at h ⊢
  obtain ⟨hp, hd⟩ := h
  refine ⟨?_, fun p m => ?_⟩
  · clear hd
    induction l with
    | nil => simp [sinsert]
    | cons q t ih =>
      obtain ⟨k', v'⟩ := q
      obtain ⟨ha, hp'⟩ := List.pairwise_cons.mp hp
      simp only [sinsert]
      split
      · rename_i hk
        refine List.pairwise_cons.mpr ⟨fun p m => ?_, hp⟩
        rcases List.mem_cons.mp m with rfl | m
        · exact hk
        · exact lt_trans hk (ha p m)
      · split
        · rename_i hk; subst hk
          exact List.pairwise_cons.mpr ⟨ha, hp'⟩
        · rename_i h1 h2
          refine List.pairwise_cons.mpr ⟨fun p m => ?_, ih hp'⟩
          rcases mem_sinsert m with rfl | m
          · show k' < k; omega
          · exact ha p m
  · rcases mem_sinsert m with rfl | m
    · exact hv
    · exact hd p m

/-- A write keeps the canonical form. -/
theorem swf_sset [DecidableEq α] {l : List (Nat × α)} (k : Nat) (v : α) (h : swf d l = true) : swf d (sset d l k v) = true := by
  unfold sset
  split
  · exact swf_sublist (serase_sublist l k) h
  · rename_i hv; exact swf_sinsert hv h

end

/-! ### Memories of bytes -/

theorem mget_mset_same (m : List (Nat × Byte)) (a : Nat) (b : Byte) : mget (mset m a b) a = b := sget_sset_same m a b

theorem mget_mset_other {a c : Nat} (h : c ≠ a) (m : List (Nat × Byte)) (b : Byte) : mget (mset m a b) c = mget m c := sget_sset_other h m b

theorem wf_mset {m : List (Nat × Byte)} (a : Nat) (b : Byte) (h : Memory.wf m = true) : Memory.wf (mset m a b) = true := swf_sset a b h

theorem wf_msetL {m : List (Nat × Byte)} (a : Nat) (l : List Byte) (h : Memory.wf m = true) : Memory.wf (msetL m a l) = true := by
  induction l generalizing m a with
  | nil => exact h
  | cons b bs ih => exact ih (a + 1) (wf_mset a b h)

/-- A write of bytes leaves everything outside its range alone. -/
theorem mget_msetL_other {a c : Nat} (l : List Byte) (m : List (Nat × Byte)) (h : c < a ∨ a + l.length ≤ c) : mget (msetL m a l) c = mget m c := by
  induction l generalizing m a with
  | nil => rfl
  | cons b bs ih =>
    simp only [List.length_cons] at h
    rw [msetL, ih (mset m a b) (by omega), mget_mset_other (by omega)]

/-- Bytes just written read back. -/
theorem mgetN_msetL (l : List Byte) (m : List (Nat × Byte)) (a : Nat) : mgetN (msetL m a l) a l.length = l := by
  induction l generalizing m a with
  | nil => rfl
  | cons b bs ih =>
    rw [msetL, List.length_cons, mgetN, ih, mget_msetL_other bs _ (by omega), mget_mset_same]

theorem wf_filter {m : List (Nat × Byte)} (f : Nat × Byte → Bool) (h : Memory.wf m = true) : Memory.wf (m.filter f) = true :=
  swf_sublist List.filter_sublist h

theorem wf_writePages {m : List (Nat × Byte)} (ps : List Nat) (bs : List Byte) (h : Memory.wf m = true) : Memory.wf (writePages m ps bs) = true := by
  induction ps generalizing m bs with
  | nil => exact h
  | cons p ps ih => exact ih _ (wf_msetL _ _ h)

end Sys2Proof.Machine
end

