-- ==== Sys2Proof/Laws/Keeps.lean ====
section
/-! SUPPORT. `Keeps q s`: the machine's invariant holds of `s` and `q` is its queue. Every operation of the model carries it from the state it takes to
the state it gives; the files Laws/Keeps… say so once for each. -/

namespace Sys2Proof.Machine

/-- The queue of commands is `q`, and the invariant of the machine holds. -/
structure Keeps (q : List Instr) (s : State) : Prop where
  pending : s.pending = q
  regs : swf RegMap.resetWord s.regs = true
  tank : Memory.wf s.tank = true
  spd : Memory.wf s.spd.mem = true
  ret : Memory.wf s.pw.ret = true
  pages : ∀ p ∈ s.tnk.used, p < pageCount
  nodup : s.tnk.used.Nodup
  log : s.err.recs.length ≤ logMax
  evq : ∀ n : Sid, (s.con.ses[n]).evq.length ≤ evMax

/-- An outcome is a next state, and it keeps the same. -/
def KeepsO (q : List Instr) (o : Host.Outcome State Fault Refusal) : Prop := ∃ t, o = .next t ∧ Keeps q t
/-- The same of the state a register write gives. -/
def KeepsW (q : List Instr) (w : WRes) : Prop := ∀ t, w = .ok t → Keeps q t
/-- The same of the states a verb's work gives. -/
def KeepsA (q : List Instr) (a : Ans) : Prop := (∀ t c f, a = .ok t c f → Keeps q t) ∧ ∀ t e, a = .fail t e → Keeps q t

theorem Keeps.inv {q : List Instr} {s : State} (h : Keeps q s) : s.inv = true := by
  simp only [State.inv, State.canon, State.pagesOk, State.logOk, State.eventsOk, State.ses, Bool.and_eq_true, List.all_eq_true, decide_eq_true_eq]
  exact ⟨⟨⟨⟨⟨⟨h.regs, h.tank⟩, h.spd⟩, h.ret⟩, h.pages, h.nodup⟩, h.log⟩, fun n _ => decide_eq_true (h.evq n)⟩

theorem Keeps.of_inv {s : State} (h : s.inv = true) : Keeps s.pending s := by
  simp only [State.inv, State.canon, State.pagesOk, State.logOk, State.eventsOk, State.ses, Bool.and_eq_true, List.all_eq_true, decide_eq_true_eq] at h
  obtain ⟨⟨⟨⟨⟨⟨h1, h2⟩, h3⟩, h4⟩, h5, h6⟩, h7⟩, h8⟩ := h
  exact ⟨rfl, h1, h2, h3, h4, h5, h6, h7, fun n => of_decide_eq_true (h8 n (List.mem_finRange n))⟩

/-- An update that touches none of the parts the invariant speaks of. -/
theorem Keeps.upd {q : List Instr} {s t : State} (hp : t.pending = s.pending) (hr : t.regs = s.regs) (ht : t.tank = s.tank) (hs : t.spd.mem = s.spd.mem)
    (hw : t.pw.ret = s.pw.ret) (hu : t.tnk.used = s.tnk.used) (he : t.err = s.err) (hc : t.con.ses = s.con.ses) (h : Keeps q s) : Keeps q t := by
  constructor
  · rw [hp]; exact h.pending
  · rw [hr]; exact h.regs
  · rw [ht]; exact h.tank
  · rw [hs]; exact h.spd
  · rw [hw]; exact h.ret
  · rw [hu]; exact h.pages
  · rw [hu]; exact h.nodup
  · rw [he]; exact h.log
  · rw [hc]; exact h.evq

/-- The same with the update written out: what a record update of the state unfolds to. -/
theorem keeps_mk {q : List Instr} {s : State} {pending out xc flow balls freeCtr us regs wlatch rlatch con arb err boot cart mot pwr pw hif eth qmg pool sch tank tnk spd fixer dump jrn cdc fmt sec tape prf rch mdr srv cle xlk} (hp : pending = s.pending) (hr : regs = s.regs) (ht : tank = s.tank) (hs : spd.mem = s.spd.mem)
    (hw : pw.ret = s.pw.ret) (hu : tnk.used = s.tnk.used) (he : err = s.err) (hc : con.ses = s.con.ses) (h : Keeps q s) :
    Keeps q (State.mk pending out xc flow balls freeCtr us regs wlatch rlatch con arb err boot cart mot pwr pw hif eth qmg pool sch tank tnk spd fixer dump jrn cdc fmt sec tape prf rch mdr srv cle xlk) :=
  Keeps.upd hp hr ht hs hw hu he hc h

theorem keepsO_next {q : List Instr} {s : State} (h : Keeps q s) : KeepsO q (.next s) := ⟨s, rfl, h⟩
theorem keepsO_ite {q : List Instr} {c : Prop} [Decidable c] {a b : Host.Outcome State Fault Refusal} (ha : c → KeepsO q a) (hb : ¬c → KeepsO q b) : KeepsO q (if c then a else b) := by
  split
  · exact ha ‹_›
  · exact hb ‹_›
theorem keeps_ite {q : List Instr} {c : Prop} [Decidable c] {a b : State} (ha : c → Keeps q a) (hb : ¬c → Keeps q b) : Keeps q (if c then a else b) := by
  split
  · exact ha ‹_›
  · exact hb ‹_›
theorem keepsW_ite {q : List Instr} {c : Prop} [Decidable c] {a b : WRes} (ha : c → KeepsW q a) (hb : ¬c → KeepsW q b) : KeepsW q (if c then a else b) := by
  split
  · exact ha ‹_›
  · exact hb ‹_›
theorem keepsA_ite {q : List Instr} {c : Prop} [Decidable c] {a b : Ans} (ha : c → KeepsA q a) (hb : ¬c → KeepsA q b) : KeepsA q (if c then a else b) := by
  split
  · exact ha ‹_›
  · exact hb ‹_›
theorem keeps_fst_ite {q : List Instr} {β : Type} {c : Prop} [Decidable c] {a b : State × β} (ha : c → Keeps q a.1) (hb : ¬c → Keeps q b.1) : Keeps q (if c then a else b).1 := by
  split
  · exact ha ‹_›
  · exact hb ‹_›
theorem keepsW_ok {q : List Instr} {s : State} (h : Keeps q s) : KeepsW q (.ok s) := by
  intro t e; cases e; exact h
theorem keepsW_refuse {q : List Instr} {e : Er} {r : Option ErrRec} : KeepsW q (.refuse e r) := by
  intro t h; cases h
theorem keepsA_ok {q : List Instr} {s : State} {c : List (List Item)} {f : List Item} (h : Keeps q s) : KeepsA q (.ok s c f) :=
  ⟨fun _ _ _ x => (by cases x; exact h), fun _ _ x => (nomatch x)⟩
theorem keepsA_er {q : List Instr} {e : Er} {i : List Item} : KeepsA q (.er e i) := ⟨fun _ _ _ x => (nomatch x), fun _ _ x => (nomatch x)⟩
theorem keepsA_fail {q : List Instr} {s : State} {e : Er} (h : Keeps q s) : KeepsA q (.fail s e) :=
  ⟨fun _ _ _ x => (nomatch x), fun _ _ x => (by cases x; exact h)⟩
/-- The state in a pair that an operation answered. -/
theorem keeps_fst {q : List Instr} {β : Type} {p : State × β} {t : State} {y : β} (e : p = (t, y)) (h : Keeps q p.1) : Keeps q t := by
  rw [e] at h; exact h
theorem keeps_snd {q : List Instr} {β : Type} {p : β × State} {t : State} {y : β} (e : p = (y, t)) (h : Keeps q p.2) : Keeps q t := by
  rw [e] at h; exact h
theorem keepsW_get {q : List Instr} {w : WRes} {t : State} (e : w = .ok t) (h : KeepsW q w) : Keeps q t := h t e
theorem keepsO_get {q : List Instr} {o : Host.Outcome State Fault Refusal} {t : State} (e : o = .next t) (h : KeepsO q o) : Keeps q t := by
  obtain ⟨u, hu, h⟩ := h
  rw [e] at hu; cases hu; exact h
theorem keepsA_ok_get {q : List Instr} {a : Ans} {t : State} {c : List (List Item)} {f : List Item} (e : a = .ok t c f) (h : KeepsA q a) : Keeps q t := h.1 t c f e
theorem keepsA_fail_get {q : List Instr} {a : Ans} {t : State} {x : Er} (e : a = .fail t x) (h : KeepsA q a) : Keeps q t := h.2 t x e
theorem keeps_foldl {q : List Instr} {α : Type} {f : State → α → State} (hf : ∀ s x, Keeps q s → Keeps q (f s x)) (l : List α) {s : State} (h : Keeps q s) : Keeps q (l.foldl f s) := by
  induction l generalizing s with
  | nil => exact h
  | cons x xs ih => exact ih (hf s x h)

/-! ### The primitive operations -/

theorem keep_wr {q : List Instr} {s : State} (off : Nat) (w : Word) (h : Keeps q s) : Keeps q (s.wr off w) :=
  { h with regs := swf_sset _ _ h.regs }

theorem keep_resetRange {q : List Instr} {s : State} (lo hi : Nat) (h : Keeps q s) : Keeps q (s.resetRange lo hi) :=
  { h with regs := swf_sclear _ _ h.regs }

theorem keep_setTank {q : List Instr} {s : State} {m : List (Nat × Byte)} (hm : Memory.wf m = true) (h : Keeps q s) : Keeps q { s with tank := m } :=
  { h with tank := hm }

theorem set_evq {v : Vector Session 6} {n : Sid} {x : Session} (hx : x.evq.length ≤ evMax) (hv : ∀ k : Sid, (v[k]).evq.length ≤ evMax) (k : Sid) :
    ((v.set n x)[k]).evq.length ≤ evMax := by
  have := hv k
  by_cases hk : n.val = k.val <;> simp_all

/-- No session exists after a reset. -/
theorem reset_evq (n : Sid) : (Console.reset.ses[n]).evq.length ≤ evMax := by
  simp [Console.reset, Session.closed]

theorem keep_setSes {q : List Instr} {s : State} (n : Sid) (x : Session) (hx : x.evq.length ≤ evMax) (h : Keeps q s) : Keeps q (s.setSes n x) :=
  { h with evq := set_evq hx h.evq }

/-- A session's event queue as the invariant bounds it. -/
theorem keeps_evq {q : List Instr} {s : State} {n : Sid} (h : Keeps q s) : (s.ses n).evq.length ≤ evMax := h.evq n

theorem queueEvent_evq {t : Nat} {x : Session} {l : Line} (h : x.evq.length ≤ evMax) : (queueEvent t x l).evq.length ≤ evMax := by
  unfold queueEvent
  split
  · split
    · simp only [List.length_append, List.length_cons, List.length_nil]; omega
    · exact h
  · split
    · simp only [List.length_append, List.length_cons, List.length_nil]; omega
    · exact h

theorem keep_clearLog {q : List Instr} {s : State} (h : Keeps q s) : Keeps q s.clearLog :=
  { h with log := by simp only [State.clearLog, List.length_take]; exact le_trans (min_le_right _ _) h.log }

theorem keep_putErr {q : List Instr} {s : State} (t : Nat) (r : ErrRec) (h : Keeps q s) : Keeps q { s with err := s.err.put t r } :=
  { h with log := by simp [ErrLog.put] }

end Sys2Proof.Machine
end

