-- ==== Sys2Proof/Laws/KeepsOps.lean ====
section
/-! SUPPORT. Every operation of Machine/Ops.lean keeps the machine's invariant and its queue. -/

namespace Sys2Proof.Machine

theorem keep_setF {cs : List Instr} {s : State} (f : Fld) (v : Nat) (hk : Keeps cs s) :
    Keeps cs (State.setF s f v) := by
  unfold State.setF
  try dsimp only
  repeat' (first | with_reducible assumption | with_reducible apply keep_wr)

theorem keep_count {cs : List Instr} {s : State} (f : Fld) (n : Nat) (hk : Keeps cs s) :
    Keeps cs (State.count s f n) := by
  unfold State.count
  try dsimp only
  repeat' (first | with_reducible assumption | with_reducible apply keep_setF)

theorem keep_wr64 {cs : List Instr} {s : State} (off : Nat) (v : Nat) (hk : Keeps cs s) :
    Keeps cs (State.wr64 s off v) := by
  unfold State.wr64
  try dsimp only
  repeat' (first | with_reducible assumption | with_reducible apply keep_wr)

theorem keep_tookBytes {cs : List Instr} {s : State} (n : Nat) (hk : Keeps cs s) :
    Keeps cs (State.tookBytes s n) := by
  unfold State.tookBytes
  try dsimp only
  repeat' (first | with_reducible assumption | with_reducible apply keeps_ite | with_reducible intro _ | refine keeps_mk rfl rfl rfl rfl rfl rfl rfl rfl ?_)

theorem keep_gaveBytes {cs : List Instr} {s : State} (n : Nat) (hk : Keeps cs s) :
    Keeps cs (State.gaveBytes s n) := by
  unfold State.gaveBytes
  try dsimp only
  repeat' (first | with_reducible assumption | with_reducible apply keeps_ite | with_reducible intro _ | refine keeps_mk rfl rfl rfl rfl rfl rfl rfl rfl ?_)

theorem keep_madeBlock {cs : List Instr} {s : State} (bytes : Nat) (raw : Nat) (hk : Keeps cs s) :
    Keeps cs (State.madeBlock s bytes raw) := by
  unfold State.madeBlock
  try dsimp only
  repeat' (first | with_reducible assumption | with_reducible apply keeps_ite | with_reducible intro _ | refine keeps_mk rfl rfl rfl rfl rfl rfl rfl rfl ?_)

theorem keep_emit {cs : List Instr} {s : State} (o : Out) (hk : Keeps cs s) :
    Keeps cs (State.emit s o) := by
  unfold State.emit
  try dsimp only
  repeat' (first | with_reducible assumption | with_reducible apply keeps_ite | with_reducible intro _ | refine keeps_mk rfl rfl rfl rfl rfl rfl rfl rfl ?_)

theorem keep_clkFree {cs : List Instr} {s : State} (c : Clk) (hk : Keeps cs s) :
    Keeps cs (State.clkFree s c) := by
  unfold State.clkFree
  try dsimp only
  repeat' (first | with_reducible assumption | with_reducible apply keeps_ite | with_reducible intro _ | refine keeps_mk rfl rfl rfl rfl rfl rfl rfl rfl ?_)

theorem keep_flush {cs : List Instr} {s : State} (clks : List Clk) (hk : Keeps cs s) :
    Keeps cs (State.flush s clks) := by
  unfold State.flush
  try dsimp only
  repeat' (first | with_reducible assumption | with_reducible apply keeps_ite | with_reducible apply keeps_fst_ite | with_reducible intro _ | refine keeps_mk rfl rfl rfl rfl rfl rfl rfl rfl ?_)

theorem keep_clkBack {cs : List Instr} {s : State} (c : Clk) (hk : Keeps cs s) :
    Keeps cs (State.clkBack s c) := by
  unfold State.clkBack
  try dsimp only
  repeat' (first | with_reducible assumption | with_reducible apply keep_clkFree | with_reducible apply keep_setF | with_reducible apply keeps_ite | with_reducible intro _ | refine keeps_mk rfl rfl rfl rfl rfl rfl rfl rfl ?_)

theorem keep_edge {cs : List Instr} {s : State} (b : Bool) (w : Wake) (hk : Keeps cs s) :
    Keeps cs (State.edge s b w) := by
  unfold State.edge
  try dsimp only
  repeat' (first | with_reducible assumption | with_reducible apply keeps_ite | with_reducible intro _ | refine keeps_mk rfl rfl rfl rfl rfl rfl rfl rfl ?_)

theorem keep_draw {cs : List Instr} {s : State}  (hk : Keeps cs s) :
    Keeps cs (State.draw s) := by
  unfold State.draw
  try dsimp only
  repeat' (first | with_reducible assumption | refine keeps_mk rfl rfl rfl rfl rfl rfl rfl rfl ?_)

theorem keep_setFn {cs : List Instr} {s : State} (f : Fn) (hk : Keeps cs s) :
    Keeps cs (State.setFn s f) := by
  unfold State.setFn
  try dsimp only
  repeat' (first | with_reducible assumption | refine keeps_mk rfl rfl rfl rfl rfl rfl rfl rfl ?_)

theorem keep_signal {cs : List Instr} {s : State} (t : Tenant) (v : Nat) (hk : Keeps cs s) :
    Keeps cs (State.signal s t v) := by
  unfold State.signal
  try dsimp only
  repeat' (first | with_reducible assumption | with_reducible apply keep_emit | with_reducible apply keep_setFn | with_reducible apply keepsO_next | with_reducible apply keeps_ite | with_reducible apply keepsO_ite | with_reducible apply keepsW_ite | with_reducible apply keepsA_ite | with_reducible apply keeps_fst_ite | with_reducible apply keepsW_ok | exact keepsW_refuse | with_reducible apply keepsA_ok | exact keepsA_er | with_reducible apply keepsA_fail | with_reducible apply keeps_foldl | with_reducible intro _ | refine keeps_fst (by with_reducible assumption) ?_ | refine keeps_snd (by with_reducible assumption) ?_ | refine keepsW_get (by with_reducible assumption) ?_ | refine keepsO_get (by with_reducible assumption) ?_ | exact keepsO_get rfl (by with_reducible assumption) | exact keepsW_get rfl (by with_reducible assumption) | exact keepsA_ok_get rfl (by with_reducible assumption) | exact keepsA_fail_get rfl (by with_reducible assumption) | with_reducible apply keep_putErr | exact keeps_evq (by with_reducible assumption) | exact Keeps.evq hk _ | refine keeps_evq (cs := cs) ?_ | with_reducible apply queueEvent_evq | exact Nat.zero_le _ | split | refine keeps_mk rfl rfl rfl rfl rfl rfl rfl rfl ?_)

theorem keep_poolClear {cs : List Instr} {s : State} (p : Nat) (hk : Keeps cs s) :
    Keeps cs (State.poolClear s p) := by
  unfold State.poolClear
  try dsimp only
  repeat' (first | with_reducible assumption | refine keeps_mk rfl rfl rfl rfl rfl rfl rfl rfl ?_)

theorem keep_vecEvent {cs : List Instr} {s : State} (t : Tenant) (v : Nat) (aborted : Bool) (hk : Keeps cs s) :
    Keeps cs (State.vecEvent s t v aborted) := by
  unfold State.vecEvent
  try dsimp only
  repeat' (first | with_reducible assumption | with_reducible apply keep_poolClear | with_reducible apply keep_signal | with_reducible apply keeps_ite | with_reducible intro _ | refine keeps_mk rfl rfl rfl rfl rfl rfl rfl rfl ?_)

theorem keep_cause {cs : List Instr} {s : State} (b : Nat) (hk : Keeps cs s) :
    Keeps cs (State.cause s b) := by
  unfold State.cause
  try dsimp only
  repeat' (first | with_reducible assumption | with_reducible apply keep_setF | with_reducible apply keep_vecEvent | with_reducible apply keeps_ite | with_reducible intro _)

theorem keep_echoTo {cs : List Instr} {s : State} (n : Sid) (t : List Char) (hk : Keeps cs s) :
    Keeps cs (State.echoTo s n t) := by
  unfold State.echoTo
  try dsimp only
  repeat' (first | with_reducible assumption | with_reducible apply keep_emit | with_reducible apply keeps_ite | with_reducible intro _)

theorem keep_prompt {cs : List Instr} {s : State} (n : Sid) (hk : Keeps cs s) :
    Keeps cs (State.prompt s n) := by
  unfold State.prompt
  try dsimp only
  repeat' (first | with_reducible assumption | with_reducible apply keep_echoTo)

theorem keep_sendEvent {cs : List Instr} {s : State} (n : Sid) (l : Line) (hk : Keeps cs s) :
    Keeps cs (State.sendEvent s n l) := by
  unfold State.sendEvent
  try dsimp only
  repeat' (first | with_reducible assumption | with_reducible apply keep_emit | with_reducible apply keeps_ite | with_reducible intro _)

theorem keep_event {cs : List Instr} {s : State} (n : Sid) (name : String) (tag : List Char) (items : List Item) (hk : Keeps cs s) :
    Keeps cs (State.event s n name tag items) := by
  unfold State.event
  try dsimp only
  repeat' (first | with_reducible assumption | with_reducible apply keep_sendEvent | with_reducible apply keep_setSes | with_reducible apply keeps_ite | with_reducible intro _ | exact keeps_evq (by with_reducible assumption) | exact Keeps.evq hk _ | refine keeps_evq (cs := cs) ?_ | with_reducible apply queueEvent_evq | exact Nat.zero_le _)

theorem keep_eventAll {cs : List Instr} {s : State} (name : String) (items : List Item) (hk : Keeps cs s) :
    Keeps cs (State.eventAll s name items) := by
  unfold State.eventAll
  try dsimp only
  repeat' (first | with_reducible assumption | with_reducible apply keep_event)

theorem keep_log {cs : List Instr} {s : State} (r : ErrRec) (hk : Keeps cs s) :
    Keeps cs (State.log s r) := by
  unfold State.log
  try dsimp only
  repeat' (first | with_reducible assumption | with_reducible apply keep_cause | with_reducible apply keep_eventAll | with_reducible apply keep_putErr | refine keeps_mk rfl rfl rfl rfl rfl rfl rfl rfl ?_)

theorem keep_setXp {cs : List Instr} {s : State} (p : PortNo) (x : XPort) (hk : Keeps cs s) :
    Keeps cs (State.setXp s p x) := by
  unfold State.setXp
  try dsimp only
  repeat' (first | with_reducible assumption | refine keeps_mk rfl rfl rfl rfl rfl rfl rfl rfl ?_)

theorem keep_wire {cs : List Instr} {s : State} (p : PortNo) (f : LFrame) (hk : Keeps cs s) :
    Keeps cs (State.wire s p f) := by
  unfold State.wire
  try dsimp only
  repeat' (first | with_reducible assumption | with_reducible apply keep_emit | with_reducible apply keeps_ite | with_reducible intro _ | refine keeps_mk rfl rfl rfl rfl rfl rfl rfl rfl ?_)

theorem keep_pushList {cs : List Instr} {s : State} (p : PortNo) (y1 : List Sent) (hk : Keeps cs s) :
    Keeps cs (State.pushList s p y1).1 := by
  induction y1 generalizing s p with
  | nil =>
    unfold State.pushList; try dsimp only
    repeat' (first | with_reducible assumption | with_reducible apply ih | with_reducible apply keep_setXp | with_reducible apply keep_wire | with_reducible apply keeps_ite | with_reducible apply keeps_fst_ite | with_reducible intro _ | refine keeps_fst (by with_reducible assumption) ?_ | refine keeps_snd (by with_reducible assumption) ?_ | split | refine keeps_mk rfl rfl rfl rfl rfl rfl rfl rfl ?_)
  | cons a l ih =>
    unfold State.pushList; try dsimp only
    repeat' (first | with_reducible assumption | with_reducible apply ih | with_reducible apply keep_setXp | with_reducible apply keep_wire | with_reducible apply keeps_ite | with_reducible apply keeps_fst_ite | with_reducible intro _ | refine keeps_fst (by with_reducible assumption) ?_ | refine keeps_snd (by with_reducible assumption) ?_ | split | refine keeps_mk rfl rfl rfl rfl rfl rfl rfl rfl ?_)

theorem keep_pushPort {cs : List Instr} {s : State} (p : PortNo) (hk : Keeps cs s) :
    Keeps cs (State.pushPort s p) := by
  unfold State.pushPort
  try dsimp only
  repeat' (first | with_reducible assumption | with_reducible apply keep_pushList | with_reducible apply keep_setXp | refine keeps_fst (by with_reducible assumption) ?_ | refine keeps_snd (by with_reducible assumption) ?_ | split | refine keeps_mk rfl rfl rfl rfl rfl rfl rfl rfl ?_)

theorem keep_sendOn {cs : List Instr} {s : State} (p : PortNo) (f : LFrame) (hk : Keeps cs s) :
    Keeps cs (State.sendOn s p f) := by
  unfold State.sendOn
  try dsimp only
  repeat' (first | with_reducible assumption | with_reducible apply keep_pushPort | with_reducible apply keep_setXp | with_reducible apply keeps_ite | with_reducible intro _ | refine keeps_mk rfl rfl rfl rfl rfl rfl rfl rfl ?_)

theorem keep_sendHop {cs : List Instr} {s : State} (p : PortNo) (ty : Nat) (payload : List Byte) (hk : Keeps cs s) :
    Keeps cs (State.sendHop s p ty payload) := by
  unfold State.sendHop
  try dsimp only
  repeat' (first | with_reducible assumption | with_reducible apply keep_sendOn | refine keeps_mk rfl rfl rfl rfl rfl rfl rfl rfl ?_)

theorem keep_sendLend {cs : List Instr} {s : State} (p : PortNo) (op : Nat) (handle : Nat) (off : Nat) (data : List Byte) (hk : Keeps cs s) :
    Keeps cs (State.sendLend s p op handle off data) := by
  unfold State.sendLend
  try dsimp only
  repeat' (first | with_reducible assumption | with_reducible apply keep_sendHop | with_reducible apply keeps_ite | with_reducible intro _ | refine keeps_mk rfl rfl rfl rfl rfl rfl rfl rfl ?_)

theorem keep_sendDown {cs : List Instr} {s : State} (f : LFrame) (hk : Keeps cs s) :
    Keeps cs (State.sendDown s f) := by
  unfold State.sendDown
  try dsimp only
  repeat' (first | with_reducible assumption | with_reducible apply keep_sendOn)

theorem keep_toSelf {cs : List Instr} {s : State} (f : LFrame) (hk : Keeps cs s) :
    Keeps cs (State.toSelf s f) := by
  unfold State.toSelf
  try dsimp only
  repeat' (first | with_reducible assumption | with_reducible apply keep_emit | with_reducible apply keeps_ite | with_reducible intro _ | refine keeps_mk rfl rfl rfl rfl rfl rfl rfl rfl ?_)

theorem keep_routePlain {cs : List Instr} {s : State} (f : LFrame) (hk : Keeps cs s) :
    Keeps cs (State.routePlain s f) := by
  unfold State.routePlain
  try dsimp only
  repeat' (first | with_reducible assumption | with_reducible apply keep_sendOn | with_reducible apply keep_toSelf | refine keeps_fst (by with_reducible assumption) ?_ | refine keeps_snd (by with_reducible assumption) ?_ | split | refine keeps_mk rfl rfl rfl rfl rfl rfl rfl rfl ?_)

theorem keep_sendRsp {cs : List Instr} {s : State} (dst : Nat) (tag : Nat) (op : Nat) (result : Nat) (status : Nat) (data : List Byte) (hk : Keeps cs s) :
    Keeps cs (State.sendRsp s dst tag op result status data) := by
  unfold State.sendRsp
  try dsimp only
  repeat' (first | with_reducible assumption | with_reducible apply keep_routePlain)

theorem keep_route {cs : List Instr} {s : State} (f : LFrame) (hk : Keeps cs s) :
    Keeps cs (State.route s f) := by
  unfold State.route
  try dsimp only
  repeat' (first | with_reducible assumption | with_reducible apply keep_routePlain | with_reducible apply keep_sendOn | with_reducible apply keep_sendRsp | with_reducible apply keep_toSelf | with_reducible apply keeps_ite | with_reducible intro _ | refine keeps_fst (by with_reducible assumption) ?_ | refine keeps_snd (by with_reducible assumption) ?_ | split | refine keeps_mk rfl rfl rfl rfl rfl rfl rfl rfl ?_)

theorem keep_sendRsps {cs : List Instr} {s : State} (dst : Nat) (tag : Nat) (status : Nat) (y1 : Nat) (y2 : List Byte) (hk : Keeps cs s) :
    Keeps cs (State.sendRsps s dst tag status y1 y2) := by
  induction y1 generalizing s dst tag status y2 with
  | zero =>
    unfold State.sendRsps; try dsimp only
    repeat' (first | with_reducible assumption | with_reducible apply ih | with_reducible apply keep_routePlain | with_reducible apply keeps_ite | with_reducible intro _ | refine keeps_mk rfl rfl rfl rfl rfl rfl rfl rfl ?_)
  | succ k ih =>
    unfold State.sendRsps; try dsimp only
    repeat' (first | with_reducible assumption | with_reducible apply ih | with_reducible apply keep_routePlain | with_reducible apply keeps_ite | with_reducible intro _ | refine keeps_mk rfl rfl rfl rfl rfl rfl rfl rfl ?_)

theorem keep_sendLines {cs : List Instr} {s : State} (who : Who) (y1 : List Line) (hk : Keeps cs s) :
    Keeps cs (State.sendLines s who y1) := by
  induction y1 generalizing s who with
  | nil =>
    unfold State.sendLines; try dsimp only
    repeat' (first | with_reducible assumption | with_reducible apply ih | with_reducible apply keep_emit)
  | cons a l ih =>
    unfold State.sendLines; try dsimp only
    repeat' (first | with_reducible assumption | with_reducible apply ih | with_reducible apply keep_emit)

theorem keep_flushEvents {cs : List Instr} {s : State} (n : Sid) (hk : Keeps cs s) :
    Keeps cs (State.flushEvents s n) := by
  unfold State.flushEvents
  try dsimp only
  repeat' (first | with_reducible assumption | with_reducible apply keep_sendEvent | with_reducible apply keep_setSes | with_reducible apply keeps_foldl | with_reducible apply keeps_ite | with_reducible intro _ | exact keeps_evq (by with_reducible assumption) | exact Keeps.evq hk _ | refine keeps_evq (cs := cs) ?_ | with_reducible apply queueEvent_evq | exact Nat.zero_le _ | refine keeps_mk rfl rfl rfl rfl rfl rfl rfl rfl ?_)

theorem keep_rtsFrom {cs : List Instr} {s : State} (was : State) (n : Sid) (hk : Keeps cs s) (hkwas : Keeps cs was) :
    Keeps cs (State.rtsFrom s was n) := by
  unfold State.rtsFrom
  try dsimp only
  repeat' (first | with_reducible assumption | with_reducible apply keep_emit | with_reducible apply keeps_ite | with_reducible intro _ | refine keeps_mk rfl rfl rfl rfl rfl rfl rfl rfl ?_)

theorem keep_answerFront {cs : List Instr} {s : State} (n : Sid) (y1 : List WLine) (hk : Keeps cs s) :
    Keeps cs (State.answerFront s n y1) := by
  induction y1 generalizing s n with
  | nil =>
    unfold State.answerFront; try dsimp only
    repeat' (first | with_reducible assumption | with_reducible apply ih | with_reducible apply keep_emit | with_reducible apply keep_prompt | with_reducible apply keep_setSes | refine keeps_fst (by with_reducible assumption) ?_ | refine keeps_snd (by with_reducible assumption) ?_ | exact keeps_evq (by with_reducible assumption) | exact Keeps.evq hk _ | refine keeps_evq (cs := cs) ?_ | with_reducible apply queueEvent_evq | exact Nat.zero_le _ | split | refine keeps_mk rfl rfl rfl rfl rfl rfl rfl rfl ?_)
  | cons a l ih =>
    unfold State.answerFront; try dsimp only
    repeat' (first | with_reducible assumption | with_reducible apply ih | with_reducible apply keep_emit | with_reducible apply keep_prompt | with_reducible apply keep_setSes | refine keeps_fst (by with_reducible assumption) ?_ | refine keeps_snd (by with_reducible assumption) ?_ | exact keeps_evq (by with_reducible assumption) | exact Keeps.evq hk _ | refine keeps_evq (cs := cs) ?_ | with_reducible apply queueEvent_evq | exact Nat.zero_le _ | split | refine keeps_mk rfl rfl rfl rfl rfl rfl rfl rfl ?_)

theorem keep_afterReply {cs : List Instr} {s : State} (n : Sid) (hk : Keeps cs s) :
    Keeps cs (State.afterReply s n) := by
  unfold State.afterReply
  try dsimp only
  repeat' (first | with_reducible assumption | with_reducible apply keep_flushEvents | with_reducible apply keep_prompt | with_reducible apply keeps_ite | with_reducible intro _ | refine keeps_mk rfl rfl rfl rfl rfl rfl rfl rfl ?_)

theorem keep_lineDone {cs : List Instr} {s : State} (n : Sid) (hk : Keeps cs s) :
    Keeps cs (State.lineDone s n) := by
  unfold State.lineDone
  try dsimp only
  repeat' (first | with_reducible assumption | with_reducible apply keep_afterReply | with_reducible apply keep_answerFront | with_reducible apply keep_rtsFrom | with_reducible apply keeps_ite | with_reducible intro _ | refine keeps_mk rfl rfl rfl rfl rfl rfl rfl rfl ?_)

theorem keep_reply {cs : List Instr} {s : State} (ln : Ln) (cont : List (List Item)) (fin : Body) (hk : Keeps cs s) :
    Keeps cs (State.reply s ln cont fin) := by
  unfold State.reply
  try dsimp only
  repeat' (first | with_reducible assumption | with_reducible apply keep_lineDone | with_reducible apply keep_sendLines | with_reducible apply keep_sendRsps | refine keeps_fst (by with_reducible assumption) ?_ | refine keeps_snd (by with_reducible assumption) ?_ | split | refine keeps_mk rfl rfl rfl rfl rfl rfl rfl rfl ?_)

theorem keep_verb {cs : List Instr} {s : State} (ln : Ln) (need : Level) (rescueOk : Bool) (body : Ans) (hk : Keeps cs s) (ha : KeepsA cs body) :
    Keeps cs (State.verb s ln need rescueOk body) := by
  unfold State.verb
  try dsimp only
  repeat' (first | with_reducible assumption | with_reducible apply keep_reply | with_reducible apply keeps_ite | with_reducible apply keepsA_ite | with_reducible apply keepsA_ok | exact keepsA_er | with_reducible apply keepsA_fail | with_reducible intro _ | refine keeps_fst (by with_reducible assumption) ?_ | refine keeps_snd (by with_reducible assumption) ?_ | refine keepsW_get (by with_reducible assumption) ?_ | exact keepsW_get rfl (by with_reducible assumption) | exact keepsA_ok_get rfl (by with_reducible assumption) | exact keepsA_fail_get rfl (by with_reducible assumption) | split | refine keeps_mk rfl rfl rfl rfl rfl rfl rfl rfl ?_)

theorem keep_done {cs : List Instr} {s : State} (ln : Option Ln) (items : List Item) (hk : Keeps cs s) :
    Keeps cs (State.done s ln items) := by
  unfold State.done
  try dsimp only
  repeat' (first | with_reducible assumption | with_reducible apply keep_event | with_reducible apply keep_routePlain | refine keeps_fst (by with_reducible assumption) ?_ | refine keeps_snd (by with_reducible assumption) ?_ | split | refine keeps_mk rfl rfl rfl rfl rfl rfl rfl rfl ?_)

theorem keep_doneAll {cs : List Instr} {s : State} (items : List Item) (y1 : List Ln) (hk : Keeps cs s) :
    Keeps cs (State.doneAll s items y1) := by
  induction y1 generalizing s items with
  | nil =>
    unfold State.doneAll; try dsimp only
    repeat' (first | with_reducible assumption | with_reducible apply keep_done | with_reducible apply keeps_ite | with_reducible intro _ | split | refine keeps_mk rfl rfl rfl rfl rfl rfl rfl rfl ?_)
  | cons a l ih =>
    unfold State.doneAll; try dsimp only
    repeat' (first | with_reducible assumption | with_reducible apply ih | with_reducible apply keep_done | with_reducible apply keeps_ite | with_reducible intro _ | split | refine keeps_mk rfl rfl rfl rfl rfl rfl rfl rfl ?_)

theorem keep_override {cs : List Instr} {s : State} (src : String) (res : String) (hk : Keeps cs s) :
    Keeps cs (State.override s src res) := by
  unfold State.override
  try dsimp only
  repeat' (first | with_reducible assumption | with_reducible apply keep_event | refine keeps_fst (by with_reducible assumption) ?_ | refine keeps_snd (by with_reducible assumption) ?_ | split | refine keeps_mk rfl rfl rfl rfl rfl rfl rfl rfl ?_)

theorem keep_overrideBy {cs : List Instr} {s : State} (src : Src) (res : String) (hk : Keeps cs s) :
    Keeps cs (State.overrideBy s src res) := by
  unfold State.overrideBy
  try dsimp only
  repeat' (first | with_reducible assumption | with_reducible apply keep_override | refine keeps_fst (by with_reducible assumption) ?_ | refine keeps_snd (by with_reducible assumption) ?_ | split | refine keeps_mk rfl rfl rfl rfl rfl rfl rfl rfl ?_)

theorem keep_dropBootTest {cs : List Instr} {s : State}  (hk : Keeps cs s) :
    Keeps cs (State.dropBootTest s) := by
  unfold State.dropBootTest
  try dsimp only
  repeat' (first | with_reducible assumption | with_reducible apply keeps_ite | with_reducible intro _ | refine keeps_mk rfl rfl rfl rfl rfl rfl rfl rfl ?_)

theorem keep_apply {cs : List Instr} {s : State} (src : Src) (w : WRes) (hk : Keeps cs s) (hw : KeepsW cs w) :
    Keeps cs (State.apply s src w) := by
  unfold State.apply
  try dsimp only
  repeat' (first | with_reducible assumption | with_reducible apply keep_log | with_reducible apply keepsW_ok | exact keepsW_refuse | refine keeps_fst (by with_reducible assumption) ?_ | refine keeps_snd (by with_reducible assumption) ?_ | refine keepsW_get (by with_reducible assumption) ?_ | exact keepsW_get rfl (by with_reducible assumption) | split | refine keeps_mk rfl rfl rfl rfl rfl rfl rfl rfl ?_)

theorem keep_pfDrop {cs : List Instr} {s : State} (src : Src) (hk : Keeps cs s) :
    Keeps cs (State.pfDrop s src) := by
  unfold State.pfDrop
  try dsimp only
  repeat' (first | with_reducible assumption | with_reducible apply keep_count | with_reducible apply keeps_ite | with_reducible intro _ | refine keeps_fst (by with_reducible assumption) ?_ | refine keeps_snd (by with_reducible assumption) ?_ | split | refine keeps_mk rfl rfl rfl rfl rfl rfl rfl rfl ?_)

end Sys2Proof.Machine
end

