-- ==== Sys2Proof/Laws/KeepsPages.lean ====
section
/-! SUPPORT. Every operation of Machine/Pages.lean keeps the machine's invariant and its queue. -/

namespace Sys2Proof.Machine

/-- A page that allocation may take lies at its place in the rotation, is one of the Tank's, and is free (R243). -/
theorem mem_pagesFrom {s : State} {x : Nat} : ∀ {n p : Nat}, x ∈ s.pagesFrom n p → (∃ i, i < n ∧ x = (p + i) % pageCount) ∧ s.pageOk x = true := by
  intro n
  induction n with
  | zero => intro p h; simp [State.pagesFrom] at h
  | succ n ih =>
    intro p h
    have later (h : x ∈ s.pagesFrom n (p + 1)) : (∃ i, i < n + 1 ∧ x = (p + i) % pageCount) ∧ s.pageOk x = true := by
      obtain ⟨⟨i, hi, rfl⟩, hok⟩ := ih h
      exact ⟨⟨i + 1, by omega, by congr 1; omega⟩, hok⟩
    simp only [State.pagesFrom] at h
    split at h
    · rename_i hk
      rcases List.mem_cons.mp h with rfl | h
      · exact ⟨⟨0, by omega, rfl⟩, hk⟩
      · exact later h
    · exact later h

/-- One turn of the rotation meets no page twice (R243). -/
theorem nodup_pagesFrom {s : State} : ∀ {n p : Nat}, n ≤ pageCount → (s.pagesFrom n p).Nodup := by
  intro n
  induction n with
  | zero => intro p _; simp [State.pagesFrom]
  | succ n ih =>
    intro p hn
    simp only [State.pagesFrom]
    split
    · refine List.nodup_cons.mpr ⟨fun h => ?_, ih (by omega)⟩
      obtain ⟨⟨i, hi, he⟩, -⟩ := mem_pagesFrom h
      simp only [pageCount] at hn hi he
      omega
    · exact ih (by omega)

/-- Pages taken are the Tank's, were free, and are taken once (R243). -/
theorem keep_takePages {cs : List Instr} {s : State} (n : Nat) (hk : Keeps cs s) : Keeps cs (State.takePages s n).2 := by
  have hm {x : Nat} (h : x ∈ ((s.pagesFrom pageCount (s.tnk.last + 1)).take n).reverse) : x < pageCount ∧ x ∉ s.tnk.used := by
    obtain ⟨⟨i, -, rfl⟩, hok⟩ := mem_pagesFrom (List.mem_of_mem_take (List.mem_reverse.mp h))
    simp only [State.pageOk, Bool.and_eq_true, Bool.not_eq_true', List.contains_eq_mem, decide_eq_false_iff_not] at hok
    exact ⟨Nat.mod_lt _ (by decide), hok.2⟩
  exact { hk with
    pages := fun x hx => by
      rcases List.mem_append.mp hx with hx | hx
      · exact (hm hx).1
      · exact hk.pages x hx
    nodup := by
      refine List.nodup_append.mpr ⟨List.nodup_reverse.mpr ((nodup_pagesFrom (Nat.le_refl _)).sublist (List.take_sublist _ _)), hk.nodup, ?_⟩
      intro a ha b hb e
      exact (hm ha).2 (e ▸ hb) }

theorem keep_usedFilter {q : List Instr} {s : State} (f : Nat → Bool) (h : Keeps q s) : Keeps q { s with tnk := { s.tnk with used := s.tnk.used.filter f } } :=
  { h with
    pages := fun x hx => h.pages x (List.mem_of_mem_filter hx)
    nodup := h.nodup.filter f }

theorem keep_freePagesOf {q : List Instr} {s : State} (ps : List Nat) (h : Keeps q s) : Keeps q (State.freePagesOf s ps) := keep_usedFilter _ h

theorem keep_fresh {cs : List Instr} {s : State} (pages : List Nat) (off : Nat) (n : Nat) (hk : Keeps cs s) :
    Keeps cs (State.fresh s pages off n) := by
  unfold State.fresh
  try dsimp only
  repeat' (first | with_reducible assumption | with_reducible apply keeps_ite | with_reducible intro _ | split | refine keeps_mk rfl rfl rfl rfl rfl rfl rfl rfl ?_)

end Sys2Proof.Machine
end

