-- ==== Sys2Proof/Laws/KeepsCut.lean ====
section
/-! SUPPORT. Every operation of Machine/Cut.lean keeps the machine's invariant and its queue. -/

namespace Sys2Proof.Machine

theorem keep_setEng {cs : List Instr} {s : State} (e : Fin 4) (x : RdcEng) (hk : Keeps cs s) :
    Keeps cs (State.setEng s e x) := by
  unfold State.setEng
  try dsimp only
  repeat' (first | with_reducible assumption | refine keeps_mk rfl rfl rfl rfl rfl rfl rfl rfl ?_)

theorem keep_beginBlock {cs : List Instr} {s : State} (e : Fin 4) (hk : Keeps cs s) :
    Keeps cs (State.beginBlock s e) := by
  unfold State.beginBlock
  try dsimp only
  repeat' (first | with_reducible assumption | with_reducible apply keep_feed | with_reducible apply keep_flush | with_reducible apply keep_place | with_reducible apply keep_setEng | with_reducible apply keeps_ite | with_reducible intro _ | refine keeps_fst (by with_reducible assumption) ?_ | refine keeps_snd (by with_reducible assumption) ?_ | split | refine keeps_mk rfl rfl rfl rfl rfl rfl rfl rfl ?_)

theorem keep_settle {cs : List Instr} {s : State}  (hk : Keeps cs s) :
    Keeps cs (State.settle s) := by
  unfold State.settle
  try dsimp only
  repeat' (first | with_reducible assumption | with_reducible apply keep_beginBlock)

theorem keep_pruneEng {cs : List Instr} {s : State} (e : Fin 4) (hk : Keeps cs s) :
    Keeps cs (State.pruneEng s e) := by
  unfold State.pruneEng
  try dsimp only
  repeat' (first | with_reducible assumption | with_reducible apply keep_feed | with_reducible apply keep_flush | with_reducible apply keep_setEng | with_reducible apply keeps_ite | with_reducible intro _ | split | refine keeps_mk rfl rfl rfl rfl rfl rfl rfl rfl ?_)

theorem keep_prune {cs : List Instr} {s : State}  (hk : Keeps cs s) :
    Keeps cs (State.prune s) := by
  unfold State.prune
  try dsimp only
  repeat' (first | with_reducible assumption | with_reducible apply keep_pruneEng | with_reducible apply keep_settle | refine keeps_fst (by with_reducible assumption) ?_ | refine keeps_snd (by with_reducible assumption) ?_ | split | refine keeps_mk rfl rfl rfl rfl rfl rfl rfl rfl ?_)

end Sys2Proof.Machine
end

