-- ==== Sys2Proof/Laws/KeepsBacklog.lean ====
section
/-! SUPPORT. What each operation of Machine/Backlog.lean keeps (`Keeps`). -/

namespace Sys2Proof.Machine

theorem keep_setBal {cs : List Instr} {s : State} (b : Bal) (hk : Keeps cs s) :
    Keeps cs (State.setBal s b) := by
  unfold State.setBal
  try dsimp only
  repeat' (first | with_reducible assumption | with_reducible apply keeps_ite | with_reducible intro _ | refine keeps_mk rfl rfl rfl rfl rfl rfl rfl rfl ?_)

theorem keep_takeShare {cs : List Instr} {s : State} (c : ShareChange) (hk : Keeps cs s) :
    Keeps cs (State.takeShare s c) := by
  unfold State.takeShare
  try dsimp only
  repeat' (first | with_reducible assumption | with_reducible apply keep_wr | with_reducible apply keeps_ite | with_reducible intro _ | refine keeps_mk rfl rfl rfl rfl rfl rfl rfl rfl ?_)

theorem keep_takeShares {cs : List Instr} {s : State} (y1 : List ShareChange) (hk : Keeps cs s) :
    Keeps cs (State.takeShares s y1) := by
  induction y1 generalizing s with
  | nil =>
    unfold State.takeShares; try dsimp only
    repeat' (first | with_reducible assumption | with_reducible apply keep_takeShare | with_reducible apply keeps_ite | with_reducible intro _ | split | refine keeps_mk rfl rfl rfl rfl rfl rfl rfl rfl ?_)
  | cons a l ih =>
    unfold State.takeShares; try dsimp only
    repeat' (first | with_reducible assumption | with_reducible apply ih | with_reducible apply keep_takeShare | with_reducible apply keeps_ite | with_reducible intro _ | split | refine keeps_mk rfl rfl rfl rfl rfl rfl rfl rfl ?_)

theorem keep_settleShares {cs : List Instr} {s : State}  (hk : Keeps cs s) :
    Keeps cs (State.settleShares s) := by
  unfold State.settleShares
  try dsimp only
  repeat' (first | with_reducible assumption | with_reducible apply keep_takeShares | with_reducible apply keeps_ite | with_reducible intro _ | refine keeps_mk rfl rfl rfl rfl rfl rfl rfl rfl ?_)

end Sys2Proof.Machine
end

