-- ==== Sys2Proof/Laws/KeepsEcc.lean ====
section
/-! SUPPORT. What each operation of Machine/Ecc.lean keeps (`Keeps`). -/

namespace Sys2Proof.Machine

theorem keep_elog {cs : List Instr} {s : State} (ue : Bool) (r : Req) (w : Nat) (hk : Keeps cs s) :
    Keeps cs (State.elog s ue r w) := by
  unfold State.elog
  try dsimp only
  repeat' (first | with_reducible assumption | with_reducible apply keep_setF | with_reducible apply keeps_ite | with_reducible intro _ | refine keeps_mk rfl rfl rfl rfl rfl rfl rfl rfl ?_)

theorem keep_corrected {cs : List Instr} {s : State} (r : Req) (w : Nat) (hk : Keeps cs s) :
    Keeps cs (State.corrected s r w) := by
  unfold State.corrected
  try dsimp only
  repeat' (first | with_reducible assumption | with_reducible apply keep_count | with_reducible apply keep_elog | with_reducible apply keep_log | with_reducible apply keeps_ite | with_reducible apply keeps_fst_ite | with_reducible intro _ | refine keeps_mk rfl rfl rfl rfl rfl rfl rfl rfl ?_)

theorem keep_uncorrected {cs : List Instr} {s : State} (r : Req) (w : Nat) (hk : Keeps cs s) :
    Keeps cs (State.uncorrected s r w) := by
  unfold State.uncorrected
  try dsimp only
  repeat' (first | with_reducible assumption | with_reducible apply keep_count | with_reducible apply keep_elog | with_reducible apply keep_log | with_reducible apply keeps_ite | with_reducible intro _ | refine keeps_mk rfl rfl rfl rfl rfl rfl rfl rfl ?_)

theorem keep_secded {cs : List Instr} {s : State} (r : Req) (w : Nat) (ecc : Ecc) (hk : Keeps cs s) :
    Keeps cs (State.secded s r w ecc).1 := by
  unfold State.secded
  try dsimp only
  repeat' (first | with_reducible assumption | with_reducible apply keep_corrected | with_reducible apply keep_uncorrected | with_reducible apply keeps_ite | with_reducible apply keeps_fst_ite | with_reducible intro _ | split | refine keeps_mk rfl rfl rfl rfl rfl rfl rfl rfl ?_)

theorem keep_freshWord {cs : List Instr} {s : State} (w : Nat) (hk : Keeps cs s) :
    Keeps cs (State.freshWord s w) := by
  unfold State.freshWord
  try dsimp only
  repeat' (first | with_reducible assumption | with_reducible apply keeps_ite | with_reducible intro _ | refine keeps_mk rfl rfl rfl rfl rfl rfl rfl rfl ?_)

theorem keep_readWords {cs : List Instr} {s : State} (r : Req) (y1 : List Nat) (hk : Keeps cs s) :
    Keeps cs (State.readWords s r y1).1 := by
  induction y1 generalizing s r with
  | nil =>
    unfold State.readWords; try dsimp only
    repeat' (first | with_reducible assumption | with_reducible apply keep_secded | with_reducible apply keeps_ite | with_reducible apply keeps_fst_ite | with_reducible intro _ | refine keeps_fst (by with_reducible assumption) ?_ | refine keeps_snd (by with_reducible assumption) ?_ | split | refine keeps_mk rfl rfl rfl rfl rfl rfl rfl rfl ?_)
  | cons a l ih =>
    unfold State.readWords; try dsimp only
    repeat' (first | with_reducible assumption | with_reducible apply ih | with_reducible apply keep_secded | with_reducible apply keeps_ite | with_reducible apply keeps_fst_ite | with_reducible intro _ | refine keeps_fst (by with_reducible assumption) ?_ | refine keeps_snd (by with_reducible assumption) ?_ | split | refine keeps_mk rfl rfl rfl rfl rfl rfl rfl rfl ?_)

theorem keep_readPieces {cs : List Instr} {s : State} (k : Nat) (y1 : List PieceRef) (hk : Keeps cs s) :
    Keeps cs (State.readPieces s k y1).1 := by
  induction y1 generalizing s k with
  | nil =>
    unfold State.readPieces; try dsimp only
    repeat' (first | with_reducible assumption | with_reducible apply keep_readWords | with_reducible apply keeps_ite | with_reducible apply keeps_fst_ite | with_reducible intro _ | refine keeps_fst (by with_reducible assumption) ?_ | refine keeps_snd (by with_reducible assumption) ?_ | split | refine keeps_mk rfl rfl rfl rfl rfl rfl rfl rfl ?_)
  | cons a l ih =>
    unfold State.readPieces; try dsimp only
    repeat' (first | with_reducible assumption | with_reducible apply ih | with_reducible apply keep_readWords | with_reducible apply keeps_ite | with_reducible apply keeps_fst_ite | with_reducible intro _ | refine keeps_fst (by with_reducible assumption) ?_ | refine keeps_snd (by with_reducible assumption) ?_ | split | refine keeps_mk rfl rfl rfl rfl rfl rfl rfl rfl ?_)

end Sys2Proof.Machine
end

