-- ==== Sys2Proof/Laws/KeepsBalls.lean ====
section
/-! SUPPORT. What each operation of Machine/Balls.lean keeps (`Keeps`). -/

namespace Sys2Proof.Machine

theorem keep_drive {cs : List Instr} {s : State} (name : String) (was : Bool) (now : Bool) (hk : Keeps cs s) :
    Keeps cs (State.drive s name was now) := by
  unfold State.drive
  try dsimp only
  repeat' (first | with_reducible assumption | with_reducible apply keep_emit | with_reducible apply keeps_ite | with_reducible intro _ | refine keeps_mk rfl rfl rfl rfl rfl rfl rfl rfl ?_)

theorem keep_driveOuts {cs : List Instr} {s : State} (modB : Bool) (was : WriteOut) (now : WriteOut) (hk : Keeps cs s) :
    Keeps cs (State.driveOuts s modB was now) := by
  unfold State.driveOuts
  try dsimp only
  repeat' (first | with_reducible assumption | with_reducible apply keep_emit | with_reducible apply keeps_ite | with_reducible intro _ | refine keeps_mk rfl rfl rfl rfl rfl rfl rfl rfl ?_)

theorem keep_setHeads {cs : List Instr} {s : State} (b : Balls) (hk : Keeps cs s) :
    Keeps cs (State.setHeads s b) := by
  unfold State.setHeads
  try dsimp only
  repeat' (first | with_reducible assumption | with_reducible apply keep_drive | with_reducible apply keep_driveOuts | with_reducible apply keeps_ite | with_reducible intro _ | refine keeps_mk rfl rfl rfl rfl rfl rfl rfl rfl ?_)

theorem keep_headBalls {cs : List Instr} {s : State}  (hk : Keeps cs s) :
    Keeps cs (State.headBalls s) := by
  unfold State.headBalls
  try dsimp only
  repeat' (first | with_reducible assumption | with_reducible apply keep_setHeads | with_reducible apply keeps_ite | with_reducible intro _ | refine keeps_mk rfl rfl rfl rfl rfl rfl rfl rfl ?_)

theorem keep_gated {cs : List Instr} {s : State} (o : Out) (hk : Keeps cs s) :
    Keeps cs (State.gated s o) := by
  unfold State.gated
  try dsimp only
  repeat' (first | with_reducible assumption | with_reducible apply keep_emit | with_reducible apply keep_setHeads | with_reducible apply keeps_ite | with_reducible intro _ | refine keeps_mk rfl rfl rfl rfl rfl rfl rfl rfl ?_)

theorem keep_gatesZero {cs : List Instr} {s : State}  (hk : Keeps cs s) :
    Keeps cs (State.gatesZero s) := by
  unfold State.gatesZero
  try dsimp only
  repeat' (first | with_reducible assumption | with_reducible apply keep_emit | with_reducible apply keeps_ite | with_reducible intro _ | refine keeps_mk rfl rfl rfl rfl rfl rfl rfl rfl ?_)

end Sys2Proof.Machine
end

