-- ==== Sys2Proof/Laws/KeepsQueues.lean ====
section
/-! SUPPORT. Every operation of Machine/Queues.lean keeps the machine's invariant and its queue. -/

namespace Sys2Proof.Machine

theorem keep_setQueue {cs : List Instr} {s : State} (q : Queue) (hk : Keeps cs s) :
    Keeps cs (State.setQueue s q) := by
  unfold State.setQueue
  try dsimp only
  repeat' (first | with_reducible assumption | with_reducible apply keeps_ite | with_reducible intro _ | refine keeps_mk rfl rfl rfl rfl rfl rfl rfl rfl ?_)

theorem keep_makeQueue {cs : List Instr} {s : State} (t : Tenant) (q : Qid) (n : Fin 64) (ring : Option Nat) (sizeLog : Nat) (timeout : Nat) (hk : Keeps cs s) :
    Keeps cs (State.makeQueue s t q n ring sizeLog timeout) := by
  unfold State.makeQueue
  try dsimp only
  repeat' (first | with_reducible assumption | with_reducible apply keep_setF | with_reducible apply keep_wr | with_reducible apply keep_wr64 | with_reducible apply keeps_ite | with_reducible intro _ | refine keeps_fst (by with_reducible assumption) ?_ | refine keeps_snd (by with_reducible assumption) ?_ | split | refine keeps_mk rfl rfl rfl rfl rfl rfl rfl rfl ?_)

theorem keep_create {cs : List Instr} {s : State} {r : CreateReq} (h : Keeps cs s) {t : State} {q : Qid} (e : s.create r = .ok (t, q)) : Keeps cs t := by
  unfold State.create at e
  split at e
  · cases e
  · cases e; exact keep_makeQueue _ _ _ _ _ _ h

theorem keep_dropQueue {cs : List Instr} {s : State} (q : Qid) (hk : Keeps cs s) :
    Keeps cs (State.dropQueue s q) := by
  unfold State.dropQueue
  try dsimp only
  repeat' (first | with_reducible assumption | with_reducible apply keep_setF | with_reducible apply keeps_ite | with_reducible intro _ | refine keeps_mk rfl rfl rfl rfl rfl rfl rfl rfl ?_)

theorem keep_complete {cs : List Instr} {s : State} (q : Queue) (slot : Nat) (c : Cqe) (hk : Keeps cs s) :
    Keeps cs (State.complete s q slot c) := by
  unfold State.complete
  try dsimp only
  repeat' (first | with_reducible assumption | with_reducible apply keep_emit | with_reducible apply keep_vecEvent | with_reducible apply keeps_ite | with_reducible intro _ | refine keeps_mk rfl rfl rfl rfl rfl rfl rfl rfl ?_)

theorem keep_setRec {cs : List Instr} {s : State} (r : Rec) (hk : Keeps cs s) :
    Keeps cs (State.setRec s r) := by
  unfold State.setRec
  try dsimp only
  repeat' (first | with_reducible assumption | with_reducible apply keeps_ite | with_reducible intro _ | refine keeps_mk rfl rfl rfl rfl rfl rfl rfl rfl ?_)

theorem keep_barriersDone {cs : List Instr} {s : State} (uid : Nat) (y1 : List Barrier) (hk : Keeps cs s) :
    Keeps cs (State.barriersDone s uid y1) := by
  induction y1 generalizing s uid with
  | nil =>
    unfold State.barriersDone; try dsimp only
    repeat' (first | with_reducible assumption | with_reducible apply ih | with_reducible apply keep_complete | with_reducible apply keep_setQueue | with_reducible apply keeps_ite | with_reducible intro _ | refine keeps_fst (by with_reducible assumption) ?_ | refine keeps_snd (by with_reducible assumption) ?_ | split | refine keeps_mk rfl rfl rfl rfl rfl rfl rfl rfl ?_)
  | cons a l ih =>
    unfold State.barriersDone; try dsimp only
    repeat' (first | with_reducible assumption | with_reducible apply ih | with_reducible apply keep_complete | with_reducible apply keep_setQueue | with_reducible apply keeps_ite | with_reducible intro _ | refine keeps_fst (by with_reducible assumption) ?_ | refine keeps_snd (by with_reducible assumption) ?_ | split | refine keeps_mk rfl rfl rfl rfl rfl rfl rfl rfl ?_)

theorem keep_reportRec {cs : List Instr} {s : State} (uid : Nat) (hk : Keeps cs s) :
    Keeps cs (State.reportRec s uid) := by
  unfold State.reportRec
  try dsimp only
  repeat' (first | with_reducible assumption | with_reducible apply keep_barriersDone | with_reducible apply keep_complete | with_reducible apply keep_setQueue | with_reducible apply keep_setRec | with_reducible apply keeps_ite | with_reducible intro _ | refine keeps_fst (by with_reducible assumption) ?_ | refine keeps_snd (by with_reducible assumption) ?_ | split | refine keeps_mk rfl rfl rfl rfl rfl rfl rfl rfl ?_)

theorem keep_reportAll {cs : List Instr} {s : State} (y1 : List Nat) (hk : Keeps cs s) :
    Keeps cs (State.reportAll s y1) := by
  induction y1 generalizing s with
  | nil =>
    unfold State.reportAll; try dsimp only
    repeat' (first | with_reducible assumption | with_reducible apply ih | with_reducible apply keep_reportRec)
  | cons a l ih =>
    unfold State.reportAll; try dsimp only
    repeat' (first | with_reducible assumption | with_reducible apply ih | with_reducible apply keep_reportRec)

theorem keep_report {cs : List Instr} {s : State}  (hk : Keeps cs s) :
    Keeps cs (State.report s) := by
  unfold State.report
  try dsimp only
  repeat' (first | with_reducible assumption | with_reducible apply keep_barriersDone | with_reducible apply keep_reportAll)

theorem keep_execReservationCharge {cs : List Instr} {s : State}  (hk : Keeps cs s) :
    KeepsO cs (execReservationCharge s) := by
  unfold execReservationCharge
  try dsimp only
  repeat' (first | with_reducible assumption | with_reducible apply keep_report | with_reducible apply keep_setRec | with_reducible apply keepsO_next | with_reducible apply keeps_ite | with_reducible apply keepsO_ite | with_reducible intro _ | refine keeps_fst (by with_reducible assumption) ?_ | refine keeps_snd (by with_reducible assumption) ?_ | split | refine keeps_mk rfl rfl rfl rfl rfl rfl rfl rfl ?_)

theorem keep_abortWrites {cs : List Instr} {s : State} (first : List Nat) (e : Er) (y1 : List Rec) (hk : Keeps cs s) :
    Keeps cs (State.abortWrites s first e y1) := by
  induction y1 generalizing s first e with
  | nil =>
    unfold State.abortWrites; try dsimp only
    repeat' (first | with_reducible assumption | with_reducible apply ih | with_reducible apply keep_complete | with_reducible apply keep_setQueue | with_reducible apply keeps_ite | with_reducible intro _ | refine keeps_fst (by with_reducible assumption) ?_ | refine keeps_snd (by with_reducible assumption) ?_ | split | refine keeps_mk rfl rfl rfl rfl rfl rfl rfl rfl ?_)
  | cons a l ih =>
    unfold State.abortWrites; try dsimp only
    repeat' (first | with_reducible assumption | with_reducible apply ih | with_reducible apply keep_complete | with_reducible apply keep_setQueue | with_reducible apply keeps_ite | with_reducible intro _ | refine keeps_fst (by with_reducible assumption) ?_ | refine keeps_snd (by with_reducible assumption) ?_ | split | refine keeps_mk rfl rfl rfl rfl rfl rfl rfl rfl ?_)

theorem keep_freeLent {cs : List Instr} {s : State} (y1 : List Rec) (hk : Keeps cs s) :
    Keeps cs (State.freeLent s y1) := by
  induction y1 generalizing s with
  | nil =>
    unfold State.freeLent; try dsimp only
    repeat' (first | with_reducible assumption | with_reducible apply keep_sendLend | with_reducible apply keeps_ite | with_reducible intro _ | refine keeps_fst (by with_reducible assumption) ?_ | refine keeps_snd (by with_reducible assumption) ?_ | split | refine keeps_mk rfl rfl rfl rfl rfl rfl rfl rfl ?_)
  | cons a l ih =>
    unfold State.freeLent; try dsimp only
    repeat' (first | with_reducible assumption | with_reducible apply ih | with_reducible apply keep_sendLend | with_reducible apply keeps_ite | with_reducible intro _ | refine keeps_fst (by with_reducible assumption) ?_ | refine keeps_snd (by with_reducible assumption) ?_ | split | refine keeps_mk rfl rfl rfl rfl rfl rfl rfl rfl ?_)

theorem keep_abort {cs : List Instr} {s : State} (first : List Nat) (e : Er) (hk : Keeps cs s) :
    Keeps cs (State.abort s first e) := by
  unfold State.abort
  try dsimp only
  repeat' (first | with_reducible assumption | with_reducible apply keep_abortWrites | with_reducible apply keep_freeLent | with_reducible apply keep_freePagesOf | with_reducible apply keep_prune | with_reducible apply keep_report | with_reducible apply keep_settleShares | with_reducible apply keeps_foldl | with_reducible apply keeps_ite | with_reducible intro _ | refine keeps_mk rfl rfl rfl rfl rfl rfl rfl rfl ?_)

theorem keep_badDoor {cs : List Instr} {s : State} (t : Tenant) (hk : Keeps cs s) :
    Keeps cs (State.badDoor s t) := by
  unfold State.badDoor
  try dsimp only
  repeat' (first | with_reducible assumption | with_reducible apply keep_setFn | refine keeps_mk rfl rfl rfl rfl rfl rfl rfl rfl ?_)

theorem keep_applyDoor {cs : List Instr} {s : State} (t : Tenant) (slot : Nat) (tail : Nat) (hk : Keeps cs s) :
    Keeps cs (State.applyDoor s t slot tail) := by
  unfold State.applyDoor
  try dsimp only
  repeat' (first | with_reducible assumption | with_reducible apply keep_badDoor | with_reducible apply keep_log | with_reducible apply keep_setQueue | with_reducible apply keeps_ite | with_reducible apply keepsW_ite | with_reducible intro _ | refine keeps_fst (by with_reducible assumption) ?_ | refine keeps_snd (by with_reducible assumption) ?_ | refine keepsW_get (by with_reducible assumption) ?_ | exact keepsW_get rfl (by with_reducible assumption) | split | refine keeps_mk rfl rfl rfl rfl rfl rfl rfl rfl ?_)

theorem keep_execDoorbellWrite {cs : List Instr} {s : State} (t : Tenant) (slot : Fin 64) (tail : BitVec 16) (hk : Keeps cs s) :
    KeepsO cs (execDoorbellWrite t slot tail s) := by
  unfold execDoorbellWrite
  try dsimp only
  repeat' (first | with_reducible assumption | with_reducible apply keep_applyDoor | with_reducible apply keep_pfDrop | with_reducible apply keepsO_next | with_reducible apply keeps_ite | with_reducible apply keepsO_ite | with_reducible intro _ | refine keeps_mk rfl rfl rfl rfl rfl rfl rfl rfl ?_)

theorem keep_endFetch {cs : List Instr} {s : State} (q : Queue) (cid : BitVec 16) (status : Nat) (code : Nat) (hk : Keeps cs s) :
    Keeps cs (State.endFetch s q cid status code) := by
  unfold State.endFetch
  try dsimp only
  repeat' (first | with_reducible assumption | with_reducible apply keep_complete | with_reducible apply keep_setQueue)

theorem keep_addRec {cs : List Instr} {s : State} (r : Rec) (hk : Keeps cs s) :
    Keeps cs (State.addRec s r) := by
  unfold State.addRec
  try dsimp only
  repeat' (first | with_reducible assumption | refine keeps_mk rfl rfl rfl rfl rfl rfl rfl rfl ?_)

theorem keep_execDescriptorFetchWrite {cs : List Instr} {s : State} (qid : Qid) (d : Desc) (hk : Keeps cs s) :
    KeepsO cs (execDescriptorFetchWrite qid d s) := by
  unfold execDescriptorFetchWrite
  try dsimp only
  repeat' (first | with_reducible assumption | with_reducible apply keep_addRec | with_reducible apply keep_endFetch | with_reducible apply keep_feed | with_reducible apply keep_setQueue | with_reducible apply keep_takePages | with_reducible apply keepsO_next | with_reducible apply keeps_ite | with_reducible apply keepsO_ite | with_reducible intro _ | refine keeps_fst (by with_reducible assumption) ?_ | refine keeps_snd (by with_reducible assumption) ?_ | split | refine keeps_mk rfl rfl rfl rfl rfl rfl rfl rfl ?_)

theorem keep_addBarrier {cs : List Instr} {s : State} (q : Queue) (slot : Option (Nat × BitVec 16)) (hk : Keeps cs s) :
    Keeps cs (State.addBarrier s q slot) := by
  unfold State.addBarrier
  try dsimp only
  repeat' (first | with_reducible assumption | with_reducible apply keeps_ite | with_reducible intro _ | refine keeps_mk rfl rfl rfl rfl rfl rfl rfl rfl ?_)

theorem keep_execDescriptorFetchBarrier {cs : List Instr} {s : State} (qid : Qid) (d : Desc) (hk : Keeps cs s) :
    KeepsO cs (execDescriptorFetchBarrier qid d s) := by
  unfold execDescriptorFetchBarrier
  try dsimp only
  repeat' (first | with_reducible assumption | with_reducible apply keep_addBarrier | with_reducible apply keep_endFetch | with_reducible apply keep_report | with_reducible apply keep_setQueue | with_reducible apply keepsO_next | with_reducible apply keeps_ite | with_reducible apply keepsO_ite | with_reducible intro _ | refine keeps_fst (by with_reducible assumption) ?_ | refine keeps_snd (by with_reducible assumption) ?_ | split | refine keeps_mk rfl rfl rfl rfl rfl rfl rfl rfl ?_)

theorem keep_execDescriptorFetchNop {cs : List Instr} {s : State} (qid : Qid) (d : Desc) (hk : Keeps cs s) :
    KeepsO cs (execDescriptorFetchNop qid d s) := by
  unfold execDescriptorFetchNop
  try dsimp only
  repeat' (first | with_reducible assumption | with_reducible apply keep_endFetch | with_reducible apply keepsO_next | with_reducible apply keeps_ite | with_reducible apply keepsO_ite | with_reducible intro _ | refine keeps_fst (by with_reducible assumption) ?_ | refine keeps_snd (by with_reducible assumption) ?_ | split | refine keeps_mk rfl rfl rfl rfl rfl rfl rfl rfl ?_)

theorem keep_execDescriptorDmaError {cs : List Instr} {s : State} (qid : Qid) (hk : Keeps cs s) :
    KeepsO cs (execDescriptorDmaError qid s) := by
  unfold execDescriptorDmaError
  try dsimp only
  repeat' (first | with_reducible assumption | with_reducible apply keep_endFetch | with_reducible apply keepsO_next | with_reducible apply keeps_ite | with_reducible apply keepsO_ite | with_reducible intro _ | refine keeps_fst (by with_reducible assumption) ?_ | refine keeps_snd (by with_reducible assumption) ?_ | split | refine keeps_mk rfl rfl rfl rfl rfl rfl rfl rfl ?_)

theorem keep_accept {cs : List Instr} {s : State} (r : Rec) (data : List Byte) (h : Keeps cs s) : Keeps cs (State.accept s r data) := by
  unfold State.accept
  exact keep_report (keep_tookBytes _ (keeps_mk rfl rfl rfl rfl rfl rfl rfl rfl (keep_setRec _ (keep_fresh _ _ _ (keep_setTank (wf_writePages _ _ h.tank) h)))))

theorem keep_execRecordDmaComplete {cs : List Instr} {s : State} (qid : Qid) (seq : BitVec 48) (data : List Byte) (hk : Keeps cs s) :
    KeepsO cs (execRecordDmaComplete qid seq data s) := by
  unfold execRecordDmaComplete
  try dsimp only
  repeat' (first | with_reducible assumption | with_reducible apply keep_accept | with_reducible apply keepsO_next | refine keeps_fst (by with_reducible assumption) ?_ | refine keeps_snd (by with_reducible assumption) ?_ | split | refine keeps_mk rfl rfl rfl rfl rfl rfl rfl rfl ?_)

theorem keep_execRecordDmaError {cs : List Instr} {s : State} (qid : Qid) (seq : BitVec 48) (hk : Keeps cs s) :
    KeepsO cs (execRecordDmaError qid seq s) := by
  unfold execRecordDmaError
  try dsimp only
  repeat' (first | with_reducible assumption | with_reducible apply keep_abort | with_reducible apply keepsO_next | refine keeps_fst (by with_reducible assumption) ?_ | refine keeps_snd (by with_reducible assumption) ?_ | split | refine keeps_mk rfl rfl rfl rfl rfl rfl rfl rfl ?_)

end Sys2Proof.Machine
end

