-- ==== Sys2Proof/Laws/KeepsPciConfig.lean ====
section
/-! SUPPORT. What each operation of Machine/PciConfig.lean keeps (`Keeps`). -/

namespace Sys2Proof.Machine

theorem keep_cfgRequest {cs : List Instr} {s : State} (t : Tenant) (served : State) (hk : Keeps cs s) (hkserved : Keeps cs served) :
    Keeps cs (State.cfgRequest s t served) := by
  unfold State.cfgRequest
  try dsimp only
  repeat' (first | with_reducible assumption | with_reducible apply keep_emit | with_reducible apply keep_retry | with_reducible apply keeps_ite | with_reducible intro _ | split | refine keeps_mk rfl rfl rfl rfl rfl rfl rfl rfl ?_)

theorem keep_cfgRead {cs : List Instr} {s : State} (src : Src) (off : Nat) (hk : Keeps cs s) :
    Keeps cs (State.cfgRead s src off) := by
  unfold State.cfgRead
  try dsimp only
  repeat' (first | with_reducible assumption | with_reducible apply keep_cfgRequest | with_reducible apply keep_emit | with_reducible apply keeps_ite | with_reducible intro _ | split | refine keeps_mk rfl rfl rfl rfl rfl rfl rfl rfl ?_)

theorem keep_cfgWrite {cs : List Instr} {s : State} (src : Src) (off : Nat) (v : Word) (hk : Keeps cs s) :
    Keeps cs (State.cfgWrite s src off v) := by
  unfold State.cfgWrite
  try dsimp only
  repeat' (first | with_reducible assumption | with_reducible apply keep_cfgRequest | with_reducible apply keep_setF | with_reducible apply keep_setFn | with_reducible apply keeps_ite | with_reducible intro _ | split | refine keeps_mk rfl rfl rfl rfl rfl rfl rfl rfl ?_)

theorem keep_hifShow {cs : List Instr} {s : State}  (hk : Keeps cs s) :
    Keeps cs (State.hifShow s) := by
  unfold State.hifShow
  try dsimp only
  repeat' (first | with_reducible assumption | with_reducible apply keep_setF | with_reducible apply keeps_ite | with_reducible apply keeps_fst_ite | with_reducible intro _ | refine keeps_mk rfl rfl rfl rfl rfl rfl rfl rfl ?_)

theorem keep_linkLost {cs : List Instr} {s : State}  (hk : Keeps cs s) :
    Keeps cs (State.linkLost s) := by
  unfold State.linkLost
  try dsimp only
  repeat' (first | with_reducible assumption | with_reducible apply keep_hifShow | with_reducible apply keeps_ite | with_reducible intro _ | refine keeps_mk rfl rfl rfl rfl rfl rfl rfl rfl ?_)

theorem keep_linkTrain {cs : List Instr} {s : State}  (hk : Keeps cs s) :
    Keeps cs (State.linkTrain s) := by
  unfold State.linkTrain
  try dsimp only
  repeat' (first | with_reducible assumption | with_reducible apply keep_draw | with_reducible apply keep_hifShow | with_reducible apply keeps_ite | with_reducible intro _ | refine keeps_mk rfl rfl rfl rfl rfl rfl rfl rfl ?_)

end Sys2Proof.Machine
end

