-- ==== Sys2Proof/Laws/KeepsShares.lean ====
section
/-! SUPPORT. Every operation of Machine/Shares.lean keeps the machine's invariant and its queue. -/

namespace Sys2Proof.Machine

theorem keep_reduceVecs {cs : List Instr} {s : State} (count : Nat) (y1 : List Queue) (hk : Keeps cs s) :
    Keeps cs (State.reduceVecs s count y1) := by
  induction y1 generalizing s count with
  | nil =>
    unfold State.reduceVecs; try dsimp only
    repeat' (first | with_reducible assumption | with_reducible apply ih | with_reducible apply keep_setF | with_reducible apply keeps_ite | with_reducible intro _)
  | cons a l ih =>
    unfold State.reduceVecs; try dsimp only
    repeat' (first | with_reducible assumption | with_reducible apply ih | with_reducible apply keep_setF | with_reducible apply keeps_ite | with_reducible intro _)

theorem keep_dropPend {cs : List Instr} {s : State} (t : Tenant) (count : Nat) (hk : Keeps cs s) :
    Keeps cs (State.dropPend s t count) := by
  unfold State.dropPend
  try dsimp only
  repeat' (first | with_reducible assumption | with_reducible apply keep_count | with_reducible apply keep_setFn | with_reducible apply keeps_ite | with_reducible intro _ | refine keeps_mk rfl rfl rfl rfl rfl rfl rfl rfl ?_)

theorem keep_wTvec {cs : List Instr} {s : State} (t : Tenant) (v : Word) (hk : Keeps cs s) :
    KeepsW cs (State.wTvec s t v) := by
  unfold State.wTvec
  try dsimp only
  repeat' (first | with_reducible assumption | with_reducible apply keep_count | with_reducible apply keep_dropPend | with_reducible apply keep_reduceVecs | with_reducible apply keep_setF | with_reducible apply keeps_ite | with_reducible apply keepsW_ite | with_reducible apply keepsW_ok | exact keepsW_refuse | with_reducible intro _ | refine keeps_mk rfl rfl rfl rfl rfl rfl rfl rfl ?_)

theorem keep_execTvecWrite {cs : List Instr} {s : State} (src : Src) (t : Tenant) (v : Word) (hk : Keeps cs s) :
    KeepsO cs (execTvecWrite src t v s) := by
  unfold execTvecWrite
  try dsimp only
  repeat' (first | with_reducible assumption | with_reducible apply keep_apply | with_reducible apply keep_pfDrop | with_reducible apply keep_wTvec | with_reducible apply keepsO_next | with_reducible apply keeps_ite | with_reducible apply keepsO_ite | with_reducible apply keepsW_ite | with_reducible intro _ | refine keeps_fst (by with_reducible assumption) ?_ | refine keeps_snd (by with_reducible assumption) ?_ | split | refine keeps_mk rfl rfl rfl rfl rfl rfl rfl rfl ?_)

theorem keep_wQvec {cs : List Instr} {s : State} (q : Nat) (v : Word) (hk : Keeps cs s) :
    KeepsW cs (State.wQvec s q v) := by
  unfold State.wQvec
  try dsimp only
  repeat' (first | with_reducible assumption | with_reducible apply keep_setF | with_reducible apply keeps_ite | with_reducible apply keepsW_ite | with_reducible apply keepsW_ok | exact keepsW_refuse | with_reducible intro _ | refine keeps_fst (by with_reducible assumption) ?_ | refine keeps_snd (by with_reducible assumption) ?_ | refine keepsW_get (by with_reducible assumption) ?_ | exact keepsW_get rfl (by with_reducible assumption) | split | refine keeps_mk rfl rfl rfl rfl rfl rfl rfl rfl ?_)

theorem keep_execQvecWrite {cs : List Instr} {s : State} (src : Src) (q : Qid) (v : Word) (hk : Keeps cs s) :
    KeepsO cs (execQvecWrite src q v s) := by
  unfold execQvecWrite
  try dsimp only
  repeat' (first | with_reducible assumption | with_reducible apply keep_apply | with_reducible apply keep_pfDrop | with_reducible apply keep_wQvec | with_reducible apply keepsO_next | with_reducible apply keeps_ite | with_reducible apply keepsO_ite | with_reducible apply keepsW_ite | with_reducible intro _ | refine keeps_fst (by with_reducible assumption) ?_ | refine keeps_snd (by with_reducible assumption) ?_ | split | refine keeps_mk rfl rfl rfl rfl rfl rfl rfl rfl ?_)

theorem keep_wPfevt {cs : List Instr} {s : State} (v : Word) (hk : Keeps cs s) :
    KeepsW cs (State.wPfevt s v) := by
  unfold State.wPfevt
  try dsimp only
  repeat' (first | with_reducible assumption | with_reducible apply keep_setF | with_reducible apply keeps_ite | with_reducible apply keepsW_ite | with_reducible apply keepsW_ok | exact keepsW_refuse | with_reducible intro _)

theorem keep_unpend {cs : List Instr} {s : State} (t : Tenant) (y1 : List (Fin 64)) (hk : Keeps cs s) :
    Keeps cs (State.unpend s t y1) := by
  induction y1 generalizing s t with
  | nil =>
    unfold State.unpend; try dsimp only
    repeat' (first | with_reducible assumption | with_reducible apply ih | with_reducible apply keep_setFn | with_reducible apply keep_signal | with_reducible apply keeps_ite | with_reducible intro _ | refine keeps_mk rfl rfl rfl rfl rfl rfl rfl rfl ?_)
  | cons a l ih =>
    unfold State.unpend; try dsimp only
    repeat' (first | with_reducible assumption | with_reducible apply ih | with_reducible apply keep_setFn | with_reducible apply keep_signal | with_reducible apply keeps_ite | with_reducible intro _ | refine keeps_mk rfl rfl rfl rfl rfl rfl rfl rfl ?_)

theorem keep_msixWr {cs : List Instr} {s : State} (t : Tenant) (e : Fin 64) (word : Fin 5) (v : Word) (hk : Keeps cs s) :
    Keeps cs (State.msixWr s t e word v) := by
  unfold State.msixWr
  try dsimp only
  repeat' (first | with_reducible assumption | with_reducible apply keep_setFn | with_reducible apply keep_unpend | with_reducible apply keepsO_next | with_reducible apply keeps_ite | with_reducible apply keepsO_ite | with_reducible apply keepsW_ite | with_reducible apply keepsA_ite | with_reducible apply keeps_fst_ite | with_reducible apply keepsW_ok | exact keepsW_refuse | with_reducible apply keepsA_ok | exact keepsA_er | with_reducible apply keepsA_fail | with_reducible apply keeps_foldl | with_reducible intro _ | refine keeps_fst (by with_reducible assumption) ?_ | refine keeps_snd (by with_reducible assumption) ?_ | refine keepsW_get (by with_reducible assumption) ?_ | refine keepsO_get (by with_reducible assumption) ?_ | exact keepsO_get rfl (by with_reducible assumption) | exact keepsW_get rfl (by with_reducible assumption) | exact keepsA_ok_get rfl (by with_reducible assumption) | exact keepsA_fail_get rfl (by with_reducible assumption) | with_reducible apply keep_putErr | exact keeps_evq (by with_reducible assumption) | exact Keeps.evq hk _ | refine keeps_evq (cs := cs) ?_ | with_reducible apply queueEvent_evq | exact Nat.zero_le _ | split | refine keeps_mk rfl rfl rfl rfl rfl rfl rfl rfl ?_)

theorem keep_execMsixTableWrite {cs : List Instr} {s : State} (src : Src) (loc : MsixAt) (v : Word) (hk : Keeps cs s) :
    KeepsO cs (execMsixTableWrite src loc v s) := by
  unfold execMsixTableWrite
  try dsimp only
  repeat' (first | with_reducible assumption | with_reducible apply keep_cfgRequest | with_reducible apply keep_msixWr | with_reducible apply keep_pfDrop | with_reducible apply keepsO_next | with_reducible apply keeps_ite | with_reducible apply keepsO_ite | with_reducible intro _ | split | refine keeps_mk rfl rfl rfl rfl rfl rfl rfl rfl ?_)

theorem keep_execMsixCoalesceTimeout {cs : List Instr} {s : State} (p : Fin 2048) (hk : Keeps cs s) :
    KeepsO cs (execMsixCoalesceTimeout p s) := by
  unfold execMsixCoalesceTimeout
  try dsimp only
  repeat' (first | with_reducible assumption | with_reducible apply keep_poolClear | with_reducible apply keep_signal | with_reducible apply keepsO_next | refine keeps_fst (by with_reducible assumption) ?_ | refine keeps_snd (by with_reducible assumption) ?_ | split | refine keeps_mk rfl rfl rfl rfl rfl rfl rfl rfl ?_)

theorem keep_changeShare {cs : List Instr} {s : State} (t : Tenant) (w : Word) (hk : Keeps cs s) :
    Keeps cs (State.changeShare s t w) := by
  unfold State.changeShare
  try dsimp only
  repeat' (first | with_reducible assumption | with_reducible apply keep_takeShare | with_reducible apply keeps_ite | with_reducible intro _ | refine keeps_mk rfl rfl rfl rfl rfl rfl rfl rfl ?_)

theorem keep_wTshare {cs : List Instr} {s : State} (src : Src) (t : Tenant) (v : Word) (hk : Keeps cs s) :
    KeepsW cs (State.wTshare s src t v) := by
  unfold State.wTshare
  try dsimp only
  repeat' (first | with_reducible assumption | with_reducible apply keep_changeShare | with_reducible apply keeps_ite | with_reducible apply keepsW_ite | with_reducible apply keepsW_ok | exact keepsW_refuse | with_reducible intro _ | refine keeps_mk rfl rfl rfl rfl rfl rfl rfl rfl ?_)

theorem keep_execTshareWrite {cs : List Instr} {s : State} (src : Src) (t : Tenant) (v : Word) (hk : Keeps cs s) :
    KeepsO cs (execTshareWrite src t v s) := by
  unfold execTshareWrite
  try dsimp only
  repeat' (first | with_reducible assumption | with_reducible apply keep_apply | with_reducible apply keep_pfDrop | with_reducible apply keep_wTshare | with_reducible apply keepsO_next | with_reducible apply keeps_ite | with_reducible apply keepsO_ite | with_reducible apply keepsW_ite | with_reducible apply keepsW_ok | exact keepsW_refuse | with_reducible intro _ | split | refine keeps_mk rfl rfl rfl rfl rfl rfl rfl rfl ?_)

theorem keep_wGcap {cs : List Instr} {s : State} (v : Word) (hk : Keeps cs s) :
    KeepsW cs (State.wGcap s v) := by
  unfold State.wGcap
  try dsimp only
  repeat' (first | with_reducible assumption | with_reducible apply keep_setF | with_reducible apply keeps_ite | with_reducible apply keepsW_ite | with_reducible apply keepsW_ok | exact keepsW_refuse | with_reducible intro _)

theorem keep_execGcapWrite {cs : List Instr} {s : State} (src : Src) (v : Word) (hk : Keeps cs s) :
    KeepsO cs (execGcapWrite src v s) := by
  unfold execGcapWrite
  try dsimp only
  repeat' (first | with_reducible assumption | with_reducible apply keep_apply | with_reducible apply keep_pfDrop | with_reducible apply keep_wGcap | with_reducible apply keepsO_next | with_reducible apply keeps_ite | with_reducible apply keepsO_ite | with_reducible apply keepsW_ite | with_reducible intro _ | refine keeps_fst (by with_reducible assumption) ?_ | refine keeps_snd (by with_reducible assumption) ?_ | split | refine keeps_mk rfl rfl rfl rfl rfl rfl rfl rfl ?_)

theorem keep_execTenantQuery {cs : List Instr} {s : State} (ln : Ln) (t : Tenant) (hk : Keeps cs s) :
    KeepsO cs (execTenantQuery ln t s) := by
  unfold execTenantQuery
  try dsimp only
  repeat' (first | with_reducible assumption | with_reducible apply keep_verb | with_reducible apply keepsO_next | with_reducible apply keeps_ite | with_reducible apply keepsO_ite | with_reducible apply keepsA_ite | with_reducible apply keepsA_ok | exact keepsA_er | with_reducible intro _)

theorem keep_execTenant {cs : List Instr} {s : State} (ln : Ln) (t : Tenant) (cls : Option Cls) (weight : Option Nat) (rate : Option Nat) (hk : Keeps cs s) :
    KeepsO cs (execTenant ln t cls weight rate s) := by
  unfold execTenant
  try dsimp only
  repeat' (first | with_reducible assumption | with_reducible apply keep_changeShare | with_reducible apply keep_verb | with_reducible apply keepsO_next | with_reducible apply keeps_ite | with_reducible apply keepsO_ite | with_reducible apply keepsA_ite | with_reducible apply keepsA_ok | exact keepsA_er | with_reducible intro _)

theorem keep_execQueueCreate {cs : List Instr} {s : State} (ln : Ln) (t : Tenant) (q : Option Nat) (ring : Option DWord) (size : Option Nat) (timeout : Option Nat) (hk : Keeps cs s) :
    KeepsO cs (execQueueCreate ln t q ring size timeout s) := by
  unfold execQueueCreate
  try dsimp only
  repeat' (first | with_reducible assumption | with_reducible apply keep_verb | with_reducible apply keepsO_next | with_reducible apply keepsA_ok | exact keepsA_er | refine keeps_fst (by with_reducible assumption) ?_ | refine keeps_snd (by with_reducible assumption) ?_ | refine keepsW_get (by with_reducible assumption) ?_ | exact keepsW_get rfl (by with_reducible assumption) | refine keep_create ?_ (by with_reducible assumption) | split | refine keeps_mk rfl rfl rfl rfl rfl rfl rfl rfl ?_)

theorem keep_execQueueDelete {cs : List Instr} {s : State} (ln : Ln) (q : Nat) (hk : Keeps cs s) :
    KeepsO cs (execQueueDelete ln q s) := by
  unfold execQueueDelete
  try dsimp only
  repeat' (first | with_reducible assumption | with_reducible apply keep_dropQueue | with_reducible apply keep_verb | with_reducible apply keepsO_next | with_reducible apply keeps_ite | with_reducible apply keepsO_ite | with_reducible apply keepsA_ite | with_reducible apply keepsA_ok | exact keepsA_er | with_reducible intro _ | refine keeps_fst (by with_reducible assumption) ?_ | refine keeps_snd (by with_reducible assumption) ?_ | refine keepsW_get (by with_reducible assumption) ?_ | exact keepsW_get rfl (by with_reducible assumption) | split | refine keeps_mk rfl rfl rfl rfl rfl rfl rfl rfl ?_)

theorem keep_execQueueQuery {cs : List Instr} {s : State} (ln : Ln) (q : Nat) (hk : Keeps cs s) :
    KeepsO cs (execQueueQuery ln q s) := by
  unfold execQueueQuery
  try dsimp only
  repeat' (first | with_reducible assumption | with_reducible apply keep_verb | with_reducible apply keepsO_next | with_reducible apply keeps_ite | with_reducible apply keepsO_ite | with_reducible apply keepsA_ite | with_reducible apply keepsA_ok | exact keepsA_er | with_reducible intro _ | refine keeps_fst (by with_reducible assumption) ?_ | refine keeps_snd (by with_reducible assumption) ?_ | refine keepsW_get (by with_reducible assumption) ?_ | exact keepsW_get rfl (by with_reducible assumption) | split | refine keeps_mk rfl rfl rfl rfl rfl rfl rfl rfl ?_)

theorem keep_qres {cs : List Instr} {s : State} (q : Nat) (code : Nat) (hk : Keeps cs s) :
    Keeps cs (State.qres s q code) := by
  unfold State.qres
  try dsimp only
  repeat' (first | with_reducible assumption | with_reducible apply keep_setF)

theorem keep_qcmdCreate {cs : List Instr} {s : State} (q : Qid) (hk : Keeps cs s) :
    Keeps cs (State.qcmdCreate s q) := by
  unfold State.qcmdCreate
  try dsimp only
  repeat' (first | with_reducible assumption | with_reducible apply keep_qres | with_reducible apply keeps_ite | with_reducible intro _ | refine keeps_fst (by with_reducible assumption) ?_ | refine keeps_snd (by with_reducible assumption) ?_ | refine keepsW_get (by with_reducible assumption) ?_ | exact keepsW_get rfl (by with_reducible assumption) | refine keep_create ?_ (by with_reducible assumption) | split | refine keeps_mk rfl rfl rfl rfl rfl rfl rfl rfl ?_)

theorem keep_execQcmdCreate {cs : List Instr} {s : State} (src : Src) (q : Qid) (hk : Keeps cs s) :
    KeepsO cs (execQcmdCreate src q s) := by
  unfold execQcmdCreate
  try dsimp only
  repeat' (first | with_reducible assumption | with_reducible apply keep_pfDrop | with_reducible apply keep_qcmdCreate | with_reducible apply keepsO_next | with_reducible apply keeps_ite | with_reducible apply keepsO_ite | with_reducible intro _ | split | refine keeps_mk rfl rfl rfl rfl rfl rfl rfl rfl ?_)

theorem keep_qcmdDelete {cs : List Instr} {s : State} (q : Qid) (hk : Keeps cs s) :
    Keeps cs (State.qcmdDelete s q) := by
  unfold State.qcmdDelete
  try dsimp only
  repeat' (first | with_reducible assumption | with_reducible apply keep_dropQueue | with_reducible apply keep_qres | refine keeps_fst (by with_reducible assumption) ?_ | refine keeps_snd (by with_reducible assumption) ?_ | split | refine keeps_mk rfl rfl rfl rfl rfl rfl rfl rfl ?_)

theorem keep_execQcmdDelete {cs : List Instr} {s : State} (src : Src) (q : Qid) (hk : Keeps cs s) :
    KeepsO cs (execQcmdDelete src q s) := by
  unfold execQcmdDelete
  try dsimp only
  repeat' (first | with_reducible assumption | with_reducible apply keep_pfDrop | with_reducible apply keep_qcmdDelete | with_reducible apply keepsO_next | with_reducible apply keeps_ite | with_reducible apply keepsO_ite | with_reducible intro _ | refine keeps_fst (by with_reducible assumption) ?_ | refine keeps_snd (by with_reducible assumption) ?_ | split | refine keeps_mk rfl rfl rfl rfl rfl rfl rfl rfl ?_)

end Sys2Proof.Machine
end

