-- ==== Sys2Proof/Laws/KeepsCodec.lean ====
section
/-! SUPPORT. Every operation of Machine/Codec.lean keeps the machine's invariant and its queue. -/

namespace Sys2Proof.Machine

theorem keep_markFed {cs : List Instr} {s : State} (r : Rec) (no : Nat) (hk : Keeps cs s) :
    Keeps cs (State.markFed s r no) := by
  unfold State.markFed
  try dsimp only
  repeat' (first | with_reducible assumption | with_reducible apply keep_setRec | refine keeps_mk rfl rfl rfl rfl rfl rfl rfl rfl ?_)

theorem keep_giveFeed {cs : List Instr} {s : State} (e : Fin 4) (t : Tenant) (uids : List Nat) (replay : Bool) (hk : Keeps cs s) :
    Keeps cs (State.giveFeed s e t uids replay) := by
  unfold State.giveFeed
  try dsimp only
  repeat' (first | with_reducible assumption | with_reducible apply keep_feed | with_reducible apply keep_setEng | with_reducible apply keep_settle | with_reducible apply keeps_ite | with_reducible intro _ | refine keeps_mk rfl rfl rfl rfl rfl rfl rfl rfl ?_)

theorem keep_feedDeficit {cs : List Instr} {s : State} (t : Tenant) (y1 : Nat) (hk : Keeps cs s) :
    Keeps cs (State.feedDeficit s t y1).1 := by
  induction y1 generalizing s t with
  | zero =>
    unfold State.feedDeficit; try dsimp only
    repeat' (first | with_reducible assumption | with_reducible apply ih | with_reducible apply keep_markFed | with_reducible apply keep_setBal | with_reducible apply keeps_ite | with_reducible apply keeps_fst_ite | with_reducible intro _ | refine keeps_fst (by with_reducible assumption) ?_ | refine keeps_snd (by with_reducible assumption) ?_ | split | refine keeps_mk rfl rfl rfl rfl rfl rfl rfl rfl ?_)
  | succ k ih =>
    unfold State.feedDeficit; try dsimp only
    repeat' (first | with_reducible assumption | with_reducible apply ih | with_reducible apply keep_markFed | with_reducible apply keep_setBal | with_reducible apply keeps_ite | with_reducible apply keeps_fst_ite | with_reducible intro _ | refine keeps_fst (by with_reducible assumption) ?_ | refine keeps_snd (by with_reducible assumption) ?_ | split | refine keeps_mk rfl rfl rfl rfl rfl rfl rfl rfl ?_)

theorem keep_startRound {cs : List Instr} {s : State}  (hk : Keeps cs s) :
    Keeps cs (State.startRound s) := by
  unfold State.startRound
  try dsimp only
  repeat' (first | with_reducible assumption | with_reducible apply keep_takeShares | with_reducible apply keeps_ite | with_reducible intro _ | refine keeps_mk rfl rfl rfl rfl rfl rfl rfl rfl ?_)

theorem keep_addFlush {cs : List Instr} {s : State}  (hk : Keeps cs s) :
    Keeps cs (State.addFlush s) := by
  unfold State.addFlush
  try dsimp only
  repeat' (first | with_reducible assumption | with_reducible apply keeps_ite | with_reducible intro _ | refine keeps_mk rfl rfl rfl rfl rfl rfl rfl rfl ?_)

theorem keep_flushAll {cs : List Instr} {s : State}  (hk : Keeps cs s) :
    Keeps cs (State.flushAll s) := by
  unfold State.flushAll
  try dsimp only
  repeat' (first | with_reducible assumption | with_reducible apply keep_addFlush | with_reducible apply keep_flush | with_reducible apply keep_setEng | with_reducible apply keeps_ite | with_reducible intro _ | refine keeps_mk rfl rfl rfl rfl rfl rfl rfl rfl ?_)

theorem keep_nokeys {cs : List Instr} {s : State} (y1 : List Tenant) (hk : Keeps cs s) :
    Keeps cs (State.nokeys s y1) := by
  induction y1 generalizing s with
  | nil =>
    unfold State.nokeys; try dsimp only
    repeat' (first | with_reducible assumption | with_reducible apply keep_log | with_reducible apply keeps_ite | with_reducible intro _ | split | refine keeps_mk rfl rfl rfl rfl rfl rfl rfl rfl ?_)
  | cons a l ih =>
    unfold State.nokeys; try dsimp only
    repeat' (first | with_reducible assumption | with_reducible apply ih | with_reducible apply keep_log | with_reducible apply keeps_ite | with_reducible intro _ | split | refine keeps_mk rfl rfl rfl rfl rfl rfl rfl rfl ?_)

theorem keep_markAll {cs : List Instr} {s : State} (no : Nat) (y1 : List Rec) (hk : Keeps cs s) :
    Keeps cs (State.markAll s no y1) := by
  induction y1 generalizing s no with
  | nil =>
    unfold State.markAll; try dsimp only
    repeat' (first | with_reducible assumption | with_reducible apply ih | with_reducible apply keep_setRec | refine keeps_mk rfl rfl rfl rfl rfl rfl rfl rfl ?_)
  | cons a l ih =>
    unfold State.markAll; try dsimp only
    repeat' (first | with_reducible assumption | with_reducible apply ih | with_reducible apply keep_setRec | refine keeps_mk rfl rfl rfl rfl rfl rfl rfl rfl ?_)

theorem keep_feedReplay {cs : List Instr} {s : State} (e : Fin 4) (t : Tenant) (hk : Keeps cs s) :
    Keeps cs (State.feedReplay s e t) := by
  unfold State.feedReplay
  try dsimp only
  repeat' (first | with_reducible assumption | with_reducible apply keep_flushAll | with_reducible apply keep_giveFeed | with_reducible apply keep_markAll | with_reducible apply keeps_ite | with_reducible intro _ | refine keeps_mk rfl rfl rfl rfl rfl rfl rfl rfl ?_)

theorem keep_execSchFeed {cs : List Instr} {s : State} (t : Tenant) (hk : Keeps cs s) :
    KeepsO cs (execSchFeed t s) := by
  unfold execSchFeed
  try dsimp only
  repeat' (first | with_reducible assumption | with_reducible apply keep_feedDeficit | with_reducible apply keep_feedReplay | with_reducible apply keep_giveFeed | with_reducible apply keep_markFed | with_reducible apply keep_nokeys | with_reducible apply keep_setBal | with_reducible apply keep_settleShares | with_reducible apply keep_startRound | with_reducible apply keep_tokens | with_reducible apply keepsO_next | with_reducible apply keeps_ite | with_reducible apply keepsO_ite | with_reducible intro _ | refine keeps_fst (by with_reducible assumption) ?_ | refine keeps_snd (by with_reducible assumption) ?_ | split | refine keeps_mk rfl rfl rfl rfl rfl rfl rfl rfl ?_)

theorem keep_execBulkStarve {cs : List Instr} {s : State} (t : Tenant) (hk : Keeps cs s) :
    KeepsO cs (execBulkStarve t s) := by
  unfold execBulkStarve
  try dsimp only
  repeat' (first | with_reducible assumption | with_reducible apply keepsO_next | with_reducible apply keeps_ite | with_reducible apply keepsO_ite | with_reducible intro _ | refine keeps_mk rfl rfl rfl rfl rfl rfl rfl rfl ?_)

theorem keep_engFail {cs : List Instr} {s : State} (before : Nat) (hk : Keeps cs s) :
    Keeps cs (State.engFail s before) := by
  unfold State.engFail
  try dsimp only
  repeat' (first | with_reducible assumption | with_reducible apply keep_addFlush | with_reducible apply keep_log | with_reducible apply keeps_ite | with_reducible intro _ | refine keeps_mk rfl rfl rfl rfl rfl rfl rfl rfl ?_)

theorem keep_killEng {cs : List Instr} {s : State} (e : Fin 4) (hk : Keeps cs s) :
    Keeps cs (State.killEng s e) := by
  unfold State.killEng
  try dsimp only
  repeat' (first | with_reducible assumption | with_reducible apply keep_engFail | with_reducible apply keep_setEng | with_reducible apply keep_settle | refine keeps_fst (by with_reducible assumption) ?_ | refine keeps_snd (by with_reducible assumption) ?_ | split | refine keeps_mk rfl rfl rfl rfl rfl rfl rfl rfl ?_)

theorem keep_shorten {cs : List Instr} {s : State} (e : Fin 4) (j : Job) (k : Nat) (hk : Keeps cs s) :
    Keeps cs (State.shorten s e j k) := by
  unfold State.shorten
  try dsimp only
  repeat' (first | with_reducible assumption | with_reducible apply keep_drop | with_reducible apply keep_feed | with_reducible apply keep_setEng | with_reducible apply keeps_ite | with_reducible intro _ | refine keeps_fst (by with_reducible assumption) ?_ | refine keeps_snd (by with_reducible assumption) ?_ | split | refine keeps_mk rfl rfl rfl rfl rfl rfl rfl rfl ?_)

theorem keep_losePiece {cs : List Instr} {s : State} (e : Fin 4) (j : Job) (k : Nat) (er : Er) (hk : Keeps cs s) :
    Keeps cs (State.losePiece s e j k er) := by
  unfold State.losePiece
  try dsimp only
  repeat' (first | with_reducible assumption | with_reducible apply keep_abort | with_reducible apply keep_shorten | with_reducible apply keeps_ite | with_reducible intro _ | split | refine keeps_mk rfl rfl rfl rfl rfl rfl rfl rfl ?_)

theorem keep_worsen {cs : List Instr} {s : State} (j : Job) (w : Nat) (hk : Keeps cs s) :
    Keeps cs (State.worsen s j w) := by
  unfold State.worsen
  try dsimp only
  repeat' (first | with_reducible assumption | with_reducible apply keeps_ite | with_reducible intro _ | refine keeps_mk rfl rfl rfl rfl rfl rfl rfl rfl ?_)

theorem keep_offer {cs : List Instr} {s : State} (e : Fin 4) (j : Job) (flushed : Bool) (enc : Encode) (hk : Keeps cs s) :
    Keeps cs (State.offer s e j flushed enc) := by
  unfold State.offer
  try dsimp only
  repeat' (first | with_reducible assumption | with_reducible apply keep_count | with_reducible apply keep_flush | with_reducible apply keep_killEng | with_reducible apply keep_log | with_reducible apply keep_madeBlock | with_reducible apply keep_readPieces | with_reducible apply keep_setEng | with_reducible apply keep_tokens | with_reducible apply keeps_ite | with_reducible apply keeps_fst_ite | with_reducible intro _ | refine keeps_fst (by with_reducible assumption) ?_ | refine keeps_snd (by with_reducible assumption) ?_ | split | refine keeps_mk rfl rfl rfl rfl rfl rfl rfl rfl ?_)

theorem keep_hold {cs : List Instr} {s : State} (e : Fin 4) (hk : Keeps cs s) :
    Keeps cs (State.hold s e) := by
  unfold State.hold
  try dsimp only
  repeat' (first | with_reducible assumption | with_reducible apply keep_setEng | with_reducible apply keeps_ite | with_reducible intro _ | refine keeps_fst (by with_reducible assumption) ?_ | refine keeps_snd (by with_reducible assumption) ?_ | split | refine keeps_mk rfl rfl rfl rfl rfl rfl rfl rfl ?_)

theorem keep_execBlockEncodeComplete {cs : List Instr} {s : State} (e : Eng) (enc : Encode) (hk : Keeps cs s) :
    KeepsO cs (execBlockEncodeComplete e enc s) := by
  unfold execBlockEncodeComplete
  try dsimp only
  repeat' (first | with_reducible assumption | with_reducible apply keep_flush | with_reducible apply keep_hold | with_reducible apply keep_losePiece | with_reducible apply keep_offer | with_reducible apply keep_readPieces | with_reducible apply keep_setEng | with_reducible apply keep_settle | with_reducible apply keep_shorten | with_reducible apply keep_worsen | with_reducible apply keepsO_next | with_reducible apply keeps_ite | with_reducible apply keepsO_ite | with_reducible apply keeps_fst_ite | with_reducible intro _ | refine keeps_fst (by with_reducible assumption) ?_ | refine keeps_snd (by with_reducible assumption) ?_ | split | refine keeps_mk rfl rfl rfl rfl rfl rfl rfl rfl ?_)

theorem keep_wRdcCfg {cs : List Instr} {s : State} (v : Word) (hk : Keeps cs s) :
    KeepsW cs (State.wRdcCfg s v) := by
  unfold State.wRdcCfg
  try dsimp only
  repeat' (first | with_reducible assumption | with_reducible apply keep_engFail | with_reducible apply keep_setF | with_reducible apply keep_settle | with_reducible apply keeps_ite | with_reducible apply keepsW_ite | with_reducible apply keepsW_ok | exact keepsW_refuse | with_reducible intro _)

theorem keep_execRdcEngineEnableWrite {cs : List Instr} {s : State} (src : Src) (v : Word) (hk : Keeps cs s) :
    KeepsO cs (execRdcEngineEnableWrite src v s) := by
  unfold execRdcEngineEnableWrite
  try dsimp only
  repeat' (first | with_reducible assumption | with_reducible apply keep_apply | with_reducible apply keep_pfDrop | with_reducible apply keep_wRdcCfg | with_reducible apply keepsO_next | with_reducible apply keeps_ite | with_reducible apply keepsO_ite | with_reducible apply keepsW_ite | with_reducible intro _ | refine keeps_fst (by with_reducible assumption) ?_ | refine keeps_snd (by with_reducible assumption) ?_ | split | refine keeps_mk rfl rfl rfl rfl rfl rfl rfl rfl ?_)

theorem keep_wEnlCfg {cs : List Instr} {s : State} (v : Word) (hk : Keeps cs s) :
    KeepsW cs (State.wEnlCfg s v) := by
  unfold State.wEnlCfg
  try dsimp only
  repeat' (first | with_reducible assumption | with_reducible apply keep_setF | with_reducible apply keepsW_ok | exact keepsW_refuse)

theorem keep_execEnlEngineEnableWrite {cs : List Instr} {s : State} (src : Src) (v : Word) (hk : Keeps cs s) :
    KeepsO cs (execEnlEngineEnableWrite src v s) := by
  unfold execEnlEngineEnableWrite
  try dsimp only
  repeat' (first | with_reducible assumption | with_reducible apply keep_apply | with_reducible apply keep_pfDrop | with_reducible apply keep_wEnlCfg | with_reducible apply keepsO_next | with_reducible apply keeps_ite | with_reducible apply keepsO_ite | with_reducible apply keepsW_ite | with_reducible intro _ | refine keeps_fst (by with_reducible assumption) ?_ | refine keeps_snd (by with_reducible assumption) ?_ | split | refine keeps_mk rfl rfl rfl rfl rfl rfl rfl rfl ?_)

theorem keep_setEnl {cs : List Instr} {s : State} (e : Fin 4) (x : EnlEng) (hk : Keeps cs s) :
    Keeps cs (State.setEnl s e x) := by
  unfold State.setEnl
  try dsimp only
  repeat' (first | with_reducible assumption | refine keeps_mk rfl rfl rfl rfl rfl rfl rfl rfl ?_)

theorem keep_holdEnl {cs : List Instr} {s : State} (e : Fin 4) (hk : Keeps cs s) :
    Keeps cs (State.holdEnl s e) := by
  unfold State.holdEnl
  try dsimp only
  repeat' (first | with_reducible assumption | with_reducible apply keep_setEnl | with_reducible apply keeps_ite | with_reducible intro _ | split | refine keeps_mk rfl rfl rfl rfl rfl rfl rfl rfl ?_)

theorem keep_startTest {cs : List Instr} {s : State}  (hk : Keeps cs s) :
    Keeps cs (State.startTest s) := by
  unfold State.startTest
  try dsimp only
  repeat' (first | with_reducible assumption | with_reducible apply keep_setF | refine keeps_mk rfl rfl rfl rfl rfl rfl rfl rfl ?_)

theorem keep_execTestCodec {cs : List Instr} {s : State} (ln : Ln) (hk : Keeps cs s) :
    KeepsO cs (execTestCodec ln s) := by
  unfold execTestCodec
  try dsimp only
  repeat' (first | with_reducible assumption | with_reducible apply keep_startTest | with_reducible apply keep_verb | with_reducible apply keepsO_next | with_reducible apply keeps_ite | with_reducible apply keepsO_ite | with_reducible apply keepsA_ite | with_reducible apply keepsA_ok | exact keepsA_er | with_reducible intro _ | refine keeps_mk rfl rfl rfl rfl rfl rfl rfl rfl ?_)

theorem keep_execCodecTestPeriod {cs : List Instr} {s : State}  (hk : Keeps cs s) :
    KeepsO cs (execCodecTestPeriod s) := by
  unfold execCodecTestPeriod
  try dsimp only
  repeat' (first | with_reducible assumption | with_reducible apply keep_startTest | with_reducible apply keepsO_next | with_reducible apply keeps_ite | with_reducible apply keepsO_ite | with_reducible intro _)

theorem keep_endTest {cs : List Instr} {s : State}  (hk : Keeps cs s) :
    Keeps cs (State.endTest s) := by
  unfold State.endTest
  try dsimp only
  repeat' (first | with_reducible assumption | with_reducible apply keep_doneAll | with_reducible apply keep_setF | with_reducible apply keep_settle | with_reducible apply keeps_ite | with_reducible apply keepsA_fail | with_reducible intro _ | refine keeps_fst (by with_reducible assumption) ?_ | refine keeps_snd (by with_reducible assumption) ?_ | split | refine keeps_mk rfl rfl rfl rfl rfl rfl rfl rfl ?_)

theorem keep_slice {cs : List Instr} {s : State} (t : CodecTest) (enl : Bool) (e : Fin 4) (pass : Bool) (hk : Keeps cs s) :
    Keeps cs (State.slice s t enl e pass) := by
  unfold State.slice
  try dsimp only
  repeat' (first | with_reducible assumption | with_reducible apply keep_killEng | with_reducible apply keep_log | with_reducible apply keep_setEng | with_reducible apply keep_setEnl | with_reducible apply keep_setF | with_reducible apply keeps_ite | with_reducible intro _ | split | refine keeps_mk rfl rfl rfl rfl rfl rfl rfl rfl ?_)

theorem keep_execCodecTestSlice {cs : List Instr} {s : State} (enl : Bool) (e : Eng) (v : Verdict) (hk : Keeps cs s) :
    KeepsO cs (execCodecTestSlice enl e v s) := by
  unfold execCodecTestSlice
  try dsimp only
  repeat' (first | with_reducible assumption | with_reducible apply keep_endTest | with_reducible apply keep_setEng | with_reducible apply keep_setEnl | with_reducible apply keep_settle | with_reducible apply keep_slice | with_reducible apply keepsO_next | with_reducible apply keeps_ite | with_reducible apply keepsO_ite | with_reducible intro _ | split | refine keeps_mk rfl rfl rfl rfl rfl rfl rfl rfl ?_)

theorem keep_execCodecTestWaitExpiry {cs : List Instr} {s : State} (enl : Bool) (hk : Keeps cs s) :
    KeepsO cs (execCodecTestWaitExpiry enl s) := by
  unfold execCodecTestWaitExpiry
  try dsimp only
  repeat' (first | with_reducible assumption | with_reducible apply keepsO_next | with_reducible apply keeps_ite | with_reducible apply keepsO_ite | with_reducible intro _ | refine keeps_fst (by with_reducible assumption) ?_ | refine keeps_snd (by with_reducible assumption) ?_ | split | refine keeps_mk rfl rfl rfl rfl rfl rfl rfl rfl ?_)

theorem keep_restartCodec {cs : List Instr} {s : State}  (hk : Keeps cs s) :
    Keeps cs (State.restartCodec s) := by
  unfold State.restartCodec
  try dsimp only
  repeat' (first | with_reducible assumption | refine keeps_fst (by with_reducible assumption) ?_ | refine keeps_snd (by with_reducible assumption) ?_ | split | refine keeps_mk rfl rfl rfl rfl rfl rfl rfl rfl ?_)

end Sys2Proof.Machine
end

