-- ==== Sys2Proof/Laws/KeepsDrt.lean ====
section
/-! SUPPORT. Every operation of Machine/Drt.lean keeps the machine's invariant and its queue. -/

namespace Sys2Proof.Machine

theorem keep_setDrt {cs : List Instr} {s : State} (d : Drt) (hk : Keeps cs s) :
    Keeps cs (State.setDrt s d) := by
  unfold State.setDrt
  try dsimp only
  repeat' (first | with_reducible assumption | with_reducible apply keeps_ite | with_reducible intro _ | refine keeps_mk rfl rfl rfl rfl rfl rfl rfl rfl ?_)

theorem keep_heard {cs : List Instr} {s : State} (p : Fin 2) (mac : BitVec 48) (ip : Word) (hk : Keeps cs s) :
    Keeps cs (State.heard s p mac ip) := by
  unfold State.heard
  try dsimp only
  repeat' (first | with_reducible assumption | with_reducible apply keeps_ite | with_reducible intro _ | refine keeps_mk rfl rfl rfl rfl rfl rfl rfl rfl ?_)

theorem keep_drtEmit {cs : List Instr} {s : State} (l : Option LinkPeer) (p : Fin 2) (mac : BitVec 48) (d : DrtOut) (hk : Keeps cs s) :
    Keeps cs (State.drtEmit s l p mac d) := by
  unfold State.drtEmit
  try dsimp only
  repeat' (first | with_reducible assumption | with_reducible apply keep_emit | with_reducible apply keep_route | with_reducible apply keeps_ite | with_reducible intro _ | split | refine keeps_mk rfl rfl rfl rfl rfl rfl rfl rfl ?_)

theorem keep_drtSend {cs : List Instr} {s : State} (d : Drt) (ty : Nat) (flags : Nat) (aux : Nat) (payload : List Byte) (hk : Keeps cs s) :
    Keeps cs (State.drtSend s d ty flags aux payload) := by
  unfold State.drtSend
  try dsimp only
  repeat' (first | with_reducible assumption | with_reducible apply keep_drtEmit | with_reducible apply keep_setDrt | with_reducible apply keeps_ite | with_reducible intro _ | refine keeps_mk rfl rfl rfl rfl rfl rfl rfl rfl ?_)

theorem keep_ackTry {cs : List Instr} {s : State} (d : Drt) (hk : Keeps cs s) :
    Keeps cs (State.ackTry s d) := by
  unfold State.ackTry
  try dsimp only
  repeat' (first | with_reducible assumption | with_reducible apply keep_drtSend | with_reducible apply keep_setDrt | with_reducible apply keeps_ite | with_reducible intro _ | refine keeps_mk rfl rfl rfl rfl rfl rfl rfl rfl ?_)

theorem keep_ackSoon {cs : List Instr} {s : State} (d : Drt) (hk : Keeps cs s) :
    Keeps cs (State.ackSoon s d) := by
  unfold State.ackSoon
  try dsimp only
  repeat' (first | with_reducible assumption | with_reducible apply keep_ackTry | refine keeps_mk rfl rfl rfl rfl rfl rfl rfl rfl ?_)

theorem keep_drtFree {cs : List Instr} {s : State} (d : Drt) (hk : Keeps cs s) :
    Keeps cs (State.drtFree s d) := by
  unfold State.drtFree
  try dsimp only
  repeat' (first | with_reducible assumption | with_reducible apply keep_freePagesOf | with_reducible apply keep_setQueue | with_reducible apply keeps_ite | with_reducible intro _ | refine keeps_fst (by with_reducible assumption) ?_ | refine keeps_snd (by with_reducible assumption) ?_ | split | refine keeps_mk rfl rfl rfl rfl rfl rfl rfl rfl ?_)

theorem keep_drtEnd {cs : List Instr} {s : State} (d : Drt) (e : Er) (aux : Nat) (hk : Keeps cs s) :
    Keeps cs (State.drtEnd s d e aux) := by
  unfold State.drtEnd
  try dsimp only
  repeat' (first | with_reducible assumption | with_reducible apply keep_drtFree | with_reducible apply keep_drtSend)

theorem keep_drtEndAll {cs : List Instr} {s : State} (e : Er) (y1 : List Drt) (hk : Keeps cs s) :
    Keeps cs (State.drtEndAll s e y1) := by
  induction y1 generalizing s e with
  | nil =>
    unfold State.drtEndAll; try dsimp only
    repeat' (first | with_reducible assumption | with_reducible apply ih | with_reducible apply keep_drtEnd)
  | cons a l ih =>
    unfold State.drtEndAll; try dsimp only
    repeat' (first | with_reducible assumption | with_reducible apply ih | with_reducible apply keep_drtEnd)

theorem keep_noteSend {cs : List Instr} {s : State} (d : Drt) (code : Nat) (value : Nat) (time : Nat) (hk : Keeps cs s) :
    Keeps cs (State.noteSend s d code value time) := by
  unfold State.noteSend
  try dsimp only
  repeat' (first | with_reducible assumption | with_reducible apply keep_drtSend | with_reducible apply keeps_ite | with_reducible intro _ | refine keeps_mk rfl rfl rfl rfl rfl rfl rfl rfl ?_)

theorem keep_note {cs : List Instr} {s : State} (d : Drt) (on : Bool) (code : Nat) (value : Nat) (hk : Keeps cs s) :
    Keeps cs (State.note s d on code value) := by
  unfold State.note
  try dsimp only
  repeat' (first | with_reducible assumption | with_reducible apply keep_noteSend | with_reducible apply keep_setDrt | with_reducible apply keeps_ite | with_reducible intro _ | refine keeps_fst (by with_reducible assumption) ?_ | refine keeps_snd (by with_reducible assumption) ?_ | split | refine keeps_mk rfl rfl rfl rfl rfl rfl rfl rfl ?_)

theorem keep_noteEach {cs : List Instr} {s : State} (t : Option Tenant) (code : Nat) (value : Tenant → Nat) (y1 : List Drt) (hk : Keeps cs s) :
    Keeps cs (State.noteEach s t code value y1) := by
  induction y1 generalizing s t code value with
  | nil =>
    unfold State.noteEach; try dsimp only
    repeat' (first | with_reducible assumption | with_reducible apply keep_note | with_reducible apply keeps_ite | with_reducible intro _ | split | refine keeps_mk rfl rfl rfl rfl rfl rfl rfl rfl ?_)
  | cons a l ih =>
    unfold State.noteEach; try dsimp only
    repeat' (first | with_reducible assumption | with_reducible apply ih | with_reducible apply keep_note | with_reducible apply keeps_ite | with_reducible intro _ | split | refine keeps_mk rfl rfl rfl rfl rfl rfl rfl rfl ?_)

theorem keep_notify {cs : List Instr} {s : State} (code : Nat) (value : Nat) (hk : Keeps cs s) :
    Keeps cs (State.notify s code value) := by
  unfold State.notify
  try dsimp only
  repeat' (first | with_reducible assumption | with_reducible apply keep_noteEach)

theorem keep_execNotifyHoldoffEnd {cs : List Instr} {s : State} (session : BitVec 16) (ev : Fin 9) (hk : Keeps cs s) :
    KeepsO cs (execNotifyHoldoffEnd session ev s) := by
  unfold execNotifyHoldoffEnd
  try dsimp only
  repeat' (first | with_reducible assumption | with_reducible apply keep_noteSend | with_reducible apply keep_setDrt | with_reducible apply keepsO_next | with_reducible apply keeps_ite | with_reducible apply keepsO_ite | with_reducible intro _ | refine keeps_fst (by with_reducible assumption) ?_ | refine keeps_snd (by with_reducible assumption) ?_ | split | refine keeps_mk rfl rfl rfl rfl rfl rfl rfl rfl ?_)

theorem keep_execOverrateCheck {cs : List Instr} {s : State} (t : Tenant) (mbps : Nat) (hk : Keeps cs s) :
    KeepsO cs (execOverrateCheck t mbps s) := by
  unfold execOverrateCheck
  try dsimp only
  repeat' (first | with_reducible assumption | with_reducible apply keep_noteEach | with_reducible apply keepsO_next | with_reducible apply keeps_ite | with_reducible apply keepsO_ite | with_reducible intro _)

theorem keep_drtDrop {cs : List Instr} {s : State} (h : DrtHdr) (c : DrtCheck) (hk : Keeps cs s) :
    Keeps cs (State.drtDrop s h c) := by
  unfold State.drtDrop
  try dsimp only
  repeat' (first | with_reducible assumption | with_reducible apply keep_count | with_reducible apply keep_drtEmit | with_reducible apply keeps_ite | with_reducible apply keeps_fst_ite | with_reducible intro _ | refine keeps_fst (by with_reducible assumption) ?_ | refine keeps_snd (by with_reducible assumption) ?_ | split | refine keeps_mk rfl rfl rfl rfl rfl rfl rfl rfl ?_)

theorem keep_drtBind {cs : List Instr} {s : State} (h : DrtHdr) (p : DrtOpenP) (q : Queue) (hk : Keeps cs s) :
    Keeps cs (State.drtBind s h p q) := by
  unfold State.drtBind
  try dsimp only
  repeat' (first | with_reducible assumption | with_reducible apply keep_drtSend | with_reducible apply keep_note | with_reducible apply keep_setQueue | with_reducible apply keep_win | with_reducible apply keeps_ite | with_reducible intro _ | split | refine keeps_mk rfl rfl rfl rfl rfl rfl rfl rfl ?_)

theorem keep_hear {cs : List Instr} {s : State} (h : DrtHdr) (hk : Keeps cs s) :
    Keeps cs (State.hear s h) := by
  unfold State.hear
  try dsimp only
  repeat' (first | with_reducible assumption | with_reducible apply keep_heard | with_reducible apply keeps_ite | with_reducible intro _ | refine keeps_mk rfl rfl rfl rfl rfl rfl rfl rfl ?_)

theorem keep_drtRefuse {cs : List Instr} {s : State} (h : DrtHdr) (e : Er) (hk : Keeps cs s) :
    Keeps cs (State.drtRefuse s h e) := by
  unfold State.drtRefuse
  try dsimp only
  repeat' (first | with_reducible assumption | with_reducible apply keep_drtEmit | with_reducible apply keeps_ite | with_reducible intro _ | refine keeps_mk rfl rfl rfl rfl rfl rfl rfl rfl ?_)

theorem keep_drtServe {cs : List Instr} {s : State} (h : DrtHdr) (p : DrtOpenP) (hk : Keeps cs s) :
    Keeps cs (State.drtServe s h p) := by
  unfold State.drtServe
  try dsimp only
  repeat' (first | with_reducible assumption | with_reducible apply keep_drtBind | with_reducible apply keep_drtEmit | with_reducible apply keep_drtRefuse | with_reducible apply keeps_ite | with_reducible intro _ | refine keeps_fst (by with_reducible assumption) ?_ | refine keeps_snd (by with_reducible assumption) ?_ | split | refine keeps_mk rfl rfl rfl rfl rfl rfl rfl rfl ?_)

theorem keep_execDrtOpen {cs : List Instr} {s : State} (h : DrtHdr) (p : DrtOpenP) (hk : Keeps cs s) :
    KeepsO cs (execDrtOpen h p s) := by
  unfold execDrtOpen
  try dsimp only
  repeat' (first | with_reducible assumption | with_reducible apply keep_edge | with_reducible apply keep_count | with_reducible apply keep_drtDrop | with_reducible apply keep_drtServe | with_reducible apply keep_hear | with_reducible apply keepsO_next | with_reducible apply keeps_ite | with_reducible apply keepsO_ite | with_reducible intro _ | refine keeps_mk rfl rfl rfl rfl rfl rfl rfl rfl ?_)

theorem keep_drtAccept {cs : List Instr} {s : State} (d : Drt) (q : Queue) (p : Part) (hk : Keeps cs s) :
    Keeps cs (State.drtAccept s d q p) := by
  unfold State.drtAccept
  try dsimp only
  repeat' (first | with_reducible assumption | with_reducible apply keep_addRec | with_reducible apply keep_feed | with_reducible apply keep_setDrt | with_reducible apply keep_setQueue | with_reducible apply keep_tookBytes | with_reducible apply keeps_ite | with_reducible intro _ | refine keeps_mk rfl rfl rfl rfl rfl rfl rfl rfl ?_)

theorem wf_writeAt {m : List (Nat × Byte)} (pages : List Nat) (off : Nat) (bs : List Byte) (h : Memory.wf m = true) : Memory.wf (writeAt m pages off bs) = true := by
  induction bs generalizing m off with
  | nil => exact h
  | cons b bs ih => exact ih _ (wf_mset _ _ h)

theorem keep_drtSegment {cs : List Instr} {s : State} (d : Drt) (x : Held) (bars : List Nat) (hk : Keeps cs s) : Keeps cs (State.drtSegment s d x bars) := by
  have store {t : State} (ht : Keeps cs t) (q : Queue) (p : Part) : Keeps cs
      (if p.got + x.seg.data.length = p.rlen then
        State.drtAccept (State.fresh { t with tank := writeAt t.tank p.pages p.got x.seg.data } p.pages p.got x.seg.data.length)
          { d with part := some { p with got := p.got + x.seg.data.length } } q { p with got := p.got + x.seg.data.length }
      else State.setDrt (State.fresh { t with tank := writeAt t.tank p.pages p.got x.seg.data } p.pages p.got x.seg.data.length)
          { d with part := some { p with got := p.got + x.seg.data.length } }) := by
    have h := keep_fresh p.pages p.got x.seg.data.length (keep_setTank (wf_writeAt p.pages p.got x.seg.data ht.tank) ht)
    exact keeps_ite (fun _ => keep_drtAccept _ _ _ h) (fun _ => keep_setDrt _ h)
  unfold State.drtSegment
  cases hq : s.queue? d.qid.val with
  | none => exact hk
  | some q =>
    dsimp only
    refine keeps_ite (fun _ => keep_drtEnd _ _ _ hk) (fun _ => keeps_ite (fun _ => keep_drtEnd _ _ _ hk) (fun _ => ?_))
    cases d.part with
    | some p => exact store hk q p
    | none => exact store (keep_takePages _ hk) q _

theorem keep_drtDrain {cs : List Instr} {s : State} (id : Nat) (y1 : Nat) (hk : Keeps cs s) :
    Keeps cs (State.drtDrain s id y1) := by
  induction y1 generalizing s id with
  | zero =>
    unfold State.drtDrain; try dsimp only
    repeat' (first | with_reducible assumption | with_reducible apply keep_drtSegment | with_reducible apply keep_setDrt | with_reducible apply keeps_ite | with_reducible intro _ | refine keeps_fst (by with_reducible assumption) ?_ | refine keeps_snd (by with_reducible assumption) ?_ | split | refine keeps_mk rfl rfl rfl rfl rfl rfl rfl rfl ?_)
  | succ k ih =>
    unfold State.drtDrain; try dsimp only
    repeat' (first | with_reducible assumption | with_reducible apply ih | with_reducible apply keep_drtSegment | with_reducible apply keep_setDrt | with_reducible apply keeps_ite | with_reducible intro _ | refine keeps_fst (by with_reducible assumption) ?_ | refine keeps_snd (by with_reducible assumption) ?_ | split | refine keeps_mk rfl rfl rfl rfl rfl rfl rfl rfl ?_)

theorem keep_drtAdvance {cs : List Instr} {s : State} (id : Nat) (y1 : Nat) (hk : Keeps cs s) :
    Keeps cs (State.drtAdvance s id y1) := by
  induction y1 generalizing s id with
  | zero =>
    unfold State.drtAdvance; try dsimp only
    repeat' (first | with_reducible assumption | with_reducible apply keep_addBarrier | with_reducible apply keep_setDrt | with_reducible apply keeps_ite | with_reducible intro _ | refine keeps_fst (by with_reducible assumption) ?_ | refine keeps_snd (by with_reducible assumption) ?_ | split | refine keeps_mk rfl rfl rfl rfl rfl rfl rfl rfl ?_)
  | succ k ih =>
    unfold State.drtAdvance; try dsimp only
    repeat' (first | with_reducible assumption | with_reducible apply ih | with_reducible apply keep_addBarrier | with_reducible apply keep_setDrt | with_reducible apply keeps_ite | with_reducible intro _ | refine keeps_fst (by with_reducible assumption) ?_ | refine keeps_snd (by with_reducible assumption) ?_ | split | refine keeps_mk rfl rfl rfl rfl rfl rfl rfl rfl ?_)

theorem keep_drtClosed {cs : List Instr} {s : State} (id : Nat) (hk : Keeps cs s) :
    Keeps cs (State.drtClosed s id) := by
  unfold State.drtClosed
  try dsimp only
  repeat' (first | with_reducible assumption | with_reducible apply keep_drtSend | with_reducible apply keep_freePagesOf | with_reducible apply keep_setQueue | with_reducible apply keeps_ite | with_reducible intro _ | split | refine keeps_mk rfl rfl rfl rfl rfl rfl rfl rfl ?_)

theorem keep_drtSync {cs : List Instr} {s : State} (id : Nat) (hk : Keeps cs s) :
    Keeps cs (State.drtSync s id) := by
  unfold State.drtSync
  try dsimp only
  repeat' (first | with_reducible assumption | with_reducible apply keep_ackSoon | with_reducible apply keep_ackTry | with_reducible apply keep_drtClosed | with_reducible apply keep_drtDrain | with_reducible apply keep_drtFree | with_reducible apply keep_drtSend | with_reducible apply keep_setDrt | with_reducible apply keeps_ite | with_reducible intro _ | refine keeps_fst (by with_reducible assumption) ?_ | refine keeps_snd (by with_reducible assumption) ?_ | split | refine keeps_mk rfl rfl rfl rfl rfl rfl rfl rfl ?_)

theorem keep_drtSyncAll {cs : List Instr} {s : State} (y1 : List Drt) (hk : Keeps cs s) :
    Keeps cs (State.drtSyncAll s y1) := by
  induction y1 generalizing s with
  | nil =>
    unfold State.drtSyncAll; try dsimp only
    repeat' (first | with_reducible assumption | with_reducible apply ih | with_reducible apply keep_drtSync)
  | cons a l ih =>
    unfold State.drtSyncAll; try dsimp only
    repeat' (first | with_reducible assumption | with_reducible apply ih | with_reducible apply keep_drtSync)

theorem keep_drtTake {cs : List Instr} {s : State} (d : Drt) (h : DrtHdr) (seg : DrtSeg) (hk : Keeps cs s) :
    Keeps cs (State.drtTake s d h seg) := by
  unfold State.drtTake
  try dsimp only
  repeat' (first | with_reducible assumption | with_reducible apply keep_ackSoon | with_reducible apply keep_count | with_reducible apply keep_drtAdvance | with_reducible apply keep_drtClosed | with_reducible apply keep_drtDrain | with_reducible apply keep_report | with_reducible apply keep_setDrt | with_reducible apply keeps_ite | with_reducible intro _ | split | refine keeps_mk rfl rfl rfl rfl rfl rfl rfl rfl ?_)

theorem keep_drtData {cs : List Instr} {s : State} (h : DrtHdr) (seg : DrtSeg) (hk : Keeps cs s) :
    Keeps cs (State.drtData s h seg) := by
  unfold State.drtData
  try dsimp only
  repeat' (first | with_reducible assumption | with_reducible apply keep_count | with_reducible apply keep_drtDrop | with_reducible apply keep_drtTake | with_reducible apply keep_hear | with_reducible apply keeps_ite | with_reducible intro _ | split | refine keeps_mk rfl rfl rfl rfl rfl rfl rfl rfl ?_)

theorem keep_execDrtData {cs : List Instr} {s : State} (h : DrtHdr) (seg : DrtSeg) (hk : Keeps cs s) :
    KeepsO cs (execDrtData h seg s) := by
  unfold execDrtData
  try dsimp only
  repeat' (first | with_reducible assumption | with_reducible apply keep_count | with_reducible apply keep_drtData | with_reducible apply keepsO_next | with_reducible apply keeps_ite | with_reducible apply keepsO_ite | with_reducible intro _ | refine keeps_mk rfl rfl rfl rfl rfl rfl rfl rfl ?_)

theorem keep_drtDatas {cs : List Instr} {s : State} (y1 : List (DrtHdr × DrtSeg)) (hk : Keeps cs s) :
    Keeps cs (State.drtDatas s y1) := by
  induction y1 generalizing s with
  | nil =>
    unfold State.drtDatas; try dsimp only
    repeat' (first | with_reducible assumption | with_reducible apply keep_drtData | with_reducible apply keeps_ite | with_reducible apply keeps_fst_ite | with_reducible intro _ | split | refine keeps_mk rfl rfl rfl rfl rfl rfl rfl rfl ?_)
  | cons a l ih =>
    unfold State.drtDatas; try dsimp only
    repeat' (first | with_reducible assumption | with_reducible apply ih | with_reducible apply keep_drtData | with_reducible apply keeps_ite | with_reducible apply keeps_fst_ite | with_reducible intro _ | split | refine keeps_mk rfl rfl rfl rfl rfl rfl rfl rfl ?_)

theorem keep_drtResume {cs : List Instr} {s : State}  (hk : Keeps cs s) :
    Keeps cs (State.drtResume s) := by
  unfold State.drtResume
  try dsimp only
  repeat' (first | with_reducible assumption | with_reducible apply keep_drtDatas | with_reducible apply keeps_ite | with_reducible intro _ | refine keeps_mk rfl rfl rfl rfl rfl rfl rfl rfl ?_)

theorem keep_execDrtClose {cs : List Instr} {s : State} (h : DrtHdr) (hk : Keeps cs s) :
    KeepsO cs (execDrtClose h s) := by
  unfold execDrtClose
  try dsimp only
  repeat' (first | with_reducible assumption | with_reducible apply keep_count | with_reducible apply keep_drtClosed | with_reducible apply keep_drtDrop | with_reducible apply keep_drtSend | with_reducible apply keep_hear | with_reducible apply keep_setDrt | with_reducible apply keepsO_next | with_reducible apply keeps_ite | with_reducible apply keepsO_ite | with_reducible intro _ | split | refine keeps_mk rfl rfl rfl rfl rfl rfl rfl rfl ?_)

theorem keep_execDrtKeepalive {cs : List Instr} {s : State} (h : DrtHdr) (hk : Keeps cs s) :
    KeepsO cs (execDrtKeepalive h s) := by
  unfold execDrtKeepalive
  try dsimp only
  repeat' (first | with_reducible assumption | with_reducible apply keep_ackSoon | with_reducible apply keep_count | with_reducible apply keep_drtDrop | with_reducible apply keep_hear | with_reducible apply keepsO_next | with_reducible apply keeps_ite | with_reducible apply keepsO_ite | with_reducible intro _ | split | refine keeps_mk rfl rfl rfl rfl rfl rfl rfl rfl ?_)

theorem keep_execDrtAckTimer {cs : List Instr} {s : State} (session : BitVec 16) (hk : Keeps cs s) :
    KeepsO cs (execDrtAckTimer session s) := by
  unfold execDrtAckTimer
  try dsimp only
  repeat' (first | with_reducible assumption | with_reducible apply keep_ackSoon | with_reducible apply keepsO_next | with_reducible apply keeps_ite | with_reducible apply keepsO_ite | with_reducible intro _ | refine keeps_fst (by with_reducible assumption) ?_ | refine keeps_snd (by with_reducible assumption) ?_ | split | refine keeps_mk rfl rfl rfl rfl rfl rfl rfl rfl ?_)

theorem keep_execDrtGapTimer {cs : List Instr} {s : State} (session : BitVec 16) (hk : Keeps cs s) :
    KeepsO cs (execDrtGapTimer session s) := by
  unfold execDrtGapTimer
  try dsimp only
  repeat' (first | with_reducible assumption | with_reducible apply keep_ackSoon | with_reducible apply keepsO_next | with_reducible apply keeps_ite | with_reducible apply keepsO_ite | with_reducible intro _ | refine keeps_fst (by with_reducible assumption) ?_ | refine keeps_snd (by with_reducible assumption) ?_ | split | refine keeps_mk rfl rfl rfl rfl rfl rfl rfl rfl ?_)

theorem keep_execDrtIdleTimeout {cs : List Instr} {s : State} (session : BitVec 16) (hk : Keeps cs s) :
    KeepsO cs (execDrtIdleTimeout session s) := by
  unfold execDrtIdleTimeout
  try dsimp only
  repeat' (first | with_reducible assumption | with_reducible apply keep_drtEnd | with_reducible apply keepsO_next | with_reducible apply keeps_ite | with_reducible apply keepsO_ite | with_reducible intro _ | refine keeps_fst (by with_reducible assumption) ?_ | refine keeps_snd (by with_reducible assumption) ?_ | split | refine keeps_mk rfl rfl rfl rfl rfl rfl rfl rfl ?_)

end Sys2Proof.Machine
end

