-- ==== Sys2Proof/Laws/KeepsStripe.lean ====
section
/-! SUPPORT. Every operation of Machine/Stripe.lean keeps the machine's invariant and its queue. -/

namespace Sys2Proof.Machine

theorem keep_setGroup {cs : List Instr} {s : State} (g : Fin 4) (x : SGroup) (hk : Keeps cs s) :
    Keeps cs (State.setGroup s g x) := by
  unfold State.setGroup
  try dsimp only
  repeat' (first | with_reducible assumption | refine keeps_mk rfl rfl rfl rfl rfl rfl rfl rfl ?_)

theorem keep_memSend {cs : List Instr} {s : State} (g : Fin 4) (i : Nat) (ty : Nat) (session : Nat) (seq : Nat) (aux : Nat) (payload : List Byte) (hk : Keeps cs s) :
    Keeps cs (State.memSend s g i ty session seq aux payload) := by
  unfold State.memSend
  try dsimp only
  repeat' (first | with_reducible assumption | with_reducible apply keep_route | with_reducible apply keeps_ite | with_reducible intro _ | refine keeps_mk rfl rfl rfl rfl rfl rfl rfl rfl ?_)

theorem keep_openMem {cs : List Instr} {s : State} (g : Fin 4) (i : Nat) (hk : Keeps cs s) :
    Keeps cs (State.openMem s g i) := by
  unfold State.openMem
  try dsimp only
  repeat' (first | with_reducible assumption | with_reducible apply keep_memSend | with_reducible apply keep_setGroup | refine keeps_fst (by with_reducible assumption) ?_ | refine keeps_snd (by with_reducible assumption) ?_ | split | refine keeps_mk rfl rfl rfl rfl rfl rfl rfl rfl ?_)

theorem keep_pumpList {cs : List Instr} {s : State} (g : Fin 4) (i : Nat) (m : SMember) (sess : Nat) (y1 : List Unack) (hk : Keeps cs s) :
    Keeps cs (State.pumpList s g i m sess y1).1 := by
  induction y1 generalizing s g i m sess with
  | nil =>
    unfold State.pumpList; try dsimp only
    repeat' (first | with_reducible assumption | with_reducible apply ih | with_reducible apply keep_memSend | with_reducible apply keeps_ite | with_reducible apply keeps_fst_ite | with_reducible intro _ | refine keeps_fst (by with_reducible assumption) ?_ | refine keeps_snd (by with_reducible assumption) ?_ | split | refine keeps_mk rfl rfl rfl rfl rfl rfl rfl rfl ?_)
  | cons a l ih =>
    unfold State.pumpList; try dsimp only
    repeat' (first | with_reducible assumption | with_reducible apply ih | with_reducible apply keep_memSend | with_reducible apply keeps_ite | with_reducible apply keeps_fst_ite | with_reducible intro _ | refine keeps_fst (by with_reducible assumption) ?_ | refine keeps_snd (by with_reducible assumption) ?_ | split | refine keeps_mk rfl rfl rfl rfl rfl rfl rfl rfl ?_)

theorem keep_pump {cs : List Instr} {s : State} (g : Fin 4) (i : Nat) (hk : Keeps cs s) :
    Keeps cs (State.pump s g i) := by
  unfold State.pump
  try dsimp only
  repeat' (first | with_reducible assumption | with_reducible apply keep_pumpList | with_reducible apply keep_setGroup | refine keeps_fst (by with_reducible assumption) ?_ | refine keeps_snd (by with_reducible assumption) ?_ | split | refine keeps_mk rfl rfl rfl rfl rfl rfl rfl rfl ?_)

theorem keep_putUnit {cs : List Instr} {s : State} (g : Fin 4) (i : Nat) (unit : List Byte) (hk : Keeps cs s) :
    Keeps cs (State.putUnit s g i unit).1 := by
  unfold State.putUnit
  try dsimp only
  repeat' (first | with_reducible assumption | with_reducible apply keep_pump | with_reducible apply keep_setGroup | refine keeps_fst (by with_reducible assumption) ?_ | refine keeps_snd (by with_reducible assumption) ?_ | split | refine keeps_mk rfl rfl rfl rfl rfl rfl rfl rfl ?_)

theorem keep_stripeDurable {cs : List Instr} {s : State} (y1 : List Nat) (hk : Keeps cs s) :
    Keeps cs (State.stripeDurable s y1) := by
  induction y1 generalizing s with
  | nil =>
    unfold State.stripeDurable; try dsimp only
    repeat' (first | with_reducible assumption | with_reducible apply ih | with_reducible apply keep_freePagesOf | with_reducible apply keep_setRec | refine keeps_fst (by with_reducible assumption) ?_ | refine keeps_snd (by with_reducible assumption) ?_ | split | refine keeps_mk rfl rfl rfl rfl rfl rfl rfl rfl ?_)
  | cons a l ih =>
    unfold State.stripeDurable; try dsimp only
    repeat' (first | with_reducible assumption | with_reducible apply ih | with_reducible apply keep_freePagesOf | with_reducible apply keep_setRec | refine keeps_fst (by with_reducible assumption) ?_ | refine keeps_snd (by with_reducible assumption) ?_ | split | refine keeps_mk rfl rfl rfl rfl rfl rfl rfl rfl ?_)

theorem keep_closeMems {cs : List Instr} {s : State} (g : Fin 4) (y1 : List Nat) (hk : Keeps cs s) :
    Keeps cs (State.closeMems s g y1) := by
  induction y1 generalizing s g with
  | nil =>
    unfold State.closeMems; try dsimp only
    repeat' (first | with_reducible assumption | with_reducible apply ih | with_reducible apply keep_memSend | refine keeps_fst (by with_reducible assumption) ?_ | refine keeps_snd (by with_reducible assumption) ?_ | split | refine keeps_mk rfl rfl rfl rfl rfl rfl rfl rfl ?_)
  | cons a l ih =>
    unfold State.closeMems; try dsimp only
    repeat' (first | with_reducible assumption | with_reducible apply ih | with_reducible apply keep_memSend | refine keeps_fst (by with_reducible assumption) ?_ | refine keeps_snd (by with_reducible assumption) ?_ | split | refine keeps_mk rfl rfl rfl rfl rfl rfl rfl rfl ?_)

theorem keep_rowsDone {cs : List Instr} {s : State} (g : Fin 4) (hk : Keeps cs s) :
    Keeps cs (State.rowsDone s g) := by
  unfold State.rowsDone
  try dsimp only
  repeat' (first | with_reducible assumption | with_reducible apply keep_closeMems | with_reducible apply keep_report | with_reducible apply keep_setGroup | with_reducible apply keep_stripeDurable | with_reducible apply keeps_ite | with_reducible intro _ | refine keeps_mk rfl rfl rfl rfl rfl rfl rfl rfl ?_)

theorem keep_dropRows {cs : List Instr} {s : State} (g : Fin 4) (hk : Keeps cs s) :
    Keeps cs (State.dropRows s g) := by
  unfold State.dropRows
  try dsimp only
  repeat' (first | with_reducible assumption | with_reducible apply keep_setGroup | with_reducible apply keeps_ite | with_reducible intro _ | refine keeps_mk rfl rfl rfl rfl rfl rfl rfl rfl ?_)

theorem keep_evalGroup {cs : List Instr} {s : State} (g : Fin 4) (hk : Keeps cs s) :
    Keeps cs (State.evalGroup s g) := by
  unfold State.evalGroup
  try dsimp only
  repeat' (first | with_reducible assumption | with_reducible apply keep_dropRows | with_reducible apply keep_log | with_reducible apply keep_rowsDone | with_reducible apply keep_setF | with_reducible apply keeps_ite | with_reducible intro _)

theorem keep_evalGroups {cs : List Instr} {s : State}  (hk : Keeps cs s) :
    Keeps cs (State.evalGroups s) := by
  unfold State.evalGroups
  try dsimp only
  repeat' (first | with_reducible assumption | with_reducible apply keep_evalGroup)

theorem keep_loseMem {cs : List Instr} {s : State} (g : Fin 4) (i : Nat) (hk : Keeps cs s) :
    Keeps cs (State.loseMem s g i) := by
  unfold State.loseMem
  try dsimp only
  repeat' (first | with_reducible assumption | with_reducible apply keep_evalGroup | with_reducible apply keep_setGroup | refine keeps_fst (by with_reducible assumption) ?_ | refine keeps_snd (by with_reducible assumption) ?_ | split | refine keeps_mk rfl rfl rfl rfl rfl rfl rfl rfl ?_)

theorem keep_putRow {cs : List Instr} {s : State} (g : Fin 4) (flags : Nat) (k : Nat) (miss : Nat) (row : Nat) (su : Nat) (y1 : Nat) (y2 : List (List Byte)) (hk : Keeps cs s) :
    Keeps cs (State.putRow s g flags k miss row su y1 y2).1 := by
  induction y2 generalizing s g flags k miss row su y1 with
  | nil =>
    unfold State.putRow; try dsimp only
    repeat' (first | with_reducible assumption | with_reducible apply ih | with_reducible apply keep_putUnit | with_reducible apply keeps_ite | with_reducible apply keeps_fst_ite | with_reducible intro _ | refine keeps_fst (by with_reducible assumption) ?_ | refine keeps_snd (by with_reducible assumption) ?_ | split)
  | cons a l ih =>
    unfold State.putRow; try dsimp only
    repeat' (first | with_reducible assumption | with_reducible apply ih | with_reducible apply keep_putUnit | with_reducible apply keeps_ite | with_reducible apply keeps_fst_ite | with_reducible intro _ | refine keeps_fst (by with_reducible assumption) ?_ | refine keeps_snd (by with_reducible assumption) ?_ | split)

theorem keep_streamIn {cs : List Instr} {s : State} (g : Fin 4) (y1 : List Rec) (hk : Keeps cs s) :
    Keeps cs (State.streamIn s g y1) := by
  induction y1 generalizing s g with
  | nil =>
    unfold State.streamIn; try dsimp only
    repeat' (first | with_reducible assumption | with_reducible apply ih | with_reducible apply keep_setGroup | refine keeps_fst (by with_reducible assumption) ?_ | refine keeps_snd (by with_reducible assumption) ?_ | split | refine keeps_mk rfl rfl rfl rfl rfl rfl rfl rfl ?_)
  | cons a l ih =>
    unfold State.streamIn; try dsimp only
    repeat' (first | with_reducible assumption | with_reducible apply ih | with_reducible apply keep_setGroup | refine keeps_fst (by with_reducible assumption) ?_ | refine keeps_snd (by with_reducible assumption) ?_ | split | refine keeps_mk rfl rfl rfl rfl rfl rfl rfl rfl ?_)

theorem keep_closeRow {cs : List Instr} {s : State} (g : Fin 4) (hk : Keeps cs s) :
    Keeps cs (State.closeRow s g) := by
  unfold State.closeRow
  try dsimp only
  repeat' (first | with_reducible assumption | with_reducible apply keep_putRow | with_reducible apply keep_rowsDone | with_reducible apply keep_setGroup | with_reducible apply keep_streamIn | with_reducible apply keeps_ite | with_reducible intro _ | refine keeps_fst (by with_reducible assumption) ?_ | refine keeps_snd (by with_reducible assumption) ?_ | split | refine keeps_mk rfl rfl rfl rfl rfl rfl rfl rfl ?_)

theorem keep_resendGaps {cs : List Instr} {s : State} (g : Fin 4) (i : Nat) (m : SMember) (sess : Nat) (sack : Nat) (y1 : List Unack) (hk : Keeps cs s) :
    Keeps cs (State.resendGaps s g i m sess sack y1) := by
  induction y1 generalizing s g i m sess sack with
  | nil =>
    unfold State.resendGaps; try dsimp only
    repeat' (first | with_reducible assumption | with_reducible apply ih | with_reducible apply keep_memSend | with_reducible apply keeps_ite | with_reducible intro _)
  | cons a l ih =>
    unfold State.resendGaps; try dsimp only
    repeat' (first | with_reducible assumption | with_reducible apply ih | with_reducible apply keep_memSend | with_reducible apply keeps_ite | with_reducible intro _)

theorem keep_memAck {cs : List Instr} {s : State} (g : Fin 4) (i : Nat) (m : SMember) (b : List Byte) (hk : Keeps cs s) :
    Keeps cs (State.memAck s g i m b) := by
  unfold State.memAck
  try dsimp only
  repeat' (first | with_reducible assumption | with_reducible apply keep_pump | with_reducible apply keep_resendGaps | with_reducible apply keep_rowsDone | with_reducible apply keep_setGroup | with_reducible apply keeps_ite | with_reducible intro _ | refine keeps_fst (by with_reducible assumption) ?_ | refine keeps_snd (by with_reducible assumption) ?_ | split | refine keeps_mk rfl rfl rfl rfl rfl rfl rfl rfl ?_)

theorem keep_memOpened {cs : List Instr} {s : State} (g : Fin 4) (i : Nat) (m : SMember) (sess : Nat) (b : List Byte) (hk : Keeps cs s) :
    Keeps cs (State.memOpened s g i m sess b) := by
  unfold State.memOpened
  try dsimp only
  repeat' (first | with_reducible assumption | with_reducible apply keep_evalGroup | with_reducible apply keep_pump | with_reducible apply keep_setGroup | refine keeps_mk rfl rfl rfl rfl rfl rfl rfl rfl ?_)

theorem keep_memReply {cs : List Instr} {s : State} (g : Fin 4) (i : Nat) (src : Nat) (b : List Byte) (hk : Keeps cs s) :
    Keeps cs (State.memReply s g i src b) := by
  unfold State.memReply
  try dsimp only
  repeat' (first | with_reducible assumption | with_reducible apply keep_loseMem | with_reducible apply keep_memAck | with_reducible apply keep_memOpened | with_reducible apply keeps_ite | with_reducible intro _ | refine keeps_fst (by with_reducible assumption) ?_ | refine keeps_snd (by with_reducible assumption) ?_ | split | refine keeps_mk rfl rfl rfl rfl rfl rfl rfl rfl ?_)

theorem keep_headTakes {cs : List Instr} {s : State} (src : Nat) (b : List Byte) (y1 : List (Fin 4 × Nat)) (hk : Keeps cs s) :
    Keeps cs (State.headTakes s src b y1) := by
  induction y1 generalizing s src b with
  | nil =>
    unfold State.headTakes; try dsimp only
    repeat' (first | with_reducible assumption | with_reducible apply ih | with_reducible apply keep_memReply | with_reducible apply keeps_ite | with_reducible intro _)
  | cons a l ih =>
    unfold State.headTakes; try dsimp only
    repeat' (first | with_reducible assumption | with_reducible apply ih | with_reducible apply keep_memReply | with_reducible apply keeps_ite | with_reducible intro _)

theorem keep_headReply {cs : List Instr} {s : State} (src : Nat) (b : List Byte) (hk : Keeps cs s) :
    Keeps cs (State.headReply s src b) := by
  unfold State.headReply
  try dsimp only
  repeat' (first | with_reducible assumption | with_reducible apply keep_headTakes)

theorem keep_takeInbox {cs : List Instr} {s : State} (y1 : List LFrame) (hk : Keeps cs s) :
    Keeps cs (State.takeInbox s y1) := by
  induction y1 generalizing s with
  | nil =>
    unfold State.takeInbox; try dsimp only
    repeat' (first | with_reducible assumption | with_reducible apply ih | with_reducible apply keep_headReply)
  | cons a l ih =>
    unfold State.takeInbox; try dsimp only
    repeat' (first | with_reducible assumption | with_reducible apply ih | with_reducible apply keep_headReply)

theorem keep_selfReplies {cs : List Instr} {s : State}  (hk : Keeps cs s) :
    Keeps cs (State.selfReplies s) := by
  unfold State.selfReplies
  try dsimp only
  repeat' (first | with_reducible assumption | with_reducible apply keep_takeInbox | refine keeps_mk rfl rfl rfl rfl rfl rfl rfl rfl ?_)

theorem keep_rejoinMems {cs : List Instr} {s : State} (g : Fin 4) (y1 : List Nat) (hk : Keeps cs s) :
    Keeps cs (State.rejoinMems s g y1) := by
  induction y1 generalizing s g with
  | nil =>
    unfold State.rejoinMems; try dsimp only
    repeat' (first | with_reducible assumption | with_reducible apply ih | with_reducible apply keep_openMem | with_reducible apply keep_wr | with_reducible apply keeps_ite | with_reducible intro _ | refine keeps_fst (by with_reducible assumption) ?_ | refine keeps_snd (by with_reducible assumption) ?_ | split | refine keeps_mk rfl rfl rfl rfl rfl rfl rfl rfl ?_)
  | cons a l ih =>
    unfold State.rejoinMems; try dsimp only
    repeat' (first | with_reducible assumption | with_reducible apply ih | with_reducible apply keep_openMem | with_reducible apply keep_wr | with_reducible apply keeps_ite | with_reducible intro _ | refine keeps_fst (by with_reducible assumption) ?_ | refine keeps_snd (by with_reducible assumption) ?_ | split | refine keeps_mk rfl rfl rfl rfl rfl rfl rfl rfl ?_)

theorem keep_rejoinGroup {cs : List Instr} {s : State} (g : Fin 4) (hk : Keeps cs s) :
    Keeps cs (State.rejoinGroup s g) := by
  unfold State.rejoinGroup
  try dsimp only
  repeat' (first | with_reducible assumption | with_reducible apply keep_evalGroup | with_reducible apply keep_rejoinMems | with_reducible apply keeps_ite | with_reducible intro _)

theorem keep_rejoinAll {cs : List Instr} {s : State}  (hk : Keeps cs s) :
    Keeps cs (State.rejoinAll s) := by
  unfold State.rejoinAll
  try dsimp only
  repeat' (first | with_reducible assumption | with_reducible apply keep_rejoinGroup)

theorem keep_openMems {cs : List Instr} {s : State} (g : Fin 4) (y1 : List Nat) (hk : Keeps cs s) :
    Keeps cs (State.openMems s g y1) := by
  induction y1 generalizing s g with
  | nil =>
    unfold State.openMems; try dsimp only
    repeat' (first | with_reducible assumption | with_reducible apply ih | with_reducible apply keep_openMem)
  | cons a l ih =>
    unfold State.openMems; try dsimp only
    repeat' (first | with_reducible assumption | with_reducible apply ih | with_reducible apply keep_openMem)

theorem keep_enableGroup {cs : List Instr} {s : State} (g : Fin 4) (hk : Keeps cs s) :
    Keeps cs (State.enableGroup s g) := by
  unfold State.enableGroup
  try dsimp only
  repeat' (first | with_reducible assumption | with_reducible apply keep_evalGroup | with_reducible apply keep_openMems | with_reducible apply keep_setGroup | refine keeps_mk rfl rfl rfl rfl rfl rfl rfl rfl ?_)

theorem keep_closeRows {cs : List Instr} {s : State} (g : Fin 4) (y1 : Nat) (hk : Keeps cs s) :
    Keeps cs (State.closeRows s g y1) := by
  induction y1 generalizing s g with
  | zero =>
    unfold State.closeRows; try dsimp only
    repeat' (first | with_reducible assumption | with_reducible apply ih | with_reducible apply keep_closeRow | with_reducible apply keeps_ite | with_reducible intro _)
  | succ k ih =>
    unfold State.closeRows; try dsimp only
    repeat' (first | with_reducible assumption | with_reducible apply ih | with_reducible apply keep_closeRow | with_reducible apply keeps_ite | with_reducible intro _)

theorem keep_closeOpen {cs : List Instr} {s : State} (g : Fin 4) (hk : Keeps cs s) :
    Keeps cs (State.closeOpen s g) := by
  unfold State.closeOpen
  try dsimp only
  repeat' (first | with_reducible assumption | with_reducible apply keep_closeRows | with_reducible apply keeps_ite | with_reducible intro _ | refine keeps_mk rfl rfl rfl rfl rfl rfl rfl rfl ?_)

theorem keep_closeStripes {cs : List Instr} {s : State}  (hk : Keeps cs s) :
    Keeps cs (State.closeStripes s) := by
  unfold State.closeStripes
  try dsimp only
  repeat' (first | with_reducible assumption | with_reducible apply keeps_foldl | with_reducible apply keep_closeOpen | with_reducible apply keeps_ite | with_reducible intro _ | refine keeps_mk rfl rfl rfl rfl rfl rfl rfl rfl ?_)

theorem keep_disableGroup {cs : List Instr} {s : State} (g : Fin 4) (hk : Keeps cs s) :
    Keeps cs (State.disableGroup s g) := by
  unfold State.disableGroup
  try dsimp only
  repeat' (first | with_reducible assumption | with_reducible apply keep_closeOpen | with_reducible apply keep_closeRows | with_reducible apply keep_rowsDone | with_reducible apply keep_setGroup | refine keeps_mk rfl rfl rfl rfl rfl rfl rfl rfl ?_)

theorem keep_wSgcfg {cs : List Instr} {s : State} (src : Src) (g : Fin 4) (v : Word) (hk : Keeps cs s) :
    KeepsW cs (State.wSgcfg s src g v) := by
  unfold State.wSgcfg
  try dsimp only
  repeat' (first | with_reducible assumption | with_reducible apply keep_disableGroup | with_reducible apply keep_enableGroup | with_reducible apply keep_setF | with_reducible apply keeps_ite | with_reducible apply keepsW_ite | with_reducible apply keepsW_ok | exact keepsW_refuse | with_reducible intro _ | refine keeps_mk rfl rfl rfl rfl rfl rfl rfl rfl ?_)

theorem keep_wSgmem {cs : List Instr} {s : State} (g : Fin 4) (i : Nat) (v : Word) (hk : Keeps cs s) :
    KeepsW cs (State.wSgmem s g i v) := by
  unfold State.wSgmem
  try dsimp only
  repeat' (first | with_reducible assumption | with_reducible apply keep_wr | with_reducible apply keeps_ite | with_reducible apply keepsW_ite | with_reducible apply keepsW_ok | exact keepsW_refuse | with_reducible intro _)

theorem keep_execStripeGroupEnable {cs : List Instr} {s : State} (src : Src) (g : Fin 4) (v : Word) (hk : Keeps cs s) :
    KeepsO cs (execStripeGroupEnable src g v s) := by
  unfold execStripeGroupEnable
  try dsimp only
  repeat' (first | with_reducible assumption | with_reducible apply keep_apply | with_reducible apply keep_pfDrop | with_reducible apply keep_wSgcfg | with_reducible apply keepsO_next | with_reducible apply keeps_ite | with_reducible apply keepsO_ite | with_reducible apply keepsW_ite | with_reducible intro _ | refine keeps_fst (by with_reducible assumption) ?_ | refine keeps_snd (by with_reducible assumption) ?_ | split | refine keeps_mk rfl rfl rfl rfl rfl rfl rfl rfl ?_)

theorem keep_execStripeRowClose {cs : List Instr} {s : State} (g : Fin 4) (hk : Keeps cs s) :
    KeepsO cs (execStripeRowClose g s) := by
  unfold execStripeRowClose
  try dsimp only
  repeat' (first | with_reducible assumption | with_reducible apply keep_closeRow | with_reducible apply keepsO_next)

theorem keep_execStripeRetransmit {cs : List Instr} {s : State} (g : Fin 4) (member : Nat) (seq : Word) (hk : Keeps cs s) :
    KeepsO cs (execStripeRetransmit g member seq s) := by
  unfold execStripeRetransmit
  try dsimp only
  repeat' (first | with_reducible assumption | with_reducible apply keep_memSend | with_reducible apply keepsO_next | refine keeps_fst (by with_reducible assumption) ?_ | refine keeps_snd (by with_reducible assumption) ?_ | split | refine keeps_mk rfl rfl rfl rfl rfl rfl rfl rfl ?_)

end Sys2Proof.Machine
end

