-- ==== Sys2Proof/Laws/KeepsConsole.lean ====
section
/-! SUPPORT. Every operation of Machine/Console.lean keeps the machine's invariant and its queue. -/

namespace Sys2Proof.Machine

theorem keep_uartAlive {cs : List Instr} {s : State} (n : Sid) (hk : Keeps cs s) :
    Keeps cs (State.uartAlive s n) := by
  unfold State.uartAlive
  try dsimp only
  repeat' (first | with_reducible assumption | with_reducible apply keep_clkBack | with_reducible apply keeps_ite | with_reducible intro _ | refine keeps_mk rfl rfl rfl rfl rfl rfl rfl rfl ?_)

theorem keep_releaseLock {cs : List Instr} {s : State} (who : Who) (hk : Keeps cs s) :
    Keeps cs (State.releaseLock s who) := by
  unfold State.releaseLock
  try dsimp only
  repeat' (first | with_reducible assumption | with_reducible apply keeps_ite | with_reducible intro _ | refine keeps_mk rfl rfl rfl rfl rfl rfl rfl rfl ?_)

theorem keep_abandonUpdate {cs : List Instr} {s : State} (who : Who) (hk : Keeps cs s) :
    Keeps cs (State.abandonUpdate s who) := by
  unfold State.abandonUpdate
  try dsimp only
  repeat' (first | with_reducible assumption | with_reducible apply keeps_ite | with_reducible intro _ | refine keeps_fst (by with_reducible assumption) ?_ | refine keeps_snd (by with_reducible assumption) ?_ | split | refine keeps_mk rfl rfl rfl rfl rfl rfl rfl rfl ?_)

theorem keep_drop {cs : List Instr} {s : State} (n : Sid) (lv : Level) (why : String) (hk : Keeps cs s) :
    Keeps cs (State.drop s n lv why) := by
  unfold State.drop
  try dsimp only
  repeat' (first | with_reducible assumption | with_reducible apply keep_abandonUpdate | with_reducible apply keep_log | with_reducible apply keep_releaseLock | with_reducible apply keep_setSes | with_reducible apply keeps_ite | with_reducible intro _ | exact keeps_evq (by with_reducible assumption) | exact Keeps.evq hk _ | refine keeps_evq (cs := cs) ?_ | with_reducible apply queueEvent_evq | exact Nat.zero_le _ | refine keeps_mk rfl rfl rfl rfl rfl rfl rfl rfl ?_)

theorem keep_forgetOps {cs : List Instr} {s : State} (n : Sid) (hk : Keeps cs s) :
    Keeps cs (State.forgetOps s n) := by
  unfold State.forgetOps
  try dsimp only
  repeat' (first | with_reducible assumption | with_reducible apply keep_opCart | with_reducible apply keep_opMotion | with_reducible apply keeps_ite | with_reducible intro _ | refine keeps_mk rfl rfl rfl rfl rfl rfl rfl rfl ?_)

theorem keep_endSession {cs : List Instr} {s : State} (n : Sid) (why : String) (hk : Keeps cs s) :
    Keeps cs (State.endSession s n why) := by
  unfold State.endSession
  try dsimp only
  repeat' (first | with_reducible assumption | with_reducible apply keep_abandonUpdate | with_reducible apply keep_forgetOps | with_reducible apply keep_log | with_reducible apply keep_releaseLock | with_reducible apply keep_setSes | with_reducible apply keeps_ite | with_reducible intro _ | exact keeps_evq (by with_reducible assumption) | exact Keeps.evq hk _ | refine keeps_evq (cs := cs) ?_ | with_reducible apply queueEvent_evq | exact Nat.zero_le _ | refine keeps_mk rfl rfl rfl rfl rfl rfl rfl rfl ?_)

theorem keep_openSession {cs : List Instr} {s : State} (n : Sid) (port : Nat) (hk : Keeps cs s) :
    Keeps cs (State.openSession s n port) := by
  unfold State.openSession
  try dsimp only
  repeat' (first | with_reducible assumption | with_reducible apply keep_event | with_reducible apply keep_setSes | with_reducible apply keeps_ite | with_reducible intro _ | refine keeps_fst (by with_reducible assumption) ?_ | refine keeps_snd (by with_reducible assumption) ?_ | exact keeps_evq (by with_reducible assumption) | exact Keeps.evq hk _ | refine keeps_evq (cs := cs) ?_ | with_reducible apply queueEvent_evq | exact Nat.zero_le _ | split | refine keeps_mk rfl rfl rfl rfl rfl rfl rfl rfl ?_)

theorem keep_tcpOpen {cs : List Instr} {s : State} (n : Sid) (port : Fin 2) (hk : Keeps cs s) :
    Keeps cs (State.tcpOpen s n port) := by
  unfold State.tcpOpen
  try dsimp only
  repeat' (first | with_reducible assumption | with_reducible apply keep_draw | with_reducible apply keep_emit | with_reducible apply keep_openSession | with_reducible apply keeps_ite | with_reducible intro _ | refine keeps_mk rfl rfl rfl rfl rfl rfl rfl rfl ?_)

theorem keep_execTcpConnect {cs : List Instr} {s : State} (port : Fin 2) (hk : Keeps cs s) :
    KeepsO cs (execTcpConnect port s) := by
  unfold execTcpConnect
  try dsimp only
  repeat' (first | with_reducible assumption | with_reducible apply keep_emit | with_reducible apply keep_tcpOpen | with_reducible apply keepsO_next | with_reducible apply keeps_ite | with_reducible apply keepsO_ite | with_reducible intro _ | refine keeps_mk rfl rfl rfl rfl rfl rfl rfl rfl ?_)

theorem keep_execTcpClose {cs : List Instr} {s : State} (n : Sid) (hk : Keeps cs s) :
    KeepsO cs (execTcpClose n s) := by
  unfold execTcpClose
  try dsimp only
  repeat' (first | with_reducible assumption | with_reducible apply keep_endSession | with_reducible apply keepsO_next | with_reducible apply keeps_ite | with_reducible apply keepsO_ite | with_reducible intro _)

theorem keep_execTcpIdleTimeout {cs : List Instr} {s : State} (n : Sid) (hk : Keeps cs s) :
    KeepsO cs (execTcpIdleTimeout n s) := by
  unfold execTcpIdleTimeout
  try dsimp only
  repeat' (first | with_reducible assumption | with_reducible apply keep_emit | with_reducible apply keep_endSession | with_reducible apply keepsO_next | with_reducible apply keeps_ite | with_reducible apply keepsO_ite | with_reducible intro _)

theorem keep_execUartBreak {cs : List Instr} {s : State} (port : Fin 2) (hk : Keeps cs s) :
    KeepsO cs (execUartBreak port s) := by
  unfold execUartBreak
  have hb := keep_uartAlive ⟨port.val, by omega⟩ hk
  dsimp only
  generalize s.uartAlive ⟨port.val, _⟩ = t at hb ⊢
  clear hk
  repeat' (first | with_reducible assumption | with_reducible apply keep_abandonUpdate | with_reducible apply keep_flushEvents | with_reducible apply keep_log | with_reducible apply keep_prompt | with_reducible apply keep_releaseLock | with_reducible apply keep_rtsFrom | with_reducible apply keep_setSes | with_reducible apply keep_uartAlive | with_reducible apply keepsO_next | with_reducible apply keeps_ite | with_reducible apply keepsO_ite | with_reducible intro _ | exact keeps_evq (by with_reducible assumption) | exact Keeps.evq hk _ | refine keeps_evq (cs := cs) ?_ | with_reducible apply queueEvent_evq | exact Nat.zero_le _ | refine keeps_mk rfl rfl rfl rfl rfl rfl rfl rfl ?_)

theorem keep_execServiceTimeout {cs : List Instr} {s : State} (n : Sid) (hk : Keeps cs s) :
    KeepsO cs (execServiceTimeout n s) := by
  unfold execServiceTimeout
  try dsimp only
  repeat' (first | with_reducible assumption | with_reducible apply keep_drop | with_reducible apply keep_event | with_reducible apply keepsO_next | with_reducible apply keeps_ite | with_reducible apply keepsO_ite | with_reducible intro _)

theorem keep_execCharacterReceived {cs : List Instr} {s : State} (n : Sid) (c : Char) (hk : Keeps cs s) :
    KeepsO cs (execCharacterReceived n c s) := by
  unfold execCharacterReceived
  try dsimp only
  repeat' (first | with_reducible assumption | with_reducible apply keep_echoTo | with_reducible apply keep_rtsFrom | with_reducible apply keep_setSes | with_reducible apply keep_uartAlive | with_reducible apply keepsO_next | with_reducible apply keeps_ite | with_reducible apply keepsO_ite | with_reducible intro _ | exact keeps_evq (by with_reducible assumption) | exact Keeps.evq hk _ | refine keeps_evq (cs := cs) ?_ | with_reducible apply queueEvent_evq | exact Nat.zero_le _ | exact (keep_uartAlive _ hk).evq _ | refine keeps_mk rfl rfl rfl rfl rfl rfl rfl rfl ?_)

theorem keep_execLineEditCharacter {cs : List Instr} {s : State} (n : Sid) (c : EditChar) (hk : Keeps cs s) :
    KeepsO cs (execLineEditCharacter n c s) := by
  unfold execLineEditCharacter
  try dsimp only
  repeat' (first | with_reducible assumption | with_reducible apply keep_echoTo | with_reducible apply keep_prompt | with_reducible apply keep_rtsFrom | with_reducible apply keep_setSes | with_reducible apply keep_uartAlive | with_reducible apply keepsO_next | with_reducible apply keeps_ite | with_reducible apply keepsO_ite | with_reducible intro _ | exact keeps_evq (by with_reducible assumption) | exact Keeps.evq hk _ | refine keeps_evq (cs := cs) ?_ | with_reducible apply queueEvent_evq | exact Nat.zero_le _ | split | exact (keep_uartAlive _ hk).evq _ | refine keeps_mk rfl rfl rfl rfl rfl rfl rfl rfl ?_)

theorem keep_deny {cs : List Instr} {s : State} (n : Sid) (hk : Keeps cs s) :
    Keeps cs (State.deny s n) := by
  unfold State.deny
  try dsimp only
  repeat' (first | with_reducible assumption | with_reducible apply keep_log | with_reducible apply keep_setSes | with_reducible apply keeps_ite | with_reducible intro _ | exact keeps_evq (by with_reducible assumption) | exact Keeps.evq hk _ | refine keeps_evq (cs := cs) ?_ | with_reducible apply queueEvent_evq | exact Nat.zero_le _ | refine keeps_mk rfl rfl rfl rfl rfl rfl rfl rfl ?_)

theorem keep_levelResponse {cs : List Instr} {s : State} (ln : Ln) (n : Sid) (r : List Char) (hk : Keeps cs s) :
    Keeps cs (State.levelResponse s ln n r) := by
  unfold State.levelResponse
  try dsimp only
  repeat' (first | with_reducible assumption | with_reducible apply keep_deny | with_reducible apply keep_log | with_reducible apply keep_reply | with_reducible apply keep_setSes | with_reducible apply keeps_ite | with_reducible intro _ | refine keeps_fst (by with_reducible assumption) ?_ | refine keeps_snd (by with_reducible assumption) ?_ | refine keepsW_get (by with_reducible assumption) ?_ | exact keepsW_get rfl (by with_reducible assumption) | exact keeps_evq (by with_reducible assumption) | exact Keeps.evq hk _ | refine keeps_evq (cs := cs) ?_ | with_reducible apply queueEvent_evq | exact Nat.zero_le _ | split | refine keeps_mk rfl rfl rfl rfl rfl rfl rfl rfl ?_)

theorem keep_execLevel {cs : List Instr} {s : State} (ln : Ln) (arg : LevelArg) (hk : Keeps cs s) :
    KeepsO cs (execLevel ln arg s) := by
  unfold execLevel
  try dsimp only
  repeat' (first | with_reducible assumption | with_reducible apply keep_drop | with_reducible apply keep_levelResponse | with_reducible apply keep_reply | with_reducible apply keep_setSes | with_reducible apply keepsO_next | with_reducible apply keeps_ite | with_reducible apply keepsO_ite | with_reducible apply keepsA_ite | with_reducible apply keepsA_ok | exact keepsA_er | with_reducible apply keepsA_fail | with_reducible intro _ | exact keeps_evq (by with_reducible assumption) | exact Keeps.evq hk _ | refine keeps_evq (cs := cs) ?_ | with_reducible apply queueEvent_evq | exact Nat.zero_le _ | refine keeps_fst (by with_reducible assumption) ?_ | refine keeps_snd (by with_reducible assumption) ?_ | split | refine keeps_mk rfl rfl rfl rfl rfl rfl rfl rfl ?_)

theorem keep_execSession {cs : List Instr} {s : State} (ln : Ln) (echo : Option Bool) (edit : Option Bool) (crc : Option Bool) (events : Option EvFilter) (hk : Keeps cs s) :
    KeepsO cs (execSession ln echo edit crc events s) := by
  unfold execSession
  try dsimp only
  repeat' (first | with_reducible assumption | with_reducible apply keep_setSes | with_reducible apply keep_verb | with_reducible apply keepsO_next | with_reducible apply keeps_ite | with_reducible apply keepsO_ite | with_reducible apply keepsA_ite | with_reducible apply keepsA_ok | exact keepsA_er | with_reducible intro _ | refine keeps_fst (by with_reducible assumption) ?_ | refine keeps_snd (by with_reducible assumption) ?_ | refine keepsW_get (by with_reducible assumption) ?_ | exact keepsW_get rfl (by with_reducible assumption) | exact keeps_evq (by with_reducible assumption) | exact Keeps.evq hk _ | refine keeps_evq (cs := cs) ?_ | with_reducible apply queueEvent_evq | exact Nat.zero_le _ | split | refine keeps_mk rfl rfl rfl rfl rfl rfl rfl rfl ?_)

theorem keep_execSessionQuery {cs : List Instr} {s : State} (ln : Ln) (hk : Keeps cs s) :
    KeepsO cs (execSessionQuery ln s) := by
  unfold execSessionQuery
  try dsimp only
  repeat' (first | with_reducible assumption | with_reducible apply keep_verb | with_reducible apply keepsO_next | with_reducible apply keeps_ite | with_reducible apply keepsO_ite | with_reducible apply keepsA_ite | with_reducible apply keepsA_ok | exact keepsA_er | with_reducible intro _ | refine keeps_fst (by with_reducible assumption) ?_ | refine keeps_snd (by with_reducible assumption) ?_ | refine keepsW_get (by with_reducible assumption) ?_ | exact keepsW_get rfl (by with_reducible assumption) | split | refine keeps_mk rfl rfl rfl rfl rfl rfl rfl rfl ?_)

theorem keep_execLockMotion {cs : List Instr} {s : State} (ln : Ln) (hk : Keeps cs s) :
    KeepsO cs (execLockMotion ln s) := by
  unfold execLockMotion
  try dsimp only
  repeat' (first | with_reducible assumption | with_reducible apply keep_verb | with_reducible apply keepsO_next | with_reducible apply keeps_ite | with_reducible apply keepsO_ite | with_reducible apply keepsA_ite | with_reducible apply keepsA_ok | exact keepsA_er | with_reducible intro _ | refine keeps_fst (by with_reducible assumption) ?_ | refine keeps_snd (by with_reducible assumption) ?_ | refine keepsW_get (by with_reducible assumption) ?_ | exact keepsW_get rfl (by with_reducible assumption) | split | refine keeps_mk rfl rfl rfl rfl rfl rfl rfl rfl ?_)

theorem keep_execFreeMotion {cs : List Instr} {s : State} (ln : Ln) (hk : Keeps cs s) :
    KeepsO cs (execFreeMotion ln s) := by
  unfold execFreeMotion
  try dsimp only
  repeat' (first | with_reducible assumption | with_reducible apply keep_verb | with_reducible apply keepsO_next | with_reducible apply keeps_ite | with_reducible apply keepsO_ite | with_reducible apply keepsA_ite | with_reducible apply keepsA_ok | exact keepsA_er | with_reducible intro _ | refine keeps_mk rfl rfl rfl rfl rfl rfl rfl rfl ?_)

theorem keep_execHelpQuery {cs : List Instr} {s : State} (ln : Ln) (v : Option (List Char)) (hk : Keeps cs s) :
    KeepsO cs (execHelpQuery ln v s) := by
  unfold execHelpQuery
  try dsimp only
  repeat' (first | with_reducible assumption | with_reducible apply keep_verb | with_reducible apply keepsO_next | with_reducible apply keepsA_ok | exact keepsA_er | refine keeps_fst (by with_reducible assumption) ?_ | refine keeps_snd (by with_reducible assumption) ?_ | refine keepsW_get (by with_reducible assumption) ?_ | exact keepsW_get rfl (by with_reducible assumption) | split | refine keeps_mk rfl rfl rfl rfl rfl rfl rfl rfl ?_)

theorem keep_execIdQuery {cs : List Instr} {s : State} (ln : Ln) (hk : Keeps cs s) :
    KeepsO cs (execIdQuery ln s) := by
  unfold execIdQuery
  try dsimp only
  repeat' (first | with_reducible assumption | with_reducible apply keep_verb | with_reducible apply keepsO_next | with_reducible apply keepsA_ok | exact keepsA_er)

theorem keep_execTimeQuery {cs : List Instr} {s : State} (ln : Ln) (hk : Keeps cs s) :
    KeepsO cs (execTimeQuery ln s) := by
  unfold execTimeQuery
  try dsimp only
  repeat' (first | with_reducible assumption | with_reducible apply keep_verb | with_reducible apply keepsO_next | with_reducible apply keepsA_ok | exact keepsA_er)

theorem keep_execErrQuery {cs : List Instr} {s : State} (ln : Ln) (count : Option Nat) (start : Option Nat) (hk : Keeps cs s) :
    KeepsO cs (execErrQuery ln count start s) := by
  unfold execErrQuery
  try dsimp only
  repeat' (first | with_reducible assumption | with_reducible apply keep_verb | with_reducible apply keepsO_next | with_reducible apply keeps_ite | with_reducible apply keepsO_ite | with_reducible apply keepsA_ite | with_reducible apply keepsA_ok | exact keepsA_er | with_reducible intro _ | refine keeps_fst (by with_reducible assumption) ?_ | refine keeps_snd (by with_reducible assumption) ?_ | refine keepsW_get (by with_reducible assumption) ?_ | exact keepsW_get rfl (by with_reducible assumption) | split | refine keeps_mk rfl rfl rfl rfl rfl rfl rfl rfl ?_)

theorem keep_execErrClear {cs : List Instr} {s : State} (ln : Ln) (hk : Keeps cs s) :
    KeepsO cs (execErrClear ln s) := by
  unfold execErrClear
  try dsimp only
  repeat' (first | with_reducible assumption | with_reducible apply keep_clearLog | with_reducible apply keep_verb | with_reducible apply keepsO_next | with_reducible apply keepsA_ok | exact keepsA_er)

theorem keep_execErrCtlClear {cs : List Instr} {s : State} (src : Src) (v : Word) (hk : Keeps cs s) :
    KeepsO cs (execErrCtlClear src v s) := by
  unfold execErrCtlClear
  try dsimp only
  repeat' (first | with_reducible assumption | with_reducible apply keep_clearLog | with_reducible apply keep_pfDrop | with_reducible apply keepsO_next | with_reducible apply keeps_ite | with_reducible apply keepsO_ite | with_reducible apply keepsW_ite | with_reducible apply keepsA_ite | with_reducible apply keeps_fst_ite | with_reducible apply keepsW_ok | exact keepsW_refuse | with_reducible apply keepsA_ok | exact keepsA_er | with_reducible apply keepsA_fail | with_reducible apply keeps_foldl | with_reducible intro _ | refine keeps_fst (by with_reducible assumption) ?_ | refine keeps_snd (by with_reducible assumption) ?_ | refine keepsW_get (by with_reducible assumption) ?_ | refine keepsO_get (by with_reducible assumption) ?_ | exact keepsO_get rfl (by with_reducible assumption) | exact keepsW_get rfl (by with_reducible assumption) | exact keepsA_ok_get rfl (by with_reducible assumption) | exact keepsA_fail_get rfl (by with_reducible assumption) | with_reducible apply keep_putErr | exact keeps_evq (by with_reducible assumption) | exact Keeps.evq hk _ | refine keeps_evq (cs := cs) ?_ | with_reducible apply queueEvent_evq | exact Nat.zero_le _ | split | refine keeps_mk rfl rfl rfl rfl rfl rfl rfl rfl ?_)

end Sys2Proof.Machine
end

