-- ==== Sys2Proof/Laws/KeepsForward.lean ====
section
/-! SUPPORT. Every operation of Machine/Forward.lean keeps the machine's invariant and its queue. -/

namespace Sys2Proof.Machine

theorem keep_forwardEnd {cs : List Instr} {s : State} (n : Sid) (tag : Nat) (answer : Option (List (List Char))) (e : Er) (items : List Item) (hk : Keeps cs s) :
    Keeps cs (State.forwardEnd s n tag answer e items) := by
  unfold State.forwardEnd
  try dsimp only
  repeat' (first | with_reducible assumption | with_reducible apply keep_lineDone | with_reducible apply keep_sendLines | with_reducible apply keep_setSes | with_reducible apply keeps_ite | with_reducible apply keeps_fst_ite | with_reducible intro _ | refine keeps_fst (by with_reducible assumption) ?_ | refine keeps_snd (by with_reducible assumption) ?_ | exact keeps_evq (by with_reducible assumption) | exact Keeps.evq hk _ | refine keeps_evq (cs := cs) ?_ | with_reducible apply queueEvent_evq | exact Nat.zero_le _ | split | refine keeps_mk rfl rfl rfl rfl rfl rfl rfl rfl ?_)

theorem keep_ccmdEnd {cs : List Instr} {s : State} (result : Nat) (status : Nat) (data : List Byte) (hk : Keeps cs s) :
    Keeps cs (State.ccmdEnd s result status data) := by
  unfold State.ccmdEnd
  try dsimp only
  repeat' (first | with_reducible assumption | with_reducible apply keep_setF)

theorem keep_dropCmd {cs : List Instr} {s : State} (c : XCmd) (hk : Keeps cs s) :
    Keeps cs (State.dropCmd s c) := by
  unfold State.dropCmd
  try dsimp only
  repeat' (first | with_reducible assumption | refine keeps_mk rfl rfl rfl rfl rfl rfl rfl rfl ?_)

theorem keep_cmdErr {cs : List Instr} {s : State} (c : XCmd) (e : Er) (hk : Keeps cs s) :
    Keeps cs (State.cmdErr s c e) := by
  unfold State.cmdErr
  try dsimp only
  repeat' (first | with_reducible assumption | with_reducible apply keep_log | refine keeps_fst (by with_reducible assumption) ?_ | refine keeps_snd (by with_reducible assumption) ?_ | split | refine keeps_mk rfl rfl rfl rfl rfl rfl rfl rfl ?_)

theorem keep_failCmd {cs : List Instr} {s : State} (c : XCmd) (e : Er) (items : List Item) (hk : Keeps cs s) :
    Keeps cs (State.failCmd s c e items) := by
  unfold State.failCmd
  try dsimp only
  repeat' (first | with_reducible assumption | with_reducible apply keep_ccmdEnd | with_reducible apply keep_cmdErr | with_reducible apply keep_dropCmd | with_reducible apply keep_forwardEnd | with_reducible apply keeps_ite | with_reducible apply keepsA_fail | with_reducible intro _ | refine keeps_fst (by with_reducible assumption) ?_ | refine keeps_snd (by with_reducible assumption) ?_ | split | refine keeps_mk rfl rfl rfl rfl rfl rfl rfl rfl ?_)

theorem keep_endCmd {cs : List Instr} {s : State} (c : XCmd) (result : Nat) (status : Nat) (data : List Byte) (hk : Keeps cs s) :
    Keeps cs (State.endCmd s c result status data) := by
  unfold State.endCmd
  try dsimp only
  repeat' (first | with_reducible assumption | with_reducible apply keep_ccmdEnd | with_reducible apply keep_dropCmd | with_reducible apply keep_failCmd | with_reducible apply keep_forwardEnd | with_reducible apply keeps_ite | with_reducible apply keepsA_fail | with_reducible intro _ | refine keeps_fst (by with_reducible assumption) ?_ | refine keeps_snd (by with_reducible assumption) ?_ | split | refine keeps_mk rfl rfl rfl rfl rfl rfl rfl rfl ?_)

theorem keep_remoteDone {cs : List Instr} {s : State} (d : XDone) (data : List Byte) (hk : Keeps cs s) :
    Keeps cs (State.remoteDone s d data) := by
  unfold State.remoteDone
  try dsimp only
  repeat' (first | with_reducible assumption | with_reducible apply keep_sendEvent | with_reducible apply keep_setSes | with_reducible apply keeps_ite | with_reducible intro _ | refine keeps_fst (by with_reducible assumption) ?_ | refine keeps_snd (by with_reducible assumption) ?_ | exact keeps_evq (by with_reducible assumption) | exact Keeps.evq hk _ | refine keeps_evq (cs := cs) ?_ | with_reducible apply queueEvent_evq | exact Nat.zero_le _ | split | refine keeps_mk rfl rfl rfl rfl rfl rfl rfl rfl ?_)

theorem keep_launch {cs : List Instr} {s : State} (f : LFrame) (hk : Keeps cs s) :
    Keeps cs (State.launch s f) := by
  unfold State.launch
  try dsimp only
  repeat' (first | with_reducible assumption | with_reducible apply keep_failCmd | with_reducible apply keep_sendOn | with_reducible apply keep_toSelf | with_reducible apply keeps_ite | with_reducible apply keepsA_fail | with_reducible intro _ | refine keeps_fst (by with_reducible assumption) ?_ | refine keeps_snd (by with_reducible assumption) ?_ | split | refine keeps_mk rfl rfl rfl rfl rfl rfl rfl rfl ?_)

theorem keep_sendCmd {cs : List Instr} {s : State} (dst : Nat) (op : Nat) (level : Nat) (args : List Byte) (ln : Option Ln) (writes : Bool) (hk : Keeps cs s) :
    Keeps cs (State.sendCmd s dst op level args ln writes) := by
  unfold State.sendCmd
  try dsimp only
  repeat' (first | with_reducible assumption | with_reducible apply keep_launch | with_reducible apply keeps_ite | with_reducible intro _ | refine keeps_mk rfl rfl rfl rfl rfl rfl rfl rfl ?_)

theorem keep_launchAll {cs : List Instr} {s : State} (y1 : List LFrame) (hk : Keeps cs s) :
    Keeps cs (State.launchAll s y1) := by
  induction y1 generalizing s with
  | nil =>
    unfold State.launchAll; try dsimp only
    repeat' (first | with_reducible assumption | with_reducible apply ih | with_reducible apply keep_launch | refine keeps_mk rfl rfl rfl rfl rfl rfl rfl rfl ?_)
  | cons a l ih =>
    unfold State.launchAll; try dsimp only
    repeat' (first | with_reducible assumption | with_reducible apply ih | with_reducible apply keep_launch | refine keeps_mk rfl rfl rfl rfl rfl rfl rfl rfl ?_)

end Sys2Proof.Machine
end

