-- ==== Sys2Proof/Laws/KeepsDrive.lean ====
section
/-! SUPPORT. Every operation of Machine/Drive.lean keeps the machine's invariant and its queue. -/

namespace Sys2Proof.Machine

theorem keep_setMode {cs : List Instr} {s : State} (a : Nat) (m : Nat) (hk : Keeps cs s) :
    Keeps cs (State.setMode s a m) := by
  unfold State.setMode
  try dsimp only
  repeat' (first | with_reducible assumption | with_reducible apply keep_setF)

theorem keep_gatesOff {cs : List Instr} {s : State} (a : Nat) (hk : Keeps cs s) :
    Keeps cs (State.gatesOff s a) := by
  unfold State.gatesOff
  try dsimp only
  repeat' (first | with_reducible assumption | with_reducible apply keep_setF | with_reducible apply keep_setMode)

theorem keep_setLoop {cs : List Instr} {s : State} (n : Fin 9) (l : LoopSt) (hk : Keeps cs s) :
    Keeps cs (State.setLoop s n l) := by
  unfold State.setLoop
  try dsimp only
  repeat' (first | with_reducible assumption | refine keeps_mk rfl rfl rfl rfl rfl rfl rfl rfl ?_)

theorem keep_presetLoop {cs : List Instr} {s : State} (n : Fin 9) (hk : Keeps cs s) :
    Keeps cs (State.presetLoop s n) := by
  unfold State.presetLoop
  try dsimp only
  repeat' (first | with_reducible assumption | with_reducible apply keep_setLoop | refine keeps_mk rfl rfl rfl rfl rfl rfl rfl rfl ?_)

theorem keep_caughtLoops {cs : List Instr} {s : State} (a : Fin 3) (hk : Keeps cs s) :
    Keeps cs (State.caughtLoops s a) := by
  unfold State.caughtLoops
  try dsimp only
  repeat' (first | with_reducible assumption | with_reducible apply keep_presetLoop | with_reducible apply keep_setLoop | with_reducible apply keeps_ite | with_reducible intro _ | refine keeps_mk rfl rfl rfl rfl rfl rfl rfl rfl ?_)

theorem keep_tidyLoops {cs : List Instr} {s : State}  (hk : Keeps cs s) :
    Keeps cs (State.tidyLoops s) := by
  unfold State.tidyLoops
  try dsimp only
  repeat' (first | with_reducible assumption | refine keeps_mk rfl rfl rfl rfl rfl rfl rfl rfl ?_)

theorem keep_refreshMot {cs : List Instr} {s : State}  (hk : Keeps cs s) :
    Keeps cs (State.refreshMot s) := by
  unfold State.refreshMot
  try dsimp only
  repeat' (first | with_reducible assumption | with_reducible apply keep_tidyLoops | refine keeps_mk rfl rfl rfl rfl rfl rfl rfl rfl ?_)

theorem keep_beginStop {cs : List Instr} {s : State}  (hk : Keeps cs s) :
    Keeps cs (State.beginStop s) := by
  unfold State.beginStop
  try dsimp only
  repeat' (first | with_reducible assumption | with_reducible apply keep_refreshMot | with_reducible apply keeps_ite | with_reducible intro _ | refine keeps_mk rfl rfl rfl rfl rfl rfl rfl rfl ?_)

theorem keep_srvOff {cs : List Instr} {s : State}  (hk : Keeps cs s) :
    Keeps cs (State.srvOff s) := by
  unfold State.srvOff
  try dsimp only
  repeat' (first | with_reducible assumption | with_reducible apply keep_setF | refine keeps_mk rfl rfl rfl rfl rfl rfl rfl rfl ?_)

theorem keep_endMotion {cs : List Instr} {s : State}  (hk : Keeps cs s) :
    Keeps cs (State.endMotion s) := by
  unfold State.endMotion
  try dsimp only
  repeat' (first | with_reducible assumption | with_reducible apply keep_gatesOff | with_reducible apply keep_refreshMot | with_reducible apply keep_setF | with_reducible apply keep_srvOff | with_reducible apply keeps_ite | with_reducible intro _ | refine keeps_mk rfl rfl rfl rfl rfl rfl rfl rfl ?_)

theorem keep_clearBins {cs : List Instr} {s : State}  (hk : Keeps cs s) :
    Keeps cs (State.clearBins s) := by
  unfold State.clearBins
  try dsimp only
  repeat' (first | with_reducible assumption | refine keeps_mk rfl rfl rfl rfl rfl rfl rfl rfl ?_)

theorem keep_startAxis {cs : List Instr} {s : State} (a : Fin 3) (hk : Keeps cs s) :
    Keeps cs (State.startAxis s a) := by
  unfold State.startAxis
  try dsimp only
  repeat' (first | with_reducible assumption | with_reducible apply keep_presetLoop | with_reducible apply keep_setMode | with_reducible apply keeps_ite | with_reducible intro _ | refine keeps_mk rfl rfl rfl rfl rfl rfl rfl rfl ?_)

theorem keep_beginMove {cs : List Instr} {s : State} (o : Move) (rev : Bool) (step : Nat) (hk : Keeps cs s) :
    Keeps cs (State.beginMove s o rev step) := by
  unfold State.beginMove
  try dsimp only
  repeat' (first | with_reducible assumption | with_reducible apply keep_clearBins | with_reducible apply keep_refreshMot | with_reducible apply keep_setF | with_reducible apply keep_srvOff | with_reducible apply keep_startAxis | with_reducible apply keeps_ite | with_reducible intro _ | refine keeps_mk rfl rfl rfl rfl rfl rfl rfl rfl ?_)

end Sys2Proof.Machine
end

