-- ==== Sys2Proof/Laws/KeepsSweep.lean ====
section
/-! SUPPORT. Every operation of Machine/Sweep.lean keeps the machine's invariant and its queue. -/

namespace Sys2Proof.Machine

theorem keep_setSweep {cs : List Instr} {s : State} (w : Sweep) (hk : Keeps cs s) :
    Keeps cs (State.setSweep s w) := by
  unfold State.setSweep
  try dsimp only
  repeat' (first | with_reducible assumption | refine keeps_mk rfl rfl rfl rfl rfl rfl rfl rfl ?_)

theorem keep_setRange {cs : List Instr} {s : State} (k : Nat) (kids : List Child) (hk : Keeps cs s) :
    Keeps cs (State.setRange s k kids) := by
  unfold State.setRange
  try dsimp only
  repeat' (first | with_reducible assumption | with_reducible apply keep_setF | refine keeps_fst (by with_reducible assumption) ?_ | refine keeps_snd (by with_reducible assumption) ?_ | split | refine keeps_mk rfl rfl rfl rfl rfl rfl rfl rfl ?_)

theorem keep_setRanges {cs : List Instr} {s : State} (kids : List Child) (hk : Keeps cs s) :
    Keeps cs (State.setRanges s kids) := by
  unfold State.setRanges
  try dsimp only
  repeat' (first | with_reducible assumption | with_reducible apply keep_setRange)

theorem keep_tellSweep {cs : List Instr} {s : State} (items : List Item) (y1 : List Ln) (hk : Keeps cs s) :
    Keeps cs (State.tellSweep s items y1) := by
  induction y1 generalizing s items with
  | nil =>
    unfold State.tellSweep; try dsimp only
    repeat' (first | with_reducible assumption | with_reducible apply ih | with_reducible apply keep_done)
  | cons a l ih =>
    unfold State.tellSweep; try dsimp only
    repeat' (first | with_reducible assumption | with_reducible apply ih | with_reducible apply keep_done)

theorem keep_commitTake {cs : List Instr} {s : State} (w : Sweep) (live : List Census) (stale : List Census) (hk : Keeps cs s) :
    Keeps cs (State.commitTake s w live stale) := by
  unfold State.commitTake
  try dsimp only
  repeat' (first | with_reducible assumption | with_reducible apply keep_sendDown | with_reducible apply keep_setF | with_reducible apply keep_setRanges | with_reducible apply keep_wr64 | refine keeps_mk rfl rfl rfl rfl rfl rfl rfl rfl ?_)

theorem keep_commitTell {cs : List Instr} {s : State} (w : Sweep) (counts : List Item) (hk : Keeps cs s) : Keeps cs (State.commitTell s w counts) := by
  unfold State.commitTell
  dsimp only
  have h1 : Keeps cs (if w.limit then s.log (errRec .censuslimit .xlk []) else s) := keeps_ite (fun _ => keep_log _ hk) (fun _ => hk)
  generalize (if w.limit then s.log (errRec .censuslimit .xlk []) else s) = s1 at h1
  have h2 := keep_eventAll "CENSUS" (counts ++ [⟨"SWEEP", .num w.no⟩]) (keep_cause 6 h1)
  generalize (s1.cause 6).eventAll "CENSUS" (counts ++ [⟨"SWEEP", .num w.no⟩]) = s2 at h2
  exact keep_tellSweep _ _ (keeps_mk rfl rfl rfl rfl rfl rfl rfl rfl h2)

theorem keep_commitEnd {cs : List Instr} {s : State}  (hk : Keeps cs s) :
    Keeps cs (State.commitEnd s) := by
  unfold State.commitEnd
  try dsimp only
  repeat' (first | with_reducible assumption | with_reducible apply keep_launchAll | with_reducible apply keep_rejoinAll | refine keeps_mk rfl rfl rfl rfl rfl rfl rfl rfl ?_)

theorem keep_commitSweep {cs : List Instr} {s : State} (w : Sweep) (hk : Keeps cs s) :
    Keeps cs (State.commitSweep s w) := by
  unfold State.commitSweep
  try dsimp only
  repeat' (first | with_reducible assumption | with_reducible apply keep_commitEnd | with_reducible apply keep_commitTake | with_reducible apply keep_commitTell)

theorem keep_endWalk {cs : List Instr} {s : State} (w : Sweep) (hk : Keeps cs s) :
    Keeps cs (State.endWalk s w) := by
  unfold State.endWalk
  try dsimp only
  repeat' (first | with_reducible assumption | with_reducible apply keep_commitSweep | with_reducible apply keep_sendHop | with_reducible apply keeps_ite | with_reducible intro _ | refine keeps_mk rfl rfl rfl rfl rfl rfl rfl rfl ?_)

theorem keep_walkNext {cs : List Instr} {s : State} (w : Sweep) (y1 : List Nat) (hk : Keeps cs s) :
    Keeps cs (State.walkNext s w y1) := by
  induction y1 generalizing s w with
  | nil =>
    unfold State.walkNext; try dsimp only
    repeat' (first | with_reducible assumption | with_reducible apply ih | with_reducible apply keep_endWalk | with_reducible apply keep_sendHop | with_reducible apply keep_setSweep | with_reducible apply keepsO_next | with_reducible apply keeps_ite | with_reducible apply keepsO_ite | with_reducible apply keepsW_ite | with_reducible apply keepsA_ite | with_reducible apply keeps_fst_ite | with_reducible apply keepsW_ok | exact keepsW_refuse | with_reducible apply keepsA_ok | exact keepsA_er | with_reducible apply keepsA_fail | with_reducible apply keeps_foldl | with_reducible intro _ | refine keeps_fst (by with_reducible assumption) ?_ | refine keeps_snd (by with_reducible assumption) ?_ | refine keepsW_get (by with_reducible assumption) ?_ | refine keepsO_get (by with_reducible assumption) ?_ | exact keepsO_get rfl (by with_reducible assumption) | exact keepsW_get rfl (by with_reducible assumption) | exact keepsA_ok_get rfl (by with_reducible assumption) | exact keepsA_fail_get rfl (by with_reducible assumption) | with_reducible apply keep_putErr | exact keeps_evq (by with_reducible assumption) | exact Keeps.evq hk _ | refine keeps_evq (cs := cs) ?_ | with_reducible apply queueEvent_evq | exact Nat.zero_le _ | split | refine keeps_mk rfl rfl rfl rfl rfl rfl rfl rfl ?_)
  | cons a l ih =>
    unfold State.walkNext; try dsimp only
    repeat' (first | with_reducible assumption | with_reducible apply ih | with_reducible apply keep_endWalk | with_reducible apply keep_sendHop | with_reducible apply keep_setSweep | with_reducible apply keepsO_next | with_reducible apply keeps_ite | with_reducible apply keepsO_ite | with_reducible apply keepsW_ite | with_reducible apply keepsA_ite | with_reducible apply keeps_fst_ite | with_reducible apply keepsW_ok | exact keepsW_refuse | with_reducible apply keepsA_ok | exact keepsA_er | with_reducible apply keepsA_fail | with_reducible apply keeps_foldl | with_reducible intro _ | refine keeps_fst (by with_reducible assumption) ?_ | refine keeps_snd (by with_reducible assumption) ?_ | refine keepsW_get (by with_reducible assumption) ?_ | refine keepsO_get (by with_reducible assumption) ?_ | exact keepsO_get rfl (by with_reducible assumption) | exact keepsW_get rfl (by with_reducible assumption) | exact keepsA_ok_get rfl (by with_reducible assumption) | exact keepsA_fail_get rfl (by with_reducible assumption) | with_reducible apply keep_putErr | exact keeps_evq (by with_reducible assumption) | exact Keeps.evq hk _ | refine keeps_evq (cs := cs) ?_ | with_reducible apply queueEvent_evq | exact Nat.zero_le _ | split | refine keeps_mk rfl rfl rfl rfl rfl rfl rfl rfl ?_)

theorem keep_stepSweep {cs : List Instr} {s : State} (w : Sweep) (hk : Keeps cs s) :
    Keeps cs (State.stepSweep s w) := by
  unfold State.stepSweep
  try dsimp only
  repeat' (first | with_reducible assumption | with_reducible apply keep_setSweep | with_reducible apply keep_walkNext | with_reducible apply keeps_ite | with_reducible intro _)

theorem keep_startSweep {cs : List Instr} {s : State}  (hk : Keeps cs s) :
    Keeps cs (State.startSweep s) := by
  unfold State.startSweep
  try dsimp only
  repeat' (first | with_reducible assumption | with_reducible apply keep_setF | with_reducible apply keep_stepSweep | refine keeps_mk rfl rfl rfl rfl rfl rfl rfl rfl ?_)

theorem keep_sweepBreak {cs : List Instr} {s : State} (p : Nat) (hk : Keeps cs s) :
    Keeps cs (State.sweepBreak s p) := by
  unfold State.sweepBreak
  try dsimp only
  repeat' (first | with_reducible assumption | with_reducible apply keep_setF | with_reducible apply keep_setSweep | with_reducible apply keep_stepSweep | with_reducible apply keeps_ite | with_reducible intro _ | refine keeps_fst (by with_reducible assumption) ?_ | refine keeps_snd (by with_reducible assumption) ?_ | split | refine keeps_mk rfl rfl rfl rfl rfl rfl rfl rfl ?_)

theorem keep_execCensusAutoStart {cs : List Instr} {s : State}  (hk : Keeps cs s) :
    KeepsO cs (execCensusAutoStart s) := by
  unfold execCensusAutoStart
  try dsimp only
  repeat' (first | with_reducible assumption | with_reducible apply keep_startSweep | with_reducible apply keepsO_next | with_reducible apply keeps_ite | with_reducible apply keepsO_ite | with_reducible intro _)

theorem keep_execCreqReceived {cs : List Instr} {s : State} (nextId : BitVec 32) (sweep : BitVec 16) (depth : Byte) (path : Word) (hk : Keeps cs s) :
    KeepsO cs (execCreqReceived nextId sweep depth path s) := by
  unfold execCreqReceived
  try dsimp only
  repeat' (first | with_reducible assumption | with_reducible apply keep_sendHop | with_reducible apply keep_setF | with_reducible apply keep_stepSweep | with_reducible apply keepsO_next | with_reducible apply keeps_ite | with_reducible apply keepsO_ite | with_reducible intro _)

theorem keep_execCrspReceived {cs : List Instr} {s : State} (p : PortNo) (count : Word) (brkNode : Word) (brkPort : Byte) (brk : Bool) (limit : Bool) (longhop : Bool) (uid : DWord) (hk : Keeps cs s) :
    KeepsO cs (execCrspReceived p count brkNode brkPort brk limit longhop uid s) := by
  unfold execCrspReceived
  try dsimp only
  repeat' (first | with_reducible assumption | with_reducible apply keep_stepSweep | with_reducible apply keepsO_next | with_reducible apply keeps_ite | with_reducible apply keepsO_ite | with_reducible intro _ | refine keeps_fst (by with_reducible assumption) ?_ | refine keeps_snd (by with_reducible assumption) ?_ | split | refine keeps_mk rfl rfl rfl rfl rfl rfl rfl rfl ?_)

theorem keep_execProbeExchange {cs : List Instr} {s : State} (p : PortNo) (rounds : List (Nat × Nat)) (hk : Keeps cs s) :
    KeepsO cs (execProbeExchange p rounds s) := by
  unfold execProbeExchange
  try dsimp only
  repeat' (first | with_reducible assumption | with_reducible apply keep_log | with_reducible apply keep_setF | with_reducible apply keep_stepSweep | with_reducible apply keepsO_next | with_reducible apply keeps_ite | with_reducible apply keepsO_ite | with_reducible intro _ | refine keeps_fst (by with_reducible assumption) ?_ | refine keeps_snd (by with_reducible assumption) ?_ | split | refine keeps_mk rfl rfl rfl rfl rfl rfl rfl rfl ?_)

theorem keep_execCommitReceived {cs : List Instr} {s : State} (sweep : BitVec 16) (hk : Keeps cs s) :
    KeepsO cs (execCommitReceived sweep s) := by
  unfold execCommitReceived
  try dsimp only
  repeat' (first | with_reducible assumption | with_reducible apply keep_cause | with_reducible apply keep_eventAll | with_reducible apply keep_rejoinAll | with_reducible apply keep_setF | with_reducible apply keep_setRanges | with_reducible apply keepsO_next | with_reducible apply keeps_ite | with_reducible apply keepsO_ite | with_reducible intro _ | refine keeps_fst (by with_reducible assumption) ?_ | refine keeps_snd (by with_reducible assumption) ?_ | split | refine keeps_mk rfl rfl rfl rfl rfl rfl rfl rfl ?_)

end Sys2Proof.Machine
end

