-- ==== Sys2Proof/Laws/KeepsTenants.lean ====
section
/-! SUPPORT. Every operation of Machine/Tenants.lean keeps the machine's invariant and its queue. -/

namespace Sys2Proof.Machine

theorem keep_drtResetAll {cs : List Instr} {s : State} (y1 : List Drt) (hk : Keeps cs s) :
    Keeps cs (State.drtResetAll s y1) := by
  induction y1 generalizing s with
  | nil =>
    unfold State.drtResetAll; try dsimp only
    repeat' (first | with_reducible assumption | with_reducible apply ih | with_reducible apply keep_drtEnd)
  | cons a l ih =>
    unfold State.drtResetAll; try dsimp only
    repeat' (first | with_reducible assumption | with_reducible apply ih | with_reducible apply keep_drtEnd)

theorem keep_orphans {cs : List Instr} {s : State} (t : Tenant) (carried : List Rec) (y1 : List Queue) (hk : Keeps cs s) :
    Keeps cs (State.orphans s t carried y1) := by
  induction y1 generalizing s t carried with
  | nil =>
    unfold State.orphans; try dsimp only
    repeat' (first | with_reducible assumption | with_reducible apply ih | with_reducible apply keep_log | refine keeps_fst (by with_reducible assumption) ?_ | refine keeps_snd (by with_reducible assumption) ?_ | split | refine keeps_mk rfl rfl rfl rfl rfl rfl rfl rfl ?_)
  | cons a l ih =>
    unfold State.orphans; try dsimp only
    repeat' (first | with_reducible assumption | with_reducible apply ih | with_reducible apply keep_log | refine keeps_fst (by with_reducible assumption) ?_ | refine keeps_snd (by with_reducible assumption) ?_ | split | refine keeps_mk rfl rfl rfl rfl rfl rfl rfl rfl ?_)

theorem keep_dropQueues {cs : List Instr} {s : State} (y1 : List Queue) (hk : Keeps cs s) :
    Keeps cs (State.dropQueues s y1) := by
  induction y1 generalizing s with
  | nil =>
    unfold State.dropQueues; try dsimp only
    repeat' (first | with_reducible assumption | with_reducible apply ih | with_reducible apply keep_dropQueue)
  | cons a l ih =>
    unfold State.dropQueues; try dsimp only
    repeat' (first | with_reducible assumption | with_reducible apply ih | with_reducible apply keep_dropQueue)

theorem keep_clearFn {cs : List Instr} {s : State} (t : Tenant) (hk : Keeps cs s) :
    Keeps cs (State.clearFn s t) := by
  unfold State.clearFn
  try dsimp only
  repeat' (first | with_reducible assumption | with_reducible apply keeps_ite | with_reducible intro _ | refine keeps_mk rfl rfl rfl rfl rfl rfl rfl rfl ?_)

theorem keep_flr {cs : List Instr} {s : State} (t : Tenant) (hk : Keeps cs s) :
    Keeps cs (State.flr s t).1 := by
  unfold State.flr
  try dsimp only
  repeat' (first | with_reducible assumption | with_reducible apply keep_cause | with_reducible apply keep_clearFn | with_reducible apply keep_dropQueues | with_reducible apply keep_drtResetAll | with_reducible apply keep_freeLent | with_reducible apply keep_freePagesOf | with_reducible apply keep_orphans | with_reducible apply keep_report | with_reducible apply keep_settleShares | with_reducible apply keeps_ite | with_reducible apply keeps_fst_ite | with_reducible intro _ | split | refine keeps_mk rfl rfl rfl rfl rfl rfl rfl rfl ?_)

theorem keep_flrDone {cs : List Instr} {s : State} (t : Tenant) (n : Nat) (y1 : List (Tenant × Ln)) (hk : Keeps cs s) :
    Keeps cs (State.flrDone s t n y1) := by
  induction y1 generalizing s t n with
  | nil =>
    unfold State.flrDone; try dsimp only
    repeat' (first | with_reducible assumption | with_reducible apply ih | with_reducible apply keep_done | with_reducible apply keeps_ite | with_reducible intro _)
  | cons a l ih =>
    unfold State.flrDone; try dsimp only
    repeat' (first | with_reducible assumption | with_reducible apply ih | with_reducible apply keep_done | with_reducible apply keeps_ite | with_reducible intro _)

theorem keep_flrAll {cs : List Instr} {s : State} (t : Tenant) (hk : Keeps cs s) :
    Keeps cs (State.flrAll s t) := by
  unfold State.flrAll
  try dsimp only
  repeat' (first | with_reducible assumption | with_reducible apply keep_dropBootTest | with_reducible apply keep_flr | with_reducible apply keep_flrDone | refine keeps_fst (by with_reducible assumption) ?_ | refine keeps_snd (by with_reducible assumption) ?_ | split | refine keeps_mk rfl rfl rfl rfl rfl rfl rfl rfl ?_)

theorem keep_execFunctionLevelReset {cs : List Instr} {s : State} (t : Tenant) (hk : Keeps cs s) :
    KeepsO cs (execFunctionLevelReset t s) := by
  unfold execFunctionLevelReset
  try dsimp only
  repeat' (first | with_reducible assumption | with_reducible apply keep_flrAll | with_reducible apply keepsO_next | with_reducible apply keeps_ite | with_reducible apply keepsO_ite | with_reducible intro _ | refine keeps_mk rfl rfl rfl rfl rfl rfl rfl rfl ?_)

theorem keep_execResetFunction {cs : List Instr} {s : State} (ln : Ln) (t : Tenant) (hk : Keeps cs s) :
    KeepsO cs (execResetFunction ln t s) := by
  unfold execResetFunction
  try dsimp only
  repeat' (first | with_reducible assumption | with_reducible apply keep_setFn | with_reducible apply keep_verb | with_reducible apply keepsO_next | with_reducible apply keeps_ite | with_reducible apply keepsO_ite | with_reducible apply keepsA_ite | with_reducible apply keepsA_ok | exact keepsA_er | with_reducible intro _ | refine keeps_mk rfl rfl rfl rfl rfl rfl rfl rfl ?_)

theorem keep_flrs {cs : List Instr} {s : State} (y1 : List Tenant) (hk : Keeps cs s) :
    Keeps cs (State.flrs s y1) := by
  induction y1 generalizing s with
  | nil =>
    unfold State.flrs; try dsimp only
    repeat' (first | with_reducible assumption | with_reducible apply ih | with_reducible apply keep_flrAll)
  | cons a l ih =>
    unfold State.flrs; try dsimp only
    repeat' (first | with_reducible assumption | with_reducible apply ih | with_reducible apply keep_flrAll)

theorem keep_clearVf {cs : List Instr} {s : State}  (hk : Keeps cs s) :
    Keeps cs (State.clearVf s) := by
  unfold State.clearVf
  try dsimp only
  repeat' (first | with_reducible assumption | with_reducible apply keep_setF | with_reducible apply keeps_ite | with_reducible intro _ | refine keeps_mk rfl rfl rfl rfl rfl rfl rfl rfl ?_)

theorem keep_execPfFlr {cs : List Instr} {s : State}  (hk : Keeps cs s) :
    KeepsO cs (execPfFlr s) := by
  unfold execPfFlr
  try dsimp only
  repeat' (first | with_reducible assumption | with_reducible apply keep_cfgRequest | with_reducible apply keep_clearVf | with_reducible apply keep_flrAll | with_reducible apply keep_flrs | with_reducible apply keepsO_next | with_reducible apply keeps_ite | with_reducible apply keepsO_ite | with_reducible intro _ | refine keeps_mk rfl rfl rfl rfl rfl rfl rfl rfl ?_)

theorem keep_setVf {cs : List Instr} {s : State} (ari : Bool) (numVfs : Nat) (hk : Keeps cs s) :
    Keeps cs (State.setVf s ari numVfs) := by
  unfold State.setVf
  try dsimp only
  repeat' (first | with_reducible assumption | with_reducible apply keep_setF | with_reducible apply keeps_ite | with_reducible intro _ | refine keeps_mk rfl rfl rfl rfl rfl rfl rfl rfl ?_)

theorem keep_execVfEnable {cs : List Instr} {s : State} (ari : Bool) (numVfs : Nat) (hk : Keeps cs s) :
    KeepsO cs (execVfEnable ari numVfs s) := by
  unfold execVfEnable
  try dsimp only
  repeat' (first | with_reducible assumption | with_reducible apply keep_cfgRequest | with_reducible apply keep_setVf | with_reducible apply keepsO_next | with_reducible apply keeps_ite | with_reducible apply keepsO_ite | with_reducible intro _ | refine keeps_mk rfl rfl rfl rfl rfl rfl rfl rfl ?_)

theorem keep_execVfDisable {cs : List Instr} {s : State}  (hk : Keeps cs s) :
    KeepsO cs (execVfDisable s) := by
  unfold execVfDisable
  try dsimp only
  repeat' (first | with_reducible assumption | with_reducible apply keep_cfgRequest | with_reducible apply keep_clearVf | with_reducible apply keep_flrs | with_reducible apply keepsO_next | with_reducible apply keeps_ite | with_reducible apply keepsO_ite | with_reducible intro _ | refine keeps_mk rfl rfl rfl rfl rfl rfl rfl rfl ?_)

theorem keep_drtTenOff {cs : List Instr} {s : State} (t : Tenant) (hk : Keeps cs s) :
    Keeps cs (State.drtTenOff s t) := by
  unfold State.drtTenOff
  try dsimp only
  repeat' (first | with_reducible assumption | with_reducible apply keep_drtEndAll | with_reducible apply keep_flrAll | with_reducible apply keep_setF | with_reducible apply keeps_ite | with_reducible intro _)

theorem keep_execDrtTenantDisable {cs : List Instr} {s : State} (src : Src) (t : Tenant) (hk : Keeps cs s) :
    KeepsO cs (execDrtTenantDisable src t s) := by
  unfold execDrtTenantDisable
  try dsimp only
  repeat' (first | with_reducible assumption | with_reducible apply keep_drtTenOff | with_reducible apply keep_pfDrop | with_reducible apply keepsO_next | with_reducible apply keeps_ite | with_reducible apply keepsO_ite | with_reducible intro _ | refine keeps_fst (by with_reducible assumption) ?_ | refine keeps_snd (by with_reducible assumption) ?_ | split | refine keeps_mk rfl rfl rfl rfl rfl rfl rfl rfl ?_)

theorem keep_drtOff {cs : List Instr} {s : State}  (hk : Keeps cs s) :
    Keeps cs (State.drtOff s) := by
  unfold State.drtOff
  try dsimp only
  repeat' (first | with_reducible assumption | with_reducible apply keep_drtEndAll | with_reducible apply keep_setF)

theorem keep_execDrtDisable {cs : List Instr} {s : State} (src : Src) (hk : Keeps cs s) :
    KeepsO cs (execDrtDisable src s) := by
  unfold execDrtDisable
  try dsimp only
  repeat' (first | with_reducible assumption | with_reducible apply keep_drtOff | with_reducible apply keep_pfDrop | with_reducible apply keepsO_next | with_reducible apply keeps_ite | with_reducible apply keepsO_ite | with_reducible intro _ | refine keeps_fst (by with_reducible assumption) ?_ | refine keeps_snd (by with_reducible assumption) ?_ | split | refine keeps_mk rfl rfl rfl rfl rfl rfl rfl rfl ?_)

theorem keep_ethFrame {cs : List Instr} {s : State} (e : EthIn) (src : Word) (served : State → State) (hk : Keeps cs s) (hs : ∀ t, Keeps cs t → Keeps cs (served t)) :
    Keeps cs (State.ethFrame s e src served) := by
  unfold State.ethFrame
  exact keeps_ite (fun _ => hk) (fun _ => keeps_ite (fun _ => keep_count _ _ hk) (fun _ => keeps_ite (fun _ => keep_count _ _ hk) (fun _ => hs _ (keep_heard _ _ _ hk))))

theorem keep_execArpRequest {cs : List Instr} {s : State} (e : EthIn) (senderIp : Word) (targetIp : Word) (hk : Keeps cs s) :
    KeepsO cs (execArpRequest e senderIp targetIp s) := by
  unfold execArpRequest
  try dsimp only
  repeat' (first | with_reducible assumption | with_reducible apply keep_emit | with_reducible apply keep_ethFrame | with_reducible apply keepsO_next | with_reducible apply keeps_ite | with_reducible apply keepsO_ite | with_reducible intro _ | refine keeps_mk rfl rfl rfl rfl rfl rfl rfl rfl ?_)

theorem keep_execIcmpEcho {cs : List Instr} {s : State} (e : EthIn) (srcIp : Word) (dstIp : Word) (data : List Byte) (hk : Keeps cs s) :
    KeepsO cs (execIcmpEcho e srcIp dstIp data s) := by
  unfold execIcmpEcho
  try dsimp only
  repeat' (first | with_reducible assumption | with_reducible apply keep_emit | with_reducible apply keep_ethFrame | with_reducible apply keepsO_next | with_reducible apply keeps_ite | with_reducible apply keepsO_ite | with_reducible intro _ | refine keeps_mk rfl rfl rfl rfl rfl rfl rfl rfl ?_)

theorem keep_execUnsupportedFrame {cs : List Instr} {s : State} (port : Fin 2) (xc3Full : Bool) (hk : Keeps cs s) :
    KeepsO cs (execUnsupportedFrame port xc3Full s) := by
  unfold execUnsupportedFrame
  try dsimp only
  repeat' (first | with_reducible assumption | with_reducible apply keep_count | with_reducible apply keepsO_next | with_reducible apply keeps_ite | with_reducible apply keepsO_ite | with_reducible intro _ | refine keeps_mk rfl rfl rfl rfl rfl rfl rfl rfl ?_)

theorem keep_execEthLinkChange {cs : List Instr} {s : State} (port : Fin 2) (mbps : Nat) (fullDuplex : Bool) (up : Bool) (hk : Keeps cs s) :
    KeepsO cs (execEthLinkChange port mbps fullDuplex up s) := by
  unfold execEthLinkChange
  try dsimp only
  repeat' (first | with_reducible assumption | with_reducible apply keep_clkBack | with_reducible apply keep_setF | with_reducible apply keepsO_next | with_reducible apply keeps_ite | with_reducible apply keepsO_ite | with_reducible intro _ | refine keeps_mk rfl rfl rfl rfl rfl rfl rfl rfl ?_)

theorem keep_setLocked {cs : List Instr} {s : State} (b : Bool) (hk : Keeps cs s) :
    Keeps cs (State.setLocked s b) := by
  unfold State.setLocked
  try dsimp only
  repeat' (first | with_reducible assumption | with_reducible apply keep_cause | with_reducible apply keep_notify | with_reducible apply keep_setF | with_reducible apply keeps_ite | with_reducible intro _)

theorem keep_steer {cs : List Instr} {s : State} (offsetNs : Int) (hk : Keeps cs s) :
    Keeps cs (State.steer s offsetNs) := by
  unfold State.steer
  try dsimp only
  repeat' (first | with_reducible assumption | with_reducible apply keep_draw | with_reducible apply keep_setLocked | with_reducible apply keeps_ite | with_reducible intro _ | refine keeps_mk rfl rfl rfl rfl rfl rfl rfl rfl ?_)

theorem keep_execGptpSync {cs : List Instr} {s : State} (port : Fin 2) (offsetNs : Int) (hk : Keeps cs s) :
    KeepsO cs (execGptpSync port offsetNs s) := by
  unfold execGptpSync
  try dsimp only
  repeat' (first | with_reducible assumption | with_reducible apply keep_setF | with_reducible apply keep_steer | with_reducible apply keepsO_next | with_reducible apply keeps_ite | with_reducible apply keepsO_ite | with_reducible intro _ | refine keeps_mk rfl rfl rfl rfl rfl rfl rfl rfl ?_)

theorem keep_execGptpSyncTimeout {cs : List Instr} {s : State}  (hk : Keeps cs s) :
    KeepsO cs (execGptpSyncTimeout s) := by
  unfold execGptpSyncTimeout
  try dsimp only
  repeat' (first | with_reducible assumption | with_reducible apply keep_setF | with_reducible apply keep_setLocked | with_reducible apply keepsO_next | with_reducible apply keeps_ite | with_reducible apply keepsO_ite | with_reducible intro _ | refine keeps_mk rfl rfl rfl rfl rfl rfl rfl rfl ?_)

end Sys2Proof.Machine
end

