-- ==== Sys2Proof/Laws/KeepsPorts.lean ====
section
/-! SUPPORT. Every operation of Machine/Ports.lean keeps the machine's invariant and its queue. -/

namespace Sys2Proof.Machine

theorem keep_markStale {cs : List Instr} {s : State} (ids : List Nat) (hk : Keeps cs s) :
    Keeps cs (State.markStale s ids) := by
  unfold State.markStale
  try dsimp only
  repeat' (first | with_reducible assumption | with_reducible apply keep_setF | with_reducible apply keeps_ite | with_reducible intro _ | refine keeps_mk rfl rfl rfl rfl rfl rfl rfl rfl ?_)

theorem keep_breakEvent {cs : List Instr} {s : State} (n : Nat) (p : Nat) (reason : Nat) (stale : Nat) (hk : Keeps cs s) :
    Keeps cs (State.breakEvent s n p reason stale) := by
  unfold State.breakEvent
  try dsimp only
  repeat' (first | with_reducible assumption | with_reducible apply keep_cause | with_reducible apply keep_eventAll)

theorem keep_downBreak {cs : List Instr} {s : State} (p : Nat) (reason : Nat) (hk : Keeps cs s) :
    Keeps cs (State.downBreak s p reason) := by
  unfold State.downBreak
  try dsimp only
  repeat' (first | with_reducible assumption | with_reducible apply keep_breakEvent | with_reducible apply keep_markStale | with_reducible apply keep_routePlain | with_reducible apply keeps_ite | with_reducible intro _)

theorem keep_brokenCmds {cs : List Instr} {s : State} (p : Nat) (y1 : List Sent) (hk : Keeps cs s) :
    Keeps cs (State.brokenCmds s p y1) := by
  induction y1 generalizing s p with
  | nil =>
    unfold State.brokenCmds; try dsimp only
    repeat' (first | with_reducible assumption | with_reducible apply ih | with_reducible apply keep_failCmd | with_reducible apply keep_sendRsp | with_reducible apply keeps_ite | with_reducible apply keepsA_fail | with_reducible intro _ | refine keeps_fst (by with_reducible assumption) ?_ | refine keeps_snd (by with_reducible assumption) ?_ | split | refine keeps_mk rfl rfl rfl rfl rfl rfl rfl rfl ?_)
  | cons a l ih =>
    unfold State.brokenCmds; try dsimp only
    repeat' (first | with_reducible assumption | with_reducible apply ih | with_reducible apply keep_failCmd | with_reducible apply keep_sendRsp | with_reducible apply keeps_ite | with_reducible apply keepsA_fail | with_reducible intro _ | refine keeps_fst (by with_reducible assumption) ?_ | refine keeps_snd (by with_reducible assumption) ?_ | split | refine keeps_mk rfl rfl rfl rfl rfl rfl rfl rfl ?_)

theorem keep_lendBreak {cs : List Instr} {s : State} (p : PortNo) (hk : Keeps cs s) :
    Keeps cs (State.lendBreak s p) := by
  unfold State.lendBreak
  try dsimp only
  repeat' (first | with_reducible assumption | with_reducible apply keep_abort | with_reducible apply keep_freePagesOf | with_reducible apply keeps_ite | with_reducible intro _ | refine keeps_fst (by with_reducible assumption) ?_ | refine keeps_snd (by with_reducible assumption) ?_ | split | refine keeps_mk rfl rfl rfl rfl rfl rfl rfl rfl ?_)

theorem keep_portDown {cs : List Instr} {s : State} (p : PortNo) (r : DownReason) (hk : Keeps cs s) :
    Keeps cs (State.portDown s p r) := by
  unfold State.portDown
  try dsimp only
  repeat' (first | with_reducible assumption | with_reducible apply keep_brokenCmds | with_reducible apply keep_count | with_reducible apply keep_downBreak | with_reducible apply keep_evalGroups | with_reducible apply keep_lendBreak | with_reducible apply keep_log | with_reducible apply keep_setF | with_reducible apply keep_setXp | with_reducible apply keep_sweepBreak | with_reducible apply keeps_ite | with_reducible intro _ | refine keeps_mk rfl rfl rfl rfl rfl rfl rfl rfl ?_)

theorem keep_execPortDown {cs : List Instr} {s : State} (p : PortNo) (reason : DownReason) (hk : Keeps cs s) :
    KeepsO cs (execPortDown p reason s) := by
  unfold execPortDown
  try dsimp only
  repeat' (first | with_reducible assumption | with_reducible apply keep_portDown | with_reducible apply keepsO_next | with_reducible apply keeps_ite | with_reducible apply keepsO_ite | with_reducible intro _)

theorem keep_execParkOrderedSet {cs : List Instr} {s : State} (p : PortNo) (hk : Keeps cs s) :
    KeepsO cs (execParkOrderedSet p s) := by
  unfold execParkOrderedSet
  try dsimp only
  repeat' (first | with_reducible assumption | with_reducible apply keep_portDown | with_reducible apply keepsO_next | with_reducible apply keeps_ite | with_reducible apply keepsO_ite | with_reducible intro _)

theorem keep_clash {cs : List Instr} {s : State} (p : PortNo) (r : DownReason) (e : Er) (hk : Keeps cs s) :
    Keeps cs (State.clash s p r e) := by
  unfold State.clash
  try dsimp only
  repeat' (first | with_reducible assumption | with_reducible apply keep_log | with_reducible apply keep_setF | with_reducible apply keep_setXp | with_reducible apply keeps_ite | with_reducible intro _ | refine keeps_mk rfl rfl rfl rfl rfl rfl rfl rfl ?_)

theorem keep_linkUpEvent {cs : List Instr} {s : State} (p : PortNo) (hk : Keeps cs s) :
    Keeps cs (State.linkUpEvent s p) := by
  unfold State.linkUpEvent
  try dsimp only
  repeat' (first | with_reducible assumption | with_reducible apply keep_cause | with_reducible apply keep_routePlain | with_reducible apply keeps_ite | with_reducible intro _ | refine keeps_mk rfl rfl rfl rfl rfl rfl rfl rfl ?_)

theorem keep_execPortTrained {cs : List Instr} {s : State} (p : PortNo) (peerRole : PortNo) (peerMaster : Bool) (hk : Keeps cs s) :
    KeepsO cs (execPortTrained p peerRole peerMaster s) := by
  unfold execPortTrained
  try dsimp only
  repeat' (first | with_reducible assumption | with_reducible apply keep_clash | with_reducible apply keep_clkBack | with_reducible apply keep_linkUpEvent | with_reducible apply keep_setF | with_reducible apply keep_setXp | with_reducible apply keepsO_next | with_reducible apply keeps_ite | with_reducible apply keepsO_ite | with_reducible intro _ | refine keeps_mk rfl rfl rfl rfl rfl rfl rfl rfl ?_)

theorem keep_execTrainingBurst {cs : List Instr} {s : State} (p : PortNo) (hk : Keeps cs s) :
    KeepsO cs (execTrainingBurst p s) := by
  unfold execTrainingBurst
  try dsimp only
  repeat' (first | with_reducible assumption | with_reducible apply keep_emit | with_reducible apply keepsO_next | with_reducible apply keeps_ite | with_reducible apply keepsO_ite | with_reducible intro _)

theorem keep_noteRetries {cs : List Instr} {s : State} (l : List Sent) (hk : Keeps cs s) :
    Keeps cs (State.noteRetries s l) := by
  unfold State.noteRetries
  try dsimp only
  repeat' (first | with_reducible assumption | with_reducible apply keeps_ite | with_reducible intro _ | refine keeps_mk rfl rfl rfl rfl rfl rfl rfl rfl ?_)

theorem keep_retry {cs : List Instr} {s : State} (p : PortNo) (hk : Keeps cs s) :
    Keeps cs (State.retry s p) := by
  unfold State.retry
  try dsimp only
  repeat' (first | with_reducible assumption | with_reducible apply keep_count | with_reducible apply keep_noteRetries | with_reducible apply keep_portDown | with_reducible apply keep_pushPort | with_reducible apply keep_setXp | with_reducible apply keeps_ite | with_reducible intro _ | refine keeps_mk rfl rfl rfl rfl rfl rfl rfl rfl ?_)

theorem keep_execLinkRetry {cs : List Instr} {s : State} (p : PortNo) (hk : Keeps cs s) :
    KeepsO cs (execLinkRetry p s) := by
  unfold execLinkRetry
  try dsimp only
  repeat' (first | with_reducible assumption | with_reducible apply keep_retry | with_reducible apply keepsO_next)

theorem keep_idle {cs : List Instr} {s : State} (p : PortNo) (nak : Bool) (hk : Keeps cs s) :
    Keeps cs (State.idle s p nak) := by
  unfold State.idle
  try dsimp only
  repeat' (first | with_reducible assumption | with_reducible apply keep_wire | refine keeps_mk rfl rfl rfl rfl rfl rfl rfl rfl ?_)

theorem keep_execLinkIdleSend {cs : List Instr} {s : State} (p : PortNo) (hk : Keeps cs s) :
    KeepsO cs (execLinkIdleSend p s) := by
  unfold execLinkIdleSend
  try dsimp only
  repeat' (first | with_reducible assumption | with_reducible apply keep_idle | with_reducible apply keepsO_next | with_reducible apply keeps_ite | with_reducible apply keepsO_ite | with_reducible intro _)

theorem keep_takeAck {cs : List Instr} {s : State} (p : PortNo) (f : LFrame) (hk : Keeps cs s) :
    Keeps cs (State.takeAck s p f) := by
  unfold State.takeAck
  try dsimp only
  repeat' (first | with_reducible assumption | with_reducible apply keep_pushPort | with_reducible apply keep_setXp | refine keeps_mk rfl rfl rfl rfl rfl rfl rfl rfl ?_)

theorem keep_deliver {cs : List Instr} {s : State} (f : LFrame) (hk : Keeps cs s) :
    Keeps cs (State.deliver s f) := by
  unfold State.deliver
  try dsimp only
  repeat' (first | with_reducible assumption | with_reducible apply keep_emit | with_reducible apply keep_headReply | with_reducible apply keep_route | with_reducible apply keep_sendDown | with_reducible apply keeps_ite | with_reducible intro _)

theorem keep_takeFrame {cs : List Instr} {s : State} (p : PortNo) (f : LFrame) (len : Nat) (hk : Keeps cs s) :
    Keeps cs (State.takeFrame s p f len) := by
  unfold State.takeFrame
  try dsimp only
  repeat' (first | with_reducible assumption | with_reducible apply keep_count | with_reducible apply keep_deliver | with_reducible apply keep_idle | with_reducible apply keep_setXp | with_reducible apply keeps_ite | with_reducible intro _ | refine keeps_mk rfl rfl rfl rfl rfl rfl rfl rfl ?_)

theorem keep_execLinkFrameReceived {cs : List Instr} {s : State} (p : PortNo) (h : LinkHdr) (hk : Keeps cs s) :
    KeepsO cs (execLinkFrameReceived p h s) := by
  unfold execLinkFrameReceived
  try dsimp only
  repeat' (first | with_reducible assumption | with_reducible apply keep_count | with_reducible apply keep_idle | with_reducible apply keep_retry | with_reducible apply keep_setXp | with_reducible apply keep_takeAck | with_reducible apply keep_takeFrame | with_reducible apply keepsO_next | with_reducible apply keeps_ite | with_reducible apply keepsO_ite | with_reducible intro _ | refine keeps_mk rfl rfl rfl rfl rfl rfl rfl rfl ?_)

theorem keep_execTimeFrameSend {cs : List Instr} {s : State}  (hk : Keeps cs s) :
    KeepsO cs (execTimeFrameSend s) := by
  unfold execTimeFrameSend
  try dsimp only
  repeat' (first | with_reducible assumption | with_reducible apply keep_sendDown | with_reducible apply keepsO_next | with_reducible apply keeps_ite | with_reducible apply keepsO_ite | with_reducible intro _ | refine keeps_mk rfl rfl rfl rfl rfl rfl rfl rfl ?_)

theorem keep_execTimeFrameReceived {cs : List Instr} {s : State} (p : PortNo) (t : DWord) (corr : Word) (count : Word) (residence : Word) (hk : Keeps cs s) :
    KeepsO cs (execTimeFrameReceived p t corr count residence s) := by
  unfold execTimeFrameReceived
  try dsimp only
  repeat' (first | with_reducible assumption | with_reducible apply keep_sendDown | with_reducible apply keep_setF | with_reducible apply keep_steer | with_reducible apply keepsO_next | with_reducible apply keeps_ite | with_reducible apply keepsO_ite | with_reducible intro _ | refine keeps_mk rfl rfl rfl rfl rfl rfl rfl rfl ?_)

theorem keep_execEvtReceived {cs : List Instr} {s : State} (node : BitVec 16) (kind : Byte) (port : Byte) (reason : Byte) (hk : Keeps cs s) :
    KeepsO cs (execEvtReceived node kind port reason s) := by
  unfold execEvtReceived
  try dsimp only
  repeat' (first | with_reducible assumption | with_reducible apply keep_breakEvent | with_reducible apply keep_cause | with_reducible apply keep_evalGroups | with_reducible apply keep_markStale | with_reducible apply keepsO_next | with_reducible apply keeps_ite | with_reducible apply keepsO_ite | with_reducible intro _ | refine keeps_mk rfl rfl rfl rfl rfl rfl rfl rfl ?_)

theorem keep_wakeDown {cs : List Instr} {s : State} (mask : Nat) (hk : Keeps cs s) :
    Keeps cs (State.wakeDown s mask) := by
  unfold State.wakeDown
  try dsimp only
  repeat' (first | with_reducible assumption | with_reducible apply keep_emit | with_reducible apply keeps_ite | with_reducible intro _)

theorem keep_execXlkWakeWrite {cs : List Instr} {s : State} (src : Src) (v : Word) (hk : Keeps cs s) :
    KeepsO cs (execXlkWakeWrite src v s) := by
  unfold execXlkWakeWrite
  try dsimp only
  repeat' (first | with_reducible assumption | with_reducible apply keep_pfDrop | with_reducible apply keep_wakeDown | with_reducible apply keepsO_next | with_reducible apply keeps_ite | with_reducible apply keepsO_ite | with_reducible intro _ | refine keeps_fst (by with_reducible assumption) ?_ | refine keeps_snd (by with_reducible assumption) ?_ | split | refine keeps_mk rfl rfl rfl rfl rfl rfl rfl rfl ?_)

theorem keep_execRspReceived {cs : List Instr} {s : State} (tag : BitVec 16) (op : Byte) (result : Byte) (status : BitVec 16) (more : Bool) (done : Bool) (reply : List Byte) (hk : Keeps cs s) :
    KeepsO cs (execRspReceived tag op result status more done reply s) := by
  unfold execRspReceived
  try dsimp only
  repeat' (first | with_reducible assumption | with_reducible apply keep_endCmd | with_reducible apply keep_remoteDone | with_reducible apply keepsO_next | with_reducible apply keeps_ite | with_reducible apply keepsO_ite | with_reducible intro _ | refine keeps_fst (by with_reducible assumption) ?_ | refine keeps_snd (by with_reducible assumption) ?_ | split | refine keeps_mk rfl rfl rfl rfl rfl rfl rfl rfl ?_)

theorem keep_abandonCmd {cs : List Instr} {s : State} (tag : Nat) (p : PortNo) (hk : Keeps cs s) :
    Keeps cs (State.abandonCmd s tag p) := by
  unfold State.abandonCmd
  try dsimp only
  repeat' (first | with_reducible assumption | with_reducible apply keep_setXp | with_reducible apply keeps_ite | with_reducible intro _ | refine keeps_mk rfl rfl rfl rfl rfl rfl rfl rfl ?_)

theorem keep_execCtmoExpiry {cs : List Instr} {s : State} (tag : BitVec 16) (hk : Keeps cs s) :
    KeepsO cs (execCtmoExpiry tag s) := by
  unfold execCtmoExpiry
  try dsimp only
  repeat' (first | with_reducible assumption | with_reducible apply keep_abandonCmd | with_reducible apply keep_failCmd | with_reducible apply keepsO_next | with_reducible apply keepsA_fail | refine keeps_fst (by with_reducible assumption) ?_ | refine keeps_snd (by with_reducible assumption) ?_ | split | refine keeps_mk rfl rfl rfl rfl rfl rfl rfl rfl ?_)

end Sys2Proof.Machine
end

