-- ==== Sys2Proof/Laws/KeepsLend.lean ====
section
/-! SUPPORT. Every operation of Machine/Lend.lean keeps the machine's invariant and its queue. -/

namespace Sys2Proof.Machine

theorem keep_sendParts {cs : List Instr} {s : State} (p : PortNo) (op : Nat) (handle : Nat) (y1 : Nat) (y2 : Nat) (y3 : List Byte) (hk : Keeps cs s) :
    Keeps cs (State.sendParts s p op handle y1 y2 y3) := by
  induction y1 generalizing s p op handle y2 y3 with
  | zero =>
    unfold State.sendParts; try dsimp only
    repeat' (first | with_reducible assumption | with_reducible apply ih | with_reducible apply keep_sendLend | with_reducible apply keeps_ite | with_reducible intro _)
  | succ k ih =>
    unfold State.sendParts; try dsimp only
    repeat' (first | with_reducible assumption | with_reducible apply ih | with_reducible apply keep_sendLend | with_reducible apply keeps_ite | with_reducible intro _)

theorem keep_execLendAlloc {cs : List Instr} {s : State} (p : LendP) (hk : Keeps cs s) :
    KeepsO cs (execLendAlloc p s) := by
  unfold execLendAlloc
  try dsimp only
  repeat' (first | with_reducible assumption | with_reducible apply keep_sendLend | with_reducible apply keep_takePages | with_reducible apply keepsO_next | with_reducible apply keeps_ite | with_reducible apply keepsO_ite | with_reducible intro _ | refine keeps_fst (by with_reducible assumption) ?_ | refine keeps_snd (by with_reducible assumption) ?_ | split | refine keeps_mk rfl rfl rfl rfl rfl rfl rfl rfl ?_)

theorem keep_execLendPut {cs : List Instr} {s : State} (p : LendP) (hk : Keeps cs s) :
    KeepsO cs (execLendPut p s) := by
  unfold execLendPut
  try dsimp only
  repeat' (first | with_reducible assumption | with_reducible apply keepsO_next | with_reducible apply keep_setTank | with_reducible apply wf_writeAt | with_reducible apply wf_writePages | exact Keeps.tank hk | with_reducible apply keeps_ite | with_reducible apply keepsO_ite | with_reducible intro _ | refine keeps_fst (by with_reducible assumption) ?_ | refine keeps_snd (by with_reducible assumption) ?_ | split | refine keeps_mk rfl rfl rfl rfl rfl rfl rfl rfl ?_)

theorem keep_execLendGet {cs : List Instr} {s : State} (p : LendP) (hk : Keeps cs s) :
    KeepsO cs (execLendGet p s) := by
  unfold execLendGet
  try dsimp only
  repeat' (first | with_reducible assumption | with_reducible apply keep_sendParts | with_reducible apply keepsO_next | refine keeps_fst (by with_reducible assumption) ?_ | refine keeps_snd (by with_reducible assumption) ?_ | split | refine keeps_mk rfl rfl rfl rfl rfl rfl rfl rfl ?_)

theorem keep_execLendFree {cs : List Instr} {s : State} (p : LendP) (hk : Keeps cs s) :
    KeepsO cs (execLendFree p s) := by
  unfold execLendFree
  try dsimp only
  repeat' (first | with_reducible assumption | with_reducible apply keep_freePagesOf | with_reducible apply keepsO_next | refine keeps_fst (by with_reducible assumption) ?_ | refine keeps_snd (by with_reducible assumption) ?_ | split | refine keeps_mk rfl rfl rfl rfl rfl rfl rfl rfl ?_)

theorem keep_execLendGrant {cs : List Instr} {s : State} (p : LendP) (hk : Keeps cs s) :
    KeepsO cs (execLendGrant p s) := by
  unfold execLendGrant
  try dsimp only
  repeat' (first | with_reducible assumption | with_reducible apply keepsO_next | with_reducible apply keeps_ite | with_reducible apply keepsO_ite | with_reducible intro _ | refine keeps_mk rfl rfl rfl rfl rfl rfl rfl rfl ?_)

theorem keep_freeGrants {cs : List Instr} {s : State} (y1 : List Grant) (hk : Keeps cs s) :
    Keeps cs (State.freeGrants s y1) := by
  induction y1 generalizing s with
  | nil =>
    unfold State.freeGrants; try dsimp only
    repeat' (first | with_reducible assumption | with_reducible apply ih | with_reducible apply keep_sendLend)
  | cons a l ih =>
    unfold State.freeGrants; try dsimp only
    repeat' (first | with_reducible assumption | with_reducible apply ih | with_reducible apply keep_sendLend)

theorem keep_askAll {cs : List Instr} {s : State} (n : Nat) (y1 : List PortNo) (hk : Keeps cs s) :
    Keeps cs (State.askAll s n y1) := by
  induction y1 generalizing s n with
  | nil =>
    unfold State.askAll; try dsimp only
    repeat' (first | with_reducible assumption | with_reducible apply ih | with_reducible apply keep_sendLend | with_reducible apply keeps_ite | with_reducible intro _)
  | cons a l ih =>
    unfold State.askAll; try dsimp only
    repeat' (first | with_reducible assumption | with_reducible apply ih | with_reducible apply keep_sendLend | with_reducible apply keeps_ite | with_reducible intro _)

theorem keep_spillTo {cs : List Instr} {s : State} (r : Rec) (g : Grant) (hk : Keeps cs s) :
    Keeps cs (State.spillTo s r g) := by
  unfold State.spillTo
  try dsimp only
  repeat' (first | with_reducible assumption | with_reducible apply keep_freeGrants | with_reducible apply keep_freePagesOf | with_reducible apply keep_sendParts | with_reducible apply keep_setRec | refine keeps_mk rfl rfl rfl rfl rfl rfl rfl rfl ?_)

theorem keep_execRecordSpill {cs : List Instr} {s : State}  (hk : Keeps cs s) :
    KeepsO cs (execRecordSpill s) := by
  unfold execRecordSpill
  try dsimp only
  repeat' (first | with_reducible assumption | with_reducible apply keep_askAll | with_reducible apply keep_freeGrants | with_reducible apply keep_spillTo | with_reducible apply keepsO_next | with_reducible apply keeps_ite | with_reducible apply keepsO_ite | with_reducible intro _ | refine keeps_fst (by with_reducible assumption) ?_ | refine keeps_snd (by with_reducible assumption) ?_ | split | refine keeps_mk rfl rfl rfl rfl rfl rfl rfl rfl ?_)

theorem keep_execRecordRecall {cs : List Instr} {s : State}  (hk : Keeps cs s) :
    KeepsO cs (execRecordRecall s) := by
  unfold execRecordRecall
  try dsimp only
  repeat' (first | with_reducible assumption | with_reducible apply keep_sendLend | with_reducible apply keep_setRec | with_reducible apply keep_takePages | with_reducible apply keepsO_next | with_reducible apply keeps_ite | with_reducible apply keepsO_ite | with_reducible intro _ | refine keeps_fst (by with_reducible assumption) ?_ | refine keeps_snd (by with_reducible assumption) ?_ | split | refine keeps_mk rfl rfl rfl rfl rfl rfl rfl rfl ?_)

theorem keep_execLendData {cs : List Instr} {s : State} (p : LendP) (hk : Keeps cs s) :
    KeepsO cs (execLendData p s) := by
  unfold execLendData
  try dsimp only
  repeat' (first | with_reducible assumption | with_reducible apply keep_sendLend | with_reducible apply keep_setRec | with_reducible apply keepsO_next | refine keeps_mk (s := { s with tank := writePages s.tank _ _ }) rfl rfl rfl rfl rfl rfl rfl rfl (keep_setTank (wf_writePages _ _ (Keeps.tank hk)) hk) | with_reducible apply keeps_ite | with_reducible apply keepsO_ite | with_reducible intro _ | refine keeps_fst (by with_reducible assumption) ?_ | refine keeps_snd (by with_reducible assumption) ?_ | split | refine keeps_mk rfl rfl rfl rfl rfl rfl rfl rfl ?_)

end Sys2Proof.Machine
end

