-- ==== Sys2Proof/Laws/KeepsTape.lean ====
section
/-! SUPPORT. Every operation of Machine/Tape.lean keeps the machine's invariant and its queue. -/

namespace Sys2Proof.Machine

theorem keep_eventBut {cs : List Instr} {s : State} (lns : List Ln) (name : String) (items : List Item) (hk : Keeps cs s) :
    Keeps cs (State.eventBut s lns name items) := by
  unfold State.eventBut
  try dsimp only
  repeat' (first | with_reducible assumption | with_reducible apply keep_event | with_reducible apply keeps_ite | with_reducible intro _ | refine keeps_mk rfl rfl rfl rfl rfl rfl rfl rfl ?_)

theorem keep_opCart {cs : List Instr} {s : State} (ln : Ln) (hk : Keeps cs s) :
    Keeps cs (State.opCart s ln) := by
  unfold State.opCart
  try dsimp only
  repeat' (first | with_reducible assumption | with_reducible apply keeps_ite | with_reducible intro _ | refine keeps_mk rfl rfl rfl rfl rfl rfl rfl rfl ?_)

theorem keep_cartDone {cs : List Instr} {s : State} (items : List Item) (hk : Keeps cs s) :
    Keeps cs (State.cartDone s items) := by
  unfold State.cartDone
  try dsimp only
  repeat' (first | with_reducible assumption | with_reducible apply keep_doneAll | with_reducible apply keep_opCart | with_reducible apply keeps_ite | with_reducible intro _ | refine keeps_mk rfl rfl rfl rfl rfl rfl rfl rfl ?_)

theorem keep_groupLost {cs : List Instr} {s : State}  (hk : Keeps cs s) :
    Keeps cs (State.groupLost s) := by
  unfold State.groupLost
  try dsimp only
  repeat' (first | with_reducible assumption | with_reducible apply keep_log | refine keeps_fst (by with_reducible assumption) ?_ | refine keeps_snd (by with_reducible assumption) ?_ | split | refine keeps_mk rfl rfl rfl rfl rfl rfl rfl rfl ?_)

theorem keep_takeFmt {cs : List Instr} {s : State}  (hk : Keeps cs s) :
    Keeps cs (State.takeFmt s) := by
  unfold State.takeFmt
  try dsimp only
  repeat' (first | with_reducible assumption | with_reducible apply keep_takePages | with_reducible apply keeps_ite | with_reducible intro _ | refine keeps_fst (by with_reducible assumption) ?_ | refine keeps_snd (by with_reducible assumption) ?_ | split | refine keeps_mk rfl rfl rfl rfl rfl rfl rfl rfl ?_)

theorem keep_freeFmt {cs : List Instr} {s : State}  (hk : Keeps cs s) :
    Keeps cs (State.freeFmt s) := by
  unfold State.freeFmt
  try dsimp only
  repeat' (first | with_reducible assumption | with_reducible apply keep_freePagesOf | with_reducible apply keeps_ite | with_reducible intro _ | refine keeps_mk rfl rfl rfl rfl rfl rfl rfl rfl ?_)

theorem keep_setCart {cs : List Instr} {s : State} (c : Cart) (lns : List Ln) (hk : Keeps cs s) :
    Keeps cs (State.setCart s c lns) := by
  unfold State.setCart
  try dsimp only
  repeat' (first | with_reducible assumption | with_reducible apply keep_cause | with_reducible apply keep_eventBut | with_reducible apply keep_freeFmt | with_reducible apply keep_groupLost | with_reducible apply keep_noteEach | with_reducible apply keep_notify | with_reducible apply keep_takeFmt | with_reducible apply keep_tidyLoops | with_reducible apply keeps_ite | with_reducible intro _ | refine keeps_mk rfl rfl rfl rfl rfl rfl rfl rfl ?_)

theorem keep_headTo {cs : List Instr} {s : State} (ix : Nat) (hk : Keeps cs s) :
    Keeps cs (State.headTo s ix) := by
  unfold State.headTo
  try dsimp only
  repeat' (first | with_reducible assumption | with_reducible apply keep_setF)

theorem keep_hitchAt {cs : List Instr} {s : State} (ix : Nat) (pos : Nat) (hk : Keeps cs s) :
    Keeps cs (State.hitchAt s ix pos) := by
  unfold State.hitchAt
  try dsimp only
  repeat' (first | with_reducible assumption | with_reducible apply keep_setF | with_reducible apply keep_count | with_reducible apply keeps_ite | with_reducible intro _ | refine keeps_mk rfl rfl rfl rfl rfl rfl rfl rfl ?_)

theorem keep_hitchRest {cs : List Instr} {s : State}  (hk : Keeps cs s) :
    Keeps cs (State.hitchRest s) := by
  unfold State.hitchRest
  try dsimp only
  repeat' (first | with_reducible assumption | with_reducible apply keep_setF | with_reducible apply keep_setMode | with_reducible apply keep_srvOff | with_reducible apply keep_tidyLoops | with_reducible apply keeps_ite | with_reducible intro _ | refine keeps_mk rfl rfl rfl rfl rfl rfl rfl rfl ?_)

theorem keep_readHitch {cs : List Instr} {s : State}  (hk : Keeps cs s) :
    Keeps cs (State.readHitch s) := by
  unfold State.readHitch
  try dsimp only
  repeat' (first | with_reducible assumption | with_reducible apply keep_hitchRest | with_reducible apply keep_hitchAt | with_reducible apply keeps_ite | with_reducible intro _ | refine keeps_mk rfl rfl rfl rfl rfl rfl rfl rfl ?_)

end Sys2Proof.Machine
end

