-- ==== Sys2Proof/Laws/KeepsBuild.lean ====
section
/-! SUPPORT. Every operation of Machine/Build.lean keeps the machine's invariant and its queue. -/

namespace Sys2Proof.Machine

theorem keep_openDs {cs : List Instr} {s : State} (replay : Bool) (hk : Keeps cs s) :
    Keeps cs (State.openDs s replay).1 := by
  unfold State.openDs
  try dsimp only
  repeat' (first | with_reducible assumption | with_reducible apply keeps_ite | with_reducible apply keeps_fst_ite | with_reducible intro _ | refine keeps_fst (by with_reducible assumption) ?_ | refine keeps_snd (by with_reducible assumption) ?_ | split | refine keeps_mk rfl rfl rfl rfl rfl rfl rfl rfl ?_)

theorem keep_markPlaced {cs : List Instr} {s : State} (y1 : List PieceRef) (hk : Keeps cs s) :
    Keeps cs (State.markPlaced s y1) := by
  induction y1 generalizing s with
  | nil =>
    unfold State.markPlaced; try dsimp only
    repeat' (first | with_reducible assumption | with_reducible apply ih | with_reducible apply keep_setRec | with_reducible apply keeps_ite | with_reducible intro _ | refine keeps_fst (by with_reducible assumption) ?_ | refine keeps_snd (by with_reducible assumption) ?_ | split | refine keeps_mk rfl rfl rfl rfl rfl rfl rfl rfl ?_)
  | cons a l ih =>
    unfold State.markPlaced; try dsimp only
    repeat' (first | with_reducible assumption | with_reducible apply ih | with_reducible apply keep_setRec | with_reducible apply keeps_ite | with_reducible intro _ | refine keeps_fst (by with_reducible assumption) ?_ | refine keeps_snd (by with_reducible assumption) ?_ | split | refine keeps_mk rfl rfl rfl rfl rfl rfl rfl rfl ?_)

theorem keep_place {cs : List Instr} {s : State} (d : DsSrc) (b : BlkOut) (hk : Keeps cs s) :
    Keeps cs (State.place s d b) := by
  unfold State.place
  try dsimp only
  repeat' (first | with_reducible assumption | with_reducible apply keep_drop | with_reducible apply keep_feed | with_reducible apply keep_markPlaced | with_reducible apply keep_wr64 | with_reducible apply keeps_ite | with_reducible intro _ | refine keeps_mk rfl rfl rfl rfl rfl rfl rfl rfl ?_)

theorem keep_execBlockPlace {cs : List Instr} {s : State}  (hk : Keeps cs s) :
    KeepsO cs (execBlockPlace s) := by
  unfold execBlockPlace
  try dsimp only
  repeat' (first | with_reducible assumption | with_reducible apply keep_feed | with_reducible apply keep_openDs | with_reducible apply keep_place | with_reducible apply keepsO_next | with_reducible apply keeps_ite | with_reducible apply keepsO_ite | with_reducible intro _ | refine keeps_fst (by with_reducible assumption) ?_ | refine keeps_snd (by with_reducible assumption) ?_ | split | refine keeps_mk rfl rfl rfl rfl rfl rfl rfl rfl ?_)

theorem keep_form {cs : List Instr} {s : State} (d : DsSrc) (g : Option Group) (pos : Nat) (hk : Keeps cs s) :
    Keeps cs (State.form s d g pos).1 := by
  unfold State.form
  try dsimp only
  repeat' (first | with_reducible assumption | with_reducible apply keeps_ite | with_reducible apply keeps_fst_ite | with_reducible intro _ | refine keeps_fst (by with_reducible assumption) ?_ | refine keeps_snd (by with_reducible assumption) ?_ | split | refine keeps_mk rfl rfl rfl rfl rfl rfl rfl rfl ?_)

theorem keep_endGroup {cs : List Instr} {s : State}  (hk : Keeps cs s) :
    Keeps cs (State.endGroup s) := by
  unfold State.endGroup
  try dsimp only
  repeat' (first | with_reducible assumption | with_reducible apply keeps_ite | with_reducible intro _ | refine keeps_fst (by with_reducible assumption) ?_ | refine keeps_snd (by with_reducible assumption) ?_ | split | refine keeps_mk rfl rfl rfl rfl rfl rfl rfl rfl ?_)

theorem keep_closeWith {cs : List Instr} {s : State} (d : DsSrc) (hk : Keeps cs s) :
    Keeps cs (State.closeWith s d) := by
  unfold State.closeWith
  try dsimp only
  repeat' (first | with_reducible assumption | with_reducible apply keep_endGroup | with_reducible apply keep_form | with_reducible apply keeps_ite | with_reducible intro _ | refine keeps_fst (by with_reducible assumption) ?_ | refine keeps_snd (by with_reducible assumption) ?_ | split | refine keeps_mk rfl rfl rfl rfl rfl rfl rfl rfl ?_)

theorem keep_closeDs {cs : List Instr} {s : State} (flushed : Bool) (hk : Keeps cs s) :
    Keeps cs (State.closeDs s flushed) := by
  unfold State.closeDs
  try dsimp only
  repeat' (first | with_reducible assumption | with_reducible apply keep_closeWith | with_reducible apply keeps_ite | with_reducible intro _ | refine keeps_fst (by with_reducible assumption) ?_ | refine keeps_snd (by with_reducible assumption) ?_ | split | refine keeps_mk rfl rfl rfl rfl rfl rfl rfl rfl ?_)

theorem keep_execDatasetClose {cs : List Instr} {s : State}  (hk : Keeps cs s) :
    KeepsO cs (execDatasetClose s) := by
  unfold execDatasetClose
  try dsimp only
  repeat' (first | with_reducible assumption | with_reducible apply keep_closeDs | with_reducible apply keepsO_next | with_reducible apply keeps_ite | with_reducible apply keepsO_ite | with_reducible intro _)

theorem keep_answerFlush {cs : List Instr} {s : State} (k : Nat) (v : Val) (hk : Keeps cs s) :
    Keeps cs (State.answerFlush s k v) := by
  unfold State.answerFlush
  try dsimp only
  repeat' (first | with_reducible assumption | with_reducible apply keep_reply | with_reducible apply keeps_foldl | with_reducible apply keeps_ite | with_reducible apply keeps_fst_ite | with_reducible intro _ | refine keeps_mk rfl rfl rfl rfl rfl rfl rfl rfl ?_)

theorem keep_flushClose {cs : List Instr} {s : State}  (hk : Keeps cs s) :
    Keeps cs (State.flushClose s) := by
  unfold State.flushClose
  try dsimp only
  repeat' (first | with_reducible assumption | with_reducible apply keep_answerFlush | with_reducible apply keep_closeDs | with_reducible apply keep_drop | with_reducible apply keep_endGroup | with_reducible apply keeps_ite | with_reducible intro _ | refine keeps_mk rfl rfl rfl rfl rfl rfl rfl rfl ?_)

theorem keep_execFlushDatasetClose {cs : List Instr} {s : State}  (hk : Keeps cs s) :
    KeepsO cs (execFlushDatasetClose s) := by
  unfold execFlushDatasetClose
  try dsimp only
  repeat' (first | with_reducible assumption | with_reducible apply keep_flushClose | with_reducible apply keep_openDs | with_reducible apply keepsO_next | with_reducible apply keeps_ite | with_reducible apply keepsO_ite | with_reducible intro _ | refine keeps_fst (by with_reducible assumption) ?_ | refine keeps_snd (by with_reducible assumption) ?_ | split | refine keeps_mk rfl rfl rfl rfl rfl rfl rfl rfl ?_)

end Sys2Proof.Machine
end

