-- ==== Sys2Proof/Laws/KeepsFixArea.lean ====
section
/-! SUPPORT. What each operation of Machine/FixArea.lean keeps (`Keeps`). -/

namespace Sys2Proof.Machine

theorem keep_writeCtl {cs : List Instr} {s : State}  (hk : Keeps cs s) :
    Keeps cs (State.writeCtl s) := by
  unfold State.writeCtl
  try dsimp only
  repeat' (first | with_reducible assumption | with_reducible apply keep_emit | with_reducible apply keeps_ite | with_reducible intro _ | refine keeps_mk rfl rfl rfl rfl rfl rfl rfl rfl ?_)

theorem keep_writeRecs {cs : List Instr} {s : State} (dumps : Nat) (y1 : Nat) (y2 : Nat) (y3 : List DumpRec) (hk : Keeps cs s) :
    Keeps cs (State.writeRecs s dumps y1 y2 y3) := by
  induction y3 generalizing s dumps y1 y2 with
  | nil =>
    unfold State.writeRecs; try dsimp only
    repeat' (first | with_reducible assumption | with_reducible apply keep_drop | with_reducible apply keep_emit | with_reducible apply keeps_ite | with_reducible intro _ | split | refine keeps_mk rfl rfl rfl rfl rfl rfl rfl rfl ?_)
  | cons a l ih =>
    unfold State.writeRecs; try dsimp only
    repeat' (first | with_reducible assumption | with_reducible apply ih | with_reducible apply keep_drop | with_reducible apply keep_emit | with_reducible apply keeps_ite | with_reducible intro _ | split | refine keeps_mk rfl rfl rfl rfl rfl rfl rfl rfl ?_)

theorem keep_writeErrs {cs : List Instr} {s : State}  (hk : Keeps cs s) :
    Keeps cs (State.writeErrs s) := by
  unfold State.writeErrs
  try dsimp only
  repeat' (first | with_reducible assumption | with_reducible apply keep_emit | with_reducible apply keeps_ite | with_reducible intro _ | refine keeps_mk rfl rfl rfl rfl rfl rfl rfl rfl ?_)

theorem keep_writeDump {cs : List Instr} {s : State}  (hk : Keeps cs s) :
    Keeps cs (State.writeDump s) := by
  unfold State.writeDump
  try dsimp only
  repeat' (first | with_reducible assumption | with_reducible apply keep_writeErrs | with_reducible apply keep_writeRecs | with_reducible apply keeps_ite | with_reducible intro _ | refine keeps_mk rfl rfl rfl rfl rfl rfl rfl rfl ?_)

end Sys2Proof.Machine
end

