-- ==== Sys2Proof/Laws/KeepsWrite.lean ====
section
/-! SUPPORT. Every operation of Machine/Write.lean keeps the machine's invariant and its queue. -/

namespace Sys2Proof.Machine

theorem keep_loupeEvent {cs : List Instr} {s : State} (trig : Nat) (input : Nat) (hk : Keeps cs s) :
    Keeps cs (State.loupeEvent s trig input) := by
  unfold State.loupeEvent
  try dsimp only
  repeat' (first | with_reducible assumption | with_reducible apply keeps_ite | with_reducible intro _ | refine keeps_mk rfl rfl rfl rfl rfl rfl rfl rfl ?_)

theorem keep_setStream {cs : List Instr} {s : State} (x : Stream) (hk : Keeps cs s) :
    Keeps cs (State.setStream s x) := by
  unfold State.setStream
  try dsimp only
  repeat' (first | with_reducible assumption | with_reducible apply keeps_ite | with_reducible intro _ | refine keeps_mk rfl rfl rfl rfl rfl rfl rfl rfl ?_)

theorem keep_hintStart {cs : List Instr} {s : State} (num : Nat) (hk : Keeps cs s) :
    Keeps cs (State.hintStart s num) := by
  unfold State.hintStart
  try dsimp only
  repeat' (first | with_reducible assumption | with_reducible apply keeps_ite | with_reducible intro _ | refine keeps_fst (by with_reducible assumption) ?_ | refine keeps_snd (by with_reducible assumption) ?_ | split | refine keeps_mk rfl rfl rfl rfl rfl rfl rfl rfl ?_)

theorem keep_execDatasetStreamStart {cs : List Instr} {s : State}  (hk : Keeps cs s) :
    KeepsO cs (execDatasetStreamStart s) := by
  unfold execDatasetStreamStart
  try dsimp only
  repeat' (first | with_reducible assumption | with_reducible apply keep_hintStart | with_reducible apply keepsO_next | with_reducible apply keeps_ite | with_reducible apply keepsO_ite | with_reducible intro _ | refine keeps_fst (by with_reducible assumption) ?_ | refine keeps_snd (by with_reducible assumption) ?_ | split | refine keeps_mk rfl rfl rfl rfl rfl rfl rfl rfl ?_)

theorem keep_afterSlots {cs : List Instr} {s : State} (x : Stream) (hk : Keeps cs s) :
    Keeps cs (State.afterSlots s x) := by
  unfold State.afterSlots
  try dsimp only
  repeat' (first | with_reducible assumption | with_reducible apply keeps_ite | with_reducible intro _ | refine keeps_mk rfl rfl rfl rfl rfl rfl rfl rfl ?_)

theorem keep_cutChan {cs : List Instr} {s : State} (ch : Nat) (hk : Keeps cs s) :
    Keeps cs (State.cutChan s ch) := by
  unfold State.cutChan
  try dsimp only
  repeat' (first | with_reducible assumption | with_reducible apply keep_setStream | with_reducible apply keeps_ite | with_reducible intro _ | split | refine keeps_mk rfl rfl rfl rfl rfl rfl rfl rfl ?_)

theorem keep_fillRow {cs : List Instr} {s : State} (ch : Nat) (hk : Keeps cs s) :
    Keeps cs (State.fillRow s ch) := by
  unfold State.fillRow
  try dsimp only
  repeat' (first | with_reducible assumption | with_reducible apply keep_emit | with_reducible apply keep_setStream | with_reducible apply keeps_ite | with_reducible intro _ | split | refine keeps_mk rfl rfl rfl rfl rfl rfl rfl rfl ?_)

theorem keep_execWriteUnderrun {cs : List Instr} {s : State} (ch : Chan) (hk : Keeps cs s) :
    KeepsO cs (execWriteUnderrun ch s) := by
  unfold execWriteUnderrun
  try dsimp only
  repeat' (first | with_reducible assumption | with_reducible apply keep_fillRow | with_reducible apply keepsO_next | with_reducible apply keeps_ite | with_reducible apply keepsO_ite | with_reducible intro _ | refine keeps_mk rfl rfl rfl rfl rfl rfl rfl rfl ?_)

theorem keep_cutInFlight {cs : List Instr} {s : State}  (hk : Keeps cs s) :
    Keeps cs (State.cutInFlight s) := by
  unfold State.cutInFlight
  try dsimp only
  repeat' (first | with_reducible assumption | with_reducible apply keep_cutChan | with_reducible apply keeps_foldl | with_reducible apply keeps_ite | with_reducible intro _ | refine keeps_mk rfl rfl rfl rfl rfl rfl rfl rfl ?_)

theorem keep_fillInFlight {cs : List Instr} {s : State}  (hk : Keeps cs s) :
    Keeps cs (State.fillInFlight s) := by
  unfold State.fillInFlight
  try dsimp only
  repeat' (first | with_reducible assumption | with_reducible apply keep_fillRow | with_reducible apply keeps_foldl | with_reducible apply keeps_ite | with_reducible intro _ | refine keeps_mk rfl rfl rfl rfl rfl rfl rfl rfl ?_)

theorem keep_keepRow {cs : List Instr} {s : State} (ch : Nat) (slot : Nat) (bytes : List Byte) (hk : Keeps cs s) :
    Keeps cs (State.keepRow s ch slot bytes) := by
  unfold State.keepRow
  try dsimp only
  repeat' (first | with_reducible assumption | with_reducible apply keeps_ite | with_reducible intro _ | refine keeps_mk rfl rfl rfl rfl rfl rfl rfl rfl ?_)

theorem keep_dropRow {cs : List Instr} {s : State} (ch : Nat) (slot : Nat) (hk : Keeps cs s) :
    Keeps cs (State.dropRow s ch slot) := by
  unfold State.dropRow
  try dsimp only
  repeat' (first | with_reducible assumption | with_reducible apply keeps_ite | with_reducible intro _ | refine keeps_mk rfl rfl rfl rfl rfl rfl rfl rfl ?_)

theorem keep_release {cs : List Instr} {s : State} (t : Tenant) (q : Qid) (seq : Nat) (hk : Keeps cs s) :
    Keeps cs (State.release s t q seq) := by
  unfold State.release
  try dsimp only
  repeat' (first | with_reducible assumption | with_reducible apply keep_writeCtl | with_reducible apply keeps_ite | with_reducible intro _ | refine keeps_mk rfl rfl rfl rfl rfl rfl rfl rfl ?_)

theorem keep_durables {cs : List Instr} {s : State} (num : Nat) (y1 : List Nat) (hk : Keeps cs s) :
    Keeps cs (State.durables s num y1) := by
  induction y1 generalizing s num with
  | nil =>
    unfold State.durables; try dsimp only
    repeat' (first | with_reducible assumption | with_reducible apply ih | with_reducible apply keep_freePagesOf | with_reducible apply keep_release | with_reducible apply keep_setRec | with_reducible apply keeps_ite | with_reducible intro _ | refine keeps_fst (by with_reducible assumption) ?_ | refine keeps_snd (by with_reducible assumption) ?_ | split | refine keeps_mk rfl rfl rfl rfl rfl rfl rfl rfl ?_)
  | cons a l ih =>
    unfold State.durables; try dsimp only
    repeat' (first | with_reducible assumption | with_reducible apply ih | with_reducible apply keep_freePagesOf | with_reducible apply keep_release | with_reducible apply keep_setRec | with_reducible apply keeps_ite | with_reducible intro _ | refine keeps_fst (by with_reducible assumption) ?_ | refine keeps_snd (by with_reducible assumption) ?_ | split | refine keeps_mk rfl rfl rfl rfl rfl rfl rfl rfl ?_)

theorem keep_replayEnds {cs : List Instr} {s : State} (y1 : List (Tenant × Qid × Nat)) (hk : Keeps cs s) :
    Keeps cs (State.replayEnds s y1) := by
  induction y1 generalizing s with
  | nil =>
    unfold State.replayEnds; try dsimp only
    repeat' (first | with_reducible assumption | with_reducible apply ih | with_reducible apply keep_log | refine keeps_mk rfl rfl rfl rfl rfl rfl rfl rfl ?_)
  | cons a l ih =>
    unfold State.replayEnds; try dsimp only
    repeat' (first | with_reducible assumption | with_reducible apply ih | with_reducible apply keep_log | refine keeps_mk rfl rfl rfl rfl rfl rfl rfl rfl ?_)

theorem keep_secChanged {cs : List Instr} {s : State} (was : Bool) (hk : Keeps cs s) :
    Keeps cs (State.secChanged s was) := by
  unfold State.secChanged
  try dsimp only
  repeat' (first | with_reducible assumption | with_reducible apply keep_notify | with_reducible apply keeps_ite | with_reducible intro _)

theorem keep_replayDone {cs : List Instr} {s : State}  (hk : Keeps cs s) :
    Keeps cs (State.replayDone s) := by
  unfold State.replayDone
  try dsimp only
  repeat' (first | with_reducible assumption | with_reducible apply keep_replayEnds | with_reducible apply keep_secChanged | with_reducible apply keeps_ite | with_reducible intro _ | refine keeps_fst (by with_reducible assumption) ?_ | refine keeps_snd (by with_reducible assumption) ?_ | split | refine keeps_mk rfl rfl rfl rfl rfl rfl rfl rfl ?_)

theorem keep_passDs {cs : List Instr} {s : State} (x : Stream) (hk : Keeps cs s) :
    Keeps cs (State.passDs s x) := by
  unfold State.passDs
  try dsimp only
  repeat' (first | with_reducible assumption | with_reducible apply keep_drtSyncAll | with_reducible apply keep_durables | with_reducible apply keep_replayDone | with_reducible apply keep_report | with_reducible apply keep_setStream | refine keeps_mk rfl rfl rfl rfl rfl rfl rfl rfl ?_)

theorem keep_reform {cs : List Instr} {s : State} (gs : List Group) (y1 : List Built) (hk : Keeps cs s) :
    Keeps cs (State.reform s gs y1).1 := by
  induction y1 generalizing s gs with
  | nil =>
    unfold State.reform; try dsimp only
    repeat' (first | with_reducible assumption | with_reducible apply keep_form | with_reducible apply keeps_ite | with_reducible apply keeps_fst_ite | with_reducible intro _ | refine keeps_fst (by with_reducible assumption) ?_ | refine keeps_snd (by with_reducible assumption) ?_ | split | refine keeps_mk rfl rfl rfl rfl rfl rfl rfl rfl ?_)
  | cons a l ih =>
    unfold State.reform; try dsimp only
    repeat' (first | with_reducible assumption | with_reducible apply ih | with_reducible apply keep_form | with_reducible apply keeps_ite | with_reducible apply keeps_fst_ite | with_reducible intro _ | refine keeps_fst (by with_reducible assumption) ?_ | refine keeps_snd (by with_reducible assumption) ?_ | split | refine keeps_mk rfl rfl rfl rfl rfl rfl rfl rfl ?_)

theorem keep_unfeed {cs : List Instr} {s : State}  (hk : Keeps cs s) :
    Keeps cs (State.unfeed s) := by
  unfold State.unfeed
  try dsimp only
  repeat' (first | with_reducible assumption | with_reducible apply keeps_ite | with_reducible intro _ | refine keeps_mk rfl rfl rfl rfl rfl rfl rfl rfl ?_)

theorem keep_haltWrite {cs : List Instr} {s : State}  (hk : Keeps cs s) :
    Keeps cs (State.haltWrite s) := by
  unfold State.haltWrite
  try dsimp only
  repeat' (first | with_reducible assumption | with_reducible apply keep_answerFlush | with_reducible apply keep_count | with_reducible apply keep_unfeed | with_reducible apply keeps_foldl | with_reducible apply keeps_ite | with_reducible intro _ | refine keeps_mk rfl rfl rfl rfl rfl rfl rfl rfl ?_)

theorem keep_unbuild {cs : List Instr} {s : State} (x : Stream) (hk : Keeps cs s) :
    Keeps cs (State.unbuild s x) := by
  unfold State.unbuild
  try dsimp only
  repeat' (first | with_reducible assumption | with_reducible apply keeps_foldl | with_reducible apply keeps_ite | with_reducible intro _ | refine keeps_mk rfl rfl rfl rfl rfl rfl rfl rfl ?_)

theorem keep_reformAll {cs : List Instr} {s : State} (x : Stream) (hk : Keeps cs s) :
    Keeps cs (State.reformAll s x) := by
  unfold State.reformAll
  try dsimp only
  repeat' (first | with_reducible assumption | with_reducible apply keep_reform | with_reducible apply keep_unbuild | with_reducible apply keeps_ite | with_reducible intro _ | refine keeps_fst (by with_reducible assumption) ?_ | refine keeps_snd (by with_reducible assumption) ?_ | split | refine keeps_mk rfl rfl rfl rfl rfl rfl rfl rfl ?_)

theorem keep_abandonDs {cs : List Instr} {s : State} (x : Stream) (hk : Keeps cs s) :
    Keeps cs (State.abandonDs s x) := by
  unfold State.abandonDs
  try dsimp only
  repeat' (first | with_reducible assumption | with_reducible apply keep_beginStop | with_reducible apply keep_cartDone | with_reducible apply keep_count | with_reducible apply keep_haltWrite | with_reducible apply keep_log | with_reducible apply keep_opCart | with_reducible apply keep_reformAll | with_reducible apply keep_setCart | with_reducible apply keeps_ite | with_reducible intro _ | refine keeps_mk rfl rfl rfl rfl rfl rfl rfl rfl ?_)

theorem keep_fullDone {cs : List Instr} {s : State}  (hk : Keeps cs s) :
    Keeps cs (State.fullDone s) := by
  unfold State.fullDone
  try dsimp only
  repeat' (first | with_reducible assumption | with_reducible apply keep_beginStop | with_reducible apply keep_cartDone | with_reducible apply keep_haltWrite | with_reducible apply keep_log | with_reducible apply keep_opCart | with_reducible apply keep_setCart | with_reducible apply keeps_ite | with_reducible intro _ | refine keeps_mk rfl rfl rfl rfl rfl rfl rfl rfl ?_)

theorem keep_checkFull {cs : List Instr} {s : State}  (hk : Keeps cs s) :
    Keeps cs (State.checkFull s) := by
  unfold State.checkFull
  try dsimp only
  repeat' (first | with_reducible assumption | with_reducible apply keep_endGroup | with_reducible apply keep_fullDone | with_reducible apply keeps_ite | with_reducible apply keeps_foldl | with_reducible intro _ | refine keeps_mk rfl rfl rfl rfl rfl rfl rfl rfl ?_)

theorem keep_endStream {cs : List Instr} {s : State} (num : Nat) (hk : Keeps cs s) :
    Keeps cs (State.endStream s num) := by
  unfold State.endStream
  try dsimp only
  repeat' (first | with_reducible assumption | with_reducible apply keep_abandonDs | with_reducible apply keep_checkFull | with_reducible apply keeps_ite | with_reducible intro _ | refine keeps_fst (by with_reducible assumption) ?_ | refine keeps_snd (by with_reducible assumption) ?_ | split | refine keeps_mk rfl rfl rfl rfl rfl rfl rfl rfl ?_)

theorem keep_writeRow {cs : List Instr} {s : State} (ch : Nat) (slot : Nat) (hdr : List Byte) (row : List Byte) (hk : Keeps cs s) :
    Keeps cs (State.writeRow s ch slot hdr row) := by
  unfold State.writeRow
  try dsimp only
  repeat' (first | with_reducible assumption | with_reducible apply keep_emit | with_reducible apply keep_keepRow | with_reducible apply keeps_ite | with_reducible intro _ | refine keeps_mk rfl rfl rfl rfl rfl rfl rfl rfl ?_)

theorem keep_frameWrite {cs : List Instr} {s : State} (ch : Chan) (hk : Keeps cs s) :
    Keeps cs (State.frameWrite s ch) := by
  unfold State.frameWrite
  try dsimp only
  repeat' (first | with_reducible assumption | with_reducible apply keep_afterSlots | with_reducible apply keep_count | with_reducible apply keep_emit | with_reducible apply keep_endStream | with_reducible apply keep_headBalls | with_reducible apply keep_setStream | with_reducible apply keep_writeRow | with_reducible apply keeps_ite | with_reducible apply keeps_fst_ite | with_reducible intro _ | refine keeps_fst (by with_reducible assumption) ?_ | refine keeps_snd (by with_reducible assumption) ?_ | split | refine keeps_mk rfl rfl rfl rfl rfl rfl rfl rfl ?_)

theorem keep_vfyChan {cs : List Instr} {s : State} (x : Stream) (ch : Nat) (hk : Keeps cs s) :
    Keeps cs (State.vfyChan s x ch).1 := by
  unfold State.vfyChan
  try dsimp only
  repeat' (first | with_reducible assumption | with_reducible apply keep_log | with_reducible apply keeps_ite | with_reducible apply keeps_fst_ite | with_reducible intro _ | refine keeps_mk rfl rfl rfl rfl rfl rfl rfl rfl ?_)

theorem keep_execFrameVerdict {cs : List Instr} {s : State} (ch : Chan) (slot : Nat) (hk : Keeps cs s) :
    KeepsO cs (execFrameVerdict ch slot s) := by
  unfold execFrameVerdict
  try dsimp only
  repeat' (first | with_reducible assumption | with_reducible apply keep_count | with_reducible apply keep_dropRow | with_reducible apply keep_endStream | with_reducible apply keep_loupeEvent | with_reducible apply keep_passDs | with_reducible apply keep_setF | with_reducible apply keep_setStream | with_reducible apply keep_vfyChan | with_reducible apply keepsO_next | with_reducible apply keeps_ite | with_reducible apply keepsO_ite | with_reducible intro _ | refine keeps_fst (by with_reducible assumption) ?_ | refine keeps_snd (by with_reducible assumption) ?_ | split | refine keeps_mk rfl rfl rfl rfl rfl rfl rfl rfl ?_)

end Sys2Proof.Machine
end

