-- ==== Sys2Proof/Laws/KeepsRead.lean ====
section
/-! SUPPORT. Every operation of Machine/Read.lean keeps the machine's invariant and its queue. -/

namespace Sys2Proof.Machine

theorem keep_endRead {cs : List Instr} {s : State} (q : Queue) (o : Outstanding) (op : ReadOp) (status : Option Er) (hk : Keeps cs s) :
    Keeps cs (State.endRead s q o op status) := by
  unfold State.endRead
  try dsimp only
  repeat' (first | with_reducible assumption | with_reducible apply keep_complete | with_reducible apply keep_draw | with_reducible apply keep_emit | with_reducible apply keep_gaveBytes | with_reducible apply keep_setQueue | with_reducible apply keeps_ite | with_reducible intro _ | refine keeps_fst (by with_reducible assumption) ?_ | refine keeps_snd (by with_reducible assumption) ?_ | split | refine keeps_mk rfl rfl rfl rfl rfl rfl rfl rfl ?_)

theorem keep_readsDone {cs : List Instr} {s : State} (qid : Nat) (y1 : Nat) (hk : Keeps cs s) :
    Keeps cs (State.readsDone s qid y1) := by
  induction y1 generalizing s qid with
  | zero =>
    unfold State.readsDone; try dsimp only
    repeat' (first | with_reducible assumption | with_reducible apply ih | with_reducible apply keep_endRead | refine keeps_fst (by with_reducible assumption) ?_ | refine keeps_snd (by with_reducible assumption) ?_ | split | refine keeps_mk rfl rfl rfl rfl rfl rfl rfl rfl ?_)
  | succ k ih =>
    unfold State.readsDone; try dsimp only
    repeat' (first | with_reducible assumption | with_reducible apply ih | with_reducible apply keep_endRead | refine keeps_fst (by with_reducible assumption) ?_ | refine keeps_snd (by with_reducible assumption) ?_ | split | refine keeps_mk rfl rfl rfl rfl rfl rfl rfl rfl ?_)

theorem keep_onRead {cs : List Instr} {s : State} (qid : Nat) (slot : Nat) (f : ReadOp → ReadOp) (hk : Keeps cs s) :
    Keeps cs (State.onRead s qid slot f) := by
  unfold State.onRead
  try dsimp only
  repeat' (first | with_reducible assumption | with_reducible apply keep_setQueue | with_reducible apply keeps_ite | with_reducible intro _ | refine keeps_fst (by with_reducible assumption) ?_ | refine keeps_snd (by with_reducible assumption) ?_ | split | refine keeps_mk rfl rfl rfl rfl rfl rfl rfl rfl ?_)

theorem keep_failRead {cs : List Instr} {s : State} (qid : Nat) (slot : Nat) (e : Er) (hk : Keeps cs s) :
    Keeps cs (State.failRead s qid slot e) := by
  unfold State.failRead
  try dsimp only
  repeat' (first | with_reducible assumption | with_reducible apply keep_onRead | with_reducible apply keep_readsDone | with_reducible apply keepsA_fail | refine keeps_mk rfl rfl rfl rfl rfl rfl rfl rfl ?_)

theorem keep_failReads {cs : List Instr} {s : State} (e : Er) (y1 : List (Qid × Nat)) (hk : Keeps cs s) :
    Keeps cs (State.failReads s e y1) := by
  induction y1 generalizing s e with
  | nil =>
    unfold State.failReads; try dsimp only
    repeat' (first | with_reducible assumption | with_reducible apply ih | with_reducible apply keep_failRead | with_reducible apply keepsA_fail)
  | cons a l ih =>
    unfold State.failReads; try dsimp only
    repeat' (first | with_reducible assumption | with_reducible apply ih | with_reducible apply keep_failRead | with_reducible apply keepsA_fail)

theorem keep_execDescriptorFetchRead {cs : List Instr} {s : State} (qid : Qid) (d : Desc) (hk : Keeps cs s) :
    KeepsO cs (execDescriptorFetchRead qid d s) := by
  unfold execDescriptorFetchRead
  try dsimp only
  repeat' (first | with_reducible assumption | with_reducible apply keep_beginMove | with_reducible apply keep_endFetch | with_reducible apply keep_read | with_reducible apply keep_readsDone | with_reducible apply keep_setCart | with_reducible apply keep_setQueue | with_reducible apply keepsO_next | with_reducible apply keeps_ite | with_reducible apply keepsO_ite | with_reducible intro _ | refine keeps_fst (by with_reducible assumption) ?_ | refine keeps_snd (by with_reducible assumption) ?_ | split | refine keeps_mk rfl rfl rfl rfl rfl rfl rfl rfl ?_)

theorem keep_blockErr {cs : List Instr} {s : State} (e : Er) (eng : Fin 4) (t : Nat) (ds : Nat) (hk : Keeps cs s) :
    Keeps cs (State.blockErr s e eng t ds) := by
  unfold State.blockErr
  try dsimp only
  repeat' (first | with_reducible assumption | with_reducible apply keep_log | refine keeps_mk rfl rfl rfl rfl rfl rfl rfl rfl ?_)

theorem keep_givePieces {cs : List Instr} {s : State} (eng : Fin 4) (t : Nat) (ds : Nat) (ps : List Piece) (replay : Bool) (y1 : List (Qid × Nat)) (hk : Keeps cs s) :
    Keeps cs (State.givePieces s eng t ds ps replay y1) := by
  induction y1 generalizing s eng t ds ps replay with
  | nil =>
    unfold State.givePieces; try dsimp only
    repeat' (first | with_reducible assumption | with_reducible apply keep_blockErr | with_reducible apply keep_failRead | with_reducible apply keep_onRead | with_reducible apply keeps_ite | with_reducible intro _ | refine keeps_fst (by with_reducible assumption) ?_ | refine keeps_snd (by with_reducible assumption) ?_ | split | refine keeps_mk rfl rfl rfl rfl rfl rfl rfl rfl ?_)
  | cons a l ih =>
    unfold State.givePieces; try dsimp only
    repeat' (first | with_reducible assumption | with_reducible apply ih | with_reducible apply keep_blockErr | with_reducible apply keep_failRead | with_reducible apply keep_onRead | with_reducible apply keeps_ite | with_reducible intro _ | refine keeps_fst (by with_reducible assumption) ?_ | refine keeps_snd (by with_reducible assumption) ?_ | split | refine keeps_mk rfl rfl rfl rfl rfl rfl rfl rfl ?_)

theorem keep_blockFails {cs : List Instr} {s : State} (e : Eng) (er : Er) (t : Nat) (ds : Nat) (reads : List (Qid × Nat)) (hk : Keeps cs s) :
    Keeps cs (State.blockFails s e er t ds reads) := by
  unfold State.blockFails
  try dsimp only
  repeat' (first | with_reducible assumption | with_reducible apply keep_blockErr | with_reducible apply keep_count | with_reducible apply keep_failReads | with_reducible apply keep_setF | with_reducible apply keeps_ite | with_reducible intro _ | refine keeps_mk rfl rfl rfl rfl rfl rfl rfl rfl ?_)

theorem keep_execBlockExpand {cs : List Instr} {s : State} (e : Eng) (block : List Byte) (extentTenant : Tenant) (room : Nat) (ds : Nat) (reads : List (Qid × Nat)) (hk : Keeps cs s) :
    KeepsO cs (execBlockExpand e block extentTenant room ds reads s) := by
  unfold execBlockExpand
  try dsimp only
  repeat' (first | with_reducible assumption | with_reducible apply keep_blockFails | with_reducible apply keep_count | with_reducible apply keep_failReads | with_reducible apply keep_givePieces | with_reducible apply keep_holdEnl | with_reducible apply keepsO_next | with_reducible apply keeps_ite | with_reducible apply keepsO_ite | with_reducible apply keeps_fst_ite | with_reducible intro _ | refine keepsW_get (by with_reducible assumption) ?_ | exact keepsW_get rfl (by with_reducible assumption) | split | refine keeps_mk rfl rfl rfl rfl rfl rfl rfl rfl ?_)

theorem keep_execReadComplete {cs : List Instr} {s : State} (q : Qid) (slot : Nat) (hk : Keeps cs s) :
    KeepsO cs (execReadComplete q slot s) := by
  unfold execReadComplete
  try dsimp only
  repeat' (first | with_reducible assumption | with_reducible apply keep_endRead | with_reducible apply keep_readsDone | with_reducible apply keepsO_next | with_reducible apply keeps_ite | with_reducible apply keepsO_ite | with_reducible intro _ | refine keeps_fst (by with_reducible assumption) ?_ | refine keeps_snd (by with_reducible assumption) ?_ | split | refine keeps_mk rfl rfl rfl rfl rfl rfl rfl rfl ?_)

theorem keep_readErr {cs : List Instr} {s : State} (e : Er) (x : Queue) (op : ReadOp) (tmo : Bool) (tries : Nat) (ds : Option Nat) (hk : Keeps cs s) :
    Keeps cs (State.readErr s e x op tmo tries ds) := by
  unfold State.readErr
  try dsimp only
  repeat' (first | with_reducible assumption | with_reducible apply keep_log | with_reducible apply keeps_ite | with_reducible intro _ | refine keeps_mk rfl rfl rfl rfl rfl rfl rfl rfl ?_)

theorem keep_stopLadder {cs : List Instr} {s : State}  (hk : Keeps cs s) :
    Keeps cs (State.stopLadder s) := by
  unfold State.stopLadder
  try dsimp only
  repeat' (first | with_reducible assumption | refine keeps_mk rfl rfl rfl rfl rfl rfl rfl rfl ?_)

theorem keep_execReadTimeout {cs : List Instr} {s : State} (q : Qid) (slot : Nat) (hk : Keeps cs s) :
    KeepsO cs (execReadTimeout q slot s) := by
  unfold execReadTimeout
  try dsimp only
  repeat' (first | with_reducible assumption | with_reducible apply keep_failRead | with_reducible apply keep_readErr | with_reducible apply keep_stopLadder | with_reducible apply keepsO_next | with_reducible apply keeps_ite | with_reducible apply keepsO_ite | with_reducible apply keepsA_fail | with_reducible intro _ | refine keeps_fst (by with_reducible assumption) ?_ | refine keeps_snd (by with_reducible assumption) ?_ | split | refine keeps_mk rfl rfl rfl rfl rfl rfl rfl rfl ?_)

theorem keep_execCartReadingIdle {cs : List Instr} {s : State}  (hk : Keeps cs s) :
    KeepsO cs (execCartReadingIdle s) := by
  unfold execCartReadingIdle
  try dsimp only
  repeat' (first | with_reducible assumption | with_reducible apply keep_beginStop | with_reducible apply keep_setCart | with_reducible apply keepsO_next | with_reducible apply keeps_ite | with_reducible apply keepsO_ite | with_reducible intro _ | refine keeps_mk rfl rfl rfl rfl rfl rfl rfl rfl ?_)

theorem keep_countSeal {cs : List Instr} {s : State} (e : Er) (t : Nat) (counted : List Nat) (hk : Keeps cs s) :
    Keeps cs (State.countSeal s e t counted) := by
  unfold State.countSeal
  try dsimp only
  repeat' (first | with_reducible assumption | with_reducible apply keep_count | with_reducible apply keeps_ite | with_reducible intro _ | refine keeps_mk rfl rfl rfl rfl rfl rfl rfl rfl ?_)

theorem keep_sealPass {cs : List Instr} {s : State} (c : List Byte) (ds : Nat) (q : Qid) (n : Nat) (t : Tenant) (x : ExtRead) (hk : Keeps cs s) :
    Keeps cs (State.sealPass s c ds q n t x) := by
  unfold State.sealPass
  try dsimp only
  repeat' (first | with_reducible assumption | with_reducible apply keep_flag | with_reducible apply keep_onRead | with_reducible apply keeps_ite | with_reducible intro _ | refine keeps_mk rfl rfl rfl rfl rfl rfl rfl rfl ?_)

theorem keep_sealReads {cs : List Instr} {s : State} (c : List Byte) (ds : Nat) (counted : List Nat) (y1 : List (Qid × Nat)) (hk : Keeps cs s) :
    Keeps cs (State.sealReads s c ds counted y1) := by
  induction y1 generalizing s c ds counted with
  | nil =>
    unfold State.sealReads; try dsimp only
    repeat' (first | with_reducible assumption | with_reducible apply keep_countSeal | with_reducible apply keep_failRead | with_reducible apply keep_sealPass | with_reducible apply keeps_ite | with_reducible intro _ | refine keeps_fst (by with_reducible assumption) ?_ | refine keeps_snd (by with_reducible assumption) ?_ | split | refine keeps_mk rfl rfl rfl rfl rfl rfl rfl rfl ?_)
  | cons a l ih =>
    unfold State.sealReads; try dsimp only
    repeat' (first | with_reducible assumption | with_reducible apply ih | with_reducible apply keep_countSeal | with_reducible apply keep_failRead | with_reducible apply keep_sealPass | with_reducible apply keeps_ite | with_reducible intro _ | refine keeps_fst (by with_reducible assumption) ?_ | refine keeps_snd (by with_reducible assumption) ?_ | split | refine keeps_mk rfl rfl rfl rfl rfl rfl rfl rfl ?_)

theorem keep_takeRow {cs : List Instr} {s : State} (l : List (Byte × Bool)) (hk : Keeps cs s) :
    Keeps cs (State.takeRow s l) := by
  unfold State.takeRow
  try dsimp only
  repeat' (first | with_reducible assumption | with_reducible apply keep_drop | with_reducible apply keeps_ite | with_reducible apply keeps_fst_ite | with_reducible intro _ | split | refine keeps_mk rfl rfl rfl rfl rfl rfl rfl rfl ?_)

theorem keep_learnSup {cs : List Instr} {s : State} (c : List Byte) (ds : Nat) (hk : Keeps cs s) :
    Keeps cs (State.learnSup s c ds) := by
  unfold State.learnSup
  try dsimp only
  repeat' (first | with_reducible assumption | with_reducible apply keeps_ite | with_reducible apply keeps_fst_ite | with_reducible intro _ | split | refine keeps_mk rfl rfl rfl rfl rfl rfl rfl rfl ?_)

theorem keep_lostReads {cs : List Instr} {s : State} (ds : Nat) (tries : Nat) (y1 : List (Qid × Nat)) (hk : Keeps cs s) :
    Keeps cs (State.lostReads s ds tries y1) := by
  induction y1 generalizing s ds tries with
  | nil =>
    unfold State.lostReads; try dsimp only
    repeat' (first | with_reducible assumption | with_reducible apply ih | with_reducible apply keep_failRead | with_reducible apply keep_readErr | with_reducible apply keeps_ite | with_reducible apply keepsA_fail | with_reducible intro _ | refine keeps_fst (by with_reducible assumption) ?_ | refine keeps_snd (by with_reducible assumption) ?_ | split | refine keeps_mk rfl rfl rfl rfl rfl rfl rfl rfl ?_)
  | cons a l ih =>
    unfold State.lostReads; try dsimp only
    repeat' (first | with_reducible assumption | with_reducible apply ih | with_reducible apply keep_failRead | with_reducible apply keep_readErr | with_reducible apply keeps_ite | with_reducible apply keepsA_fail | with_reducible intro _ | refine keeps_fst (by with_reducible assumption) ?_ | refine keeps_snd (by with_reducible assumption) ?_ | split | refine keeps_mk rfl rfl rfl rfl rfl rfl rfl rfl ?_)

theorem keep_passAt {cs : List Instr} {s : State} (step : Nat) (hk : Keeps cs s) :
    Keeps cs (State.passAt s step) := by
  unfold State.passAt
  try dsimp only
  repeat' (first | with_reducible assumption | with_reducible apply keep_setF | with_reducible apply keeps_ite | with_reducible intro _)

theorem keep_ladderEnd {cs : List Instr} {s : State}  (hk : Keeps cs s) :
    Keeps cs (State.ladderEnd s) := by
  unfold State.ladderEnd
  try dsimp only
  repeat' (first | with_reducible assumption | with_reducible apply keep_passAt | with_reducible apply keeps_ite | with_reducible intro _ | refine keeps_fst (by with_reducible assumption) ?_ | refine keeps_snd (by with_reducible assumption) ?_ | split | refine keeps_mk rfl rfl rfl rfl rfl rfl rfl rfl ?_)

theorem keep_giveUp {cs : List Instr} {s : State} (d : Dfm) (hk : Keeps cs s) :
    Keeps cs (State.giveUp s d) := by
  unfold State.giveUp
  try dsimp only
  repeat' (first | with_reducible assumption | with_reducible apply keep_count | with_reducible apply keep_ladderEnd | with_reducible apply keep_lostReads | with_reducible apply keeps_ite | with_reducible intro _ | refine keeps_mk rfl rfl rfl rfl rfl rfl rfl rfl ?_)

theorem keep_recovered {cs : List Instr} {s : State} (c : List Byte) (p : PassResult) (hk : Keeps cs s) :
    Keeps cs (State.recovered s c p) := by
  unfold State.recovered
  try dsimp only
  repeat' (first | with_reducible assumption | with_reducible apply keep_readHitch | with_reducible apply keep_ladderEnd | with_reducible apply keep_learnSup | with_reducible apply keep_sealReads | with_reducible apply keeps_ite | with_reducible intro _ | refine keeps_mk rfl rfl rfl rfl rfl rfl rfl rfl ?_)

theorem keep_execDatasetDecode {cs : List Instr} {s : State} (p : PassResult) (hk : Keeps cs s) :
    KeepsO cs (execDatasetDecode p s) := by
  unfold execDatasetDecode
  try dsimp only
  repeat' (first | with_reducible assumption | with_reducible apply keep_count | with_reducible apply keep_giveUp | with_reducible apply keep_ladderEnd | with_reducible apply keep_log | with_reducible apply keep_recovered | with_reducible apply keepsO_next | with_reducible apply keeps_ite | with_reducible apply keepsO_ite | with_reducible intro _ | refine keeps_fst (by with_reducible assumption) ?_ | refine keeps_snd (by with_reducible assumption) ?_ | split | refine keeps_mk rfl rfl rfl rfl rfl rfl rfl rfl ?_)

theorem keep_takeRetry {cs : List Instr} {s : State}  (hk : Keeps cs s) :
    Keeps cs (State.takeRetry s) := by
  unfold State.takeRetry
  try dsimp only
  repeat' (first | with_reducible assumption | with_reducible apply keep_ladderEnd | with_reducible apply keep_passAt | with_reducible apply keeps_ite | with_reducible intro _ | refine keeps_fst (by with_reducible assumption) ?_ | refine keeps_snd (by with_reducible assumption) ?_ | split | refine keeps_mk rfl rfl rfl rfl rfl rfl rfl rfl ?_)

theorem keep_execReadRetry {cs : List Instr} {s : State}  (hk : Keeps cs s) :
    KeepsO cs (execReadRetry s) := by
  unfold execReadRetry
  try dsimp only
  repeat' (first | with_reducible assumption | with_reducible apply keep_takeRetry | with_reducible apply keepsO_next)

end Sys2Proof.Machine
end

