-- ==== Sys2Proof/Laws/KeepsChannel.lean ====
section
/-! SUPPORT. Every operation of Machine/Channel.lean keeps the machine's invariant and its queue. -/

namespace Sys2Proof.Machine

theorem keep_keepLoops {cs : List Instr} {s : State} (l : Loops) (hk : Keeps cs s) :
    Keeps cs (State.keepLoops s l) := by
  unfold State.keepLoops
  try dsimp only
  repeat' (first | with_reducible assumption | with_reducible apply keeps_ite | with_reducible intro _ | refine keeps_mk rfl rfl rfl rfl rfl rfl rfl rfl ?_)

theorem keep_moveTrack {cs : List Instr} {s : State} (n : Nat) (ds : Nat) (slot : Nat) (start : Int) (off : Int) (hk : Keeps cs s) :
    Keeps cs (State.moveTrack s n ds slot start off) := by
  unfold State.moveTrack
  try dsimp only
  repeat' (first | with_reducible assumption | with_reducible apply keeps_ite | with_reducible intro _ | refine keeps_mk rfl rfl rfl rfl rfl rfl rfl rfl ?_)

theorem keep_toProof {cs : List Instr} {s : State} (n : Nat) (off : Int) (got : Option (List (Byte × Bool))) (lost : Bool) (hk : Keeps cs s) :
    Keeps cs (State.toProof s n off got lost) := by
  unfold State.toProof
  try dsimp only
  repeat' (first | with_reducible assumption | with_reducible apply keep_moveTrack | with_reducible apply keeps_ite | with_reducible intro _ | refine keeps_fst (by with_reducible assumption) ?_ | refine keeps_snd (by with_reducible assumption) ?_ | split | refine keeps_mk rfl rfl rfl rfl rfl rfl rfl rfl ?_)

theorem keep_toDfm {cs : List Instr} {s : State} (n : Nat) (off : Int) (got : Option (List (Byte × Bool))) (hk : Keeps cs s) :
    Keeps cs (State.toDfm s n off got) := by
  unfold State.toDfm
  try dsimp only
  repeat' (first | with_reducible assumption | with_reducible apply keep_moveTrack | with_reducible apply keep_takeRow | with_reducible apply keeps_ite | with_reducible apply keeps_fst_ite | with_reducible intro _ | split | refine keeps_mk rfl rfl rfl rfl rfl rfl rfl rfl ?_)

theorem keep_loupeTake {cs : List Instr} {s : State} (input : Nat) (samples : List Byte) (hk : Keeps cs s) :
    Keeps cs (State.loupeTake s input samples) := by
  unfold State.loupeTake
  try dsimp only
  repeat' (first | with_reducible assumption | with_reducible apply keeps_ite | with_reducible intro _ | refine keeps_mk rfl rfl rfl rfl rfl rfl rfl rfl ?_)

theorem keep_loupeAt {cs : List Instr} {s : State} (trig : Nat) (input : Nat) (k : Nat) (samples : List Byte) (hk : Keeps cs s) :
    Keeps cs (State.loupeAt s trig input k samples) := by
  unfold State.loupeAt
  try dsimp only
  repeat' (first | with_reducible assumption | with_reducible apply keep_loupeEvent | with_reducible apply keep_loupeTake)

theorem keep_inputStatus {cs : List Instr} {s : State} (n : Nat) (lock : Bool) (ds : List (Nat × Nat)) (l : Loops) (f : FrameIn) (hk : Keeps cs s) :
    Keeps cs (State.inputStatus s n lock ds l f) := by
  unfold State.inputStatus
  try dsimp only
  repeat' (first | with_reducible assumption | with_reducible apply keep_setF | with_reducible apply keeps_ite | with_reducible apply keeps_fst_ite | with_reducible intro _ | refine keeps_mk rfl rfl rfl rfl rfl rfl rfl rfl ?_)

theorem keep_execFrameRead {cs : List Instr} {s : State} (input : Fin 36) (f : FrameIn) (hk : Keeps cs s) :
    KeepsO cs (execFrameRead input f s) := by
  unfold execFrameRead
  try dsimp only
  repeat' (first | with_reducible assumption | with_reducible apply keep_count | with_reducible apply keep_drop | with_reducible apply keep_emit | with_reducible apply keep_inputStatus | with_reducible apply keep_keepLoops | with_reducible apply keep_loupeAt | with_reducible apply keep_loupeTake | with_reducible apply keep_toDfm | with_reducible apply keep_toProof | with_reducible apply keeps_foldl | with_reducible apply keepsO_next | with_reducible apply keeps_ite | with_reducible apply keepsO_ite | with_reducible apply keeps_fst_ite | with_reducible intro _ | refine keeps_fst (by with_reducible assumption) ?_ | refine keeps_snd (by with_reducible assumption) ?_ | split | refine keeps_mk rfl rfl rfl rfl rfl rfl rfl rfl ?_)

theorem keep_execLossOfLock {cs : List Instr} {s : State} (input : Fin 36) (sym : Nat) (hk : Keeps cs s) :
    KeepsO cs (execLossOfLock input sym s) := by
  unfold execLossOfLock
  try dsimp only
  repeat' (first | with_reducible assumption | with_reducible apply keep_count | with_reducible apply keep_loupeEvent | with_reducible apply keep_setF | with_reducible apply keepsO_next | with_reducible apply keeps_ite | with_reducible apply keepsO_ite | with_reducible apply keeps_fst_ite | with_reducible intro _ | refine keeps_mk rfl rfl rfl rfl rfl rfl rfl rfl ?_)

theorem keep_wLpcfg {cs : List Instr} {s : State} (v : Word) (hk : Keeps cs s) :
    KeepsW cs (State.wLpcfg s v) := by
  unfold State.wLpcfg
  try dsimp only
  repeat' (first | with_reducible assumption | with_reducible apply keep_loupeEvent | with_reducible apply keep_setF | with_reducible apply keeps_ite | with_reducible apply keepsW_ite | with_reducible apply keepsW_ok | exact keepsW_refuse | with_reducible intro _ | refine keeps_mk rfl rfl rfl rfl rfl rfl rfl rfl ?_)

theorem keep_execLoupeArm {cs : List Instr} {s : State} (src : Src) (v : Word) (hk : Keeps cs s) :
    KeepsO cs (execLoupeArm src v s) := by
  unfold execLoupeArm
  try dsimp only
  repeat' (first | with_reducible assumption | with_reducible apply keep_apply | with_reducible apply keep_pfDrop | with_reducible apply keep_wLpcfg | with_reducible apply keepsO_next | with_reducible apply keeps_ite | with_reducible apply keepsO_ite | with_reducible apply keepsW_ite | with_reducible intro _ | refine keeps_fst (by with_reducible assumption) ?_ | refine keeps_snd (by with_reducible assumption) ?_ | split | refine keeps_mk rfl rfl rfl rfl rfl rfl rfl rfl ?_)

theorem keep_execLoupeFire {cs : List Instr} {s : State} (src : Src) (v : Word) (hk : Keeps cs s) :
    KeepsO cs (execLoupeFire src v s) := by
  unfold execLoupeFire
  try dsimp only
  repeat' (first | with_reducible assumption | with_reducible apply keep_apply | with_reducible apply keep_pfDrop | with_reducible apply keep_wLpcfg | with_reducible apply keepsO_next | with_reducible apply keeps_ite | with_reducible apply keepsO_ite | with_reducible apply keepsW_ite | with_reducible intro _ | refine keeps_fst (by with_reducible assumption) ?_ | refine keeps_snd (by with_reducible assumption) ?_ | split | refine keeps_mk rfl rfl rfl rfl rfl rfl rfl rfl ?_)

theorem keep_execLoupeCaptureEnd {cs : List Instr} {s : State}  (hk : Keeps cs s) :
    KeepsO cs (execLoupeCaptureEnd s) := by
  unfold execLoupeCaptureEnd
  try dsimp only
  repeat' (first | with_reducible assumption | with_reducible apply keep_setF | with_reducible apply keepsO_next | with_reducible apply keeps_ite | with_reducible apply keepsO_ite | with_reducible intro _ | refine keeps_fst (by with_reducible assumption) ?_ | refine keeps_snd (by with_reducible assumption) ?_ | split | refine keeps_mk rfl rfl rfl rfl rfl rfl rfl rfl ?_)

theorem keep_execTestProof {cs : List Instr} {s : State} (ln : Ln) (hk : Keeps cs s) :
    KeepsO cs (execTestProof ln s) := by
  unfold execTestProof
  try dsimp only
  repeat' (first | with_reducible assumption | with_reducible apply keep_setF | with_reducible apply keep_verb | with_reducible apply keepsO_next | with_reducible apply keeps_ite | with_reducible apply keepsO_ite | with_reducible apply keepsA_ite | with_reducible apply keepsA_ok | exact keepsA_er | with_reducible intro _ | refine keeps_mk rfl rfl rfl rfl rfl rfl rfl rfl ?_)

theorem keep_endProof {cs : List Instr} {s : State} (code : Nat) (ch : Nat) (hk : Keeps cs s) :
    Keeps cs (State.endProof s code ch) := by
  unfold State.endProof
  try dsimp only
  repeat' (first | with_reducible assumption | with_reducible apply keep_done | with_reducible apply keep_setF | with_reducible apply keeps_ite | with_reducible intro _ | refine keeps_mk rfl rfl rfl rfl rfl rfl rfl rfl ?_)

theorem keep_execProofCheckpoint {cs : List Instr} {s : State} (ch : Chan) (results : List (Nat × Readback)) (hk : Keeps cs s) :
    KeepsO cs (execProofCheckpoint ch results s) := by
  unfold execProofCheckpoint
  try dsimp only
  repeat' (first | with_reducible assumption | with_reducible apply keep_endProof | with_reducible apply keep_log | with_reducible apply keep_setF | with_reducible apply keepsO_next | with_reducible apply keeps_ite | with_reducible apply keepsO_ite | with_reducible intro _ | refine keeps_fst (by with_reducible assumption) ?_ | refine keeps_snd (by with_reducible assumption) ?_ | split | refine keeps_mk rfl rfl rfl rfl rfl rfl rfl rfl ?_)

theorem keep_dropProof {cs : List Instr} {s : State}  (hk : Keeps cs s) :
    Keeps cs (State.dropProof s) := by
  unfold State.dropProof
  try dsimp only
  repeat' (first | with_reducible assumption | with_reducible apply keep_setF | refine keeps_mk rfl rfl rfl rfl rfl rfl rfl rfl ?_)

theorem keep_dropCodecTest {cs : List Instr} {s : State}  (hk : Keeps cs s) :
    Keeps cs (State.dropCodecTest s) := by
  unfold State.dropCodecTest
  try dsimp only
  repeat' (first | with_reducible assumption | with_reducible apply keep_setF | refine keeps_mk rfl rfl rfl rfl rfl rfl rfl rfl ?_)

end Sys2Proof.Machine
end

