-- ==== Sys2Proof/Laws/KeepsMotion.lean ====
section
/-! SUPPORT. Every operation of Machine/Motion.lean keeps the machine's invariant and its queue. -/

namespace Sys2Proof.Machine

theorem keep_stopWriting {cs : List Instr} {s : State}  (hk : Keeps cs s) :
    Keeps cs (State.stopWriting s) := by
  unfold State.stopWriting
  try dsimp only
  repeat' (first | with_reducible assumption | with_reducible apply keep_haltWrite | with_reducible apply keep_setCart | with_reducible apply keeps_ite | with_reducible intro _)

theorem keep_cartBack {cs : List Instr} {s : State}  (hk : Keeps cs s) :
    Keeps cs (State.cartBack s) := by
  unfold State.cartBack
  try dsimp only
  repeat' (first | with_reducible assumption | with_reducible apply keep_opCart | with_reducible apply keep_setCart | with_reducible apply keeps_ite | with_reducible intro _ | split | refine keeps_mk rfl rfl rfl rfl rfl rfl rfl rfl ?_)

theorem keep_endOps {cs : List Instr} {s : State} (e : Er) (hk : Keeps cs s) :
    Keeps cs (State.endOps s e) := by
  unfold State.endOps
  try dsimp only
  repeat' (first | with_reducible assumption | with_reducible apply keep_cartBack | with_reducible apply keep_done | with_reducible apply keep_doneAll | with_reducible apply keep_opCart | with_reducible apply keep_opMotion | with_reducible apply keeps_ite | with_reducible intro _ | refine keeps_mk rfl rfl rfl rfl rfl rfl rfl rfl ?_)

theorem keep_cutMotion {cs : List Instr} {s : State} (e : Er) (hk : Keeps cs s) :
    Keeps cs (State.cutMotion s e) := by
  unfold State.cutMotion
  try dsimp only
  repeat' (first | with_reducible assumption | with_reducible apply keep_endOps | with_reducible apply keep_failReads | with_reducible apply keep_stopWriting | with_reducible apply keepsA_fail)

theorem keep_setAxis {cs : List Instr} {s : State} (a : Fin 3) (x : AxisSt) (hk : Keeps cs s) :
    Keeps cs (State.setAxis s a x) := by
  unfold State.setAxis
  try dsimp only
  repeat' (first | with_reducible assumption | refine keeps_mk rfl rfl rfl rfl rfl rfl rfl rfl ?_)

theorem keep_observerEnds {cs : List Instr} {s : State} (a : Fin 3) (w : Int) (hk : Keeps cs s) :
    Keeps cs (State.observerEnds s a w) := by
  unfold State.observerEnds
  try dsimp only
  repeat' (first | with_reducible assumption | with_reducible apply keep_setF | with_reducible apply keep_setMode | with_reducible apply keep_tidyLoops | with_reducible apply keeps_ite | with_reducible intro _ | refine keeps_mk rfl rfl rfl rfl rfl rfl rfl rfl ?_)

theorem keep_carrierAxis {cs : List Instr} {s : State} (a : Fin 3) (x : AxisSample) (vbus : Nat) (hk : Keeps cs s) :
    Keeps cs (State.carrierAxis s a x vbus) := by
  unfold State.carrierAxis
  try dsimp only
  repeat' (first | with_reducible assumption | with_reducible apply keep_observerEnds | with_reducible apply keep_count | with_reducible apply keep_emit | with_reducible apply keep_setAxis | with_reducible apply keep_setF | with_reducible apply keeps_ite | with_reducible intro _ | refine keeps_fst (by with_reducible assumption) ?_ | refine keeps_snd (by with_reducible assumption) ?_ | split | refine keeps_mk rfl rfl rfl rfl rfl rfl rfl rfl ?_)

theorem keep_carrierHead {cs : List Instr} {s : State} (coil : Int) (hk : Keeps cs s) :
    Keeps cs (State.carrierHead s coil) := by
  unfold State.carrierHead
  try dsimp only
  repeat' (first | with_reducible assumption | with_reducible apply keep_emit | with_reducible apply keeps_ite | with_reducible intro _ | refine keeps_mk rfl rfl rfl rfl rfl rfl rfl rfl ?_)

theorem keep_carrier {cs : List Instr} {s : State} (axes : List AxisSample) (coil : Int) (vbus : Nat) (hk : Keeps cs s) :
    Keeps cs (State.carrier s axes coil vbus) := by
  unfold State.carrier
  try dsimp only
  repeat' (first | with_reducible assumption | with_reducible apply keep_carrierAxis | with_reducible apply keep_carrierHead | with_reducible apply keep_setF | with_reducible apply keeps_ite | with_reducible intro _ | refine keeps_mk rfl rfl rfl rfl rfl rfl rfl rfl ?_)

theorem keep_measured {cs : List Instr} {s : State} (a : Fin 3) (rpm : Int) (ofs : Nat × Nat) (hk : Keeps cs s) :
    Keeps cs (State.measured s a rpm ofs) := by
  unfold State.measured
  try dsimp only
  repeat' (first | with_reducible assumption | with_reducible apply keep_setAxis | with_reducible apply keep_setF | with_reducible apply keeps_ite | with_reducible apply keeps_fst_ite | with_reducible intro _ | refine keeps_mk rfl rfl rfl rfl rfl rfl rfl rfl ?_)

theorem keep_alignReels {cs : List Instr} {s : State} (x : Start) (hk : Keeps cs s) :
    Keeps cs (State.alignReels s x) := by
  unfold State.alignReels
  try dsimp only
  repeat' (first | with_reducible assumption | with_reducible apply keep_refreshMot | with_reducible apply keep_setMode | with_reducible apply keeps_ite | with_reducible intro _ | refine keeps_mk rfl rfl rfl rfl rfl rfl rfl rfl ?_)

theorem keep_runReels {cs : List Instr} {s : State} (x : Start) (hk : Keeps cs s) :
    Keeps cs (State.runReels s x) := by
  unfold State.runReels
  try dsimp only
  repeat' (first | with_reducible assumption | with_reducible apply keep_refreshMot | with_reducible apply keep_setF | refine keeps_mk rfl rfl rfl rfl rfl rfl rfl rfl ?_)

theorem keep_slowReel {cs : List Instr} {s : State} (a : Nat) (t : Turning) (hk : Keeps cs s) :
    Keeps cs (State.slowReel s a t) := by
  unfold State.slowReel
  try dsimp only
  repeat' (first | with_reducible assumption | with_reducible apply keep_caughtLoops | with_reducible apply keep_gatesOff | with_reducible apply keep_setMode | with_reducible apply keeps_ite | with_reducible intro _ | refine keeps_fst (by with_reducible assumption) ?_ | refine keeps_snd (by with_reducible assumption) ?_ | split | refine keeps_mk rfl rfl rfl rfl rfl rfl rfl rfl ?_)

theorem keep_catchReels {cs : List Instr} {s : State} (x : Start) (rpmA : Int) (rpmB : Int) (offsets : List (Nat × Nat)) (hk : Keeps cs s) :
    Keeps cs (State.catchReels s x rpmA rpmB offsets) := by
  unfold State.catchReels
  try dsimp only
  repeat' (first | with_reducible assumption | with_reducible apply keep_alignReels | with_reducible apply keep_caughtLoops | with_reducible apply keep_measured | with_reducible apply keep_presetLoop | with_reducible apply keep_refreshMot | with_reducible apply keep_runReels | with_reducible apply keep_setMode | with_reducible apply keep_slowReel | with_reducible apply keeps_ite | with_reducible intro _ | split | refine keeps_mk rfl rfl rfl rfl rfl rfl rfl rfl ?_)

theorem keep_fanTurn {cs : List Instr} {s : State} (t : Turning) (hk : Keeps cs s) :
    Keeps cs (State.fanTurn s t) := by
  unfold State.fanTurn
  try dsimp only
  repeat' (first | with_reducible assumption | with_reducible apply keep_caughtLoops | with_reducible apply keep_setMode | with_reducible apply keep_tidyLoops | refine keeps_fst (by with_reducible assumption) ?_ | refine keeps_snd (by with_reducible assumption) ?_ | split | refine keeps_mk rfl rfl rfl rfl rfl rfl rfl rfl ?_)

theorem keep_execCatchEnd {cs : List Instr} {s : State} (fan : Bool) (rpmA : Int) (rpmB : Int) (offsets : List (Nat × Nat)) (hk : Keeps cs s) :
    KeepsO cs (execCatchEnd fan rpmA rpmB offsets s) := by
  unfold execCatchEnd
  try dsimp only
  repeat' (first | with_reducible assumption | with_reducible apply keep_catchReels | with_reducible apply keep_fanTurn | with_reducible apply keep_measured | with_reducible apply keepsO_next | with_reducible apply keeps_ite | with_reducible apply keepsO_ite | with_reducible intro _ | refine keeps_fst (by with_reducible assumption) ?_ | refine keeps_snd (by with_reducible assumption) ?_ | split | refine keeps_mk rfl rfl rfl rfl rfl rfl rfl rfl ?_)

theorem keep_execAlignEnd {cs : List Instr} {s : State} (fan : Bool) (hk : Keeps cs s) :
    KeepsO cs (execAlignEnd fan s) := by
  unfold execAlignEnd
  try dsimp only
  repeat' (first | with_reducible assumption | with_reducible apply keep_runReels | with_reducible apply keep_setMode | with_reducible apply keepsO_next | with_reducible apply keeps_ite | with_reducible apply keepsO_ite | with_reducible intro _ | refine keeps_fst (by with_reducible assumption) ?_ | refine keeps_snd (by with_reducible assumption) ?_ | split | refine keeps_mk rfl rfl rfl rfl rfl rfl rfl rfl ?_)

theorem keep_execObserverHandover {cs : List Instr} {s : State} (u : MUnit) (hk : Keeps cs s) :
    KeepsO cs (execObserverHandover u s) := by
  unfold execObserverHandover
  try dsimp only
  repeat' (first | with_reducible assumption | with_reducible apply keep_setF | with_reducible apply keep_setMode | with_reducible apply keep_tidyLoops | with_reducible apply keepsO_next | with_reducible apply keeps_ite | with_reducible apply keepsO_ite | with_reducible intro _)

theorem keep_stopDone {cs : List Instr} {s : State}  (hk : Keeps cs s) :
    Keeps cs (State.stopDone s) := by
  unfold State.stopDone
  try dsimp only
  repeat' (first | with_reducible assumption | with_reducible apply keep_done | refine keeps_mk rfl rfl rfl rfl rfl rfl rfl rfl ?_)

theorem keep_execStartFail {cs : List Instr} {s : State} (u : MUnit) (hk : Keeps cs s) :
    KeepsO cs (execStartFail u s) := by
  unfold execStartFail
  try dsimp only
  repeat' (first | with_reducible assumption | with_reducible apply keep_count | with_reducible apply keep_endMotion | with_reducible apply keep_endOps | with_reducible apply keep_log | with_reducible apply keep_refreshMot | with_reducible apply keep_setF | with_reducible apply keep_setMode | with_reducible apply keepsO_next | with_reducible apply keeps_ite | with_reducible apply keepsO_ite | with_reducible apply keepsA_fail | with_reducible intro _ | refine keeps_fst (by with_reducible assumption) ?_ | refine keeps_snd (by with_reducible assumption) ?_ | split | refine keeps_mk rfl rfl rfl rfl rfl rfl rfl rfl ?_)

theorem keep_execBrakeToStandstill {cs : List Instr} {s : State} (u : MUnit) (hk : Keeps cs s) :
    KeepsO cs (execBrakeToStandstill u s) := by
  unfold execBrakeToStandstill
  try dsimp only
  repeat' (first | with_reducible assumption | with_reducible apply keep_alignReels | with_reducible apply keep_endMotion | with_reducible apply keep_gatesOff | with_reducible apply keep_setMode | with_reducible apply keep_stopDone | with_reducible apply keep_tidyLoops | with_reducible apply keepsO_next | with_reducible apply keeps_ite | with_reducible apply keepsO_ite | with_reducible intro _ | refine keeps_fst (by with_reducible assumption) ?_ | refine keeps_snd (by with_reducible assumption) ?_ | split | refine keeps_mk rfl rfl rfl rfl rfl rfl rfl rfl ?_)

theorem keep_started {cs : List Instr} {s : State}  (hk : Keeps cs s) :
    Keeps cs (State.started s) := by
  unfold State.started
  try dsimp only
  repeat' (first | with_reducible assumption | with_reducible apply keep_refreshMot | refine keeps_mk rfl rfl rfl rfl rfl rfl rfl rfl ?_)

theorem keep_execMotionStartComplete {cs : List Instr} {s : State}  (hk : Keeps cs s) :
    KeepsO cs (execMotionStartComplete s) := by
  unfold execMotionStartComplete
  try dsimp only
  repeat' (first | with_reducible assumption | with_reducible apply keep_done | with_reducible apply keep_setF | with_reducible apply keep_started | with_reducible apply keepsO_next | with_reducible apply keeps_ite | with_reducible apply keepsO_ite | with_reducible intro _ | refine keeps_mk rfl rfl rfl rfl rfl rfl rfl rfl ?_)

theorem keep_execControlledStopEnd {cs : List Instr} {s : State}  (hk : Keeps cs s) :
    KeepsO cs (execControlledStopEnd s) := by
  unfold execControlledStopEnd
  try dsimp only
  repeat' (first | with_reducible assumption | with_reducible apply keep_endMotion | with_reducible apply keep_stopDone | with_reducible apply keepsO_next | with_reducible apply keeps_ite | with_reducible apply keepsO_ite | with_reducible intro _)

theorem keep_followTrip {cs : List Instr} {s : State} (a : Nat) (hk : Keeps cs s) :
    Keeps cs (State.followTrip s a) := by
  unfold State.followTrip
  try dsimp only
  repeat' (first | with_reducible assumption | with_reducible apply keep_gatesOff | with_reducible apply keep_refreshMot | with_reducible apply keep_setF | with_reducible apply keep_setMode | with_reducible apply keeps_ite | with_reducible intro _ | refine keeps_mk rfl rfl rfl rfl rfl rfl rfl rfl ?_)

theorem keep_tripUnits {cs : List Instr} {s : State} (u : MUnit) (hk : Keeps cs s) :
    Keeps cs (State.tripUnits s u) := by
  unfold State.tripUnits
  try dsimp only
  repeat' (first | with_reducible assumption | with_reducible apply keep_beginStop | with_reducible apply keep_followTrip | with_reducible apply keep_gatesOff | with_reducible apply keep_refreshMot | with_reducible apply keep_setF | with_reducible apply keep_tidyLoops | refine keeps_fst (by with_reducible assumption) ?_ | refine keeps_snd (by with_reducible assumption) ?_ | split | refine keeps_mk rfl rfl rfl rfl rfl rfl rfl rfl ?_)

theorem keep_trip {cs : List Instr} {s : State} (u : MUnit) (cause : Nat) (rec : Option ErrRec) (hk : Keeps cs s) :
    Keeps cs (State.trip s u cause rec) := by
  unfold State.trip
  try dsimp only
  repeat' (first | with_reducible assumption | with_reducible apply keep_cause | with_reducible apply keep_count | with_reducible apply keep_cutMotion | with_reducible apply keep_emit | with_reducible apply keep_eventAll | with_reducible apply keep_log | with_reducible apply keep_setF | with_reducible apply keep_tripUnits | with_reducible apply keeps_ite | with_reducible intro _ | split | refine keeps_mk rfl rfl rfl rfl rfl rfl rfl rfl ?_)

theorem keep_setPin {cs : List Instr} {s : State} (u : MUnit) (low : Bool) (hk : Keeps cs s) :
    Keeps cs (State.setPin s u low) := by
  unfold State.setPin
  try dsimp only
  repeat' (first | with_reducible assumption | with_reducible apply keeps_ite | with_reducible intro _ | refine keeps_mk rfl rfl rfl rfl rfl rfl rfl rfl ?_)

theorem keep_execTripInput {cs : List Instr} {s : State} (u : MUnit) (widthNs : Option Nat) (inBlanking : Bool) (hk : Keeps cs s) :
    KeepsO cs (execTripInput u widthNs inBlanking s) := by
  unfold execTripInput
  try dsimp only
  repeat' (first | with_reducible assumption | with_reducible apply keep_draw | with_reducible apply keep_setPin | with_reducible apply keep_trip | with_reducible apply keepsO_next | with_reducible apply keeps_ite | with_reducible apply keepsO_ite | with_reducible intro _ | refine keeps_fst (by with_reducible assumption) ?_ | refine keeps_snd (by with_reducible assumption) ?_ | split | refine keeps_mk rfl rfl rfl rfl rfl rfl rfl rfl ?_)

theorem keep_execBlankingEnd {cs : List Instr} {s : State} (u : MUnit) (hk : Keeps cs s) :
    KeepsO cs (execBlankingEnd u s) := by
  unfold execBlankingEnd
  try dsimp only
  repeat' (first | with_reducible assumption | with_reducible apply keep_trip | with_reducible apply keepsO_next | with_reducible apply keeps_ite | with_reducible apply keepsO_ite | with_reducible intro _)

theorem keep_execOvercurrent {cs : List Instr} {s : State} (u : MUnit) (hk : Keeps cs s) :
    KeepsO cs (execOvercurrent u s) := by
  unfold execOvercurrent
  try dsimp only
  repeat' (first | with_reducible assumption | with_reducible apply keep_trip | with_reducible apply keepsO_next | with_reducible apply keeps_ite | with_reducible apply keepsO_ite | with_reducible intro _)

theorem keep_execFollowEnd {cs : List Instr} {s : State} (u : MUnit) (hk : Keeps cs s) :
    KeepsO cs (execFollowEnd u s) := by
  unfold execFollowEnd
  try dsimp only
  repeat' (first | with_reducible assumption | with_reducible apply keep_gatesOff | with_reducible apply keep_refreshMot | with_reducible apply keep_setF | with_reducible apply keep_srvOff | with_reducible apply keepsO_next | with_reducible apply keeps_ite | with_reducible apply keepsO_ite | with_reducible intro _)

theorem keep_clearTrips {cs : List Instr} {s : State} (y1 : List MUnit) (hk : Keeps cs s) :
    Keeps cs (State.clearTrips s y1) := by
  induction y1 generalizing s with
  | nil =>
    unfold State.clearTrips; try dsimp only
    repeat' (first | with_reducible assumption | with_reducible apply ih | with_reducible apply keep_setF)
  | cons a l ih =>
    unfold State.clearTrips; try dsimp only
    repeat' (first | with_reducible assumption | with_reducible apply ih | with_reducible apply keep_setF)

theorem keep_wTripclr {cs : List Instr} {s : State} (src : Src) (v : Word) (hk : Keeps cs s) :
    KeepsW cs (State.wTripclr s src v) := by
  unfold State.wTripclr
  try dsimp only
  repeat' (first | with_reducible assumption | with_reducible apply keep_clearTrips | with_reducible apply keep_overrideBy | with_reducible apply keep_refreshMot | with_reducible apply keeps_ite | with_reducible apply keepsW_ite | with_reducible apply keepsW_ok | exact keepsW_refuse | with_reducible intro _ | refine keeps_mk rfl rfl rfl rfl rfl rfl rfl rfl ?_)

theorem keep_execMdrTripclrWrite {cs : List Instr} {s : State} (src : Src) (v : Word) (hk : Keeps cs s) :
    KeepsO cs (execMdrTripclrWrite src v s) := by
  unfold execMdrTripclrWrite
  try dsimp only
  repeat' (first | with_reducible assumption | with_reducible apply keep_apply | with_reducible apply keep_pfDrop | with_reducible apply keep_wTripclr | with_reducible apply keepsO_next | with_reducible apply keeps_ite | with_reducible apply keepsO_ite | with_reducible apply keepsW_ite | with_reducible intro _ | refine keeps_fst (by with_reducible assumption) ?_ | refine keeps_snd (by with_reducible assumption) ?_ | split | refine keeps_mk rfl rfl rfl rfl rfl rfl rfl rfl ?_)

theorem keep_execTripClear {cs : List Instr} {s : State} (ln : Ln) (units : TripArg) (hk : Keeps cs s) :
    KeepsO cs (execTripClear ln units s) := by
  unfold execTripClear
  try dsimp only
  repeat' (first | with_reducible assumption | with_reducible apply keep_clearTrips | with_reducible apply keep_refreshMot | with_reducible apply keep_verb | with_reducible apply keepsO_next | with_reducible apply keeps_ite | with_reducible apply keepsO_ite | with_reducible apply keepsA_ite | with_reducible apply keepsA_ok | exact keepsA_er | with_reducible intro _ | refine keeps_fst (by with_reducible assumption) ?_ | refine keeps_snd (by with_reducible assumption) ?_ | refine keepsW_get (by with_reducible assumption) ?_ | exact keepsW_get rfl (by with_reducible assumption) | split | refine keeps_mk rfl rfl rfl rfl rfl rfl rfl rfl ?_)

theorem keep_execTripQuery {cs : List Instr} {s : State} (ln : Ln) (hk : Keeps cs s) :
    KeepsO cs (execTripQuery ln s) := by
  unfold execTripQuery
  try dsimp only
  repeat' (first | with_reducible assumption | with_reducible apply keep_verb | with_reducible apply keepsO_next | with_reducible apply keepsA_ok | exact keepsA_er)

theorem keep_execMotionQuery {cs : List Instr} {s : State} (ln : Ln) (hk : Keeps cs s) :
    KeepsO cs (execMotionQuery ln s) := by
  unfold execMotionQuery
  try dsimp only
  repeat' (first | with_reducible assumption | with_reducible apply keep_verb | with_reducible apply keepsO_next | with_reducible apply keepsA_ok | exact keepsA_er)

theorem keep_takeStep {cs : List Instr} {s : State} (a : StepArg) (hk : Keeps cs s) :
    Keeps cs (State.takeStep s a) := by
  unfold State.takeStep
  try dsimp only
  repeat' (first | with_reducible assumption | with_reducible apply keep_setF | refine keeps_fst (by with_reducible assumption) ?_ | refine keeps_snd (by with_reducible assumption) ?_ | split | refine keeps_mk rfl rfl rfl rfl rfl rfl rfl rfl ?_)

theorem keep_execMotionStart {cs : List Instr} {s : State} (ln : Ln) (step : StepArg) (reverse : Bool) (hk : Keeps cs s) :
    KeepsO cs (execMotionStart ln step reverse s) := by
  unfold execMotionStart
  try dsimp only
  repeat' (first | with_reducible assumption | with_reducible apply keep_beginMove | with_reducible apply keep_takeStep | with_reducible apply keep_verb | with_reducible apply keepsO_next | with_reducible apply keeps_ite | with_reducible apply keepsO_ite | with_reducible apply keepsA_ite | with_reducible apply keepsA_ok | exact keepsA_er | with_reducible intro _ | refine keeps_fst (by with_reducible assumption) ?_ | refine keeps_snd (by with_reducible assumption) ?_ | refine keepsW_get (by with_reducible assumption) ?_ | exact keepsW_get rfl (by with_reducible assumption) | split | refine keeps_mk rfl rfl rfl rfl rfl rfl rfl rfl ?_)

theorem keep_orderStop {cs : List Instr} {s : State}  (hk : Keeps cs s) :
    Keeps cs (State.orderStop s) := by
  unfold State.orderStop
  try dsimp only
  repeat' (first | with_reducible assumption | with_reducible apply keep_beginStop | with_reducible apply keep_refreshMot | with_reducible apply keeps_ite | with_reducible intro _ | refine keeps_fst (by with_reducible assumption) ?_ | refine keeps_snd (by with_reducible assumption) ?_ | split | refine keeps_mk rfl rfl rfl rfl rfl rfl rfl rfl ?_)

theorem keep_execMotionStop {cs : List Instr} {s : State} (ln : Ln) (hk : Keeps cs s) :
    KeepsO cs (execMotionStop ln s) := by
  unfold execMotionStop
  try dsimp only
  repeat' (first | with_reducible assumption | with_reducible apply keep_cutMotion | with_reducible apply keep_orderStop | with_reducible apply keep_stopDone | with_reducible apply keep_verb | with_reducible apply keepsO_next | with_reducible apply keeps_ite | with_reducible apply keepsO_ite | with_reducible apply keepsA_ite | with_reducible apply keepsA_ok | exact keepsA_er | with_reducible intro _ | refine keeps_fst (by with_reducible assumption) ?_ | refine keeps_snd (by with_reducible assumption) ?_ | refine keepsW_get (by with_reducible assumption) ?_ | exact keepsW_get rfl (by with_reducible assumption) | split | refine keeps_mk rfl rfl rfl rfl rfl rfl rfl rfl ?_)

theorem keep_execSpeed {cs : List Instr} {s : State} (ln : Ln) (step : StepArg) (hk : Keeps cs s) :
    KeepsO cs (execSpeed ln step s) := by
  unfold execSpeed
  try dsimp only
  repeat' (first | with_reducible assumption | with_reducible apply keep_setF | with_reducible apply keep_takeStep | with_reducible apply keep_verb | with_reducible apply keepsO_next | with_reducible apply keeps_ite | with_reducible apply keepsO_ite | with_reducible apply keepsA_ite | with_reducible apply keepsA_ok | exact keepsA_er | with_reducible intro _ | refine keeps_fst (by with_reducible assumption) ?_ | refine keeps_snd (by with_reducible assumption) ?_ | refine keepsW_get (by with_reducible assumption) ?_ | exact keepsW_get rfl (by with_reducible assumption) | split | refine keeps_mk rfl rfl rfl rfl rfl rfl rfl rfl ?_)

end Sys2Proof.Machine
end

