-- ==== Sys2Proof/Laws/KeepsStore.lean ====
section
/-! SUPPORT. Every operation of Machine/Store.lean keeps the machine's invariant and its queue. -/

namespace Sys2Proof.Machine

theorem keep_storeReg {cs : List Instr} {s : State} (d : RegDef) (i : Nat) (v : Nat) (hk : Keeps cs s) :
    Keeps cs (State.storeReg s d i v) := by
  unfold State.storeReg
  try dsimp only
  repeat' (first | with_reducible assumption | with_reducible apply keep_wr | with_reducible apply keep_wr64 | with_reducible apply keeps_ite | with_reducible intro _)

theorem keep_storeAt {cs : List Instr} {s : State} (off : Nat) (v : Word) (hk : Keeps cs s) :
    Keeps cs (State.storeAt s off v) := by
  unfold State.storeAt
  try dsimp only
  repeat' (first | with_reducible assumption | with_reducible apply keep_storeReg | refine keeps_fst (by with_reducible assumption) ?_ | refine keeps_snd (by with_reducible assumption) ?_ | split | refine keeps_mk rfl rfl rfl rfl rfl rfl rfl rfl ?_)

end Sys2Proof.Machine
end

