-- ==== Sys2Proof/Laws/KeepsFan.lean ====
section
/-! SUPPORT. Every operation of Machine/Fan.lean keeps the machine's invariant and its queue. -/

namespace Sys2Proof.Machine

theorem keep_setFan {cs : List Instr} {s : State} (ref : Rat) (stalls : Nat) (stalled : Bool) (hk : Keeps cs s) :
    Keeps cs (State.setFan s ref stalls stalled) := by
  unfold State.setFan
  try dsimp only
  repeat' (first | with_reducible assumption | refine keeps_mk rfl rfl rfl rfl rfl rfl rfl rfl ?_)

theorem keep_overTemp {cs : List Instr} {s : State} (t : Int) (hk : Keeps cs s) :
    Keeps cs (State.overTemp s t) := by
  unfold State.overTemp
  try dsimp only
  repeat' (first | with_reducible assumption | with_reducible apply keep_log | with_reducible apply keeps_ite | with_reducible intro _ | refine keeps_mk rfl rfl rfl rfl rfl rfl rfl rfl ?_)

theorem keep_fanStep {cs : List Instr} {s : State} (t : Int) (hk : Keeps cs s) :
    Keeps cs (State.fanStep s t) := by
  unfold State.fanStep
  try dsimp only
  repeat' (first | with_reducible assumption | with_reducible apply keep_gatesOff | with_reducible apply keep_setFan | with_reducible apply keep_startAxis | with_reducible apply keep_tidyLoops | with_reducible apply keeps_ite | with_reducible intro _)

theorem keep_execFanCurveEval {cs : List Instr} {s : State} (die : Int) (ext : Int) (hk : Keeps cs s) :
    KeepsO cs (execFanCurveEval die ext s) := by
  unfold execFanCurveEval
  try dsimp only
  repeat' (first | with_reducible assumption | with_reducible apply keep_fanStep | with_reducible apply keep_overTemp | with_reducible apply keep_setF | with_reducible apply keepsO_next | with_reducible apply keeps_ite | with_reducible apply keepsO_ite | with_reducible intro _)

theorem keep_fanStall {cs : List Instr} {s : State}  (hk : Keeps cs s) :
    Keeps cs (State.fanStall s) := by
  unfold State.fanStall
  try dsimp only
  repeat' (first | with_reducible assumption | with_reducible apply keep_gatesOff | with_reducible apply keep_log | with_reducible apply keep_setFan | with_reducible apply keep_tidyLoops)

theorem keep_execFanStall {cs : List Instr} {s : State}  (hk : Keeps cs s) :
    KeepsO cs (execFanStall s) := by
  unfold execFanStall
  try dsimp only
  repeat' (first | with_reducible assumption | with_reducible apply keep_fanStall | with_reducible apply keepsO_next | with_reducible apply keeps_ite | with_reducible apply keepsO_ite | with_reducible intro _)

theorem keep_execFanRestart {cs : List Instr} {s : State} (t : Turning) (hk : Keeps cs s) :
    KeepsO cs (execFanRestart t s) := by
  unfold execFanRestart
  try dsimp only
  repeat' (first | with_reducible assumption | with_reducible apply keep_fanTurn | with_reducible apply keep_setFan | with_reducible apply keep_startAxis | with_reducible apply keepsO_next | with_reducible apply keeps_ite | with_reducible apply keepsO_ite | with_reducible intro _)

theorem keep_wFancfg {cs : List Instr} {s : State} (v : Word) (hk : Keeps cs s) :
    KeepsW cs (State.wFancfg s v) := by
  unfold State.wFancfg
  try dsimp only
  repeat' (first | with_reducible assumption | with_reducible apply keep_setFan | with_reducible apply keep_storeAt | with_reducible apply keepsW_ok | exact keepsW_refuse)

theorem keep_wFanpt {cs : List Instr} {s : State} (k : Nat) (v : Word) (hk : Keeps cs s) :
    KeepsW cs (State.wFanpt s k v) := by
  unfold State.wFanpt
  try dsimp only
  repeat' (first | with_reducible assumption | with_reducible apply keep_storeAt | with_reducible apply keeps_ite | with_reducible apply keepsW_ite | with_reducible apply keepsW_ok | exact keepsW_refuse | with_reducible intro _ | refine keeps_mk rfl rfl rfl rfl rfl rfl rfl rfl ?_)

end Sys2Proof.Machine
end

