-- ==== Sys2Proof/Laws/KeepsControl.lean ====
section
/-! SUPPORT. Every operation of Machine/Control.lean keeps the machine's invariant and its queue. -/

namespace Sys2Proof.Machine

theorem keep_flag {cs : List Instr} {s : State} (n : Nat) (b : Nat) (on : Bool) (hk : Keeps cs s) :
    Keeps cs (State.flag s n b on) := by
  unfold State.flag
  try dsimp only
  repeat' (first | with_reducible assumption | with_reducible apply keep_setF | with_reducible apply keeps_ite | with_reducible intro _)

theorem keep_setErr {cs : List Instr} {s : State} (n : Nat) (e : Int) (hk : Keeps cs s) :
    Keeps cs (State.setErr s n e) := by
  unfold State.setErr
  try dsimp only
  repeat' (first | with_reducible assumption | with_reducible apply keep_setF)

theorem keep_loopStart {cs : List Instr} {s : State} (n : Fin 9) (hk : Keeps cs s) :
    Keeps cs (State.loopStart s n) := by
  unfold State.loopStart
  try dsimp only
  repeat' (first | with_reducible assumption | with_reducible apply keep_setF | with_reducible apply keep_setLoop | with_reducible apply keeps_ite | with_reducible intro _ | refine keeps_mk rfl rfl rfl rfl rfl rfl rfl rfl ?_)

theorem keep_oscillates {cs : List Instr} {s : State} (n : Fin 9) (hk : Keeps cs s) :
    Keeps cs (State.oscillates s n) := by
  unfold State.oscillates
  try dsimp only
  repeat' (first | with_reducible assumption | with_reducible apply keep_beginStop | with_reducible apply keep_clearBins | with_reducible apply keep_cutMotion | with_reducible apply keep_endOps | with_reducible apply keep_fanStall | with_reducible apply keep_log | with_reducible apply keep_setF | with_reducible apply keep_setLoop | with_reducible apply keeps_ite | with_reducible intro _ | refine keeps_mk rfl rfl rfl rfl rfl rfl rfl rfl ?_)

theorem keep_detect {cs : List Instr} {s : State} (n : Fin 9) (e : Int) (hk : Keeps cs s) :
    Keeps cs (State.detect s n e) := by
  unfold State.detect
  try dsimp only
  repeat' (first | with_reducible assumption | with_reducible apply keep_oscillates | with_reducible apply keep_setLoop | with_reducible apply keeps_ite | with_reducible intro _ | refine keeps_mk rfl rfl rfl rfl rfl rfl rfl rfl ?_)

theorem keep_runPi {cs : List Instr} {s : State} (n : Fin 9) (jp : Nat) (ji : Nat) (jl : Nat) (e : Int) (f : Int) (hk : Keeps cs s) :
    Keeps cs (State.runPi s n jp ji jl e f) := by
  unfold State.runPi
  try dsimp only
  repeat' (first | with_reducible assumption | with_reducible apply keep_detect | with_reducible apply keep_flag | with_reducible apply keep_loopStart | with_reducible apply keep_setErr | with_reducible apply keep_setLoop | with_reducible apply keeps_ite | with_reducible intro _ | refine keeps_mk rfl rfl rfl rfl rfl rfl rfl rfl ?_)

theorem keep_execCurrentLoop {cs : List Instr} {s : State} (a : Fin 3) (hk : Keeps cs s) :
    KeepsO cs (execCurrentLoop a s) := by
  unfold execCurrentLoop
  try dsimp only
  repeat' (first | with_reducible assumption | with_reducible apply keep_detect | with_reducible apply keep_flag | with_reducible apply keep_hold | with_reducible apply keep_loopStart | with_reducible apply keep_setErr | with_reducible apply keep_setLoop | with_reducible apply keepsO_next | with_reducible apply keeps_ite | with_reducible apply keepsO_ite | with_reducible intro _ | refine keeps_fst (by with_reducible assumption) ?_ | refine keeps_snd (by with_reducible assumption) ?_ | split | refine keeps_mk rfl rfl rfl rfl rfl rfl rfl rfl ?_)

theorem keep_execCoilLoop {cs : List Instr} {s : State}  (hk : Keeps cs s) :
    KeepsO cs (execCoilLoop s) := by
  unfold execCoilLoop
  try dsimp only
  repeat' (first | with_reducible assumption | with_reducible apply keep_runPi | with_reducible apply keepsO_next | with_reducible apply keeps_ite | with_reducible apply keepsO_ite | with_reducible intro _ | refine keeps_mk rfl rfl rfl rfl rfl rfl rfl rfl ?_)

theorem keep_rcLearn {cs : List Instr} {s : State} (e : Int) (hk : Keeps cs s) :
    Keeps cs (State.rcLearn s e) := by
  unfold State.rcLearn
  try dsimp only
  repeat' (first | with_reducible assumption | with_reducible apply keep_flag | with_reducible apply keeps_ite | with_reducible intro _ | refine keeps_fst (by with_reducible assumption) ?_ | refine keeps_snd (by with_reducible assumption) ?_ | split | refine keeps_mk rfl rfl rfl rfl rfl rfl rfl rfl ?_)

theorem keep_latAuto {cs : List Instr} {s : State} (e : Int) (hk : Keeps cs s) :
    Keeps cs (State.latAuto s e) := by
  unfold State.latAuto
  try dsimp only
  repeat' (first | with_reducible assumption | with_reducible apply keep_detect | with_reducible apply keep_flag | with_reducible apply keep_rcLearn | with_reducible apply keep_setLoop | with_reducible apply keeps_ite | with_reducible intro _ | refine keeps_fst (by with_reducible assumption) ?_ | refine keeps_snd (by with_reducible assumption) ?_ | split | refine keeps_mk rfl rfl rfl rfl rfl rfl rfl rfl ?_)

theorem keep_execLatLoop {cs : List Instr} {s : State}  (hk : Keeps cs s) :
    KeepsO cs (execLatLoop s) := by
  unfold execLatLoop
  try dsimp only
  repeat' (first | with_reducible assumption | with_reducible apply keep_flag | with_reducible apply keep_fresh | with_reducible apply keep_latAuto | with_reducible apply keep_loopStart | with_reducible apply keep_setErr | with_reducible apply keep_setLoop | with_reducible apply keepsO_next | with_reducible apply keeps_ite | with_reducible apply keepsO_ite | with_reducible intro _ | refine keeps_mk rfl rfl rfl rfl rfl rfl rfl rfl ?_)

theorem keep_speedLoop {cs : List Instr} {s : State} (a : Fin 3) (vRef : Int) (dvRef : Int) (hk : Keeps cs s) :
    Keeps cs (State.speedLoop s a vRef dvRef) := by
  unfold State.speedLoop
  try dsimp only
  repeat' (first | with_reducible assumption | with_reducible apply keep_loopStart | with_reducible apply keep_runPi | with_reducible apply keeps_ite | with_reducible intro _ | refine keeps_mk rfl rfl rfl rfl rfl rfl rfl rfl ?_)

theorem keep_execReelSpeedLoop {cs : List Instr} {s : State}  (hk : Keeps cs s) :
    KeepsO cs (execReelSpeedLoop s) := by
  unfold execReelSpeedLoop
  try dsimp only
  repeat' (first | with_reducible assumption | with_reducible apply keep_speedLoop | with_reducible apply keepsO_next | with_reducible apply keeps_ite | with_reducible apply keepsO_ite | with_reducible intro _ | refine keeps_mk rfl rfl rfl rfl rfl rfl rfl rfl ?_)

theorem keep_execTensionLoop {cs : List Instr} {s : State}  (hk : Keeps cs s) :
    KeepsO cs (execTensionLoop s) := by
  unfold execTensionLoop
  try dsimp only
  repeat' (first | with_reducible assumption | with_reducible apply keep_flag | with_reducible apply keep_loopStart | with_reducible apply keep_runPi | with_reducible apply keep_setF | with_reducible apply keep_setLoop | with_reducible apply keepsO_next | with_reducible apply keeps_ite | with_reducible apply keepsO_ite | with_reducible intro _ | refine keeps_fst (by with_reducible assumption) ?_ | refine keeps_snd (by with_reducible assumption) ?_ | split | refine keeps_mk rfl rfl rfl rfl rfl rfl rfl rfl ?_)

theorem keep_execFanLoop {cs : List Instr} {s : State}  (hk : Keeps cs s) :
    KeepsO cs (execFanLoop s) := by
  unfold execFanLoop
  try dsimp only
  repeat' (first | with_reducible assumption | with_reducible apply keep_runPi | with_reducible apply keepsO_next | with_reducible apply keeps_ite | with_reducible apply keepsO_ite | with_reducible intro _ | refine keeps_mk rfl rfl rfl rfl rfl rfl rfl rfl ?_)

theorem keep_feed {cs : List Instr} {s : State} (x : Int) (y : Int) (z : Int) (hk : Keeps cs s) :
    Keeps cs (State.feed s x y z) := by
  unfold State.feed
  try dsimp only
  repeat' (first | with_reducible assumption | with_reducible apply keep_flag | refine keeps_mk rfl rfl rfl rfl rfl rfl rfl rfl ?_)

theorem keep_execAccelTransaction {cs : List Instr} {s : State} (bytes : List Byte) (hk : Keeps cs s) :
    KeepsO cs (execAccelTransaction bytes s) := by
  unfold execAccelTransaction
  try dsimp only
  repeat' (first | with_reducible assumption | with_reducible apply keep_count | with_reducible apply keep_emit | with_reducible apply keep_feed | with_reducible apply keep_log | with_reducible apply keep_setF | with_reducible apply keepsO_next | with_reducible apply keeps_ite | with_reducible apply keepsO_ite | with_reducible intro _ | refine keeps_mk rfl rfl rfl rfl rfl rfl rfl rfl ?_)

theorem keep_toCkm {cs : List Instr} {s : State} (src : Src) (off : Nat) (v : Word) (r : WRes) (hk : Keeps cs s) (hr : KeepsW cs r) :
    KeepsW cs (State.toCkm s src off v r) := by
  unfold State.toCkm
  try dsimp only
  repeat' (first | with_reducible assumption | with_reducible apply keeps_ite | with_reducible apply keepsW_ite | with_reducible apply keepsW_ok | exact keepsW_refuse | with_reducible intro _ | refine keeps_mk rfl rfl rfl rfl rfl rfl rfl rfl ?_)

theorem keep_wLctl {cs : List Instr} {s : State} (src : Src) (n : Fin 9) (v : Word) (hk : Keeps cs s) :
    KeepsW cs (State.wLctl s src n v) := by
  unfold State.wLctl
  try dsimp only
  repeat' (first | with_reducible assumption | with_reducible apply keep_overrideBy | with_reducible apply keep_setF | with_reducible apply keep_setLoop | with_reducible apply keeps_ite | with_reducible apply keepsW_ite | with_reducible apply keepsW_ok | exact keepsW_refuse | with_reducible intro _ | refine keeps_mk rfl rfl rfl rfl rfl rfl rfl rfl ?_)

theorem keep_execLoopBankRequest {cs : List Instr} {s : State} (src : Src) (n : Fin 9) (v : Word) (hk : Keeps cs s) :
    KeepsO cs (execLoopBankRequest src n v s) := by
  unfold execLoopBankRequest
  try dsimp only
  repeat' (first | with_reducible assumption | with_reducible apply keep_apply | with_reducible apply keep_pfDrop | with_reducible apply keep_toCkm | with_reducible apply keep_wLctl | with_reducible apply keepsO_next | with_reducible apply keeps_ite | with_reducible apply keepsO_ite | with_reducible apply keepsW_ite | with_reducible apply keepsW_ok | exact keepsW_refuse | with_reducible intro _ | split | refine keeps_mk rfl rfl rfl rfl rfl rfl rfl rfl ?_)

theorem keep_execLoopModeWrite {cs : List Instr} {s : State} (src : Src) (n : Fin 9) (v : Word) (hk : Keeps cs s) :
    KeepsO cs (execLoopModeWrite src n v s) := by
  unfold execLoopModeWrite
  try dsimp only
  repeat' (first | with_reducible assumption | with_reducible apply keep_apply | with_reducible apply keep_pfDrop | with_reducible apply keep_toCkm | with_reducible apply keep_wLctl | with_reducible apply keepsO_next | with_reducible apply keeps_ite | with_reducible apply keepsO_ite | with_reducible apply keepsW_ite | with_reducible apply keepsW_ok | exact keepsW_refuse | with_reducible intro _ | split | refine keeps_mk rfl rfl rfl rfl rfl rfl rfl rfl ?_)

theorem keep_wLman {cs : List Instr} {s : State} (src : Src) (n : Fin 9) (v : Word) (hk : Keeps cs s) :
    KeepsW cs (State.wLman s src n v) := by
  unfold State.wLman
  try dsimp only
  repeat' (first | with_reducible assumption | with_reducible apply keep_overrideBy | with_reducible apply keep_setF | with_reducible apply keeps_ite | with_reducible apply keepsW_ite | with_reducible apply keepsW_ok | exact keepsW_refuse | with_reducible intro _)

theorem keep_wCoef {cs : List Instr} {s : State} (bankB : Bool) (n : Fin 9) (slot : Fin 32) (shiftWord : Bool) (v : Word) (hk : Keeps cs s) :
    KeepsW cs (State.wCoef s bankB n slot shiftWord v) := by
  unfold State.wCoef
  try dsimp only
  repeat' (first | with_reducible assumption | with_reducible apply keep_setF | with_reducible apply keeps_ite | with_reducible apply keepsW_ite | with_reducible apply keepsW_ok | exact keepsW_refuse | with_reducible intro _ | refine keeps_fst (by with_reducible assumption) ?_ | refine keeps_snd (by with_reducible assumption) ?_ | refine keepsW_get (by with_reducible assumption) ?_ | exact keepsW_get rfl (by with_reducible assumption) | split | refine keeps_mk rfl rfl rfl rfl rfl rfl rfl rfl ?_)

theorem keep_execCoefficientWrite {cs : List Instr} {s : State} (src : Src) (bankB : Bool) (n : Fin 9) (slot : Fin 32) (shiftWord : Bool) (v : Word) (hk : Keeps cs s) :
    KeepsO cs (execCoefficientWrite src bankB n slot shiftWord v s) := by
  unfold execCoefficientWrite
  try dsimp only
  repeat' (first | with_reducible assumption | with_reducible apply keep_apply | with_reducible apply keep_pfDrop | with_reducible apply keep_toCkm | with_reducible apply keep_wCoef | with_reducible apply keepsO_next | with_reducible apply keeps_ite | with_reducible apply keepsO_ite | with_reducible apply keepsW_ite | with_reducible apply keepsW_ok | exact keepsW_refuse | with_reducible intro _ | split | refine keeps_mk rfl rfl rfl rfl rfl rfl rfl rfl ?_)

theorem keep_wRcctl {cs : List Instr} {s : State} (v : Word) (hk : Keeps cs s) :
    KeepsW cs (State.wRcctl s v) := by
  unfold State.wRcctl
  try dsimp only
  repeat' (first | with_reducible assumption | with_reducible apply keep_clearBins | with_reducible apply keep_storeAt | with_reducible apply keeps_ite | with_reducible apply keepsW_ite | with_reducible apply keepsW_ok | exact keepsW_refuse | with_reducible intro _)

theorem keep_execRcClear {cs : List Instr} {s : State} (src : Src) (v : Word) (hk : Keeps cs s) :
    KeepsO cs (execRcClear src v s) := by
  unfold execRcClear
  try dsimp only
  repeat' (first | with_reducible assumption | with_reducible apply keep_apply | with_reducible apply keep_pfDrop | with_reducible apply keep_toCkm | with_reducible apply keep_wRcctl | with_reducible apply keepsO_next | with_reducible apply keeps_ite | with_reducible apply keepsO_ite | with_reducible apply keepsW_ite | with_reducible apply keepsW_ok | exact keepsW_refuse | with_reducible intro _ | split | refine keeps_mk rfl rfl rfl rfl rfl rfl rfl rfl ?_)

theorem keep_wRadius {cs : List Instr} {s : State} (v : Word) (hk : Keeps cs s) :
    KeepsW cs (State.wRadius s v) := by
  unfold State.wRadius
  try dsimp only
  repeat' (first | with_reducible assumption | with_reducible apply keep_storeAt | with_reducible apply keeps_ite | with_reducible apply keepsW_ite | with_reducible apply keepsW_ok | exact keepsW_refuse | with_reducible intro _ | refine keeps_mk rfl rfl rfl rfl rfl rfl rfl rfl ?_)

theorem keep_execRadiusWrite {cs : List Instr} {s : State} (src : Src) (v : Word) (hk : Keeps cs s) :
    KeepsO cs (execRadiusWrite src v s) := by
  unfold execRadiusWrite
  try dsimp only
  repeat' (first | with_reducible assumption | with_reducible apply keep_apply | with_reducible apply keep_pfDrop | with_reducible apply keep_toCkm | with_reducible apply keep_wRadius | with_reducible apply keepsO_next | with_reducible apply keeps_ite | with_reducible apply keepsO_ite | with_reducible apply keepsW_ite | with_reducible apply keepsW_ok | exact keepsW_refuse | with_reducible intro _ | split | refine keeps_mk rfl rfl rfl rfl rfl rfl rfl rfl ?_)

theorem keep_wAcfg {cs : List Instr} {s : State} (v : Word) (hk : Keeps cs s) :
    KeepsW cs (State.wAcfg s v) := by
  unfold State.wAcfg
  try dsimp only
  repeat' (first | with_reducible assumption | with_reducible apply keep_storeAt | with_reducible apply keeps_ite | with_reducible apply keepsW_ite | with_reducible apply keepsW_ok | exact keepsW_refuse | with_reducible intro _ | refine keeps_mk rfl rfl rfl rfl rfl rfl rfl rfl ?_)

end Sys2Proof.Machine
end

