-- ==== Sys2Proof/Laws/KeepsServo.lean ====
section
/-! SUPPORT. Every operation of Machine/Servo.lean keeps the machine's invariant and its queue. -/

namespace Sys2Proof.Machine

theorem keep_openMove {cs : List Instr} {s : State} (old : Nat) (hk : Keeps cs s) :
    Keeps cs (State.openMove s old) := by
  unfold State.openMove
  try dsimp only
  repeat' (first | with_reducible assumption | with_reducible apply keep_setF | with_reducible apply keep_setLoop | with_reducible apply keeps_ite | with_reducible intro _ | refine keeps_mk rfl rfl rfl rfl rfl rfl rfl rfl ?_)

theorem keep_afterMove {cs : List Instr} {s : State}  (hk : Keeps cs s) :
    Keeps cs (State.afterMove s) := by
  unfold State.afterMove
  try dsimp only
  repeat' (first | with_reducible assumption | with_reducible apply keep_setF | with_reducible apply keep_setLoop | with_reducible apply keeps_ite | with_reducible intro _ | refine keeps_mk rfl rfl rfl rfl rfl rfl rfl rfl ?_)

theorem keep_moveEnds {cs : List Instr} {s : State} (valid : Bool) (v : Rat) (hk : Keeps cs s) :
    Keeps cs (State.moveEnds s valid v) := by
  unfold State.moveEnds
  try dsimp only
  repeat' (first | with_reducible assumption | with_reducible apply keep_afterMove | with_reducible apply keeps_ite | with_reducible intro _ | refine keeps_mk rfl rfl rfl rfl rfl rfl rfl rfl ?_)

theorem keep_bandFault {cs : List Instr} {s : State}  (hk : Keeps cs s) :
    Keeps cs (State.bandFault s) := by
  unfold State.bandFault
  try dsimp only
  repeat' (first | with_reducible assumption | with_reducible apply keep_beginStop | with_reducible apply keep_endOps | with_reducible apply keep_haltWrite | with_reducible apply keep_setCart | with_reducible apply keeps_ite | with_reducible intro _)

theorem keep_wrongBand {cs : List Instr} {s : State} (band : Nat) (hk : Keeps cs s) :
    Keeps cs (State.wrongBand s band) := by
  unfold State.wrongBand
  try dsimp only
  repeat' (first | with_reducible assumption | with_reducible apply keep_bandFault | with_reducible apply keep_log | with_reducible apply keep_openMove | with_reducible apply keep_setF | with_reducible apply keeps_ite | with_reducible intro _ | refine keeps_mk rfl rfl rfl rfl rfl rfl rfl rfl ?_)

theorem keep_goodWord {cs : List Instr} {s : State} (k : Fin 2) (w : Nat) (lpw : Nat) (hk : Keeps cs s) :
    Keeps cs (State.goodWord s k w lpw) := by
  unfold State.goodWord
  try dsimp only
  repeat' (first | with_reducible assumption | with_reducible apply keep_log | with_reducible apply keep_setF | with_reducible apply keep_wrongBand | with_reducible apply keeps_ite | with_reducible intro _ | refine keeps_fst (by with_reducible assumption) ?_ | refine keeps_snd (by with_reducible assumption) ?_ | split | refine keeps_mk rfl rfl rfl rfl rfl rfl rfl rfl ?_)

theorem keep_badWord {cs : List Instr} {s : State}  (hk : Keeps cs s) :
    Keeps cs (State.badWord s) := by
  unfold State.badWord
  try dsimp only
  repeat' (first | with_reducible assumption | with_reducible apply keep_count | with_reducible apply keep_setF | with_reducible apply keeps_ite | with_reducible intro _ | refine keeps_mk rfl rfl rfl rfl rfl rfl rfl rfl ?_)

theorem keep_takeSym {cs : List Instr} {s : State} (k : Fin 2) (y : Sym) (hk : Keeps cs s) :
    Keeps cs (State.takeSym s k y) := by
  unfold State.takeSym
  try dsimp only
  repeat' (first | with_reducible assumption | with_reducible apply keep_badWord | with_reducible apply keep_goodWord | refine keeps_fst (by with_reducible assumption) ?_ | refine keeps_snd (by with_reducible assumption) ?_ | split | refine keeps_mk rfl rfl rfl rfl rfl rfl rfl rfl ?_)

theorem keep_countLpw {cs : List Instr} {s : State} (v : Rat) (hk : Keeps cs s) :
    Keeps cs (State.countLpw s v) := by
  unfold State.countLpw
  try dsimp only
  repeat' (first | with_reducible assumption | with_reducible apply keep_setF | with_reducible apply keeps_ite | with_reducible intro _ | refine keeps_mk rfl rfl rfl rfl rfl rfl rfl rfl ?_)

theorem keep_setGate {cs : List Instr} {s : State} (wasOpen : Bool) (isOpen : Bool) (hk : Keeps cs s) :
    Keeps cs (State.setGate s wasOpen isOpen) := by
  unfold State.setGate
  try dsimp only
  repeat' (first | with_reducible assumption | with_reducible apply keep_count | with_reducible apply keep_cutInFlight | with_reducible apply keep_setF | with_reducible apply keeps_ite | with_reducible intro _)

theorem keep_trackCount {cs : List Instr} {s : State} (p0 : Option Rat) (p1 : Option Rat) (hk : Keeps cs s) :
    Keeps cs (State.trackCount s p0 p1) := by
  unfold State.trackCount
  try dsimp only
  repeat' (first | with_reducible assumption | with_reducible apply keeps_ite | with_reducible intro _ | refine keeps_mk rfl rfl rfl rfl rfl rfl rfl rfl ?_)

theorem keep_trackTo {cs : List Instr} {s : State} (st : Nat) (lpe : Int) (hk : Keeps cs s) :
    Keeps cs (State.trackTo s st lpe) := by
  unfold State.trackTo
  try dsimp only
  repeat' (first | with_reducible assumption | with_reducible apply keep_count | with_reducible apply keep_setF | with_reducible apply keeps_ite | with_reducible intro _ | refine keeps_mk rfl rfl rfl rfl rfl rfl rfl rfl ?_)

theorem keep_track {cs : List Instr} {s : State} (p0 : Option Rat) (p1 : Option Rat) (v : Rat) (hk : Keeps cs s) :
    Keeps cs (State.track s p0 p1 v) := by
  unfold State.track
  try dsimp only
  repeat' (first | with_reducible assumption | with_reducible apply keep_setF | with_reducible apply keep_trackCount | with_reducible apply keep_trackTo | with_reducible apply keeps_ite | with_reducible intro _)

theorem keep_servoIn {cs : List Instr} {s : State} (l0 : ServoRead) (l1 : ServoRead) (t0 : ServoRead) (t1 : ServoRead) (v : Rat) (hk : Keeps cs s) :
    Keeps cs (State.servoIn s l0 l1 t0 t1 v) := by
  unfold State.servoIn
  try dsimp only
  repeat' (first | with_reducible assumption | with_reducible apply keep_countLpw | with_reducible apply keep_moveEnds | with_reducible apply keep_setF | with_reducible apply keep_takeSym | with_reducible apply keep_track | with_reducible apply keeps_ite | with_reducible intro _ | split | refine keeps_mk rfl rfl rfl rfl rfl rfl rfl rfl ?_)

theorem keep_sendSample {cs : List Instr} {s : State} (stamp : DWord) (hk : Keeps cs s) :
    Keeps cs (State.sendSample s stamp) := by
  unfold State.sendSample
  try dsimp only
  repeat' (first | with_reducible assumption | with_reducible apply keep_drop | with_reducible apply keep_fresh | with_reducible apply keeps_ite | with_reducible intro _ | refine keeps_mk rfl rfl rfl rfl rfl rfl rfl rfl ?_)

theorem keep_servoGate {cs : List Instr} {s : State} (wasOpen : Bool) (v : Rat) (stamp : DWord) (hk : Keeps cs s) :
    Keeps cs (State.servoGate s wasOpen v stamp) := by
  unfold State.servoGate
  try dsimp only
  repeat' (first | with_reducible assumption | with_reducible apply keep_sendSample | with_reducible apply keep_setF | with_reducible apply keep_setGate | with_reducible apply keeps_ite | with_reducible intro _ | refine keeps_mk rfl rfl rfl rfl rfl rfl rfl rfl ?_)

theorem keep_execServoFrame {cs : List Instr} {s : State} (a0 : ServoRead) (a1 : ServoRead) (b0 : ServoRead) (b1 : ServoRead) (stamp : DWord) (hk : Keeps cs s) :
    KeepsO cs (execServoFrame a0 a1 b0 b1 stamp s) := by
  unfold execServoFrame
  try dsimp only
  repeat' (first | with_reducible assumption | with_reducible apply keep_headBalls | with_reducible apply keep_servoGate | with_reducible apply keep_servoIn | with_reducible apply keepsO_next | with_reducible apply keeps_ite | with_reducible apply keepsO_ite | with_reducible intro _ | refine keeps_mk rfl rfl rfl rfl rfl rfl rfl rfl ?_)

theorem keep_execServoLostTimeout {cs : List Instr} {s : State}  (hk : Keeps cs s) :
    KeepsO cs (execServoLostTimeout s) := by
  unfold execServoLostTimeout
  try dsimp only
  repeat' (first | with_reducible assumption | with_reducible apply keep_abandonDs | with_reducible apply keep_beginStop | with_reducible apply keep_endOps | with_reducible apply keep_log | with_reducible apply keep_stopWriting | with_reducible apply keepsO_next | with_reducible apply keeps_ite | with_reducible apply keepsO_ite | with_reducible intro _ | refine keeps_fst (by with_reducible assumption) ?_ | refine keeps_snd (by with_reducible assumption) ?_ | split | refine keeps_mk rfl rfl rfl rfl rfl rfl rfl rfl ?_)

theorem keep_execLpwokStopTimeout {cs : List Instr} {s : State}  (hk : Keeps cs s) :
    KeepsO cs (execLpwokStopTimeout s) := by
  unfold execLpwokStopTimeout
  try dsimp only
  repeat' (first | with_reducible assumption | with_reducible apply keep_setF | with_reducible apply keepsO_next | with_reducible apply keeps_ite | with_reducible apply keepsO_ite | with_reducible intro _)

theorem keep_setStep {cs : List Instr} {s : State} (n : Nat) (hk : Keeps cs s) :
    Keeps cs (State.setStep s n) := by
  unfold State.setStep
  try dsimp only
  repeat' (first | with_reducible assumption | with_reducible apply keep_setF | with_reducible apply keeps_ite | with_reducible intro _ | refine keeps_mk rfl rfl rfl rfl rfl rfl rfl rfl ?_)

theorem keep_stepChange {cs : List Instr} {s : State} (n : Nat) (ingest : Nat) (hk : Keeps cs s) :
    Keeps cs (State.stepChange s n ingest) := by
  unfold State.stepChange
  try dsimp only
  repeat' (first | with_reducible assumption | with_reducible apply keep_cause | with_reducible apply keep_eventAll | with_reducible apply keep_setStep | with_reducible apply keeps_ite | with_reducible intro _)

theorem keep_toTarget {cs : List Instr} {s : State} (t : Nat) (ingest : Nat) (hk : Keeps cs s) :
    Keeps cs (State.toTarget s t ingest) := by
  unfold State.toTarget
  try dsimp only
  repeat' (first | with_reducible assumption | with_reducible apply keep_setF | with_reducible apply keep_stepChange | with_reducible apply keeps_ite | with_reducible intro _ | refine keeps_mk rfl rfl rfl rfl rfl rfl rfl rfl ?_)

theorem keep_execSpeedEvaluation {cs : List Instr} {s : State}  (hk : Keeps cs s) :
    KeepsO cs (execSpeedEvaluation s) := by
  unfold execSpeedEvaluation
  try dsimp only
  repeat' (first | with_reducible assumption | with_reducible apply keep_setF | with_reducible apply keep_toTarget | with_reducible apply keepsO_next | with_reducible apply keeps_ite | with_reducible apply keepsO_ite | with_reducible intro _ | refine keeps_mk rfl rfl rfl rfl rfl rfl rfl rfl ?_)

theorem keep_turnDir {cs : List Instr} {s : State} (ix : Nat) (hk : Keeps cs s) :
    Keeps cs (State.turnDir s ix) := by
  unfold State.turnDir
  try dsimp only
  repeat' (first | with_reducible assumption | with_reducible apply keep_setF | with_reducible apply keeps_ite | with_reducible intro _ | refine keeps_mk rfl rfl rfl rfl rfl rfl rfl rfl ?_)

theorem keep_turnSyms {cs : List Instr} {s : State} (band : Bool) (hk : Keeps cs s) :
    Keeps cs (State.turnSyms s band) := by
  unfold State.turnSyms
  try dsimp only
  repeat' (first | with_reducible assumption | with_reducible apply keeps_ite | with_reducible intro _ | refine keeps_mk rfl rfl rfl rfl rfl rfl rfl rfl ?_)

theorem keep_turnTrack {cs : List Instr} {s : State} (hk : Keeps cs s) :
    Keeps cs (State.turnTrack s) := by
  unfold State.turnTrack
  try dsimp only
  repeat' (first | with_reducible assumption | with_reducible apply keep_setF | with_reducible apply keeps_ite | with_reducible intro _ | refine keeps_mk rfl rfl rfl rfl rfl rfl rfl rfl ?_)

theorem keep_turnTo {cs : List Instr} {s : State} (old : Nat) (ix : Nat) (hk : Keeps cs s) :
    Keeps cs (State.turnTo s old ix) := by
  unfold State.turnTo
  try dsimp only
  repeat' (first | with_reducible assumption | with_reducible apply keep_headTo | with_reducible apply keep_openMove | with_reducible apply keep_turnTrack | with_reducible apply keep_turnDir | with_reducible apply keep_turnSyms | with_reducible apply keeps_ite | with_reducible intro _ | refine keeps_mk rfl rfl rfl rfl rfl rfl rfl rfl ?_)

theorem keep_turnWrite {cs : List Instr} {s : State} (ix : Nat) (hk : Keeps cs s) :
    Keeps cs (State.turnWrite s ix) := by
  unfold State.turnWrite
  try dsimp only
  repeat' (first | with_reducible assumption | with_reducible apply keep_setF | with_reducible apply keep_toTarget | with_reducible apply keeps_ite | with_reducible intro _ | refine keeps_mk rfl rfl rfl rfl rfl rfl rfl rfl ?_)

theorem keep_execTurnaround {cs : List Instr} {s : State}  (hk : Keeps cs s) :
    KeepsO cs (execTurnaround s) := by
  unfold execTurnaround
  try dsimp only
  repeat' (first | with_reducible assumption | with_reducible apply keep_turnTo | with_reducible apply keep_turnWrite | with_reducible apply keepsO_next | with_reducible apply keeps_ite | with_reducible apply keepsO_ite | with_reducible intro _ | refine keeps_mk rfl rfl rfl rfl rfl rfl rfl rfl ?_)

theorem keep_hitchBehind {cs : List Instr} {s : State}  (hk : Keeps cs s) :
    Keeps cs (State.hitchBehind s) := by
  unfold State.hitchBehind
  try dsimp only
  repeat' (first | with_reducible assumption | with_reducible apply keep_hitchAt | with_reducible apply keeps_ite | with_reducible intro _ | refine keeps_mk rfl rfl rfl rfl rfl rfl rfl rfl ?_)

theorem keep_backhitch {cs : List Instr} {s : State}  (hk : Keeps cs s) :
    Keeps cs (State.backhitch s) := by
  unfold State.backhitch
  try dsimp only
  repeat' (first | with_reducible assumption | with_reducible apply keep_hitchRest | with_reducible apply keep_hitchBehind | with_reducible apply keeps_ite | with_reducible intro _ | refine keeps_mk rfl rfl rfl rfl rfl rfl rfl rfl ?_)

theorem keep_burstEnd {cs : List Instr} {s : State}  (hk : Keeps cs s) :
    Keeps cs (State.burstEnd s) := by
  unfold State.burstEnd
  try dsimp only
  repeat' (first | with_reducible assumption | with_reducible apply keep_backhitch | with_reducible apply keeps_ite | with_reducible intro _ | refine keeps_mk rfl rfl rfl rfl rfl rfl rfl rfl ?_)

theorem keep_execFrameWrite {cs : List Instr} {s : State} (ch : Chan) (hk : Keeps cs s) :
    KeepsO cs (execFrameWrite ch s) := by
  unfold execFrameWrite
  try dsimp only
  repeat' (first | with_reducible assumption | with_reducible apply keep_burstEnd | with_reducible apply keep_frameWrite | with_reducible apply keepsO_next | with_reducible apply keeps_ite | with_reducible apply keepsO_ite | with_reducible intro _ | refine keeps_mk rfl rfl rfl rfl rfl rfl rfl rfl ?_)

theorem keep_execGapTimeout {cs : List Instr} {s : State}  (hk : Keeps cs s) :
    KeepsO cs (execGapTimeout s) := by
  unfold execGapTimeout
  try dsimp only
  repeat' (first | with_reducible assumption | with_reducible apply keep_backhitch | with_reducible apply keepsO_next | with_reducible apply keeps_ite | with_reducible apply keepsO_ite | with_reducible intro _)

theorem keep_resumeAt {cs : List Instr} {s : State} (lpw : Nat) (hk : Keeps cs s) :
    Keeps cs (State.resumeAt s lpw) := by
  unfold State.resumeAt
  try dsimp only
  repeat' (first | with_reducible assumption | with_reducible apply keep_setF | with_reducible apply keep_setMode | with_reducible apply keep_tidyLoops | with_reducible apply keeps_ite | with_reducible intro _ | refine keeps_mk rfl rfl rfl rfl rfl rfl rfl rfl ?_)

theorem keep_resume {cs : List Instr} {s : State}  (hk : Keeps cs s) :
    Keeps cs (State.resume s) := by
  unfold State.resume
  try dsimp only
  repeat' (first | with_reducible assumption | with_reducible apply keep_resumeAt | with_reducible apply keep_draw | with_reducible apply keeps_ite | with_reducible intro _ | refine keeps_mk rfl rfl rfl rfl rfl rfl rfl rfl ?_)

theorem keep_resumeRead {cs : List Instr} {s : State}  (hk : Keeps cs s) :
    Keeps cs (State.resumeRead s) := by
  unfold State.resumeRead
  try dsimp only
  repeat' (first | with_reducible assumption | with_reducible apply keep_resumeAt | with_reducible apply keeps_ite | with_reducible intro _ | refine keeps_mk rfl rfl rfl rfl rfl rfl rfl rfl ?_)

theorem keep_execBackhitchResume {cs : List Instr} {s : State}  (hk : Keeps cs s) :
    KeepsO cs (execBackhitchResume s) := by
  unfold execBackhitchResume
  try dsimp only
  repeat' (first | with_reducible assumption | with_reducible apply keep_resumeRead | with_reducible apply keep_resume | with_reducible apply keepsO_next | with_reducible apply keeps_ite | with_reducible apply keepsO_ite | with_reducible intro _)

theorem keep_execPackBurstStart {cs : List Instr} {s : State}  (hk : Keeps cs s) :
    KeepsO cs (execPackBurstStart s) := by
  unfold execPackBurstStart
  try dsimp only
  repeat' (first | with_reducible assumption | with_reducible apply keep_resume | with_reducible apply keep_stepChange | with_reducible apply keepsO_next | with_reducible apply keeps_ite | with_reducible apply keepsO_ite | with_reducible intro _)

theorem keep_wSpd {cs : List Instr} {s : State} (src : Src) (v : Word) (hk : Keeps cs s) :
    KeepsW cs (State.wSpd s src v) := by
  unfold State.wSpd
  try dsimp only
  repeat' (first | with_reducible assumption | with_reducible apply keep_overrideBy | with_reducible apply keep_setF | with_reducible apply keep_setStep | with_reducible apply keep_storeAt | with_reducible apply keeps_ite | with_reducible apply keepsW_ite | with_reducible apply keepsW_ok | exact keepsW_refuse | with_reducible intro _)

end Sys2Proof.Machine
end

