-- ==== Sys2Proof/Laws/KeepsCartridge.lean ====
section
/-! SUPPORT. Every operation of Machine/Cartridge.lean keeps the machine's invariant and its queue. -/

namespace Sys2Proof.Machine

theorem keep_execLoad {cs : List Instr} {s : State} (ln : Ln) (c3 : Option Bool) (hk : Keeps cs s) :
    KeepsO cs (execLoad ln c3 s) := by
  unfold execLoad
  try dsimp only
  repeat' (first | with_reducible assumption | with_reducible apply keep_beginMove | with_reducible apply keep_clearBins | with_reducible apply keep_opCart | with_reducible apply keep_setCart | with_reducible apply keep_verb | with_reducible apply keepsO_next | with_reducible apply keeps_ite | with_reducible apply keepsO_ite | with_reducible apply keepsA_ite | with_reducible apply keepsA_ok | exact keepsA_er | with_reducible apply keepsA_fail | with_reducible intro _ | split | refine keeps_mk rfl rfl rfl rfl rfl rfl rfl rfl ?_)

theorem keep_beginSession {cs : List Instr} {s : State}  (hk : Keeps cs s) :
    Keeps cs (State.beginSession s) := by
  unfold State.beginSession
  try dsimp only
  repeat' (first | with_reducible assumption | with_reducible apply keeps_ite | with_reducible intro _ | refine keeps_mk rfl rfl rfl rfl rfl rfl rfl rfl ?_)

theorem keep_forgetNext {cs : List Instr} {s : State}  (hk : Keeps cs s) :
    Keeps cs (State.forgetNext s) := by
  unfold State.forgetNext
  try dsimp only
  repeat' (first | with_reducible assumption | refine keeps_mk rfl rfl rfl rfl rfl rfl rfl rfl ?_)

theorem keep_loaded {cs : List Instr} {s : State} (i : LoadInfo) (hk : Keeps cs s) :
    Keeps cs (State.loaded s i) := by
  unfold State.loaded
  try dsimp only
  repeat' (first | with_reducible assumption | with_reducible apply keep_beginSession | with_reducible apply keep_cartDone | with_reducible apply keep_endMotion | with_reducible apply keep_forgetNext | with_reducible apply keep_headTo | with_reducible apply keep_setCart | with_reducible apply keep_setF | refine keeps_mk rfl rfl rfl rfl rfl rfl rfl rfl ?_)

theorem keep_execLoadComplete {cs : List Instr} {s : State} (f : LoadFinding) (hk : Keeps cs s) :
    KeepsO cs (execLoadComplete f s) := by
  unfold execLoadComplete
  try dsimp only
  repeat' (first | with_reducible assumption | with_reducible apply keep_cartDone | with_reducible apply keep_endMotion | with_reducible apply keep_loaded | with_reducible apply keep_setCart | with_reducible apply keepsO_next | with_reducible apply keeps_ite | with_reducible apply keepsO_ite | with_reducible intro _ | refine keeps_fst (by with_reducible assumption) ?_ | refine keeps_snd (by with_reducible assumption) ?_ | split | refine keeps_mk rfl rfl rfl rfl rfl rfl rfl rfl ?_)

theorem keep_writeDir {cs : List Instr} {s : State} (b : Bool) (k : Nat) (hk : Keeps cs s) :
    Keeps cs (State.writeDir s b k) := by
  unfold State.writeDir
  try dsimp only
  repeat' (first | with_reducible assumption | with_reducible apply keep_gated | with_reducible apply keeps_ite | with_reducible intro _ | refine keeps_mk rfl rfl rfl rfl rfl rfl rfl rfl ?_)

theorem keep_writeDirs {cs : List Instr} {s : State}  (hk : Keeps cs s) :
    Keeps cs (State.writeDirs s) := by
  unfold State.writeDirs
  try dsimp only
  repeat' (first | with_reducible assumption | with_reducible apply keep_writeDir | with_reducible apply keeps_ite | with_reducible intro _ | refine keeps_mk rfl rfl rfl rfl rfl rfl rfl rfl ?_)

theorem keep_rewriteDirs {cs : List Instr} {s : State} (a b : Nat) (y1 : List Bool) (hk : Keeps cs s) :
    Keeps cs (State.rewriteDirs s a b y1) := by
  induction y1 generalizing s a b with
  | nil => exact hk
  | cons z l ih => cases z <;> exact ih _ _ (keep_writeDir _ _ hk)

theorem keep_takenOver {cs : List Instr} {s : State}  (hk : Keeps cs s) :
    Keeps cs (State.takenOver s) := by
  unfold State.takenOver
  try dsimp only
  repeat' (first | with_reducible assumption | with_reducible apply keep_endOps | with_reducible apply keep_opCart | with_reducible apply keep_opMotion | with_reducible apply keeps_ite | with_reducible intro _ | refine keeps_mk rfl rfl rfl rfl rfl rfl rfl rfl ?_)

theorem keep_execUnload {cs : List Instr} {s : State} (ln : Ln) (hk : Keeps cs s) :
    KeepsO cs (execUnload ln s) := by
  unfold execUnload
  try dsimp only
  repeat' (first | with_reducible assumption | with_reducible apply keep_beginMove | with_reducible apply keep_clearBins | with_reducible apply keep_opCart | with_reducible apply keep_setCart | with_reducible apply keep_takenOver | with_reducible apply keep_verb | with_reducible apply keep_writeDirs | with_reducible apply keepsO_next | with_reducible apply keeps_ite | with_reducible apply keepsO_ite | with_reducible apply keepsA_ite | with_reducible apply keepsA_ok | exact keepsA_er | with_reducible apply keepsA_fail | with_reducible intro _ | split | refine keeps_mk rfl rfl rfl rfl rfl rfl rfl rfl ?_)

theorem keep_execUnloadComplete {cs : List Instr} {s : State} (failed : List Bool) (hk : Keeps cs s) :
    KeepsO cs (execUnloadComplete failed s) := by
  unfold execUnloadComplete
  try dsimp only
  repeat' (first | with_reducible assumption | with_reducible apply keep_cartDone | with_reducible apply keep_endMotion | with_reducible apply keep_opCart | with_reducible apply keep_rewriteDirs | with_reducible apply keep_setCart | with_reducible apply keepsO_next | with_reducible apply keeps_ite | with_reducible apply keepsO_ite | with_reducible intro _ | refine keeps_mk rfl rfl rfl rfl rfl rfl rfl rfl ?_)

theorem keep_execCartQuery {cs : List Instr} {s : State} (ln : Ln) (hk : Keeps cs s) :
    KeepsO cs (execCartQuery ln s) := by
  unfold execCartQuery
  try dsimp only
  repeat' (first | with_reducible assumption | with_reducible apply keep_verb | with_reducible apply keepsO_next | with_reducible apply keepsA_ok | exact keepsA_er)

theorem keep_readUnits {cs : List Instr} {s : State} (k : Nat) (y1 : Nat) (y2 : List DumpRec) (hk : Keeps cs s) :
    Keeps cs (State.readUnits s k y1 y2).1 := by
  induction y2 generalizing s k y1 with
  | nil =>
    unfold State.readUnits; try dsimp only
    repeat' (first | with_reducible assumption | with_reducible apply keep_count | with_reducible apply keeps_ite | with_reducible apply keeps_fst_ite | with_reducible intro _ | refine keeps_fst (by with_reducible assumption) ?_ | refine keeps_snd (by with_reducible assumption) ?_ | split | refine keeps_mk rfl rfl rfl rfl rfl rfl rfl rfl ?_)
  | cons a l ih =>
    unfold State.readUnits; try dsimp only
    repeat' (first | with_reducible assumption | with_reducible apply ih | with_reducible apply keep_count | with_reducible apply keeps_ite | with_reducible apply keeps_fst_ite | with_reducible intro _ | refine keeps_fst (by with_reducible assumption) ?_ | refine keeps_snd (by with_reducible assumption) ?_ | split | refine keeps_mk rfl rfl rfl rfl rfl rfl rfl rfl ?_)

theorem keep_fixErrors {cs : List Instr} {s : State} (y1 : List DumpRec) (hk : Keeps cs s) :
    Keeps cs (State.fixErrors s y1) := by
  induction y1 generalizing s with
  | nil =>
    unfold State.fixErrors; try dsimp only
    repeat' (first | with_reducible assumption | with_reducible apply keep_log | with_reducible apply keeps_ite | with_reducible intro _ | split | refine keeps_mk rfl rfl rfl rfl rfl rfl rfl rfl ?_)
  | cons a l ih =>
    unfold State.fixErrors; try dsimp only
    repeat' (first | with_reducible assumption | with_reducible apply ih | with_reducible apply keep_log | with_reducible apply keeps_ite | with_reducible intro _ | split | refine keeps_mk rfl rfl rfl rfl rfl rfl rfl rfl ?_)

theorem keep_startReplay {cs : List Instr} {s : State}  (hk : Keeps cs s) :
    Keeps cs (State.startReplay s) := by
  unfold State.startReplay
  try dsimp only
  repeat' (first | with_reducible assumption | with_reducible apply keep_draw | with_reducible apply keep_fixErrors | with_reducible apply keep_readUnits | with_reducible apply keep_replayDone | with_reducible apply keep_writeCtl | with_reducible apply keeps_ite | with_reducible intro _ | refine keeps_fst (by with_reducible assumption) ?_ | refine keeps_snd (by with_reducible assumption) ?_ | split | refine keeps_mk rfl rfl rfl rfl rfl rfl rfl rfl ?_)

theorem keep_execRecordStart {cs : List Instr} {s : State} (ln : Ln) (hk : Keeps cs s) :
    KeepsO cs (execRecordStart ln s) := by
  unfold execRecordStart
  try dsimp only
  repeat' (first | with_reducible assumption | with_reducible apply keep_beginMove | with_reducible apply keep_headTo | with_reducible apply keep_opCart | with_reducible apply keep_startReplay | with_reducible apply keep_verb | with_reducible apply keepsO_next | with_reducible apply keeps_ite | with_reducible apply keepsO_ite | with_reducible apply keepsA_ite | with_reducible apply keepsA_ok | exact keepsA_er | with_reducible intro _ | refine keeps_fst (by with_reducible assumption) ?_ | refine keeps_snd (by with_reducible assumption) ?_ | refine keepsW_get (by with_reducible assumption) ?_ | exact keepsW_get rfl (by with_reducible assumption) | split | refine keeps_mk rfl rfl rfl rfl rfl rfl rfl rfl ?_)

theorem keep_execRecordStartComplete {cs : List Instr} {s : State}  (hk : Keeps cs s) :
    KeepsO cs (execRecordStartComplete s) := by
  unfold execRecordStartComplete
  try dsimp only
  repeat' (first | with_reducible assumption | with_reducible apply keep_cartDone | with_reducible apply keep_clkBack | with_reducible apply keep_opCart | with_reducible apply keep_setCart | with_reducible apply keep_setF | with_reducible apply keep_started | with_reducible apply keepsO_next | with_reducible apply keeps_ite | with_reducible apply keepsO_ite | with_reducible intro _ | refine keeps_mk rfl rfl rfl rfl rfl rfl rfl rfl ?_)

theorem keep_flushNow {cs : List Instr} {s : State}  (hk : Keeps cs s) :
    Keeps cs (State.flushNow s) := by
  unfold State.flushNow
  try dsimp only
  repeat' (first | with_reducible assumption | with_reducible apply keep_closeStripes | with_reducible apply keep_flushAll | with_reducible apply keep_flushClose | with_reducible apply keeps_ite | with_reducible intro _)

theorem keep_execRecordStop {cs : List Instr} {s : State} (ln : Ln) (hk : Keeps cs s) :
    KeepsO cs (execRecordStop ln s) := by
  unfold execRecordStop
  try dsimp only
  repeat' (first | with_reducible assumption | with_reducible apply keep_flushNow | with_reducible apply keep_opCart | with_reducible apply keep_verb | with_reducible apply keepsO_next | with_reducible apply keepsA_ok | exact keepsA_er | refine keeps_fst (by with_reducible assumption) ?_ | refine keeps_snd (by with_reducible assumption) ?_ | refine keepsW_get (by with_reducible assumption) ?_ | exact keepsW_get rfl (by with_reducible assumption) | split | refine keeps_mk rfl rfl rfl rfl rfl rfl rfl rfl ?_)

theorem keep_execRecordStopComplete {cs : List Instr} {s : State}  (hk : Keeps cs s) :
    KeepsO cs (execRecordStopComplete s) := by
  unfold execRecordStopComplete
  try dsimp only
  repeat' (first | with_reducible assumption | with_reducible apply keep_cartDone | with_reducible apply keep_endMotion | with_reducible apply keep_hitchBehind | with_reducible apply keep_opCart | with_reducible apply keep_setCart | with_reducible apply keepsO_next | with_reducible apply keeps_ite | with_reducible apply keepsO_ite | with_reducible intro _ | refine keeps_mk rfl rfl rfl rfl rfl rfl rfl rfl ?_)

theorem keep_execFlush {cs : List Instr} {s : State} (ln : Ln) (hk : Keeps cs s) :
    KeepsO cs (execFlush ln s) := by
  unfold execFlush
  try dsimp only
  repeat' (first | with_reducible assumption | with_reducible apply keep_closeStripes | with_reducible apply keep_flushNow | with_reducible apply keep_verb | with_reducible apply keepsO_next | with_reducible apply keeps_ite | with_reducible apply keepsO_ite | with_reducible apply keepsA_ite | with_reducible apply keepsA_ok | exact keepsA_er | with_reducible apply keepsA_fail | with_reducible intro _ | split | refine keeps_mk rfl rfl rfl rfl rfl rfl rfl rfl ?_)

theorem keep_seekTo {cs : List Instr} {s : State} (o : Move) (lpw : Nat) (step : Nat) (hk : Keeps cs s) :
    Keeps cs (State.seekTo s o lpw step) := by
  unfold State.seekTo
  try dsimp only
  repeat' (first | with_reducible assumption | with_reducible apply keep_beginMove)

theorem keep_opMotion {cs : List Instr} {s : State} (ln : Ln) (hk : Keeps cs s) :
    Keeps cs (State.opMotion s ln) := by
  unfold State.opMotion
  try dsimp only
  repeat' (first | with_reducible assumption | refine keeps_mk rfl rfl rfl rfl rfl rfl rfl rfl ?_)

theorem keep_motionDone {cs : List Instr} {s : State} (items : List Item) (hk : Keeps cs s) :
    Keeps cs (State.motionDone s items) := by
  unfold State.motionDone
  try dsimp only
  repeat' (first | with_reducible assumption | with_reducible apply keep_done | refine keeps_mk rfl rfl rfl rfl rfl rfl rfl rfl ?_)

theorem keep_startSeek {cs : List Instr} {s : State} (ds : Nat) (ix : Nat) (w : WrapEnt) (hk : Keeps cs s) :
    Keeps cs (State.startSeek s ds ix w) := by
  unfold State.startSeek
  try dsimp only
  repeat' (first | with_reducible assumption | with_reducible apply keep_headTo | with_reducible apply keep_seekTo | refine keeps_mk rfl rfl rfl rfl rfl rfl rfl rfl ?_)

theorem keep_execLocate {cs : List Instr} {s : State} (ln : Ln) (ds : Nat) (hk : Keeps cs s) :
    KeepsO cs (execLocate ln ds s) := by
  unfold execLocate
  try dsimp only
  repeat' (first | with_reducible assumption | with_reducible apply keep_motionDone | with_reducible apply keep_opMotion | with_reducible apply keep_startSeek | with_reducible apply keep_verb | with_reducible apply keepsO_next | with_reducible apply keeps_ite | with_reducible apply keepsO_ite | with_reducible apply keepsA_ite | with_reducible apply keepsA_ok | exact keepsA_er | with_reducible intro _ | refine keeps_fst (by with_reducible assumption) ?_ | refine keeps_snd (by with_reducible assumption) ?_ | refine keepsW_get (by with_reducible assumption) ?_ | exact keepsW_get rfl (by with_reducible assumption) | split | refine keeps_mk rfl rfl rfl rfl rfl rfl rfl rfl ?_)

theorem keep_execLocateLpw {cs : List Instr} {s : State} (ln : Ln) (x : Nat) (hk : Keeps cs s) :
    KeepsO cs (execLocateLpw ln x s) := by
  unfold execLocateLpw
  try dsimp only
  repeat' (first | with_reducible assumption | with_reducible apply keep_opMotion | with_reducible apply keep_seekTo | with_reducible apply keep_verb | with_reducible apply keepsO_next | with_reducible apply keeps_ite | with_reducible apply keepsO_ite | with_reducible apply keepsA_ite | with_reducible apply keepsA_ok | exact keepsA_er | with_reducible intro _ | refine keeps_fst (by with_reducible assumption) ?_ | refine keeps_snd (by with_reducible assumption) ?_ | refine keepsW_get (by with_reducible assumption) ?_ | exact keepsW_get rfl (by with_reducible assumption) | split | refine keeps_mk rfl rfl rfl rfl rfl rfl rfl rfl ?_)

theorem keep_execLocateProbe {cs : List Instr} {s : State} (dsRead : Nat) (hk : Keeps cs s) :
    KeepsO cs (execLocateProbe dsRead s) := by
  unfold execLocateProbe
  try dsimp only
  repeat' (first | with_reducible assumption | with_reducible apply keep_setF | with_reducible apply keepsO_next | with_reducible apply keeps_ite | with_reducible apply keepsO_ite | with_reducible intro _ | refine keeps_fst (by with_reducible assumption) ?_ | refine keeps_snd (by with_reducible assumption) ?_ | split | refine keeps_mk rfl rfl rfl rfl rfl rfl rfl rfl ?_)

theorem keep_locateDone {cs : List Instr} {s : State} (pos : Nat) (items : List Item) (hk : Keeps cs s) :
    Keeps cs (State.locateDone s pos items) := by
  unfold State.locateDone
  try dsimp only
  repeat' (first | with_reducible assumption | with_reducible apply keep_endMotion | with_reducible apply keep_forgetNext | with_reducible apply keep_motionDone | with_reducible apply keep_setF | refine keeps_mk rfl rfl rfl rfl rfl rfl rfl rfl ?_)

theorem keep_execLocateComplete {cs : List Instr} {s : State} (found : Bool) (ds : Option Nat) (lpw : Nat) (hk : Keeps cs s) :
    KeepsO cs (execLocateComplete found ds lpw s) := by
  unfold execLocateComplete
  try dsimp only
  repeat' (first | with_reducible assumption | with_reducible apply keep_locateDone | with_reducible apply keepsO_next | with_reducible apply keeps_ite | with_reducible apply keepsO_ite | with_reducible intro _ | refine keeps_fst (by with_reducible assumption) ?_ | refine keeps_snd (by with_reducible assumption) ?_ | split | refine keeps_mk rfl rfl rfl rfl rfl rfl rfl rfl ?_)

theorem keep_execCartInsert {cs : List Instr} {s : State} (id : List Char) (writeProtect : Bool) (blank : Bool) (c3 : Bool) (hk : Keeps cs s) :
    KeepsO cs (execCartInsert id writeProtect blank c3 s) := by
  unfold execCartInsert
  try dsimp only
  repeat' (first | with_reducible assumption | with_reducible apply keep_edge | with_reducible apply keep_setCart | with_reducible apply keepsO_next | with_reducible apply keeps_ite | with_reducible apply keepsO_ite | with_reducible intro _ | refine keeps_mk rfl rfl rfl rfl rfl rfl rfl rfl ?_)

theorem keep_execCartRemove {cs : List Instr} {s : State}  (hk : Keeps cs s) :
    KeepsO cs (execCartRemove s) := by
  unfold execCartRemove
  try dsimp only
  repeat' (first | with_reducible assumption | with_reducible apply keep_beginStop | with_reducible apply keep_endOps | with_reducible apply keep_failReads | with_reducible apply keep_haltWrite | with_reducible apply keep_setCart | with_reducible apply keepsO_next | with_reducible apply keeps_ite | with_reducible apply keepsO_ite | with_reducible intro _ | refine keeps_mk rfl rfl rfl rfl rfl rfl rfl rfl ?_)

end Sys2Proof.Machine
end

