-- ==== Sys2Proof/Laws/KeepsReset.lean ====
section
/-! SUPPORT. Every operation of Machine/Reset.lean keeps the machine's invariant and its queue. -/

namespace Sys2Proof.Machine

theorem keep_clkOf {cs : List Instr} {s : State} (d : Nat) (b : Bool) (hk : Keeps cs s) :
    Keeps cs (State.clkOf s d b) := by
  unfold State.clkOf
  try dsimp only
  repeat' (first | with_reducible assumption | with_reducible apply keep_setF | with_reducible apply keeps_ite | with_reducible intro _ | split | refine keeps_mk rfl rfl rfl rfl rfl rfl rfl rfl ?_)

theorem keep_dumpReads {cs : List Instr} {s : State} (y1 : List Rec) (hk : Keeps cs s) :
    Keeps cs (State.dumpReads s y1) := by
  induction y1 generalizing s with
  | nil =>
    unfold State.dumpReads; try dsimp only
    repeat' (first | with_reducible assumption | with_reducible apply keep_secded | with_reducible apply keeps_foldl | with_reducible apply keeps_ite | with_reducible apply keeps_fst_ite | with_reducible intro _ | split | refine keeps_mk rfl rfl rfl rfl rfl rfl rfl rfl ?_)
  | cons a l ih =>
    unfold State.dumpReads; try dsimp only
    repeat' (first | with_reducible assumption | with_reducible apply ih | with_reducible apply keep_secded | with_reducible apply keeps_foldl | with_reducible apply keeps_ite | with_reducible apply keeps_fst_ite | with_reducible intro _ | split | refine keeps_mk rfl rfl rfl rfl rfl rfl rfl rfl ?_)

theorem keep_preserve {cs : List Instr} {s : State} (inRegion : Rec → Bool) (hk : Keeps cs s) :
    Keeps cs (State.preserve s inRegion) := by
  unfold State.preserve
  try dsimp only
  repeat' (first | with_reducible assumption | with_reducible apply keep_abort | with_reducible apply keep_dumpReads | with_reducible apply keep_freePagesOf | with_reducible apply keep_writeCtl | with_reducible apply keep_writeDump | with_reducible apply keeps_ite | with_reducible intro _ | refine keeps_mk rfl rfl rfl rfl rfl rfl rfl rfl ?_)

theorem keep_scanJournal {cs : List Instr} {s : State}  (hk : Keeps cs s) :
    Keeps cs (State.scanJournal s) := by
  unfold State.scanJournal
  try dsimp only
  repeat' (first | with_reducible assumption | with_reducible apply keeps_ite | with_reducible apply keeps_fst_ite | with_reducible intro _ | refine keeps_mk rfl rfl rfl rfl rfl rfl rfl rfl ?_)

theorem keep_endSessions {cs : List Instr} {s : State} (why : String) (y1 : List Sid) (hk : Keeps cs s) :
    Keeps cs (State.endSessions s why y1) := by
  induction y1 generalizing s why with
  | nil =>
    unfold State.endSessions; try dsimp only
    repeat' (first | with_reducible assumption | with_reducible apply ih | with_reducible apply keep_emit | with_reducible apply keep_endSession | with_reducible apply keeps_ite | with_reducible intro _)
  | cons a l ih =>
    unfold State.endSessions; try dsimp only
    repeat' (first | with_reducible assumption | with_reducible apply ih | with_reducible apply keep_emit | with_reducible apply keep_endSession | with_reducible apply keeps_ite | with_reducible intro _)

theorem keep_drtGone {cs : List Instr} {s : State} (y1 : List Drt) (hk : Keeps cs s) :
    Keeps cs (State.drtGone s y1) := by
  induction y1 generalizing s with
  | nil =>
    unfold State.drtGone; try dsimp only
    repeat' (first | with_reducible assumption | with_reducible apply ih | with_reducible apply keep_drtFree)
  | cons a l ih =>
    unfold State.drtGone; try dsimp only
    repeat' (first | with_reducible assumption | with_reducible apply ih | with_reducible apply keep_drtFree)

theorem keep_portsDown {cs : List Instr} {s : State} (y1 : List PortNo) (hk : Keeps cs s) :
    Keeps cs (State.portsDown s y1) := by
  induction y1 generalizing s with
  | nil =>
    unfold State.portsDown; try dsimp only
    repeat' (first | with_reducible assumption | with_reducible apply ih | with_reducible apply keep_portDown | with_reducible apply keeps_ite | with_reducible intro _)
  | cons a l ih =>
    unfold State.portsDown; try dsimp only
    repeat' (first | with_reducible assumption | with_reducible apply ih | with_reducible apply keep_portDown | with_reducible apply keeps_ite | with_reducible intro _)

theorem keep_markReset {cs : List Instr} {s : State} (y1 : List PortNo) (hk : Keeps cs s) :
    Keeps cs (State.markReset s y1) := by
  induction y1 generalizing s with
  | nil =>
    unfold State.markReset; try dsimp only
    repeat' (first | with_reducible assumption | with_reducible apply ih | with_reducible apply keep_setF)
  | cons a l ih =>
    unfold State.markReset; try dsimp only
    repeat' (first | with_reducible assumption | with_reducible apply ih | with_reducible apply keep_setF)

theorem keep_resetBut {cs : List Instr} {s : State} (lo : Nat) (hi : Nat) (keep : List Nat) (hk : Keeps cs s) :
    Keeps cs (State.resetBut s lo hi keep) := by
  unfold State.resetBut
  try dsimp only
  repeat' (first | with_reducible assumption | with_reducible apply keep_resetRange | with_reducible apply keep_wr | with_reducible apply keeps_foldl | with_reducible intro _)

theorem keep_setMacs {cs : List Instr} {s : State}  (hk : Keeps cs s) :
    Keeps cs (State.setMacs s) := by
  unfold State.setMacs
  try dsimp only
  repeat' (first | with_reducible assumption | with_reducible apply keep_wr64)

theorem keep_stopTape {cs : List Instr} {s : State}  (hk : Keeps cs s) :
    Keeps cs (State.stopTape s) := by
  unfold State.stopTape
  try dsimp only
  repeat' (first | with_reducible assumption | with_reducible apply keep_endMotion | with_reducible apply keep_endOps | with_reducible apply keep_failReads | with_reducible apply keep_haltWrite | with_reducible apply keepsA_fail)

theorem keep_reload {cs : List Instr} {s : State}  (hk : Keeps cs s) :
    Keeps cs (State.reload s) := by
  unfold State.reload
  try dsimp only
  repeat' (first | with_reducible assumption | with_reducible apply keep_beginMove | with_reducible apply keep_setCart | with_reducible apply keeps_ite | with_reducible intro _ | refine keeps_mk rfl rfl rfl rfl rfl rfl rfl rfl ?_)

theorem keep_latchPins {cs : List Instr} {s : State} (y1 : List MUnit) (hk : Keeps cs s) :
    Keeps cs (State.latchPins s y1) := by
  induction y1 generalizing s with
  | nil =>
    unfold State.latchPins; try dsimp only
    repeat' (first | with_reducible assumption | with_reducible apply ih | with_reducible apply keep_trip | with_reducible apply keeps_ite | with_reducible intro _)
  | cons a l ih =>
    unfold State.latchPins; try dsimp only
    repeat' (first | with_reducible assumption | with_reducible apply ih | with_reducible apply keep_trip | with_reducible apply keeps_ite | with_reducible intro _)

theorem keep_resetHost {cs : List Instr} {s : State}  (hk : Keeps cs s) :
    Keeps cs (State.resetHost s) := by
  unfold State.resetHost
  try dsimp only
  repeat' (first | with_reducible assumption | with_reducible apply keep_clearVf | with_reducible apply keep_flrs | with_reducible apply keep_linkTrain | with_reducible apply keep_resetRange | with_reducible apply keeps_ite | with_reducible intro _ | refine keeps_mk rfl rfl rfl rfl rfl rfl rfl rfl ?_)

theorem keep_resetNet {cs : List Instr} {s : State} (ordered : Bool) (hk : Keeps cs s) :
    Keeps cs (State.resetNet s ordered) := by
  unfold State.resetNet
  try dsimp only
  repeat' (first | with_reducible assumption | with_reducible apply keep_clkOf | with_reducible apply keep_drtGone | with_reducible apply keep_emit | with_reducible apply keep_endSessions | with_reducible apply keep_resetBut | with_reducible apply keep_setF | with_reducible apply keep_setMacs | with_reducible apply keeps_ite | with_reducible intro _ | refine keeps_mk rfl rfl rfl rfl rfl rfl rfl rfl ?_)

theorem keep_codecOk {cs : List Instr} {s : State}  (hk : Keeps cs s) :
    Keeps cs (State.codecOk s) := by
  unfold State.codecOk
  try dsimp only
  repeat' (first | with_reducible assumption | refine keeps_mk rfl rfl rfl rfl rfl rfl rfl rfl ?_)

theorem keep_t2Again {cs : List Instr} {s : State} (no : Nat) (y1 : List Nat) (hk : Keeps cs s) :
    Keeps cs (State.t2Again s no y1) := by
  induction y1 generalizing s no with
  | nil =>
    unfold State.t2Again; try dsimp only
    repeat' (first | with_reducible assumption | with_reducible apply keep_log | with_reducible apply keep_setEng | with_reducible apply keep_setEnl | with_reducible apply keeps_ite | with_reducible intro _ | split | refine keeps_mk rfl rfl rfl rfl rfl rfl rfl rfl ?_)
  | cons a l ih =>
    unfold State.t2Again; try dsimp only
    repeat' (first | with_reducible assumption | with_reducible apply ih | with_reducible apply keep_log | with_reducible apply keep_setEng | with_reducible apply keep_setEnl | with_reducible apply keeps_ite | with_reducible intro _ | split | refine keeps_mk rfl rfl rfl rfl rfl rfl rfl rfl ?_)

theorem keep_t2Run {cs : List Instr} {s : State}  (hk : Keeps cs s) :
    Keeps cs (State.t2Run s) := by
  unfold State.t2Run
  try dsimp only
  repeat' (first | with_reducible assumption | with_reducible apply keep_draw | with_reducible apply keep_t2Again | with_reducible apply keeps_ite | with_reducible intro _ | refine keeps_mk rfl rfl rfl rfl rfl rfl rfl rfl ?_)

theorem keep_resetCodec {cs : List Instr} {s : State}  (hk : Keeps cs s) :
    Keeps cs (State.resetCodec s) := by
  unfold State.resetCodec
  try dsimp only
  repeat' (first | with_reducible assumption | with_reducible apply keep_dropCodecTest | with_reducible apply keep_resetRange | with_reducible apply keep_restartCodec | with_reducible apply keep_settle | with_reducible apply keep_t2Run | with_reducible apply keeps_ite | with_reducible intro _ | refine keeps_mk rfl rfl rfl rfl rfl rfl rfl rfl ?_)

theorem keep_resetFormat {cs : List Instr} {s : State}  (hk : Keeps cs s) :
    Keeps cs (State.resetFormat s) := by
  unfold State.resetFormat
  try dsimp only
  repeat' (first | with_reducible assumption | with_reducible apply keep_resetRange | with_reducible apply keeps_ite | with_reducible intro _ | refine keeps_mk rfl rfl rfl rfl rfl rfl rfl rfl ?_)

theorem keep_resetChannel {cs : List Instr} {s : State}  (hk : Keeps cs s) :
    Keeps cs (State.resetChannel s) := by
  unfold State.resetChannel
  try dsimp only
  repeat' (first | with_reducible assumption | with_reducible apply keep_dropProof | with_reducible apply keep_resetRange | with_reducible apply keeps_ite | with_reducible intro _ | refine keeps_mk rfl rfl rfl rfl rfl rfl rfl rfl ?_)

theorem keep_resetMotion {cs : List Instr} {s : State}  (hk : Keeps cs s) :
    Keeps cs (State.resetMotion s) := by
  unfold State.resetMotion
  try dsimp only
  repeat' (first | with_reducible assumption | with_reducible apply keep_gatesOff | with_reducible apply keep_gatesZero | with_reducible apply keep_latchPins | with_reducible apply keep_refreshMot | with_reducible apply keep_resetRange | with_reducible apply keeps_ite | with_reducible intro _ | refine keeps_mk rfl rfl rfl rfl rfl rfl rfl rfl ?_)

theorem keep_fence {cs : List Instr} {s : State} (bank : Nat) (hk : Keeps cs s) :
    Keeps cs (State.fence s bank) := by
  unfold State.fence
  try dsimp only
  repeat' (first | with_reducible assumption | with_reducible apply keep_log | with_reducible apply keeps_ite | with_reducible intro _ | refine keeps_mk rfl rfl rfl rfl rfl rfl rfl rfl ?_)

theorem keep_spareRow {cs : List Instr} {s : State} (bank : Nat) (row : Nat) (hk : Keeps cs s) :
    Keeps cs (State.spareRow s bank row).1 := by
  unfold State.spareRow
  try dsimp only
  repeat' (first | with_reducible assumption | with_reducible apply keep_fence | with_reducible apply keeps_ite | with_reducible apply keeps_fst_ite | with_reducible intro _ | split | refine keeps_mk rfl rfl rfl rfl rfl rfl rfl rfl ?_)

theorem keep_t1Again {cs : List Instr} {s : State} (d : Nat) (y1 : List (Fin 64 × Fin 512)) (y2 : List Nat) (hk : Keeps cs s) :
    Keeps cs (State.t1Again s d y1 y2) := by
  induction y1 generalizing s d y2 with
  | nil =>
    unfold State.t1Again; try dsimp only
    repeat' (first | with_reducible assumption | with_reducible apply keep_log | with_reducible apply keep_spareRow | with_reducible apply keeps_ite | with_reducible apply keeps_fst_ite | with_reducible intro _ | split | refine keeps_mk rfl rfl rfl rfl rfl rfl rfl rfl ?_)
  | cons a l ih =>
    unfold State.t1Again; try dsimp only
    repeat' (first | with_reducible assumption | with_reducible apply ih | with_reducible apply keep_log | with_reducible apply keep_spareRow | with_reducible apply keeps_ite | with_reducible apply keeps_fst_ite | with_reducible intro _ | split | refine keeps_mk rfl rfl rfl rfl rfl rfl rfl rfl ?_)

theorem keep_t1Run {cs : List Instr} {s : State} (d : Nat) (hk : Keeps cs s) :
    Keeps cs (State.t1Run s d) := by
  unfold State.t1Run
  try dsimp only
  repeat' (first | with_reducible assumption | with_reducible apply keep_draw | with_reducible apply keep_t1Again | with_reducible apply keeps_ite | with_reducible intro _ | refine keeps_mk rfl rfl rfl rfl rfl rfl rfl rfl ?_)

/-- The Tank's contents and pages in use may only shrink. -/
theorem keeps_tnk {cs : List Instr} {s : State} {m : List (Nat × Byte)} {x : Tnk} (hm : Memory.wf m = true) (hu : x.used.Sublist s.tnk.used) (hk : Keeps cs s) :
    Keeps cs { s with tank := m, tnk := x } :=
  { hk with
    tank := hm
    pages := fun p hp => hk.pages p (hu.subset hp)
    nodup := hk.nodup.sublist hu }

theorem keep_clearHalf {cs : List Instr} {s : State} (d : Nat) (hk : Keeps cs s) : Keeps cs (State.clearHalf s d) := by
  unfold State.clearHalf
  refine keep_resetRange _ _ (keeps_ite (fun _ => ?_) (fun _ => ?_))
  · exact keeps_mk rfl rfl rfl rfl rfl rfl rfl rfl (keeps_tnk (wf_filter _ hk.tank) List.filter_sublist hk)
  · exact keeps_tnk (wf_filter _ hk.tank) List.filter_sublist hk

theorem keep_clearQueues {cs : List Instr} {s : State}  (hk : Keeps cs s) :
    Keeps cs (State.clearQueues s) := by
  unfold State.clearQueues
  try dsimp only
  repeat' (first | with_reducible assumption | with_reducible apply keep_drtResetAll | with_reducible apply keep_resetRange | refine keeps_mk rfl rfl rfl rfl rfl rfl rfl rfl ?_)

theorem keep_replayNow {cs : List Instr} {s : State} (writing : Bool) (hk : Keeps cs s) :
    Keeps cs (State.replayNow s writing) := by
  unfold State.replayNow
  try dsimp only
  repeat' (first | with_reducible assumption | with_reducible apply keep_startReplay | with_reducible apply keeps_ite | with_reducible intro _)

theorem keep_dropBlocks {cs : List Instr} {s : State}  (hk : Keeps cs s) :
    Keeps cs (State.dropBlocks s) := by
  unfold State.dropBlocks
  try dsimp only
  repeat' (first | with_reducible assumption | refine keeps_mk rfl rfl rfl rfl rfl rfl rfl rfl ?_)

theorem keep_resetTank {cs : List Instr} {s : State} (d : Nat) (hk : Keeps cs s) :
    Keeps cs (State.resetTank s d) := by
  unfold State.resetTank
  try dsimp only
  repeat' (first | with_reducible assumption | with_reducible apply keep_clearHalf | with_reducible apply keep_clearQueues | with_reducible apply keep_dropBlocks | with_reducible apply keep_groupLost | with_reducible apply keep_haltWrite | with_reducible apply keep_portsDown | with_reducible apply keep_preserve | with_reducible apply keep_replayNow | with_reducible apply keep_scanJournal | with_reducible apply keep_t1Run | with_reducible apply keeps_ite | with_reducible intro _ | refine keeps_mk rfl rfl rfl rfl rfl rfl rfl rfl ?_)

theorem keep_resetLink {cs : List Instr} {s : State}  (hk : Keeps cs s) :
    Keeps cs (State.resetLink s) := by
  unfold State.resetLink
  try dsimp only
  repeat' (first | with_reducible assumption | with_reducible apply keep_freePagesOf | with_reducible apply keep_markReset | with_reducible apply keep_portsDown | with_reducible apply keep_resetBut | with_reducible apply keep_setF | refine keeps_mk rfl rfl rfl rfl rfl rfl rfl rfl ?_)

theorem keep_resetDomain {cs : List Instr} {s : State} (d : Nat) (ordered : Bool) (hk : Keeps cs s) :
    Keeps cs (State.resetDomain s d ordered) := by
  unfold State.resetDomain
  try dsimp only
  repeat' (first | with_reducible assumption | with_reducible apply keep_resetChannel | with_reducible apply keep_resetCodec | with_reducible apply keep_resetFormat | with_reducible apply keep_resetHost | with_reducible apply keep_resetLink | with_reducible apply keep_resetMotion | with_reducible apply keep_resetNet | with_reducible apply keep_resetTank | refine keeps_fst (by with_reducible assumption) ?_ | refine keeps_snd (by with_reducible assumption) ?_ | split | refine keeps_mk rfl rfl rfl rfl rfl rfl rfl rfl ?_)

theorem keep_domReset {cs : List Instr} {s : State} (d : Nat) (ordered : Bool) (hk : Keeps cs s) :
    Keeps cs (State.domReset s d ordered) := by
  unfold State.domReset
  try dsimp only
  repeat' (first | with_reducible assumption | with_reducible apply keep_dropBootTest | with_reducible apply keep_flush | with_reducible apply keep_reload | with_reducible apply keep_resetDomain | with_reducible apply keep_stopTape | with_reducible apply keeps_ite | with_reducible intro _ | refine keeps_mk rfl rfl rfl rfl rfl rfl rfl rfl ?_)

theorem keep_warmRegs {cs : List Instr} {s : State} (keep : Bool) (cascade : Bool) (wdog : Bool) (hk : Keeps cs s) :
    Keeps cs (State.warmRegs s keep cascade wdog) := by
  unfold State.warmRegs
  try dsimp only
  repeat' (first | with_reducible assumption | with_reducible apply keep_resetBut | with_reducible apply keep_setF | with_reducible apply keep_setMacs | with_reducible apply keep_wr | with_reducible apply keeps_ite | with_reducible intro _)

theorem keep_warmBlocks {cs : List Instr} {s : State} (keep : Bool) (cascade : Bool) (hk : Keeps cs s) : Keeps cs (State.warmBlocks s keep cascade) where
  pending := hk.pending
  regs := hk.regs
  tank := by cases keep; exacts [rfl, hk.tank]
  spd := rfl
  ret := hk.ret
  pages := by cases keep; exacts [by simp [State.warmBlocks, State.tnkAfterWarm, Tnk.reset], fun p hp => hk.pages p (List.mem_of_mem_filter hp)]
  nodup := by cases keep; exacts [List.nodup_nil, hk.nodup.filter _]
  log := hk.log
  evq := reset_evq

theorem keep_warm {cs : List Instr} {s : State} (keep : Bool) (cascade : Bool) (wdog : Bool) (hk : Keeps cs s) :
    Keeps cs (State.warm s keep cascade wdog) := by
  unfold State.warm
  try dsimp only
  repeat' (first | with_reducible assumption | with_reducible apply keep_clkOf | with_reducible apply keep_drtGone | with_reducible apply keep_emit | with_reducible apply keep_endSessions | with_reducible apply keep_failReads | with_reducible apply keep_flush | with_reducible apply keep_freePagesOf | with_reducible apply keep_groupLost | with_reducible apply keep_haltWrite | with_reducible apply keep_markReset | with_reducible apply keep_portsDown | with_reducible apply keep_preserve | with_reducible apply keep_warmBlocks | with_reducible apply keep_warmRegs | with_reducible apply keeps_ite | with_reducible intro _ | refine keeps_mk rfl rfl rfl rfl rfl rfl rfl rfl ?_)

/-- A machine with the memories, the log and the sessions of reset. -/
theorem keeps_afresh {cs : List Instr} {t : State} (hp : t.pending = cs) (hr : t.regs = []) (ht : t.tank = []) (hs : t.spd.mem = []) (hw : t.pw.ret = []) (hu : t.tnk.used = [])
    (he : t.err.recs = []) (hc : t.con = Console.reset) : Keeps cs t where
  pending := hp
  regs := by rw [hr]; rfl
  tank := by rw [ht]; rfl
  spd := by rw [hs]; rfl
  ret := by rw [hw]; rfl
  pages := by simp [hu]
  nodup := by simp [hu]
  log := by simp [he]
  evq := by rw [hc]; exact reset_evq

theorem keep_por {cs : List Instr} {s : State} (hk : Keeps cs s) : Keeps cs (State.por s) := by
  unfold State.por
  exact keep_gatesZero (keep_headBalls (keeps_afresh hk.pending rfl rfl rfl rfl rfl rfl rfl))

end Sys2Proof.Machine
end

