-- ==== Sys2Proof/Laws/KeepsBoot.lean ====
section
/-! SUPPORT. Every operation of Machine/Boot.lean keeps the machine's invariant and its queue. -/

namespace Sys2Proof.Machine

theorem keep_porKeep {cs : List Instr} {s : State}  (hk : Keeps cs s) :
    Keeps cs (State.porKeep s) := by
  unfold State.porKeep
  try dsimp only
  repeat' (first | with_reducible assumption | with_reducible apply keep_por | refine keeps_mk rfl rfl rfl rfl rfl rfl rfl rfl ?_)

theorem keep_startUp {cs : List Instr} {s : State}  (hk : Keeps cs s) :
    Keeps cs (State.startUp s) := by
  unfold State.startUp
  try dsimp only
  repeat' (first | with_reducible assumption | with_reducible apply keep_emit | with_reducible apply keep_setF | with_reducible apply keeps_ite | with_reducible intro _ | refine keeps_mk rfl rfl rfl rfl rfl rfl rfl rfl ?_)

theorem keep_execPwrgdRise {cs : List Instr} {s : State} (master : Bool) (testEn : Bool) (vsel : BitVec 3) (hk : Keeps cs s) :
    KeepsO cs (execPwrgdRise master testEn vsel s) := by
  unfold execPwrgdRise
  try dsimp only
  repeat' (first | with_reducible assumption | with_reducible apply keep_por | with_reducible apply keep_startUp | with_reducible apply keepsO_next | with_reducible apply keeps_ite | with_reducible apply keepsO_ite | with_reducible intro _ | refine keeps_mk rfl rfl rfl rfl rfl rfl rfl rfl ?_)

theorem keep_execPwrgdFall {cs : List Instr} {s : State}  (hk : Keeps cs s) :
    KeepsO cs (execPwrgdFall s) := by
  unfold execPwrgdFall
  try dsimp only
  repeat' (first | with_reducible assumption | with_reducible apply keep_por | with_reducible apply keepsO_next | refine keeps_mk rfl rfl rfl rfl rfl rfl rfl rfl ?_)

theorem keep_execSupplyMonitorReset {cs : List Instr} {s : State} (below : Bool) (hk : Keeps cs s) :
    KeepsO cs (execSupplyMonitorReset below s) := by
  unfold execSupplyMonitorReset
  try dsimp only
  repeat' (first | with_reducible assumption | with_reducible apply keep_porKeep | with_reducible apply keep_startUp | with_reducible apply keepsO_next | with_reducible apply keeps_ite | with_reducible apply keepsO_ite | with_reducible intro _ | refine keeps_mk rfl rfl rfl rfl rfl rfl rfl rfl ?_)

theorem keep_execRefClockLoss {cs : List Instr} {s : State}  (hk : Keeps cs s) :
    KeepsO cs (execRefClockLoss s) := by
  unfold execRefClockLoss
  try dsimp only
  repeat' (first | with_reducible assumption | with_reducible apply keep_log | with_reducible apply keep_porKeep | with_reducible apply keepsO_next | with_reducible apply keeps_ite | with_reducible apply keepsO_ite | with_reducible intro _ | refine keeps_mk rfl rfl rfl rfl rfl rfl rfl rfl ?_)

theorem keep_execReferenceClockReturn {cs : List Instr} {s : State}  (hk : Keeps cs s) :
    KeepsO cs (execReferenceClockReturn s) := by
  unfold execReferenceClockReturn
  try dsimp only
  repeat' (first | with_reducible assumption | with_reducible apply keep_startUp | with_reducible apply keepsO_next | with_reducible apply keeps_ite | with_reducible apply keepsO_ite | with_reducible intro _ | refine keeps_mk rfl rfl rfl rfl rfl rfl rfl rfl ?_)

theorem keep_clkAction {cs : List Instr} {s : State} (d : Clk) (hk : Keeps cs s) :
    Keeps cs (State.clkAction s d) := by
  unfold State.clkAction
  try dsimp only
  repeat' (first | with_reducible assumption | with_reducible apply keep_fillInFlight | with_reducible apply keep_linkLost | with_reducible apply keep_trip | with_reducible apply keeps_ite | with_reducible intro _ | split | refine keeps_mk rfl rfl rfl rfl rfl rfl rfl rfl ?_)

theorem keep_dropPartial {cs : List Instr} {s : State} (d : Clk) (hk : Keeps cs s) :
    Keeps cs (State.dropPartial s d) := by
  unfold State.dropPartial
  try dsimp only
  repeat' (first | with_reducible assumption | with_reducible apply keep_count | with_reducible apply keep_draw | with_reducible apply keeps_ite | with_reducible intro _ | split | refine keeps_mk rfl rfl rfl rfl rfl rfl rfl rfl ?_)

theorem keep_clkStops {cs : List Instr} {s : State} (d : Clk) (hk : Keeps cs s) :
    Keeps cs (State.clkStops s d) := by
  unfold State.clkStops
  try dsimp only
  repeat' (first | with_reducible assumption | with_reducible apply keep_setF | with_reducible apply keeps_ite | with_reducible intro _ | refine keeps_mk rfl rfl rfl rfl rfl rfl rfl rfl ?_)

theorem keep_execClockLoss {cs : List Instr} {s : State} (d : Clk) (hk : Keeps cs s) :
    KeepsO cs (execClockLoss d s) := by
  unfold execClockLoss
  try dsimp only
  repeat' (first | with_reducible assumption | with_reducible apply keep_clkAction | with_reducible apply keep_clkStops | with_reducible apply keep_dropPartial | with_reducible apply keep_log | with_reducible apply keepsO_next | with_reducible apply keeps_ite | with_reducible apply keepsO_ite | with_reducible intro _ | refine keeps_mk rfl rfl rfl rfl rfl rfl rfl rfl ?_)

theorem keep_execFuseMapLoad {cs : List Instr} {s : State} (goodAt : Option (Fin 4)) (fuses : Fuses) (hk : Keeps cs s) :
    KeepsO cs (execFuseMapLoad goodAt fuses s) := by
  unfold execFuseMapLoad
  try dsimp only
  repeat' (first | with_reducible assumption | with_reducible apply keep_clkOf | with_reducible apply keep_emit | with_reducible apply keep_linkTrain | with_reducible apply keep_setMacs | with_reducible apply keepsO_next | with_reducible apply keeps_ite | with_reducible apply keepsO_ite | with_reducible intro _ | split | refine keeps_mk rfl rfl rfl rfl rfl rfl rfl rfl ?_)

theorem keep_badSlot {cs : List Instr} {s : State} (b : Bool) (hk : Keeps cs s) :
    Keeps cs (State.badSlot s b) := by
  unfold State.badSlot
  try dsimp only
  repeat' (first | with_reducible assumption | with_reducible apply keep_log | with_reducible apply keeps_ite | with_reducible intro _)

theorem keep_trySlots {cs : List Instr} {s : State} (y1 : List (Bool × Slot)) (hk : Keeps cs s) :
    Keeps cs (State.trySlots s y1).1 := by
  induction y1 generalizing s with
  | nil =>
    unfold State.trySlots; try dsimp only
    repeat' (first | with_reducible assumption | with_reducible apply ih | with_reducible apply keep_badSlot | with_reducible apply keeps_ite | with_reducible apply keeps_fst_ite | with_reducible intro _)
  | cons a l ih =>
    unfold State.trySlots; try dsimp only
    repeat' (first | with_reducible assumption | with_reducible apply ih | with_reducible apply keep_badSlot | with_reducible apply keeps_ite | with_reducible apply keeps_fst_ite | with_reducible intro _)

theorem keep_causeF {cs : List Instr} {s : State} (f : Fld) (v : Nat) (hk : Keeps cs s) :
    Keeps cs (State.causeF s f v) := by
  unfold State.causeF
  try dsimp only
  repeat' (first | with_reducible assumption | with_reducible apply keep_setF | with_reducible apply keeps_ite | with_reducible intro _)

theorem keep_enterRescue {cs : List Instr} {s : State}  (hk : Keeps cs s) :
    Keeps cs (State.enterRescue s) := by
  unfold State.enterRescue
  try dsimp only
  repeat' (first | with_reducible assumption | with_reducible apply keep_clkOf | with_reducible apply keep_emit | with_reducible apply keep_openSession | with_reducible apply keep_prompt | with_reducible apply keep_setF | refine keeps_mk rfl rfl rfl rfl rfl rfl rfl rfl ?_)

theorem keep_setSpd {cs : List Instr} {s : State} {m : List (Nat × Byte)} (hm : Memory.wf m = true) (hk : Keeps cs s) : Keeps cs { s with spd := { s.spd with mem := m } } :=
  { hk with spd := hm }

theorem keep_execBootImageLoad {cs : List Instr} {s : State} (a : Slot) (b : Slot) (hk : Keeps cs s) : KeepsO cs (execBootImageLoad a b s) := by
  unfold execBootImageLoad
  refine keepsO_ite (fun _ => keepsO_next hk) (fun _ => ?_)
  have h0 : Keeps cs { s with boot := { s.boot with slotA := a, slotB := b } } := keeps_mk rfl rfl rfl rfl rfl rfl rfl rfl hk
  have h1 := keep_trySlots (slotOrder a b) h0
  dsimp only at h1 ⊢
  split
  · rename_i t isB x e
    rw [e] at h1
    refine keepsO_next ?_
    have h2 := keep_setSpd (wf_msetL (m := []) 0 (slotBytes x) rfl) (keep_causeF F.GLB_RSTCAUSE_IMGB (if isB then 1 else 0) h1)
    exact ⟨h2.pending, h2.regs, h2.tank, h2.spd, h2.ret, h2.pages, h2.nodup, h2.log, h2.evq⟩
  · rename_i t e
    rw [e] at h1
    exact keepsO_next (keep_enterRescue (keep_log _ h1))

theorem keep_t0Fail {cs : List Instr} {s : State} (bank : Nat) (word : Nat) (hk : Keeps cs s) :
    Keeps cs (State.t0Fail s bank word).1 := by
  unfold State.t0Fail
  try dsimp only
  repeat' (first | with_reducible assumption | with_reducible apply keeps_ite | with_reducible apply keeps_fst_ite | with_reducible intro _ | refine keeps_mk rfl rfl rfl rfl rfl rfl rfl rfl ?_)

theorem keep_t2Fail {cs : List Instr} {s : State} (unit : Nat) (running : Bool) (hk : Keeps cs s) :
    Keeps cs (State.t2Fail s unit running) := by
  unfold State.t2Fail
  try dsimp only
  repeat' (first | with_reducible assumption | with_reducible apply keep_killEng | with_reducible apply keep_setEng | with_reducible apply keep_setEnl | with_reducible apply keeps_ite | with_reducible intro _ | refine keeps_mk rfl rfl rfl rfl rfl rfl rfl rfl ?_)

theorem keep_testAct {cs : List Instr} {s : State} (running : Bool) (f : TestFail) (hk : Keeps cs s) :
    Keeps cs (State.testAct s running f).1 := by
  unfold State.testAct
  try dsimp only
  repeat' (first | with_reducible assumption | with_reducible apply keep_spareRow | with_reducible apply keep_t0Fail | with_reducible apply keep_t2Fail | with_reducible apply keeps_ite | with_reducible apply keeps_fst_ite | with_reducible intro _)

theorem keep_testFails {cs : List Instr} {s : State} (running : Bool) (keep : Bool) (boot : Bool) (y1 : List TestFail) (y2 : List (Fin 8 × Nat)) (hk : Keeps cs s) :
    Keeps cs (State.testFails s running keep boot y1 y2).1 := by
  induction y1 generalizing s running keep boot y2 with
  | nil =>
    unfold State.testFails; try dsimp only
    repeat' (first | with_reducible assumption | with_reducible apply keep_causeF | with_reducible apply keep_log | with_reducible apply keep_testAct | with_reducible apply keeps_ite | with_reducible apply keeps_fst_ite | with_reducible intro _ | split | refine keeps_mk rfl rfl rfl rfl rfl rfl rfl rfl ?_)
  | cons a l ih =>
    unfold State.testFails; try dsimp only
    repeat' (first | with_reducible assumption | with_reducible apply ih | with_reducible apply keep_causeF | with_reducible apply keep_log | with_reducible apply keep_testAct | with_reducible apply keeps_ite | with_reducible apply keeps_fst_ite | with_reducible intro _ | split | refine keeps_mk rfl rfl rfl rfl rfl rfl rfl rfl ?_)

theorem keep_fixRate {cs : List Instr} {s : State} (mbs : Nat) (hk : Keeps cs s) :
    Keeps cs (State.fixRate s mbs) := by
  unfold State.fixRate
  try dsimp only
  repeat' (first | with_reducible assumption | with_reducible apply keep_log | with_reducible apply keep_setF | with_reducible apply keeps_ite | with_reducible intro _)

theorem keep_execBootSelfTest {cs : List Instr} {s : State} (fails : List TestFail) (rate : Nat) (ms : Nat) (hk : Keeps cs s) :
    KeepsO cs (execBootSelfTest fails rate ms s) := by
  unfold execBootSelfTest
  try dsimp only
  repeat' (first | with_reducible assumption | with_reducible apply keep_codecOk | with_reducible apply keep_enterRescue | with_reducible apply keep_fixRate | with_reducible apply keep_setF | with_reducible apply keep_testFails | with_reducible apply keepsO_next | with_reducible apply keeps_ite | with_reducible apply keepsO_ite | with_reducible apply keeps_fst_ite | with_reducible intro _ | split | refine keeps_mk rfl rfl rfl rfl rfl rfl rfl rfl ?_)

theorem keep_execTestBoot {cs : List Instr} {s : State} (ln : Ln) (hk : Keeps cs s) :
    KeepsO cs (execTestBoot ln s) := by
  unfold execTestBoot
  try dsimp only
  repeat' (first | with_reducible assumption | with_reducible apply keep_verb | with_reducible apply keepsO_next | with_reducible apply keepsA_ok | exact keepsA_er | refine keeps_fst (by with_reducible assumption) ?_ | refine keeps_snd (by with_reducible assumption) ?_ | refine keepsW_get (by with_reducible assumption) ?_ | exact keepsW_get rfl (by with_reducible assumption) | split | refine keeps_mk rfl rfl rfl rfl rfl rfl rfl rfl ?_)

theorem keep_fanAgain {cs : List Instr} {s : State}  (hk : Keeps cs s) :
    Keeps cs (State.fanAgain s) := by
  unfold State.fanAgain
  try dsimp only
  repeat' (first | with_reducible assumption | with_reducible apply keep_gatesOff | with_reducible apply keep_setFan | with_reducible apply keep_startAxis | with_reducible apply keep_tidyLoops | with_reducible apply keeps_ite | with_reducible intro _)

theorem keep_execTestBootComplete {cs : List Instr} {s : State} (fails : List TestFail) (rate : Nat) (hk : Keeps cs s) :
    KeepsO cs (execTestBootComplete fails rate s) := by
  unfold execTestBootComplete
  try dsimp only
  repeat' (first | with_reducible assumption | with_reducible apply keep_codecOk | with_reducible apply keep_done | with_reducible apply keep_dropBootTest | with_reducible apply keep_fanAgain | with_reducible apply keep_fixRate | with_reducible apply keep_testFails | with_reducible apply keep_warm | with_reducible apply keepsO_next | with_reducible apply keeps_ite | with_reducible apply keepsO_ite | with_reducible apply keeps_fst_ite | with_reducible intro _ | split | refine keeps_mk rfl rfl rfl rfl rfl rfl rfl rfl ?_)

theorem restoreLog_length {old : List ErrRec} {l : ErrLog} (h : l.recs.length ≤ logMax) : (restoreLog old l).recs.length ≤ logMax := by
  unfold restoreLog
  split
  · exact h
  · simp

theorem keep_takeJournal {cs : List Instr} {s : State} (hk : Keeps cs s) : Keeps cs (State.takeJournal s) :=
  { hk with log := restoreLog_length hk.log }

theorem keep_partReplay {cs : List Instr} {s : State} (lost : Nat) (hk : Keeps cs s) :
    Keeps cs (State.partReplay s lost) := by
  unfold State.partReplay
  try dsimp only
  repeat' (first | with_reducible assumption | with_reducible apply keep_causeF | with_reducible apply keep_log)

theorem keep_execFixerJournalScan {cs : List Instr} {s : State}  (hk : Keeps cs s) :
    KeepsO cs (execFixerJournalScan s) := by
  unfold execFixerJournalScan
  try dsimp only
  repeat' (first | with_reducible assumption | with_reducible apply keep_causeF | with_reducible apply keep_partReplay | with_reducible apply keep_scanJournal | with_reducible apply keep_takeJournal | with_reducible apply keepsO_next | with_reducible apply keeps_ite | with_reducible apply keepsO_ite | with_reducible apply keeps_fst_ite | with_reducible intro _ | refine keeps_mk rfl rfl rfl rfl rfl rfl rfl rfl ?_)

theorem keep_openUarts {cs : List Instr} {s : State}  (hk : Keeps cs s) :
    Keeps cs (State.openUarts s) := by
  unfold State.openUarts
  try dsimp only
  repeat' (first | with_reducible assumption | with_reducible apply keep_openSession | with_reducible apply keep_prompt | with_reducible apply keeps_ite | with_reducible intro _)

theorem keep_endBoot {cs : List Instr} {s : State}  (hk : Keeps cs s) :
    Keeps cs (State.endBoot s) := by
  unfold State.endBoot
  try dsimp only
  repeat' (first | with_reducible assumption | refine keeps_mk rfl rfl rfl rfl rfl rfl rfl rfl ?_)

theorem keep_sweepDue {cs : List Instr} {s : State}  (hk : Keeps cs s) :
    Keeps cs (State.sweepDue s) := by
  unfold State.sweepDue
  try dsimp only
  repeat' (first | with_reducible assumption | with_reducible apply keeps_ite | with_reducible intro _ | refine keeps_mk rfl rfl rfl rfl rfl rfl rfl rfl ?_)

theorem keep_endExit {cs : List Instr} {s : State}  (hk : Keeps cs s) :
    Keeps cs (State.endExit s) := by
  unfold State.endExit
  try dsimp only
  repeat' (first | with_reducible assumption | refine keeps_mk rfl rfl rfl rfl rfl rfl rfl rfl ?_)

theorem keep_startUnits {cs : List Instr} {s : State} (exiting : Bool) (warm : Bool) (ms : Nat) (hk : Keeps cs s) :
    Keeps cs (State.startUnits s exiting warm ms) := by
  unfold State.startUnits
  try dsimp only
  repeat' (first | with_reducible assumption | with_reducible apply keep_clkOf | with_reducible apply keep_emit | with_reducible apply keep_setF | with_reducible apply keeps_ite | with_reducible intro _)

theorem keep_loadTime {cs : List Instr} {s : State}  (hk : Keeps cs s) :
    Keeps cs (State.loadTime s) := by
  unfold State.loadTime
  try dsimp only
  repeat' (first | with_reducible assumption | with_reducible apply keep_setF | with_reducible apply keeps_ite | with_reducible intro _ | refine keeps_mk rfl rfl rfl rfl rfl rfl rfl rfl ?_)

theorem keep_execFirstPrompt {cs : List Instr} {s : State} (ms : Nat) (hk : Keeps cs s) :
    KeepsO cs (execFirstPrompt ms s) := by
  unfold execFirstPrompt
  try dsimp only
  repeat' (first | with_reducible assumption | with_reducible apply keep_domReset | with_reducible apply keep_endBoot | with_reducible apply keep_endExit | with_reducible apply keep_hifShow | with_reducible apply keep_latchPins | with_reducible apply keep_loadTime | with_reducible apply keep_openUarts | with_reducible apply keep_reload | with_reducible apply keep_startUnits | with_reducible apply keep_sweepDue | with_reducible apply keepsO_next | with_reducible apply keeps_ite | with_reducible apply keepsO_ite | with_reducible intro _ | split | refine keeps_mk rfl rfl rfl rfl rfl rfl rfl rfl ?_)

theorem keep_execResetWarm {cs : List Instr} {s : State} (ln : Ln) (keepTank : Bool) (hk : Keeps cs s) :
    KeepsO cs (execResetWarm ln keepTank s) := by
  unfold execResetWarm
  try dsimp only
  repeat' (first | with_reducible assumption | with_reducible apply keep_verb | with_reducible apply keep_warm | with_reducible apply keepsO_next | with_reducible apply keeps_ite | with_reducible apply keepsO_ite | with_reducible apply keepsA_ite | with_reducible apply keepsA_ok | exact keepsA_er | with_reducible intro _)

theorem keep_execResetDomain {cs : List Instr} {s : State} (ln : Ln) (d : Nat) (hk : Keeps cs s) :
    KeepsO cs (execResetDomain ln d s) := by
  unfold execResetDomain
  try dsimp only
  repeat' (first | with_reducible assumption | with_reducible apply keep_domReset | with_reducible apply keep_verb | with_reducible apply keepsO_next | with_reducible apply keeps_ite | with_reducible apply keepsO_ite | with_reducible apply keepsA_ite | with_reducible apply keepsA_ok | exact keepsA_er | with_reducible intro _)

theorem keep_execWarmReset {cs : List Instr} {s : State} (keepTank : Bool) (hk : Keeps cs s) :
    KeepsO cs (execWarmReset keepTank s) := by
  unfold execWarmReset
  try dsimp only
  repeat' (first | with_reducible assumption | with_reducible apply keep_warm | with_reducible apply keepsO_next)

theorem keep_execDomainReset {cs : List Instr} {s : State} (d : Domain) (hk : Keeps cs s) :
    KeepsO cs (execDomainReset d s) := by
  unfold execDomainReset
  try dsimp only
  repeat' (first | with_reducible assumption | with_reducible apply keep_domReset | with_reducible apply keepsO_next)

theorem keep_wRstctl {cs : List Instr} {s : State} (v : Word) (hk : Keeps cs s) :
    KeepsW cs (State.wRstctl s v) := by
  unfold State.wRstctl
  try dsimp only
  repeat' (first | with_reducible assumption | with_reducible apply keep_domReset | with_reducible apply keep_warm | with_reducible apply keeps_ite | with_reducible apply keepsW_ite | with_reducible apply keepsW_ok | exact keepsW_refuse | with_reducible intro _ | refine keeps_mk rfl rfl rfl rfl rfl rfl rfl rfl ?_)

theorem keep_glbWrite {cs : List Instr} {s : State} (src : Src) (w : WRes) (hk : Keeps cs s) (hw : KeepsW cs w) :
    Keeps cs (State.glbWrite s src w) := by
  unfold State.glbWrite
  try dsimp only
  repeat' (first | with_reducible assumption | with_reducible apply keep_apply | with_reducible apply keep_pfDrop | with_reducible apply keeps_ite | with_reducible apply keepsW_ite | with_reducible intro _ | refine keeps_fst (by with_reducible assumption) ?_ | refine keeps_snd (by with_reducible assumption) ?_ | split | refine keeps_mk rfl rfl rfl rfl rfl rfl rfl rfl ?_)

theorem keep_execRstctlWarm {cs : List Instr} {s : State} (src : Src) (v : Word) (hk : Keeps cs s) :
    KeepsO cs (execRstctlWarm src v s) := by
  unfold execRstctlWarm
  try dsimp only
  repeat' (first | with_reducible assumption | with_reducible apply keep_glbWrite | with_reducible apply keep_wRstctl | with_reducible apply keepsO_next)

theorem keep_execRstctlDomain {cs : List Instr} {s : State} (src : Src) (v : Word) (hk : Keeps cs s) :
    KeepsO cs (execRstctlDomain src v s) := by
  unfold execRstctlDomain
  try dsimp only
  repeat' (first | with_reducible assumption | with_reducible apply keep_glbWrite | with_reducible apply keep_wRstctl | with_reducible apply keepsO_next)

theorem keep_execPerstAssert {cs : List Instr} {s : State}  (hk : Keeps cs s) :
    KeepsO cs (execPerstAssert s) := by
  unfold execPerstAssert
  try dsimp only
  repeat' (first | with_reducible assumption | with_reducible apply keep_domReset | with_reducible apply keep_linkLost | with_reducible apply keepsO_next | with_reducible apply keeps_ite | with_reducible apply keepsO_ite | with_reducible intro _ | refine keeps_mk rfl rfl rfl rfl rfl rfl rfl rfl ?_)

theorem keep_execPerstDeassert {cs : List Instr} {s : State}  (hk : Keeps cs s) :
    KeepsO cs (execPerstDeassert s) := by
  unfold execPerstDeassert
  try dsimp only
  repeat' (first | with_reducible assumption | with_reducible apply keep_edge | with_reducible apply keep_clkBack | with_reducible apply keep_linkTrain | with_reducible apply keepsO_next | with_reducible apply keeps_ite | with_reducible apply keepsO_ite | with_reducible intro _ | refine keeps_mk rfl rfl rfl rfl rfl rfl rfl rfl ?_)

theorem keep_execWatchdogExpiry {cs : List Instr} {s : State}  (hk : Keeps cs s) :
    KeepsO cs (execWatchdogExpiry s) := by
  unfold execWatchdogExpiry
  try dsimp only
  repeat' (first | with_reducible assumption | with_reducible apply keep_log | with_reducible apply keep_warm | with_reducible apply keepsO_next | with_reducible apply keeps_ite | with_reducible apply keepsO_ite | with_reducible intro _)

theorem keep_wWdog {cs : List Instr} {s : State} (v : Word) (hk : Keeps cs s) :
    KeepsW cs (State.wWdog s v) := by
  unfold State.wWdog
  try dsimp only
  repeat' (first | with_reducible assumption | with_reducible apply keep_setF | with_reducible apply keepsW_ok | exact keepsW_refuse)

theorem keep_execWatchdogWrite {cs : List Instr} {s : State} (src : Src) (v : Word) (hk : Keeps cs s) :
    KeepsO cs (execWatchdogWrite src v s) := by
  unfold execWatchdogWrite
  try dsimp only
  repeat' (first | with_reducible assumption | with_reducible apply keep_glbWrite | with_reducible apply keep_wWdog | with_reducible apply keepsO_next)

end Sys2Proof.Machine
end

