-- ==== Sys2Proof/Laws/KeepsBank.lean ====
section
/-! SUPPORT. Every operation of Machine/Bank.lean keeps the machine's invariant and its queue. -/

namespace Sys2Proof.Machine

theorem keep_granted {cs : List Instr} {s : State} (w : Nat) (ports : List Bool) (r : Req) (hk : Keeps cs s) :
    Keeps cs (State.granted s w ports r) := by
  unfold State.granted
  try dsimp only
  repeat' (first | with_reducible assumption | with_reducible apply keeps_ite | with_reducible apply keeps_fst_ite | with_reducible intro _ | refine keeps_mk rfl rfl rfl rfl rfl rfl rfl rfl ?_)

theorem keep_dropFrames {cs : List Instr} {s : State} (x : Stream) (hk : Keeps cs s) :
    Keeps cs (State.dropFrames s x) := by
  unfold State.dropFrames
  try dsimp only
  repeat' (first | with_reducible assumption | with_reducible apply keep_dropRow | with_reducible apply keeps_foldl | with_reducible apply keeps_ite | with_reducible intro _ | refine keeps_mk rfl rfl rfl rfl rfl rfl rfl rfl ?_)

theorem keep_fmtLost {cs : List Instr} {s : State}  (hk : Keeps cs s) :
    Keeps cs (State.fmtLost s) := by
  unfold State.fmtLost
  try dsimp only
  repeat' (first | with_reducible assumption | with_reducible apply keep_count | with_reducible apply keep_dropFrames | with_reducible apply keep_reformAll | with_reducible apply keeps_ite | with_reducible intro _ | split | refine keeps_mk rfl rfl rfl rfl rfl rfl rfl rfl ?_)

theorem keep_dfmAgain {cs : List Instr} {s : State}  (hk : Keeps cs s) :
    Keeps cs (State.dfmAgain s) := by
  unfold State.dfmAgain
  try dsimp only
  repeat' (first | with_reducible assumption | with_reducible apply keep_giveUp | with_reducible apply keep_takeRetry | with_reducible apply keeps_ite | with_reducible intro _ | split | refine keeps_mk rfl rfl rfl rfl rfl rfl rfl rfl ?_)

theorem keep_reqFails {cs : List Instr} {s : State} (r : Req) (ctx : ReqCtx) (w : Nat) (e : Er) (hk : Keeps cs s) :
    Keeps cs (State.reqFails s r ctx w e) := by
  unfold State.reqFails
  try dsimp only
  repeat' (first | with_reducible assumption | with_reducible apply keep_abort | with_reducible apply keep_blockFails | with_reducible apply keep_dfmAgain | with_reducible apply keep_drtEnd | with_reducible apply keep_emit | with_reducible apply keep_endSession | with_reducible apply keep_failRead | with_reducible apply keep_fmtLost | with_reducible apply keep_losePiece | with_reducible apply keep_read | with_reducible apply keep_warm | with_reducible apply keeps_ite | with_reducible intro _ | refine keeps_fst (by with_reducible assumption) ?_ | refine keeps_snd (by with_reducible assumption) ?_ | split | refine keeps_mk rfl rfl rfl rfl rfl rfl rfl rfl ?_)

theorem keep_accessFails {cs : List Instr} {s : State} (r : Req) (ctx : ReqCtx) (w : Nat) (e : Er) (hk : Keeps cs s) :
    Keeps cs (State.accessFails s r ctx w e) := by
  unfold State.accessFails
  try dsimp only
  repeat' (first | with_reducible assumption | with_reducible apply keep_emit | with_reducible apply keep_reqFails)

theorem wf_putBytes {m : List (Nat × Byte)} (a en : Nat) (bs : List Byte) (h : Memory.wf m = true) : Memory.wf (putBytes m a en bs) = true := by
  induction bs generalizing m a en with
  | nil => exact h
  | cons b bs ih =>
    refine ih _ _ ?_
    split
    · exact wf_mset _ _ h
    · exact h

theorem keep_putWord {cs : List Instr} {s : State} (w : Nat) (data : Nat) (en : Nat) (hk : Keeps cs s) : Keeps cs (State.putWord s w data en) :=
  keep_freshWord _ (keep_setTank (wf_putBytes _ _ _ hk.tank) hk)

theorem keep_readWord128 {cs : List Instr} {s : State} (r : Req) (ctx : ReqCtx) (w : Nat) (ecc : Ecc) (hk : Keeps cs s) :
    Keeps cs (State.readWord128 s r ctx w ecc) := by
  unfold State.readWord128
  try dsimp only
  repeat' (first | with_reducible assumption | with_reducible apply keep_accessFails | with_reducible apply keep_emit | with_reducible apply keep_secded | with_reducible apply keeps_ite | with_reducible apply keeps_fst_ite | with_reducible intro _ | refine keeps_mk rfl rfl rfl rfl rfl rfl rfl rfl ?_)

theorem keep_writeWord128 {cs : List Instr} {s : State} (r : Req) (ctx : ReqCtx) (w : Nat) (data : BitVec 128) (en : BitVec 16) (ecc : Ecc) (hk : Keeps cs s) :
    Keeps cs (State.writeWord128 s r ctx w data en ecc) := by
  unfold State.writeWord128
  try dsimp only
  repeat' (first | with_reducible assumption | with_reducible apply keep_accessFails | with_reducible apply keep_putWord | with_reducible apply keep_secded | with_reducible apply keeps_ite | with_reducible apply keeps_fst_ite | with_reducible intro _ | refine keeps_mk rfl rfl rfl rfl rfl rfl rfl rfl ?_)

theorem keep_atomic {cs : List Instr} {s : State} (r : Req) (ctx : ReqCtx) (addr : Nat) (wide : Bool) (ecc : Ecc) (new : Nat → Nat) (hk : Keeps cs s) :
    Keeps cs (State.atomic s r ctx addr wide ecc new) := by
  unfold State.atomic
  have h1 := keep_secded r (addr / 16) ecc hk
  refine keeps_ite (fun _ => ?_) (fun _ => keep_accessFails _ _ _ _ h1)
  exact keep_emit _ (keep_freshWord _ (keep_setTank (wf_msetL _ _ h1.tank) h1))

theorem keep_perform {cs : List Instr} {s : State} (q : TankReq) (hk : Keeps cs s) :
    Keeps cs (State.perform s q) := by
  unfold State.perform
  try dsimp only
  repeat' (first | with_reducible assumption | with_reducible apply keep_atomic | with_reducible apply keep_granted | with_reducible apply keep_read | with_reducible apply keep_readWord128 | with_reducible apply keep_writeWord128 | with_reducible apply keeps_ite | with_reducible intro _ | split | refine keeps_mk rfl rfl rfl rfl rfl rfl rfl rfl ?_)

theorem keep_grantAll {cs : List Instr} {s : State} (y1 : Nat) (hk : Keeps cs s) :
    Keeps cs (State.grantAll s y1) := by
  induction y1 generalizing s with
  | zero =>
    unfold State.grantAll; try dsimp only
    repeat' (first | with_reducible assumption | with_reducible apply keep_perform | with_reducible apply keeps_ite | with_reducible intro _ | split | refine keeps_mk rfl rfl rfl rfl rfl rfl rfl rfl ?_)
  | succ k ih =>
    unfold State.grantAll; try dsimp only
    repeat' (first | with_reducible assumption | with_reducible apply ih | with_reducible apply keep_perform | with_reducible apply keeps_ite | with_reducible intro _ | split | refine keeps_mk rfl rfl rfl rfl rfl rfl rfl rfl ?_)

theorem keep_presentReq {cs : List Instr} {s : State} (q : TankReq) (hk : Keeps cs s) :
    Keeps cs (State.presentReq s q) := by
  unfold State.presentReq
  try dsimp only
  repeat' (first | with_reducible assumption | with_reducible apply keep_grantAll | with_reducible apply keeps_ite | with_reducible apply keeps_fst_ite | with_reducible intro _ | refine keeps_mk rfl rfl rfl rfl rfl rfl rfl rfl ?_)

theorem keep_execRequestAgeExpiry {cs : List Instr} {s : State} (b : Bank) (write : Bool) (r : Req) (hk : Keeps cs s) :
    KeepsO cs (execRequestAgeExpiry b write r s) := by
  unfold execRequestAgeExpiry
  try dsimp only
  repeat' (first | with_reducible assumption | with_reducible apply keep_grantAll | with_reducible apply keepsO_next | with_reducible apply keeps_ite | with_reducible apply keepsO_ite | with_reducible intro _ | refine keeps_mk rfl rfl rfl rfl rfl rfl rfl rfl ?_)

theorem keep_execTankRead {cs : List Instr} {s : State} (r : Req) (ctx : ReqCtx) (addr : BitVec 25) (fill : Nat) (ecc : Ecc) (hk : Keeps cs s) :
    KeepsO cs (execTankRead r ctx addr fill ecc s) := by
  unfold execTankRead
  try dsimp only
  repeat' (first | with_reducible assumption | with_reducible apply keep_presentReq | with_reducible apply keep_read | with_reducible apply keepsO_next | with_reducible apply keeps_ite | with_reducible apply keepsO_ite | with_reducible intro _ | refine keeps_mk rfl rfl rfl rfl rfl rfl rfl rfl ?_)

theorem keep_execTankPartialWrite {cs : List Instr} {s : State} (r : Req) (ctx : ReqCtx) (addr : BitVec 25) (data : BitVec 128) (enables : BitVec 16) (fill : Nat) (ecc : Ecc) (hk : Keeps cs s) :
    KeepsO cs (execTankPartialWrite r ctx addr data enables fill ecc s) := by
  unfold execTankPartialWrite
  try dsimp only
  repeat' (first | with_reducible assumption | with_reducible apply keep_presentReq | with_reducible apply keepsO_next | with_reducible apply keeps_ite | with_reducible apply keepsO_ite | with_reducible intro _ | refine keeps_mk rfl rfl rfl rfl rfl rfl rfl rfl ?_)

theorem keep_presentAtomic {cs : List Instr} {s : State} (q : TankReq) (wide : Bool) (hk : Keeps cs s) :
    Keeps cs (State.presentAtomic s q wide) := by
  unfold State.presentAtomic
  try dsimp only
  repeat' (first | with_reducible assumption | with_reducible apply keep_accessFails | with_reducible apply keep_log | with_reducible apply keep_presentReq | with_reducible apply keeps_ite | with_reducible intro _ | refine keeps_mk rfl rfl rfl rfl rfl rfl rfl rfl ?_)

theorem keep_execTankAtomicAdd {cs : List Instr} {s : State} (r : Req) (ctx : ReqCtx) (addr : BitVec 25) (wide : Bool) (operand : DWord) (fill : Nat) (ecc : Ecc) (hk : Keeps cs s) :
    KeepsO cs (execTankAtomicAdd r ctx addr wide operand fill ecc s) := by
  unfold execTankAtomicAdd
  try dsimp only
  repeat' (first | with_reducible assumption | with_reducible apply keep_atomic | with_reducible apply keep_presentAtomic | with_reducible apply keepsO_next | with_reducible apply keeps_ite | with_reducible apply keepsO_ite | with_reducible intro _ | refine keeps_mk rfl rfl rfl rfl rfl rfl rfl rfl ?_)

theorem keep_execTankAtomicSwap {cs : List Instr} {s : State} (r : Req) (ctx : ReqCtx) (addr : BitVec 25) (wide : Bool) (operand : DWord) (fill : Nat) (ecc : Ecc) (hk : Keeps cs s) :
    KeepsO cs (execTankAtomicSwap r ctx addr wide operand fill ecc s) := by
  unfold execTankAtomicSwap
  try dsimp only
  repeat' (first | with_reducible assumption | with_reducible apply keep_atomic | with_reducible apply keep_presentAtomic | with_reducible apply keepsO_next | with_reducible apply keeps_ite | with_reducible apply keepsO_ite | with_reducible intro _ | refine keeps_mk rfl rfl rfl rfl rfl rfl rfl rfl ?_)

theorem keep_closedRead {cs : List Instr} {s : State} (src : Src) (off : Nat) (hk : Keeps cs s) :
    Keeps cs (State.closedRead s src off) := by
  unfold State.closedRead
  try dsimp only
  repeat' (first | with_reducible assumption | with_reducible apply keep_emit | with_reducible apply keeps_ite | with_reducible intro _)

theorem keep_winRead {cs : List Instr} {s : State} (part : Nat) (ecc : Ecc) (hk : Keeps cs s) :
    Keeps cs (State.winRead s part ecc).1 := by
  unfold State.winRead
  try dsimp only
  repeat' (first | with_reducible assumption | with_reducible apply keep_drop | with_reducible apply keep_granted | with_reducible apply keep_secded | with_reducible apply keeps_ite | with_reducible apply keeps_fst_ite | with_reducible intro _ | refine keeps_fst (by with_reducible assumption) ?_ | refine keeps_snd (by with_reducible assumption) ?_ | split | refine keeps_mk rfl rfl rfl rfl rfl rfl rfl rfl ?_)

theorem keep_winWrite {cs : List Instr} {s : State} (part : Nat) (v : Word) (hk : Keeps cs s) :
    KeepsW cs (State.winWrite s part v) := by
  unfold State.winWrite
  try dsimp only
  repeat' (first | with_reducible assumption | with_reducible apply keep_granted | with_reducible apply keep_putWord | with_reducible apply keeps_ite | with_reducible apply keepsW_ite | with_reducible apply keepsW_ok | exact keepsW_refuse | with_reducible intro _ | refine keeps_mk rfl rfl rfl rfl rfl rfl rfl rfl ?_)

theorem keep_execTankWindowAccess {cs : List Instr} {s : State} (src : Src) (write : Bool) (part : Fin 4) (v : Word) (ecc : Ecc) (hk : Keeps cs s) :
    KeepsO cs (execTankWindowAccess src write part v ecc s) := by
  unfold execTankWindowAccess
  try dsimp only
  repeat' (first | with_reducible assumption | with_reducible apply keep_accessFails | with_reducible apply keep_apply | with_reducible apply keep_closedRead | with_reducible apply keep_emit | with_reducible apply keep_pfDrop | with_reducible apply keep_winRead | with_reducible apply keep_winWrite | with_reducible apply keepsO_next | with_reducible apply keeps_ite | with_reducible apply keepsO_ite | with_reducible apply keepsW_ite | with_reducible intro _ | refine keeps_fst (by with_reducible assumption) ?_ | refine keeps_snd (by with_reducible assumption) ?_ | split | refine keeps_mk rfl rfl rfl rfl rfl rfl rfl rfl ?_)

theorem keep_startMarch {cs : List Instr} {s : State} (b : Nat) (hk : Keeps cs s) :
    Keeps cs (State.startMarch s b) := by
  unfold State.startMarch
  try dsimp only
  repeat' (first | with_reducible assumption | with_reducible apply keep_setF | with_reducible apply keep_wr | refine keeps_mk rfl rfl rfl rfl rfl rfl rfl rfl ?_)

theorem keep_wTankTest {cs : List Instr} {s : State} (v : Word) (hk : Keeps cs s) :
    KeepsW cs (State.wTankTest s v) := by
  unfold State.wTankTest
  try dsimp only
  repeat' (first | with_reducible assumption | with_reducible apply keep_startMarch | with_reducible apply keeps_ite | with_reducible apply keepsW_ite | with_reducible apply keepsW_ok | exact keepsW_refuse | with_reducible intro _ | refine keeps_mk rfl rfl rfl rfl rfl rfl rfl rfl ?_)

theorem keep_execTestTank {cs : List Instr} {s : State} (via : Via) (bank : Bank) (hk : Keeps cs s) :
    KeepsO cs (execTestTank via bank s) := by
  unfold execTestTank
  try dsimp only
  repeat' (first | with_reducible assumption | with_reducible apply keep_apply | with_reducible apply keep_pfDrop | with_reducible apply keep_startMarch | with_reducible apply keep_verb | with_reducible apply keep_wTankTest | with_reducible apply keepsO_next | with_reducible apply keeps_ite | with_reducible apply keepsO_ite | with_reducible apply keepsW_ite | with_reducible apply keepsA_ite | with_reducible apply keepsW_ok | exact keepsW_refuse | with_reducible apply keepsA_ok | exact keepsA_er | with_reducible intro _ | refine keeps_fst (by with_reducible assumption) ?_ | refine keeps_snd (by with_reducible assumption) ?_ | refine keepsW_get (by with_reducible assumption) ?_ | exact keepsW_get rfl (by with_reducible assumption) | split | refine keeps_mk rfl rfl rfl rfl rfl rfl rfl rfl ?_)

theorem keep_copyWords {cs : List Instr} {s : State} (y1 : List Nat) (hk : Keeps cs s) :
    Keeps cs (State.copyWords s y1) := by
  induction y1 generalizing s with
  | nil =>
    unfold State.copyWords; try dsimp only
    repeat' (first | with_reducible assumption | with_reducible apply ih | with_reducible apply keep_secded)
  | cons a l ih =>
    unfold State.copyWords; try dsimp only
    repeat' (first | with_reducible assumption | with_reducible apply ih | with_reducible apply keep_secded)

theorem keep_copyRow {cs : List Instr} {s : State} (words : List Nat) (hk : Keeps cs s) :
    Keeps cs (State.copyRow s words) := by
  unfold State.copyRow
  try dsimp only
  repeat' (first | with_reducible assumption | with_reducible apply keep_copyWords)

theorem keep_restoreRow {cs : List Instr} {s : State} (words : List Nat) (hk : Keeps cs s) :
    Keeps cs (State.restoreRow s words) := by
  unfold State.restoreRow
  try dsimp only
  repeat' (first | with_reducible assumption | refine keeps_mk rfl rfl rfl rfl rfl rfl rfl rfl ?_)

theorem keep_badSpare {cs : List Instr} {s : State} (bank : Nat) (idx : Nat) (hk : Keeps cs s) :
    Keeps cs (State.badSpare s bank idx) := by
  unfold State.badSpare
  try dsimp only
  repeat' (first | with_reducible assumption | with_reducible apply keeps_ite | with_reducible intro _ | refine keeps_mk rfl rfl rfl rfl rfl rfl rfl rfl ?_)

theorem keep_marchFail {cs : List Instr} {s : State} (m : March) (row : Nat) (hk : Keeps cs s) :
    Keeps cs (State.marchFail s m row).1 := by
  unfold State.marchFail
  try dsimp only
  repeat' (first | with_reducible assumption | with_reducible apply keep_badSpare | with_reducible apply keep_fence | with_reducible apply keep_log | with_reducible apply keep_spareRow | with_reducible apply keeps_ite | with_reducible apply keeps_fst_ite | with_reducible intro _ | split | refine keeps_mk rfl rfl rfl rfl rfl rfl rfl rfl ?_)

theorem keep_marchRow {cs : List Instr} {s : State} (m : March) (row : Nat) (bad : Bool) (hk : Keeps cs s) :
    Keeps cs (State.marchRow s m row bad).1 := by
  unfold State.marchRow
  try dsimp only
  repeat' (first | with_reducible assumption | with_reducible apply keep_copyRow | with_reducible apply keep_marchFail | with_reducible apply keep_restoreRow | with_reducible apply keeps_ite | with_reducible apply keeps_fst_ite | with_reducible intro _ | split | refine keeps_mk rfl rfl rfl rfl rfl rfl rfl rfl ?_)

theorem keep_marchRows {cs : List Instr} {s : State} (bad : List Nat) (y1 : March) (y2 : List Nat) (hk : Keeps cs s) :
    Keeps cs (State.marchRows s bad y1 y2).1 := by
  induction y2 generalizing s bad y1 with
  | nil =>
    unfold State.marchRows; try dsimp only
    repeat' (first | with_reducible assumption | with_reducible apply keep_marchRow | with_reducible apply keeps_ite | with_reducible apply keeps_fst_ite | with_reducible intro _ | split | refine keeps_mk rfl rfl rfl rfl rfl rfl rfl rfl ?_)
  | cons a l ih =>
    unfold State.marchRows; try dsimp only
    repeat' (first | with_reducible assumption | with_reducible apply ih | with_reducible apply keep_marchRow | with_reducible apply keeps_ite | with_reducible apply keeps_fst_ite | with_reducible intro _ | split | refine keeps_mk rfl rfl rfl rfl rfl rfl rfl rfl ?_)

theorem keep_marchSpares {cs : List Instr} {s : State} (bad : List Nat) (y1 : March) (y2 : List Nat) (hk : Keeps cs s) :
    Keeps cs (State.marchSpares s bad y1 y2).1 := by
  induction y2 generalizing s bad y1 with
  | nil =>
    unfold State.marchSpares; try dsimp only
    repeat' (first | with_reducible assumption | with_reducible apply keep_badSpare | with_reducible apply keep_marchRow | with_reducible apply keeps_ite | with_reducible apply keeps_fst_ite | with_reducible intro _ | split | refine keeps_mk rfl rfl rfl rfl rfl rfl rfl rfl ?_)
  | cons a l ih =>
    unfold State.marchSpares; try dsimp only
    repeat' (first | with_reducible assumption | with_reducible apply ih | with_reducible apply keep_badSpare | with_reducible apply keep_marchRow | with_reducible apply keeps_ite | with_reducible apply keeps_fst_ite | with_reducible intro _ | split | refine keeps_mk rfl rfl rfl rfl rfl rfl rfl rfl ?_)

theorem keep_endMarch {cs : List Instr} {s : State} (m : March) (hk : Keeps cs s) :
    Keeps cs (State.endMarch s m) := by
  unfold State.endMarch
  try dsimp only
  repeat' (first | with_reducible assumption | with_reducible apply keep_done | with_reducible apply keep_setF | with_reducible apply keeps_ite | with_reducible apply keepsA_fail | with_reducible intro _ | refine keeps_mk rfl rfl rfl rfl rfl rfl rfl rfl ?_)

theorem keep_execMarchBurst {cs : List Instr} {s : State} (badRows : List Nat) (hk : Keeps cs s) : KeepsO cs (execMarchBurst badRows s) := by
  unfold execMarchBurst
  split
  · exact keepsO_next hk
  · rename_i m _
    have h1 : Keeps cs (if m.burst < 64 then s.marchRows badRows m ((List.range 8).map (fun i => 8 * (m.burst % 64) + i))
        else s.marchSpares badRows m ((List.range 8).map (fun i => 8 * (m.burst % 64) + i))).1 :=
      keeps_fst_ite (fun _ => keep_marchRows _ _ _ hk) (fun _ => keep_marchSpares _ _ _ hk)
    refine keepsO_next ?_
    dsimp only
    generalize (if m.burst < 64 then s.marchRows badRows m ((List.range 8).map (fun i => 8 * (m.burst % 64) + i))
        else s.marchSpares badRows m ((List.range 8).map (fun i => 8 * (m.burst % 64) + i))) = c at h1 ⊢
    exact keeps_ite (fun _ => keeps_mk rfl rfl rfl rfl rfl rfl rfl rfl h1) (fun _ => keep_endMarch _ h1)

theorem keep_dropMarch {cs : List Instr} {s : State}  (hk : Keeps cs s) :
    Keeps cs (State.dropMarch s) := by
  unfold State.dropMarch
  try dsimp only
  repeat' (first | with_reducible assumption | refine keeps_mk rfl rfl rfl rfl rfl rfl rfl rfl ?_)

theorem keep_spdElog {cs : List Instr} {s : State} (ue : Bool) (fetch : Bool) (a : Nat) (hk : Keeps cs s) :
    Keeps cs (State.spdElog s ue fetch a) := by
  unfold State.spdElog
  try dsimp only
  repeat' (first | with_reducible assumption | with_reducible apply keep_setF | with_reducible apply keeps_ite | with_reducible intro _ | refine keeps_mk rfl rfl rfl rfl rfl rfl rfl rfl ?_)

theorem keep_spdCorrected {cs : List Instr} {s : State} (fetch : Bool) (a : Nat) (hk : Keeps cs s) :
    Keeps cs (State.spdCorrected s fetch a) := by
  unfold State.spdCorrected
  try dsimp only
  repeat' (first | with_reducible assumption | with_reducible apply keep_count | with_reducible apply keep_log | with_reducible apply keep_spdElog | with_reducible apply keeps_ite | with_reducible apply keeps_fst_ite | with_reducible intro _ | refine keeps_mk rfl rfl rfl rfl rfl rfl rfl rfl ?_)

theorem keep_spdWait {cs : List Instr} {s : State} (seqr : Nat) (a : Nat) (found : Bool) (hk : Keeps cs s) :
    Keeps cs (State.spdWait s seqr a found) := by
  unfold State.spdWait
  try dsimp only
  repeat' (first | with_reducible assumption | with_reducible apply keeps_ite | with_reducible intro _ | refine keeps_mk rfl rfl rfl rfl rfl rfl rfl rfl ?_)

theorem keep_execScratchpadFetchError {cs : List Instr} {s : State} (seqr : Fin 4) (addr : BitVec 18) (fetch : Bool) (ecc : Ecc) (hk : Keeps cs s) :
    KeepsO cs (execScratchpadFetchError seqr addr fetch ecc s) := by
  unfold execScratchpadFetchError
  try dsimp only
  repeat' (first | with_reducible assumption | with_reducible apply keep_count | with_reducible apply keep_log | with_reducible apply keep_spdCorrected | with_reducible apply keep_spdElog | with_reducible apply keep_spdWait | with_reducible apply keep_warm | with_reducible apply keepsO_next | with_reducible apply keeps_ite | with_reducible apply keepsO_ite | with_reducible apply keeps_fst_ite | with_reducible intro _ | split | refine keeps_mk rfl rfl rfl rfl rfl rfl rfl rfl ?_)

theorem keep_remapAdd {cs : List Instr} {s : State} (bank : Nat) (word : Nat) (poison : Bool) (hk : Keeps cs s) :
    Keeps cs (State.remapAdd s bank word poison) := by
  unfold State.remapAdd
  try dsimp only
  repeat' (first | with_reducible assumption | with_reducible apply keeps_ite | with_reducible intro _ | refine keeps_mk rfl rfl rfl rfl rfl rfl rfl rfl ?_)

theorem keep_remapFull {cs : List Instr} {s : State}  (hk : Keeps cs s) :
    Keeps cs (State.remapFull s) := by
  unfold State.remapFull
  try dsimp only
  repeat' (first | with_reducible assumption | with_reducible apply keep_log | with_reducible apply keep_warm)

theorem keep_reloadSpd {cs : List Instr} {s : State} (a : Nat) (hk : Keeps cs s) : Keeps cs (State.reloadSpd s a) :=
  keep_setSpd (wf_msetL _ _ hk.spd) hk

theorem keep_reloads {cs : List Instr} {s : State} (y1 : List (Nat × Nat × Bool)) (hk : Keeps cs s) :
    Keeps cs (State.reloads s y1).1 := by
  induction y1 generalizing s with
  | nil =>
    unfold State.reloads; try dsimp only
    repeat' (first | with_reducible assumption | with_reducible apply keep_reloadSpd | with_reducible apply keep_remapAdd | with_reducible apply keeps_ite | with_reducible apply keeps_fst_ite | with_reducible intro _ | split | refine keeps_mk rfl rfl rfl rfl rfl rfl rfl rfl ?_)
  | cons a l ih =>
    unfold State.reloads; try dsimp only
    repeat' (first | with_reducible assumption | with_reducible apply ih | with_reducible apply keep_reloadSpd | with_reducible apply keep_remapAdd | with_reducible apply keeps_ite | with_reducible apply keeps_fst_ite | with_reducible intro _ | split | refine keeps_mk rfl rfl rfl rfl rfl rfl rfl rfl ?_)

theorem keep_execScratchpadReloadDone {cs : List Instr} {s : State}  (hk : Keeps cs s) :
    KeepsO cs (execScratchpadReloadDone s) := by
  unfold execScratchpadReloadDone
  try dsimp only
  repeat' (first | with_reducible assumption | with_reducible apply keep_reloads | with_reducible apply keep_remapFull | with_reducible apply keepsO_next | with_reducible apply keeps_ite | with_reducible apply keepsO_ite | with_reducible apply keeps_fst_ite | with_reducible intro _ | refine keeps_mk rfl rfl rfl rfl rfl rfl rfl rfl ?_)

theorem keep_wRmadd {cs : List Instr} {s : State} (v : Word) (hk : Keeps cs s) :
    KeepsW cs (State.wRmadd s v) := by
  unfold State.wRmadd
  try dsimp only
  repeat' (first | with_reducible assumption | with_reducible apply keep_remapAdd | with_reducible apply keeps_ite | with_reducible apply keepsW_ite | with_reducible apply keeps_fst_ite | with_reducible apply keepsW_ok | exact keepsW_refuse | with_reducible intro _ | refine keeps_mk rfl rfl rfl rfl rfl rfl rfl rfl ?_)

theorem keep_execSpdRemapAdd {cs : List Instr} {s : State} (src : Src) (v : Word) (hk : Keeps cs s) :
    KeepsO cs (execSpdRemapAdd src v s) := by
  unfold execSpdRemapAdd
  try dsimp only
  repeat' (first | with_reducible assumption | with_reducible apply keep_pfDrop | with_reducible apply keep_remapFull | with_reducible apply keep_wRmadd | with_reducible apply keepsO_next | with_reducible apply keeps_ite | with_reducible apply keepsO_ite | with_reducible intro _ | refine keeps_fst (by with_reducible assumption) ?_ | refine keeps_snd (by with_reducible assumption) ?_ | refine keepsW_get (by with_reducible assumption) ?_ | exact keepsW_get rfl (by with_reducible assumption) | split | refine keeps_mk rfl rfl rfl rfl rfl rfl rfl rfl ?_)

end Sys2Proof.Machine
end

