-- ==== Sys2Proof/Laws/KeepsRegRead.lean ====
section
/-! SUPPORT. Every operation of Machine/RegRead.lean keeps the machine's invariant and its queue. -/

namespace Sys2Proof.Machine

theorem keep_setSlWord {cs : List Instr} {s : State} (k : Nat) (v : Nat) (hk : Keeps cs s) : Keeps cs (State.setSlWord s k v) :=
  keeps_ite (fun _ => { hk with ret := wf_msetL _ _ hk.ret }) (fun _ => hk)

theorem keep_clearRc {cs : List Instr} {s : State} (src : Src) (off : Nat) (hk : Keeps cs s) :
    Keeps cs (State.clearRc s src off) := by
  unfold State.clearRc
  try dsimp only
  repeat' (first | with_reducible assumption | with_reducible apply keep_setFn | with_reducible apply keep_wr | with_reducible apply keeps_ite | with_reducible intro _ | refine keeps_fst (by with_reducible assumption) ?_ | refine keeps_snd (by with_reducible assumption) ?_ | split | refine keeps_mk rfl rfl rfl rfl rfl rfl rfl rfl ?_)

theorem keep_readWord {cs : List Instr} {s : State} (src : Src) (off : Nat) (hk : Keeps cs s) :
    Keeps cs (State.readWord s src off).1 := by
  unfold State.readWord
  try dsimp only
  repeat' (first | with_reducible assumption | with_reducible apply keep_clearRc | refine keeps_fst (by with_reducible assumption) ?_ | refine keeps_snd (by with_reducible assumption) ?_ | split | refine keeps_mk rfl rfl rfl rfl rfl rfl rfl rfl ?_)

theorem keep_slNext {cs : List Instr} {s : State}  (hk : Keeps cs s) :
    Keeps cs (State.slNext s) := by
  unfold State.slNext
  try dsimp only
  repeat' (first | with_reducible assumption | with_reducible apply keep_setF)

theorem keep_readAct {cs : List Instr} {s : State} (src : Src) (off : Nat) (hk : Keeps cs s) :
    Keeps cs (State.readAct s src off).1 := by
  unfold State.readAct
  try dsimp only
  repeat' (first | with_reducible assumption | with_reducible apply keep_readWord | with_reducible apply keep_slNext | with_reducible apply keep_winRead | with_reducible apply keeps_ite | with_reducible apply keeps_fst_ite | with_reducible intro _ | refine keeps_fst (by with_reducible assumption) ?_ | refine keeps_snd (by with_reducible assumption) ?_ | split | refine keeps_mk rfl rfl rfl rfl rfl rfl rfl rfl ?_)

theorem keep_readTo {cs : List Instr} {s : State} (src : Src) (off : Nat) (hk : Keeps cs s) :
    Keeps cs (State.readTo s src off) := by
  unfold State.readTo
  try dsimp only
  repeat' (first | with_reducible assumption | with_reducible apply keep_accessFails | with_reducible apply keep_emit | with_reducible apply keep_readAct | refine keeps_fst (by with_reducible assumption) ?_ | refine keeps_snd (by with_reducible assumption) ?_ | split | refine keeps_mk rfl rfl rfl rfl rfl rfl rfl rfl ?_)

theorem keep_noFunction {cs : List Instr} {s : State} (src : Src) (hk : Keeps cs s) :
    Keeps cs (State.noFunction s src) := by
  unfold State.noFunction
  try dsimp only
  repeat' (first | with_reducible assumption | with_reducible apply keep_emit | with_reducible apply keeps_ite | with_reducible intro _ | refine keeps_mk rfl rfl rfl rfl rfl rfl rfl rfl ?_)

theorem keep_busRead {cs : List Instr} {s : State} (src : Src) (off : Nat) (hk : Keeps cs s) :
    Keeps cs (State.busRead s src off) := by
  unfold State.busRead
  try dsimp only
  repeat' (first | with_reducible assumption | with_reducible apply keep_cfgRead | with_reducible apply keep_closedRead | with_reducible apply keep_emit | with_reducible apply keep_noFunction | with_reducible apply keep_readTo | with_reducible apply keep_readWord | with_reducible apply keeps_ite | with_reducible apply keeps_fst_ite | with_reducible intro _ | split | refine keeps_mk rfl rfl rfl rfl rfl rfl rfl rfl ?_)

theorem keep_read {cs : List Instr} {s : State} (src : Src) (off : Nat) (hk : Keeps cs s) :
    Keeps cs (State.read s src off) := by
  unfold State.read
  try dsimp only
  repeat' (first | with_reducible assumption | with_reducible apply keep_busRead | with_reducible apply keeps_ite | with_reducible intro _ | refine keeps_mk rfl rfl rfl rfl rfl rfl rfl rfl ?_)

theorem keep_execRcFieldRead {cs : List Instr} {s : State} (src : Src) (off : Nat) (hk : Keeps cs s) :
    KeepsO cs (execRcFieldRead src off s) := by
  unfold execRcFieldRead
  try dsimp only
  repeat' (first | with_reducible assumption | with_reducible apply keep_read | with_reducible apply keepsO_next | with_reducible apply keeps_ite | with_reducible apply keepsO_ite | with_reducible intro _ | refine keeps_mk rfl rfl rfl rfl rfl rfl rfl rfl ?_)

theorem keep_execReadLowHalf {cs : List Instr} {s : State} (src : Src) (off : Nat) (hk : Keeps cs s) :
    KeepsO cs (execReadLowHalf src off s) := by
  unfold execReadLowHalf
  try dsimp only
  repeat' (first | with_reducible assumption | with_reducible apply keep_read | with_reducible apply keepsO_next | with_reducible apply keeps_ite | with_reducible apply keepsO_ite | with_reducible intro _ | refine keeps_mk rfl rfl rfl rfl rfl rfl rfl rfl ?_)

theorem keep_execReadHighHalf {cs : List Instr} {s : State} (src : Src) (off : Nat) (hk : Keeps cs s) :
    KeepsO cs (execReadHighHalf src off s) := by
  unfold execReadHighHalf
  try dsimp only
  repeat' (first | with_reducible assumption | with_reducible apply keep_read | with_reducible apply keepsO_next | with_reducible apply keeps_ite | with_reducible apply keepsO_ite | with_reducible intro _ | refine keeps_mk rfl rfl rfl rfl rfl rfl rfl rfl ?_)

end Sys2Proof.Machine
end

