-- ==== Sys2Proof/Laws/KeepsRegWrite.lean ====
section
/-! SUPPORT. Every operation of Machine/RegWrite.lean keeps the machine's invariant and its queue. -/

namespace Sys2Proof.Machine

theorem keep_pwrBegin {cs : List Instr} {s : State} (p : Pwr) (who : Asker) (hk : Keeps cs s) :
    Keeps cs (State.pwrBegin s p who) := by
  unfold State.pwrBegin
  try dsimp only
  repeat' (first | with_reducible assumption | with_reducible apply keep_dropBootTest | with_reducible apply keeps_ite | with_reducible intro _ | refine keeps_fst (by with_reducible assumption) ?_ | refine keeps_snd (by with_reducible assumption) ?_ | split | refine keeps_mk rfl rfl rfl rfl rfl rfl rfl rfl ?_)

theorem keep_wPwrctl {cs : List Instr} {s : State} (v : Word) (hk : Keeps cs s) :
    KeepsW cs (State.wPwrctl s v) := by
  unfold State.wPwrctl
  try dsimp only
  repeat' (first | with_reducible assumption | with_reducible apply keep_pwrBegin | with_reducible apply keeps_ite | with_reducible apply keepsW_ite | with_reducible apply keepsW_ok | exact keepsW_refuse | with_reducible intro _ | refine keeps_fst (by with_reducible assumption) ?_ | refine keeps_snd (by with_reducible assumption) ?_ | refine keepsW_get (by with_reducible assumption) ?_ | exact keepsW_get rfl (by with_reducible assumption) | split | refine keeps_mk rfl rfl rfl rfl rfl rfl rfl rfl ?_)

theorem keep_wDrtcfg {cs : List Instr} {s : State} (v : Word) (hk : Keeps cs s) :
    KeepsW cs (State.wDrtcfg s v) := by
  unfold State.wDrtcfg
  try dsimp only
  repeat' (first | with_reducible assumption | with_reducible apply keep_drtOff | with_reducible apply keep_storeAt | with_reducible apply keeps_ite | with_reducible apply keepsW_ite | with_reducible apply keepsW_ok | exact keepsW_refuse | with_reducible intro _)

theorem keep_drtTensOff {cs : List Instr} {s : State} (y1 : List Tenant) (hk : Keeps cs s) :
    Keeps cs (State.drtTensOff s y1) := by
  induction y1 generalizing s with
  | nil =>
    unfold State.drtTensOff; try dsimp only
    repeat' (first | with_reducible assumption | with_reducible apply ih | with_reducible apply keep_drtTenOff)
  | cons a l ih =>
    unfold State.drtTensOff; try dsimp only
    repeat' (first | with_reducible assumption | with_reducible apply ih | with_reducible apply keep_drtTenOff)

theorem keep_wDrtten {cs : List Instr} {s : State} (k : Nat) (v : Word) (hk : Keeps cs s) :
    KeepsW cs (State.wDrtten s k v) := by
  unfold State.wDrtten
  try dsimp only
  repeat' (first | with_reducible assumption | with_reducible apply keep_drtTensOff | with_reducible apply keep_storeAt | with_reducible apply keepsW_ok | exact keepsW_refuse)

theorem keep_wTcfg {cs : List Instr} {s : State} (v : Word) (hk : Keeps cs s) :
    KeepsW cs (State.wTcfg s v) := by
  unfold State.wTcfg
  try dsimp only
  repeat' (first | with_reducible assumption | with_reducible apply keep_setF | with_reducible apply keep_storeAt | with_reducible apply keeps_ite | with_reducible apply keepsW_ite | with_reducible apply keepsW_ok | exact keepsW_refuse | with_reducible intro _ | refine keeps_mk rfl rfl rfl rfl rfl rfl rfl rfl ?_)

theorem keep_wQcfg {cs : List Instr} {s : State} (n : Nat) (v : Word) (hk : Keeps cs s) :
    KeepsW cs (State.wQcfg s n v) := by
  unfold State.wQcfg
  try dsimp only
  repeat' (first | with_reducible assumption | with_reducible apply keep_storeAt | with_reducible apply keeps_ite | with_reducible apply keepsW_ite | with_reducible apply keepsW_ok | exact keepsW_refuse | with_reducible intro _)

theorem keep_wQcmd {cs : List Instr} {s : State} (n : Nat) (v : Word) (hk : Keeps cs s) :
    KeepsW cs (State.wQcmd s n v) := by
  unfold State.wQcmd
  try dsimp only
  repeat' (first | with_reducible assumption | with_reducible apply keep_qcmdCreate | with_reducible apply keep_qcmdDelete | with_reducible apply keepsO_next | with_reducible apply keeps_ite | with_reducible apply keepsO_ite | with_reducible apply keepsW_ite | with_reducible apply keepsA_ite | with_reducible apply keeps_fst_ite | with_reducible apply keepsW_ok | exact keepsW_refuse | with_reducible apply keepsA_ok | exact keepsA_er | with_reducible apply keepsA_fail | with_reducible apply keeps_foldl | with_reducible intro _ | refine keeps_fst (by with_reducible assumption) ?_ | refine keeps_snd (by with_reducible assumption) ?_ | refine keepsW_get (by with_reducible assumption) ?_ | refine keepsO_get (by with_reducible assumption) ?_ | exact keepsO_get rfl (by with_reducible assumption) | exact keepsW_get rfl (by with_reducible assumption) | exact keepsA_ok_get rfl (by with_reducible assumption) | exact keepsA_fail_get rfl (by with_reducible assumption) | with_reducible apply keep_putErr | exact keeps_evq (by with_reducible assumption) | exact Keeps.evq hk _ | refine keeps_evq (cs := cs) ?_ | with_reducible apply queueEvent_evq | exact Nat.zero_le _ | split | refine keeps_mk rfl rfl rfl rfl rfl rfl rfl rfl ?_)

theorem keep_wMdr {cs : List Instr} {s : State} (u : MUnit) (off : Nat) (v : Word) (hk : Keeps cs s) :
    KeepsW cs (State.wMdr s u off v) := by
  unfold State.wMdr
  try dsimp only
  repeat' (first | with_reducible assumption | with_reducible apply keep_storeAt | with_reducible apply keeps_ite | with_reducible apply keepsW_ite | with_reducible apply keepsW_ok | exact keepsW_refuse | with_reducible intro _)

theorem keep_wSldata {cs : List Instr} {s : State} (v : Word) (hk : Keeps cs s) :
    KeepsW cs (State.wSldata s v) := by
  unfold State.wSldata
  try dsimp only
  repeat' (first | with_reducible assumption | with_reducible apply keep_setSlWord | with_reducible apply keep_slNext | with_reducible apply keepsW_ok | exact keepsW_refuse)

theorem keep_wErrctl {cs : List Instr} {s : State} (v : Word) (hk : Keeps cs s) :
    KeepsW cs (State.wErrctl s v) := by
  unfold State.wErrctl
  try dsimp only
  repeat' (first | with_reducible assumption | with_reducible apply keep_clearLog | with_reducible apply keeps_ite | with_reducible apply keepsW_ite | with_reducible apply keepsW_ok | exact keepsW_refuse | with_reducible intro _)

theorem keep_wCcmd {cs : List Instr} {s : State} (src : Src) (v : Word) (hk : Keeps cs s) :
    KeepsW cs (State.wCcmd s src v) := by
  unfold State.wCcmd
  try dsimp only
  repeat' (first | with_reducible assumption | with_reducible apply keep_sendCmd | with_reducible apply keep_setF | with_reducible apply keep_storeAt | with_reducible apply keeps_ite | with_reducible apply keepsW_ite | with_reducible apply keepsW_ok | exact keepsW_refuse | with_reducible intro _)

theorem keep_wCoefAt {cs : List Instr} {s : State} (bankB : Bool) (i : Nat) (shiftWord : Bool) (v : Word) (hk : Keeps cs s) :
    KeepsW cs (State.wCoefAt s bankB i shiftWord v) := by
  unfold State.wCoefAt
  try dsimp only
  repeat' (first | with_reducible assumption | with_reducible apply keep_wCoef | with_reducible apply keepsW_ok | exact keepsW_refuse)

theorem keep_wEntry {cs : List Instr} {s : State} (src : Src) (d : RegDef) (i : Nat) (off : Nat) (v : Word) (hk : Keeps cs s) :
    KeepsW cs (State.wEntry s src d i off v) := by
  unfold State.wEntry
  try dsimp only
  repeat' (first | with_reducible assumption | with_reducible apply keep_rtsFrom | with_reducible apply keep_storeAt | with_reducible apply keep_wAcfg | with_reducible apply keep_wCcmd | with_reducible apply keep_wCoefAt | with_reducible apply keep_wDrtcfg | with_reducible apply keep_wDrtten | with_reducible apply keep_wEnlCfg | with_reducible apply keep_wErrctl | with_reducible apply keep_wFancfg | with_reducible apply keep_wFanpt | with_reducible apply keep_wGcap | with_reducible apply keep_wLctl | with_reducible apply keep_wLman | with_reducible apply keep_wLpcfg | with_reducible apply keep_wMdr | with_reducible apply keep_wPfevt | with_reducible apply keep_wPwrctl | with_reducible apply keep_wQcfg | with_reducible apply keep_wQcmd | with_reducible apply keep_wQvec | with_reducible apply keep_wRadius | with_reducible apply keep_wRcctl | with_reducible apply keep_wRdcCfg | with_reducible apply keep_wRmadd | with_reducible apply keep_wRstctl | with_reducible apply keep_wSgcfg | with_reducible apply keep_wSgmem | with_reducible apply keep_wSldata | with_reducible apply keep_wSpd | with_reducible apply keep_wTankTest | with_reducible apply keep_wTcfg | with_reducible apply keep_wTripclr | with_reducible apply keep_wTshare | with_reducible apply keep_wTvec | with_reducible apply keep_wWdog | with_reducible apply keep_wakeDown | with_reducible apply keep_winWrite | with_reducible apply keeps_ite | with_reducible apply keepsW_ite | with_reducible apply keepsW_ok | exact keepsW_refuse | with_reducible intro _ | split | refine keeps_mk rfl rfl rfl rfl rfl rfl rfl rfl ?_)

theorem keep_wWide {cs : List Instr} {s : State} (d : RegDef) (i : Nat) (v : Nat) (hk : Keeps cs s) :
    KeepsW cs (State.wWide s d i v) := by
  unfold State.wWide
  try dsimp only
  repeat' (first | with_reducible assumption | with_reducible apply keep_storeReg | with_reducible apply keeps_ite | with_reducible apply keepsW_ite | with_reducible apply keepsW_ok | exact keepsW_refuse | with_reducible intro _)

theorem keep_wMsix {cs : List Instr} {s : State} (t : Tenant) (o : Nat) (v : Word) (hk : Keeps cs s) :
    Keeps cs (State.wMsix s t o v) := by
  unfold State.wMsix
  try dsimp only
  repeat' (first | with_reducible assumption | with_reducible apply keep_msixWr | with_reducible apply keeps_ite | with_reducible intro _)

theorem keep_wWindow {cs : List Instr} {s : State} (t : Tenant) (o : Nat) (v : Word) (hk : Keeps cs s) :
    Keeps cs (State.wWindow s t o v) := by
  unfold State.wWindow
  try dsimp only
  repeat' (first | with_reducible assumption | with_reducible apply keep_applyDoor | with_reducible apply keep_wMsix | with_reducible apply keeps_ite | with_reducible apply keepsW_ite | with_reducible intro _)

theorem keep_wWord {cs : List Instr} {s : State} (src : Src) (off : Nat) (v : Word) (hk : Keeps cs s) :
    KeepsW cs (State.wWord s src off v) := by
  unfold State.wWord
  try dsimp only
  repeat' (first | with_reducible assumption | with_reducible apply keep_toCkm | with_reducible apply keep_wEntry | with_reducible apply keep_wMsix | with_reducible apply keep_wWide | with_reducible apply keep_wWindow | with_reducible apply keeps_ite | with_reducible apply keepsW_ite | with_reducible apply keepsW_ok | exact keepsW_refuse | with_reducible intro _ | refine keeps_fst (by with_reducible assumption) ?_ | refine keeps_snd (by with_reducible assumption) ?_ | refine keepsW_get (by with_reducible assumption) ?_ | exact keepsW_get rfl (by with_reducible assumption) | split | refine keeps_mk rfl rfl rfl rfl rfl rfl rfl rfl ?_)

theorem keep_settleWrite {cs : List Instr} {s : State} (src : Src) (w : WRes) (hk : Keeps cs s) (hw : KeepsW cs w) :
    Keeps cs (State.settleWrite s src w) := by
  unfold State.settleWrite
  try dsimp only
  repeat' (first | with_reducible assumption | with_reducible apply keep_apply | with_reducible apply keep_remapFull | refine keeps_fst (by with_reducible assumption) ?_ | refine keeps_snd (by with_reducible assumption) ?_ | split | refine keeps_mk rfl rfl rfl rfl rfl rfl rfl rfl ?_)

theorem keep_busWrite {cs : List Instr} {s : State} (src : Src) (off : Nat) (v : Word) (hk : Keeps cs s) :
    Keeps cs (State.busWrite s src off v) := by
  unfold State.busWrite
  try dsimp only
  repeat' (first | with_reducible assumption | with_reducible apply keep_cfgWrite | with_reducible apply keep_pfDrop | with_reducible apply keep_settleWrite | with_reducible apply keep_wWindow | with_reducible apply keep_wWord | with_reducible apply keeps_ite | with_reducible apply keepsW_ite | with_reducible apply keepsW_ok | exact keepsW_refuse | with_reducible intro _ | split | refine keeps_mk rfl rfl rfl rfl rfl rfl rfl rfl ?_)

theorem keep_execRegisterWrite {cs : List Instr} {s : State} (src : Src) (off : Nat) (v : Word) (hk : Keeps cs s) :
    KeepsO cs (execRegisterWrite src off v s) := by
  unfold execRegisterWrite
  try dsimp only
  repeat' (first | with_reducible assumption | with_reducible apply keep_busWrite | with_reducible apply keepsO_next)

theorem keep_execWriteLowHalf {cs : List Instr} {s : State} (src : Src) (off : Nat) (v : Word) (hk : Keeps cs s) :
    KeepsO cs (execWriteLowHalf src off v s) := by
  unfold execWriteLowHalf
  try dsimp only
  repeat' (first | with_reducible assumption | with_reducible apply keep_busWrite | with_reducible apply keepsO_next)

theorem keep_execWriteHighHalf {cs : List Instr} {s : State} (src : Src) (off : Nat) (v : Word) (hk : Keeps cs s) :
    KeepsO cs (execWriteHighHalf src off v s) := by
  unfold execWriteHighHalf
  try dsimp only
  repeat' (first | with_reducible assumption | with_reducible apply keep_busWrite | with_reducible apply keepsO_next)

theorem keep_applyCmds {cs : List Instr} {s : State} (y1 : List (Src × Nat × Word)) (hk : Keeps cs s) :
    Keeps cs (State.applyCmds s y1) := by
  induction y1 generalizing s with
  | nil =>
    unfold State.applyCmds; try dsimp only
    repeat' (first | with_reducible assumption | with_reducible apply keep_settleWrite | with_reducible apply keep_wWord | with_reducible apply keeps_ite | with_reducible apply keepsW_ite | with_reducible apply keepsW_ok | exact keepsW_refuse | with_reducible intro _ | refine keeps_fst (by with_reducible assumption) ?_ | refine keeps_snd (by with_reducible assumption) ?_ | split | refine keeps_mk rfl rfl rfl rfl rfl rfl rfl rfl ?_)
  | cons a l ih =>
    unfold State.applyCmds; try dsimp only
    repeat' (first | with_reducible assumption | with_reducible apply ih | with_reducible apply keep_settleWrite | with_reducible apply keep_wWord | with_reducible apply keeps_ite | with_reducible apply keepsW_ite | with_reducible apply keepsW_ok | exact keepsW_refuse | with_reducible intro _ | refine keeps_fst (by with_reducible assumption) ?_ | refine keeps_snd (by with_reducible assumption) ?_ | split | refine keeps_mk rfl rfl rfl rfl rfl rfl rfl rfl ?_)

theorem keep_takeSamples {cs : List Instr} {s : State}  (hk : Keeps cs s) :
    Keeps cs (State.takeSamples s) := by
  unfold State.takeSamples
  try dsimp only
  repeat' (first | with_reducible assumption | with_reducible apply keep_fresh | with_reducible apply keeps_ite | with_reducible intro _ | split | refine keeps_mk rfl rfl rfl rfl rfl rfl rfl rfl ?_)

theorem keep_ckmBack {cs : List Instr} {s : State}  (hk : Keeps cs s) :
    Keeps cs (State.ckmBack s) := by
  unfold State.ckmBack
  try dsimp only
  repeat' (first | with_reducible assumption | with_reducible apply keep_applyCmds | with_reducible apply keep_clkBack | with_reducible apply keep_takeSamples | with_reducible apply keeps_ite | with_reducible intro _ | refine keeps_mk rfl rfl rfl rfl rfl rfl rfl rfl ?_)

theorem keep_execCarrierPeriod {cs : List Instr} {s : State} (axes : List AxisSample) (coil : Int) (vbus : Nat) (hk : Keeps cs s) :
    KeepsO cs (execCarrierPeriod axes coil vbus s) := by
  unfold execCarrierPeriod
  try dsimp only
  repeat' (first | with_reducible assumption | with_reducible apply keep_carrier | with_reducible apply keep_ckmBack | with_reducible apply keepsO_next | with_reducible apply keeps_ite | with_reducible apply keepsO_ite | with_reducible intro _ | refine keeps_mk rfl rfl rfl rfl rfl rfl rfl rfl ?_)

theorem keep_execSaveListAccess {cs : List Instr} {s : State} (src : Src) (write : Bool) (v : Word) (hk : Keeps cs s) :
    KeepsO cs (execSaveListAccess src write v s) := by
  unfold execSaveListAccess
  try dsimp only
  repeat' (first | with_reducible assumption | with_reducible apply keep_busWrite | with_reducible apply keep_read | with_reducible apply keepsO_next | with_reducible apply keeps_ite | with_reducible apply keepsO_ite | with_reducible intro _ | split | refine keeps_mk rfl rfl rfl rfl rfl rfl rfl rfl ?_)

end Sys2Proof.Machine
end

