-- ==== Sys2Proof/Laws/KeepsPoke.lean ====
section
/-! SUPPORT. Every operation of Machine/Poke.lean keeps the machine's invariant and its queue. -/

namespace Sys2Proof.Machine

theorem keep_readReg {cs : List Instr} {s : State} (src : Src) (d : RegDef) (i : Nat) (hk : Keeps cs s) :
    Keeps cs (State.readReg s src d i).1 := by
  unfold State.readReg
  try dsimp only
  repeat' (first | with_reducible assumption | with_reducible apply keep_clearRc | with_reducible apply keep_readAct | with_reducible apply keeps_ite | with_reducible apply keeps_fst_ite | with_reducible intro _)

theorem keep_peekWords {cs : List Instr} {s : State} (src : Src) (y1 : Nat) (y2 : Nat) (y3 : List (Nat × Word)) (hk : Keeps cs s) :
    Keeps cs (State.peekWords s src y1 y2 y3).1 := by
  induction y1 generalizing s src y2 y3 with
  | zero =>
    unfold State.peekWords; try dsimp only
    repeat' (first | with_reducible assumption | with_reducible apply ih | with_reducible apply keep_readAct | refine keeps_fst (by with_reducible assumption) ?_ | refine keeps_snd (by with_reducible assumption) ?_ | split | refine keeps_mk rfl rfl rfl rfl rfl rfl rfl rfl ?_)
  | succ k ih =>
    unfold State.peekWords; try dsimp only
    repeat' (first | with_reducible assumption | with_reducible apply ih | with_reducible apply keep_readAct | refine keeps_fst (by with_reducible assumption) ?_ | refine keeps_snd (by with_reducible assumption) ?_ | split | refine keeps_mk rfl rfl rfl rfl rfl rfl rfl rfl ?_)

theorem keep_peek {cs : List Instr} {s : State} (src : Src) (target : Target) (count : Option Nat) (hk : Keeps cs s) :
    KeepsA cs (State.peek s src target count) := by
  unfold State.peek
  try dsimp only
  repeat' (first | with_reducible assumption | with_reducible apply keep_peekWords | with_reducible apply keep_readReg | with_reducible apply keeps_ite | with_reducible apply keepsA_ite | with_reducible apply keepsA_ok | exact keepsA_er | with_reducible apply keepsA_fail | with_reducible intro _ | refine keeps_fst (by with_reducible assumption) ?_ | refine keeps_snd (by with_reducible assumption) ?_ | refine keepsW_get (by with_reducible assumption) ?_ | exact keepsW_get rfl (by with_reducible assumption) | split | refine keeps_mk rfl rfl rfl rfl rfl rfl rfl rfl ?_)

theorem keep_execPeek {cs : List Instr} {s : State} (ln : Ln) (target : Target) (count : Option Nat) (hk : Keeps cs s) :
    KeepsO cs (execPeek ln target count s) := by
  unfold execPeek
  try dsimp only
  repeat' (first | with_reducible assumption | with_reducible apply keep_count | with_reducible apply keep_peek | with_reducible apply keep_verb | with_reducible apply keepsO_next | with_reducible apply keeps_ite | with_reducible apply keepsO_ite | with_reducible apply keepsA_ite | with_reducible apply keepsA_ok | exact keepsA_er | with_reducible apply keepsA_fail | with_reducible intro _ | refine keeps_mk rfl rfl rfl rfl rfl rfl rfl rfl ?_)

theorem keep_pokeField {cs : List Instr} {s : State} (src : Src) (d : RegDef) (i : Nat) (f : FieldDef) (v : Nat) (hk : Keeps cs s) :
    KeepsW cs (State.pokeField s src d i f v) := by
  unfold State.pokeField
  try dsimp only
  repeat' (first | with_reducible assumption | with_reducible apply keep_wWide | with_reducible apply keep_wWord | with_reducible apply keeps_ite | with_reducible apply keepsW_ite | with_reducible apply keepsW_ok | exact keepsW_refuse | with_reducible intro _)

theorem keep_pokeParts {cs : List Instr} {s : State} {src : Src} {target : Target} {v : Nat} (hk : Keeps cs s) {w : WRes} {f : State → Item}
    (e : s.pokeParts src target v = .inr (w, f)) : KeepsW cs w := by
  unfold State.pokeParts at e
  split at e
  · cases e
  · split at e
    · cases e
    · rename_i d i _
      by_cases hv : 2 ^ (if d.wide then 64 else 32) ≤ v
      · rw [if_pos hv] at e; cases e
      · rw [if_neg hv] at e; cases e
        exact keepsW_ite (fun _ => keep_wWide _ _ _ hk) (fun _ => keep_wWord _ _ _ hk)
  · split at e
    · cases e
    · split at e
      · cases e
      · split at e
        · cases e
        · cases e; exact keep_pokeField _ _ _ _ _ hk
  · split at e
    · cases e
    · cases e; exact keep_wWord _ _ _ hk

theorem keep_pokeParts_ok {cs : List Instr} {s : State} {src : Src} {target : Target} {v : Nat} {t : State} {f : State → Item}
    (e : s.pokeParts src target v = .inr (.ok t, f)) (hk : Keeps cs s) : Keeps cs t := keep_pokeParts hk e t rfl

theorem keep_execPoke {cs : List Instr} {s : State} (ln : Ln) (target : Target) (v : Nat) (hk : Keeps cs s) :
    KeepsO cs (execPoke ln target v s) := by
  unfold execPoke
  try dsimp only
  repeat' (first | with_reducible assumption | with_reducible apply keep_remapFull | with_reducible apply keep_verb | with_reducible apply keepsO_next | with_reducible apply keeps_ite | with_reducible apply keepsO_ite | with_reducible apply keepsA_ite | with_reducible apply keepsA_ok | exact keepsA_er | with_reducible intro _ | refine keeps_fst (by with_reducible assumption) ?_ | refine keeps_snd (by with_reducible assumption) ?_ | refine keepsW_get (by with_reducible assumption) ?_ | exact keepsW_get rfl (by with_reducible assumption) | refine keep_pokeParts_ok (by with_reducible assumption) ?_ | split | refine keeps_mk rfl rfl rfl rfl rfl rfl rfl rfl ?_)

end Sys2Proof.Machine
end

