-- ==== Sys2Proof/Laws/KeepsPower.lean ====
section
/-! SUPPORT. Every operation of Machine/Power.lean keeps the machine's invariant and its queue. -/

namespace Sys2Proof.Machine

theorem keep_wakeRecord {cs : List Instr} {s : State} (w : Wake) (hk : Keeps cs s) :
    Keeps cs (State.wakeRecord s w) := by
  unfold State.wakeRecord
  try dsimp only
  repeat' (first | with_reducible assumption | with_reducible apply keep_setF | with_reducible apply keeps_ite | with_reducible intro _ | refine keeps_mk rfl rfl rfl rfl rfl rfl rfl rfl ?_)

theorem keep_powerDone {cs : List Instr} {s : State} (items : List Item) (hk : Keeps cs s) :
    Keeps cs (State.powerDone s items) := by
  unfold State.powerDone
  try dsimp only
  repeat' (first | with_reducible assumption | with_reducible apply keep_done | refine keeps_mk rfl rfl rfl rfl rfl rfl rfl rfl ?_)

theorem keep_powerRsp {cs : List Instr} {s : State} (who : Asker) (result : Nat) (status : Nat) (hk : Keeps cs s) :
    Keeps cs (State.powerRsp s who result status) := by
  unfold State.powerRsp
  try dsimp only
  repeat' (first | with_reducible assumption | with_reducible apply keep_sendRsp | refine keeps_fst (by with_reducible assumption) ?_ | refine keeps_snd (by with_reducible assumption) ?_ | split | refine keeps_mk rfl rfl rfl rfl rfl rfl rfl rfl ?_)

theorem keep_noEntry {cs : List Instr} {s : State}  (hk : Keeps cs s) :
    Keeps cs (State.noEntry s) := by
  unfold State.noEntry
  try dsimp only
  repeat' (first | with_reducible assumption | refine keeps_mk rfl rfl rfl rfl rfl rfl rfl rfl ?_)

theorem keep_setSeq {cs : List Instr} {s : State} (q : Option IgnStep) (hk : Keeps cs s) :
    Keeps cs (State.setSeq s q) := by
  unfold State.setSeq
  try dsimp only
  repeat' (first | with_reducible assumption | refine keeps_mk rfl rfl rfl rfl rfl rfl rfl rfl ?_)

theorem keep_woken {cs : List Instr} {s : State} (e : Entry) (ap : Nat) (hk : Keeps cs s) :
    Keeps cs (State.woken s e ap) := by
  unfold State.woken
  try dsimp only
  repeat' (first | with_reducible assumption | with_reducible apply keep_noEntry | with_reducible apply keep_powerDone | with_reducible apply keep_powerRsp | with_reducible apply keep_setF | with_reducible apply keep_setSeq | with_reducible apply keeps_ite | with_reducible intro _ | refine keeps_fst (by with_reducible assumption) ?_ | refine keeps_snd (by with_reducible assumption) ?_ | split | refine keeps_mk rfl rfl rfl rfl rfl rfl rfl rfl ?_)

theorem keep_refusedEntry {cs : List Instr} {s : State} (e : Entry) (b : Nat) (hk : Keeps cs s) :
    Keeps cs (State.refusedEntry s e b) := by
  unfold State.refusedEntry
  try dsimp only
  repeat' (first | with_reducible assumption | with_reducible apply keep_log | with_reducible apply keep_noEntry | with_reducible apply keep_powerDone | with_reducible apply keep_powerRsp | with_reducible apply keep_setF | with_reducible apply keep_setSeq | refine keeps_fst (by with_reducible assumption) ?_ | refine keeps_snd (by with_reducible assumption) ?_ | split | refine keeps_mk rfl rfl rfl rfl rfl rfl rfl rfl ?_)

theorem keep_dropRuns {cs : List Instr} {s : State} (d : Nat) (hk : Keeps cs s) :
    Keeps cs (State.dropRuns s d) := by
  unfold State.dropRuns
  try dsimp only
  repeat' (first | with_reducible assumption | with_reducible apply keep_dropCodecTest | with_reducible apply keep_dropMarch | with_reducible apply keep_dropProof | with_reducible apply keeps_ite | with_reducible intro _ | refine keeps_fst (by with_reducible assumption) ?_ | refine keeps_snd (by with_reducible assumption) ?_ | split | refine keeps_mk rfl rfl rfl rfl rfl rfl rfl rfl ?_)

theorem keep_dropTests {cs : List Instr} {s : State}  (hk : Keeps cs s) :
    Keeps cs (State.dropTests s) := by
  unfold State.dropTests
  try dsimp only
  repeat' (first | with_reducible assumption | with_reducible apply keep_dropBootTest | with_reducible apply keep_dropMarch | with_reducible apply keep_dropRuns | with_reducible apply keeps_ite | with_reducible intro _)

theorem keep_setEntry {cs : List Instr} {s : State} (e : Entry) (hk : Keeps cs s) :
    Keeps cs (State.setEntry s e) := by
  unfold State.setEntry
  try dsimp only
  repeat' (first | with_reducible assumption | refine keeps_mk rfl rfl rfl rfl rfl rfl rfl rfl ?_)

theorem keep_quiesceNext {cs : List Instr} {s : State} (e : Entry) (hk : Keeps cs s) :
    Keeps cs (State.quiesceNext s e) := by
  unfold State.quiesceNext
  try dsimp only
  repeat' (first | with_reducible assumption | with_reducible apply keep_dropRuns | with_reducible apply keep_refusedEntry | with_reducible apply keep_setEntry | with_reducible apply keep_woken | with_reducible apply keeps_ite | with_reducible intro _ | refine keeps_fst (by with_reducible assumption) ?_ | refine keeps_snd (by with_reducible assumption) ?_ | split | refine keeps_mk rfl rfl rfl rfl rfl rfl rfl rfl ?_)

theorem keep_ap0 {cs : List Instr} {s : State} (e : Entry) (hk : Keeps cs s) :
    Keeps cs (State.ap0 s e) := by
  unfold State.ap0
  try dsimp only
  repeat' (first | with_reducible assumption | with_reducible apply keep_quiesceNext | with_reducible apply keep_woken | with_reducible apply keeps_ite | with_reducible intro _)

theorem keep_capture {cs : List Instr} {s : State} (y1 : List (Nat × Nat)) (y2 : List (Nat × Word)) (hk : Keeps cs s) :
    Keeps cs (State.capture s y1 y2).1 := by
  induction y1 generalizing s y2 with
  | nil =>
    unfold State.capture; try dsimp only
    repeat' (first | with_reducible assumption | with_reducible apply ih | with_reducible apply keep_clearRc)
  | cons a l ih =>
    unfold State.capture; try dsimp only
    repeat' (first | with_reducible assumption | with_reducible apply ih | with_reducible apply keep_clearRc)

theorem keep_clearSaved {cs : List Instr} {s : State} (y1 : List (Nat × Word)) (hk : Keeps cs s) :
    Keeps cs (State.clearSaved s y1) := by
  induction y1 generalizing s with
  | nil =>
    unfold State.clearSaved; try dsimp only
    repeat' (first | with_reducible assumption | with_reducible apply keep_clearRc | with_reducible apply keeps_ite | with_reducible intro _ | refine keeps_fst (by with_reducible assumption) ?_ | refine keeps_snd (by with_reducible assumption) ?_ | split | refine keeps_mk rfl rfl rfl rfl rfl rfl rfl rfl ?_)
  | cons a l ih =>
    unfold State.clearSaved; try dsimp only
    repeat' (first | with_reducible assumption | with_reducible apply ih | with_reducible apply keep_clearRc | with_reducible apply keeps_ite | with_reducible intro _ | refine keeps_fst (by with_reducible assumption) ?_ | refine keeps_snd (by with_reducible assumption) ?_ | split | refine keeps_mk rfl rfl rfl rfl rfl rfl rfl rfl ?_)

theorem keep_keepSaved {cs : List Instr} {s : State} (y1 : List (Nat × Word)) (hk : Keeps cs s) :
    Keeps cs (State.keepSaved s y1) := by
  induction y1 generalizing s with
  | nil =>
    unfold State.keepSaved; try dsimp only
    repeat' (first | with_reducible assumption | with_reducible apply ih | with_reducible apply keep_setSlWord)
  | cons a l ih =>
    unfold State.keepSaved; try dsimp only
    repeat' (first | with_reducible assumption | with_reducible apply ih | with_reducible apply keep_setSlWord)

theorem keep_lostRecs {cs : List Instr} {s : State} (y1 : List Blk) (hk : Keeps cs s) :
    Keeps cs (State.lostRecs s y1) := by
  induction y1 generalizing s with
  | nil =>
    unfold State.lostRecs; try dsimp only
    repeat' (first | with_reducible assumption | with_reducible apply ih | with_reducible apply keep_log)
  | cons a l ih =>
    unfold State.lostRecs; try dsimp only
    repeat' (first | with_reducible assumption | with_reducible apply ih | with_reducible apply keep_log)

theorem keep_restore {cs : List Instr} {s : State} (y1 : List (Nat × Nat)) (hk : Keeps cs s) :
    Keeps cs (State.restore s y1) := by
  induction y1 generalizing s with
  | nil =>
    unfold State.restore; try dsimp only
    repeat' (first | with_reducible assumption | with_reducible apply ih | with_reducible apply keep_settleWrite | with_reducible apply keep_wWord)
  | cons a l ih =>
    unfold State.restore; try dsimp only
    repeat' (first | with_reducible assumption | with_reducible apply ih | with_reducible apply keep_settleWrite | with_reducible apply keep_wWord)

theorem keep_parkPorts {cs : List Instr} {s : State} (y1 : List PortNo) (hk : Keeps cs s) :
    Keeps cs (State.parkPorts s y1) := by
  induction y1 generalizing s with
  | nil =>
    unfold State.parkPorts; try dsimp only
    repeat' (first | with_reducible assumption | with_reducible apply ih | with_reducible apply keep_emit | with_reducible apply keep_portDown | with_reducible apply keeps_ite | with_reducible intro _)
  | cons a l ih =>
    unfold State.parkPorts; try dsimp only
    repeat' (first | with_reducible assumption | with_reducible apply ih | with_reducible apply keep_emit | with_reducible apply keep_portDown | with_reducible apply keeps_ite | with_reducible intro _)

theorem keep_switchOff {cs : List Instr} {s : State} (y1 : List Nat) (hk : Keeps cs s) :
    Keeps cs (State.switchOff s y1) := by
  induction y1 generalizing s with
  | nil =>
    unfold State.switchOff; try dsimp only
    repeat' (first | with_reducible assumption | with_reducible apply keep_clkOf | with_reducible apply keep_gatesZero | with_reducible apply keep_headBalls | with_reducible apply keep_setF | with_reducible apply keeps_ite | with_reducible intro _ | split | refine keeps_mk rfl rfl rfl rfl rfl rfl rfl rfl ?_)
  | cons a l ih =>
    unfold State.switchOff; try dsimp only
    repeat' (first | with_reducible assumption | with_reducible apply ih | with_reducible apply keep_clkOf | with_reducible apply keep_gatesZero | with_reducible apply keep_headBalls | with_reducible apply keep_setF | with_reducible apply keeps_ite | with_reducible intro _ | split | refine keeps_mk rfl rfl rfl rfl rfl rfl rfl rfl ?_)

theorem keep_hostOff {cs : List Instr} {s : State}  (hk : Keeps cs s) :
    Keeps cs (State.hostOff s) := by
  unfold State.hostOff
  try dsimp only
  repeat' (first | with_reducible assumption | with_reducible apply keep_clearVf | with_reducible apply keep_flrs | with_reducible apply keeps_ite | with_reducible intro _ | refine keeps_mk rfl rfl rfl rfl rfl rfl rfl rfl ?_)

theorem keep_commitEntry {cs : List Instr} {s : State} (e : Entry) (hk : Keeps cs s) :
    Keeps cs (State.commitEntry s e) := by
  unfold State.commitEntry
  try dsimp only
  repeat' (first | with_reducible assumption | with_reducible apply keep_clearSaved | with_reducible apply keep_done | with_reducible apply keep_drtGone | with_reducible apply keep_endSessions | with_reducible apply keep_hostOff | with_reducible apply keep_keepSaved | with_reducible apply keep_noEntry | with_reducible apply keep_parkPorts | with_reducible apply keep_powerDone | with_reducible apply keep_powerRsp | with_reducible apply keep_setF | with_reducible apply keep_switchOff | with_reducible apply keeps_ite | with_reducible intro _ | split | refine keeps_mk rfl rfl rfl rfl rfl rfl rfl rfl ?_)

theorem keep_entryTick {cs : List Instr} {s : State}  (hk : Keeps cs s) :
    Keeps cs (State.entryTick s) := by
  unfold State.entryTick
  try dsimp only
  repeat' (first | with_reducible assumption | with_reducible apply keep_ap0 | with_reducible apply keep_capture | with_reducible apply keep_commitEntry | with_reducible apply keep_done | with_reducible apply keep_setEntry | with_reducible apply keep_woken | with_reducible apply keeps_ite | with_reducible intro _ | split | refine keeps_mk rfl rfl rfl rfl rfl rfl rfl rfl ?_)

theorem keep_quiesced1 {cs : List Instr} {s : State} (d : Nat) (hk : Keeps cs s) :
    Keeps cs (State.quiesced1 s d) := by
  unfold State.quiesced1
  try dsimp only
  repeat' (first | with_reducible assumption | with_reducible apply keep_quiesceNext | with_reducible apply keeps_ite | with_reducible intro _ | refine keeps_fst (by with_reducible assumption) ?_ | refine keeps_snd (by with_reducible assumption) ?_ | split | refine keeps_mk rfl rfl rfl rfl rfl rfl rfl rfl ?_)

theorem keep_execQuiesceComplete {cs : List Instr} {s : State} (d : Domain) (hk : Keeps cs s) :
    KeepsO cs (execQuiesceComplete d s) := by
  unfold execQuiesceComplete
  try dsimp only
  repeat' (first | with_reducible assumption | with_reducible apply keep_ap0 | with_reducible apply keep_quiesced1 | with_reducible apply keepsO_next | with_reducible apply keeps_ite | with_reducible apply keepsO_ite | with_reducible intro _ | refine keeps_fst (by with_reducible assumption) ?_ | refine keeps_snd (by with_reducible assumption) ?_ | split | refine keeps_mk rfl rfl rfl rfl rfl rfl rfl rfl ?_)

theorem keep_coreOn {cs : List Instr} {s : State} (hk : Keeps cs s) : Keeps cs (State.coreOn s) := by
  unfold State.coreOn
  have h := keep_setF F.GLB_RSTCAUSE_READY 0 (keep_resetRange 0x70000 0x80000 hk)
  dsimp only
  generalize (s.resetRange 0x70000 0x80000).setF F.GLB_RSTCAUSE_READY 0 = t at h ⊢
  exact ⟨h.pending, h.regs, h.tank, rfl, h.ret, h.pages, h.nodup, h.log, reset_evq⟩

theorem keep_wakeHost {cs : List Instr} {s : State}  (hk : Keeps cs s) :
    Keeps cs (State.wakeHost s) := by
  unfold State.wakeHost
  try dsimp only
  repeat' (first | with_reducible assumption | with_reducible apply keep_emit | refine keeps_mk rfl rfl rfl rfl rfl rfl rfl rfl ?_)

theorem keep_domainUp {cs : List Instr} {s : State} (d : Nat) (hk : Keeps cs s) :
    Keeps cs (State.domainUp s d) := by
  unfold State.domainUp
  try dsimp only
  repeat' (first | with_reducible assumption | with_reducible apply keep_clkOf | with_reducible apply keep_coreOn | with_reducible apply keep_draw | with_reducible apply keep_lostRecs | with_reducible apply keep_resetDomain | with_reducible apply keep_restore | with_reducible apply keep_setF | with_reducible apply keep_wakeHost | with_reducible apply keeps_ite | with_reducible intro _)

theorem keep_domainsUp {cs : List Instr} {s : State} (y1 : List Nat) (hk : Keeps cs s) :
    Keeps cs (State.domainsUp s y1) := by
  induction y1 generalizing s with
  | nil =>
    unfold State.domainsUp; try dsimp only
    repeat' (first | with_reducible assumption | with_reducible apply ih | with_reducible apply keep_domainUp)
  | cons a l ih =>
    unfold State.domainsUp; try dsimp only
    repeat' (first | with_reducible assumption | with_reducible apply ih | with_reducible apply keep_domainUp)

theorem keep_exitNow {cs : List Instr} {s : State}  (hk : Keeps cs s) :
    Keeps cs (State.exitNow s) := by
  unfold State.exitNow
  try dsimp only
  repeat' (first | with_reducible assumption | with_reducible apply keep_domainsUp | with_reducible apply keep_latchPins | with_reducible apply keep_powerDone | with_reducible apply keep_reload | with_reducible apply keeps_ite | with_reducible intro _ | refine keeps_fst (by with_reducible assumption) ?_ | refine keeps_snd (by with_reducible assumption) ?_ | split | refine keeps_mk rfl rfl rfl rfl rfl rfl rfl rfl ?_)

theorem keep_execPower {cs : List Instr} {s : State} (via : Via) (target : Pwr) (hk : Keeps cs s) :
    KeepsO cs (execPower via target s) := by
  unfold execPower
  try dsimp only
  repeat' (first | with_reducible assumption | with_reducible apply keep_exitNow | with_reducible apply keep_pfDrop | with_reducible apply keep_pwrBegin | with_reducible apply keep_settleWrite | with_reducible apply keep_verb | with_reducible apply keep_wPwrctl | with_reducible apply keepsO_next | with_reducible apply keeps_ite | with_reducible apply keepsO_ite | with_reducible apply keepsA_ite | with_reducible apply keepsA_ok | exact keepsA_er | with_reducible intro _ | refine keeps_fst (by with_reducible assumption) ?_ | refine keeps_snd (by with_reducible assumption) ?_ | refine keepsW_get (by with_reducible assumption) ?_ | exact keepsW_get rfl (by with_reducible assumption) | split | refine keeps_mk rfl rfl rfl rfl rfl rfl rfl rfl ?_)

theorem keep_execPowerQuery {cs : List Instr} {s : State} (ln : Ln) (hk : Keeps cs s) :
    KeepsO cs (execPowerQuery ln s) := by
  unfold execPowerQuery
  try dsimp only
  repeat' (first | with_reducible assumption | with_reducible apply keep_verb | with_reducible apply keepsO_next | with_reducible apply keeps_ite | with_reducible apply keepsO_ite | with_reducible apply keepsA_ite | with_reducible apply keepsA_ok | exact keepsA_er | with_reducible intro _)

theorem keep_wakeNow {cs : List Instr} {s : State} (w : Wake) (hk : Keeps cs s) :
    Keeps cs (State.wakeNow s w) := by
  unfold State.wakeNow
  try dsimp only
  repeat' (first | with_reducible assumption | with_reducible apply keep_exitNow | with_reducible apply keep_wakeRecord | with_reducible apply keeps_ite | with_reducible intro _ | refine keeps_fst (by with_reducible assumption) ?_ | refine keeps_snd (by with_reducible assumption) ?_ | split | refine keeps_mk rfl rfl rfl rfl rfl rfl rfl rfl ?_)

theorem keep_execWakeEvent {cs : List Instr} {s : State} (w : Wake) (hk : Keeps cs s) :
    KeepsO cs (execWakeEvent w s) := by
  unfold execWakeEvent
  try dsimp only
  repeat' (first | with_reducible assumption | with_reducible apply keep_wakeNow | with_reducible apply keepsO_next)

theorem keep_execIgnitionChange {cs : List Instr} {s : State} (high : Bool) (hk : Keeps cs s) :
    KeepsO cs (execIgnitionChange high s) := by
  unfold execIgnitionChange
  try dsimp only
  repeat' (first | with_reducible assumption | with_reducible apply keep_log | with_reducible apply keep_setSeq | with_reducible apply keep_wakeNow | with_reducible apply keepsO_next | with_reducible apply keeps_ite | with_reducible apply keepsO_ite | with_reducible intro _ | refine keeps_mk rfl rfl rfl rfl rfl rfl rfl rfl ?_)

theorem keep_execIgnitionHoldExpiry {cs : List Instr} {s : State}  (hk : Keeps cs s) :
    KeepsO cs (execIgnitionHoldExpiry s) := by
  unfold execIgnitionHoldExpiry
  try dsimp only
  repeat' (first | with_reducible assumption | with_reducible apply keep_setSeq | with_reducible apply keepsO_next | with_reducible apply keeps_ite | with_reducible apply keepsO_ite | with_reducible intro _ | refine keeps_fst (by with_reducible assumption) ?_ | refine keeps_snd (by with_reducible assumption) ?_ | split | refine keeps_mk rfl rfl rfl rfl rfl rfl rfl rfl ?_)

theorem keep_execIgnitionDrainTimeout {cs : List Instr} {s : State}  (hk : Keeps cs s) :
    KeepsO cs (execIgnitionDrainTimeout s) := by
  unfold execIgnitionDrainTimeout
  try dsimp only
  repeat' (first | with_reducible assumption | with_reducible apply keep_log | with_reducible apply keep_setSeq | with_reducible apply keepsO_next | with_reducible apply keeps_ite | with_reducible apply keepsO_ite | with_reducible intro _)

theorem keep_seqRecordStop {cs : List Instr} {s : State}  (hk : Keeps cs s) :
    Keeps cs (State.seqRecordStop s) := by
  unfold State.seqRecordStop
  try dsimp only
  repeat' (first | with_reducible assumption | with_reducible apply keep_flushNow | refine keeps_mk rfl rfl rfl rfl rfl rfl rfl rfl ?_)

theorem keep_seqUnload {cs : List Instr} {s : State}  (hk : Keeps cs s) :
    Keeps cs (State.seqUnload s) := by
  unfold State.seqUnload
  try dsimp only
  repeat' (first | with_reducible assumption | with_reducible apply keep_beginMove | with_reducible apply keep_clearBins | with_reducible apply keep_setCart | with_reducible apply keep_takenOver | with_reducible apply keep_writeDirs | with_reducible apply keeps_ite | with_reducible intro _ | refine keeps_mk rfl rfl rfl rfl rfl rfl rfl rfl ?_)

theorem keep_seqRecordStart {cs : List Instr} {s : State}  (hk : Keeps cs s) :
    Keeps cs (State.seqRecordStart s) := by
  unfold State.seqRecordStart
  try dsimp only
  repeat' (first | with_reducible assumption | with_reducible apply keep_beginMove | with_reducible apply keep_headTo | with_reducible apply keep_startReplay | with_reducible apply keeps_ite | with_reducible intro _)

theorem keep_ignAct {cs : List Instr} {s : State} (k : IgnOrder) (hk : Keeps cs s) :
    Keeps cs (State.ignAct s k) := by
  unfold State.ignAct
  try dsimp only
  repeat' (first | with_reducible assumption | with_reducible apply keep_setSeq | with_reducible apply keep_seqRecordStop | with_reducible apply keep_seqUnload | with_reducible apply keep_seqRecordStart | with_reducible apply keep_pwrBegin | with_reducible apply keeps_ite | with_reducible intro _ | refine keeps_fst (by with_reducible assumption) ?_ | refine keeps_snd (by with_reducible assumption) ?_ | split | refine keeps_mk rfl rfl rfl rfl rfl rfl rfl rfl ?_)

theorem keep_seqAfterStop {cs : List Instr} {s : State}  (hk : Keeps cs s) :
    Keeps cs (State.seqAfterStop s) := by
  unfold State.seqAfterStop
  try dsimp only
  repeat' (first | with_reducible assumption | with_reducible apply keep_setSeq | with_reducible apply keeps_ite | with_reducible intro _)

theorem keep_ignTick {cs : List Instr} {s : State}  (hk : Keeps cs s) :
    Keeps cs (State.ignTick s) := by
  unfold State.ignTick
  try dsimp only
  repeat' (first | with_reducible assumption | with_reducible apply keep_pwrBegin | with_reducible apply keep_seqAfterStop | with_reducible apply keep_seqRecordStart | with_reducible apply keep_seqRecordStop | with_reducible apply keep_seqUnload | with_reducible apply keep_setSeq | with_reducible apply keeps_ite | with_reducible intro _ | refine keeps_fst (by with_reducible assumption) ?_ | refine keeps_snd (by with_reducible assumption) ?_ | split | refine keeps_mk rfl rfl rfl rfl rfl rfl rfl rfl ?_)

theorem keep_execHoldupOkChange {cs : List Instr} {s : State} (high : Bool) (hk : Keeps cs s) :
    KeepsO cs (execHoldupOkChange high s) := by
  unfold execHoldupOkChange
  try dsimp only
  repeat' (first | with_reducible assumption | with_reducible apply keep_secChanged | with_reducible apply keepsO_next | refine keeps_mk rfl rfl rfl rfl rfl rfl rfl rfl ?_)

theorem keep_dumpStart {cs : List Instr} {s : State} (st : Nat) (hk : Keeps cs s) :
    Keeps cs (State.dumpStart s st) := by
  unfold State.dumpStart
  try dsimp only
  repeat' (first | with_reducible assumption | with_reducible apply keep_dumpReads | with_reducible apply keep_writeCtl | with_reducible apply keep_writeDump | with_reducible apply keep_writeErrs | with_reducible apply keeps_ite | with_reducible intro _ | refine keeps_mk rfl rfl rfl rfl rfl rfl rfl rfl ?_)

theorem keep_pfailGates {cs : List Instr} {s : State}  (hk : Keeps cs s) :
    Keeps cs (State.pfailGates s) := by
  unfold State.pfailGates
  try dsimp only
  repeat' (first | with_reducible assumption | with_reducible apply keep_gatesOff | with_reducible apply keep_setMode | with_reducible apply keeps_ite | with_reducible intro _)

theorem keep_powerLost {cs : List Instr} {s : State}  (hk : Keeps cs s) :
    Keeps cs (State.powerLost s) := by
  unfold State.powerLost
  try dsimp only
  repeat' (first | with_reducible assumption | refine keeps_mk rfl rfl rfl rfl rfl rfl rfl rfl ?_)

theorem keep_halt {cs : List Instr} {s : State}  (hk : Keeps cs s) :
    Keeps cs (State.halt s) := by
  unfold State.halt
  try dsimp only
  repeat' (first | with_reducible assumption | refine keeps_mk rfl rfl rfl rfl rfl rfl rfl rfl ?_)

theorem keep_execPfailAssert {cs : List Instr} {s : State} (widthNs : Nat) (hk : Keeps cs s) :
    KeepsO cs (execPfailAssert widthNs s) := by
  unfold execPfailAssert
  try dsimp only
  repeat' (first | with_reducible assumption | with_reducible apply keep_cause | with_reducible apply keep_draw | with_reducible apply keep_dropTests | with_reducible apply keep_drtGone | with_reducible apply keep_dumpStart | with_reducible apply keep_endSessions | with_reducible apply keep_eventAll | with_reducible apply keep_groupLost | with_reducible apply keep_halt | with_reducible apply keep_haltWrite | with_reducible apply keep_headBalls | with_reducible apply keep_notify | with_reducible apply keep_pfailGates | with_reducible apply keep_powerLost | with_reducible apply keep_secChanged | with_reducible apply keep_setF | with_reducible apply keep_switchOff | with_reducible apply keepsO_next | with_reducible apply keeps_ite | with_reducible apply keepsO_ite | with_reducible intro _ | refine keeps_mk rfl rfl rfl rfl rfl rfl rfl rfl ?_)

theorem keep_execDumpComplete {cs : List Instr} {s : State} (centiMs : Nat) (hk : Keeps cs s) :
    KeepsO cs (execDumpComplete centiMs s) := by
  unfold execDumpComplete
  try dsimp only
  repeat' (first | with_reducible assumption | with_reducible apply keep_writeCtl | with_reducible apply keepsO_next | with_reducible apply keeps_ite | with_reducible apply keepsO_ite | with_reducible intro _ | refine keeps_mk rfl rfl rfl rfl rfl rfl rfl rfl ?_)

theorem keep_wakeRelease {cs : List Instr} {s : State}  (hk : Keeps cs s) :
    Keeps cs (State.wakeRelease s) := by
  unfold State.wakeRelease
  try dsimp only
  repeat' (first | with_reducible assumption | with_reducible apply keep_emit | with_reducible apply keeps_ite | with_reducible intro _ | split | refine keeps_mk rfl rfl rfl rfl rfl rfl rfl rfl ?_)

theorem keep_wakeAll {cs : List Instr} {s : State} (y1 : List Wake) (hk : Keeps cs s) :
    Keeps cs (State.wakeAll s y1) := by
  induction y1 generalizing s with
  | nil => exact hk
  | cons a l ih => exact ih (keep_wakeNow a hk)

theorem keep_takeEdges {cs : List Instr} {s : State} (hk : Keeps cs s) : Keeps cs (State.takeEdges s) := by
  unfold State.takeEdges
  exact keep_wakeAll _ (keeps_mk rfl rfl rfl rfl rfl rfl rfl rfl hk)

theorem keep_powerTick {cs : List Instr} {s : State}  (hk : Keeps cs s) :
    Keeps cs (State.powerTick s) := by
  unfold State.powerTick
  try dsimp only
  repeat' (first | with_reducible assumption | with_reducible apply keep_takeEdges | with_reducible apply keep_entryTick | with_reducible apply keep_exitNow | with_reducible apply keep_ignTick | with_reducible apply keep_wakeRelease | with_reducible apply keeps_ite | with_reducible intro _)

end Sys2Proof.Machine
end

