-- ==== Sys2Proof/Laws/KeepsCascade.lean ====
section
/-! SUPPORT. Every operation of Machine/Cascade.lean keeps the machine's invariant and its queue. -/

namespace Sys2Proof.Machine

theorem keep_rsp {cs : List Instr} {s : State} (src : BitVec 16) (tag : BitVec 16) (op : Nat) (result : Nat) (status : Nat) (hk : Keeps cs s) :
    Keeps cs (State.rsp s src tag op result status) := by
  unfold State.rsp
  try dsimp only
  repeat' (first | with_reducible assumption | with_reducible apply keep_sendRsp)

theorem keep_control {cs : List Instr} {s act : State} (src : BitVec 16) (tag : BitVec 16) (op : Nat) (hk : Keeps cs s) (hkact : Keeps cs act) :
    Keeps cs (State.control s src tag op act) := by
  unfold State.control
  try dsimp only
  repeat' (first | with_reducible assumption | with_reducible apply keep_rsp | with_reducible apply keeps_ite | with_reducible intro _)

theorem keep_execCmdPlova {cs : List Instr} {s : State} (src : BitVec 16) (tag : BitVec 16) (level : Fin 3) (text : List Char) (hk : Keeps cs s) :
    KeepsO cs (execCmdPlova src tag level text s) := by
  unfold execCmdPlova
  try dsimp only
  repeat' (first | with_reducible assumption | with_reducible apply keep_reply | with_reducible apply keepsO_next | with_reducible apply keeps_ite | with_reducible apply keepsO_ite | with_reducible apply keepsA_ite | with_reducible apply keepsA_ok | exact keepsA_er | with_reducible intro _ | refine keeps_fst (by with_reducible assumption) ?_ | refine keeps_snd (by with_reducible assumption) ?_ | split | refine keeps_mk rfl rfl rfl rfl rfl rfl rfl rfl ?_)

theorem keep_cascadeCause {cs : List Instr} {s : State}  (hk : Keeps cs s) :
    Keeps cs (State.cascadeCause s) := by
  unfold State.cascadeCause
  try dsimp only
  repeat' (first | with_reducible assumption | with_reducible apply keep_wr)

theorem keep_execCmdReset {cs : List Instr} {s : State} (src : BitVec 16) (tag : BitVec 16) (kind : Byte) (dom : Byte) (hk : Keeps cs s) :
    KeepsO cs (execCmdReset src tag kind dom s) := by
  unfold execCmdReset
  try dsimp only
  repeat' (first | with_reducible assumption | with_reducible apply keep_cascadeCause | with_reducible apply keep_control | with_reducible apply keep_domReset | with_reducible apply keep_rsp | with_reducible apply keep_warm | with_reducible apply keepsO_next | with_reducible apply keeps_ite | with_reducible apply keepsO_ite | with_reducible intro _)

theorem keep_execCmdPower {cs : List Instr} {s : State} (src : BitVec 16) (tag : BitVec 16) (state : Byte) (hk : Keeps cs s) :
    KeepsO cs (execCmdPower src tag state s) := by
  unfold execCmdPower
  try dsimp only
  repeat' (first | with_reducible assumption | with_reducible apply keep_control | with_reducible apply keep_exitNow | with_reducible apply keep_pwrBegin | with_reducible apply keep_rsp | with_reducible apply keepsO_next | with_reducible apply keeps_ite | with_reducible apply keepsO_ite | with_reducible intro _ | refine keeps_fst (by with_reducible assumption) ?_ | refine keeps_snd (by with_reducible assumption) ?_ | split | refine keeps_mk rfl rfl rfl rfl rfl rfl rfl rfl ?_)

theorem keep_execCmdWake {cs : List Instr} {s : State} (src : BitVec 16) (tag : BitVec 16) (mask : Byte) (hk : Keeps cs s) :
    KeepsO cs (execCmdWake src tag mask s) := by
  unfold execCmdWake
  try dsimp only
  repeat' (first | with_reducible assumption | with_reducible apply keep_control | with_reducible apply keep_rsp | with_reducible apply keep_wakeDown | with_reducible apply keepsO_next)

theorem keep_readBack {cs : List Instr} {s : State} (src : BitVec 16) (tag : BitVec 16) (op : Nat) (v : Nat) (hk : Keeps cs s) :
    Keeps cs (State.readBack s src tag op v) := by
  unfold State.readBack
  try dsimp only
  repeat' (first | with_reducible assumption | with_reducible apply keep_sendRsp)

theorem keep_execCmdPoke {cs : List Instr} {s : State} (src : BitVec 16) (tag : BitVec 16) (off : Word) (v : Word) (hk : Keeps cs s) :
    KeepsO cs (execCmdPoke src tag off v s) := by
  unfold execCmdPoke
  try dsimp only
  repeat' (first | with_reducible assumption | with_reducible apply keep_control | with_reducible apply keep_readBack | with_reducible apply keep_remapFull | with_reducible apply keep_rsp | with_reducible apply keep_wWord | with_reducible apply keepsO_next | with_reducible apply keeps_ite | with_reducible apply keepsO_ite | with_reducible intro _ | refine keeps_fst (by with_reducible assumption) ?_ | refine keeps_snd (by with_reducible assumption) ?_ | refine keepsW_get (by with_reducible assumption) ?_ | exact keepsW_get rfl (by with_reducible assumption) | split | refine keeps_mk rfl rfl rfl rfl rfl rfl rfl rfl ?_)

theorem keep_execCmdPeek {cs : List Instr} {s : State} (src : BitVec 16) (tag : BitVec 16) (off : Word) (hk : Keeps cs s) :
    KeepsO cs (execCmdPeek src tag off s) := by
  unfold execCmdPeek
  try dsimp only
  repeat' (first | with_reducible assumption | with_reducible apply keep_control | with_reducible apply keep_peek | with_reducible apply keep_readAct | with_reducible apply keep_readBack | with_reducible apply keep_rsp | with_reducible apply keepsO_next | with_reducible apply keeps_ite | with_reducible apply keepsO_ite | with_reducible intro _ | refine keeps_fst (by with_reducible assumption) ?_ | refine keeps_snd (by with_reducible assumption) ?_ | split | refine keeps_mk rfl rfl rfl rfl rfl rfl rfl rfl ?_)

end Sys2Proof.Machine
end

