-- ==== Sys2Proof/Laws/KeepsLine.lean ====
section
/-! SUPPORT. Every operation of Machine/Line.lean keeps the machine's invariant and its queue. -/

namespace Sys2Proof.Machine

theorem keep_forwardAll {cs : List Instr} {s : State} (lv : Nat) (text : List Byte) (ln : Ln) (writes : Bool) (y1 : List Nat) (hk : Keeps cs s) :
    Keeps cs (State.forwardAll s lv text ln writes y1) := by
  induction y1 generalizing s lv text ln writes with
  | nil =>
    unfold State.forwardAll; try dsimp only
    repeat' (first | with_reducible assumption | with_reducible apply ih | with_reducible apply keep_sendCmd)
  | cons a l ih =>
    unfold State.forwardAll; try dsimp only
    repeat' (first | with_reducible assumption | with_reducible apply ih | with_reducible apply keep_sendCmd)

theorem keep_forwardFront {cs : List Instr} {s : State} (n : Sid) (hk : Keeps cs s) :
    Keeps cs (State.forwardFront s n) := by
  unfold State.forwardFront
  try dsimp only
  repeat' (first | with_reducible assumption | with_reducible apply keep_forwardAll | with_reducible apply keep_lineDone | with_reducible apply keep_sendLines | with_reducible apply keep_setSes | with_reducible apply keeps_ite | with_reducible intro _ | refine keeps_fst (by with_reducible assumption) ?_ | refine keeps_snd (by with_reducible assumption) ?_ | exact keeps_evq (by with_reducible assumption) | exact Keeps.evq hk _ | refine keeps_evq (cs := cs) ?_ | with_reducible apply queueEvent_evq | exact Nat.zero_le _ | split | refine keeps_mk rfl rfl rfl rfl rfl rfl rfl rfl ?_)

theorem keep_execPlovaLine {cs : List Instr} {s : State} (n : Sid) (term : Term) (hk : Keeps cs s) :
    KeepsO cs (execPlovaLine n term s) := by
  unfold execPlovaLine
  try dsimp only
  repeat' (first | with_reducible assumption | with_reducible apply keep_answerFront | with_reducible apply keep_echoTo | with_reducible apply keep_forwardFront | with_reducible apply keep_rtsFrom | with_reducible apply keep_setSes | with_reducible apply keep_uartAlive | with_reducible apply keepsO_next | with_reducible apply keeps_ite | with_reducible apply keepsO_ite | with_reducible intro _ | exact keeps_evq (by with_reducible assumption) | exact Keeps.evq hk _ | refine keeps_evq (cs := cs) ?_ | with_reducible apply queueEvent_evq | exact Nat.zero_le _ | exact (keep_uartAlive _ hk).evq _ | refine keeps_mk rfl rfl rfl rfl rfl rfl rfl rfl ?_)

end Sys2Proof.Machine
end

