-- ==== Sys2Proof/Laws/KeepsArbiter.lean ====
section
/-! SUPPORT. Every operation of Machine/Arbiter.lean keeps the machine's invariant and its queue. -/

namespace Sys2Proof.Machine

theorem keep_nextOf {cs : List Instr} {s : State} (y1 : Host.Outcome State Fault Refusal) (hk : Keeps cs s) (ho : KeepsO cs y1) :
    Keeps cs (nextOf s y1) := by
  unfold nextOf
  try dsimp only
  repeat' (first | with_reducible assumption | with_reducible apply keepsO_next | with_reducible apply keeps_ite | with_reducible apply keepsO_ite | with_reducible apply keepsW_ite | with_reducible apply keepsA_ite | with_reducible apply keeps_fst_ite | with_reducible apply keepsW_ok | exact keepsW_refuse | with_reducible apply keepsA_ok | exact keepsA_er | with_reducible apply keepsA_fail | with_reducible apply keeps_foldl | with_reducible intro _ | refine keeps_fst (by with_reducible assumption) ?_ | refine keeps_snd (by with_reducible assumption) ?_ | refine keepsW_get (by with_reducible assumption) ?_ | refine keepsO_get (by with_reducible assumption) ?_ | exact keepsO_get rfl (by with_reducible assumption) | exact keepsW_get rfl (by with_reducible assumption) | exact keepsA_ok_get rfl (by with_reducible assumption) | exact keepsA_fail_get rfl (by with_reducible assumption) | with_reducible apply keep_putErr | exact keeps_evq (by with_reducible assumption) | exact Keeps.evq hk _ | refine keeps_evq (cs := cs) ?_ | with_reducible apply queueEvent_evq | exact Nat.zero_le _ | split | refine keeps_mk rfl rfl rfl rfl rfl rfl rfl rfl ?_)

theorem keep_orderWrite {cs : List Instr} {s : State} (src : Src) (off : Nat) (v : Word) (hk : Keeps cs s) :
    Keeps cs (State.orderWrite s src off v) := by
  unfold State.orderWrite
  try dsimp only
  repeat' (first | with_reducible assumption | with_reducible apply keep_busWrite)

theorem keep_lineAct {cs : List Instr} {s : State} (ln : Ln) (a : Act) (hk : Keeps cs s) :
    Keeps cs (State.lineAct s ln a) := by
  unfold State.lineAct
  try dsimp only
  repeat' (first | with_reducible assumption | with_reducible apply keep_applyDoor | with_reducible apply keep_dropQueue | with_reducible apply keep_execFreeMotion | with_reducible apply keep_execLockMotion | with_reducible apply keep_execPoke | with_reducible apply keep_execQueueCreate | with_reducible apply keep_execQueueDelete | with_reducible apply keep_nextOf | with_reducible apply keep_orderWrite | with_reducible apply keeps_ite | with_reducible intro _ | refine keeps_fst (by with_reducible assumption) ?_ | refine keeps_snd (by with_reducible assumption) ?_ | refine keep_create ?_ (by with_reducible assumption) | refine keepsW_get (by with_reducible assumption) ?_ | exact keepsW_get rfl (by with_reducible assumption) | split | refine keeps_mk rfl rfl rfl rfl rfl rfl rfl rfl ?_)

theorem keep_busAct {cs : List Instr} {s : State} (src : Src) (a : Act) (hk : Keeps cs s) :
    Keeps cs (State.busAct s src a) := by
  unfold State.busAct
  try dsimp only
  repeat' (first | with_reducible assumption | with_reducible apply keep_execDoorbellWrite | with_reducible apply keep_execQcmdCreate | with_reducible apply keep_execQcmdDelete | with_reducible apply keep_nextOf | with_reducible apply keep_orderWrite | refine keeps_fst (by with_reducible assumption) ?_ | refine keeps_snd (by with_reducible assumption) ?_ | refine keepsO_get (by with_reducible assumption) ?_ | exact keepsO_get rfl (by with_reducible assumption) | split | refine keeps_mk rfl rfl rfl rfl rfl rfl rfl rfl ?_)

theorem keep_win {cs : List Instr} {s : State} (o : Order) (hk : Keeps cs s) :
    Keeps cs (State.win s o) := by
  unfold State.win
  try dsimp only
  repeat' (first | with_reducible assumption | with_reducible apply keep_ignAct | with_reducible apply keep_busAct | with_reducible apply keep_execCmdPoke | with_reducible apply keep_execDrtOpen | with_reducible apply keep_lineAct | with_reducible apply keep_nextOf | with_reducible apply keep_trip | with_reducible apply keeps_ite | with_reducible intro _ | refine keeps_fst (by with_reducible assumption) ?_ | refine keeps_snd (by with_reducible assumption) ?_ | split | refine keeps_mk rfl rfl rfl rfl rfl rfl rfl rfl ?_)

theorem keep_winAll {cs : List Instr} {s : State} (y1 : List Order) (hk : Keeps cs s) :
    Keeps cs (State.winAll s y1) := by
  induction y1 generalizing s with
  | nil =>
    unfold State.winAll; try dsimp only
    repeat' (first | with_reducible assumption | with_reducible apply ih | with_reducible apply keep_win)
  | cons a l ih =>
    unfold State.winAll; try dsimp only
    repeat' (first | with_reducible assumption | with_reducible apply ih | with_reducible apply keep_win)

theorem keep_postNotice {cs : List Instr} {s : State} (q : Queue) (tail : Nat) (hk : Keeps cs s) :
    Keeps cs (State.postNotice s q tail) := by
  unfold State.postNotice
  try dsimp only
  repeat' (first | with_reducible assumption | with_reducible apply keep_complete | with_reducible apply keeps_ite | with_reducible intro _)

theorem keep_countLoss {cs : List Instr} {s : State} (t : Tenant) (hk : Keeps cs s) :
    Keeps cs (State.countLoss s t) := by
  unfold State.countLoss
  try dsimp only
  repeat' (first | with_reducible assumption | with_reducible apply keep_setFn | refine keeps_mk rfl rfl rfl rfl rfl rfl rfl rfl ?_)

theorem keep_pfLost {cs : List Instr} {s : State} (o : Order) (w : Order) (hk : Keeps cs s) :
    Keeps cs (State.pfLost s o w) := by
  unfold State.pfLost
  try dsimp only
  repeat' (first | with_reducible assumption | with_reducible apply keep_cause | with_reducible apply keep_count | with_reducible apply keep_log | refine keeps_fst (by with_reducible assumption) ?_ | refine keeps_snd (by with_reducible assumption) ?_ | split | refine keeps_mk rfl rfl rfl rfl rfl rfl rfl rfl ?_)

theorem keep_lossSeen {cs : List Instr} {s : State} (won : List Order) (o : Order) (hk : Keeps cs s) :
    Keeps cs (State.lossSeen s won o) := by
  unfold State.lossSeen
  try dsimp only
  repeat' (first | with_reducible assumption | with_reducible apply keep_count | with_reducible apply keep_postNotice | with_reducible apply keep_qres | with_reducible apply keeps_ite | with_reducible intro _ | refine keeps_fst (by with_reducible assumption) ?_ | refine keeps_snd (by with_reducible assumption) ?_ | split | refine keeps_mk rfl rfl rfl rfl rfl rfl rfl rfl ?_)

theorem keep_loseLine {cs : List Instr} {s : State} (ln : Ln) (w : Order) (hk : Keeps cs s) :
    Keeps cs (State.loseLine s ln w) := by
  unfold State.loseLine
  try dsimp only
  repeat' (first | with_reducible assumption | with_reducible apply keep_reply | with_reducible apply keeps_ite | with_reducible intro _ | refine keeps_mk rfl rfl rfl rfl rfl rfl rfl rfl ?_)

theorem keep_lose {cs : List Instr} {s : State} (won : List Order) (o : Order) (w : Order) (hk : Keeps cs s) :
    Keeps cs (State.lose s won o w) := by
  unfold State.lose
  try dsimp only
  repeat' (first | with_reducible assumption | with_reducible apply keep_countLoss | with_reducible apply keep_drtRefuse | with_reducible apply keep_loseLine | with_reducible apply keep_lossSeen | with_reducible apply keep_pfLost | with_reducible apply keep_sendRsp | with_reducible apply keep_trip | with_reducible apply keeps_ite | with_reducible intro _ | split | refine keeps_mk rfl rfl rfl rfl rfl rfl rfl rfl ?_)

theorem keep_decideTick {cs : List Instr} {s : State} (l : List Order) (hk : Keeps cs s) :
    Keeps cs (State.decideTick s l) := by
  unfold State.decideTick
  try dsimp only
  repeat' (first | with_reducible assumption | with_reducible apply keep_drop | with_reducible apply keep_lose | with_reducible apply keeps_foldl | with_reducible apply keeps_ite | with_reducible apply keeps_fst_ite | with_reducible intro _ | refine keeps_mk rfl rfl rfl rfl rfl rfl rfl rfl ?_)

theorem keep_serveRead {cs : List Instr} {s : State} (y1 : HeldRead) (hk : Keeps cs s) :
    Keeps cs (State.serveRead s y1) := by
  unfold State.serveRead
  try dsimp only
  repeat' (first | with_reducible assumption | with_reducible apply keep_busRead | with_reducible apply keep_count | with_reducible apply keep_execCmdPeek | with_reducible apply keep_execPeek | with_reducible apply keep_nextOf | with_reducible apply keep_peek | with_reducible apply keeps_ite | with_reducible intro _ | split | refine keeps_mk rfl rfl rfl rfl rfl rfl rfl rfl ?_)

theorem keep_serveReads {cs : List Instr} {s : State} (y1 : List HeldRead) (hk : Keeps cs s) :
    Keeps cs (State.serveReads s y1) := by
  induction y1 generalizing s with
  | nil =>
    unfold State.serveReads; try dsimp only
    repeat' (first | with_reducible assumption | with_reducible apply keep_serveRead | with_reducible apply keeps_ite | with_reducible intro _ | split | refine keeps_mk rfl rfl rfl rfl rfl rfl rfl rfl ?_)
  | cons a l ih =>
    unfold State.serveReads; try dsimp only
    repeat' (first | with_reducible assumption | with_reducible apply ih | with_reducible apply keep_serveRead | with_reducible apply keeps_ite | with_reducible intro _ | split | refine keeps_mk rfl rfl rfl rfl rfl rfl rfl rfl ?_)

theorem keep_tickLog {cs : List Instr} {s : State} (m : Option Nat) (hk : Keeps cs s) : Keeps cs (State.tickLog s m) := { hk with log := hk.log }

theorem keep_settleTick {cs : List Instr} {s : State}  (hk : Keeps cs s) :
    Keeps cs (State.settleTick s) := by
  unfold State.settleTick
  try dsimp only
  repeat' (first | with_reducible assumption | with_reducible apply keep_tickLog | with_reducible apply keep_serveReads | with_reducible apply keep_winAll | with_reducible apply keeps_ite | with_reducible intro _ | refine keeps_mk rfl rfl rfl rfl rfl rfl rfl rfl ?_)

theorem keep_tokens {cs : List Instr} {s : State}  (hk : Keeps cs s) :
    Keeps cs (State.tokens s) := by
  unfold State.tokens
  try dsimp only
  repeat' (first | with_reducible assumption | with_reducible apply keep_setBal | with_reducible apply keeps_foldl | with_reducible intro _ | refine keeps_mk rfl rfl rfl rfl rfl rfl rfl rfl ?_)

theorem keep_timebase {cs : List Instr} {s : State}  (hk : Keeps cs s) :
    Keeps cs (State.timebase s) := by
  unfold State.timebase
  try dsimp only
  repeat' (first | with_reducible assumption | with_reducible apply keeps_ite | with_reducible intro _ | refine keeps_mk rfl rfl rfl rfl rfl rfl rfl rfl ?_)

theorem keep_rtc {cs : List Instr} {s : State}  (hk : Keeps cs s) :
    Keeps cs (State.rtc s) := by
  unfold State.rtc
  try dsimp only
  repeat' (first | with_reducible assumption | with_reducible apply keep_setF | with_reducible apply keep_wakeNow | with_reducible apply keeps_ite | with_reducible intro _)

theorem keep_forwardFronts {cs : List Instr} {s : State}  (hk : Keeps cs s) :
    Keeps cs (State.forwardFronts s) := by
  unfold State.forwardFronts
  try dsimp only
  repeat' (first | with_reducible assumption | with_reducible apply keep_forwardFront | with_reducible apply keeps_foldl | with_reducible intro _)

theorem keep_microsecond {cs : List Instr} {s : State}  (hk : Keeps cs s) :
    Keeps cs (State.microsecond s) := by
  unfold State.microsecond
  try dsimp only
  repeat' (first | with_reducible assumption | with_reducible apply keep_drtResume | with_reducible apply keep_drtSyncAll | with_reducible apply keep_forwardFronts | with_reducible apply keep_headBalls | with_reducible apply keep_powerTick | with_reducible apply keep_rtc | with_reducible apply keep_selfReplies | with_reducible apply keep_timebase | with_reducible apply keep_tokens | with_reducible apply keeps_ite | with_reducible intro _ | refine keeps_mk rfl rfl rfl rfl rfl rfl rfl rfl ?_)

theorem keep_execArbitrationTick {cs : List Instr} {s : State} (orders : List Order) (hk : Keeps cs s) :
    KeepsO cs (execArbitrationTick orders s) := by
  unfold execArbitrationTick
  try dsimp only
  repeat' (first | with_reducible assumption | with_reducible apply keep_decideTick | with_reducible apply keep_microsecond | with_reducible apply keep_settleTick | with_reducible apply keepsO_next | with_reducible apply keeps_ite | with_reducible apply keepsO_ite | with_reducible intro _ | refine keeps_mk rfl rfl rfl rfl rfl rfl rfl rfl ?_)

end Sys2Proof.Machine
end

