-- ==== Sys2Proof/Laws/KeepsService.lean ====
section
/-! SUPPORT. Every operation of Machine/Service.lean keeps the machine's invariant and its queue. -/

namespace Sys2Proof.Machine

theorem keep_setStaging {cs : List Instr} {s : State} (who : Who) (k : Option KeyStage) (hk : Keeps cs s) :
    Keeps cs (State.setStaging s who k) := by
  unfold State.setStaging
  try dsimp only
  repeat' (first | with_reducible assumption | with_reducible apply keep_setSes | refine keeps_fst (by with_reducible assumption) ?_ | refine keeps_snd (by with_reducible assumption) ?_ | exact keeps_evq (by with_reducible assumption) | exact Keeps.evq hk _ | refine keeps_evq (cs := cs) ?_ | with_reducible apply queueEvent_evq | exact Nat.zero_le _ | split | refine keeps_mk rfl rfl rfl rfl rfl rfl rfl rfl ?_)

theorem keep_writeKey {cs : List Instr} {s : State} (t : Tenant) (kind : KeyKind) (key : List Byte) (hk : Keeps cs s) :
    Keeps cs (State.writeKey s t kind key) := by
  unfold State.writeKey
  try dsimp only
  repeat' (first | with_reducible assumption | refine keeps_fst (by with_reducible assumption) ?_ | refine keeps_snd (by with_reducible assumption) ?_ | split | refine keeps_mk rfl rfl rfl rfl rfl rfl rfl rfl ?_)

theorem keep_execKey {cs : List Instr} {s : State} (ln : Ln) (kind : KeyKind) (slot : Tenant) (part : Nat) (hex : DWord) (hk : Keeps cs s) :
    KeepsO cs (execKey ln kind slot part hex s) := by
  unfold execKey
  try dsimp only
  repeat' (first | with_reducible assumption | with_reducible apply keep_setStaging | with_reducible apply keep_verb | with_reducible apply keep_writeKey | with_reducible apply keepsO_next | with_reducible apply keeps_ite | with_reducible apply keepsO_ite | with_reducible apply keepsA_ite | with_reducible apply keepsA_ok | exact keepsA_er | with_reducible apply keepsA_fail | with_reducible intro _)

theorem keep_execKeyQuery {cs : List Instr} {s : State} (ln : Ln) (slot : Tenant) (hk : Keeps cs s) :
    KeepsO cs (execKeyQuery ln slot s) := by
  unfold execKeyQuery
  try dsimp only
  repeat' (first | with_reducible assumption | with_reducible apply keep_verb | with_reducible apply keepsO_next | with_reducible apply keepsA_ok | exact keepsA_er | refine keeps_fst (by with_reducible assumption) ?_ | refine keeps_snd (by with_reducible assumption) ?_ | refine keepsW_get (by with_reducible assumption) ?_ | exact keepsW_get rfl (by with_reducible assumption) | split | refine keeps_mk rfl rfl rfl rfl rfl rfl rfl rfl ?_)

theorem keep_execKeyErase {cs : List Instr} {s : State} (ln : Ln) (slot : Tenant) (which : EraseArg) (hk : Keeps cs s) :
    KeepsO cs (execKeyErase ln slot which s) := by
  unfold execKeyErase
  try dsimp only
  repeat' (first | with_reducible assumption | with_reducible apply keep_verb | with_reducible apply keepsO_next | with_reducible apply keeps_ite | with_reducible apply keepsO_ite | with_reducible apply keepsA_ite | with_reducible apply keepsA_ok | exact keepsA_er | with_reducible intro _ | refine keeps_mk rfl rfl rfl rfl rfl rfl rfl rfl ?_)

theorem keep_execFwupdateStart {cs : List Instr} {s : State} (ln : Ln) (size : Nat) (hk : Keeps cs s) :
    KeepsO cs (execFwupdateStart ln size s) := by
  unfold execFwupdateStart
  try dsimp only
  repeat' (first | with_reducible assumption | with_reducible apply keep_verb | with_reducible apply keepsO_next | with_reducible apply keeps_ite | with_reducible apply keepsO_ite | with_reducible apply keepsA_ite | with_reducible apply keepsA_ok | exact keepsA_er | with_reducible intro _ | refine keeps_mk rfl rfl rfl rfl rfl rfl rfl rfl ?_)

theorem keep_execFlashWrite {cs : List Instr} {s : State} (ln : Ln) (off : Nat) (words : List Word) (hk : Keeps cs s) :
    KeepsO cs (execFlashWrite ln off words s) := by
  unfold execFlashWrite
  try dsimp only
  repeat' (first | with_reducible assumption | with_reducible apply keep_verb | with_reducible apply keepsO_next | with_reducible apply keeps_ite | with_reducible apply keepsO_ite | with_reducible apply keepsA_ite | with_reducible apply keepsA_ok | exact keepsA_er | with_reducible apply keepsA_fail | with_reducible intro _ | split | refine keeps_mk rfl rfl rfl rfl rfl rfl rfl rfl ?_)

theorem keep_execFwupdateCommit {cs : List Instr} {s : State} (ln : Ln) (crc : Word) (hk : Keeps cs s) :
    KeepsO cs (execFwupdateCommit ln crc s) := by
  unfold execFwupdateCommit
  try dsimp only
  repeat' (first | with_reducible assumption | with_reducible apply keep_verb | with_reducible apply keepsO_next | with_reducible apply keeps_ite | with_reducible apply keepsO_ite | with_reducible apply keepsA_ite | with_reducible apply keepsA_ok | exact keepsA_er | with_reducible intro _ | refine keeps_fst (by with_reducible assumption) ?_ | refine keeps_snd (by with_reducible assumption) ?_ | refine keepsW_get (by with_reducible assumption) ?_ | exact keepsW_get rfl (by with_reducible assumption) | split | refine keeps_mk rfl rfl rfl rfl rfl rfl rfl rfl ?_)

theorem keep_writeSlot {cs : List Instr} {s : State} (crc : Word) (u : Update) (hk : Keeps cs s) :
    Keeps cs (State.writeSlot s crc u).1 := by
  unfold State.writeSlot
  try dsimp only
  repeat' (first | with_reducible assumption | with_reducible apply keep_emit | with_reducible apply keeps_ite | with_reducible apply keeps_fst_ite | with_reducible intro _ | split | refine keeps_mk rfl rfl rfl rfl rfl rfl rfl rfl ?_)

theorem keep_execFwupdateCommitComplete {cs : List Instr} {s : State}  (hk : Keeps cs s) :
    KeepsO cs (execFwupdateCommitComplete s) := by
  unfold execFwupdateCommitComplete
  try dsimp only
  repeat' (first | with_reducible assumption | with_reducible apply keep_done | with_reducible apply keep_writeSlot | with_reducible apply keepsO_next | with_reducible apply keeps_ite | with_reducible apply keepsO_ite | with_reducible apply keeps_fst_ite | with_reducible intro _ | refine keeps_fst (by with_reducible assumption) ?_ | refine keeps_snd (by with_reducible assumption) ?_ | split | refine keeps_mk rfl rfl rfl rfl rfl rfl rfl rfl ?_)

theorem keep_execFwupdateAbort {cs : List Instr} {s : State} (ln : Ln) (hk : Keeps cs s) :
    KeepsO cs (execFwupdateAbort ln s) := by
  unfold execFwupdateAbort
  try dsimp only
  repeat' (first | with_reducible assumption | with_reducible apply keep_verb | with_reducible apply keepsO_next | with_reducible apply keepsA_ok | exact keepsA_er | refine keeps_fst (by with_reducible assumption) ?_ | refine keeps_snd (by with_reducible assumption) ?_ | refine keepsW_get (by with_reducible assumption) ?_ | exact keepsW_get rfl (by with_reducible assumption) | split | refine keeps_mk rfl rfl rfl rfl rfl rfl rfl rfl ?_)

end Sys2Proof.Machine
end

