-- ==== Sys2Proof/Laws/PerInstr.lean ====
section
/-! SUPPORT. What holds of every command as syntax, one lemma per constructor. The opcode table gives none of its rows bits, so no word spells a command
(the family `NoWord`): commands come from outside as they are, and `State.withFetchWord` changes nothing. -/

namespace Sys2Proof.Laws

/-- No word spells the command. -/
def NoWord.Statement (i : Instr) : Prop := ∀ nbits w : Nat, decodeTableWord nbits w ≠ some i

/-- What the decoder answers. -/
theorem noWord_of_decode (i : Instr) : NoWord.Statement i := fun _ _ h => nomatch h

theorem NoWord.registerWrite a0 a1 a2 : NoWord.Statement (.registerWrite a0 a1 a2) := noWord_of_decode _
theorem NoWord.rcFieldRead a0 a1 : NoWord.Statement (.rcFieldRead a0 a1) := noWord_of_decode _
theorem NoWord.writeLowHalf a0 a1 a2 : NoWord.Statement (.writeLowHalf a0 a1 a2) := noWord_of_decode _
theorem NoWord.writeHighHalf a0 a1 a2 : NoWord.Statement (.writeHighHalf a0 a1 a2) := noWord_of_decode _
theorem NoWord.readLowHalf a0 a1 : NoWord.Statement (.readLowHalf a0 a1) := noWord_of_decode _
theorem NoWord.readHighHalf a0 a1 : NoWord.Statement (.readHighHalf a0 a1) := noWord_of_decode _
theorem NoWord.arbitrationTick a0 : NoWord.Statement (.arbitrationTick a0) := noWord_of_decode _
theorem NoWord.clockLoss a0 : NoWord.Statement (.clockLoss a0) := noWord_of_decode _
theorem NoWord.refClockLoss : NoWord.Statement (.refClockLoss) := noWord_of_decode _
theorem NoWord.writeUnderrun a0 : NoWord.Statement (.writeUnderrun a0) := noWord_of_decode _
theorem NoWord.doorbellWrite a0 a1 a2 : NoWord.Statement (.doorbellWrite a0 a1 a2) := noWord_of_decode _
theorem NoWord.plovaLine a0 a1 : NoWord.Statement (.plovaLine a0 a1) := noWord_of_decode _
theorem NoWord.lineEditCharacter a0 a1 : NoWord.Statement (.lineEditCharacter a0 a1) := noWord_of_decode _
theorem NoWord.uartBreak a0 : NoWord.Statement (.uartBreak a0) := noWord_of_decode _
theorem NoWord.tcpConnect a0 : NoWord.Statement (.tcpConnect a0) := noWord_of_decode _
theorem NoWord.tcpClose a0 : NoWord.Statement (.tcpClose a0) := noWord_of_decode _
theorem NoWord.tcpIdleTimeout a0 : NoWord.Statement (.tcpIdleTimeout a0) := noWord_of_decode _
theorem NoWord.serviceTimeout a0 : NoWord.Statement (.serviceTimeout a0) := noWord_of_decode _
theorem NoWord.level a0 a1 : NoWord.Statement (.level a0 a1) := noWord_of_decode _
theorem NoWord.session a0 a1 a2 a3 a4 : NoWord.Statement (.session a0 a1 a2 a3 a4) := noWord_of_decode _
theorem NoWord.sessionQuery a0 : NoWord.Statement (.sessionQuery a0) := noWord_of_decode _
theorem NoWord.lockMotion a0 : NoWord.Statement (.lockMotion a0) := noWord_of_decode _
theorem NoWord.freeMotion a0 : NoWord.Statement (.freeMotion a0) := noWord_of_decode _
theorem NoWord.helpQuery a0 a1 : NoWord.Statement (.helpQuery a0 a1) := noWord_of_decode _
theorem NoWord.idQuery a0 : NoWord.Statement (.idQuery a0) := noWord_of_decode _
theorem NoWord.stateQuery a0 : NoWord.Statement (.stateQuery a0) := noWord_of_decode _
theorem NoWord.timeQuery a0 : NoWord.Statement (.timeQuery a0) := noWord_of_decode _
theorem NoWord.errQuery a0 a1 a2 : NoWord.Statement (.errQuery a0 a1 a2) := noWord_of_decode _
theorem NoWord.errClear a0 : NoWord.Statement (.errClear a0) := noWord_of_decode _
theorem NoWord.errCtlClear a0 a1 : NoWord.Statement (.errCtlClear a0 a1) := noWord_of_decode _
theorem NoWord.contactQuery a0 : NoWord.Statement (.contactQuery a0) := noWord_of_decode _
theorem NoWord.peek a0 a1 a2 : NoWord.Statement (.peek a0 a1 a2) := noWord_of_decode _
theorem NoWord.poke a0 a1 a2 : NoWord.Statement (.poke a0 a1 a2) := noWord_of_decode _
theorem NoWord.load a0 a1 : NoWord.Statement (.load a0 a1) := noWord_of_decode _
theorem NoWord.loadComplete a0 : NoWord.Statement (.loadComplete a0) := noWord_of_decode _
theorem NoWord.unload a0 : NoWord.Statement (.unload a0) := noWord_of_decode _
theorem NoWord.unloadComplete a0 : NoWord.Statement (.unloadComplete a0) := noWord_of_decode _
theorem NoWord.cartQuery a0 : NoWord.Statement (.cartQuery a0) := noWord_of_decode _
theorem NoWord.recordStart a0 : NoWord.Statement (.recordStart a0) := noWord_of_decode _
theorem NoWord.recordStartComplete : NoWord.Statement (.recordStartComplete) := noWord_of_decode _
theorem NoWord.recordStop a0 : NoWord.Statement (.recordStop a0) := noWord_of_decode _
theorem NoWord.recordStopComplete : NoWord.Statement (.recordStopComplete) := noWord_of_decode _
theorem NoWord.flush a0 : NoWord.Statement (.flush a0) := noWord_of_decode _
theorem NoWord.flushDatasetClose : NoWord.Statement (.flushDatasetClose) := noWord_of_decode _
theorem NoWord.motionStart a0 a1 a2 : NoWord.Statement (.motionStart a0 a1 a2) := noWord_of_decode _
theorem NoWord.motionStop a0 : NoWord.Statement (.motionStop a0) := noWord_of_decode _
theorem NoWord.speed a0 a1 : NoWord.Statement (.speed a0 a1) := noWord_of_decode _
theorem NoWord.locate a0 a1 : NoWord.Statement (.locate a0 a1) := noWord_of_decode _
theorem NoWord.locateLpw a0 a1 : NoWord.Statement (.locateLpw a0 a1) := noWord_of_decode _
theorem NoWord.locateComplete a0 a1 a2 : NoWord.Statement (.locateComplete a0 a1 a2) := noWord_of_decode _
theorem NoWord.locateProbe a0 : NoWord.Statement (.locateProbe a0) := noWord_of_decode _
theorem NoWord.motionQuery a0 : NoWord.Statement (.motionQuery a0) := noWord_of_decode _
theorem NoWord.tripQuery a0 : NoWord.Statement (.tripQuery a0) := noWord_of_decode _
theorem NoWord.tripClear a0 a1 : NoWord.Statement (.tripClear a0 a1) := noWord_of_decode _
theorem NoWord.mdrTripclrWrite a0 a1 : NoWord.Statement (.mdrTripclrWrite a0 a1) := noWord_of_decode _
theorem NoWord.tenantQuery a0 a1 : NoWord.Statement (.tenantQuery a0 a1) := noWord_of_decode _
theorem NoWord.tenant a0 a1 a2 a3 a4 : NoWord.Statement (.tenant a0 a1 a2 a3 a4) := noWord_of_decode _
theorem NoWord.queueCreate a0 a1 a2 a3 a4 a5 : NoWord.Statement (.queueCreate a0 a1 a2 a3 a4 a5) := noWord_of_decode _
theorem NoWord.queueDelete a0 a1 : NoWord.Statement (.queueDelete a0 a1) := noWord_of_decode _
theorem NoWord.queueQuery a0 a1 : NoWord.Statement (.queueQuery a0 a1) := noWord_of_decode _
theorem NoWord.qcmdCreate a0 a1 : NoWord.Statement (.qcmdCreate a0 a1) := noWord_of_decode _
theorem NoWord.qcmdDelete a0 a1 : NoWord.Statement (.qcmdDelete a0 a1) := noWord_of_decode _
theorem NoWord.resetFunction a0 a1 : NoWord.Statement (.resetFunction a0 a1) := noWord_of_decode _
theorem NoWord.power a0 a1 : NoWord.Statement (.power a0 a1) := noWord_of_decode _
theorem NoWord.powerQuery a0 : NoWord.Statement (.powerQuery a0) := noWord_of_decode _
theorem NoWord.resetWarm a0 a1 : NoWord.Statement (.resetWarm a0 a1) := noWord_of_decode _
theorem NoWord.resetDomain a0 a1 : NoWord.Statement (.resetDomain a0 a1) := noWord_of_decode _
theorem NoWord.nodeQuery a0 : NoWord.Statement (.nodeQuery a0) := noWord_of_decode _
theorem NoWord.census a0 : NoWord.Statement (.census a0) := noWord_of_decode _
theorem NoWord.censusQuery a0 : NoWord.Statement (.censusQuery a0) := noWord_of_decode _
theorem NoWord.testCodec a0 : NoWord.Statement (.testCodec a0) := noWord_of_decode _
theorem NoWord.testProof a0 : NoWord.Statement (.testProof a0) := noWord_of_decode _
theorem NoWord.testBoot a0 : NoWord.Statement (.testBoot a0) := noWord_of_decode _
theorem NoWord.testBootComplete a0 a1 : NoWord.Statement (.testBootComplete a0 a1) := noWord_of_decode _
theorem NoWord.testTank a0 a1 : NoWord.Statement (.testTank a0 a1) := noWord_of_decode _
theorem NoWord.key a0 a1 a2 a3 a4 : NoWord.Statement (.key a0 a1 a2 a3 a4) := noWord_of_decode _
theorem NoWord.keyQuery a0 a1 : NoWord.Statement (.keyQuery a0 a1) := noWord_of_decode _
theorem NoWord.keyErase a0 a1 a2 : NoWord.Statement (.keyErase a0 a1 a2) := noWord_of_decode _
theorem NoWord.fwupdateStart a0 a1 : NoWord.Statement (.fwupdateStart a0 a1) := noWord_of_decode _
theorem NoWord.flashWrite a0 a1 a2 : NoWord.Statement (.flashWrite a0 a1 a2) := noWord_of_decode _
theorem NoWord.fwupdateCommit a0 a1 : NoWord.Statement (.fwupdateCommit a0 a1) := noWord_of_decode _
theorem NoWord.fwupdateCommitComplete : NoWord.Statement (.fwupdateCommitComplete) := noWord_of_decode _
theorem NoWord.fwupdateAbort a0 : NoWord.Statement (.fwupdateAbort a0) := noWord_of_decode _
theorem NoWord.pwrgdRise a0 a1 a2 : NoWord.Statement (.pwrgdRise a0 a1 a2) := noWord_of_decode _
theorem NoWord.pwrgdFall : NoWord.Statement (.pwrgdFall) := noWord_of_decode _
theorem NoWord.fuseMapLoad a0 a1 : NoWord.Statement (.fuseMapLoad a0 a1) := noWord_of_decode _
theorem NoWord.bootImageLoad a0 a1 : NoWord.Statement (.bootImageLoad a0 a1) := noWord_of_decode _
theorem NoWord.bootSelfTest a0 a1 a2 : NoWord.Statement (.bootSelfTest a0 a1 a2) := noWord_of_decode _
theorem NoWord.fixerJournalScan : NoWord.Statement (.fixerJournalScan) := noWord_of_decode _
theorem NoWord.firstPrompt a0 : NoWord.Statement (.firstPrompt a0) := noWord_of_decode _
theorem NoWord.warmReset a0 : NoWord.Statement (.warmReset a0) := noWord_of_decode _
theorem NoWord.domainReset a0 : NoWord.Statement (.domainReset a0) := noWord_of_decode _
theorem NoWord.rstctlWarm a0 a1 : NoWord.Statement (.rstctlWarm a0 a1) := noWord_of_decode _
theorem NoWord.rstctlDomain a0 a1 : NoWord.Statement (.rstctlDomain a0 a1) := noWord_of_decode _
theorem NoWord.perstAssert : NoWord.Statement (.perstAssert) := noWord_of_decode _
theorem NoWord.watchdogExpiry : NoWord.Statement (.watchdogExpiry) := noWord_of_decode _
theorem NoWord.watchdogWrite a0 a1 : NoWord.Statement (.watchdogWrite a0 a1) := noWord_of_decode _
theorem NoWord.functionLevelReset a0 : NoWord.Statement (.functionLevelReset a0) := noWord_of_decode _
theorem NoWord.pfFlr : NoWord.Statement (.pfFlr) := noWord_of_decode _
theorem NoWord.vfEnable a0 a1 : NoWord.Statement (.vfEnable a0 a1) := noWord_of_decode _
theorem NoWord.vfDisable : NoWord.Statement (.vfDisable) := noWord_of_decode _
theorem NoWord.drtTenantDisable a0 a1 : NoWord.Statement (.drtTenantDisable a0 a1) := noWord_of_decode _
theorem NoWord.drtDisable a0 : NoWord.Statement (.drtDisable a0) := noWord_of_decode _
theorem NoWord.msixTableWrite a0 a1 a2 : NoWord.Statement (.msixTableWrite a0 a1 a2) := noWord_of_decode _
theorem NoWord.drtOpen a0 a1 : NoWord.Statement (.drtOpen a0 a1) := noWord_of_decode _
theorem NoWord.drtData a0 a1 : NoWord.Statement (.drtData a0 a1) := noWord_of_decode _
theorem NoWord.drtClose a0 : NoWord.Statement (.drtClose a0) := noWord_of_decode _
theorem NoWord.drtKeepalive a0 : NoWord.Statement (.drtKeepalive a0) := noWord_of_decode _
theorem NoWord.drtAckTimer a0 : NoWord.Statement (.drtAckTimer a0) := noWord_of_decode _
theorem NoWord.drtGapTimer a0 : NoWord.Statement (.drtGapTimer a0) := noWord_of_decode _
theorem NoWord.drtIdleTimeout a0 : NoWord.Statement (.drtIdleTimeout a0) := noWord_of_decode _
theorem NoWord.arpRequest a0 a1 a2 : NoWord.Statement (.arpRequest a0 a1 a2) := noWord_of_decode _
theorem NoWord.icmpEcho a0 a1 a2 a3 : NoWord.Statement (.icmpEcho a0 a1 a2 a3) := noWord_of_decode _
theorem NoWord.ethLinkChange a0 a1 a2 a3 : NoWord.Statement (.ethLinkChange a0 a1 a2 a3) := noWord_of_decode _
theorem NoWord.gptpSync a0 a1 : NoWord.Statement (.gptpSync a0 a1) := noWord_of_decode _
theorem NoWord.gptpSyncTimeout : NoWord.Statement (.gptpSyncTimeout) := noWord_of_decode _
theorem NoWord.descriptorFetchWrite a0 a1 : NoWord.Statement (.descriptorFetchWrite a0 a1) := noWord_of_decode _
theorem NoWord.descriptorFetchRead a0 a1 : NoWord.Statement (.descriptorFetchRead a0 a1) := noWord_of_decode _
theorem NoWord.descriptorFetchBarrier a0 a1 : NoWord.Statement (.descriptorFetchBarrier a0 a1) := noWord_of_decode _
theorem NoWord.descriptorFetchNop a0 a1 : NoWord.Statement (.descriptorFetchNop a0 a1) := noWord_of_decode _
theorem NoWord.descriptorDmaError a0 : NoWord.Statement (.descriptorDmaError a0) := noWord_of_decode _
theorem NoWord.recordDmaComplete a0 a1 a2 : NoWord.Statement (.recordDmaComplete a0 a1 a2) := noWord_of_decode _
theorem NoWord.recordDmaError a0 a1 : NoWord.Statement (.recordDmaError a0 a1) := noWord_of_decode _
theorem NoWord.reservationCharge : NoWord.Statement (.reservationCharge) := noWord_of_decode _
theorem NoWord.msixCoalesceTimeout a0 : NoWord.Statement (.msixCoalesceTimeout a0) := noWord_of_decode _
theorem NoWord.readComplete a0 a1 : NoWord.Statement (.readComplete a0 a1) := noWord_of_decode _
theorem NoWord.readTimeout a0 a1 : NoWord.Statement (.readTimeout a0 a1) := noWord_of_decode _
theorem NoWord.cartReadingIdle : NoWord.Statement (.cartReadingIdle) := noWord_of_decode _
theorem NoWord.notifyHoldoffEnd a0 a1 : NoWord.Statement (.notifyHoldoffEnd a0 a1) := noWord_of_decode _
theorem NoWord.overrateCheck a0 a1 : NoWord.Statement (.overrateCheck a0 a1) := noWord_of_decode _
theorem NoWord.tvecWrite a0 a1 a2 : NoWord.Statement (.tvecWrite a0 a1 a2) := noWord_of_decode _
theorem NoWord.qvecWrite a0 a1 a2 : NoWord.Statement (.qvecWrite a0 a1 a2) := noWord_of_decode _
theorem NoWord.tshareWrite a0 a1 a2 : NoWord.Statement (.tshareWrite a0 a1 a2) := noWord_of_decode _
theorem NoWord.gcapWrite a0 a1 : NoWord.Statement (.gcapWrite a0 a1) := noWord_of_decode _
theorem NoWord.schFeed a0 : NoWord.Statement (.schFeed a0) := noWord_of_decode _
theorem NoWord.bulkStarve a0 : NoWord.Statement (.bulkStarve a0) := noWord_of_decode _
theorem NoWord.blockEncodeComplete a0 a1 : NoWord.Statement (.blockEncodeComplete a0 a1) := noWord_of_decode _
theorem NoWord.blockPlace : NoWord.Statement (.blockPlace) := noWord_of_decode _
theorem NoWord.rdcEngineEnableWrite a0 a1 : NoWord.Statement (.rdcEngineEnableWrite a0 a1) := noWord_of_decode _
theorem NoWord.enlEngineEnableWrite a0 a1 : NoWord.Statement (.enlEngineEnableWrite a0 a1) := noWord_of_decode _
theorem NoWord.blockExpand a0 a1 a2 a3 a4 a5 : NoWord.Statement (.blockExpand a0 a1 a2 a3 a4 a5) := noWord_of_decode _
theorem NoWord.codecTestPeriod : NoWord.Statement (.codecTestPeriod) := noWord_of_decode _
theorem NoWord.codecTestSlice a0 a1 a2 : NoWord.Statement (.codecTestSlice a0 a1 a2) := noWord_of_decode _
theorem NoWord.codecTestWaitExpiry a0 : NoWord.Statement (.codecTestWaitExpiry a0) := noWord_of_decode _
theorem NoWord.tankRead a0 a1 a2 a3 a4 : NoWord.Statement (.tankRead a0 a1 a2 a3 a4) := noWord_of_decode _
theorem NoWord.tankPartialWrite a0 a1 a2 a3 a4 a5 a6 : NoWord.Statement (.tankPartialWrite a0 a1 a2 a3 a4 a5 a6) := noWord_of_decode _
theorem NoWord.tankAtomicAdd a0 a1 a2 a3 a4 a5 a6 : NoWord.Statement (.tankAtomicAdd a0 a1 a2 a3 a4 a5 a6) := noWord_of_decode _
theorem NoWord.tankAtomicSwap a0 a1 a2 a3 a4 a5 a6 : NoWord.Statement (.tankAtomicSwap a0 a1 a2 a3 a4 a5 a6) := noWord_of_decode _
theorem NoWord.requestAgeExpiry a0 a1 a2 : NoWord.Statement (.requestAgeExpiry a0 a1 a2) := noWord_of_decode _
theorem NoWord.tankWindowAccess a0 a1 a2 a3 a4 : NoWord.Statement (.tankWindowAccess a0 a1 a2 a3 a4) := noWord_of_decode _
theorem NoWord.marchBurst a0 : NoWord.Statement (.marchBurst a0) := noWord_of_decode _
theorem NoWord.scratchpadFetchError a0 a1 a2 a3 : NoWord.Statement (.scratchpadFetchError a0 a1 a2 a3) := noWord_of_decode _
theorem NoWord.scratchpadReloadDone : NoWord.Statement (.scratchpadReloadDone) := noWord_of_decode _
theorem NoWord.spdRemapAdd a0 a1 : NoWord.Statement (.spdRemapAdd a0 a1) := noWord_of_decode _
theorem NoWord.datasetClose : NoWord.Statement (.datasetClose) := noWord_of_decode _
theorem NoWord.datasetStreamStart : NoWord.Statement (.datasetStreamStart) := noWord_of_decode _
theorem NoWord.frameWrite a0 : NoWord.Statement (.frameWrite a0) := noWord_of_decode _
theorem NoWord.frameVerdict a0 a1 : NoWord.Statement (.frameVerdict a0 a1) := noWord_of_decode _
theorem NoWord.datasetDecode a0 : NoWord.Statement (.datasetDecode a0) := noWord_of_decode _
theorem NoWord.frameRead a0 a1 : NoWord.Statement (.frameRead a0 a1) := noWord_of_decode _
theorem NoWord.lossOfLock a0 a1 : NoWord.Statement (.lossOfLock a0 a1) := noWord_of_decode _
theorem NoWord.readRetry : NoWord.Statement (.readRetry) := noWord_of_decode _
theorem NoWord.loupeArm a0 a1 : NoWord.Statement (.loupeArm a0 a1) := noWord_of_decode _
theorem NoWord.loupeFire a0 a1 : NoWord.Statement (.loupeFire a0 a1) := noWord_of_decode _
theorem NoWord.loupeCaptureEnd : NoWord.Statement (.loupeCaptureEnd) := noWord_of_decode _
theorem NoWord.proofCheckpoint a0 a1 : NoWord.Statement (.proofCheckpoint a0 a1) := noWord_of_decode _
theorem NoWord.servoFrame a0 a1 a2 a3 a4 : NoWord.Statement (.servoFrame a0 a1 a2 a3 a4) := noWord_of_decode _
theorem NoWord.servoLostTimeout : NoWord.Statement (.servoLostTimeout) := noWord_of_decode _
theorem NoWord.lpwokStopTimeout : NoWord.Statement (.lpwokStopTimeout) := noWord_of_decode _
theorem NoWord.turnaround : NoWord.Statement (.turnaround) := noWord_of_decode _
theorem NoWord.speedEvaluation : NoWord.Statement (.speedEvaluation) := noWord_of_decode _
theorem NoWord.gapTimeout : NoWord.Statement (.gapTimeout) := noWord_of_decode _
theorem NoWord.backhitchResume : NoWord.Statement (.backhitchResume) := noWord_of_decode _
theorem NoWord.packBurstStart : NoWord.Statement (.packBurstStart) := noWord_of_decode _
theorem NoWord.carrierPeriod a0 a1 a2 : NoWord.Statement (.carrierPeriod a0 a1 a2) := noWord_of_decode _
theorem NoWord.catchEnd a0 a1 a2 a3 : NoWord.Statement (.catchEnd a0 a1 a2 a3) := noWord_of_decode _
theorem NoWord.alignEnd a0 : NoWord.Statement (.alignEnd a0) := noWord_of_decode _
theorem NoWord.observerHandover a0 : NoWord.Statement (.observerHandover a0) := noWord_of_decode _
theorem NoWord.startFail a0 : NoWord.Statement (.startFail a0) := noWord_of_decode _
theorem NoWord.motionStartComplete : NoWord.Statement (.motionStartComplete) := noWord_of_decode _
theorem NoWord.controlledStopEnd : NoWord.Statement (.controlledStopEnd) := noWord_of_decode _
theorem NoWord.tripInput a0 a1 a2 : NoWord.Statement (.tripInput a0 a1 a2) := noWord_of_decode _
theorem NoWord.overcurrent a0 : NoWord.Statement (.overcurrent a0) := noWord_of_decode _
theorem NoWord.blankingEnd a0 : NoWord.Statement (.blankingEnd a0) := noWord_of_decode _
theorem NoWord.followEnd a0 : NoWord.Statement (.followEnd a0) := noWord_of_decode _
theorem NoWord.fanCurveEval a0 a1 : NoWord.Statement (.fanCurveEval a0 a1) := noWord_of_decode _
theorem NoWord.fanStall : NoWord.Statement (.fanStall) := noWord_of_decode _
theorem NoWord.fanRestart a0 : NoWord.Statement (.fanRestart a0) := noWord_of_decode _
theorem NoWord.currentLoop a0 : NoWord.Statement (.currentLoop a0) := noWord_of_decode _
theorem NoWord.coilLoop : NoWord.Statement (.coilLoop) := noWord_of_decode _
theorem NoWord.latLoop : NoWord.Statement (.latLoop) := noWord_of_decode _
theorem NoWord.reelSpeedLoop : NoWord.Statement (.reelSpeedLoop) := noWord_of_decode _
theorem NoWord.tensionLoop : NoWord.Statement (.tensionLoop) := noWord_of_decode _
theorem NoWord.fanLoop : NoWord.Statement (.fanLoop) := noWord_of_decode _
theorem NoWord.loopBankRequest a0 a1 a2 : NoWord.Statement (.loopBankRequest a0 a1 a2) := noWord_of_decode _
theorem NoWord.loopModeWrite a0 a1 a2 : NoWord.Statement (.loopModeWrite a0 a1 a2) := noWord_of_decode _
theorem NoWord.coefficientWrite a0 a1 a2 a3 a4 a5 : NoWord.Statement (.coefficientWrite a0 a1 a2 a3 a4 a5) := noWord_of_decode _
theorem NoWord.rcClear a0 a1 : NoWord.Statement (.rcClear a0 a1) := noWord_of_decode _
theorem NoWord.radiusWrite a0 a1 : NoWord.Statement (.radiusWrite a0 a1) := noWord_of_decode _
theorem NoWord.accelTransaction a0 : NoWord.Statement (.accelTransaction a0) := noWord_of_decode _
theorem NoWord.quiesceComplete a0 : NoWord.Statement (.quiesceComplete a0) := noWord_of_decode _
theorem NoWord.wakeEvent a0 : NoWord.Statement (.wakeEvent a0) := noWord_of_decode _
theorem NoWord.saveListAccess a0 a1 a2 : NoWord.Statement (.saveListAccess a0 a1 a2) := noWord_of_decode _
theorem NoWord.ignitionChange a0 : NoWord.Statement (.ignitionChange a0) := noWord_of_decode _
theorem NoWord.ignitionHoldExpiry : NoWord.Statement (.ignitionHoldExpiry) := noWord_of_decode _
theorem NoWord.ignitionDrainTimeout : NoWord.Statement (.ignitionDrainTimeout) := noWord_of_decode _
theorem NoWord.holdupOkChange a0 : NoWord.Statement (.holdupOkChange a0) := noWord_of_decode _
theorem NoWord.pfailAssert a0 : NoWord.Statement (.pfailAssert a0) := noWord_of_decode _
theorem NoWord.dumpComplete a0 : NoWord.Statement (.dumpComplete a0) := noWord_of_decode _
theorem NoWord.cartInsert a0 a1 a2 a3 : NoWord.Statement (.cartInsert a0 a1 a2 a3) := noWord_of_decode _
theorem NoWord.cartRemove : NoWord.Statement (.cartRemove) := noWord_of_decode _
theorem NoWord.portTrained a0 a1 a2 : NoWord.Statement (.portTrained a0 a1 a2) := noWord_of_decode _
theorem NoWord.trainingBurst a0 : NoWord.Statement (.trainingBurst a0) := noWord_of_decode _
theorem NoWord.linkFrameReceived a0 a1 : NoWord.Statement (.linkFrameReceived a0 a1) := noWord_of_decode _
theorem NoWord.linkRetry a0 : NoWord.Statement (.linkRetry a0) := noWord_of_decode _
theorem NoWord.linkIdleSend a0 : NoWord.Statement (.linkIdleSend a0) := noWord_of_decode _
theorem NoWord.portDown a0 a1 : NoWord.Statement (.portDown a0 a1) := noWord_of_decode _
theorem NoWord.censusAutoStart : NoWord.Statement (.censusAutoStart) := noWord_of_decode _
theorem NoWord.creqReceived a0 a1 a2 a3 : NoWord.Statement (.creqReceived a0 a1 a2 a3) := noWord_of_decode _
theorem NoWord.crspReceived a0 a1 a2 a3 a4 a5 a6 a7 : NoWord.Statement (.crspReceived a0 a1 a2 a3 a4 a5 a6 a7) := noWord_of_decode _
theorem NoWord.probeExchange a0 a1 : NoWord.Statement (.probeExchange a0 a1) := noWord_of_decode _
theorem NoWord.commitReceived a0 : NoWord.Statement (.commitReceived a0) := noWord_of_decode _
theorem NoWord.timeFrameSend : NoWord.Statement (.timeFrameSend) := noWord_of_decode _
theorem NoWord.timeFrameReceived a0 a1 a2 a3 a4 : NoWord.Statement (.timeFrameReceived a0 a1 a2 a3 a4) := noWord_of_decode _
theorem NoWord.cmdPlova a0 a1 a2 a3 : NoWord.Statement (.cmdPlova a0 a1 a2 a3) := noWord_of_decode _
theorem NoWord.cmdReset a0 a1 a2 a3 : NoWord.Statement (.cmdReset a0 a1 a2 a3) := noWord_of_decode _
theorem NoWord.cmdPower a0 a1 a2 : NoWord.Statement (.cmdPower a0 a1 a2) := noWord_of_decode _
theorem NoWord.cmdWake a0 a1 a2 : NoWord.Statement (.cmdWake a0 a1 a2) := noWord_of_decode _
theorem NoWord.cmdPoke a0 a1 a2 a3 : NoWord.Statement (.cmdPoke a0 a1 a2 a3) := noWord_of_decode _
theorem NoWord.cmdPeek a0 a1 a2 : NoWord.Statement (.cmdPeek a0 a1 a2) := noWord_of_decode _
theorem NoWord.rspReceived a0 a1 a2 a3 a4 a5 a6 : NoWord.Statement (.rspReceived a0 a1 a2 a3 a4 a5 a6) := noWord_of_decode _
theorem NoWord.ctmoExpiry a0 : NoWord.Statement (.ctmoExpiry a0) := noWord_of_decode _
theorem NoWord.evtReceived a0 a1 a2 a3 : NoWord.Statement (.evtReceived a0 a1 a2 a3) := noWord_of_decode _
theorem NoWord.xlkWakeWrite a0 a1 : NoWord.Statement (.xlkWakeWrite a0 a1) := noWord_of_decode _
theorem NoWord.stripeGroupEnable a0 a1 a2 : NoWord.Statement (.stripeGroupEnable a0 a1 a2) := noWord_of_decode _
theorem NoWord.stripeRowClose a0 : NoWord.Statement (.stripeRowClose a0) := noWord_of_decode _
theorem NoWord.stripeRetransmit a0 a1 a2 : NoWord.Statement (.stripeRetransmit a0 a1 a2) := noWord_of_decode _
theorem NoWord.lendAlloc a0 : NoWord.Statement (.lendAlloc a0) := noWord_of_decode _
theorem NoWord.lendGrant a0 : NoWord.Statement (.lendGrant a0) := noWord_of_decode _
theorem NoWord.lendPut a0 : NoWord.Statement (.lendPut a0) := noWord_of_decode _
theorem NoWord.lendGet a0 : NoWord.Statement (.lendGet a0) := noWord_of_decode _
theorem NoWord.lendData a0 : NoWord.Statement (.lendData a0) := noWord_of_decode _
theorem NoWord.lendFree a0 : NoWord.Statement (.lendFree a0) := noWord_of_decode _
theorem NoWord.recordSpill : NoWord.Statement (.recordSpill) := noWord_of_decode _
theorem NoWord.recordRecall : NoWord.Statement (.recordRecall) := noWord_of_decode _
theorem NoWord.characterReceived a0 a1 : NoWord.Statement (.characterReceived a0 a1) := noWord_of_decode _
theorem NoWord.referenceClockReturn : NoWord.Statement (.referenceClockReturn) := noWord_of_decode _
theorem NoWord.supplyMonitorReset a0 : NoWord.Statement (.supplyMonitorReset a0) := noWord_of_decode _
theorem NoWord.perstDeassert : NoWord.Statement (.perstDeassert) := noWord_of_decode _
theorem NoWord.parkOrderedSet a0 : NoWord.Statement (.parkOrderedSet a0) := noWord_of_decode _
theorem NoWord.brakeToStandstill a0 : NoWord.Statement (.brakeToStandstill a0) := noWord_of_decode _
theorem NoWord.unsupportedFrame a0 a1 : NoWord.Statement (.unsupportedFrame a0 a1) := noWord_of_decode _

end Sys2Proof.Laws
end

