-- ==== Sys2Proof/Laws/State.lean ====
section
/-! SUPPORT. What each update of the state leaves alone, field by field, and what the accessors of registers, fields, sessions, functions and ports read
after one. A proof uses these lemmas and unfolds no record update. -/

namespace Sys2Proof.Machine

/-! ### An output -/

@[simp] theorem emit_pending (s : State) (o : Out) : (s.emit o).pending = s.pending := rfl
@[simp] theorem emit_freeCtr (s : State) (o : Out) : (s.emit o).freeCtr = s.freeCtr := rfl
@[simp] theorem emit_us (s : State) (o : Out) : (s.emit o).us = s.us := rfl
@[simp] theorem emit_xc (s : State) (o : Out) : (s.emit o).xc = s.xc := rfl
@[simp] theorem emit_flow (s : State) (o : Out) : (s.emit o).flow = s.flow := rfl
@[simp] theorem emit_balls (s : State) (o : Out) : (s.emit o).balls = s.balls := rfl
@[simp] theorem emit_regs (s : State) (o : Out) : (s.emit o).regs = s.regs := rfl
@[simp] theorem emit_wlatch (s : State) (o : Out) : (s.emit o).wlatch = s.wlatch := rfl
@[simp] theorem emit_rlatch (s : State) (o : Out) : (s.emit o).rlatch = s.rlatch := rfl
@[simp] theorem emit_con (s : State) (o : Out) : (s.emit o).con = s.con := rfl
@[simp] theorem emit_arb (s : State) (o : Out) : (s.emit o).arb = s.arb := rfl
@[simp] theorem emit_err (s : State) (o : Out) : (s.emit o).err = s.err := rfl
@[simp] theorem emit_boot (s : State) (o : Out) : (s.emit o).boot = s.boot := rfl
@[simp] theorem emit_cart (s : State) (o : Out) : (s.emit o).cart = s.cart := rfl
@[simp] theorem emit_mot (s : State) (o : Out) : (s.emit o).mot = s.mot := rfl
@[simp] theorem emit_pwr (s : State) (o : Out) : (s.emit o).pwr = s.pwr := rfl
@[simp] theorem emit_pw (s : State) (o : Out) : (s.emit o).pw = s.pw := rfl
@[simp] theorem emit_hif (s : State) (o : Out) : (s.emit o).hif = s.hif := rfl
@[simp] theorem emit_eth (s : State) (o : Out) : (s.emit o).eth = s.eth := rfl
@[simp] theorem emit_qmg (s : State) (o : Out) : (s.emit o).qmg = s.qmg := rfl
@[simp] theorem emit_pool (s : State) (o : Out) : (s.emit o).pool = s.pool := rfl
@[simp] theorem emit_sch (s : State) (o : Out) : (s.emit o).sch = s.sch := rfl
@[simp] theorem emit_tank (s : State) (o : Out) : (s.emit o).tank = s.tank := rfl
@[simp] theorem emit_tnk (s : State) (o : Out) : (s.emit o).tnk = s.tnk := rfl
@[simp] theorem emit_spd (s : State) (o : Out) : (s.emit o).spd = s.spd := rfl
@[simp] theorem emit_fixer (s : State) (o : Out) : (s.emit o).fixer = s.fixer := rfl
@[simp] theorem emit_dump (s : State) (o : Out) : (s.emit o).dump = s.dump := rfl
@[simp] theorem emit_jrn (s : State) (o : Out) : (s.emit o).jrn = s.jrn := rfl
@[simp] theorem emit_cdc (s : State) (o : Out) : (s.emit o).cdc = s.cdc := rfl
@[simp] theorem emit_fmt (s : State) (o : Out) : (s.emit o).fmt = s.fmt := rfl
@[simp] theorem emit_sec (s : State) (o : Out) : (s.emit o).sec = s.sec := rfl
@[simp] theorem emit_tape (s : State) (o : Out) : (s.emit o).tape = s.tape := rfl
@[simp] theorem emit_prf (s : State) (o : Out) : (s.emit o).prf = s.prf := rfl
@[simp] theorem emit_rch (s : State) (o : Out) : (s.emit o).rch = s.rch := rfl
@[simp] theorem emit_mdr (s : State) (o : Out) : (s.emit o).mdr = s.mdr := rfl
@[simp] theorem emit_srv (s : State) (o : Out) : (s.emit o).srv = s.srv := rfl
@[simp] theorem emit_cle (s : State) (o : Out) : (s.emit o).cle = s.cle := rfl
@[simp] theorem emit_xlk (s : State) (o : Out) : (s.emit o).xlk = s.xlk := rfl

/-! ### A free value drawn -/

@[simp] theorem draw_pending (s : State) : (s.draw).pending = s.pending := rfl
@[simp] theorem draw_out (s : State) : (s.draw).out = s.out := rfl
@[simp] theorem draw_us (s : State) : (s.draw).us = s.us := rfl
@[simp] theorem draw_xc (s : State) : (s.draw).xc = s.xc := rfl
@[simp] theorem draw_flow (s : State) : (s.draw).flow = s.flow := rfl
@[simp] theorem draw_balls (s : State) : (s.draw).balls = s.balls := rfl
@[simp] theorem draw_regs (s : State) : (s.draw).regs = s.regs := rfl
@[simp] theorem draw_wlatch (s : State) : (s.draw).wlatch = s.wlatch := rfl
@[simp] theorem draw_rlatch (s : State) : (s.draw).rlatch = s.rlatch := rfl
@[simp] theorem draw_con (s : State) : (s.draw).con = s.con := rfl
@[simp] theorem draw_arb (s : State) : (s.draw).arb = s.arb := rfl
@[simp] theorem draw_err (s : State) : (s.draw).err = s.err := rfl
@[simp] theorem draw_boot (s : State) : (s.draw).boot = s.boot := rfl
@[simp] theorem draw_cart (s : State) : (s.draw).cart = s.cart := rfl
@[simp] theorem draw_mot (s : State) : (s.draw).mot = s.mot := rfl
@[simp] theorem draw_pwr (s : State) : (s.draw).pwr = s.pwr := rfl
@[simp] theorem draw_pw (s : State) : (s.draw).pw = s.pw := rfl
@[simp] theorem draw_hif (s : State) : (s.draw).hif = s.hif := rfl
@[simp] theorem draw_eth (s : State) : (s.draw).eth = s.eth := rfl
@[simp] theorem draw_qmg (s : State) : (s.draw).qmg = s.qmg := rfl
@[simp] theorem draw_pool (s : State) : (s.draw).pool = s.pool := rfl
@[simp] theorem draw_sch (s : State) : (s.draw).sch = s.sch := rfl
@[simp] theorem draw_tank (s : State) : (s.draw).tank = s.tank := rfl
@[simp] theorem draw_tnk (s : State) : (s.draw).tnk = s.tnk := rfl
@[simp] theorem draw_spd (s : State) : (s.draw).spd = s.spd := rfl
@[simp] theorem draw_fixer (s : State) : (s.draw).fixer = s.fixer := rfl
@[simp] theorem draw_dump (s : State) : (s.draw).dump = s.dump := rfl
@[simp] theorem draw_jrn (s : State) : (s.draw).jrn = s.jrn := rfl
@[simp] theorem draw_cdc (s : State) : (s.draw).cdc = s.cdc := rfl
@[simp] theorem draw_fmt (s : State) : (s.draw).fmt = s.fmt := rfl
@[simp] theorem draw_sec (s : State) : (s.draw).sec = s.sec := rfl
@[simp] theorem draw_tape (s : State) : (s.draw).tape = s.tape := rfl
@[simp] theorem draw_prf (s : State) : (s.draw).prf = s.prf := rfl
@[simp] theorem draw_rch (s : State) : (s.draw).rch = s.rch := rfl
@[simp] theorem draw_mdr (s : State) : (s.draw).mdr = s.mdr := rfl
@[simp] theorem draw_srv (s : State) : (s.draw).srv = s.srv := rfl
@[simp] theorem draw_cle (s : State) : (s.draw).cle = s.cle := rfl
@[simp] theorem draw_xlk (s : State) : (s.draw).xlk = s.xlk := rfl

/-! ### A register word written -/

@[simp] theorem wr_pending (s : State) (a : Nat) (w : Word) : (s.wr a w).pending = s.pending := rfl
@[simp] theorem wr_out (s : State) (a : Nat) (w : Word) : (s.wr a w).out = s.out := rfl
@[simp] theorem wr_freeCtr (s : State) (a : Nat) (w : Word) : (s.wr a w).freeCtr = s.freeCtr := rfl
@[simp] theorem wr_us (s : State) (a : Nat) (w : Word) : (s.wr a w).us = s.us := rfl
@[simp] theorem wr_xc (s : State) (a : Nat) (w : Word) : (s.wr a w).xc = s.xc := rfl
@[simp] theorem wr_flow (s : State) (a : Nat) (w : Word) : (s.wr a w).flow = s.flow := rfl
@[simp] theorem wr_balls (s : State) (a : Nat) (w : Word) : (s.wr a w).balls = s.balls := rfl
@[simp] theorem wr_wlatch (s : State) (a : Nat) (w : Word) : (s.wr a w).wlatch = s.wlatch := rfl
@[simp] theorem wr_rlatch (s : State) (a : Nat) (w : Word) : (s.wr a w).rlatch = s.rlatch := rfl
@[simp] theorem wr_con (s : State) (a : Nat) (w : Word) : (s.wr a w).con = s.con := rfl
@[simp] theorem wr_arb (s : State) (a : Nat) (w : Word) : (s.wr a w).arb = s.arb := rfl
@[simp] theorem wr_err (s : State) (a : Nat) (w : Word) : (s.wr a w).err = s.err := rfl
@[simp] theorem wr_boot (s : State) (a : Nat) (w : Word) : (s.wr a w).boot = s.boot := rfl
@[simp] theorem wr_cart (s : State) (a : Nat) (w : Word) : (s.wr a w).cart = s.cart := rfl
@[simp] theorem wr_mot (s : State) (a : Nat) (w : Word) : (s.wr a w).mot = s.mot := rfl
@[simp] theorem wr_pwr (s : State) (a : Nat) (w : Word) : (s.wr a w).pwr = s.pwr := rfl
@[simp] theorem wr_pw (s : State) (a : Nat) (w : Word) : (s.wr a w).pw = s.pw := rfl
@[simp] theorem wr_hif (s : State) (a : Nat) (w : Word) : (s.wr a w).hif = s.hif := rfl
@[simp] theorem wr_eth (s : State) (a : Nat) (w : Word) : (s.wr a w).eth = s.eth := rfl
@[simp] theorem wr_qmg (s : State) (a : Nat) (w : Word) : (s.wr a w).qmg = s.qmg := rfl
@[simp] theorem wr_pool (s : State) (a : Nat) (w : Word) : (s.wr a w).pool = s.pool := rfl
@[simp] theorem wr_sch (s : State) (a : Nat) (w : Word) : (s.wr a w).sch = s.sch := rfl
@[simp] theorem wr_tank (s : State) (a : Nat) (w : Word) : (s.wr a w).tank = s.tank := rfl
@[simp] theorem wr_tnk (s : State) (a : Nat) (w : Word) : (s.wr a w).tnk = s.tnk := rfl
@[simp] theorem wr_spd (s : State) (a : Nat) (w : Word) : (s.wr a w).spd = s.spd := rfl
@[simp] theorem wr_fixer (s : State) (a : Nat) (w : Word) : (s.wr a w).fixer = s.fixer := rfl
@[simp] theorem wr_dump (s : State) (a : Nat) (w : Word) : (s.wr a w).dump = s.dump := rfl
@[simp] theorem wr_jrn (s : State) (a : Nat) (w : Word) : (s.wr a w).jrn = s.jrn := rfl
@[simp] theorem wr_cdc (s : State) (a : Nat) (w : Word) : (s.wr a w).cdc = s.cdc := rfl
@[simp] theorem wr_fmt (s : State) (a : Nat) (w : Word) : (s.wr a w).fmt = s.fmt := rfl
@[simp] theorem wr_sec (s : State) (a : Nat) (w : Word) : (s.wr a w).sec = s.sec := rfl
@[simp] theorem wr_tape (s : State) (a : Nat) (w : Word) : (s.wr a w).tape = s.tape := rfl
@[simp] theorem wr_prf (s : State) (a : Nat) (w : Word) : (s.wr a w).prf = s.prf := rfl
@[simp] theorem wr_rch (s : State) (a : Nat) (w : Word) : (s.wr a w).rch = s.rch := rfl
@[simp] theorem wr_mdr (s : State) (a : Nat) (w : Word) : (s.wr a w).mdr = s.mdr := rfl
@[simp] theorem wr_srv (s : State) (a : Nat) (w : Word) : (s.wr a w).srv = s.srv := rfl
@[simp] theorem wr_cle (s : State) (a : Nat) (w : Word) : (s.wr a w).cle = s.cle := rfl
@[simp] theorem wr_xlk (s : State) (a : Nat) (w : Word) : (s.wr a w).xlk = s.xlk := rfl

/-! ### A register field written -/

@[simp] theorem setF_pending (s : State) (f : Fld) (v : Nat) : (s.setF f v).pending = s.pending := rfl
@[simp] theorem setF_out (s : State) (f : Fld) (v : Nat) : (s.setF f v).out = s.out := rfl
@[simp] theorem setF_freeCtr (s : State) (f : Fld) (v : Nat) : (s.setF f v).freeCtr = s.freeCtr := rfl
@[simp] theorem setF_us (s : State) (f : Fld) (v : Nat) : (s.setF f v).us = s.us := rfl
@[simp] theorem setF_xc (s : State) (f : Fld) (v : Nat) : (s.setF f v).xc = s.xc := rfl
@[simp] theorem setF_flow (s : State) (f : Fld) (v : Nat) : (s.setF f v).flow = s.flow := rfl
@[simp] theorem setF_balls (s : State) (f : Fld) (v : Nat) : (s.setF f v).balls = s.balls := rfl
@[simp] theorem setF_wlatch (s : State) (f : Fld) (v : Nat) : (s.setF f v).wlatch = s.wlatch := rfl
@[simp] theorem setF_rlatch (s : State) (f : Fld) (v : Nat) : (s.setF f v).rlatch = s.rlatch := rfl
@[simp] theorem setF_con (s : State) (f : Fld) (v : Nat) : (s.setF f v).con = s.con := rfl
@[simp] theorem setF_arb (s : State) (f : Fld) (v : Nat) : (s.setF f v).arb = s.arb := rfl
@[simp] theorem setF_err (s : State) (f : Fld) (v : Nat) : (s.setF f v).err = s.err := rfl
@[simp] theorem setF_boot (s : State) (f : Fld) (v : Nat) : (s.setF f v).boot = s.boot := rfl
@[simp] theorem setF_cart (s : State) (f : Fld) (v : Nat) : (s.setF f v).cart = s.cart := rfl
@[simp] theorem setF_mot (s : State) (f : Fld) (v : Nat) : (s.setF f v).mot = s.mot := rfl
@[simp] theorem setF_pwr (s : State) (f : Fld) (v : Nat) : (s.setF f v).pwr = s.pwr := rfl
@[simp] theorem setF_pw (s : State) (f : Fld) (v : Nat) : (s.setF f v).pw = s.pw := rfl
@[simp] theorem setF_hif (s : State) (f : Fld) (v : Nat) : (s.setF f v).hif = s.hif := rfl
@[simp] theorem setF_eth (s : State) (f : Fld) (v : Nat) : (s.setF f v).eth = s.eth := rfl
@[simp] theorem setF_qmg (s : State) (f : Fld) (v : Nat) : (s.setF f v).qmg = s.qmg := rfl
@[simp] theorem setF_pool (s : State) (f : Fld) (v : Nat) : (s.setF f v).pool = s.pool := rfl
@[simp] theorem setF_sch (s : State) (f : Fld) (v : Nat) : (s.setF f v).sch = s.sch := rfl
@[simp] theorem setF_tank (s : State) (f : Fld) (v : Nat) : (s.setF f v).tank = s.tank := rfl
@[simp] theorem setF_tnk (s : State) (f : Fld) (v : Nat) : (s.setF f v).tnk = s.tnk := rfl
@[simp] theorem setF_spd (s : State) (f : Fld) (v : Nat) : (s.setF f v).spd = s.spd := rfl
@[simp] theorem setF_fixer (s : State) (f : Fld) (v : Nat) : (s.setF f v).fixer = s.fixer := rfl
@[simp] theorem setF_dump (s : State) (f : Fld) (v : Nat) : (s.setF f v).dump = s.dump := rfl
@[simp] theorem setF_jrn (s : State) (f : Fld) (v : Nat) : (s.setF f v).jrn = s.jrn := rfl
@[simp] theorem setF_cdc (s : State) (f : Fld) (v : Nat) : (s.setF f v).cdc = s.cdc := rfl
@[simp] theorem setF_fmt (s : State) (f : Fld) (v : Nat) : (s.setF f v).fmt = s.fmt := rfl
@[simp] theorem setF_sec (s : State) (f : Fld) (v : Nat) : (s.setF f v).sec = s.sec := rfl
@[simp] theorem setF_tape (s : State) (f : Fld) (v : Nat) : (s.setF f v).tape = s.tape := rfl
@[simp] theorem setF_prf (s : State) (f : Fld) (v : Nat) : (s.setF f v).prf = s.prf := rfl
@[simp] theorem setF_rch (s : State) (f : Fld) (v : Nat) : (s.setF f v).rch = s.rch := rfl
@[simp] theorem setF_mdr (s : State) (f : Fld) (v : Nat) : (s.setF f v).mdr = s.mdr := rfl
@[simp] theorem setF_srv (s : State) (f : Fld) (v : Nat) : (s.setF f v).srv = s.srv := rfl
@[simp] theorem setF_cle (s : State) (f : Fld) (v : Nat) : (s.setF f v).cle = s.cle := rfl
@[simp] theorem setF_xlk (s : State) (f : Fld) (v : Nat) : (s.setF f v).xlk = s.xlk := rfl

/-! ### A counter field counted -/

@[simp] theorem count_pending (s : State) (f : Fld) (n : Nat) : (s.count f n).pending = s.pending := rfl
@[simp] theorem count_out (s : State) (f : Fld) (n : Nat) : (s.count f n).out = s.out := rfl
@[simp] theorem count_freeCtr (s : State) (f : Fld) (n : Nat) : (s.count f n).freeCtr = s.freeCtr := rfl
@[simp] theorem count_us (s : State) (f : Fld) (n : Nat) : (s.count f n).us = s.us := rfl
@[simp] theorem count_xc (s : State) (f : Fld) (n : Nat) : (s.count f n).xc = s.xc := rfl
@[simp] theorem count_flow (s : State) (f : Fld) (n : Nat) : (s.count f n).flow = s.flow := rfl
@[simp] theorem count_balls (s : State) (f : Fld) (n : Nat) : (s.count f n).balls = s.balls := rfl
@[simp] theorem count_wlatch (s : State) (f : Fld) (n : Nat) : (s.count f n).wlatch = s.wlatch := rfl
@[simp] theorem count_rlatch (s : State) (f : Fld) (n : Nat) : (s.count f n).rlatch = s.rlatch := rfl
@[simp] theorem count_con (s : State) (f : Fld) (n : Nat) : (s.count f n).con = s.con := rfl
@[simp] theorem count_arb (s : State) (f : Fld) (n : Nat) : (s.count f n).arb = s.arb := rfl
@[simp] theorem count_err (s : State) (f : Fld) (n : Nat) : (s.count f n).err = s.err := rfl
@[simp] theorem count_boot (s : State) (f : Fld) (n : Nat) : (s.count f n).boot = s.boot := rfl
@[simp] theorem count_cart (s : State) (f : Fld) (n : Nat) : (s.count f n).cart = s.cart := rfl
@[simp] theorem count_mot (s : State) (f : Fld) (n : Nat) : (s.count f n).mot = s.mot := rfl
@[simp] theorem count_pwr (s : State) (f : Fld) (n : Nat) : (s.count f n).pwr = s.pwr := rfl
@[simp] theorem count_pw (s : State) (f : Fld) (n : Nat) : (s.count f n).pw = s.pw := rfl
@[simp] theorem count_hif (s : State) (f : Fld) (n : Nat) : (s.count f n).hif = s.hif := rfl
@[simp] theorem count_eth (s : State) (f : Fld) (n : Nat) : (s.count f n).eth = s.eth := rfl
@[simp] theorem count_qmg (s : State) (f : Fld) (n : Nat) : (s.count f n).qmg = s.qmg := rfl
@[simp] theorem count_pool (s : State) (f : Fld) (n : Nat) : (s.count f n).pool = s.pool := rfl
@[simp] theorem count_sch (s : State) (f : Fld) (n : Nat) : (s.count f n).sch = s.sch := rfl
@[simp] theorem count_tank (s : State) (f : Fld) (n : Nat) : (s.count f n).tank = s.tank := rfl
@[simp] theorem count_tnk (s : State) (f : Fld) (n : Nat) : (s.count f n).tnk = s.tnk := rfl
@[simp] theorem count_spd (s : State) (f : Fld) (n : Nat) : (s.count f n).spd = s.spd := rfl
@[simp] theorem count_fixer (s : State) (f : Fld) (n : Nat) : (s.count f n).fixer = s.fixer := rfl
@[simp] theorem count_dump (s : State) (f : Fld) (n : Nat) : (s.count f n).dump = s.dump := rfl
@[simp] theorem count_jrn (s : State) (f : Fld) (n : Nat) : (s.count f n).jrn = s.jrn := rfl
@[simp] theorem count_cdc (s : State) (f : Fld) (n : Nat) : (s.count f n).cdc = s.cdc := rfl
@[simp] theorem count_fmt (s : State) (f : Fld) (n : Nat) : (s.count f n).fmt = s.fmt := rfl
@[simp] theorem count_sec (s : State) (f : Fld) (n : Nat) : (s.count f n).sec = s.sec := rfl
@[simp] theorem count_tape (s : State) (f : Fld) (n : Nat) : (s.count f n).tape = s.tape := rfl
@[simp] theorem count_prf (s : State) (f : Fld) (n : Nat) : (s.count f n).prf = s.prf := rfl
@[simp] theorem count_rch (s : State) (f : Fld) (n : Nat) : (s.count f n).rch = s.rch := rfl
@[simp] theorem count_mdr (s : State) (f : Fld) (n : Nat) : (s.count f n).mdr = s.mdr := rfl
@[simp] theorem count_srv (s : State) (f : Fld) (n : Nat) : (s.count f n).srv = s.srv := rfl
@[simp] theorem count_cle (s : State) (f : Fld) (n : Nat) : (s.count f n).cle = s.cle := rfl
@[simp] theorem count_xlk (s : State) (f : Fld) (n : Nat) : (s.count f n).xlk = s.xlk := rfl

/-! ### A 64-bit register written -/

@[simp] theorem wr64_pending (s : State) (a v : Nat) : (s.wr64 a v).pending = s.pending := rfl
@[simp] theorem wr64_out (s : State) (a v : Nat) : (s.wr64 a v).out = s.out := rfl
@[simp] theorem wr64_freeCtr (s : State) (a v : Nat) : (s.wr64 a v).freeCtr = s.freeCtr := rfl
@[simp] theorem wr64_us (s : State) (a v : Nat) : (s.wr64 a v).us = s.us := rfl
@[simp] theorem wr64_xc (s : State) (a v : Nat) : (s.wr64 a v).xc = s.xc := rfl
@[simp] theorem wr64_flow (s : State) (a v : Nat) : (s.wr64 a v).flow = s.flow := rfl
@[simp] theorem wr64_balls (s : State) (a v : Nat) : (s.wr64 a v).balls = s.balls := rfl
@[simp] theorem wr64_wlatch (s : State) (a v : Nat) : (s.wr64 a v).wlatch = s.wlatch := rfl
@[simp] theorem wr64_rlatch (s : State) (a v : Nat) : (s.wr64 a v).rlatch = s.rlatch := rfl
@[simp] theorem wr64_con (s : State) (a v : Nat) : (s.wr64 a v).con = s.con := rfl
@[simp] theorem wr64_arb (s : State) (a v : Nat) : (s.wr64 a v).arb = s.arb := rfl
@[simp] theorem wr64_err (s : State) (a v : Nat) : (s.wr64 a v).err = s.err := rfl
@[simp] theorem wr64_boot (s : State) (a v : Nat) : (s.wr64 a v).boot = s.boot := rfl
@[simp] theorem wr64_cart (s : State) (a v : Nat) : (s.wr64 a v).cart = s.cart := rfl
@[simp] theorem wr64_mot (s : State) (a v : Nat) : (s.wr64 a v).mot = s.mot := rfl
@[simp] theorem wr64_pwr (s : State) (a v : Nat) : (s.wr64 a v).pwr = s.pwr := rfl
@[simp] theorem wr64_pw (s : State) (a v : Nat) : (s.wr64 a v).pw = s.pw := rfl
@[simp] theorem wr64_hif (s : State) (a v : Nat) : (s.wr64 a v).hif = s.hif := rfl
@[simp] theorem wr64_eth (s : State) (a v : Nat) : (s.wr64 a v).eth = s.eth := rfl
@[simp] theorem wr64_qmg (s : State) (a v : Nat) : (s.wr64 a v).qmg = s.qmg := rfl
@[simp] theorem wr64_pool (s : State) (a v : Nat) : (s.wr64 a v).pool = s.pool := rfl
@[simp] theorem wr64_sch (s : State) (a v : Nat) : (s.wr64 a v).sch = s.sch := rfl
@[simp] theorem wr64_tank (s : State) (a v : Nat) : (s.wr64 a v).tank = s.tank := rfl
@[simp] theorem wr64_tnk (s : State) (a v : Nat) : (s.wr64 a v).tnk = s.tnk := rfl
@[simp] theorem wr64_spd (s : State) (a v : Nat) : (s.wr64 a v).spd = s.spd := rfl
@[simp] theorem wr64_fixer (s : State) (a v : Nat) : (s.wr64 a v).fixer = s.fixer := rfl
@[simp] theorem wr64_dump (s : State) (a v : Nat) : (s.wr64 a v).dump = s.dump := rfl
@[simp] theorem wr64_jrn (s : State) (a v : Nat) : (s.wr64 a v).jrn = s.jrn := rfl
@[simp] theorem wr64_cdc (s : State) (a v : Nat) : (s.wr64 a v).cdc = s.cdc := rfl
@[simp] theorem wr64_fmt (s : State) (a v : Nat) : (s.wr64 a v).fmt = s.fmt := rfl
@[simp] theorem wr64_sec (s : State) (a v : Nat) : (s.wr64 a v).sec = s.sec := rfl
@[simp] theorem wr64_tape (s : State) (a v : Nat) : (s.wr64 a v).tape = s.tape := rfl
@[simp] theorem wr64_prf (s : State) (a v : Nat) : (s.wr64 a v).prf = s.prf := rfl
@[simp] theorem wr64_rch (s : State) (a v : Nat) : (s.wr64 a v).rch = s.rch := rfl
@[simp] theorem wr64_mdr (s : State) (a v : Nat) : (s.wr64 a v).mdr = s.mdr := rfl
@[simp] theorem wr64_srv (s : State) (a v : Nat) : (s.wr64 a v).srv = s.srv := rfl
@[simp] theorem wr64_cle (s : State) (a v : Nat) : (s.wr64 a v).cle = s.cle := rfl
@[simp] theorem wr64_xlk (s : State) (a v : Nat) : (s.wr64 a v).xlk = s.xlk := rfl

/-! ### A block of registers reset -/

@[simp] theorem resetRange_pending (s : State) (lo hi : Nat) : (s.resetRange lo hi).pending = s.pending := rfl
@[simp] theorem resetRange_out (s : State) (lo hi : Nat) : (s.resetRange lo hi).out = s.out := rfl
@[simp] theorem resetRange_freeCtr (s : State) (lo hi : Nat) : (s.resetRange lo hi).freeCtr = s.freeCtr := rfl
@[simp] theorem resetRange_us (s : State) (lo hi : Nat) : (s.resetRange lo hi).us = s.us := rfl
@[simp] theorem resetRange_xc (s : State) (lo hi : Nat) : (s.resetRange lo hi).xc = s.xc := rfl
@[simp] theorem resetRange_flow (s : State) (lo hi : Nat) : (s.resetRange lo hi).flow = s.flow := rfl
@[simp] theorem resetRange_balls (s : State) (lo hi : Nat) : (s.resetRange lo hi).balls = s.balls := rfl
@[simp] theorem resetRange_wlatch (s : State) (lo hi : Nat) : (s.resetRange lo hi).wlatch = s.wlatch := rfl
@[simp] theorem resetRange_rlatch (s : State) (lo hi : Nat) : (s.resetRange lo hi).rlatch = s.rlatch := rfl
@[simp] theorem resetRange_con (s : State) (lo hi : Nat) : (s.resetRange lo hi).con = s.con := rfl
@[simp] theorem resetRange_arb (s : State) (lo hi : Nat) : (s.resetRange lo hi).arb = s.arb := rfl
@[simp] theorem resetRange_err (s : State) (lo hi : Nat) : (s.resetRange lo hi).err = s.err := rfl
@[simp] theorem resetRange_boot (s : State) (lo hi : Nat) : (s.resetRange lo hi).boot = s.boot := rfl
@[simp] theorem resetRange_cart (s : State) (lo hi : Nat) : (s.resetRange lo hi).cart = s.cart := rfl
@[simp] theorem resetRange_mot (s : State) (lo hi : Nat) : (s.resetRange lo hi).mot = s.mot := rfl
@[simp] theorem resetRange_pwr (s : State) (lo hi : Nat) : (s.resetRange lo hi).pwr = s.pwr := rfl
@[simp] theorem resetRange_pw (s : State) (lo hi : Nat) : (s.resetRange lo hi).pw = s.pw := rfl
@[simp] theorem resetRange_hif (s : State) (lo hi : Nat) : (s.resetRange lo hi).hif = s.hif := rfl
@[simp] theorem resetRange_eth (s : State) (lo hi : Nat) : (s.resetRange lo hi).eth = s.eth := rfl
@[simp] theorem resetRange_qmg (s : State) (lo hi : Nat) : (s.resetRange lo hi).qmg = s.qmg := rfl
@[simp] theorem resetRange_pool (s : State) (lo hi : Nat) : (s.resetRange lo hi).pool = s.pool := rfl
@[simp] theorem resetRange_sch (s : State) (lo hi : Nat) : (s.resetRange lo hi).sch = s.sch := rfl
@[simp] theorem resetRange_tank (s : State) (lo hi : Nat) : (s.resetRange lo hi).tank = s.tank := rfl
@[simp] theorem resetRange_tnk (s : State) (lo hi : Nat) : (s.resetRange lo hi).tnk = s.tnk := rfl
@[simp] theorem resetRange_spd (s : State) (lo hi : Nat) : (s.resetRange lo hi).spd = s.spd := rfl
@[simp] theorem resetRange_fixer (s : State) (lo hi : Nat) : (s.resetRange lo hi).fixer = s.fixer := rfl
@[simp] theorem resetRange_dump (s : State) (lo hi : Nat) : (s.resetRange lo hi).dump = s.dump := rfl
@[simp] theorem resetRange_jrn (s : State) (lo hi : Nat) : (s.resetRange lo hi).jrn = s.jrn := rfl
@[simp] theorem resetRange_cdc (s : State) (lo hi : Nat) : (s.resetRange lo hi).cdc = s.cdc := rfl
@[simp] theorem resetRange_fmt (s : State) (lo hi : Nat) : (s.resetRange lo hi).fmt = s.fmt := rfl
@[simp] theorem resetRange_sec (s : State) (lo hi : Nat) : (s.resetRange lo hi).sec = s.sec := rfl
@[simp] theorem resetRange_tape (s : State) (lo hi : Nat) : (s.resetRange lo hi).tape = s.tape := rfl
@[simp] theorem resetRange_prf (s : State) (lo hi : Nat) : (s.resetRange lo hi).prf = s.prf := rfl
@[simp] theorem resetRange_rch (s : State) (lo hi : Nat) : (s.resetRange lo hi).rch = s.rch := rfl
@[simp] theorem resetRange_mdr (s : State) (lo hi : Nat) : (s.resetRange lo hi).mdr = s.mdr := rfl
@[simp] theorem resetRange_srv (s : State) (lo hi : Nat) : (s.resetRange lo hi).srv = s.srv := rfl
@[simp] theorem resetRange_cle (s : State) (lo hi : Nat) : (s.resetRange lo hi).cle = s.cle := rfl
@[simp] theorem resetRange_xlk (s : State) (lo hi : Nat) : (s.resetRange lo hi).xlk = s.xlk := rfl

/-! ### A session replaced -/

@[simp] theorem setSes_pending (s : State) (n : Sid) (x : Session) : (s.setSes n x).pending = s.pending := rfl
@[simp] theorem setSes_out (s : State) (n : Sid) (x : Session) : (s.setSes n x).out = s.out := rfl
@[simp] theorem setSes_freeCtr (s : State) (n : Sid) (x : Session) : (s.setSes n x).freeCtr = s.freeCtr := rfl
@[simp] theorem setSes_us (s : State) (n : Sid) (x : Session) : (s.setSes n x).us = s.us := rfl
@[simp] theorem setSes_xc (s : State) (n : Sid) (x : Session) : (s.setSes n x).xc = s.xc := rfl
@[simp] theorem setSes_flow (s : State) (n : Sid) (x : Session) : (s.setSes n x).flow = s.flow := rfl
@[simp] theorem setSes_balls (s : State) (n : Sid) (x : Session) : (s.setSes n x).balls = s.balls := rfl
@[simp] theorem setSes_regs (s : State) (n : Sid) (x : Session) : (s.setSes n x).regs = s.regs := rfl
@[simp] theorem setSes_wlatch (s : State) (n : Sid) (x : Session) : (s.setSes n x).wlatch = s.wlatch := rfl
@[simp] theorem setSes_rlatch (s : State) (n : Sid) (x : Session) : (s.setSes n x).rlatch = s.rlatch := rfl
@[simp] theorem setSes_arb (s : State) (n : Sid) (x : Session) : (s.setSes n x).arb = s.arb := rfl
@[simp] theorem setSes_err (s : State) (n : Sid) (x : Session) : (s.setSes n x).err = s.err := rfl
@[simp] theorem setSes_boot (s : State) (n : Sid) (x : Session) : (s.setSes n x).boot = s.boot := rfl
@[simp] theorem setSes_cart (s : State) (n : Sid) (x : Session) : (s.setSes n x).cart = s.cart := rfl
@[simp] theorem setSes_mot (s : State) (n : Sid) (x : Session) : (s.setSes n x).mot = s.mot := rfl
@[simp] theorem setSes_pwr (s : State) (n : Sid) (x : Session) : (s.setSes n x).pwr = s.pwr := rfl
@[simp] theorem setSes_pw (s : State) (n : Sid) (x : Session) : (s.setSes n x).pw = s.pw := rfl
@[simp] theorem setSes_hif (s : State) (n : Sid) (x : Session) : (s.setSes n x).hif = s.hif := rfl
@[simp] theorem setSes_eth (s : State) (n : Sid) (x : Session) : (s.setSes n x).eth = s.eth := rfl
@[simp] theorem setSes_qmg (s : State) (n : Sid) (x : Session) : (s.setSes n x).qmg = s.qmg := rfl
@[simp] theorem setSes_pool (s : State) (n : Sid) (x : Session) : (s.setSes n x).pool = s.pool := rfl
@[simp] theorem setSes_sch (s : State) (n : Sid) (x : Session) : (s.setSes n x).sch = s.sch := rfl
@[simp] theorem setSes_tank (s : State) (n : Sid) (x : Session) : (s.setSes n x).tank = s.tank := rfl
@[simp] theorem setSes_tnk (s : State) (n : Sid) (x : Session) : (s.setSes n x).tnk = s.tnk := rfl
@[simp] theorem setSes_spd (s : State) (n : Sid) (x : Session) : (s.setSes n x).spd = s.spd := rfl
@[simp] theorem setSes_fixer (s : State) (n : Sid) (x : Session) : (s.setSes n x).fixer = s.fixer := rfl
@[simp] theorem setSes_dump (s : State) (n : Sid) (x : Session) : (s.setSes n x).dump = s.dump := rfl
@[simp] theorem setSes_jrn (s : State) (n : Sid) (x : Session) : (s.setSes n x).jrn = s.jrn := rfl
@[simp] theorem setSes_cdc (s : State) (n : Sid) (x : Session) : (s.setSes n x).cdc = s.cdc := rfl
@[simp] theorem setSes_fmt (s : State) (n : Sid) (x : Session) : (s.setSes n x).fmt = s.fmt := rfl
@[simp] theorem setSes_sec (s : State) (n : Sid) (x : Session) : (s.setSes n x).sec = s.sec := rfl
@[simp] theorem setSes_tape (s : State) (n : Sid) (x : Session) : (s.setSes n x).tape = s.tape := rfl
@[simp] theorem setSes_prf (s : State) (n : Sid) (x : Session) : (s.setSes n x).prf = s.prf := rfl
@[simp] theorem setSes_rch (s : State) (n : Sid) (x : Session) : (s.setSes n x).rch = s.rch := rfl
@[simp] theorem setSes_mdr (s : State) (n : Sid) (x : Session) : (s.setSes n x).mdr = s.mdr := rfl
@[simp] theorem setSes_srv (s : State) (n : Sid) (x : Session) : (s.setSes n x).srv = s.srv := rfl
@[simp] theorem setSes_cle (s : State) (n : Sid) (x : Session) : (s.setSes n x).cle = s.cle := rfl
@[simp] theorem setSes_xlk (s : State) (n : Sid) (x : Session) : (s.setSes n x).xlk = s.xlk := rfl

/-! ### A function replaced -/

@[simp] theorem setFn_pending (s : State) (f : Fn) : (s.setFn f).pending = s.pending := rfl
@[simp] theorem setFn_out (s : State) (f : Fn) : (s.setFn f).out = s.out := rfl
@[simp] theorem setFn_freeCtr (s : State) (f : Fn) : (s.setFn f).freeCtr = s.freeCtr := rfl
@[simp] theorem setFn_us (s : State) (f : Fn) : (s.setFn f).us = s.us := rfl
@[simp] theorem setFn_xc (s : State) (f : Fn) : (s.setFn f).xc = s.xc := rfl
@[simp] theorem setFn_flow (s : State) (f : Fn) : (s.setFn f).flow = s.flow := rfl
@[simp] theorem setFn_balls (s : State) (f : Fn) : (s.setFn f).balls = s.balls := rfl
@[simp] theorem setFn_regs (s : State) (f : Fn) : (s.setFn f).regs = s.regs := rfl
@[simp] theorem setFn_wlatch (s : State) (f : Fn) : (s.setFn f).wlatch = s.wlatch := rfl
@[simp] theorem setFn_rlatch (s : State) (f : Fn) : (s.setFn f).rlatch = s.rlatch := rfl
@[simp] theorem setFn_con (s : State) (f : Fn) : (s.setFn f).con = s.con := rfl
@[simp] theorem setFn_arb (s : State) (f : Fn) : (s.setFn f).arb = s.arb := rfl
@[simp] theorem setFn_err (s : State) (f : Fn) : (s.setFn f).err = s.err := rfl
@[simp] theorem setFn_boot (s : State) (f : Fn) : (s.setFn f).boot = s.boot := rfl
@[simp] theorem setFn_cart (s : State) (f : Fn) : (s.setFn f).cart = s.cart := rfl
@[simp] theorem setFn_mot (s : State) (f : Fn) : (s.setFn f).mot = s.mot := rfl
@[simp] theorem setFn_pwr (s : State) (f : Fn) : (s.setFn f).pwr = s.pwr := rfl
@[simp] theorem setFn_pw (s : State) (f : Fn) : (s.setFn f).pw = s.pw := rfl
@[simp] theorem setFn_eth (s : State) (f : Fn) : (s.setFn f).eth = s.eth := rfl
@[simp] theorem setFn_qmg (s : State) (f : Fn) : (s.setFn f).qmg = s.qmg := rfl
@[simp] theorem setFn_pool (s : State) (f : Fn) : (s.setFn f).pool = s.pool := rfl
@[simp] theorem setFn_sch (s : State) (f : Fn) : (s.setFn f).sch = s.sch := rfl
@[simp] theorem setFn_tank (s : State) (f : Fn) : (s.setFn f).tank = s.tank := rfl
@[simp] theorem setFn_tnk (s : State) (f : Fn) : (s.setFn f).tnk = s.tnk := rfl
@[simp] theorem setFn_spd (s : State) (f : Fn) : (s.setFn f).spd = s.spd := rfl
@[simp] theorem setFn_fixer (s : State) (f : Fn) : (s.setFn f).fixer = s.fixer := rfl
@[simp] theorem setFn_dump (s : State) (f : Fn) : (s.setFn f).dump = s.dump := rfl
@[simp] theorem setFn_jrn (s : State) (f : Fn) : (s.setFn f).jrn = s.jrn := rfl
@[simp] theorem setFn_cdc (s : State) (f : Fn) : (s.setFn f).cdc = s.cdc := rfl
@[simp] theorem setFn_fmt (s : State) (f : Fn) : (s.setFn f).fmt = s.fmt := rfl
@[simp] theorem setFn_sec (s : State) (f : Fn) : (s.setFn f).sec = s.sec := rfl
@[simp] theorem setFn_tape (s : State) (f : Fn) : (s.setFn f).tape = s.tape := rfl
@[simp] theorem setFn_prf (s : State) (f : Fn) : (s.setFn f).prf = s.prf := rfl
@[simp] theorem setFn_rch (s : State) (f : Fn) : (s.setFn f).rch = s.rch := rfl
@[simp] theorem setFn_mdr (s : State) (f : Fn) : (s.setFn f).mdr = s.mdr := rfl
@[simp] theorem setFn_srv (s : State) (f : Fn) : (s.setFn f).srv = s.srv := rfl
@[simp] theorem setFn_cle (s : State) (f : Fn) : (s.setFn f).cle = s.cle := rfl
@[simp] theorem setFn_xlk (s : State) (f : Fn) : (s.setFn f).xlk = s.xlk := rfl

/-! ### A port of the cascade link replaced -/

@[simp] theorem setXp_pending (s : State) (p : PortNo) (x : XPort) : (s.setXp p x).pending = s.pending := rfl
@[simp] theorem setXp_out (s : State) (p : PortNo) (x : XPort) : (s.setXp p x).out = s.out := rfl
@[simp] theorem setXp_freeCtr (s : State) (p : PortNo) (x : XPort) : (s.setXp p x).freeCtr = s.freeCtr := rfl
@[simp] theorem setXp_us (s : State) (p : PortNo) (x : XPort) : (s.setXp p x).us = s.us := rfl
@[simp] theorem setXp_xc (s : State) (p : PortNo) (x : XPort) : (s.setXp p x).xc = s.xc := rfl
@[simp] theorem setXp_flow (s : State) (p : PortNo) (x : XPort) : (s.setXp p x).flow = s.flow := rfl
@[simp] theorem setXp_balls (s : State) (p : PortNo) (x : XPort) : (s.setXp p x).balls = s.balls := rfl
@[simp] theorem setXp_regs (s : State) (p : PortNo) (x : XPort) : (s.setXp p x).regs = s.regs := rfl
@[simp] theorem setXp_wlatch (s : State) (p : PortNo) (x : XPort) : (s.setXp p x).wlatch = s.wlatch := rfl
@[simp] theorem setXp_rlatch (s : State) (p : PortNo) (x : XPort) : (s.setXp p x).rlatch = s.rlatch := rfl
@[simp] theorem setXp_con (s : State) (p : PortNo) (x : XPort) : (s.setXp p x).con = s.con := rfl
@[simp] theorem setXp_arb (s : State) (p : PortNo) (x : XPort) : (s.setXp p x).arb = s.arb := rfl
@[simp] theorem setXp_err (s : State) (p : PortNo) (x : XPort) : (s.setXp p x).err = s.err := rfl
@[simp] theorem setXp_boot (s : State) (p : PortNo) (x : XPort) : (s.setXp p x).boot = s.boot := rfl
@[simp] theorem setXp_cart (s : State) (p : PortNo) (x : XPort) : (s.setXp p x).cart = s.cart := rfl
@[simp] theorem setXp_mot (s : State) (p : PortNo) (x : XPort) : (s.setXp p x).mot = s.mot := rfl
@[simp] theorem setXp_pwr (s : State) (p : PortNo) (x : XPort) : (s.setXp p x).pwr = s.pwr := rfl
@[simp] theorem setXp_pw (s : State) (p : PortNo) (x : XPort) : (s.setXp p x).pw = s.pw := rfl
@[simp] theorem setXp_hif (s : State) (p : PortNo) (x : XPort) : (s.setXp p x).hif = s.hif := rfl
@[simp] theorem setXp_eth (s : State) (p : PortNo) (x : XPort) : (s.setXp p x).eth = s.eth := rfl
@[simp] theorem setXp_qmg (s : State) (p : PortNo) (x : XPort) : (s.setXp p x).qmg = s.qmg := rfl
@[simp] theorem setXp_pool (s : State) (p : PortNo) (x : XPort) : (s.setXp p x).pool = s.pool := rfl
@[simp] theorem setXp_sch (s : State) (p : PortNo) (x : XPort) : (s.setXp p x).sch = s.sch := rfl
@[simp] theorem setXp_tank (s : State) (p : PortNo) (x : XPort) : (s.setXp p x).tank = s.tank := rfl
@[simp] theorem setXp_tnk (s : State) (p : PortNo) (x : XPort) : (s.setXp p x).tnk = s.tnk := rfl
@[simp] theorem setXp_spd (s : State) (p : PortNo) (x : XPort) : (s.setXp p x).spd = s.spd := rfl
@[simp] theorem setXp_fixer (s : State) (p : PortNo) (x : XPort) : (s.setXp p x).fixer = s.fixer := rfl
@[simp] theorem setXp_dump (s : State) (p : PortNo) (x : XPort) : (s.setXp p x).dump = s.dump := rfl
@[simp] theorem setXp_jrn (s : State) (p : PortNo) (x : XPort) : (s.setXp p x).jrn = s.jrn := rfl
@[simp] theorem setXp_cdc (s : State) (p : PortNo) (x : XPort) : (s.setXp p x).cdc = s.cdc := rfl
@[simp] theorem setXp_fmt (s : State) (p : PortNo) (x : XPort) : (s.setXp p x).fmt = s.fmt := rfl
@[simp] theorem setXp_sec (s : State) (p : PortNo) (x : XPort) : (s.setXp p x).sec = s.sec := rfl
@[simp] theorem setXp_tape (s : State) (p : PortNo) (x : XPort) : (s.setXp p x).tape = s.tape := rfl
@[simp] theorem setXp_prf (s : State) (p : PortNo) (x : XPort) : (s.setXp p x).prf = s.prf := rfl
@[simp] theorem setXp_rch (s : State) (p : PortNo) (x : XPort) : (s.setXp p x).rch = s.rch := rfl
@[simp] theorem setXp_mdr (s : State) (p : PortNo) (x : XPort) : (s.setXp p x).mdr = s.mdr := rfl
@[simp] theorem setXp_srv (s : State) (p : PortNo) (x : XPort) : (s.setXp p x).srv = s.srv := rfl
@[simp] theorem setXp_cle (s : State) (p : PortNo) (x : XPort) : (s.setXp p x).cle = s.cle := rfl

/-! ### The error log cleared -/

@[simp] theorem clearLog_pending (s : State) : (s.clearLog).pending = s.pending := rfl
@[simp] theorem clearLog_out (s : State) : (s.clearLog).out = s.out := rfl
@[simp] theorem clearLog_freeCtr (s : State) : (s.clearLog).freeCtr = s.freeCtr := rfl
@[simp] theorem clearLog_us (s : State) : (s.clearLog).us = s.us := rfl
@[simp] theorem clearLog_xc (s : State) : (s.clearLog).xc = s.xc := rfl
@[simp] theorem clearLog_flow (s : State) : (s.clearLog).flow = s.flow := rfl
@[simp] theorem clearLog_balls (s : State) : (s.clearLog).balls = s.balls := rfl
@[simp] theorem clearLog_regs (s : State) : (s.clearLog).regs = s.regs := rfl
@[simp] theorem clearLog_wlatch (s : State) : (s.clearLog).wlatch = s.wlatch := rfl
@[simp] theorem clearLog_rlatch (s : State) : (s.clearLog).rlatch = s.rlatch := rfl
@[simp] theorem clearLog_con (s : State) : (s.clearLog).con = s.con := rfl
@[simp] theorem clearLog_arb (s : State) : (s.clearLog).arb = s.arb := rfl
@[simp] theorem clearLog_boot (s : State) : (s.clearLog).boot = s.boot := rfl
@[simp] theorem clearLog_cart (s : State) : (s.clearLog).cart = s.cart := rfl
@[simp] theorem clearLog_mot (s : State) : (s.clearLog).mot = s.mot := rfl
@[simp] theorem clearLog_pwr (s : State) : (s.clearLog).pwr = s.pwr := rfl
@[simp] theorem clearLog_pw (s : State) : (s.clearLog).pw = s.pw := rfl
@[simp] theorem clearLog_hif (s : State) : (s.clearLog).hif = s.hif := rfl
@[simp] theorem clearLog_eth (s : State) : (s.clearLog).eth = s.eth := rfl
@[simp] theorem clearLog_qmg (s : State) : (s.clearLog).qmg = s.qmg := rfl
@[simp] theorem clearLog_pool (s : State) : (s.clearLog).pool = s.pool := rfl
@[simp] theorem clearLog_sch (s : State) : (s.clearLog).sch = s.sch := rfl
@[simp] theorem clearLog_tank (s : State) : (s.clearLog).tank = s.tank := rfl
@[simp] theorem clearLog_tnk (s : State) : (s.clearLog).tnk = s.tnk := rfl
@[simp] theorem clearLog_spd (s : State) : (s.clearLog).spd = s.spd := rfl
@[simp] theorem clearLog_fixer (s : State) : (s.clearLog).fixer = s.fixer := rfl
@[simp] theorem clearLog_dump (s : State) : (s.clearLog).dump = s.dump := rfl
@[simp] theorem clearLog_jrn (s : State) : (s.clearLog).jrn = s.jrn := rfl
@[simp] theorem clearLog_cdc (s : State) : (s.clearLog).cdc = s.cdc := rfl
@[simp] theorem clearLog_fmt (s : State) : (s.clearLog).fmt = s.fmt := rfl
@[simp] theorem clearLog_sec (s : State) : (s.clearLog).sec = s.sec := rfl
@[simp] theorem clearLog_tape (s : State) : (s.clearLog).tape = s.tape := rfl
@[simp] theorem clearLog_prf (s : State) : (s.clearLog).prf = s.prf := rfl
@[simp] theorem clearLog_rch (s : State) : (s.clearLog).rch = s.rch := rfl
@[simp] theorem clearLog_mdr (s : State) : (s.clearLog).mdr = s.mdr := rfl
@[simp] theorem clearLog_srv (s : State) : (s.clearLog).srv = s.srv := rfl
@[simp] theorem clearLog_cle (s : State) : (s.clearLog).cle = s.cle := rfl
@[simp] theorem clearLog_xlk (s : State) : (s.clearLog).xlk = s.xlk := rfl

/-! ### A pool entry cleared -/

@[simp] theorem poolClear_pending (s : State) (p : Nat) : (s.poolClear p).pending = s.pending := rfl
@[simp] theorem poolClear_out (s : State) (p : Nat) : (s.poolClear p).out = s.out := rfl
@[simp] theorem poolClear_freeCtr (s : State) (p : Nat) : (s.poolClear p).freeCtr = s.freeCtr := rfl
@[simp] theorem poolClear_us (s : State) (p : Nat) : (s.poolClear p).us = s.us := rfl
@[simp] theorem poolClear_xc (s : State) (p : Nat) : (s.poolClear p).xc = s.xc := rfl
@[simp] theorem poolClear_flow (s : State) (p : Nat) : (s.poolClear p).flow = s.flow := rfl
@[simp] theorem poolClear_balls (s : State) (p : Nat) : (s.poolClear p).balls = s.balls := rfl
@[simp] theorem poolClear_regs (s : State) (p : Nat) : (s.poolClear p).regs = s.regs := rfl
@[simp] theorem poolClear_wlatch (s : State) (p : Nat) : (s.poolClear p).wlatch = s.wlatch := rfl
@[simp] theorem poolClear_rlatch (s : State) (p : Nat) : (s.poolClear p).rlatch = s.rlatch := rfl
@[simp] theorem poolClear_con (s : State) (p : Nat) : (s.poolClear p).con = s.con := rfl
@[simp] theorem poolClear_arb (s : State) (p : Nat) : (s.poolClear p).arb = s.arb := rfl
@[simp] theorem poolClear_err (s : State) (p : Nat) : (s.poolClear p).err = s.err := rfl
@[simp] theorem poolClear_boot (s : State) (p : Nat) : (s.poolClear p).boot = s.boot := rfl
@[simp] theorem poolClear_cart (s : State) (p : Nat) : (s.poolClear p).cart = s.cart := rfl
@[simp] theorem poolClear_mot (s : State) (p : Nat) : (s.poolClear p).mot = s.mot := rfl
@[simp] theorem poolClear_pwr (s : State) (p : Nat) : (s.poolClear p).pwr = s.pwr := rfl
@[simp] theorem poolClear_pw (s : State) (p : Nat) : (s.poolClear p).pw = s.pw := rfl
@[simp] theorem poolClear_hif (s : State) (p : Nat) : (s.poolClear p).hif = s.hif := rfl
@[simp] theorem poolClear_eth (s : State) (p : Nat) : (s.poolClear p).eth = s.eth := rfl
@[simp] theorem poolClear_qmg (s : State) (p : Nat) : (s.poolClear p).qmg = s.qmg := rfl
@[simp] theorem poolClear_sch (s : State) (p : Nat) : (s.poolClear p).sch = s.sch := rfl
@[simp] theorem poolClear_tank (s : State) (p : Nat) : (s.poolClear p).tank = s.tank := rfl
@[simp] theorem poolClear_tnk (s : State) (p : Nat) : (s.poolClear p).tnk = s.tnk := rfl
@[simp] theorem poolClear_spd (s : State) (p : Nat) : (s.poolClear p).spd = s.spd := rfl
@[simp] theorem poolClear_fixer (s : State) (p : Nat) : (s.poolClear p).fixer = s.fixer := rfl
@[simp] theorem poolClear_dump (s : State) (p : Nat) : (s.poolClear p).dump = s.dump := rfl
@[simp] theorem poolClear_jrn (s : State) (p : Nat) : (s.poolClear p).jrn = s.jrn := rfl
@[simp] theorem poolClear_cdc (s : State) (p : Nat) : (s.poolClear p).cdc = s.cdc := rfl
@[simp] theorem poolClear_fmt (s : State) (p : Nat) : (s.poolClear p).fmt = s.fmt := rfl
@[simp] theorem poolClear_sec (s : State) (p : Nat) : (s.poolClear p).sec = s.sec := rfl
@[simp] theorem poolClear_tape (s : State) (p : Nat) : (s.poolClear p).tape = s.tape := rfl
@[simp] theorem poolClear_prf (s : State) (p : Nat) : (s.poolClear p).prf = s.prf := rfl
@[simp] theorem poolClear_rch (s : State) (p : Nat) : (s.poolClear p).rch = s.rch := rfl
@[simp] theorem poolClear_mdr (s : State) (p : Nat) : (s.poolClear p).mdr = s.mdr := rfl
@[simp] theorem poolClear_srv (s : State) (p : Nat) : (s.poolClear p).srv = s.srv := rfl
@[simp] theorem poolClear_cle (s : State) (p : Nat) : (s.poolClear p).cle = s.cle := rfl
@[simp] theorem poolClear_xlk (s : State) (p : Nat) : (s.poolClear p).xlk = s.xlk := rfl

/-! ### A queue replaced -/

@[simp] theorem setQueue_pending (s : State) (q : Queue) : (s.setQueue q).pending = s.pending := rfl
@[simp] theorem setQueue_out (s : State) (q : Queue) : (s.setQueue q).out = s.out := rfl
@[simp] theorem setQueue_freeCtr (s : State) (q : Queue) : (s.setQueue q).freeCtr = s.freeCtr := rfl
@[simp] theorem setQueue_us (s : State) (q : Queue) : (s.setQueue q).us = s.us := rfl
@[simp] theorem setQueue_xc (s : State) (q : Queue) : (s.setQueue q).xc = s.xc := rfl
@[simp] theorem setQueue_flow (s : State) (q : Queue) : (s.setQueue q).flow = s.flow := rfl
@[simp] theorem setQueue_balls (s : State) (q : Queue) : (s.setQueue q).balls = s.balls := rfl
@[simp] theorem setQueue_regs (s : State) (q : Queue) : (s.setQueue q).regs = s.regs := rfl
@[simp] theorem setQueue_wlatch (s : State) (q : Queue) : (s.setQueue q).wlatch = s.wlatch := rfl
@[simp] theorem setQueue_rlatch (s : State) (q : Queue) : (s.setQueue q).rlatch = s.rlatch := rfl
@[simp] theorem setQueue_con (s : State) (q : Queue) : (s.setQueue q).con = s.con := rfl
@[simp] theorem setQueue_arb (s : State) (q : Queue) : (s.setQueue q).arb = s.arb := rfl
@[simp] theorem setQueue_err (s : State) (q : Queue) : (s.setQueue q).err = s.err := rfl
@[simp] theorem setQueue_boot (s : State) (q : Queue) : (s.setQueue q).boot = s.boot := rfl
@[simp] theorem setQueue_cart (s : State) (q : Queue) : (s.setQueue q).cart = s.cart := rfl
@[simp] theorem setQueue_mot (s : State) (q : Queue) : (s.setQueue q).mot = s.mot := rfl
@[simp] theorem setQueue_pwr (s : State) (q : Queue) : (s.setQueue q).pwr = s.pwr := rfl
@[simp] theorem setQueue_pw (s : State) (q : Queue) : (s.setQueue q).pw = s.pw := rfl
@[simp] theorem setQueue_hif (s : State) (q : Queue) : (s.setQueue q).hif = s.hif := rfl
@[simp] theorem setQueue_eth (s : State) (q : Queue) : (s.setQueue q).eth = s.eth := rfl
@[simp] theorem setQueue_pool (s : State) (q : Queue) : (s.setQueue q).pool = s.pool := rfl
@[simp] theorem setQueue_sch (s : State) (q : Queue) : (s.setQueue q).sch = s.sch := rfl
@[simp] theorem setQueue_tank (s : State) (q : Queue) : (s.setQueue q).tank = s.tank := rfl
@[simp] theorem setQueue_tnk (s : State) (q : Queue) : (s.setQueue q).tnk = s.tnk := rfl
@[simp] theorem setQueue_spd (s : State) (q : Queue) : (s.setQueue q).spd = s.spd := rfl
@[simp] theorem setQueue_fixer (s : State) (q : Queue) : (s.setQueue q).fixer = s.fixer := rfl
@[simp] theorem setQueue_dump (s : State) (q : Queue) : (s.setQueue q).dump = s.dump := rfl
@[simp] theorem setQueue_jrn (s : State) (q : Queue) : (s.setQueue q).jrn = s.jrn := rfl
@[simp] theorem setQueue_cdc (s : State) (q : Queue) : (s.setQueue q).cdc = s.cdc := rfl
@[simp] theorem setQueue_fmt (s : State) (q : Queue) : (s.setQueue q).fmt = s.fmt := rfl
@[simp] theorem setQueue_sec (s : State) (q : Queue) : (s.setQueue q).sec = s.sec := rfl
@[simp] theorem setQueue_tape (s : State) (q : Queue) : (s.setQueue q).tape = s.tape := rfl
@[simp] theorem setQueue_prf (s : State) (q : Queue) : (s.setQueue q).prf = s.prf := rfl
@[simp] theorem setQueue_rch (s : State) (q : Queue) : (s.setQueue q).rch = s.rch := rfl
@[simp] theorem setQueue_mdr (s : State) (q : Queue) : (s.setQueue q).mdr = s.mdr := rfl
@[simp] theorem setQueue_srv (s : State) (q : Queue) : (s.setQueue q).srv = s.srv := rfl
@[simp] theorem setQueue_cle (s : State) (q : Queue) : (s.setQueue q).cle = s.cle := rfl
@[simp] theorem setQueue_xlk (s : State) (q : Queue) : (s.setQueue q).xlk = s.xlk := rfl

/-! ### A record replaced -/

@[simp] theorem setRec_pending (s : State) (r : Rec) : (s.setRec r).pending = s.pending := rfl
@[simp] theorem setRec_out (s : State) (r : Rec) : (s.setRec r).out = s.out := rfl
@[simp] theorem setRec_freeCtr (s : State) (r : Rec) : (s.setRec r).freeCtr = s.freeCtr := rfl
@[simp] theorem setRec_us (s : State) (r : Rec) : (s.setRec r).us = s.us := rfl
@[simp] theorem setRec_xc (s : State) (r : Rec) : (s.setRec r).xc = s.xc := rfl
@[simp] theorem setRec_flow (s : State) (r : Rec) : (s.setRec r).flow = s.flow := rfl
@[simp] theorem setRec_balls (s : State) (r : Rec) : (s.setRec r).balls = s.balls := rfl
@[simp] theorem setRec_regs (s : State) (r : Rec) : (s.setRec r).regs = s.regs := rfl
@[simp] theorem setRec_wlatch (s : State) (r : Rec) : (s.setRec r).wlatch = s.wlatch := rfl
@[simp] theorem setRec_rlatch (s : State) (r : Rec) : (s.setRec r).rlatch = s.rlatch := rfl
@[simp] theorem setRec_con (s : State) (r : Rec) : (s.setRec r).con = s.con := rfl
@[simp] theorem setRec_arb (s : State) (r : Rec) : (s.setRec r).arb = s.arb := rfl
@[simp] theorem setRec_err (s : State) (r : Rec) : (s.setRec r).err = s.err := rfl
@[simp] theorem setRec_boot (s : State) (r : Rec) : (s.setRec r).boot = s.boot := rfl
@[simp] theorem setRec_cart (s : State) (r : Rec) : (s.setRec r).cart = s.cart := rfl
@[simp] theorem setRec_mot (s : State) (r : Rec) : (s.setRec r).mot = s.mot := rfl
@[simp] theorem setRec_pwr (s : State) (r : Rec) : (s.setRec r).pwr = s.pwr := rfl
@[simp] theorem setRec_pw (s : State) (r : Rec) : (s.setRec r).pw = s.pw := rfl
@[simp] theorem setRec_hif (s : State) (r : Rec) : (s.setRec r).hif = s.hif := rfl
@[simp] theorem setRec_eth (s : State) (r : Rec) : (s.setRec r).eth = s.eth := rfl
@[simp] theorem setRec_pool (s : State) (r : Rec) : (s.setRec r).pool = s.pool := rfl
@[simp] theorem setRec_sch (s : State) (r : Rec) : (s.setRec r).sch = s.sch := rfl
@[simp] theorem setRec_tank (s : State) (r : Rec) : (s.setRec r).tank = s.tank := rfl
@[simp] theorem setRec_tnk (s : State) (r : Rec) : (s.setRec r).tnk = s.tnk := rfl
@[simp] theorem setRec_spd (s : State) (r : Rec) : (s.setRec r).spd = s.spd := rfl
@[simp] theorem setRec_fixer (s : State) (r : Rec) : (s.setRec r).fixer = s.fixer := rfl
@[simp] theorem setRec_dump (s : State) (r : Rec) : (s.setRec r).dump = s.dump := rfl
@[simp] theorem setRec_jrn (s : State) (r : Rec) : (s.setRec r).jrn = s.jrn := rfl
@[simp] theorem setRec_cdc (s : State) (r : Rec) : (s.setRec r).cdc = s.cdc := rfl
@[simp] theorem setRec_fmt (s : State) (r : Rec) : (s.setRec r).fmt = s.fmt := rfl
@[simp] theorem setRec_sec (s : State) (r : Rec) : (s.setRec r).sec = s.sec := rfl
@[simp] theorem setRec_tape (s : State) (r : Rec) : (s.setRec r).tape = s.tape := rfl
@[simp] theorem setRec_prf (s : State) (r : Rec) : (s.setRec r).prf = s.prf := rfl
@[simp] theorem setRec_rch (s : State) (r : Rec) : (s.setRec r).rch = s.rch := rfl
@[simp] theorem setRec_mdr (s : State) (r : Rec) : (s.setRec r).mdr = s.mdr := rfl
@[simp] theorem setRec_srv (s : State) (r : Rec) : (s.setRec r).srv = s.srv := rfl
@[simp] theorem setRec_cle (s : State) (r : Rec) : (s.setRec r).cle = s.cle := rfl
@[simp] theorem setRec_xlk (s : State) (r : Rec) : (s.setRec r).xlk = s.xlk := rfl

/-! ### A tenant's balance replaced -/

@[simp] theorem setBal_pending (s : State) (b : Bal) : (s.setBal b).pending = s.pending := rfl
@[simp] theorem setBal_out (s : State) (b : Bal) : (s.setBal b).out = s.out := rfl
@[simp] theorem setBal_freeCtr (s : State) (b : Bal) : (s.setBal b).freeCtr = s.freeCtr := rfl
@[simp] theorem setBal_us (s : State) (b : Bal) : (s.setBal b).us = s.us := rfl
@[simp] theorem setBal_xc (s : State) (b : Bal) : (s.setBal b).xc = s.xc := rfl
@[simp] theorem setBal_flow (s : State) (b : Bal) : (s.setBal b).flow = s.flow := rfl
@[simp] theorem setBal_balls (s : State) (b : Bal) : (s.setBal b).balls = s.balls := rfl
@[simp] theorem setBal_regs (s : State) (b : Bal) : (s.setBal b).regs = s.regs := rfl
@[simp] theorem setBal_wlatch (s : State) (b : Bal) : (s.setBal b).wlatch = s.wlatch := rfl
@[simp] theorem setBal_rlatch (s : State) (b : Bal) : (s.setBal b).rlatch = s.rlatch := rfl
@[simp] theorem setBal_con (s : State) (b : Bal) : (s.setBal b).con = s.con := rfl
@[simp] theorem setBal_arb (s : State) (b : Bal) : (s.setBal b).arb = s.arb := rfl
@[simp] theorem setBal_err (s : State) (b : Bal) : (s.setBal b).err = s.err := rfl
@[simp] theorem setBal_boot (s : State) (b : Bal) : (s.setBal b).boot = s.boot := rfl
@[simp] theorem setBal_cart (s : State) (b : Bal) : (s.setBal b).cart = s.cart := rfl
@[simp] theorem setBal_mot (s : State) (b : Bal) : (s.setBal b).mot = s.mot := rfl
@[simp] theorem setBal_pwr (s : State) (b : Bal) : (s.setBal b).pwr = s.pwr := rfl
@[simp] theorem setBal_pw (s : State) (b : Bal) : (s.setBal b).pw = s.pw := rfl
@[simp] theorem setBal_hif (s : State) (b : Bal) : (s.setBal b).hif = s.hif := rfl
@[simp] theorem setBal_eth (s : State) (b : Bal) : (s.setBal b).eth = s.eth := rfl
@[simp] theorem setBal_qmg (s : State) (b : Bal) : (s.setBal b).qmg = s.qmg := rfl
@[simp] theorem setBal_pool (s : State) (b : Bal) : (s.setBal b).pool = s.pool := rfl
@[simp] theorem setBal_tank (s : State) (b : Bal) : (s.setBal b).tank = s.tank := rfl
@[simp] theorem setBal_tnk (s : State) (b : Bal) : (s.setBal b).tnk = s.tnk := rfl
@[simp] theorem setBal_spd (s : State) (b : Bal) : (s.setBal b).spd = s.spd := rfl
@[simp] theorem setBal_fixer (s : State) (b : Bal) : (s.setBal b).fixer = s.fixer := rfl
@[simp] theorem setBal_dump (s : State) (b : Bal) : (s.setBal b).dump = s.dump := rfl
@[simp] theorem setBal_jrn (s : State) (b : Bal) : (s.setBal b).jrn = s.jrn := rfl
@[simp] theorem setBal_cdc (s : State) (b : Bal) : (s.setBal b).cdc = s.cdc := rfl
@[simp] theorem setBal_fmt (s : State) (b : Bal) : (s.setBal b).fmt = s.fmt := rfl
@[simp] theorem setBal_sec (s : State) (b : Bal) : (s.setBal b).sec = s.sec := rfl
@[simp] theorem setBal_tape (s : State) (b : Bal) : (s.setBal b).tape = s.tape := rfl
@[simp] theorem setBal_prf (s : State) (b : Bal) : (s.setBal b).prf = s.prf := rfl
@[simp] theorem setBal_rch (s : State) (b : Bal) : (s.setBal b).rch = s.rch := rfl
@[simp] theorem setBal_mdr (s : State) (b : Bal) : (s.setBal b).mdr = s.mdr := rfl
@[simp] theorem setBal_srv (s : State) (b : Bal) : (s.setBal b).srv = s.srv := rfl
@[simp] theorem setBal_cle (s : State) (b : Bal) : (s.setBal b).cle = s.cle := rfl
@[simp] theorem setBal_xlk (s : State) (b : Bal) : (s.setBal b).xlk = s.xlk := rfl

/-! ### What the changed field holds -/

@[simp] theorem emit_out (s : State) (o : Out) : (s.emit o).out = s.inFifo o :: s.out := rfl
@[simp] theorem draw_freeCtr (s : State) : s.draw.freeCtr = s.freeCtr + 1 := rfl
@[simp] theorem clearLog_err (s : State) : s.clearLog.err = { s.err with recs := s.err.recs.take s.err.ofTick, wrap := false } := rfl
theorem wr_regs (s : State) (a : Nat) (w : Word) : (s.wr a w).regs = sset RegMap.resetWord s.regs a w := rfl

/-! ### Register words -/

@[simp] theorem rd_wr_same (s : State) (a : Nat) (w : Word) : (s.wr a w).rd a = w := sget_sset_same _ _ _
theorem rd_wr_other {a b : Nat} (h : b ≠ a) (s : State) (w : Word) : (s.wr a w).rd b = s.rd b := sget_sset_other h _ _

/-- A word is read from the register file alone. -/
theorem rd_of_regs {s t : State} (h : s.regs = t.regs) (a : Nat) : s.rd a = t.rd a := by simp only [State.rd, h]
/-- So is a field. -/
theorem getF_of_regs {s t : State} (h : s.regs = t.regs) (f : Fld) : s.getF f = t.getF f := by simp only [State.getF, rd_of_regs h]
theorem bit_of_regs {s t : State} (h : s.regs = t.regs) (f : Fld) : s.bit f = t.bit f := by simp only [State.bit, getF_of_regs h]

@[simp] theorem emit_getF (s : State) (o : Out) (f : Fld) : (s.emit o).getF f = s.getF f := rfl
@[simp] theorem draw_getF (s : State) (f : Fld) : s.draw.getF f = s.getF f := rfl
@[simp] theorem setSes_getF (s : State) (n : Sid) (x : Session) (f : Fld) : (s.setSes n x).getF f = s.getF f := rfl
@[simp] theorem setFn_getF (s : State) (g : Fn) (f : Fld) : (s.setFn g).getF f = s.getF f := rfl
@[simp] theorem setXp_getF (s : State) (p : PortNo) (x : XPort) (f : Fld) : (s.setXp p x).getF f = s.getF f := rfl
@[simp] theorem setQueue_getF (s : State) (q : Queue) (f : Fld) : (s.setQueue q).getF f = s.getF f := rfl
@[simp] theorem setRec_getF (s : State) (r : Rec) (f : Fld) : (s.setRec r).getF f = s.getF f := rfl
@[simp] theorem setBal_getF (s : State) (b : Bal) (f : Fld) : (s.setBal b).getF f = s.getF f := rfl
@[simp] theorem clearLog_getF (s : State) (f : Fld) : s.clearLog.getF f = s.getF f := rfl

/-! ### Fields -/

/-- A word with bits put into it, in three parts: below the field, the field, above it. -/
theorem putBits_eq (w lo k v : Nat) : putBits w lo k v = (w / 2 ^ (lo + k) * 2 ^ k + v % 2 ^ k) * 2 ^ lo + w % 2 ^ lo := by
  have e1 := Nat.div_add_mod w (2 ^ lo)
  have e2 := Nat.div_add_mod (w / 2 ^ lo) (2 ^ k)
  have e3 : w / 2 ^ lo / 2 ^ k = w / 2 ^ (lo + k) := by rw [Nat.div_div_eq_div_mul, pow_add]
  rw [e3] at e2
  unfold putBits
  generalize w / 2 ^ (lo + k) = c at *
  generalize w / 2 ^ lo % 2 ^ k = b at *
  generalize w % 2 ^ lo = a at *
  generalize v % 2 ^ k = u at *
  rw [← e2] at e1
  have : w = c * 2 ^ k * 2 ^ lo + b * 2 ^ lo + a := by rw [← e1]; ring
  rw [this, add_mul]; omega

/-- What stands above a field keeps its value. -/
theorem putBits_div (w lo k v : Nat) : putBits w lo k v / 2 ^ (lo + k) = w / 2 ^ (lo + k) := by
  rw [pow_add, ← Nat.div_div_eq_div_mul, putBits_eq, Nat.add_comm, Nat.add_mul_div_right _ _ (by positivity), Nat.div_eq_of_lt (Nat.mod_lt _ (by positivity)),
    Nat.zero_add, Nat.add_comm, Nat.add_mul_div_right _ _ (by positivity), Nat.div_eq_of_lt (Nat.mod_lt _ (by positivity)), Nat.zero_add, pow_add]

/-- What stands below a field keeps its value. -/
theorem putBits_mod (w lo k v : Nat) : putBits w lo k v % 2 ^ lo = w % 2 ^ lo := by
  rw [putBits_eq, Nat.add_comm, Nat.add_mul_mod_self_right, Nat.mod_mod]

/-- The bits put are the bits read. -/
theorem getBits_putBits_same (w lo k v : Nat) : getBits (putBits w lo k v) lo k = v % 2 ^ k := by
  unfold getBits
  rw [putBits_eq, Nat.add_comm, Nat.add_mul_div_right _ _ (by positivity), Nat.div_eq_of_lt (Nat.mod_lt _ (by positivity)), Nat.zero_add, Nat.add_comm,
    Nat.add_mul_mod_self_right, Nat.mod_mod]

/-- Bits outside the field put are read as before. -/
theorem getBits_putBits_other {lo k lo' k' : Nat} (h : lo' + k' ≤ lo ∨ lo + k ≤ lo') (w v : Nat) : getBits (putBits w lo k v) lo' k' = getBits w lo' k' := by
  unfold getBits
  rcases h with h | h
  · have low (x : Nat) : x / 2 ^ lo' % 2 ^ k' = x % 2 ^ lo / 2 ^ lo' % 2 ^ k' := by
      obtain ⟨n, rfl⟩ : ∃ n, lo = lo' + k' + n := ⟨lo - (lo' + k'), by omega⟩
      rw [show lo' + k' + n = lo' + (k' + n) by omega, pow_add 2 lo', Nat.mod_mul_right_div_self, pow_add, Nat.mod_mul_right_mod]
    rw [low, putBits_mod, ← low]
  · obtain ⟨n, rfl⟩ : ∃ n, lo' = lo + k + n := ⟨lo' - (lo + k), by omega⟩
    rw [pow_add 2 (lo + k), ← Nat.div_div_eq_div_mul, ← Nat.div_div_eq_div_mul, putBits_div]

theorem putBits_lt {w lo k : Nat} (h : lo + k ≤ 32) (hw : w < 2 ^ 32) (v : Nat) : putBits w lo k v < 2 ^ 32 := by
  have : (2 : Nat) ^ 32 = 2 ^ (32 - (lo + k)) * 2 ^ (lo + k) := by rw [← pow_add]; congr 1; omega
  rw [this] at hw ⊢
  rw [← Nat.div_lt_iff_lt_mul (by positivity)] at hw ⊢
  rwa [putBits_div]

/-- A field set reads as the value set, cut to its width. -/
theorem getF_setF_same (s : State) (f : Fld) (v : Nat) (h : f.lo + f.width ≤ 32) : (s.setF f v).getF f = v % 2 ^ f.width := by
  simp only [State.getF, State.setF, rd_wr_same, BitVec.toNat_ofNat]
  rw [Nat.mod_eq_of_lt (putBits_lt h (s.rd f.off).isLt v), getBits_putBits_same]

/-- Any other field reads as before: one of another word, or one of other bits of the same word. -/
theorem getF_setF_other {f g : Fld} (s : State) (v : Nat) (h : f.lo + f.width ≤ 32) (hg : g.off ≠ f.off ∨ g.lo + g.width ≤ f.lo ∨ f.lo + f.width ≤ g.lo) :
    (s.setF f v).getF g = s.getF g := by
  by_cases e : g.off = f.off
  · simp only [State.getF, State.setF, e, rd_wr_same, BitVec.toNat_ofNat]
    rw [Nat.mod_eq_of_lt (putBits_lt h (s.rd f.off).isLt v), getBits_putBits_other (hg.resolve_left (fun n => n e))]
  · simp only [State.getF, State.setF, rd_wr_other e]

theorem bit_setF_other {f g : Fld} (s : State) (v : Nat) (h : f.lo + f.width ≤ 32) (hg : g.off ≠ f.off ∨ g.lo + g.width ≤ f.lo ∨ f.lo + f.width ≤ g.lo) :
    (s.setF f v).bit g = s.bit g := by simp only [State.bit, getF_setF_other s v h hg]

/-- A word other than the field's reads as before. -/
theorem rd_setF_other {f : Fld} {a : Nat} (h : a ≠ f.off) (s : State) (v : Nat) : (s.setF f v).rd a = s.rd a := rd_wr_other h _ _

theorem rd64_wr64_same (s : State) (a v : Nat) : (s.wr64 a v).rd64 a = v % 2 ^ 64 := by
  simp only [State.rd64, State.wr64, rd_wr_other (show a ≠ a + 4 by omega), rd_wr_same, BitVec.toNat_ofNat]
  omega

/-- A field is below the power of two of its width. -/
theorem getF_lt (s : State) (f : Fld) : s.getF f < 2 ^ f.width := Nat.mod_lt _ (by positivity)

/-! ### Sessions, functions, ports -/

@[simp] theorem ses_setSes_same (s : State) (n : Sid) (x : Session) : (s.setSes n x).ses n = x := by simp [State.ses, State.setSes]
theorem ses_setSes_other {n m : Sid} (h : m ≠ n) (s : State) (x : Session) : (s.setSes n x).ses m = s.ses m := by
  have : n.val ≠ m.val := fun e => h (Fin.ext e.symm)
  simp only [State.ses, State.setSes, Fin.getElem_fin, Vector.getElem_set_ne _ _ this]
@[simp] theorem xp_setXp_same (s : State) (p : PortNo) (x : XPort) : (s.setXp p x).xp p = x := by simp [State.xp, State.setXp]
theorem xp_setXp_other {n m : PortNo} (h : m ≠ n) (s : State) (x : XPort) : (s.setXp n x).xp m = s.xp m := by
  have : n.val ≠ m.val := fun e => h (Fin.ext e.symm)
  simp only [State.xp, State.setXp, Fin.getElem_fin, Vector.getElem_set_ne _ _ this]
@[simp] theorem fn_setFn_same (s : State) (f : Fn) : (s.setFn f).fn f.t = f := by simp [State.fn, State.setFn, fnOf]
theorem fnOf_filter {t u : Tenant} (h : t ≠ u) (l : List Fn) : fnOf (l.filter (fun g => g.t != u)) t = fnOf l t := by
  induction l with
  | nil => rfl
  | cons g l ih =>
    by_cases e : g.t = u
    · have n : ¬ g.t = t := fun x => h (x.symm.trans e)
      rw [List.filter_cons_of_neg (by simp [e]), ih]; simp only [fnOf, n, if_false]
    · rw [List.filter_cons_of_pos (by simp [e])]; simp only [fnOf, ih]
theorem fn_setFn_other {t : Tenant} (s : State) (f : Fn) (h : t ≠ f.t) : (s.setFn f).fn t = s.fn t := by
  have n : ¬ f.t = t := fun e => h e.symm
  simp only [State.fn, State.setFn, fnOf, n, if_false]; exact fnOf_filter h _

end Sys2Proof.Machine
end

