-- ==== Sys2Proof/Machine/Tap.lean ====
section
/-! DEFINITION. The TAP (18_balls R493). No row of the table clocks it: its state stands in State, and what a clock of TCK does to it is defined here (log entry 126). The controller is that of
IEEE 1149.1, which R493 names. -/

namespace Sys2Proof.Machine

/-- IDCODE: version 1, part number 0x3260, Laryen's manufacturer code, and 1 (R493). -/
def tapIdcode : Word := 0x13260587#32

/-- The controller's next state, on a rise of TCK with TMS at `tms` (IEEE 1149.1). -/
def TapCtl.next : TapCtl → Bool → TapCtl
  | .reset, tms => if tms then .reset else .idle
  | .idle, tms => if tms then .selectDr else .idle
  | .selectDr, tms => if tms then .selectIr else .captureDr
  | .captureDr, tms => if tms then .exit1Dr else .shiftDr
  | .shiftDr, tms => if tms then .exit1Dr else .shiftDr
  | .exit1Dr, tms => if tms then .updateDr else .pauseDr
  | .pauseDr, tms => if tms then .exit2Dr else .pauseDr
  | .exit2Dr, tms => if tms then .updateDr else .shiftDr
  | .updateDr, tms => if tms then .selectDr else .idle
  | .selectIr, tms => if tms then .reset else .captureIr
  | .captureIr, tms => if tms then .exit1Ir else .shiftIr
  | .shiftIr, tms => if tms then .exit1Ir else .shiftIr
  | .exit1Ir, tms => if tms then .updateIr else .pauseIr
  | .pauseIr, tms => if tms then .exit2Ir else .pauseIr
  | .exit2Ir, tms => if tms then .updateIr else .shiftIr
  | .updateIr, tms => if tms then .selectDr else .idle

/-- Board-test mode: TEST_EN was high at the rise of PWRGD (R492). -/
def State.boardTest (s : State) : Bool := s.boot.pwrgd && s.boot.testEn

/-- The instruction in force: EXTEST acts only in board-test mode, elsewhere as BYPASS (R493). -/
def State.tapInstr (s : State) : TapInstr := if s.balls.tap.instr = .extest ∧ s.boardTest = false then .bypass else s.balls.tap.instr

/-- Output balls that EXTEST may drive: the digital outputs but for the gate outputs, WGATE_A, WGATE_B and TDO (R487, R493). -/
def drivenCells : List String :=
  ["FAULT_N", "WAKE_N", "U0_TXD", "U0_RTS_N", "U1_TXD", "U1_RTS_N", "QSPI_SCK", "QSPI_CS_N", "QSPI_IO0", "QSPI_IO1", "QSPI_IO2", "QSPI_IO3", "MDC", "MDIO", "ETH_RST_N",
   "ACC_SCK", "ACC_CS_N", "ACC_MOSI", "PRE_EN_A", "PRE_EN_B"]

/-- The level a cell observes: of a ball whose level State holds, else a free value. -/
def State.cellLevel (s : State) (name : String) : Bool :=
  if name = "PRE_EN_A" then s.balls.preA else if name = "PRE_EN_B" then s.balls.preB
  else if name = "WGATE_A" then s.balls.gateA else if name = "WGATE_B" then s.balls.gateB
  else if name = "PWRGD" then s.boot.pwrgd else if name = "IGN" then s.pw.ign
  else if name = "HOLDUP_OK" then s.pw.holdup else if name = "PFAIL_N" then !s.pw.pfail
  else if name = "CART_SW_N" then s.cart == .none else if name = "CART_WP_N" then !s.tape.wp
  else Config.ballLevel s.freeCtr name

/-- What a data register captures (IEEE 1149.1, R493), the bit nearest TDO first. -/
def State.tapCapture (s : State) : List Bool :=
  match s.tapInstr with
  | .bypass => [false]
  | .idcode => (List.range 32).map tapIdcode.getLsbD
  | .sample | .extest => Config.scanPath.map s.cellLevel

/-- The latches of the cells drive the output balls under EXTEST (R493). -/
def State.driveCells (s : State) : List (String × Bool) → State
  | [] => s
  | (n, v) :: l => State.driveCells (if drivenCells.contains n then s.emit (.pin n v) else s) l

def State.setTap (s : State) (t : Tap) : State := { s with balls := { s.balls with tap := t } }

/-- An instruction by number. -/
def instrAt (n : Fin 4) : TapInstr := match n with | 0 => .bypass | 1 => .idcode | 2 => .sample | 3 => .extest

/-- The action of the state just entered. -/
def State.tapEnter (s : State) : State :=
  let t := s.balls.tap
  match t.ctl with
  | .reset => s.setTap { t with instr := .idcode }
  | .captureDr => s.setTap { t with dr := s.tapCapture }
  | .captureIr => s.setTap { t with ir := true :: false :: Config.irCapture }
  | .updateIr =>
    let s := s.setTap { t with instr := if t.ir.all id then .bypass else instrAt (Config.irInstr t.ir) }
    if s.tapInstr = .extest then s.driveCells (Config.scanPath.zip t.cells) else s
  | .updateDr =>
    match s.tapInstr with
    | .sample => s.setTap { t with cells := t.dr }
    | .extest => (s.setTap { t with cells := t.dr }).driveCells (Config.scanPath.zip t.dr)
    | _ => s
  | _ => s

/-- TDO: the bit nearest it while shifting, high impedance else (R487). -/
def Tap.tdo (t : Tap) : Option Bool :=
  match t.ctl with
  | .shiftDr => t.dr.head?
  | .shiftIr => t.ir.head?
  | _ => none

/-- One clock of TCK with TRST_N high. -/
def State.tapClock (s : State) (tms tdi : Bool) : State :=
  let t := s.balls.tap
  let t := match t.ctl with
    | .shiftDr => { t with dr := t.dr.tail ++ [tdi] }
    | .shiftIr => { t with ir := t.ir.tail ++ [tdi] }
    | _ => t
  (s.setTap { t with ctl := t.ctl.next tms }).tapEnter

/-- TRST_N low holds the TAP in reset (R487, R494). -/
def State.tapReset (s : State) : State := s.setTap { s.balls.tap with ctl := .reset, instr := .idcode }

end Sys2Proof.Machine
end

