-- ==== Sys2Proof/WellFormed.lean ====
section
/-! DEFINITION. Which commands are well formed: operands that the wire or the bus cannot carry are ruled out here, one check per rule of the
spec that bounds them. Operands whose every value means something (a wrong code, a full queue, an unknown register) are well formed, and
their commands' meanings answer for them. -/

namespace Sys2Proof

/-- The offset of a register access: an aligned 32-bit word of the 2 MiB BAR0 (00_scope R15, R16). -/
def regAddr (off : Nat) : Bool := off % 4 == 0 && decide (off < 0x200000)

/-- The offset of a register or configuration access: above BAR0 stand the 4 KiB of the function's configuration space (05_tenants R127; DESIGN CHOICE, log entry 102). -/
def busAddr (off : Nat) : Bool := off % 4 == 0 && decide (off < 0x201000)

/-- A LEND payload: operation, handle, offset and length take 12 bytes of the 1,000 of a frame (16_xasen R429, R460). -/
def lendSize (p : LendP) : Bool := decide (p.data.length ≤ 988)

/-- The commands that the outside can send. -/
def Instr.wf (i : Instr) : Bool :=
  match i with
  | .registerWrite _ off _ => busAddr off
  | .rcFieldRead _ off => busAddr off
  | .writeLowHalf _ off _ => regAddr off
  | .writeHighHalf _ off _ => regAddr off
  | .readLowHalf _ off => regAddr off
  | .readHighHalf _ off => regAddr off
  | .arbitrationTick _ => true
  | .clockLoss _ => true
  | .refClockLoss => true
  | .writeUnderrun _ => true
  | .doorbellWrite _ _ _ => true
  | .plovaLine _ _ => true
  | .lineEditCharacter _ _ => true
  | .uartBreak _ => true
  | .tcpConnect _ => true
  | .tcpClose _ => true
  | .tcpIdleTimeout _ => true
  | .serviceTimeout _ => true
  | .level _ _ => true
  | .session _ _ _ _ _ => true
  | .sessionQuery _ => true
  | .lockMotion _ => true
  | .freeMotion _ => true
  | .helpQuery _ _ => true
  | .idQuery _ => true
  | .stateQuery _ => true
  | .timeQuery _ => true
  | .errQuery _ _ _ => true
  | .errClear _ => true
  | .errCtlClear _ _ => true
  | .contactQuery _ => true
  | .peek _ _ _ => true
  | .poke _ _ _ => true
  | .load _ _ => true
  | .loadComplete _ => true
  | .unload _ => true
  | .unloadComplete _ => true
  | .cartQuery _ => true
  | .recordStart _ => true
  | .recordStartComplete => true
  | .recordStop _ => true
  | .recordStopComplete => true
  | .flush _ => true
  | .flushDatasetClose => true
  | .motionStart _ _ _ => true
  | .motionStop _ => true
  | .speed _ _ => true
  | .locate _ _ => true
  | .locateLpw _ _ => true
  | .locateComplete _ _ _ => true
  | .locateProbe _ => true
  | .motionQuery _ => true
  | .tripQuery _ => true
  | .tripClear _ _ => true
  | .mdrTripclrWrite _ _ => true
  | .tenantQuery _ _ => true
  | .tenant _ _ _ _ _ => true
  | .queueCreate _ _ _ _ _ _ => true
  | .queueDelete _ _ => true
  | .queueQuery _ _ => true
  | .qcmdCreate _ _ => true
  | .qcmdDelete _ _ => true
  | .resetFunction _ _ => true
  | .power _ _ => true
  | .powerQuery _ => true
  | .resetWarm _ _ => true
  | .resetDomain _ _ => true
  | .nodeQuery _ => true
  | .census _ => true
  | .censusQuery _ => true
  | .testCodec _ => true
  | .testProof _ => true
  | .testBoot _ => true
  | .testBootComplete _ _ => true
  | .testTank _ _ => true
  | .key _ _ _ _ _ => true
  | .keyQuery _ _ => true
  | .keyErase _ _ _ => true
  | .fwupdateStart _ _ => true
  | .flashWrite _ _ _ => true
  | .fwupdateCommit _ _ => true
  | .fwupdateCommitComplete => true
  | .fwupdateAbort _ => true
  | .pwrgdRise _ _ _ => true
  | .pwrgdFall => true
  | .fuseMapLoad _ _ => true
  | .bootImageLoad _ _ => true
  | .bootSelfTest _ _ _ => true
  | .fixerJournalScan => true
  | .firstPrompt _ => true
  | .warmReset _ => true
  | .domainReset _ => true
  | .rstctlWarm _ _ => true
  | .rstctlDomain _ _ => true
  | .perstAssert => true
  | .watchdogExpiry => true
  | .watchdogWrite _ _ => true
  | .functionLevelReset _ => true
  | .pfFlr => true
  | .vfEnable _ _ => true
  | .vfDisable => true
  | .drtTenantDisable _ _ => true
  | .drtDisable _ => true
  | .msixTableWrite _ _ _ => true
  | .drtOpen _ _ => true
  | .drtData _ _ => true
  | .drtClose _ => true
  | .drtKeepalive _ => true
  | .drtAckTimer _ => true
  | .drtGapTimer _ => true
  | .drtIdleTimeout _ => true
  | .arpRequest _ _ _ => true
  | .icmpEcho _ _ _ _ => true
  | .ethLinkChange _ _ _ _ => true
  | .gptpSync _ _ => true
  | .gptpSyncTimeout => true
  | .descriptorFetchWrite _ _ => true
  | .descriptorFetchRead _ _ => true
  | .descriptorFetchBarrier _ _ => true
  | .descriptorFetchNop _ _ => true
  | .descriptorDmaError _ => true
  | .recordDmaComplete _ _ _ => true
  | .recordDmaError _ _ => true
  | .reservationCharge => true
  | .msixCoalesceTimeout _ => true
  | .readComplete _ _ => true
  | .readTimeout _ _ => true
  | .cartReadingIdle => true
  | .notifyHoldoffEnd _ _ => true
  | .overrateCheck _ _ => true
  | .tvecWrite _ _ _ => true
  | .qvecWrite _ _ _ => true
  | .tshareWrite _ _ _ => true
  | .gcapWrite _ _ => true
  | .schFeed _ => true
  | .bulkStarve _ => true
  | .blockEncodeComplete _ _ => true
  | .blockPlace => true
  | .rdcEngineEnableWrite _ _ => true
  | .enlEngineEnableWrite _ _ => true
  | .blockExpand _ _ _ _ _ _ => true
  | .codecTestPeriod => true
  | .codecTestSlice _ _ _ => true
  | .codecTestWaitExpiry _ => true
  | .tankRead _ _ _ _ _ => true
  | .tankPartialWrite _ _ _ _ _ _ _ => true
  | .tankAtomicAdd _ _ _ _ _ _ _ => true
  | .tankAtomicSwap _ _ _ _ _ _ _ => true
  | .requestAgeExpiry _ _ _ => true
  | .tankWindowAccess _ _ _ _ _ => true
  | .marchBurst _ => true
  | .scratchpadFetchError _ _ _ _ => true
  | .scratchpadReloadDone => true
  | .spdRemapAdd _ _ => true
  | .datasetClose => true
  | .datasetStreamStart => true
  | .frameWrite _ => true
  | .frameVerdict _ _ => true
  | .datasetDecode _ => true
  | .frameRead _ _ => true
  | .lossOfLock _ _ => true
  | .readRetry => true
  | .loupeArm _ _ => true
  | .loupeFire _ _ => true
  | .loupeCaptureEnd => true
  | .proofCheckpoint _ _ => true
  | .servoFrame _ _ _ _ _ => true
  | .servoLostTimeout => true
  | .lpwokStopTimeout => true
  | .turnaround => true
  | .speedEvaluation => true
  | .gapTimeout => true
  | .backhitchResume => true
  | .packBurstStart => true
  | .carrierPeriod axes _ _ => axes.length == 3
  | .catchEnd _ _ _ _ => true
  | .alignEnd _ => true
  | .observerHandover _ => true
  | .startFail _ => true
  | .motionStartComplete => true
  | .controlledStopEnd => true
  | .tripInput _ _ _ => true
  | .overcurrent _ => true
  | .blankingEnd _ => true
  | .followEnd _ => true
  | .fanCurveEval _ _ => true
  | .fanStall => true
  | .fanRestart _ => true
  | .currentLoop _ => true
  | .coilLoop => true
  | .latLoop => true
  | .reelSpeedLoop => true
  | .tensionLoop => true
  | .fanLoop => true
  | .loopBankRequest _ _ _ => true
  | .loopModeWrite _ _ _ => true
  | .coefficientWrite _ _ _ _ _ _ => true
  | .rcClear _ _ => true
  | .radiusWrite _ _ => true
  | .accelTransaction bytes => bytes.length == 6
  | .quiesceComplete _ => true
  | .wakeEvent _ => true
  | .saveListAccess _ _ _ => true
  | .ignitionChange _ => true
  | .ignitionHoldExpiry => true
  | .ignitionDrainTimeout => true
  | .holdupOkChange _ => true
  | .pfailAssert _ => true
  | .dumpComplete _ => true
  | .cartInsert _ _ _ _ => true
  | .cartRemove => true
  | .portTrained _ _ _ => true
  | .trainingBurst _ => true
  | .linkFrameReceived _ _ => true
  | .linkRetry _ => true
  | .linkIdleSend _ => true
  | .portDown _ _ => true
  | .censusAutoStart => true
  | .creqReceived _ _ _ _ => true
  | .crspReceived _ _ _ _ _ _ _ _ => true
  | .probeExchange _ rounds => rounds.length == 16
  | .commitReceived _ => true
  | .timeFrameSend => true
  | .timeFrameReceived _ _ _ _ _ => true
  | .cmdPlova _ _ _ _ => true
  | .cmdReset _ _ _ _ => true
  | .cmdPower _ _ _ => true
  | .cmdWake _ _ _ => true
  | .cmdPoke _ _ _ _ => true
  | .cmdPeek _ _ _ => true
  | .rspReceived _ _ _ _ _ _ _ => true
  | .ctmoExpiry _ => true
  | .evtReceived _ _ _ _ => true
  | .xlkWakeWrite _ _ => true
  | .stripeGroupEnable _ _ _ => true
  | .stripeRowClose _ => true
  | .stripeRetransmit _ _ _ => true
  | .lendAlloc p => lendSize p
  | .lendGrant p => lendSize p
  | .lendPut p => lendSize p
  | .lendGet p => lendSize p
  | .lendData p => lendSize p
  | .lendFree p => lendSize p
  | .recordSpill => true
  | .recordRecall => true
  | .characterReceived _ c => decide (c.toNat < 256)
  | .referenceClockReturn => true
  | .supplyMonitorReset _ => true
  | .perstDeassert => true
  | .parkOrderedSet _ => true
  | .brakeToStandstill _ => true
  | .unsupportedFrame _ _ => true

end Sys2Proof
end

