-- ==== Sys2Proof/Tests/Slice0.lean ====
section
/-! SUPPORT. Small tests of the model against the spec's own examples, and for every statement with hypotheses a state that meets them. -/

namespace Sys2Proof.Tests

open Sys2Proof Sys2Proof.Machine

set_option maxRecDepth 100000

/-! ### States to test on -/

/-- The line of session 0, without a tag. -/
def l0 : Ln := ⟨.sess 0, [], false⟩
/-- The line of session 2, a TCP session. -/
def l2 : Ln := ⟨.sess 2, [], false⟩

/-- A session that executes a line. -/
def busySession (lv : Level) : Session := { Session.closed with isOpen := true, level := lv, lines := [⟨l0, [], .run⟩] }

/-- The machine after start-up, in RUN with every domain on; session 0 executes a line at a level. -/
def upAt (lv : Level) : State :=
  let s := (State.reset.setF F.PWR_STAT_DOMAINS 0x3FF).setF F.GLB_RSTCAUSE_READY 1
  let s := { s with boot := { s.boot with phase := .up, pwrgd := true } }
  s.setSes 0 (busySession lv)

def up : State := upAt .service

/-- The same with the motion lock held by session 0. -/
def locked : State := { up with con := { up.con with mlock := some (.sess 0) } }

/-- Queue 3 of tenant 0, a DRT queue. -/
def withQueue : State := up.makeQueue 0 3 0 none 8 30000

/-- A DRT session bound to queue 3, with nothing sent. -/
def aDrt : Drt :=
  { id := 1, link := none, port := 0, mac := 0#48, ip := 0x0A000001#32, udp := 5000#16, tenant := 0, qid := 3, nonce := 77#32, win := 16, maxseg := 1432
    cum := 0, held := [], part := none, ridx := 0, nacc := 0, nsec := 0, ndur := 0, rbase := 0, dseq := 1, sinceAck := 0, ackDue := false
    lastAck := none, lastWin := 16, final := none, closing := false, cut := false, openAck := [], notes := [], wait := [], stuck := none }

/-- A device whose Ethernet port 0 serves DRT with that session. -/
def drtUp : State :=
  let s := ((((((withQueue.setF F.ETH_PCFG0_EN 1).setF F.ETH_PCFG0_DRTEN 1).setF F.ETH_PSTAT_UP0 1).setF F.ETH_IP0_ADDR 1).setF F.ETH_DRTCFG_EN 1).setF F.ETH_DRTCFG_WINMAX 256).wr (R.ETH_DRTTEN 0) 1#32
  { s with eth := { s.eth with drt := [aDrt] } }

/-- The header of an OPEN and of a DATA datagram from that session's peer. -/
def openHdr : DrtHdr := ⟨false, none, none, 0, 0#48, 0x0A000001#32, 5000#16, true, true, true, 0#16, 0#16, 0#32, 77#32⟩
def dataHdr : DrtHdr := { openHdr with session := 1#16, seq := 1#32 }

/-- A descriptor: its opcode, CID, LENGTH, ADDR and SRCQ, every other byte 0. -/
def aDesc (op cid len addr q : Nat) : Desc := ⟨BitVec.ofNat 512 (op + 2 ^ 16 * cid + 2 ^ 32 * len + 2 ^ 64 * addr + 2 ^ 240 * q)⟩

/-- A record found with one byte of `n`. -/
def aGot (n : Nat) : Got := ⟨3, 0, 0, n, false, 0, false, [0#8]⟩

/-- Queue 3 with a READ of one byte outstanding in slot 7. -/
def readUp (got : Option Got) (status : Option Er) : State :=
  let op : ReadOp := ⟨aDesc 2 1 1 0x1000 3, 0, got, status, []⟩
  let q : Queue :=
    { id := 3, tenant := 0, slot := 0, drt := false, ring := 0, size := 256, timeout := 30000, shortTmo := false, head := 8, tail := 8, nextSeq := 0
      out := [⟨7, 1#16, .read op⟩], nextAt := none, bound := none, barred := false }
  { up with qmg := { up.qmg with queues := [q] } }

/-- A record of 100 bytes of queue 3, accepted. -/
def aRec : Rec :=
  { uid := 0, tenant := 0, qid := 3, seq := 0, tstamp := 0, locked := false, length := 100, cid := 1#16, slot := 0, addr := 0#64, level := .accepted, acc := 0, sec := none, unsec := false
    reported := 0, pages := [5], feed := none, ds := [], whole := false, barriers := [], drt := true, carried := false, replay := false, body := none, hostts := false, mark := false, lent := none }

/-- Recording, with records in the Tank. -/
def feeding (r : Rec) : State := { withQueue with cart := .writing, qmg := { withQueue.qmg with recs := [r] } }

/-- A block of two pieces. -/
def aJob : Job := ⟨0, [0], 0, [⟨0, 0, 100⟩, ⟨1, 0, 100⟩], 0, false⟩

/-- Engine 0 with that block. -/
def encoding (flush : Bool) : State :=
  let s := feeding { aRec with feed := some 0 }
  let s := { s with qmg := { s.qmg with recs := s.qmg.recs ++ [{ aRec with uid := 1, seq := 1, feed := some 0 }] } }
  s.setEng 0 { s.eng 0 with job := some aJob, flush := flush }

/-- An encoded block, and the open dataset it may go into. -/
def aBlock : BlkOut := ⟨{ aJob with pieces := [⟨0, 0, 100⟩] }, List.replicate 32 0#8⟩
def aSrc : DsSrc := ⟨[], [], [], [], false, false, none⟩
def placing (cur : Option DsSrc) : State :=
  let s := feeding { aRec with feed := some 0 }
  { s with cdc := { s.cdc with ready := [aBlock] }, fmt := { s.fmt with cur := cur } }

/-- A stored block of one piece of one byte. -/
def aBlockBytes : List Byte :=
  let p : Piece := ⟨3, 0, 0, 1, 0, false, false, [0x41#8]⟩
  makeBlock 0 0 false false false 1 p.bytes p.bytes

/-- A closed dataset of one subset, and the stream that writes it. -/
def aBuilt : Built := ⟨aSrc, 4, 0, 0, 0, 0, 1, [], [], none⟩
def aStream : Stream := ⟨aBuilt, List.replicate 16 0, [], [], [], 0, false, 0x0000FF44#32, 0, false⟩

/-- Recording on a blank cartridge with the tape at speed and the write gate open. -/
def writable : State :=
  let s := ((up.setF F.SRV_STAT_STATE 2).setF F.SRV_STAT_LPWOK 1).setF F.CLK_STAT_CKWC_LOCK 1
  { s.setF F.CLK_STAT_CKWE_LOCK 1 with cart := .writing, fixer := .ready, fmt := { s.fmt with built := [aBuilt] } }

def streaming (x : Stream) : State := { writable with fmt := { writable.fmt with built := [], streams := [x] } }

/-- A frame without a sync, and one at the nominal rate with its sync where it is expected. -/
def aFrame : FrameIn := ⟨0, List.replicate 4514 false, [], []⟩
def aGood : FrameIn := ⟨159375000, List.replicate 64 false ++ syncBits ++ List.replicate 4382 false, [], []⟩

/-- Reading zone E at step 6, its speed nominal. -/
def reading : State := { (up.setF F.SRV_SPD_MMS 5000).setF F.SRV_SPD_CUR 6 with cart := .reading, mot := .moving }

/-- A servo reader that saw nothing. -/
def noRead : ServoRead := ⟨false, [], 0, false, false, false⟩

/-- A reader on the centre line of its servo band at 5.0 m/s: a frame of 40 us, its N stripes 12 us after its P stripes (R325). -/
def midRead : ServoRead := ⟨true, [(12000000, 24000000), (12800000, 24800000), (13600000, 25600000), (14400000, 26400000)], 40000000, false, false, false⟩

/-- The content of a directory copy of no wrap, with generation 7 and DSNEXT 9; its CRC is computed (R346). -/
def dirBytes : List Byte := beBytes 4 0x44594452 ++ [1#8] ++ (List.replicate 3 0#8 ++ beBytes 4 7 ++ beBytes 4 9 ++ List.replicate 3120 0#8)

/-- Both reels and the fan run, the head holds its track: every control loop runs. -/
def running : State :=
  let s := (((up.setMode 0 3).setMode 1 3).setMode 2 3).setF F.SRV_STAT_STATE 2
  { s.setF (F.CLE_LSTAT_OPEN 4) 0 with cart := .ready, mot := .moving }

/-- The header of a sound EVT frame. -/
def aHdr : LinkHdr :=
  let w : List Byte := [3#8, 0#8, 0#8, 1#8, 0#8, 0#8, 0#8, 0#8, 0#8, 0#8, 0#8, 1#8, 0#8, 0#8, 0#8, 0#8]
  ⟨true, w ++ beBytes 4 (crc32 w)⟩

/-! ### Witnesses -/

/-! ### Well-formedness refuses what the wire or the bus cannot carry -/

theorem test_wf_misaligned_offset : (Instr.registerWrite .pf 2 0#32).wf = false := by decide
theorem test_wf_offset_above_bar : (Instr.rcFieldRead .pf 0x201000).wf = false := by decide
theorem test_wf_low_half_offset : (Instr.writeLowHalf .pf 1 0#32).wf = false := by decide
theorem test_wf_high_half_offset : (Instr.writeHighHalf .pf 3 0#32).wf = false := by decide
theorem test_wf_read_low_half_offset : (Instr.readLowHalf .pf 6).wf = false := by decide
theorem test_wf_read_high_half_offset : (Instr.readHighHalf .pf 0x300000).wf = false := by decide
theorem test_wf_carrier_needs_three_axes : (Instr.carrierPeriod [] 0 0).wf = false := by decide
theorem test_wf_accel_needs_six_bytes : (Instr.accelTransaction [0#8]).wf = false := by decide
theorem test_wf_probe_needs_sixteen : (Instr.probeExchange 1 [(2688, 0)]).wf = false := by decide
theorem test_wf_lend_data_too_long : (Instr.lendPut ⟨1, 0#32, 0#32, List.replicate 989 0#8⟩).wf = false := by decide
theorem test_wf_lend_alloc_too_long : (Instr.lendAlloc ⟨1, 0#32, 0#32, List.replicate 989 0#8⟩).wf = false := by decide
theorem test_wf_lend_grant_too_long : (Instr.lendGrant ⟨1, 0#32, 0#32, List.replicate 989 0#8⟩).wf = false := by decide
theorem test_wf_lend_get_too_long : (Instr.lendGet ⟨1, 0#32, 0#32, List.replicate 989 0#8⟩).wf = false := by decide
theorem test_wf_lend_answer_too_long : (Instr.lendData ⟨1, 0#32, 0#32, List.replicate 989 0#8⟩).wf = false := by decide
theorem test_wf_lend_free_too_long : (Instr.lendFree ⟨1, 0#32, 0#32, List.replicate 989 0#8⟩).wf = false := by decide
theorem test_wf_character_is_a_byte : (Instr.characterReceived 0 (Char.ofNat 960)).wf = false := by decide
theorem test_wf_offset_good : (Instr.registerWrite .pf 0x120084 1#32).wf = true := by decide

/-! ### The worked examples of the spec -/

/-- 02_command_line: the CRC-8 suffixes of a line and of its reply. -/
theorem test_crc8_line : crc8 "PEEK GLB.ID".toList = 0xE9#8 ∧ crc8 "OK GLB.ID=0x3260_4200".toList = 0x12#8 := by decide

/-- 12_servo: the CRC-7 and the band of a position word. -/
theorem test_lpw_word : wordBand 1000019 = some 2 := by decide

/-- 14_control: the speed loop of the handover. -/
theorem test_speed_loop_preset : piStep ⟨1610612736, 31⟩ ⟨26843546, 31⟩ (2 ^ 30) 0 0 0 (some 158720) = ⟨158720, 158720, false, false, false⟩ := by decide
theorem test_speed_loop : piStep ⟨1610612736, 31⟩ ⟨26843546, 31⟩ (2 ^ 30) 32768 0 158720 none = ⟨183706, 159130, false, false, false⟩ := by decide

/-- 10_dataset: the row header, the subsets of a payload, and the place of a slot. -/
theorem test_row_header : rowHeader 41300 0 20 false 25 true 21 6 0 6 =
    [0x00#8, 0x00#8, 0xA1#8, 0x54#8, 0x14#8, 0x19#8, 0x95#8, 0x60#8, 0x00#8, 0x06#8, 0x3A#8, 0x26#8] := by decide
theorem test_subsets : nsubFor 1082000 = 21 ∧ slotRow 21 9 32 = (20, 25) := by decide

/-- 06_queues: what records are charged; 15_power: the limit at 88 MB/s. -/
theorem test_charge : chargeOf 98304 = 98368 ∧ chargeOf 500 = 576 ∧ chargeLimit 88 = 3458368 := by decide

/-- 12_servo: the target steps of three demands, and the verdict of an evaluation. -/
theorem test_target_steps : targetStep false 10 214200000 = 12 ∧ targetStep false 10 202500000 = 11 ∧ targetStep false 10 108000000 = 9 := by decide

/-- 13_motor: the largest compare value at a dead time of 500 ns. -/
theorem test_max_compare : maxCompare 50 = 915 := by decide

/-- 10_dataset: the C3 contents of a group whose member 13 holds one byte 1. -/
theorem test_c3 : c3Content [(13, [1#8])] 0 1 = [3#8] ∧ c3Content [(13, [1#8])] 1 1 = [2#8] := by decide

theorem witness_level_view :
    l0.who = .sess 0 ∧ up.present l0.who = true := by decide

theorem witness_level_operate :
    let s := (up.setSes 2 (busySession .view)).setF F.PCL_TCPCFG_OPOK 1
    l0.who = .sess 0 ∧ up.present l0.who = true ∧ ((0 : Sid).val < 2 ∨ (up.ses 0).level = .service ∨ up.bit F.PCL_TCPCFG_OPOK = true) ∧
      l2.who = .sess 2 ∧ s.present l2.who = true ∧ ((2 : Sid).val < 2 ∨ (s.ses 2).level = .service ∨ s.bit F.PCL_TCPCFG_OPOK = true) := by decide

theorem witness_level_noremote :
    let s := up.setSes 2 (busySession .operate)
    l2.who = .sess 2 ∧ s.present l2.who = true ∧ 2 ≤ (2 : Sid).val ∧ (s.ses 2).level ≠ .service ∧ s.bit F.PCL_TCPCFG_OPOK = false := by decide

theorem witness_level_nochal :
    l0.who = .sess 0 ∧ up.present l0.who = true ∧ (up.ses 0).chal = none := by decide

theorem witness_level_right :
    let s := (upAt .operate).setSes 0 { busySession .operate with chal := some (['2', '3', '4', '5'], 0) }
    l0.who = .sess 0 ∧ s.present l0.who = true ∧ (s.ses 0).chal = some (['2', '3', '4', '5'], 0) ∧ s.us ≤ 0 + 60000000 ∧ s.lockedOut = false ∧
      (s.svcHolder = none ∨ s.svcHolder = some 0) ∧ (s.goodResponse ['2', '3', '4', '5']).map upper = s.goodResponse ['2', '3', '4', '5'] := by
  refine ⟨by decide, by decide, by decide, by decide, by decide, by decide, ?_⟩
  have h : ∀ i : Fin 32, upper (chalChar i) = chalChar i := by decide
  simp only [State.goodResponse, List.map_map]
  exact List.map_congr_left (fun i _ => h _)

theorem witness_level_wrong :
    let s := (upAt .operate).setSes 0 { busySession .operate with chal := some (['2', '3', '4', '5'], 0) }
    l0.who = .sess 0 ∧ s.present l0.who = true ∧ (s.ses 0).chal = some (['2', '3', '4', '5'], 0) ∧ s.us ≤ 0 + 60000000 ∧ s.lockedOut = false ∧
      (s.svcHolder = none ∨ s.svcHolder = some 0) ∧ ([] : List Char).map upper ≠ s.goodResponse ['2', '3', '4', '5'] := by
  refine ⟨by decide, by decide, by decide, by decide, by decide, by decide, ?_⟩
  intro h
  simpa [State.goodResponse] using congrArg List.length h

theorem witness_answers_view :
    l0.who = .sess 0 ∧ (upAt .view).answers l0 .view ∧ ¬(some true = none ∧ (none : Option Bool) = none ∧ (none : Option Bool) = none ∧ (none : Option EvFilter) = none) := by decide

theorem witness_serves_operate_free :
    (upAt .operate).serves l0 .operate ∧ (upAt .operate).con.mlock = none ∧ (upAt .operate).con.mlock ≠ some (Who.owner l0.who) := by decide

theorem witness_serves_operate_held :
    locked.serves l0 .operate ∧ locked.con.mlock = some (Who.owner l0.who) := by decide

theorem witness_serves_operate_other :
    let s : State := { up with con := { up.con with mlock := some (.sess 3) } }
    s.serves l0 .operate ∧ s.con.mlock = some (.sess 3) ∧ (.sess 3 : Who) ≠ Who.owner l0.who := by decide

theorem witness_query_view :
    (upAt .view).answers l0 .view ∧ (upAt .view).serves l0 .view := by decide

theorem witness_query_help_known :
    (upAt .view).answers l0 .view ∧ (helpTable.find? (fun r => r.1.toList == "load".toList.map upper)).isSome = true := by decide

theorem witness_query_help_unknown :
    (upAt .view).answers l0 .view ∧ helpTable.find? (fun r => r.1.toList == "PLAY".toList.map upper) = none := by decide

theorem witness_query_err :
    (upAt .view).answers l0 .view ∧ 1 ≤ (some 32).getD 16 ∧ (some 32).getD 16 ≤ 32 ∧ (none : Option Nat).getD 0 < 2 ^ 32 := by decide

theorem witness_err_clear :
    up.serves l0 .service ∧ up.err.fresh = none := by decide

/-- A clear in an arbitration tick in which one record was written. -/
theorem witness_err_clear_tick :
    let s : State := { up with err := { up.err with recs := [errRec .servolost .srv [], errRec .overtemp .mdr []], next := 2, fresh := some 1 } }
    s.serves l0 .service ∧ (s.err.next + 2 ^ 32 - 1) % 2 ^ 32 = 1 ∧ s.clearLog.err.recs.length = 1 := by decide

theorem witness_err_ctl :
    up.pfOpen .pf = true ∧ getBits (0x4C590001#32).toNat 16 16 = 0x4C59 ∧ getBits (0x4C590001#32).toNat 0 1 = 1 ∧ getBits (0x4C590000#32).toNat 0 1 ≠ 1 := by decide

theorem witness_tcp_connect :
    let s := ((up.setF F.PCL_TCPCFG_EN 1).setF F.ETH_PCFG0_TCPEN 1).setF F.ETH_PSTAT_UP0 1
    2 ≤ (2 : Sid).val ∧ s.listens 0 = true ∧ (s.ses 2).isOpen = false ∧ (∀ m : Sid, 2 ≤ m.val → m.val < (2 : Sid).val → (s.ses m).isOpen = true) := by decide

theorem witness_tcp_connect_last :
    let s := (((((up.setF F.PCL_TCPCFG_EN 1).setF F.ETH_PCFG0_TCPEN 1).setF F.ETH_PSTAT_UP0 1).setSes 2 (busySession .view)).setSes 3 (busySession .view)).setSes 4 (busySession .view)
    2 ≤ (5 : Sid).val ∧ s.listens 0 = true ∧ (s.ses 5).isOpen = false ∧ (∀ m : Sid, 2 ≤ m.val → m.val < (5 : Sid).val → (s.ses m).isOpen = true) := by decide

theorem witness_tcp_deaf :
    up.listens 1 = false := by decide

theorem witness_tcp_idle :
    let s := (up.setF F.PCL_TCPCFG_IDLE 60).setSes 5 (busySession .view)
    2 ≤ (5 : Sid).val ∧ s.getF F.PCL_TCPCFG_IDLE ≠ 0 ∧ (s.ses 5).isOpen = true := by decide

theorem witness_uart_break :
    (0 : Sid).val = (0 : Fin 2).val ∧ up = up.uartAlive 0 ∧ (up.ses 0).isOpen = true := ⟨rfl, rfl, rfl⟩

theorem witness_service_timeout :
    (up.ses 0).isOpen = true ∧ (up.ses 0).level = .service := by decide

theorem witness_fifth :
    let s := (((((up.setF F.PCL_TCPCFG_EN 1).setF F.ETH_PCFG0_TCPEN 1).setF F.ETH_PSTAT_UP0 1).setSes 2 (busySession .view)).setSes 3 (busySession .view)).setSes 4 (busySession .view)
    let s := s.setSes 5 (busySession .view)
    s.listens 0 = true ∧ (∀ n : Sid, 2 ≤ n.val → (s.ses n).isOpen = true) := by decide

theorem witness_type_char :
    up = up.uartAlive 0 ∧ (up.ses 0).isOpen = true ∧ 32 ≤ (Char.ofNat 126).toNat ∧ (Char.ofNat 126).toNat ≤ 126 ∧ (up.ses 0).tooLong = false ∧ (up.ses 0).buf.length < 255 ∧
      (isUart 0 = true → buffered (up.ses 0) < 256) := ⟨rfl, by decide, by decide, by decide, by decide, by decide, by decide⟩

theorem witness_type_256 :
    let s := up.setSes 0 { busySession .service with buf := List.replicate 255 'A', lines := [] }
    s = s.uartAlive 0 ∧ (s.ses 0).isOpen = true ∧ 32 ≤ 'A'.toNat ∧ 'A'.toNat ≤ 126 ∧ (s.ses 0).tooLong = false ∧ 255 ≤ (s.ses 0).buf.length ∧ (isUart 0 = true → buffered (s.ses 0) < 256) :=
  ⟨rfl, by decide, by decide, by decide, by decide, by decide, by decide⟩

theorem witness_type_overrun :
    let s := (up.setF F.PCL_UCFG0_FLOW 0).setSes 0 { busySession .service with buf := List.replicate 200 'A', lines := [⟨l0, [], .run⟩, ⟨l0, List.replicate 200 'B', .run⟩] }
    s = s.uartAlive 0 ∧ (s.ses 0).isOpen = true ∧ 32 ≤ 'A'.toNat ∧ 'A'.toNat ≤ 126 ∧ (s.ses 0).tooLong = false ∧ isUart 0 = true ∧ 256 ≤ buffered (s.ses 0) ∧ s.uartFlow 0 = false :=
  ⟨rfl, by decide, by decide, by decide, by decide, by decide, by decide, by decide⟩

theorem witness_type_control :
    up = up.uartAlive 0 ∧ (up.ses 0).isOpen = true ∧ ((Char.ofNat 7).toNat < 32 ∨ 126 < (Char.ofNat 7).toNat) := ⟨rfl, by decide, by decide⟩

theorem witness_edit_bs :
    let s := up.setSes 0 { busySession .service with edit := true, buf := ['A'] }
    s = s.uartAlive 0 ∧ (s.ses 0).isOpen = true ∧ (s.ses 0).edit = true ∧ (EditChar.bs = .bs ∨ EditChar.bs = .del) ∧ (s.ses 0).buf ≠ [] := ⟨rfl, by decide⟩

theorem witness_edit_clear :
    let s := up.setSes 0 { busySession .service with edit := true, buf := ['A'] }
    s = s.uartAlive 0 ∧ (s.ses 0).isOpen = true ∧ (s.ses 0).edit = true ∧ (EditChar.ctrlC = .ctrlU ∨ EditChar.ctrlC = .ctrlC) := ⟨rfl, by decide⟩

theorem witness_edit_off :
    up = up.uartAlive 0 ∧ (up.ses 0).isOpen = true ∧ (up.ses 0).edit = false := ⟨rfl, by decide⟩

theorem witness_load :
    let s : State := { locked with cart := .present }
    s.serves l0 .operate ∧ s.mayMove l0 ∧ s.boot.testing = false ∧ s.cart = .present ∧ s.mot = .stopped ∧ s.c3Contradicts none = false := by decide

theorem witness_unload :
    let s : State := { locked with cart := .fault }
    s.serves l0 .operate ∧ s.mayMove l0 ∧ s.boot.testing = false ∧ (s.cart = .ready ∨ s.cart = .fault) ∧ s.mot ≠ .tripped := by decide

theorem witness_record_start :
    let s : State := { locked with cart := .ready }
    s.serves l0 .operate ∧ s.mayMove l0 ∧ s.boot.testing = false ∧ s.cart = .ready ∧ s.mot = .stopped ∧ s.tape.wp = false ∧ s.cartFull = false := by decide

theorem witness_record_stop :
    let s : State := { locked with cart := .writing }
    s.serves l0 .operate ∧ s.mayMove l0 ∧ s.cart = .writing := by decide

theorem witness_load_complete :
    let s : State := { locked with cart := .loading }
    s.cart = .loading ∧ s.mdr.stopping = false ∧ s.hintFor = none := by decide

theorem dirBytes_length : dirBytes.length = 3136 := by
  unfold dirBytes
  simp only [List.length_append, List.length_replicate, beBytes, List.length_reverse, leBytes, List.length_cons, List.length_nil]

/-- A directory copy with its CRC. -/
def dirCopy : List Byte := dirBytes ++ beBytes 4 (crc32 dirBytes)

theorem dir_head (l : List Byte) : beValue (sub (beBytes 4 0x44594452 ++ [1#8] ++ l) 0 4) = 0x44594452 ∧ beValue (sub (beBytes 4 0x44594452 ++ [1#8] ++ l) 4 1) = 1 := ⟨rfl, rfl⟩

theorem witness_dir_copy : 3140 ≤ dirCopy.length ∧ beValue (sub dirCopy 0 4) = 0x44594452 ∧ beValue (sub dirCopy 4 1) = 1 ∧ beValue (sub dirCopy 3136 4) = crc32 (dirCopy.take 3136) := by
  have h := read_crc dirBytes 3136 dirBytes_length
  refine ⟨by unfold dirCopy; rw [List.length_append, dirBytes_length, beBytes4_length], ?_, ?_, h⟩ <;>
    unfold dirCopy dirBytes <;> rw [List.append_assoc]
  exacts [(dir_head _).1, (dir_head _).2]

theorem witness_newest_copy : ∃ i, newestCopy [(dirCopy, true)] = some i := by
  obtain ⟨i, hi⟩ := copyInfo_valid dirCopy true witness_dir_copy.2.1 witness_dir_copy.2.2.1 witness_dir_copy.1 witness_dir_copy.2.2.2
  exact ⟨i, by simp only [newestCopy, List.filterMap_cons, hi, List.filterMap_nil, List.foldl_cons, List.foldl_nil]⟩

theorem witness_no_copy : newestCopy (⟨[([], false)], true⟩ : LoadFinding).copies = none ∧ (⟨[([], false)], true⟩ : LoadFinding).frames = true := by decide

theorem witness_load_complete_hint :
    let s : State := { locked with cart := .loading, tape := { Tape.reset with threaded := true, id := ['A'], hint := some ⟨['A'], 3, 7, 20000, 9⟩ } }
    s.cart = .loading ∧ s.mdr.stopping = false ∧ s.hintFor = some ⟨['A'], 3, 7, 20000, 9⟩ := by decide

theorem witness_unload_complete :
    let s : State := { locked with cart := .unloading }
    s.cart = .unloading ∧ s.mdr.stopping = false := by decide

theorem witness_record_start_complete :
    let u := (locked.setMode 0 3).setMode 1 3
    let s : State := { u with cart := .ready, mdr := { u.mdr with order := some .record, start := some ⟨.running, [], false, false⟩ } }
    s.mdr.order = some .record ∧ s.mdr.start.isSome = true ∧ s.reelsRun = true ∧ s.mdr.stopping = false ∧ s.cart = .ready := by decide

theorem witness_record_stop_complete :
    let s : State := { locked with cart := .writing, fmt := { locked.fmt with stopping := true } }
    s.cart = .writing ∧ s.stopReady = true := by decide

theorem witness_cart_insert :
    up.cart = .none := by decide

theorem witness_cart_remove :
    let s : State := { locked with cart := .present }
    s.cart ≠ .none ∧ s.cart ≠ .writing ∧ s.mot ≠ .moving := by decide

theorem witness_cart_query :
    (upAt .view).serves l0 .view := by decide

theorem witness_flush_nothing :
    let s : State := { locked with cart := .writing }
    s.serves l0 .operate ∧ s.pwr = .run ∧ s.quiesced 6 = false ∧ s.cart = .writing ∧ s.nothingOpen = true := by decide

theorem witness_flush_open :
    let s : State := { locked with cart := .writing, fmt := { locked.fmt with rest := some (0, [], [], false) } }
    s.serves l0 .operate ∧ s.pwr = .run ∧ s.quiesced 6 = false ∧ s.cart = .writing ∧ s.nothingOpen = false := by decide

theorem witness_flush_close :
    let s : State := { locked with cart := .writing, fmt := { locked.fmt with cur := some ⟨[], [], [], [], false, false, none⟩, flushTo := [0] } }
    s.fmt.cur.isSome = true ∧ s.flushReady = true := by decide

theorem witness_motion_start :
    let s : State := { locked with cart := .ready }
    s.serves l0 .operate ∧ s.mayMove l0 ∧ s.boot.testing = false ∧ s.cart = .ready ∧ s.mot = .stopped ∧ (∀ n, StepArg.step 12 = .step n → 1 ≤ n ∧ n ≤ 12) := by refine ⟨by decide, by decide, by decide, by decide, by decide, ?_⟩; intro n h; cases h; decide

theorem witness_motion_stop :
    locked.serves l0 .operate ∧ locked.mayMove l0 ∧ locked.mot = .stopped := by decide

theorem witness_motion_stop_moving :
    let s : State := { locked with mot := .moving }
    s.serves l0 .operate ∧ s.mayMove l0 ∧ s.mot ≠ .stopped := by decide

theorem witness_speed :
    let s : State := { locked with mot := .moving }
    s.serves l0 .operate ∧ s.mayMove l0 ∧ s.mot = .moving ∧ 1 ≤ 12 ∧ 12 ≤ 12 ∧ s.mdr.start = none ∧ s.srv.hitch = false ∧ s.mdr.stopping = false := by decide

theorem witness_locate_found :
    let s : State := { locked with cart := .ready, tape := { locked.tape with wraps := [⟨0, 9, 10000, 90000⟩] }, fmt := { locked.fmt with nextDs := 10 } }
    s.serves l0 .operate ∧ s.mayMove l0 ∧ s.boot.testing = false ∧ s.cart = .ready ∧ s.mot = .stopped ∧ 9 < 2 ^ 32 ∧ s.findDs 9 = some (0, ⟨0, 9, 10000, 90000⟩) := by decide

theorem witness_locate_nowhere :
    let s : State := { locked with cart := .ready }
    s.serves l0 .operate ∧ s.mayMove l0 ∧ s.boot.testing = false ∧ s.cart = .ready ∧ s.mot = .stopped ∧ 0 < 2 ^ 32 ∧ s.findDs 0 = none := by decide

theorem witness_locate_lpw :
    let s : State := { locked with cart := .ready }
    s.serves l0 .operate ∧ s.mayMove l0 ∧ s.boot.testing = false ∧ s.cart = .ready ∧ s.mot = .stopped ∧ 4799999 ≤ 4799999 := by decide

theorem witness_trip_clear :
    locked.serves l0 .operate ∧ locked.mayMove l0 ∧
      ([.supply, .takeup, .fan, .head] : List MUnit) = (match TripArg.all with | .supply => [.supply] | .takeup => [.takeup] | .fan => [.fan] | .all => [.supply, .takeup, .fan, .head]) ∧
      locked.clearRefused [.supply, .takeup, .fan, .head] = false := by decide

theorem witness_trip_clear_refused :
    let s : State := { locked with mdr := { locked.mdr with pins := [.fan] } }
    s.serves l0 .operate ∧ s.mayMove l0 ∧
      ([.fan] : List MUnit) = (match TripArg.fan with | .supply => [.supply] | .takeup => [.takeup] | .fan => [.fan] | .all => [.supply, .takeup, .fan, .head]) ∧ s.clearRefused [.fan] = true := by decide

theorem witness_tripclr_write :
    up.pfOpen .pf = true ∧ up.lacksLock .pf = false ∧ up.clearRefused (unitsIn (0xF#32).toNat) = false := by decide

theorem witness_motion_start_complete :
    let u := (locked.setMode 0 3).setMode 1 3
    let s : State := { u with mdr := { u.mdr with order := some .motion, start := some ⟨.running, [], false, false⟩ } }
    s.mdr.order = some .motion ∧ s.mdr.start.isSome = true ∧ s.reelsRun = true ∧ s.mdr.stopping = false := by decide

theorem witness_controlled_stop_end :
    ({ locked with mdr := { locked.mdr with stopping := true } } : State).mdr.stopping = true := by decide

theorem witness_start_fail_first :
    let x : Start := ⟨.running, [], false, false⟩
    let s : State := { locked with mdr := { locked.mdr with start := some x } }
    unitBit .takeup < 2 ∧ s.mdr.start = some x ∧ (x.phase = .braking ∨ x.phase = .running) ∧ x.stop = false ∧ x.failed = false := by decide

theorem witness_start_fail_second :
    let x : Start := ⟨.running, [], true, false⟩
    let s : State := { locked with mdr := { locked.mdr with start := some x } }
    unitBit .takeup < 2 ∧ s.mdr.start = some x ∧ (x.phase = .braking ∨ x.phase = .running) ∧ x.stop = false ∧ x.failed = true := by decide

theorem witness_catch_align :
    let s : State := { locked with mdr := { locked.mdr with start := some ⟨.catching, [], false, false⟩ } }
    let t : State := { locked with mdr := { locked.mdr with start := some ⟨.aligning, [], false, false⟩ } }
    s.mdr.start = some ⟨.catching, [], false, false⟩ ∧ t.mdr.start = some ⟨.aligning, [], false, false⟩ ∧ (locked.setMode 2 1).axMode 2 = 1 := by decide

theorem witness_handover :
    unitBit .fan < 3 ∧ ((locked.setMode 2 2).axMode (unitBit .fan) = 2 ∨ (locked.setMode 2 2).axMode (unitBit .fan) = 3) := by decide

theorem witness_brake_last :
    let x : Start := ⟨.braking, [1], false, false⟩
    let s : State := { locked with mdr := { locked.mdr with start := some x } }
    unitBit .takeup < 2 ∧ s.mdr.start = some x ∧ x.phase = .braking ∧ x.left = [unitBit .takeup] ∧ x.stop = false := by decide

theorem witness_locate_probe :
    ({ locked with srv := { locked.srv with seek := some ⟨5, 0, 20000, 3⟩ } } : State).srv.seek = some ⟨5, 0, 20000, 3⟩ := by decide

theorem witness_locate_complete_ds :
    let s : State := { locked with mdr := { locked.mdr with order := some (.locateDs 5) } }
    s.mdr.stopping = false ∧ s.mdr.order = some (.locateDs 5) := by decide

theorem witness_locate_complete_lpw :
    let s : State := { locked with mdr := { locked.mdr with order := some (.locateLpw 20000) } }
    s.mdr.stopping = false ∧ s.mdr.order = some (.locateLpw 20000) ∧ 20002 ≤ 20000 + 2 ∧ 20000 ≤ 20002 + 2 := by decide

theorem witness_power_same :
    up.serves l0 .operate ∧ up.pwrBusy = false ∧ Pwr.run = up.pwr := by decide

theorem witness_power_cart :
    let s : State := { up with cart := .writing }
    s.serves l0 .operate ∧ s.pwrBusy = false ∧ Pwr.park ≠ s.pwr ∧ 1 < pwrCode .park ∧ (s.cart = .writing ∨ s.cart = .reading) := by decide

theorem witness_power_begin :
    up.serves l0 .operate ∧ up.pwrBusy = false ∧ Pwr.standby ≠ up.pwr ∧ (pwrCode .standby ≤ 1 ∨ up.cart ≠ .writing ∧ up.cart ≠ .reading) := by decide

theorem witness_power_busy :
    let s : State := { up with pw := { up.pw with entry := some ⟨.park, .pf, .ap0, [6], [], []⟩ } }
    s.serves l0 .operate ∧ s.pwrBusy = true := by decide

theorem witness_pwrctl_busy :
    let s : State := { up with pw := { up.pw with entry := some ⟨.park, .pf, .ap0, [6], [], []⟩ } }
    s.pfOpen .pf = true ∧ getBits (0x4C590001#32).toNat 16 16 = 0x4C59 ∧ pwrOf (getBits (0x4C590001#32).toNat 0 3) = some .standby ∧ s.pwrBusy = true := by decide

theorem witness_pwrctl_same :
    up.pfOpen .pf = true ∧ getBits (0x4C590000#32).toNat 16 16 = 0x4C59 ∧ pwrOf (getBits (0x4C590000#32).toNat 0 3) = some up.pwr ∧ up.pwrBusy = false := by decide

theorem witness_quiesce :
    let e : Entry := ⟨.park, .pf, .quiesce, [6, 5], [], []⟩
    let s : State := { up with pw := { up.pw with entry := some e } }
    s.pw.entry = some e ∧ e.stage = .quiesce ∧ e.left.head? = some ((6 : Domain).val) := by decide

theorem witness_wake_entry :
    let e : Entry := ⟨.park, .pf, .quiesce, [6], [], []⟩
    let u := up.setF F.PWR_WAKEEN_EN 127
    let s : State := { u with pw := { u.pw with entry := some e } }
    s.pw.halted = false ∧ s.wakeOn .ign = true ∧ s.pw.entry = some e ∧ armedIn e.target .ign = true := by decide

theorem witness_wake_exit :
    let u := up.setF F.PWR_WAKEEN_EN 127
    let s : State := { u with pwr := .park }
    s.pw.halted = false ∧ s.wakeOn .ign = true ∧ s.pw.entry = none ∧ armedIn s.pwr .ign = true ∧ s.pw.exiting = false ∧ s.pw.leave = none := by decide

theorem witness_ignition_off :
    ({ up with pw := { up.pw with ign := true } } : State).boot.pwrgd = true ∧ up.pw.halted = false ∧ ({ up with pw := { up.pw with ign := true } } : State).pw.ign = true := by decide

theorem witness_ignition_on :
    up.boot.pwrgd = true ∧ up.pw.halted = false ∧ up.pw.ign = false := by decide

theorem witness_ignition_hold :
    let s := up.setF F.PWR_IGN_AUTO 1
    s.pw.ign = false ∧ s.bit F.PWR_IGN_AUTO = true ∧ s.boot.phase = .up ∧ s.boot.rescue = false ∧ s.pw.halted = false ∧ s.pw.seq = none := by decide

theorem witness_ignition_drain :
    let s := up.setSeq (some .stop)
    s.pw.seq = some .drain ∨ s.pw.seq = some .stop := by decide

theorem witness_pfail_sleep :
    let s : State := { up with pwr := .sleep }
    s.boot.pwrgd = true ∧ s.pw.halted = false ∧ s.boot.phase ≠ .held ∧ 20 ≤ 20 ∧ (s.pwr = .sleep ∨ s.pwr = .off) ∧ s.pw.exiting = false := by decide

theorem witness_pfail_run :
    up.boot.pwrgd = true ∧ up.pw.halted = false ∧ up.boot.phase ≠ .held ∧ 20 ≤ 20 ∧ up.pwr = .run := by decide

theorem witness_dump_complete :
    let s : State := { up with pw := { up.pw with halted := true }, jrn := { up.jrn with st := 1 } }
    s.pw.halted = true ∧ s.jrn.st = 1 := by decide

theorem witness_reset_verbs :
    up.answers l0 .service ∧ up.serves l0 .service ∧ 1 ≤ 9 ∧ 9 ≤ 9 := by decide

theorem witness_rstctl_warm :
    up.glbOpen .pf = true ∧ getBits (0x4C590005#32).toNat 16 16 = 0x4C59 ∧ getBits (0x4C590005#32).toNat 0 2 = 1 := by decide

theorem witness_rstctl_domain :
    up.glbOpen .pf = true ∧ getBits (0x4C590902#32).toNat 16 16 = 0x4C59 ∧ getBits (0x4C590902#32).toNat 0 2 = 2 ∧ 1 ≤ getBits (0x4C590902#32).toNat 8 4 ∧ getBits (0x4C590902#32).toNat 8 4 ≤ 9 := by decide

theorem witness_perst :
    let s : State := { up with boot := { up.boot with warming := true } }
    up.boot.warming = false ∧ s.boot.warming = true := by decide

theorem witness_watchdog :
    let u := up.setF F.GLB_WDOG_EN 1
    let s : State := { u with boot := { u.boot with wdogHeld := false } }
    s.boot.phase = .up ∧ s.boot.wdogHeld = false ∧ s.pw.halted = false ∧ s.bit F.GLB_WDOG_EN = true := by decide

theorem witness_pwrgd_rise :
    State.reset.boot.pwrgd = false := by decide

theorem witness_phase_fuses :
    let s : State := { State.reset with boot := { State.reset.boot with phase := .fuses } }
    s.boot.phase = .fuses ∧ s.boot.noStart = false := by decide

theorem witness_phase_image :
    let s : State := { State.reset with boot := { State.reset.boot with phase := .image } }
    s.boot.phase = .image := by decide

theorem witness_phase_test :
    let s : State := { State.reset with boot := { State.reset.boot with phase := .test } }
    s.boot.phase = .test := by decide

theorem witness_phase_scan :
    let s : State := { State.reset with boot := { State.reset.boot with phase := .scan } }
    s.boot.phase = .scan := by decide

theorem witness_phase_init :
    let s : State := { State.reset with boot := { State.reset.boot with phase := .init } }
    s.boot.phase = .init ∧ s.boot.warming = false ∧ s.pw.exiting = false ∧ s.boot.perstDue = false := by decide

theorem witness_good_slots :
    let x : Slot := ⟨BitVec.ofNat 256 (0x44595046 * 2 ^ 224 + 2 ^ 192 + 4 * 2 ^ 160 + crc32 [1#8, 2#8, 3#8, 4#8] * 2 ^ 128), [1#8, 2#8, 3#8, 4#8]⟩
    slotHeader x = true ∧ slotGood x = true := by decide

theorem witness_clock_loss :
    let s := up.setF F.CLK_STAT_CKM_LOCK 1
    s.bit ⟨R.CLK_STAT, clkBit .ckm, 1⟩ = true := by decide

theorem witness_ref_loss :
    up.boot.refLost = false ∧ up.boot.pwrgd = true ∧ up.boot.testEn = false := by decide

theorem witness_ref_return :
    ({ up with boot := { up.boot with refLost := true, supplyLow := true } } : State).boot.refLost = true ∧ ({ up with boot := { up.boot with supplyLow := true } } : State).boot.supplyLow = true := by decide

theorem witness_test_boot :
    up.serves l0 .service ∧ up.bootTestError = none := by decide

theorem witness_test_boot_complete :
    let s : State := { up with boot := { up.boot with testing := true } }
    s.boot.testing = true ∧ s.dropBootTest.tooMany false = false := by decide

theorem witness_key_first :
    up.serves l0 .service ∧ 1 ≤ 1 ∧ 1 ≤ 3 ∧ (stagedFor (up.staging l0.who) .hmac 7).length + 1 = 1 ∧ (stagedFor (up.staging l0.who) .hmac 7).length + 1 ≠ 2 := by decide

theorem witness_key_last :
    let s := up.setStaging l0.who (some ⟨.aes, 7, [1#64, 2#64, 3#64]⟩)
    s.serves l0 .service ∧ (stagedFor (s.staging l0.who) .aes 7).length = 3 := by decide

theorem witness_fw_start :
    up.answers l0 .service ∧ up.con.update = none ∧ up.boot.commit = none ∧ up.boot.testing = false ∧ 196608 % 4 = 0 ∧ 4 ≤ 196608 ∧ 196608 ≤ 196608 := by decide

theorem witness_fw_write :
    let u : Update := ⟨.sess 0, 64, []⟩
    let s : State := { up with con := { up.con with update := some u } }
    s.answers l0 .service ∧ s.openUpdate l0 = some u ∧ (List.replicate 16 (0#32)).length = 16 ∧ 4 * u.words.length < u.size := by decide

theorem witness_fw_commit :
    let u : Update := ⟨.sess 0, 64, List.replicate 16 0#32⟩
    let s : State := { up with con := { up.con with update := some u } }
    s.answers l0 .service ∧ s.openUpdate l0 = some u ∧ u.size ≤ 4 * u.words.length := by decide

theorem witness_fw_crc :
    let u : Update := ⟨.sess 0, 4, [1#32]⟩
    crc32 (updateBytes u) = (BitVec.ofNat 32 (crc32 [0#8, 0#8, 0#8, 1#8])).toNat ∧ crc32 (updateBytes u) ≠ (0#32).toNat := by decide

theorem witness_tenant :
    up.serves l0 .operate ∧ up.enabled 0 = true ∧ 1 ≤ 255 ∧ 255 ≤ 255 ∧ 0 ≤ 255 := by decide

theorem witness_queue_create :
    up.serves l0 .operate ∧ up.createCheck ⟨0, none, some 4096, sizeLogOf ((none : Option Nat).getD 256), (none : Option Nat).getD 30000⟩ = .ok (0, 0, 0) := by decide

theorem witness_queue_create_refused :
    up.serves l0 .operate ∧ up.createCheck ⟨1, none, none, sizeLogOf ((none : Option Nat).getD 256), (none : Option Nat).getD 30000⟩ = .error .notenant := by decide

theorem witness_queue_delete :
    let s := up.makeQueue 0 5 0 none 8 30000
    s.serves l0 .operate ∧ s.deleteCheck (5 : Qid).val = none ∧ s.deleteCheck (6 : Qid).val = some .noqueue ∧ (s.queue? 5).isSome = true := by decide

theorem witness_qcmd :
    let s := up.makeQueue 0 5 0 none 8 30000
    (∀ t, (.pf : Src) ≠ .vf t) ∧ ((.pf : Src) = .pf → up.boot.warming = false ∧ up.d3hot 0 = false) ∧ up.pfOpen .pf = true ∧ up.deleteCheck (6 : Qid).val = some .noqueue ∧ s.pfOpen .pf = true ∧
      s.deleteCheck (5 : Qid).val = none := ⟨by simp, by decide, by decide, by decide, by decide, by decide⟩

theorem witness_reset_function :
    let s : State := { up with hif := { up.hif with vfen := true, numVf := 255 } }
    s.serves l0 .operate ∧ (255 : Tenant) ≠ 0 ∧ s.enabled 255 = true ∧ s.flrAbsorbed = false ∧ s.cfgMet = .served ∧ s.hif.vfen = true ∧ up.cfgMet = .served ∧ up.hif.vfen = false := by decide

theorem witness_drt_ten :
    let s := up.setF (F.ETH_DRTTEN_EN 7) 0x80000000
    s.pfOpen .pf = true ∧ s.drtTen 255 = true := by decide

theorem witness_tvec :
    up.pfOpen .pf = true ∧ 24 = getBits (0x00180008#32).toNat 16 11 ∧ 8 = min 64 (getBits (0x00180008#32).toNat 0 7) ∧ (up.fn 3).enable = false ∧ 24 + 8 ≤ 2048 ∧ (8 = 0 ∨ up.rangeTaken 3 24 8 = false) := by decide

theorem witness_tvec_limit :
    up.pfOpen .pf = true ∧ 2047 = getBits (0x07FF0002#32).toNat 16 11 ∧ 2 = min 64 (getBits (0x07FF0002#32).toNat 0 7) ∧ (up.fn 3).enable = false ∧ (2048 < 2047 + 2 ∨ (2 ≠ 0 ∧ up.rangeTaken 3 2047 2 = true)) := by decide

theorem witness_qvec :
    let s := (up.makeQueue 0 5 0 none 8 30000).setF (F.INT_TVEC_COUNT 0) 2
    s.pfOpen .pf = true ∧ (s.queue? 5).map (·.tenant) = some 0 ∧ getBits (1#32).toNat 0 6 < s.vecCount 0 := by decide

theorem witness_tshare :
    up.pfOpen .pf = true ∧ (pokes .pf = true → getBits (0x30000500#32).toNat 28 2 ≠ 3) ∧ up.shareBad 3 (up.normShare 3 0x30000500#32) = false ∧ up.shareBad 3 (up.normShare 3 0x100005FF#32) = true := by decide

theorem witness_gcap :
    up.pfOpen .pf = true ∧ up.rateSum ≤ min 233 (getBits (255#32).toNat 0 8) := by decide

theorem witness_msix_write :
    let s : State := { up with hif := { up.hif with vfen := true, numVf := 4 } }
    ((.vf 4 : Src) = .vf (⟨4, 63, 3⟩ : MsixAt).fn ∧ s.vfOn 4 = true) ∧ s.pfOpen (.vf 4) = true ∧ (⟨4, 63, 3⟩ : MsixAt).word ≠ 4 := ⟨⟨rfl, by decide⟩, by decide, by decide⟩

theorem witness_msix_control :
    ((.pf : Src) = .pf ∧ (⟨0, 0, 4⟩ : MsixAt).fn = 0) ∧ up.cfgMet = .served ∧ (⟨0, 0, 4⟩ : MsixAt).word = 4 := by decide

theorem witness_coalesce :
    let u := up.setF (F.INT_TVEC_COUNT 3) 2
    let s : State := { u with pool := [⟨1, 4, 0⟩] }
    s.pool.find? (fun q => q.p == 1) = some ⟨1, 4, 0⟩ ∧ (s.poolOwner 1).isSome = true := by decide

theorem witness_door_good :
    let q : Queue := ⟨5, 0, 0, false, 4096, 16, 30000, false, 3, 3, 0, [], none, none, false⟩
    let s : State := { up with qmg := { up.qmg with queues := [q] } }
    s.pfOpen (ownSrc 0) = true ∧ s.slotQueue? 0 (0 : Fin 64).val = some q ∧ q.drt = false ∧ (s.fn 0).resetting = false ∧ q.badTail (15#16).toNat = false ∧ q.badTail (16#16).toNat = true ∧ s.slotQueue? 0 (1 : Fin 64).val = none := by decide

theorem witness_fetch :
    let q : Queue := ⟨5, 0, 0, false, 4096, 16, 30000, false, 3, 7, 0, [], none, none, false⟩
    let s : State := { up with qmg := { up.qmg with queues := [q] } }
    let d : Desc := aDesc 1 9 4096 0 0
    s.queue? (5 : Qid).val = some q ∧ s.canFetch q = true ∧ Desc.goodWrite d = true ∧ q.nextSeq ≤ seqMax ∧ pagesFor d.length.toNat ≤ s.roomFor q.tenant := by decide

theorem witness_fetch_plain :
    Desc.plain (aDesc 3 9 0 0 0) 3 = true ∧ Desc.plain (aDesc 0 9 0 0 0) 0 = true := by decide

theorem witness_fetch_read :
    let q : Queue := ⟨5, 0, 0, false, 4096, 16, 30000, false, 3, 7, 0, [], none, none, false⟩
    let s : State := { up with cart := .ready, qmg := { up.qmg with queues := [q] } }
    s.queue? (5 : Qid).val = some q ∧ s.canFetch q = true ∧ Desc.goodRead (aDesc 2 9 256 4096 5) = true ∧ s.readRefused q (aDesc 2 9 256 4096 5) = none ∧ up.readRefused q (aDesc 2 9 256 4096 5) = some .nocart := by decide

theorem witness_dma_end :
    let r : Rec := ⟨1, 0, 5, 0, 0, false, 100, 9#16, 3, 0#64, .moving, 0, none, false, 0, [0], none, [], false, [], false, false, false, none, false, false, none⟩
    let s : State := { up with qmg := { up.qmg with recs := [r] } }
    s.moving? 5 (0#48).toNat = some r := by decide

theorem witness_charge :
    let r : Rec := ⟨1, 0, 5, 0, 0, false, 100, 9#16, 3, 0#64, .accepted, 0, none, false, 0, [0], none, [], false, [], false, false, false, none, false, false, none⟩
    let u := (up.setF F.QMG_FCAP_CAP 1000).setF F.FIX_RLIM_LIM 10000
    let s : State := { u with fixer := .ready, qmg := { u.qmg with recs := [r] }, pw := { u.pw with holdup := true, pfail := false } }
    let t : State := { s with qmg := { u.qmg with recs := [{ r with length := 2000 }] } }
    s.secOk = true ∧ s.firstEligible = some r ∧ r.length ≤ s.getF F.QMG_FCAP_CAP ∧ s.resUsed + chargeOf r.length ≤ s.getF F.FIX_RLIM_LIM ∧
      t.firstEligible = some { r with length := 2000 } ∧ t.getF F.QMG_FCAP_CAP < 2000 := by decide

theorem witness_malformed :
    let q : Queue := ⟨5, 0, 0, false, 4096, 16, 30000, false, 3, 7, 0, [], none, none, false⟩
    let s : State := { up with qmg := { up.qmg with queues := [q] } }
    let d : Desc := aDesc 1 9 0 0 0
    let r : Desc := aDesc 2 9 3 0 0
    s.queue? (5 : Qid).val = some q ∧ s.canFetch q = true ∧ Desc.goodWrite d = false ∧ Desc.goodRead r = false ∧ Desc.plain r 3 = false ∧ Desc.plain r 0 = false := by decide

theorem witness_port_up :
    let s := ((up.setF F.ETH_PCFG0_EN 1).setF F.ETH_PSTAT_UP0 1).setF F.ETH_IP0_ADDR 0x0A000001
    let e : EthIn := ⟨0, false, none, 0#48⟩
    s.portUp e.port = true ∧ e.xc3Full = false ∧ s.tagOk e.port e.vid = true ∧ (s.heard e.port e.mac 0x0A000002#32).portIp e.port ≠ 0 ∧ (0x0A000001#32).toNat = (s.heard e.port e.mac 0x0A000002#32).portIp e.port ∧
      s.tagOk e.port (some 5#12) = false ∧ ({ e with xc3Full := true } : EthIn).xc3Full = true ∧ s.portUp 1 = false := by decide

theorem witness_gptp_step :
    let s := (up.setF F.ETH_PCFG0_EN 1).setF F.ETH_PSTAT_UP0 1
    s.portUp 0 = true ∧ s.bit F.ETH_TCFG_SRC = false ∧ 1000000 < (-1000001 : Int).natAbs := by decide

theorem witness_drt_open_port :
    let h : DrtHdr := { openHdr with port := 1 }
    h.link = none ∧ h.xc3Full = false ∧ drtUp.drtPort h.port = false ∧ openHdr.link = none ∧ openHdr.xc3Full = false ∧ drtUp.tagOk openHdr.port (some 1#12) = false ∧ ({ openHdr with xc3Full := true } : DrtHdr).xc3Full = true := by decide

theorem witness_drt_open_bad :
    let h : DrtHdr := { openHdr with session := 5#16 }
    (h.link ≠ none ∨ h.xc3Full = false ∧ drtUp.drtPort h.port = true ∧ drtUp.tagOk h.port h.vid = true) ∧ (h.sumOk = false ∨ h.magicOk = false ∨ h.lenOk = false ∨ h.session ≠ 0#16) := by decide

theorem witness_drt_open_again :
    (openHdr.link ≠ none ∨ openHdr.xc3Full = false ∧ drtUp.drtPort openHdr.port = true ∧ drtUp.tagOk openHdr.port openHdr.vid = true) ∧ openHdr.sumOk = true ∧ openHdr.magicOk = true ∧ openHdr.lenOk = true ∧
      openHdr.session = 0#16 ∧ drtUp.domainOn 1 = true ∧
      (drtUp.hear openHdr).eth.drt.find? (fun d => samePeer d openHdr && d.nonce == openHdr.aux && d.tenant == (0 : Tenant) && d.qid.val == (3#16).toNat) = some aDrt := by decide

theorem witness_drt_open_refused :
    (openHdr.link ≠ none ∨ openHdr.xc3Full = false ∧ drtUp.drtPort openHdr.port = true ∧ drtUp.tagOk openHdr.port openHdr.vid = true) ∧ drtUp.domainOn 1 = true ∧
      (drtUp.hear openHdr).eth.drt.find? (fun d => samePeer d openHdr && d.nonce == openHdr.aux && d.tenant == (0 : Tenant) && d.qid.val == (4#16).toNat) = none ∧
      (drtUp.hear openHdr).openCheck openHdr.link.isSome ⟨0, 4#16, 16#16⟩ = some .noqueue := by decide

theorem witness_drt_open_binds :
    let s : State := drtUp.makeQueue 0 4 1 none 8 30000
    s.domainOn 1 = true ∧ s.drtPort openHdr.port = true ∧
      (s.hear openHdr).eth.drt.find? (fun d => samePeer d openHdr && d.nonce == openHdr.aux && d.tenant == (0 : Tenant) && d.qid.val == (4#16).toNat) = none ∧
      (s.hear openHdr).openCheck openHdr.link.isSome ⟨0, 4#16, 256#16⟩ = none ∧ ((s.hear openHdr).queue? (4#16).toNat).isSome = true := by decide

theorem witness_drt_data_full :
    let q : State := { drtUp with pw := { drtUp.pw with entry := some ⟨.park, .pf, .quiesce, [7], [7], []⟩ } }
    let g : DrtSeg := ⟨0#32, 0#32, 1432#32, 0#64, List.replicate 1432 0#8⟩
    let r : State := { q with xc := { q.xc with rx := [(dataHdr, g)] } }
    ({ dataHdr with xc3Full := true } : DrtHdr).link = none ∧ ({ dataHdr with xc3Full := true } : DrtHdr).xc3Full = true ∧ dataHdr.xc3Full = false ∧ q.quiesced 7 = true ∧ q.xc3Used dataHdr.port + 82 + g.data.length ≤ 2048 ∧
      r.quiesced 7 = true ∧ 2048 < r.xc3Used dataHdr.port + 82 + g.data.length := by decide

theorem witness_drt_data_bad :
    drtUp.quiesced 1 = false ∧ drtUp.quiesced 7 = false ∧ drtUp.quiesced 8 = false ∧ drtUp.drtCheck dataHdr = .known aDrt ∧ aDrt.maxseg < (List.replicate 1433 (0#8 : Byte)).length := by decide

theorem witness_drt_data_dup :
    let h : DrtHdr := { dataHdr with seq := 0#32 }
    drtUp.drtCheck h = .known aDrt ∧ [0#8] ≠ ([] : List Byte) ∧ [0#8].length ≤ aDrt.maxseg ∧ seqDiff h.seq.toNat aDrt.cum = 0 := by decide

theorem witness_drt_data_win :
    let h : DrtHdr := { dataHdr with seq := 17#32 }
    drtUp.drtCheck h = .known aDrt ∧ aDrt.closing = false ∧ aDrt.held.any (fun x => x.seq == h.seq.toNat) = false ∧ 1 < seqDiff h.seq.toNat aDrt.cum ∧ seqDiff h.seq.toNat aDrt.cum < 2 ^ 31 ∧
      (drtUp.hear h).winOf aDrt < seqDiff h.seq.toNat aDrt.cum := by decide

theorem witness_drt_data_held :
    let h : DrtHdr := { dataHdr with seq := 16#32 }
    drtUp.drtCheck dataHdr = .known aDrt ∧ aDrt.closing = false ∧ aDrt.held.any (fun x => x.seq == dataHdr.seq.toNat) = false ∧ seqDiff dataHdr.seq.toNat aDrt.cum = 1 ∧
      drtUp.drtCheck h = .known aDrt ∧ 1 ≤ seqDiff h.seq.toNat aDrt.cum ∧ seqDiff h.seq.toNat aDrt.cum < 2 ^ 31 ∧ seqDiff h.seq.toNat aDrt.cum ≤ (drtUp.hear h).winOf aDrt := by decide

theorem witness_drt_data_nosession :
    ∀ d, drtUp.drtCheck { dataHdr with session := 9#16 } ≠ .known d := fun d h => DrtCheck.noConfusion ((show drtUp.drtCheck { dataHdr with session := 9#16 } = .noSession by decide).symm.trans h)

theorem witness_drt_known :
    dataHdr.xc3Full = false ∧ drtUp.drtCheck dataHdr = .known aDrt ∧ aDrt.closing = false ∧ drtUp.drt? (1#16).toNat = some aDrt ∧ drtUp.drt? (9#16).toNat = none := by decide

theorem witness_drt_closing :
    let d : Drt := { aDrt with closing := true, final := some 0 }
    let s : State := drtUp.setDrt d
    s.drtCheck dataHdr = .known d ∧ d.closing = true ∧ d.final = some 0 := by decide

theorem witness_drt_idle :
    drtUp.drt? (1#16).toNat = some aDrt ∧ (drtUp.setF F.ETH_DRTIDLE_IDLE 1).getF F.ETH_DRTIDLE_IDLE ≠ 0 ∧ aDrt.ndur = aDrt.nacc ∧ (drtUp.setF F.ETH_DRTIDLE_IDLE 0).getF F.ETH_DRTIDLE_IDLE = 0 := by decide

theorem witness_drt_notes :
    let x : Notified := ⟨noteKind 1, 1, 0, some (2, 0, 9)⟩
    let y : Notified := ⟨noteKind 1, 2, 0, some (2, 0, 9)⟩
    let s : State := drtUp.wr (R.INT_DNOTE 0) 1#32
    ({ aDrt with notes := [x] } : Drt).notes.find? (fun y => y.kind == noteKind 1) = some x ∧ x.held = some (2, 0, 9) ∧ noteDiffers x 2 0 = true ∧ noteDiffers y 2 0 = false ∧ drtUp.noteOn 0 = false ∧ s.noteOn 0 = true := by decide

theorem witness_overrate :
    let s : State := (up.setF (F.SCH_TSHARE_CLASS 0) 0).setF (F.SCH_TSHARE_RATE 0) 5
    s.classOf 0 = 0 ∧ s.getF (F.SCH_TSHARE_RATE 0) < 6 ∧ 5 ≤ s.getF (F.SCH_TSHARE_RATE 0) := by decide

theorem witness_read_done :
    ∃ (x : Queue) (o : Outstanding) (op : ReadOp), (readUp (some (aGot 1)) none).readOp? 3 7 = some (x, o, op) ∧ x.firstRead = some o ∧ op.status = none ∧ op.got = some (aGot 1) ∧
      (aGot 1).data.length = (aGot 1).rlen ∧ (aGot 1).rlen ≤ op.d.length.toNat := ⟨_, _, _, rfl, rfl, rfl, rfl, rfl, by decide⟩

theorem witness_read_part :
    ∃ (x : Queue) (o : Outstanding) (op : ReadOp), (readUp (some (aGot 2)) none).readOp? 3 7 = some (x, o, op) ∧ x.firstRead = some o ∧ op.got = some (aGot 2) ∧ (aGot 2).data.length ≠ (aGot 2).rlen := ⟨_, _, _, rfl, rfl, rfl, by decide⟩

theorem witness_read_short :
    ∃ (x : Queue) (o : Outstanding) (op : ReadOp), (readUp (some { aGot 2 with data := [1#8, 2#8] }) none).readOp? 3 7 = some (x, o, op) ∧ x.firstRead = some o ∧ op.d.length.toNat < 2 := ⟨_, _, _, rfl, rfl, by decide⟩

theorem witness_read_notfound :
    ∃ (x : Queue) (o : Outstanding) (op : ReadOp), (readUp none none).readOp? 3 7 = some (x, o, op) ∧ x.firstRead = some o ∧ op.status = none ∧ op.got = none := ⟨_, _, _, rfl, rfl, rfl, rfl⟩

theorem witness_read_decided :
    ∃ (x : Queue) (o : Outstanding) (op : ReadOp), (readUp none (some .rtimeout)).readOp? 3 7 = some (x, o, op) ∧ x.firstRead = some o ∧ op.status = some .rtimeout := ⟨_, _, _, rfl, rfl, rfl⟩

theorem witness_reading_idle :
    { up with cart := .reading }.cart = .reading ∧ { up with cart := .reading }.allReads = [] ∧ up.cart ≠ .reading := by decide

theorem witness_read_timeout_serving :
    ({ readUp none none with rch := { (readUp none none).rch with dfm := some ⟨4, 2, 2, false, [(3, 7)], 6⟩ } } : State).dfmFor 3 7 = some ⟨4, 2, 2, false, [(3, 7)], 6⟩ ∧ (readUp none none).dfmFor 3 7 = none := by decide

theorem witness_sch_idle :
    up.mayFeed = false ∧ up.sch.starved.contains 0 = false ∧ up.heads 0 = [] := by decide

theorem witness_sch_replay :
    let s : State := feeding { aRec with replay := true }
    let u : State := (s.nokeys (List.finRange 256)).settleShares
    s.mayFeed = true ∧ s.idleEng = some 0 ∧ u.replayLeft = [{ aRec with replay := true }] ∧ aRec.tenant = 0 ∧ u.keyless 0 = false := by decide

theorem witness_sch_tokens :
    let s : State := ((feeding aRec).setF (F.SCH_TSHARE_CLASS 0) 0).setBal ⟨0, 0, 5⟩
    let u : State := (s.nokeys (List.finRange 256)).settleShares
    s.mayFeed = true ∧ s.idleEng = some 0 ∧ s.replayLeft = [] ∧ nextAfter u.sch.rr1 (u.backlog.filter u.holdsTokens) = some 0 ∧ u.nextRec 0 = some aRec := by decide

theorem witness_sch_round :
    let s : State := feeding aRec
    let u : State := (s.nokeys (List.finRange 256)).settleShares
    s.mayFeed = true ∧ s.idleEng = some 0 ∧ s.replayLeft = [] ∧ nextAfter u.sch.rr1 (u.backlog.filter u.holdsTokens) = none ∧ u.startRound.sch.round = [0] ∧ u.startRound.sch.round.head? ≠ some 5 := by decide

theorem witness_bulk :
    let s : State := (feeding aRec).setF (F.SCH_TSHARE_CLASS 0) 2
    s.classOf 0 = 2 ∧ s.heads 0 ≠ [] ∧ s.sch.starved.contains 0 = false := by decide

theorem witness_encode :
    let s : State := encoding false
    (s.eng 0).job = some aJob ∧ aJob.pieces ≠ [] ∧ (s.eng 0).flush = false ∧ (s.eng 1).job = none := by decide

theorem witness_encode_flush :
    let s : State := encoding true
    (s.eng 0).job = some aJob ∧ (s.eng 0).flush = true ∧ aJob.pieces.length ≤ 1 + 1 ∧ 0 + 1 < aJob.pieces.length ∧ ((s.shorten 0 aJob 1).eng 0).job = some { aJob with pieces := aJob.pieces.take 1 } := by decide

theorem witness_encode_lost :
    let s : State := encoding false
    ((s.losePiece 0 aJob 0 .uncorr).eng 0).job = none ∧ (((s.losePiece 0 aJob 1 .uncorr).eng 0).job.map (·.pieces)) = some [⟨0, 0, 100⟩] := by decide

theorem witness_place_open :
    let s : State := placing none
    s.cart = .writing ∧ s.nextBlock = some aBlock ∧ s.fmt.cur = none ∧ s.heldDs < 2 ∧ (∀ n ∈ s.fmt.flushTo, aBlock.job.feed < n) := by decide

theorem witness_place_next :
    let s : State := placing (some aSrc)
    s.cart = .writing ∧ s.nextBlock = some aBlock ∧ s.fmt.cur = some aSrc ∧ aSrc.mustClose aBlock.job.tenant = false ∧ aSrc.exts = [] := by decide

theorem witness_place_waits :
    let d : DsSrc := { aSrc with replay := true, exts := [⟨0, 0, false, []⟩] }
    let s : State := placing (some d)
    s.cart = .writing ∧ s.nextBlock = some aBlock ∧ s.fmt.cur = some d ∧ d.exts ≠ [] ∧ d.replay ≠ aBlock.job.replay ∧ ({ s with fmt := { s.fmt with flushTo := [0] } } : State).nextBlock = some aBlock ∧ 0 ≤ aBlock.job.feed := by decide

theorem witness_codec_write :
    up.mayWrite .pf := by decide

theorem witness_codec_test :
    up.answers l0 .service ∧ up.boot.rescue = false ∧ up.pwr = .run ∧ up.cdc.test = none ∧ up.boot.testing = false ∧ { up with pwr := .park }.answers l0 .service ∧ { up with pwr := .park }.pwr ≠ .run ∧
      up.startTest.answers l0 .service ∧ up.startTest.cdc.test.isSome = true := by decide

theorem witness_codec_slice :
    let t : CodecTest := ⟨[0, 0, 0, 16], [0, 0, 0, 16], false, false, false⟩
    let s : State := { up with cdc := { up.cdc with test := some t } }
    s.cdc.test = some t ∧ t.enl.getD (0 : Eng).val 16 < 16 ∧ t.rdc.getD (0 : Eng).val 16 < 16 ∧ (s.eng 0).job = none ∧ 16 ≤ t.enl.getD (3 : Eng).val 16 ∧ 16 ≤ t.rdc.getD (3 : Eng).val 16 := by decide

theorem witness_expand :
    up.domainOn 3 = true ∧ up.enlOn 0 = true ∧ (up.cdc.enl[(0 : Fin 4)]).held = false ∧ (∀ p ∈ up.rch.sup, p.1 ≠ 4) ∧ (match readBlock 0 100 [] with | .error _ => true | .ok _ => false) = true := by decide

theorem witness_expand_ok :
    up.domainOn 3 = true ∧ (match readBlock 0 1000 aBlockBytes with | .ok _ => true | .error _ => false) = true := by decide

theorem witness_expand_none :
    (up.setF F.ENL_CFG_EN 0).domainOn 3 = true ∧ ∀ x, (up.setF F.ENL_CFG_EN 0).enlOn x = false := by decide

theorem witness_stream_start :
    writable.fmt.built = [aBuilt] ∧ writable.mayStream aBuilt = true := by decide

theorem witness_stream_wait :
    up.fmt.built = [] ∧ up.writing? = none ∧ up.gateOpen = false := by decide

theorem witness_frame_write :
    (streaming aStream).writing? = some aStream ∧ (streaming aStream).gateOpen = true ∧ aStream.next.getD (15 : Chan).val 0 = 0 ∧ 0 < 8 * aStream.ds.nsub := by decide

theorem witness_frame_pool :
    let x : Stream := { aStream with next := (List.replicate 16 15).set 3 8, queue := [(5, 3), (6, 2)] }
    (streaming x).writing? = some x ∧ x.next.getD (3 : Chan).val 0 = 8 ∧ 8 * x.ds.nsub ≤ 8 ∧ 8 < slotCount x.ds.nsub ∧ poolPick 3 x.queue = some (6, 2) ∧ poolPick 3 [(5, 3)] = none ∧ slotCount x.ds.nsub ≤ x.next.getD (0 : Chan).val 0 := by decide

theorem witness_verdict_none :
    up.fmt.streams.find? (fun x => x.frames.any (fun f => f.ch == (0 : Chan).val && f.slot == 0)) = none := by decide

theorem witness_verdict_some :
    let x : Stream := { aStream with frames := [⟨15, 0, 3, false⟩] }
    (streaming x).fmt.streams.find? (fun x => x.frames.any (fun f => f.ch == (15 : Chan).val && f.slot == 0)) = some x ∧
      x.frames.find? (fun f => f.ch == (15 : Chan).val && f.slot == 0) = some ⟨15, 0, 3, false⟩ ∧ verdictOf false 255 4 ⟨true, true, 0, 0, 0, 0, 0⟩ = 0 ∧ verdictOf false 255 4 ⟨false, true, 0, 0, 0, 0, 0⟩ ≠ 0 := by decide

theorem transitionRun_constant (b : Bool) (k : Nat) : transitionRun 0 0 (List.replicate k b) = 0 := by
  induction k with
  | zero => rfl
  | succ k ih => cases k with
    | zero => rfl
    | succ k => rw [List.replicate_succ, List.replicate_succ]; unfold transitionRun; rw [if_pos rfl]; exact ih

theorem witness_frame_read :
    reading.inputOn 15 = true ∧ reading.frameAt aFrame = none ∧ reading.defects aFrame = [] ∧ lockLost [(5, 600)] = some 517 ∧ (reading.setF F.RCH_LPCFG_TRIG 4).getF F.RCH_LPCFG_TRIG = 4 ∧ firstDefect [(5, 600)] = some 5 ∧
      firstDefect [] = none ∧ reading.rch.lost.any (fun p => p.1 == 15) = false ∧ up.inputOn 15 = false ∧ reading.inputOn 32 = true ∧ reading.getF F.RCH_LPCFG_SRC = 0 ∧ (reading.setF F.RCH_LPCFG_SRC 1).getF F.RCH_LPCFG_SRC ≠ 0 := by decide

theorem witness_frame_synced : reading.frameAt aGood = some 64 := by
  have hc : reading.captured aGood.rate = true := by decide
  have hs : syncAt aGood.bits = some 64 := by decide
  have hd : (aGood.bits.drop (64 + syncLen)).take (frameLen - syncLen) = List.replicate 4318 false := by
    have : aGood.bits.drop (64 + syncLen) = List.replicate 4382 false := List.drop_left' (l₁ := List.replicate 64 false ++ syncBits) (by decide)
    rw [this, List.take_replicate]; rfl
  unfold State.frameAt
  simp only [hc, hs, hd, transitionRun_constant, Bool.true_eq_false, if_false]
  rfl

theorem witness_decode_retry :
    let p : PassResult := ⟨4, 1, []⟩
    up.domainOn 4 = true ∧ up.decoded p.ds 0 = none ∧ up.rch.dfm = none ∧ up.ladder ≠ [] ∧ (up.setF F.RCH_RETRY_STEPS 0).ladder = [] ∧ (up.setF F.PWR_STAT_DOMAINS 0x3EF).domainOn 4 = false := by decide

theorem witness_decode_whole :
    let c : List Byte := beBytes 4 0x44594453 ++ List.replicate 504 0#8
    headerOk (c ++ beBytes 4 (crc32 c)) = true := by decide

theorem witness_retry :
    let s : State := { up with rch := { up.rch with dfm := some ⟨4, 7, 7, false, [], 6⟩ } }
    s.rch.dfm = some ⟨4, 7, 7, false, [], 6⟩ ∧ (s.ladder[7 % max 1 s.ladder.length]?).isSome = true := by decide

theorem witness_loupe :
    let s : State := { up with rch := { up.rch with loupe := ⟨true, some 32768, [], []⟩ } }
    s.rch.loupe.fired = some 32768 ∧ s.rch.loupe.armed = true ∧ 32768 - s.getF F.RCH_LPCFG_PRE ≤ 32768 ∧ up.mayWrite .pf ∧ up.rch.loupe.fired = none := by decide

theorem witness_proof :
    let s : State := { up with prf := { up.prf with test := some ⟨15, none⟩ } }
    s.prf.test = some ⟨15, none⟩ ∧ s.writeWaits = false ∧ (15 : Chan).val = 15 ∧ up.prf.test = none ∧ up.boot.testing = false ∧ proofRows 255 4 [] = false ∧
      proofRows 255 4 [(1, ⟨true, true, 0, 0, 0, 0, 0⟩), (2, ⟨true, true, 0, 0, 0, 0, 0⟩), (3, ⟨true, true, 0, 5, 0, 0, 0⟩), (4, ⟨false, true, 0, 0, 0, 0, 0⟩)] = true ∧
      ({ s with fmt := { s.fmt with streams := [aStream] } } : State).writeWaits = true := by decide

theorem witness_tank :
    up.bankOn (wordBank ((0x1FFFFFF#25).toNat / 16)) = true ∧ up.tnk.waitq = [] ∧ up.tnk.aged = [] ∧ (0x1FFFFFF#25).toNat % 8 ≠ 0 ∧ (0x1FFFFF8#25).toNat % 8 = 0 ∧
      ((up.granted 5 [false] .hif).secded .hif 5 .clean).2 = true ∧ ((up.granted 5 [false, true] .hif).secded .hif 5 .uncorr).2 = false ∧ (up.setF F.PWR_STAT_DOMAINS 0).bankOn 63 = false := by decide

theorem witness_window :
    let s : State := up.setF F.TNK_CTRL_WINEN 1
    s.mayWrite .pf ∧ s.bit F.TNK_CTRL_WINEN = true ∧ s.bankOn (wordBank (s.getF F.TNK_WADDR_ADDR)) = true ∧ (up.setF F.TNK_CTRL_WINEN 0).bit F.TNK_CTRL_WINEN = false := by decide

theorem witness_march :
    up.answers l0 .service ∧ up.tnk.march = none ∧ up.bankOn (getBits (0x4C59003F#32).toNat 0 6) = true ∧ getBits (0x4C59003F#32).toNat 16 16 = 0x4C59 ∧ (up.startMarch 63).tnk.march.isSome = true ∧
      (up.startMarch 63).answers l0 .service ∧ (up.startMarch 63).pfOpen .pf = true := by decide

theorem witness_scratch :
    up.domainOn 0 = true ∧ up.spd.wait.any (fun (p : Nat × Nat × Bool) => p.1 == (3 : Fin 4).val) = false ∧ up.spdReloading (0x3FFFF#18).toNat = false ∧ up.spdEcc (0x3FFFF#18).toNat .corr = .corr ∧ up.spdEcc (0x3FFFF#18).toNat .uncorr = .uncorr ∧ up.spdMapped 3 0x3FFF = false ∧ up.spdFull 3 = false ∧ up.mayWrite .pf ∧
      (up.remapAdd 3 0x3FFF false).spdMapped 3 0x3FFF = true ∧
      ((List.range 8).foldl (fun (s : State) n => s.remapAdd 3 n false) up).spdFull 3 = true ∧ ((List.range 8).foldl (fun (s : State) n => s.remapAdd 3 n false) up).spdMapped 3 8 = false := by decide

theorem witness_carrier :
    up.domainOn 6 = true ∧ (up.setF F.PWR_STAT_DOMAINS 0x3BF).domainOn 6 = false ∧ 50 ≤ 50 ∧ 19 < 20 ∧ 20 ≤ 20 ∧ 49 < 50 := by decide

theorem witness_latched :
    (up.setF F.MDR_TRIP_LATCHED 8).latched .head = true := by decide

theorem witness_follow :
    let s : State := up.setMode 1 6
    unitBit .takeup < 2 ∧ s.axMode (unitBit .takeup) = 6 ∧ s.mdr.start = none ∧ 2 ≤ unitBit .fan := by decide

theorem witness_servo :
    up.domainOn 6 = true ∧ up.domainOn 5 = true ∧ (up.setF F.PWR_STAT_DOMAINS 0x3DF).domainOn 5 = false ∧ up.srv.sinceLost = false ∧
      ({ up with srv := { up.srv with sinceLost := true } } : State).srv.sinceLost = true := by decide

/-- R325, R337: the centre line is position 0, and 200 um in 40 us is 5,000 mm/s. -/
theorem test_servo_position : posOf midRead = some 0 := by decide +kernel
theorem test_servo_speed (s : State) : s.speedOf [noRead, midRead] = 5000 := by
  show (200000000000 : Rat) / ((40000000 : Nat) : Rat) = 5000
  norm_num
theorem speed_of_two (s : State) : s.speedOf [midRead, midRead, noRead, noRead] ≠ 0 := by
  show (200000000000 : Rat) / ((40000000 : Nat) : Rat) ≠ 0
  norm_num

theorem witness_gate :
    up.domainOn 6 = true ∧ up.domainOn 5 = true ∧ up.speedOf (if up.mdr.rev then [noRead, noRead, midRead, midRead] else [midRead, midRead, noRead, noRead]) ≠ 0 ∧ up.xc.stopped.contains .ckm = false ∧ ({ up with xc := { up.xc with stopped := [.ckm] } } : State).xc.stopped.contains .ckm = true ∧
      ∃ t, exec (.servoFrame midRead midRead noRead noRead 0#64) up = .next t := ⟨by decide, by decide, speed_of_two up, by decide, by decide, _, rfl⟩

/-- The ignition sequence has each of its orders to issue (R412). -/
theorem witness_ignition_orders :
    let s : State := { up with cart := .writing, pw := { up.pw with seq := some .drain } }
    let u : State := { up with cart := .ready, pw := { up.pw with seq := some .unload } }
    let e : State := { up.setF F.PWR_IGN_TARGET 2 with pw := { up.pw with seq := some .enter } }
    s.ignIssue = some .recordStop ∧ u.ignIssue = some .unload ∧ e.ignIssue = some .enter ∧ e.ignTarget = some .park ∧ up.ignIssue = none ∧
      ({ up with cart := .ready, pw := { up.pw with seq := some .restart } } : State).ignIssue = some .recordStart := by decide

theorem witness_speed_rises :
    let s : State := { up.setF F.SRV_SPD_AUTO 1 with cart := .writing, flow := { up.flow with made := [(0, 250000000, 250000000)] } }
    s.cart = .writing ∧ s.bit F.SRV_SPD_AUTO = true ∧ s.presentStep < targetStep (zoneE s.tape.wrap) (s.getF F.SRV_MATCH_MARGIN) s.demandNow ∧
      targetStep (zoneE up.tape.wrap) (up.getF F.SRV_MATCH_MARGIN) up.demandNow = 0 := by decide

theorem witness_speed_falls :
    let s : State := { up.setF F.SRV_SPD_AUTO 1 with cart := .writing, mdr := { up.mdr with step := 12 }, srv := { up.srv with below := 60 } }
    targetStep (zoneE s.tape.wrap) (s.getF F.SRV_MATCH_MARGIN) s.demandNow < s.presentStep ∧ s.getF F.SRV_MATCH_DOWNHOLD ≤ s.srv.below ∧ 0 < s.getF F.SRV_MATCH_DOWNHOLD := by decide

theorem witness_turnaround :
    let s : State := { up with mot := .moving }
    s.mot = .moving ∧ s.cart ≠ .writing ∧ s.headIx < 191 ∧ up.mot ≠ .moving := by decide

theorem witness_turnaround_writing :
    let s : State := { up with mot := .moving, cart := .writing, tape := { up.tape with wrap := 190, append := wrapStart 191 } }
    s.mot = .moving ∧ s.cart = .writing ∧ s.tape.wrap < 191 ∧ s.wrapFull = true ∧ s.writing? = none := by decide

theorem witness_gap :
    let s : State := { up with mot := .moving, cart := .writing }
    s.cart = .writing ∧ s.mot = .moving ∧ s.srv.hitch = false ∧ s.writing? = none ∧ s.fmt.built = [] := by decide

theorem witness_hitch_reading :
    let s : State := { reading with srv := { reading.srv with hitch := true } }
    s.srv.hitch = true ∧ s.cart = .reading ∧ 635 ≤ s.freePages := by decide

theorem witness_hitch :
    let s : State := { writable with srv := { writable.srv with hitch := true } }
    s.srv.hitch = true ∧ s.cart = .writing ∧ s.fmt.built ≠ [] ∧ (s.setF F.SRV_SPD_PACK 0).bit F.SRV_SPD_PACK = false ∧ (s.setF F.SRV_SPD_PACK 1).bit F.SRV_SPD_PACK = true := by decide

theorem witness_fan_stall :
    let s : State := (up.setMode 2 3).setF (F.MDR_ASTAT_OBSOK 2) 1
    s.domainOn 6 = true ∧ s.axMode 2 = 3 ∧ s.bit (F.MDR_ASTAT_OBSOK 2) = true := by decide

theorem witness_fan_restart :
    let s : State := { up with mdr := { up.mdr with stalled := true, stalls := 2 } }
    s.domainOn 6 = true ∧ s.mdr.stalled = true ∧ s.mdr.stalls < 3 ∧ s.latched .fan = false := by decide

theorem witness_loops :
    up.loopOn 3 = false ∧ up.loopOn 8 = false ∧ up.loopOn 4 = false ∧ up.loopOn 7 = false ∧ up.loopOn 0 = false ∧ up.cle.k % 2 = 0 ∧ up.cle.k % 50 ≠ 3 ∧ up.cle.k % 10 ≠ 1 := by decide

theorem witness_loops_on :
    let s : State := running
    let at' (k : Nat) : State := { s with cle := { s.cle with k := k } }
    s.loopOn 0 = true ∧ s.loopOn 3 = true ∧ (at' 8).loopOn 4 = true ∧ (at' 8).cle.k % 2 = 0 ∧ s.loopOn 5 = true ∧ (at' 53).loopOn 7 = true ∧ (at' 53).cle.k % 50 = 3 ∧ (at' 5).loopOn 8 = true ∧ (at' 5).cle.k = 5 ∧
      (at' 91).cle.k % 10 = 1 ∧ s.domainOn 6 = true ∧ (s.loopStart 4).manual 4 = false ∧ (s.loopStart 4).srv.fresh = false := by decide

theorem witness_loops_manual :
    let s : State := (running.setF (F.CLE_LCTL_MODE 0) 1).setF (F.CLE_LCTL_MODE 4) 1
    (s.loopStart 0).manual 0 = true ∧ (s.loopStart 4).manual 4 = true ∧ s.loopOn 0 = true ∧ s.loopOn 4 = true := by decide

theorem witness_lctl :
    locked.mayWrite (.sess 0) ∧ locked.xc.stopped.contains .ckm = false ∧ ({ locked with xc := { locked.xc with stopped := [.ckm] } } : State).xc.stopped.contains .ckm = true ∧ (8 : Fin 9).val > 6 ∧ locked.lacksLock (.sess 0) = false ∧ up.lacksLock (.sess 0) = true ∧ (0 : Fin 9).val ≤ 6 ∧ up.mayWrite (.sess 0) ∧ (locked.setF (F.CLE_LCTL_MODE 6) 1).manual 6 = true := by decide

theorem witness_coefs :
    up.mayWrite .pf ∧ ((up.setF (F.CLE_LSTAT_ACTIVE 8) 0).getF (F.CLE_LSTAT_ACTIVE 8) = if false then 1 else 0) ∧ ((up.setF (F.CLE_LSTAT_ACTIVE 8) 0).getF (F.CLE_LSTAT_ACTIVE 8) ≠ if true then 1 else 0) ∧
      up.bit (F.CLE_LSTAT_PENDING 8) = false ∧ up.mot = .stopped := by decide

theorem witness_accel :
    let s : State := up.setF F.CLE_ACFG_EN 1
    s.domainOn 6 = true ∧ s.bit F.CLE_ACFG_EN = true ∧ s.cle.k % 2 = 0 ∧ s.cle.badRun + 1 < 16 ∧ s.cle.good + 1 < 16 ∧ accelBad [0#8, 0#8, 0#8, 0#8, 0#8, 0#8] = true ∧ accelBad [0#8, 1#8, 0#8, 0#8, 0#8, 0#8] = false ∧ s.bit F.CLE_ACCST_FAIL = false ∧ (s.setF F.CLE_ACCST_FAIL 1).bit F.CLE_ACCST_FAIL = true ∧
      (up.setF F.CLE_ACFG_EN 0).bit F.CLE_ACFG_EN = false := by decide

theorem witness_reg_plain :
    up.mayWrite .pf ∧ (∃ d, up.atReg R.ETH_DRTIDLE d 0 0 ∧ d.wide = false ∧ writableIn d 0 = true ∧ d.base ∉ actingRegs) ∧ (∃ d, up.atReg R.GLB_ID d 0 0 ∧ d.wide = false ∧ writableIn d 0 = false) :=
  ⟨by decide, ⟨_, ⟨by decide, by decide, by decide, by decide, rfl, by decide⟩, by decide, by decide, by decide⟩, ⟨_, ⟨by decide, by decide, by decide, by decide, rfl, by decide⟩, by decide, by decide⟩⟩

theorem witness_reg_held :
    let s : State := { up with xc := { up.xc with stopped := [.ckm] } }
    s.mayWrite .pf ∧ R.CLE_RADIUS % 4 = 0 ∧ R.CLE_RADIUS < 0x200000 ∧ s.xc.stopped.contains .ckm = true ∧ ckmSide R.CLE_RADIUS = true := by decide

theorem witness_reg_rc :
    up.mayWrite .pf ∧ (∃ d, up.atReg R.ETH_DROP d 0 0 ∧ d.wide = false ∧ rcIn d 0 = true) ∧ up.awaits .pf = false ∧ R.ETH_DROP ≠ R.PWR_SLDATA ∧ (∀ k < 4, R.ETH_DROP ≠ R.TNK_WDATA k) :=
  ⟨by decide, ⟨_, ⟨by decide, by decide, by decide, by decide, rfl, by decide⟩, by decide, by decide⟩, by decide, by decide, by decide⟩

theorem witness_reg_tcnt :
    let s : State := { up with hif := { up.hif with vfen := true, numVf := 255 } }
    s.hostOn = true ∧ s.vfOn 255 = true ∧ s.d3hot 255 = false ∧ s.awaits (.vf 255) = false := by decide

theorem witness_reg_awaits :
    let s : State := { up with arb := { up.arb with carried := [⟨.pf, .writeReg R.ETH_DRTIDLE 5#32⟩] } }
    s.awaits .pf = true := by decide

theorem witness_reg_wide :
    up.mayWrite .pf ∧ (∃ d, up.atReg (R.QMG_QRING 1023) d 1023 0 ∧ d.wide = true) ∧ up.awaits .pf = false :=
  ⟨by decide, ⟨_, ⟨by decide, by decide, by decide, by decide, rfl, by decide⟩, by decide⟩, by decide⟩

theorem witness_reg_high :
    (∃ d, up.atReg (R.QMG_QRING 0 + 4) d 0 1 ∧ d.wide = true ∧ (writableIn d 0 || writableIn d 1) = true ∧ d.base = 0x20000 ∧ up.bit (F.QMG_QCFG_VALID 0) = false) ∧
      ((up.setF (F.QMG_QCFG_VALID 0) 1).bit (F.QMG_QCFG_VALID 0) = true) :=
  ⟨⟨_, ⟨by decide, by decide, by decide, by decide, rfl, by decide⟩, by decide, by decide, by decide, by decide⟩, by decide⟩

theorem witness_reg_refused :
    ∃ r, up.wWord (.sess 0) (R.GLB_ID) 0#32 = .refuse .badarg r := ⟨_, rfl⟩

theorem witness_holes :
    let s : State := { up with hif := { up.hif with vfen := true, numVf := 4 } }
    up.mayWrite .pf ∧ up.awaits .pf = false ∧ 0x1FFFFC % 4 = 0 ∧ 0x1FFFFC < 0x200000 ∧ inWin0 0x1FFFFC = false ∧ inPfMsix 0x1FFFFC = false ∧ (RegMap.find 0x1FFFFC).isNone = true ∧ inWin0 (win0 + 0x200) = true ∧
      inPfMsix (pfMsix + 0x400) = true ∧ s.hostOn = true ∧ s.d3hot 4 = false ∧ s.awaits (.vf 4) = false ∧ s.vfOn 4 = true := by decide

theorem witness_line :
    let s := up.setSes 0 { up.ses 0 with lastCr := true }
    up = up.uartAlive 0 ∧ up.present (.sess 0) = true ∧ (up.ses 0).lastCr = false ∧ up = up.uartAlive 2 ∧ up.present (.sess 2) = false ∧ s = s.uartAlive 0 ∧ s.present (.sess 0) = true ∧ (s.ses 0).lastCr = true :=
  ⟨rfl, by decide, by decide, rfl, by decide, rfl, by decide, by decide⟩

theorem witness_peek :
    let s : State := { up with arb := { up.arb with carried := [⟨.sess 0 [], .writeReg R.ETH_DRTIDLE 5#32⟩] } }
    up.serves l0 (peekLevel (.reg R.GLB_ID false) 1) ∧ up.awaits (srcOf l0) = false ∧ (regAt R.GLB_ID).isSome = true ∧
      ((regAt R.GLB_ID).map (fun p => (up.readReg (srcOf l0) p.1 p.2).2)) = some (some 0x32604200) ∧ up.serves l0 .view ∧ s.awaits (srcOf l0) = true := by decide

theorem witness_poke :
    up.serves l0 .service ∧ (match up.pokeParts (.sess 0) (.offset R.PWR_SLADDR) 5 with | .inr (.ok u, _) => decide (u.serves l0 .service) | _ => false) = true ∧
      (match up.pokeParts (.sess 0) .unknown 5 with | .inl e => e == .noname | _ => false) = true ∧ (match up.pokeParts (.sess 0) (.offset R.GLB_ID) 5 with | .inr (.refuse e _, _) => e == .badarg | _ => false) = true := by decide

theorem witness_poke_plain :
    up.serves l0 .service ∧ (∃ d, up.atReg R.ETH_DRTIDLE d 0 0 ∧ d.wide = false ∧ writableIn d 0 = true ∧ d.base ∉ actingRegs) ∧ 86400 < 2 ^ 32 :=
  ⟨by decide, ⟨_, ⟨by decide, by decide, by decide, by decide, rfl, by decide⟩, by decide, by decide, by decide⟩, by decide⟩

theorem witness_census :
    up.serves l0 .operate ∧ up.isMaster = false ∧ (up.setF F.XLK_STAT_MASTER 1).isMaster = true ∧ (up.setF F.XLK_STAT_MASTER 1).serves l0 .operate ∧ up.serves l0 .view := by decide

theorem witness_port_train :
    up.domainOn 9 = true ∧ up.getF (F.XLK_PSTAT_STATE 0) ≠ 2 ∧ up.getF (F.XLK_PSTAT_STATE 3) ≠ 2 ∧ up.isMaster = false ∧ (up.setF F.XLK_STAT_MASTER 1).isMaster = true ∧ (up.setF (F.XLK_PSTAT_STATE 3) 2).getF (F.XLK_PSTAT_STATE 3) = 2 := by decide

theorem witness_port_retry :
    let x : Sent := ⟨up.frame tCMD 0 0 [], true, 3, false⟩
    let s : State := (up.setF (F.XLK_PSTAT_STATE 0) 2).setXp 0 { up.xp 0 with replay := [x] }
    s.linkUp 0 = true ∧ (s.xp 0).replay.any (fun y => y.out) = true ∧ (s.xp 0).replay.any (fun y => y.out && decide (4 ≤ y.resent)) = false ∧
      ({ x with resent := 4 } : Sent).resent = 4 ∧ (up.xp 0).replay.any (fun y => y.out) = false ∧ up.linkUp 0 = false := by decide

theorem witness_frame_in :
    let s : State := up.setF (F.XLK_PSTAT_STATE 0) 2
    s.linkUp 0 = true ∧ aHdr.ok = true ∧ ({ aHdr with codeOk := false } : LinkHdr).ok = false ∧ (linkFrame aHdr).ty ≠ 0 ∧ (linkFrame aHdr).nak = false ∧ (s.takeAck 0 (linkFrame aHdr)).linkUp 0 = true := by decide

theorem witness_sweep_start :
    let s : State := { (up.setF F.XLK_STAT_MASTER 1).setF F.XLK_CFG_TIMEEN 1 with xlk := { up.xlk with due := true } }
    s.isMaster = true ∧ s.bit F.XLK_CFG_AUTOSWEEP = true ∧ s.xlk.due = true ∧ s.domainOn 9 = true ∧ s.xlk.sweep.isSome = false ∧ s.bit F.XLK_CFG_TIMEEN = true ∧ (s.setF F.XLK_CFG_TIMEEN 0).bit F.XLK_CFG_TIMEEN = false := by decide

theorem witness_creq :
    (up.setF (F.XLK_PSTAT_STATE 0) 2).linkUp 0 = true ∧ (up.setF (F.XLK_PSTAT_STATE 0) 2).isMaster = false ∧ 65536 ≤ (0x10000#32).toNat ∧ (0xFFFF#32).toNat < 65536 ∧ (63#8).toNat ≤ 63 ∧ up.linkUp 0 = false := by decide

theorem witness_crsp :
    let w : Sweep := ⟨1, 0, 0, 0, [3], [], some 3, [], none, false, false⟩
    ({ up with xlk := { up.xlk with sweep := some w } } : State).xlk.sweep = some w ∧ w.at' = some (3 : PortNo).val ∧ w.probe.contains (3 : PortNo).val = true ∧ up.xlk.sweep = none := by decide

theorem witness_commit :
    let s : State := { up with xlk := { up.xlk with prov := some ⟨7, 3, 1, []⟩ } }
    s.isMaster = false ∧ s.xlk.prov = some ⟨7, 3, 1, []⟩ ∧ 7 = (7#16).toNat ∧ (s.nodeId ≠ 3 ∨ s.bit F.XLK_STAT_IDVALID = false) ∧ 7 ≠ (8#16).toNat := by decide

theorem witness_time_frame :
    let s : State := (up.setF (F.XLK_PSTAT_STATE 0) 2).setF F.ETH_TCFG_SRC 1
    s.linkUp 0 = true ∧ (s.sendDown { s.frame tTIME 0 0 [] with bcast := true }).bit F.ETH_TCFG_SRC = true ∧ s.isMaster = false ∧ (up.setF F.XLK_STAT_MASTER 1).isMaster = true := by decide

theorem witness_cmds :
    up.linkAlive = true ∧ (5#16).toNat ≠ 0 ∧ (up.setF F.PWR_STAT_DOMAINS 0x1FF).linkAlive = false ∧ 1 ≤ (9#8).toNat ∧ (9#8).toNat ≤ 9 ∧ 9 < (10#8).toNat ∧ pwrOf (5#8).toNat = some .off ∧ up.pwrBusy = false ∧ Pwr.off ≠ up.pwr ∧
      (up.pwrBegin .off (.master 0#16 1#16)).pw.leave.isSome = false ∧ ({ up with pwr := .park }.pwrBegin .run (.master 0#16 1#16)).pw.leave.isSome = true := by decide

theorem witness_cmd_words :
    let s : State := { up with arb := { up.arb with carried := [⟨.master 3#16 5#8, .writeReg R.ETH_DRTIDLE 5#32⟩] } }
    offsetOk (0x110020#32).toNat = true ∧ up.awaits .master = false ∧ s.awaits .master = true ∧ (match up.readAct .master R.GLB_ID with | (_, some _) => true | _ => false) = true ∧
      (match up.wWord .master R.PWR_SLADDR 5#32 with | .ok t => t.linkAlive && t.boot.phase == up.boot.phase && t.linkUp 0 == up.linkUp 0 | _ => false) = true ∧
      (match up.wWord .master R.GLB_ID 5#32 with | .refuse e _ => e == .badarg | _ => false) = true := by decide

theorem witness_cmd_plova :
    verbWrong (tokens "STATE?".toList) = none ∧ (formOf (tokens "STATE?".toList)).isSome = true ∧ ((formOf (tokens "STATE?".toList)).map (·.level)) = some 0 ∧ up.boot.rescue = false ∧ (verbWrong (tokens "POWER".toList)).isSome = true := by decide

theorem witness_rsp :
    let c : XCmd := ⟨3, 1, 1, none, false, 0, []⟩
    let s : State := { up with xlk := { up.xlk with cmds := [c], dones := [⟨4, 1, l0⟩] } }
    s.xlk.cmds.find? (fun (c : XCmd) => c.tag == (3#16).toNat && c.op == (1#8).toNat) = some c ∧ s.xlk.cmds.find? (fun (c : XCmd) => c.tag == (3#16).toNat) = some c ∧ s.xlk.dones.find? (fun (d : XDone) => d.tag == (4#16).toNat) = some ⟨4, 1, l0⟩ ∧
      s.xlk.cmds.find? (fun (c : XCmd) => c.tag == (9#16).toNat) = none := by decide

theorem witness_stripe :
    let s : State := { up with qmg := { up.qmg with queues := (readUp none none).qmg.queues } }
    let t : State := s.wr (memOff 0 1) 0x00010001#32
    up.mayWrite .pf ∧ up.bit (F.XLK_SGCFG_EN 0) = false ∧ getBits (0x01000003#32).toNat 31 1 = 0 ∧ getBits (0x81000003#32).toNat 31 1 = 1 ∧ t.groupOk 0 1 3 = true ∧ (t.group 0).on = false ∧ up.groupOk 0 1 3 = false ∧
      (up.setF (F.XLK_SGCFG_EN 0) 1).bit (F.XLK_SGCFG_EN 0) = true ∧ up.mayWrite (.sess 0) := by decide

theorem witness_retransmit :
    let u : Unack := ⟨5, true, []⟩
    let m : SMember := ⟨0#64, 0, some 9, 0, 0, 6, 0, 0, [u], 0, false⟩
    let s : State := up.setGroup 0 { up.group 0 with mems := [m] }
    (s.group 0).mems[0]? = some m ∧ m.sess = some 9 ∧ m.unack.find? (fun u => u.sent && u.seq % 2 ^ 32 == (5#32).toNat) = some u ∧ (up.group 0).mems[0]? = none := by decide

theorem witness_lend :
    let s : State := (((up.setF (F.XLK_PSTAT_STATE 1) 2).setF F.XLK_LEND_EN 1).setF F.XLK_LEND_MAX 1)
    let l : Lent := ⟨1, 0, 10, [7]⟩
    let t : State := { s with xlk := { s.xlk with lent := [l] } }
    s.linkUp 1 = true ∧ s.lendRoom < pagesFor 1052672 ∧ pagesFor 10 ≤ s.lendRoom ∧ pagesFor 10 ≠ 0 ∧ t.lentTo 1 0 = some l ∧ s.lentTo 1 0 = none ∧ 0 + [0#8].length ≤ l.len ∧ l.len < 10 + [0#8].length := by decide

theorem witness_spill :
    let s : State := (({ feeding { aRec with length := 100 } with cart := .ready } : State).setF F.XLK_BORROW_EN 1).setF F.XLK_BORROW_LOW 31
    let s : State := { s with tnk := { s.tnk with used := List.range 1000 } }
    let t : State := { s with xlk := { s.xlk with asked := some 0, grants := [⟨1, 0, 4096⟩] } }
    s.bit F.XLK_BORROW_EN = true ∧ s.freePages < 256 * s.getF F.XLK_BORROW_LOW ∧ s.xlk.asked = none ∧ (s.spillNext).isSome = true ∧ t.xlk.asked = some 0 ∧
      (t.qmg.recs.find? (fun (r : Rec) => r.uid == 0 && t.canSpill r)).isSome = true ∧ bestGrant t.xlk.grants = some ⟨1, 0, 4096⟩ ∧ ({ up with qmg := { up.qmg with recs := [] } } : State).spillNext = none := by decide

theorem witness_recall :
    let s : State := feeding { aRec with lent := some (1, 0), pages := [] }
    let c : Recall := ⟨0, []⟩
    let t : State := { s with xlk := { s.xlk with called := some c } }
    s.xlk.called = none ∧ (s.recallNext.map (·.uid)) = some 0 ∧ pagesFor 100 ≤ s.freePages ∧ t.xlk.called = some c ∧ t.alive 0 = true ∧ (t.rec? 0).isSome = true ∧ ([] ++ List.replicate 99 (0#8 : Byte)).length < 100 ∧
      100 ≤ ([] ++ List.replicate 100 (0#8 : Byte)).length ∧ up.recallNext = none := by decide

theorem witness_levels :
    (upAt .view).present l0.who = true ∧ ((upAt .view).levelOf l0.who).num < 1 ∧ ((upAt .operate).levelOf l0.who).num < 2 ∧ (upAt .operate).present l0.who = true ∧ up.present l2.who = false ∧
      ({ up with boot := { up.boot with rescue := true } } : State).boot.rescue = true ∧ ({ up with boot := { up.boot with rescue := true } } : State).present l0.who = true ∧ 2 ≤ (({ up with boot := { up.boot with rescue := true } } : State).levelOf l0.who).num := by decide

theorem witness_pf_closed :
    State.reset.pfOpen .pf = false := by decide

theorem witness_query :
    Instr.stateQuery l0 ∈ [Instr.sessionQuery l0, Instr.idQuery l0, Instr.stateQuery l0] := by decide

theorem witness_reg_field :
    ((RegMap.find (R.ETH_DRTTEN 7)).map (fun p => (p.2.1, p.2.2, p.1.wide))) = some (7, 0, false) := by decide

theorem witness_idle :
    State.reset.pending = [] := by decide

theorem witness_inv_up :
    up.inv = true := by decide

theorem witness_inv_reset :
    State.reset.inv = true := by decide

end Sys2Proof.Tests
end

section
/-! SUPPORT. Every command answers a next state, in every state (00_scope R15, 02_command_line R61, 03_command_reference R83): the meaning of a command is a tree of tests, and each of its
leaves is a next state. Meanings that look something up have a lemma of their own. -/

namespace Sys2Proof.Machine

/-- The outcome is a next state. -/
def IsNext (o : Host.Outcome State Fault Refusal) : Prop := ∃ t, o = .next t

theorem isNext_next (t : State) : IsNext (.next t) := ⟨t, rfl⟩

theorem isNext_ite {c : Prop} [Decidable c] {a b : Host.Outcome State Fault Refusal} (ha : IsNext a) (hb : IsNext b) : IsNext (if c then a else b) := by
  split
  · exact ha
  · exact hb

/-- A test that answers at once where it holds, and goes on where it fails. -/
theorem isNext_guard {c : Prop} [Decidable c] {a : State} {b : Host.Outcome State Fault Refusal} (hb : IsNext b) : IsNext (if c then .next a else b) :=
  isNext_ite (isNext_next _) hb

/-- A row of a PF register: a VF does not reach it, and a source whose writes are discarded is at most counted (05_tenants R133; 04_start_up R116, R121). -/
theorem isNext_pfRow (src : Src) (s t : State) :
    IsNext (match src with | .vf _ => .next s | _ => if s.pfOpen src = false then .next (s.pfDrop src) else .next t) := by
  cases src with
  | vf => exact isNext_next _
  | _ => exact isNext_guard (isNext_next _)

/-! ### Commands that look something up -/

theorem execLineEditCharacter_isNext (n : Sid) (c : EditChar) (s : State) : IsNext (execLineEditCharacter n c s) := by
  unfold execLineEditCharacter
  refine isNext_guard (isNext_guard ?_)
  extract_lets
  split
  · exact isNext_guard (isNext_next _)
  · exact isNext_guard (isNext_next _)
  · exact isNext_next _
  · exact isNext_next _

theorem execLevel_isNext (ln : Ln) (arg : LevelArg) (s : State) : IsNext (execLevel ln arg s) := by
  unfold execLevel
  refine isNext_guard ?_
  split
  · exact isNext_next _
  · split
    · exact isNext_next _
    · exact isNext_guard (isNext_next _)
    · exact isNext_next _
    · exact isNext_next _

theorem execErrCtlClear_isNext (src : Src) (v : Word) (s : State) : IsNext (execErrCtlClear src v s) := by
  unfold execErrCtlClear
  split
  · exact isNext_next _
  · exact isNext_guard (isNext_guard (isNext_next _))

theorem execPoke_isNext (ln : Ln) (target : Target) (v : Nat) (s : State) : IsNext (execPoke ln target v s) := by
  unfold execPoke
  refine isNext_guard ?_
  split
  · exact isNext_next _
  · exact isNext_guard (isNext_next _)
  · exact isNext_next _
  · refine isNext_guard (isNext_ite ?_ (isNext_next _))
    split <;> exact isNext_next _

theorem execLoadComplete_isNext (f : LoadFinding) (s : State) : IsNext (execLoadComplete f s) := by
  unfold execLoadComplete
  refine isNext_guard ?_
  split <;> exact isNext_next _

theorem execLocate_isNext (ln : Ln) (ds : Nat) (s : State) : IsNext (execLocate ln ds s) := by
  unfold execLocate
  refine isNext_guard ?_
  split
  · exact isNext_next _
  · split
    · exact isNext_next _
    · exact isNext_guard (isNext_next _)

theorem execLocateComplete_isNext (found : Bool) (ds : Option Nat) (lpw : Nat) (s : State) : IsNext (execLocateComplete found ds lpw s) := by
  unfold execLocateComplete
  refine isNext_guard ?_
  split
  · exact isNext_guard (isNext_next _)
  · exact isNext_guard (isNext_guard (isNext_next _))
  · exact isNext_next _

theorem execLocateProbe_isNext (dsRead : Nat) (s : State) : IsNext (execLocateProbe dsRead s) := by
  unfold execLocateProbe
  split <;> exact isNext_next _

theorem execQcmdCreate_isNext (src : Src) (q : Qid) (s : State) : IsNext (execQcmdCreate src q s) := by
  unfold execQcmdCreate
  split
  · exact isNext_next _
  · exact isNext_guard (isNext_next _)
  · exact isNext_next _
  · exact isNext_next _
  · exact isNext_next _

theorem execPower_isNext (via : Via) (target : Pwr) (s : State) : IsNext (execPower via target s) := by
  unfold execPower
  split
  · exact isNext_guard (isNext_next _)
  · exact isNext_next _

theorem execTestTank_isNext (via : Via) (bank : Bank) (s : State) : IsNext (execTestTank via bank s) := by
  unfold execTestTank
  split
  · exact isNext_guard (isNext_next _)
  · exact isNext_next _

theorem execFwupdateCommitComplete_isNext (s : State) : IsNext (execFwupdateCommitComplete s) := by
  unfold execFwupdateCommitComplete
  split
  · exact isNext_next _
  · exact isNext_guard (isNext_next _)

theorem execFuseMapLoad_isNext (goodAt : Option (Fin 4)) (fuses : Fuses) (s : State) : IsNext (execFuseMapLoad goodAt fuses s) := by
  unfold execFuseMapLoad
  refine isNext_guard ?_
  split <;> exact isNext_next _

theorem execBootImageLoad_isNext (a b : Slot) (s : State) : IsNext (execBootImageLoad a b s) := by
  unfold execBootImageLoad
  refine isNext_guard ?_
  extract_lets
  split <;> exact isNext_next _

theorem execDrtClose_isNext (h : DrtHdr) (s : State) : IsNext (execDrtClose h s) := by
  unfold execDrtClose
  refine isNext_guard ?_
  split
  · exact isNext_guard (isNext_next _)
  · exact isNext_next _

theorem execDrtKeepalive_isNext (h : DrtHdr) (s : State) : IsNext (execDrtKeepalive h s) := by
  unfold execDrtKeepalive
  refine isNext_guard ?_
  split <;> exact isNext_next _

theorem execDrtAckTimer_isNext (session : BitVec 16) (s : State) : IsNext (execDrtAckTimer session s) := by
  unfold execDrtAckTimer
  split
  · exact isNext_guard (isNext_next _)
  · exact isNext_next _

theorem execDrtGapTimer_isNext (session : BitVec 16) (s : State) : IsNext (execDrtGapTimer session s) := by
  unfold execDrtGapTimer
  split
  · exact isNext_guard (isNext_next _)
  · exact isNext_next _

theorem execDrtIdleTimeout_isNext (session : BitVec 16) (s : State) : IsNext (execDrtIdleTimeout session s) := by
  unfold execDrtIdleTimeout
  split
  · exact isNext_guard (isNext_next _)
  · exact isNext_next _

theorem execDescriptorFetchWrite_isNext (qid : Qid) (d : Desc) (s : State) : IsNext (execDescriptorFetchWrite qid d s) := by
  unfold execDescriptorFetchWrite
  split
  · exact isNext_next _
  · exact isNext_guard (isNext_guard (isNext_guard (isNext_guard (isNext_next _))))

theorem execDescriptorFetchRead_isNext (qid : Qid) (d : Desc) (s : State) : IsNext (execDescriptorFetchRead qid d s) := by
  unfold execDescriptorFetchRead
  split
  · exact isNext_next _
  · exact isNext_guard (isNext_guard (isNext_next _))

theorem execDescriptorFetchBarrier_isNext (qid : Qid) (d : Desc) (s : State) : IsNext (execDescriptorFetchBarrier qid d s) := by
  unfold execDescriptorFetchBarrier
  split
  · exact isNext_next _
  · exact isNext_guard (isNext_guard (isNext_next _))

theorem execDescriptorFetchNop_isNext (qid : Qid) (d : Desc) (s : State) : IsNext (execDescriptorFetchNop qid d s) := by
  unfold execDescriptorFetchNop
  split
  · exact isNext_next _
  · exact isNext_guard (isNext_guard (isNext_next _))

theorem execDescriptorDmaError_isNext (qid : Qid) (s : State) : IsNext (execDescriptorDmaError qid s) := by
  unfold execDescriptorDmaError
  split
  · exact isNext_next _
  · exact isNext_guard (isNext_next _)

theorem execRecordDmaComplete_isNext (qid : Qid) (seq : BitVec 48) (data : List Byte) (s : State) : IsNext (execRecordDmaComplete qid seq data s) := by
  unfold execRecordDmaComplete
  split <;> exact isNext_next _

theorem execRecordDmaError_isNext (qid : Qid) (seq : BitVec 48) (s : State) : IsNext (execRecordDmaError qid seq s) := by
  unfold execRecordDmaError
  split <;> exact isNext_next _

theorem execReservationCharge_isNext (s : State) : IsNext (execReservationCharge s) := by
  unfold execReservationCharge
  refine isNext_guard ?_
  split
  · exact isNext_next _
  · exact isNext_guard (isNext_guard (isNext_next _))

theorem execMsixCoalesceTimeout_isNext (p : Fin 2048) (s : State) : IsNext (execMsixCoalesceTimeout p s) := by
  unfold execMsixCoalesceTimeout
  split <;> exact isNext_next _

theorem execReadComplete_isNext (q : Qid) (slot : Nat) (s : State) : IsNext (execReadComplete q slot s) := by
  unfold execReadComplete
  split
  · exact isNext_next _
  · refine isNext_guard ?_
    split
    · exact isNext_next _
    · exact isNext_guard (isNext_guard (isNext_next _))
    · exact isNext_next _

theorem execReadTimeout_isNext (q : Qid) (slot : Nat) (s : State) : IsNext (execReadTimeout q slot s) := by
  unfold execReadTimeout
  split
  · exact isNext_next _
  · refine isNext_guard ?_
    split <;> exact isNext_next _

theorem execNotifyHoldoffEnd_isNext (session : BitVec 16) (ev : Fin 9) (s : State) : IsNext (execNotifyHoldoffEnd session ev s) := by
  unfold execNotifyHoldoffEnd
  split
  · exact isNext_next _
  · split
    · exact isNext_next _
    · extract_lets
      split
      · exact isNext_guard (isNext_next _)
      · exact isNext_next _

theorem execSchFeed_isNext (t : Tenant) (s : State) : IsNext (execSchFeed t s) := by
  unfold execSchFeed
  split
  · exact isNext_next _
  · extract_lets
    split
    · exact isNext_guard (isNext_next _)
    · split
      · refine isNext_guard ?_
        split <;> exact isNext_next _
      · split
        · exact isNext_next _
        · exact isNext_guard (isNext_next _)

theorem execBlockEncodeComplete_isNext (e : Eng) (enc : Encode) (s : State) : IsNext (execBlockEncodeComplete e enc s) := by
  unfold execBlockEncodeComplete
  split
  · exact isNext_next _
  · extract_lets
    split
    · exact isNext_next _
    · exact isNext_guard (isNext_next _)

theorem execBlockPlace_isNext (s : State) : IsNext (execBlockPlace s) := by
  unfold execBlockPlace
  refine isNext_guard ?_
  split
  · exact isNext_next _
  · refine isNext_guard ?_
    split
    · exact isNext_guard (isNext_next _)
    · exact isNext_guard (isNext_next _)

theorem execBlockExpand_isNext (e : Eng) (block : List Byte) (extentTenant : Tenant) (room ds : Nat) (reads : List (Qid × Nat)) (s : State) : IsNext (execBlockExpand e block extentTenant room ds reads s) := by
  unfold execBlockExpand
  refine isNext_guard (isNext_guard (isNext_guard ?_))
  extract_lets
  split <;> exact isNext_next _

theorem execCodecTestSlice_isNext (enl : Bool) (e : Eng) (v : Verdict) (s : State) : IsNext (execCodecTestSlice enl e v s) := by
  unfold execCodecTestSlice
  split
  · exact isNext_next _
  · exact isNext_guard (isNext_next _)

theorem execCodecTestWaitExpiry_isNext (enl : Bool) (s : State) : IsNext (execCodecTestWaitExpiry enl s) := by
  unfold execCodecTestWaitExpiry
  split <;> exact isNext_next _

theorem execTankWindowAccess_isNext (src : Src) (write : Bool) (part : Fin 4) (v : Word) (ecc : Ecc) (s : State) : IsNext (execTankWindowAccess src write part v ecc s) := by
  unfold execTankWindowAccess
  split
  · exact isNext_next _
  · refine isNext_guard (isNext_guard ?_)
    split <;> exact isNext_next _

theorem execMarchBurst_isNext (badRows : List Nat) (s : State) : IsNext (execMarchBurst badRows s) := by
  unfold execMarchBurst
  split <;> exact isNext_next _

theorem execScratchpadFetchError_isNext (seqr : Fin 4) (addr : BitVec 18) (fetch : Bool) (ecc : Ecc) (s : State) : IsNext (execScratchpadFetchError seqr addr fetch ecc s) := by
  unfold execScratchpadFetchError
  refine isNext_guard (isNext_guard ?_)
  split <;> exact isNext_next _

theorem execSpdRemapAdd_isNext (src : Src) (v : Word) (s : State) : IsNext (execSpdRemapAdd src v s) := by
  unfold execSpdRemapAdd
  split
  · exact isNext_next _
  · refine isNext_guard ?_
    split <;> exact isNext_next _

theorem execDatasetStreamStart_isNext (s : State) : IsNext (execDatasetStreamStart s) := by
  unfold execDatasetStreamStart
  split
  · exact isNext_next _
  · exact isNext_guard (isNext_next _)

theorem execFrameVerdict_isNext (ch : Chan) (slot : Nat) (s : State) : IsNext (execFrameVerdict ch slot s) := by
  unfold execFrameVerdict
  split
  · exact isNext_next _
  · split
    · exact isNext_next _
    · exact isNext_guard (isNext_next _)

theorem execDatasetDecode_isNext (p : PassResult) (s : State) : IsNext (execDatasetDecode p s) := by
  unfold execDatasetDecode
  refine isNext_guard ?_
  extract_lets _ _ _ got
  clear_value got
  split
  · exact isNext_next _
  · exact isNext_next _
  · exact isNext_guard (isNext_guard (isNext_next _))

theorem execFrameRead_isNext (input : Fin 36) (f : FrameIn) (s : State) : IsNext (execFrameRead input f s) := by
  unfold execFrameRead
  refine isNext_guard (isNext_guard ?_)
  extract_lets
  split <;> exact isNext_next _

theorem execLoupeCaptureEnd_isNext (s : State) : IsNext (execLoupeCaptureEnd s) := by
  unfold execLoupeCaptureEnd
  extract_lets
  split
  · exact isNext_next _
  · exact isNext_guard (isNext_next _)

theorem execProofCheckpoint_isNext (ch : Chan) (results : List (Nat × Readback)) (s : State) : IsNext (execProofCheckpoint ch results s) := by
  unfold execProofCheckpoint
  split
  · exact isNext_next _
  · refine isNext_guard (isNext_guard (isNext_guard ?_))
    split <;> exact isNext_next _

theorem execCatchEnd_isNext (fan : Bool) (rpmA rpmB : Int) (offsets : List (Nat × Nat)) (s : State) : IsNext (execCatchEnd fan rpmA rpmB offsets s) := by
  unfold execCatchEnd
  refine isNext_ite (isNext_guard (isNext_next _)) ?_
  split
  · exact isNext_guard (isNext_next _)
  · exact isNext_next _

theorem execAlignEnd_isNext (fan : Bool) (s : State) : IsNext (execAlignEnd fan s) := by
  unfold execAlignEnd
  refine isNext_ite (isNext_guard (isNext_next _)) ?_
  split
  · exact isNext_guard (isNext_next _)
  · exact isNext_next _

theorem execStartFail_isNext (u : MUnit) (s : State) : IsNext (execStartFail u s) := by
  unfold execStartFail
  split
  · exact isNext_next _
  · exact isNext_guard (isNext_guard (isNext_guard (isNext_next _)))

theorem execTripInput_isNext (u : MUnit) (widthNs : Option Nat) (inBlanking : Bool) (s : State) : IsNext (execTripInput u widthNs inBlanking s) := by
  unfold execTripInput
  refine isNext_guard ?_
  split
  · exact isNext_next _
  · exact isNext_guard (isNext_next _)

theorem execQuiesceComplete_isNext (d : Domain) (s : State) : IsNext (execQuiesceComplete d s) := by
  unfold execQuiesceComplete
  split
  · exact isNext_guard (isNext_next _)
  · exact isNext_next _

theorem execSaveListAccess_isNext (src : Src) (write : Bool) (v : Word) (s : State) : IsNext (execSaveListAccess src write v s) := by
  unfold execSaveListAccess
  split <;> exact isNext_next _

theorem execIgnitionHoldExpiry_isNext (s : State) : IsNext (execIgnitionHoldExpiry s) := by
  unfold execIgnitionHoldExpiry
  refine isNext_guard ?_
  split <;> exact isNext_next _

theorem execCrspReceived_isNext (p : PortNo) (count brkNode : Word) (brkPort : Byte) (brk limit longhop : Bool) (uid : DWord) (s : State) : IsNext (execCrspReceived p count brkNode brkPort brk limit longhop uid s) := by
  unfold execCrspReceived
  split
  · exact isNext_next _
  · exact isNext_guard (isNext_next _)

theorem execProbeExchange_isNext (p : PortNo) (rounds : List (Nat × Nat)) (s : State) : IsNext (execProbeExchange p rounds s) := by
  unfold execProbeExchange
  refine isNext_guard ?_
  extract_lets
  split
  · exact isNext_next _
  · exact isNext_guard (isNext_next _)

theorem execCommitReceived_isNext (sweep : BitVec 16) (s : State) : IsNext (execCommitReceived sweep s) := by
  unfold execCommitReceived
  split
  · exact isNext_next _
  · exact isNext_guard (isNext_next _)

theorem execRspReceived_isNext (tag : BitVec 16) (op result : Byte) (status : BitVec 16) (more done : Bool) (reply : List Byte) (s : State) : IsNext (execRspReceived tag op result status more done reply s) := by
  unfold execRspReceived
  apply isNext_ite
  · split <;> exact isNext_next _
  · split
    · exact isNext_next _
    · exact isNext_guard (isNext_next _)

theorem execCtmoExpiry_isNext (tag : BitVec 16) (s : State) : IsNext (execCtmoExpiry tag s) := by
  unfold execCtmoExpiry
  split <;> exact isNext_next _

theorem execStripeRetransmit_isNext (g : Fin 4) (member : Nat) (seq : Word) (s : State) : IsNext (execStripeRetransmit g member seq s) := by
  unfold execStripeRetransmit
  split
  · exact isNext_next _
  · split <;> exact isNext_next _

theorem execLendPut_isNext (p : LendP) (s : State) : IsNext (execLendPut p s) := by
  unfold execLendPut
  split
  · exact isNext_next _
  · exact isNext_guard (isNext_next _)

theorem execLendGet_isNext (p : LendP) (s : State) : IsNext (execLendGet p s) := by
  unfold execLendGet
  split <;> exact isNext_next _

theorem execLendData_isNext (p : LendP) (s : State) : IsNext (execLendData p s) := by
  unfold execLendData
  split
  · exact isNext_next _
  · split
    · exact isNext_next _
    · exact isNext_guard (isNext_guard (isNext_next _))

theorem execLendFree_isNext (p : LendP) (s : State) : IsNext (execLendFree p s) := by
  unfold execLendFree
  split <;> exact isNext_next _

theorem execRecordSpill_isNext (s : State) : IsNext (execRecordSpill s) := by
  unfold execRecordSpill
  refine isNext_guard ?_
  split
  · exact isNext_next _
  · extract_lets
    split <;> exact isNext_next _

theorem execRecordRecall_isNext (s : State) : IsNext (execRecordRecall s) := by
  unfold execRecordRecall
  refine isNext_guard ?_
  split
  · exact isNext_next _
  · split
    · split
      · exact isNext_guard (isNext_next _)
      · exact isNext_next _
    · exact isNext_next _

theorem execBrakeToStandstill_isNext (u : MUnit) (s : State) : IsNext (execBrakeToStandstill u s) := by
  unfold execBrakeToStandstill
  refine isNext_guard (isNext_ite (isNext_guard (isNext_next _)) ?_)
  split
  · exact isNext_ite (isNext_guard (isNext_guard (isNext_next _))) (isNext_next _)
  · exact isNext_ite (isNext_guard (isNext_next _)) (isNext_next _)

/-- Every command answers a next state. The commands stand together by the shape of their meaning: no test, a PF register's row, a chain of tests, and those with a lemma above. -/
theorem exec_isNext (i : Instr) (s : State) : IsNext (exec i s) := by
  cases i with
  | registerWrite | rcFieldRead | writeLowHalf | writeHighHalf | readLowHalf | readHighHalf | arbitrationTick | writeUnderrun | session | sessionQuery | lockMotion
  | freeMotion | helpQuery | idQuery | stateQuery | timeQuery | errQuery | errClear | contactQuery | peek | load | unload | cartQuery | recordStart | recordStop
  | motionStart | motionStop | speed | locateLpw | motionQuery | tripQuery | tripClear | tenantQuery | tenant | queueCreate | queueDelete | queueQuery | resetFunction
  | powerQuery | resetWarm | resetDomain | nodeQuery | census | censusQuery | testCodec | testProof | testBoot | key | keyQuery | keyErase | fwupdateStart | flashWrite
  | fwupdateCommit | fwupdateAbort | pwrgdFall | warmReset | domainReset | rstctlWarm | rstctlDomain | perstAssert | watchdogWrite | pfFlr | vfEnable | vfDisable
  | arpRequest | icmpEcho | ethLinkChange | gptpSyncTimeout | tankRead | tankPartialWrite | tankAtomicAdd | tankAtomicSwap | scratchpadReloadDone | frameWrite
  | readRetry | wakeEvent | holdupOkChange | linkRetry | cmdPlova | cmdReset | cmdPower | cmdWake | cmdPoke | cmdPeek | stripeRowClose | perstDeassert =>
    exact isNext_next _
  | mdrTripclrWrite | qcmdDelete | drtTenantDisable | drtDisable | tvecWrite | qvecWrite | tshareWrite | gcapWrite | rdcEngineEnableWrite | enlEngineEnableWrite
  | loupeArm | loupeFire | loopBankRequest | loopModeWrite | coefficientWrite | rcClear | radiusWrite | xlkWakeWrite | stripeGroupEnable =>
    exact isNext_pfRow _ _ _
  | clockLoss | refClockLoss | doorbellWrite | uartBreak | tcpClose | serviceTimeout | unloadComplete | recordStartComplete | recordStopComplete | flush
  | flushDatasetClose | testBootComplete | pwrgdRise | fixerJournalScan | firstPrompt | watchdogExpiry | functionLevelReset | cartReadingIdle | overrateCheck
  | bulkStarve | codecTestPeriod | datasetClose | lossOfLock | servoFrame | servoLostTimeout | lpwokStopTimeout | gapTimeout | packBurstStart | carrierPeriod
  | observerHandover | motionStartComplete | controlledStopEnd | overcurrent | blankingEnd | followEnd | fanCurveEval | fanStall | fanRestart | coilLoop | reelSpeedLoop
  | tensionLoop | fanLoop | ignitionDrainTimeout | dumpComplete | cartInsert | cartRemove | trainingBurst | linkIdleSend | portDown | censusAutoStart | timeFrameSend
  | lendGrant | referenceClockReturn | parkOrderedSet | unsupportedFrame =>
    exact isNext_guard (isNext_next _)
  | plovaLine | tcpIdleTimeout | bootSelfTest | gptpSync | requestAgeExpiry | turnaround | backhitchResume | currentLoop | ignitionChange | creqReceived
  | timeFrameReceived | lendAlloc | supplyMonitorReset =>
    exact isNext_guard (isNext_guard (isNext_next _))
  | msixTableWrite | drtData | latLoop | pfailAssert | linkFrameReceived | evtReceived =>
    exact isNext_guard (isNext_guard (isNext_guard (isNext_next _)))
  | tcpConnect =>
    exact isNext_guard (isNext_guard (isNext_guard (isNext_guard (isNext_guard (isNext_next _)))))
  | drtOpen | portTrained =>
    exact isNext_guard (isNext_guard (isNext_guard (isNext_guard (isNext_next _))))
  | speedEvaluation =>
    exact isNext_guard (isNext_guard (isNext_ite (isNext_guard (isNext_next _)) (isNext_next _)))
  | accelTransaction =>
    exact isNext_guard (isNext_ite (isNext_guard (isNext_next _)) (isNext_ite (isNext_guard (isNext_next _)) (isNext_next _)))
  | characterReceived =>
    exact isNext_guard (isNext_guard (isNext_guard (isNext_ite (isNext_guard (isNext_next _)) (isNext_guard (isNext_next _)))))
  | lineEditCharacter => exact execLineEditCharacter_isNext _ _ _
  | level => exact execLevel_isNext _ _ _
  | errCtlClear => exact execErrCtlClear_isNext _ _ _
  | poke => exact execPoke_isNext _ _ _ _
  | loadComplete => exact execLoadComplete_isNext _ _
  | locate => exact execLocate_isNext _ _ _
  | locateComplete => exact execLocateComplete_isNext _ _ _ _
  | locateProbe => exact execLocateProbe_isNext _ _
  | qcmdCreate => exact execQcmdCreate_isNext _ _ _
  | power => exact execPower_isNext _ _ _
  | testTank => exact execTestTank_isNext _ _ _
  | fwupdateCommitComplete => exact execFwupdateCommitComplete_isNext _
  | fuseMapLoad => exact execFuseMapLoad_isNext _ _ _
  | bootImageLoad => exact execBootImageLoad_isNext _ _ _
  | drtClose => exact execDrtClose_isNext _ _
  | drtKeepalive => exact execDrtKeepalive_isNext _ _
  | drtAckTimer => exact execDrtAckTimer_isNext _ _
  | drtGapTimer => exact execDrtGapTimer_isNext _ _
  | drtIdleTimeout => exact execDrtIdleTimeout_isNext _ _
  | descriptorFetchWrite => exact execDescriptorFetchWrite_isNext _ _ _
  | descriptorFetchRead => exact execDescriptorFetchRead_isNext _ _ _
  | descriptorFetchBarrier => exact execDescriptorFetchBarrier_isNext _ _ _
  | descriptorFetchNop => exact execDescriptorFetchNop_isNext _ _ _
  | descriptorDmaError => exact execDescriptorDmaError_isNext _ _
  | recordDmaComplete => exact execRecordDmaComplete_isNext _ _ _ _
  | recordDmaError => exact execRecordDmaError_isNext _ _ _
  | reservationCharge => exact execReservationCharge_isNext _
  | msixCoalesceTimeout => exact execMsixCoalesceTimeout_isNext _ _
  | readComplete => exact execReadComplete_isNext _ _ _
  | readTimeout => exact execReadTimeout_isNext _ _ _
  | notifyHoldoffEnd => exact execNotifyHoldoffEnd_isNext _ _ _
  | schFeed => exact execSchFeed_isNext _ _
  | blockEncodeComplete => exact execBlockEncodeComplete_isNext _ _ _
  | blockPlace => exact execBlockPlace_isNext _
  | blockExpand => exact execBlockExpand_isNext _ _ _ _ _ _ _
  | codecTestSlice => exact execCodecTestSlice_isNext _ _ _ _
  | codecTestWaitExpiry => exact execCodecTestWaitExpiry_isNext _ _
  | tankWindowAccess => exact execTankWindowAccess_isNext _ _ _ _ _ _
  | marchBurst => exact execMarchBurst_isNext _ _
  | scratchpadFetchError => exact execScratchpadFetchError_isNext _ _ _ _ _
  | spdRemapAdd => exact execSpdRemapAdd_isNext _ _ _
  | datasetStreamStart => exact execDatasetStreamStart_isNext _
  | frameVerdict => exact execFrameVerdict_isNext _ _ _
  | datasetDecode => exact execDatasetDecode_isNext _ _
  | frameRead => exact execFrameRead_isNext _ _ _
  | loupeCaptureEnd => exact execLoupeCaptureEnd_isNext _
  | proofCheckpoint => exact execProofCheckpoint_isNext _ _ _
  | catchEnd => exact execCatchEnd_isNext _ _ _ _ _
  | alignEnd => exact execAlignEnd_isNext _ _
  | startFail => exact execStartFail_isNext _ _
  | tripInput => exact execTripInput_isNext _ _ _ _
  | quiesceComplete => exact execQuiesceComplete_isNext _ _
  | saveListAccess => exact execSaveListAccess_isNext _ _ _ _
  | ignitionHoldExpiry => exact execIgnitionHoldExpiry_isNext _
  | crspReceived => exact execCrspReceived_isNext _ _ _ _ _ _ _ _ _
  | probeExchange => exact execProbeExchange_isNext _ _ _
  | commitReceived => exact execCommitReceived_isNext _ _
  | rspReceived => exact execRspReceived_isNext _ _ _ _ _ _ _ _
  | ctmoExpiry => exact execCtmoExpiry_isNext _ _
  | stripeRetransmit => exact execStripeRetransmit_isNext _ _ _ _
  | lendPut => exact execLendPut_isNext _ _
  | lendGet => exact execLendGet_isNext _ _
  | lendData => exact execLendData_isNext _ _
  | lendFree => exact execLendFree_isNext _ _
  | recordSpill => exact execRecordSpill_isNext _
  | recordRecall => exact execRecordRecall_isNext _
  | brakeToStandstill => exact execBrakeToStandstill_isNext _ _

end Sys2Proof.Machine

/-- Settles O58: the tree of tests in each command's meaning ends in next states only. -/
theorem noCommandStops : Obligations.NoCommandStops := Sys2Proof.Machine.exec_isNext
end

section
/-! SUPPORT. A 32-bit register takes a written value field by field (00_scope R13, R18): where its word stands in the map, how its fields lie in it, and what a write leaves in each. -/

namespace Sys2Proof.Machine

/-! ### Where a register stands in the map -/

theorem RegMap.hits_some {d : RegDef} {off i w : Nat} (h : RegMap.hits d off = some (i, w)) : off = regOff d i + 4 * w := by
  unfold RegMap.hits at h
  split at h
  · cases h
  · dsimp only at h
    split at h
    · next hb hc =>
      obtain ⟨_, hw⟩ := hc
      obtain ⟨rfl, rfl⟩ := h
      have hdm := Nat.div_add_mod (off - d.base) d.stride
      unfold regOff
      omega
    · cases h

theorem RegMap.findIn_some {ds : List RegDef} {d : RegDef} {off i w : Nat} (h : RegMap.findIn ds off = some (d, i, w)) :
    d ∈ ds ∧ RegMap.hits d off = some (i, w) := by
  induction ds with
  | nil => cases h
  | cons e es ih =>
    unfold RegMap.findIn at h
    split at h
    · next hh =>
      cases h
      exact ⟨List.mem_cons_self, hh⟩
    · exact (ih h).imp_left (List.mem_cons_of_mem e)

/-- A word found in the map is word `w` of entry `i` of one of its tables. -/
theorem RegMap.find_some {d : RegDef} {off i w : Nat} (h : RegMap.find off = some (d, i, w)) : d ∈ RegMap.all ∧ off = regOff d i + 4 * w :=
  (RegMap.findIn_some h).imp_right RegMap.hits_some

/-! ### How the fields of a register lie -/

/-- Two fields share no bit. -/
abbrev FieldDef.apart (f g : FieldDef) : Prop := f.lo + f.width ≤ g.lo ∨ g.lo + g.width ≤ f.lo

set_option maxRecDepth 20000 in
/-- The fields of every 32-bit register of the map lie inside its word and share no bit. -/
theorem RegMap.fields_laidOut : ∀ d ∈ RegMap.all, d.wide = false → (∀ f ∈ d.fields, f.lo + f.width ≤ 32) ∧ d.fields.Pairwise FieldDef.apart := by decide

/-! ### A write, field by field -/

/-- A word after one field of it has taken its bits of the value written (R13). -/
def writeField (i v : Nat) (f : FieldDef) (old : Nat) : Nat :=
  match f.acc with
  | .rw => putBits old f.lo f.width (RegMap.stored f i (getBits v f.lo f.width))
  | .w1c => putBits old f.lo f.width (getBits old f.lo f.width &&& (2 ^ f.width - 1 - getBits v f.lo f.width))
  | _ => old

/-- What a field reads after a write, from what it read before and from the value written. -/
def fieldAfter (i v : Nat) (f : FieldDef) (cur : Nat) : Nat :=
  match f.acc with
  | .rw => RegMap.stored f i (getBits v f.lo f.width) % 2 ^ f.width
  | .w1c => cur &&& (2 ^ f.width - 1 - getBits v f.lo f.width)
  | _ => cur

theorem writeFields_cons (i v : Nat) (f : FieldDef) (fs : List FieldDef) (old : Nat) :
    writeFields i v (f :: fs) old = writeFields i v fs (writeField i v f old) := rfl

theorem getBits_lt (w lo k : Nat) : getBits w lo k < 2 ^ k := Nat.mod_lt _ (by positivity)

theorem getBits_writeField_same (i v : Nat) (f : FieldDef) (old : Nat) :
    getBits (writeField i v f old) f.lo f.width = fieldAfter i v f (getBits old f.lo f.width) := by
  unfold writeField fieldAfter
  split
  · exact getBits_putBits_same ..
  · rw [getBits_putBits_same]
    exact Nat.mod_eq_of_lt (Nat.and_le_left.trans_lt (getBits_lt ..))
  · rfl

theorem getBits_writeField_apart {f g : FieldDef} (h : f.apart g) (i v old : Nat) : getBits (writeField i v f old) g.lo g.width = getBits old g.lo g.width := by
  unfold writeField
  split
  · exact getBits_putBits_other h.symm ..
  · exact getBits_putBits_other h.symm ..
  · rfl

theorem writeField_lt {f : FieldDef} (h : f.lo + f.width ≤ 32) (i v : Nat) {old : Nat} (ho : old < 2 ^ 32) : writeField i v f old < 2 ^ 32 := by
  unfold writeField
  split
  · exact putBits_lt h ho _
  · exact putBits_lt h ho _
  · exact ho

theorem writeFields_lt (i v : Nat) {fs : List FieldDef} (h : ∀ f ∈ fs, f.lo + f.width ≤ 32) {old : Nat} (ho : old < 2 ^ 32) : writeFields i v fs old < 2 ^ 32 := by
  induction fs generalizing old with
  | nil => exact ho
  | cons f fs ih =>
    obtain ⟨hf, hfs⟩ := List.forall_mem_cons.mp h
    exact ih hfs (writeField_lt hf i v ho)

/-- A field that no field written touches keeps its bits. -/
theorem getBits_writeFields_apart (i v : Nat) {g : FieldDef} {fs : List FieldDef} (h : ∀ f ∈ fs, g.apart f) (old : Nat) :
    getBits (writeFields i v fs old) g.lo g.width = getBits old g.lo g.width := by
  induction fs generalizing old with
  | nil => rfl
  | cons f fs ih =>
    obtain ⟨hf, hfs⟩ := List.forall_mem_cons.mp h
    rw [writeFields_cons, ih hfs, getBits_writeField_apart hf.symm]

/-- Each field of a register takes its own bits of the value, whatever stands in the others. -/
theorem getBits_writeFields (i v : Nat) {fs : List FieldDef} (h : fs.Pairwise FieldDef.apart) {g : FieldDef} (hg : g ∈ fs) (old : Nat) :
    getBits (writeFields i v fs old) g.lo g.width = fieldAfter i v g (getBits old g.lo g.width) := by
  induction fs generalizing old with
  | nil => cases hg
  | cons f fs ih =>
    obtain ⟨ha, hp⟩ := List.pairwise_cons.mp h
    rw [writeFields_cons]
    rcases List.mem_cons.mp hg with rfl | hg
    · rw [getBits_writeFields_apart i v ha, getBits_writeField_same]
    · rw [ih hp hg, getBits_writeField_apart (ha g hg)]

/-- A write of a 32-bit register is a write of its one word. -/
theorem State.storeAt_word {off i : Nat} {d : RegDef} (h : RegMap.find off = some (d, i, 0)) (hw : d.wide = false) (s : State) (v : Word) :
    s.storeAt off v = s.wr off (BitVec.ofNat 32 (writeFields i v.toNat d.fields (s.rd off).toNat)) := by
  have ho : regOff d i = off := (RegMap.find_some h).2.symm
  simp only [State.storeAt, h, State.storeReg, ho, hw, Bool.false_eq_true, if_false]

theorem State.storeAt_field {off i : Nat} {d : RegDef} (h : RegMap.find off = some (d, i, 0)) (hw : d.wide = false) (s : State) (v : Word) {f : FieldDef} (hf : f ∈ d.fields) :
    getBits ((s.storeAt off v).rd off).toNat f.lo f.width = fieldAfter i v.toNat f (getBits (s.rd off).toNat f.lo f.width) := by
  obtain ⟨hin, hap⟩ := RegMap.fields_laidOut d (RegMap.find_some h).1 hw
  rw [State.storeAt_word h hw, rd_wr_same, BitVec.toNat_ofNat, Nat.mod_eq_of_lt (writeFields_lt _ _ hin (s.rd off).isLt), getBits_writeFields _ _ hap hf]

theorem State.storeAt_other {off i : Nat} {d : RegDef} (h : RegMap.find off = some (d, i, 0)) (hw : d.wide = false) (s : State) (v : Word) {o : Nat} (ho : o ≠ off) :
    (s.storeAt off v).rd o = s.rd o := by
  rw [State.storeAt_word h hw, rd_wr_other ho]

end Sys2Proof.Machine

open Sys2Proof.Machine in
/-- Settles O56: the fields of a register share no bit, so each takes its own bits of the value. -/
theorem fieldsFollowTheirAccessCode : Obligations.FieldsFollowTheirAccessCode :=
  fun s _ _ _ v h hw => ⟨fun _ hf => State.storeAt_field h hw s v hf, fun _ ho => State.storeAt_other h hw s v ho⟩
end

section
/-! SUPPORT. What the register rows come to (00_scope R13 to R16): each row is an access of the bus, an access of an open source meets a register, a window or a hole, and these lemmas say
what each of the three does. -/

namespace Sys2Proof.Machine

/-! ### The rows are accesses of the bus -/

theorem exec_registerWrite (src : Src) (off : Nat) (v : Word) (s : State) : exec (.registerWrite src off v) s = .next (s.busWrite src off v) := rfl
theorem exec_writeLowHalf (src : Src) (off : Nat) (v : Word) (s : State) : exec (.writeLowHalf src off v) s = .next (s.busWrite src off v) := rfl
theorem exec_writeHighHalf (src : Src) (off : Nat) (v : Word) (s : State) : exec (.writeHighHalf src off v) s = .next (s.busWrite src off v) := rfl
theorem exec_rcFieldRead (src : Src) (off : Nat) (s : State) : exec (.rcFieldRead src off) s = .next (s.read src off) := rfl
theorem exec_readLowHalf (src : Src) (off : Nat) (s : State) : exec (.readLowHalf src off) s = .next (s.read src off) := rfl
theorem exec_readHighHalf (src : Src) (off : Nat) (s : State) : exec (.readHighHalf src off) s = .next (s.read src off) := rfl

/-- A read waits behind an undecided write of its source (R68). -/
theorem State.read_awaits {s : State} {src : Src} (h : s.awaits src = true) (off : Nat) :
    s.read src off = { s with arb := { s.arb with reads := s.arb.reads ++ [.bus src off] } } := if_pos h

/-- A read that waits for nothing is performed at once. -/
theorem State.read_now {s : State} {src : Src} (h : s.awaits src = false) (off : Nat) : s.read src off = s.busRead src off := if_neg (by simp [h])

/-- A read by an open source goes to the register side whether or not it waited. -/
theorem State.busRead_open {s : State} {src : Src} {off : Nat} (hm : s.mayWrite src) (ha : off % 4 = 0) (hb : off < 0x200000) : s.busRead src off = s.readTo src off := by
  obtain ⟨hvf, hopen⟩ := hm
  have hal : ¬ off % 4 ≠ 0 := by omega
  have hcfg : ¬ cfgBase ≤ off := by unfold cfgBase; omega
  cases src with
  | pf =>
    obtain ⟨hhost, hd3⟩ : s.hostOn = true ∧ s.d3hot 0 = false := by simpa [State.pfOpen] using hopen
    simp only [State.busRead, if_neg hal, if_neg hcfg, hd3, hhost, true_or, if_true, Bool.false_eq_true, if_false]
  | vf t => exact absurd rfl (hvf t)
  | sess n => exact if_neg hal
  | master => exact if_neg hal
  | fwd n => exact if_neg hal

/-- A read of an enabled VF that is not in D3hot meets its window (05_tenants R133, R134). -/
theorem State.busRead_vf {s : State} {t : Tenant} {off : Nat} (hh : s.hostOn = true) (hv : s.vfOn t = true) (hd : s.d3hot t = false) (ha : off % 4 = 0) (hb : off < 0x10000) :
    s.busRead (.vf t) off = (s.readWord (.vf t) off).1.emit (.readData (.vf t) off (s.readWord (.vf t) off).2) := by
  have hcfg : ¬ cfgBase ≤ off := by unfold cfgBase; omega
  have hin : ¬ 0x10000 ≤ off := by omega
  simp [State.busRead, ha, hcfg, hv, hd, hin, hh]

/-- So does its write. -/
theorem State.busWrite_vf {s : State} {t : Tenant} {off : Nat} (hh : s.hostOn = true) (hv : s.vfOn t = true) (hd : s.d3hot t = false) (ha : off % 4 = 0) (hb : off < 0x10000) (v : Word) :
    s.busWrite (.vf t) off v = s.wWindow t off v := by
  have hcfg : ¬ cfgBase ≤ off := by unfold cfgBase; omega
  simp [State.busWrite, ha, hcfg, State.pfOpen, hh, hd, hv, hb]

/-! ### Reads of a register -/

/-- The Tank window's data words and SLDATA are read with an act of their own; any other word is read by `readWord`. -/
theorem State.readAct_plain {s : State} {src : Src} {off : Nat} (hd : ¬(R.TNK_WDATA 0 ≤ off ∧ off < R.TNK_WDATA 4)) (hl : off ≠ R.PWR_SLDATA) :
    s.readAct src off = ((s.readWord src off).1, some (s.readWord src off).2) := by
  unfold State.readAct
  rw [if_neg hd, if_neg hl]
  split <;> rfl

theorem State.readTo_plain {s : State} {src : Src} {off : Nat} (hd : ¬(R.TNK_WDATA 0 ≤ off ∧ off < R.TNK_WDATA 4)) (hl : off ≠ R.PWR_SLDATA) :
    s.readTo src off = (s.readWord src off).1.emit (.readData src off (s.readWord src off).2) := by
  unfold State.readTo
  rw [State.readAct_plain hd hl]

section
variable {s : State} {src : Src} {off i w : Nat} {d : RegDef}

theorem halfOf_atReg (hm : s.mayWrite src) (ha : s.atReg off d i w) :
    halfOf src off = if d.wide then (if w = 0 then some (off, false) else some (off - 4, true)) else none := by
  obtain ⟨_, _, hwin, _, hfind, _⟩ := ha
  unfold halfOf
  rw [winAt_out hm hwin, hfind]

theorem State.viewFor_atReg (hm : s.mayWrite src) (ha : s.atReg off d i w) : s.viewFor src off = BitVec.ofNat 32 (s.derived d i w (s.rd off).toNat) := by
  obtain ⟨_, _, hwin, hmsix, hfind, _⟩ := ha
  simp [State.viewFor, winAt_out hm hwin, State.viewWord, hwin, hmsix, hfind]

theorem State.clearRc_atReg (hm : s.mayWrite src) (ha : s.atReg off d i w) :
    s.clearRc src off = if rcIn d w then s.wr off (BitVec.ofNat 32 (clearFields w d.fields (s.rd off).toNat)) else s := by
  obtain ⟨_, _, hwin, _, hfind, _⟩ := ha
  unfold State.clearRc
  rw [winAt_out hm hwin, hfind]

/-- A 32-bit register answers its word and loses its RC fields (R13). -/
theorem State.readWord_narrow (hm : s.mayWrite src) (ha : s.atReg off d i w) (hw : d.wide = false) : s.readWord src off = (s.clearRc src off, s.viewFor src off) := by
  have hh : halfOf src off = none := by simp [halfOf_atReg hm ha, hw]
  simp only [State.readWord, hh]

/-- The low half answers itself and captures the high half (R16). -/
theorem State.readWord_low (hm : s.mayWrite src) (ha : s.atReg off d i 0) (hw : d.wide = true) :
    s.readWord src off = ({ (s.clearRc src off).clearRc src (off + 4) with rlatch := ⟨src, off, s.viewFor src (off + 4)⟩ :: s.noLatch src }, s.viewFor src off) := by
  have hh : halfOf src off = some (off, false) := by simp [halfOf_atReg hm ha, hw]
  simp only [State.readWord, hh]

/-- The high half answers what its source captured, once (R16). -/
theorem State.readWord_high_latched (hm : s.mayWrite src) (ha : s.atReg off d i 1) (hw : d.wide = true) {l : Latch}
    (hl : s.rlatch.find? (fun (l : Latch) => l.src == src && l.off == off - 4) = some l) : s.readWord src off = ({ s with rlatch := s.noLatch src }, l.half) := by
  have hh : halfOf src off = some (off - 4, true) := by simp [halfOf_atReg hm ha, hw]
  simp only [State.readWord, hh, hl]

/-- Without a capture the high half answers itself. -/
theorem State.readWord_high_bare (hm : s.mayWrite src) (ha : s.atReg off d i 1) (hw : d.wide = true)
    (hl : s.rlatch.find? (fun (l : Latch) => l.src == src && l.off == off - 4) = none) : s.readWord src off = (s.clearRc src off, s.viewFor src off) := by
  have hh : halfOf src off = some (off - 4, true) := by simp [halfOf_atReg hm ha, hw]
  simp only [State.readWord, hh, hl]

end

/-! ### Reads of a tenant's window (R131, R133) -/

/-- The words of a window that are halves of 64-bit words: words 2 and 3 of a QSTATn. -/
theorem halfOf_window {src : Src} {off o : Nat} {t : Tenant} (hw : winAt src off = some (t, o)) (ho : ¬(0x1000 ≤ o ∧ o < 0x1400)) : halfOf src off = none := by
  have hn : ¬(0x1000 ≤ o ∧ o < 0x1400 ∧ 8 ≤ o % 16) := fun h => ho ⟨h.1, h.2.1⟩
  simp only [halfOf, hw, if_neg hn]

theorem State.readWord_window {src : Src} {off o : Nat} {t : Tenant} (hw : winAt src off = some (t, o)) (ho : ¬(0x1000 ≤ o ∧ o < 0x1400)) (s : State) :
    s.readWord src off = (if o = 0x2004 then s.setFn { s.fn t with baddb := 0, confl := 0 } else s, BitVec.ofNat 32 (s.vWindow t o)) := by
  simp only [State.readWord, halfOf_window hw ho, State.clearRc, State.viewFor, hw]

/-! ### Writes -/

/-- A refusal leaves nothing with a source other than the PF (R83). -/
theorem State.settleWrite_refuse {s : State} {src : Src} {e : Er} (he : e ≠ .remapfull) (hp : src ≠ .pf) (r : Option ErrRec) : s.settleWrite src (.refuse e r) = s := by
  have ha : s.settleWrite src (.refuse e r) = s.apply src (.refuse e r) := by
    unfold State.settleWrite
    split
    · next h => cases h; exact absurd rfl he
    · rfl
  rw [ha]
  cases src with
  | pf => exact absurd rfl hp
  | _ => rfl

/-- A write that crosses to CKM while CKM is stopped stands in XC-12 (R33). -/
theorem State.wWord_stopped {s : State} {off : Nat} (hs : s.xc.stopped.contains .ckm = true) (hc : ckmSide off = true) (src : Src) (v : Word) :
    s.wWord src off v = .ok { s with xc := { s.xc with cmds := s.xc.cmds ++ [(src, off, v)] } } := by
  unfold State.wWord
  rw [if_pos ⟨hs, hc⟩]
  exact if_pos hs

/-- A register without an action of its own only stores its fields. -/
theorem State.wEntry_plain {d : RegDef} (h : d.base ∉ actingRegs) (s : State) (src : Src) (i off : Nat) (v : Word) : s.wEntry src d i off v = .ok (s.storeAt off v) := by
  have hne : ∀ n ∈ actingRegs, d.base ≠ n := fun n hn e => h (e ▸ hn)
  simp only [actingRegs, List.cons_append, List.nil_append, List.forall_mem_cons] at hne
  simp [State.wEntry, hne]

/-- The state with the write latches of a source emptied. -/
def State.noWlatch (s : State) (src : Src) : State := { s with wlatch := s.wlatch.filter (fun (l : Latch) => l.src != src) }

/-- The low half that a write of the high half at `off` commits: the one its source loaded, or else the one the register holds (R16). -/
def State.lowHalf (s : State) (src : Src) (off : Nat) : Nat :=
  match s.wlatch.find? (fun (l : Latch) => l.src == src && l.off == off - 4) with
  | some l => l.half.toNat
  | none => (s.rd (off - 4)).toNat

section
variable {s : State} {src : Src} {off i : Nat} {d : RegDef}

theorem State.wWord_low (ha : s.atReg off d i 0) (hw : d.wide = true) (v : Word) :
    s.wWord src off v = .ok { s with wlatch := ⟨src, off, v⟩ :: s.wlatch.filter (fun (l : Latch) => l.src != src) } := by
  rw [State.wWord_wide ha v hw, if_pos rfl]

/-- The high half commits both halves as a whole; one that the register does not take only empties the PF's latch. -/
theorem State.wWord_high (ha : s.atReg off d i 1) (hw : d.wide = true) (v : Word) :
    s.wWord src off v = match (s.noWlatch src).wWide d i (v.toNat * 2 ^ 32 + s.lowHalf src off) with
      | .ok t => .ok t
      | .refuse e r => match src with | .pf => .ok (s.noWlatch src) | _ => .refuse e r := by
  rw [State.wWord_wide ha v hw, if_neg Nat.one_ne_zero]
  rfl

theorem State.wWord_high_ok (ha : s.atReg off d i 1) (hw : d.wide = true) (v : Word) {t : State}
    (ht : (s.noWlatch src).wWide d i (v.toNat * 2 ^ 32 + s.lowHalf src off) = .ok t) : s.wWord src off v = .ok t := by
  rw [State.wWord_high ha hw, ht]

theorem State.wWord_high_refuse (ha : s.atReg off d i 1) (hw : d.wide = true) (v : Word) {e : Er} {r : Option ErrRec}
    (he : (s.noWlatch .pf).wWide d i (v.toNat * 2 ^ 32 + s.lowHalf .pf off) = .refuse e r) : s.wWord .pf off v = .ok (s.noWlatch .pf) := by
  rw [State.wWord_high ha hw, he]

/-- A 64-bit register takes a value: it has a writable field, and is not the ring of a queue that exists (R186). -/
theorem State.wWide_ok (hf : (writableIn d 0 || writableIn d 1) = true) (hq : d.base = 0x20000 → s.bit (F.QMG_QCFG_VALID i) = false) (v : Nat) : s.wWide d i v = .ok (s.storeReg d i v) := by
  have hn : ¬(d.base = 0x20000 ∧ s.bit (F.QMG_QCFG_VALID i) = true) := fun ⟨hb, hv⟩ => by simp [hq hb] at hv
  unfold State.wWide
  rw [if_neg hn, if_pos hf]

theorem State.wWide_refuse (h : (writableIn d 0 || writableIn d 1) = false ∨ d.base = 0x20000 ∧ s.bit (F.QMG_QCFG_VALID i) = true) (v : Nat) : ∃ e, s.wWide d i v = .refuse e none := by
  unfold State.wWide
  split
  · exact ⟨_, rfl⟩
  · next hn => exact ⟨_, if_neg (by simp [h.resolve_right hn])⟩

end

end Sys2Proof.Machine
end

section
/-! SUPPORT. The register rows at a register (00_scope R13, R16; 01_device_in_one_pass R33; 15_power R410), one lemma for each rule of the statement on them. -/

namespace Sys2Proof.Machine

section
variable {s : State} {src : Src} {off i : Nat} {d : RegDef}

/-- A write by an open source at a register is settled for its source. -/
theorem State.busWrite_atReg {w : Nat} (hm : s.mayWrite src) (ha : s.atReg off d i w) (v : Word) : s.busWrite src off v = s.settleWrite src (s.wWord src off v) :=
  State.busWrite_open hm ha.1 ha.2.1 v

/-- A read by an open source at a register that acts on no read, behind no undecided write. -/
theorem State.read_atReg {w : Nat} (hm : s.mayWrite src) (ha : s.atReg off d i w) (hn : s.awaits src = false) (hd : ¬(R.TNK_WDATA 0 ≤ off ∧ off < R.TNK_WDATA 4))
    (hl : off ≠ R.PWR_SLDATA) : s.read src off = (s.readWord src off).1.emit (.readData src off (s.readWord src off).2) := by
  rw [State.read_now hn, State.busRead_open hm ha.1 ha.2.1, State.readTo_plain hd hl]

theorem registerWrite_plain (hm : s.mayWrite src) (ha : s.atReg off d i 0) (hw : d.wide = false) (hf : writableIn d 0 = true) (hb : d.base ∉ actingRegs) (v : Word) :
    exec (.registerWrite src off v) s = .next (s.storeAt off v) := by
  rw [exec_registerWrite, State.busWrite_atReg hm ha, State.wWord_atReg ha v hw, if_pos hf, State.wEntry_plain hb, State.settle_ok]

theorem registerWrite_unwritable (hm : s.mayWrite src) (ha : s.atReg off d i 0) (hw : d.wide = false) (hf : writableIn d 0 = false) (v : Word) :
    exec (.registerWrite src off v) s = .next s := by
  rw [exec_registerWrite, State.busWrite_atReg hm ha, State.wWord_atReg ha v hw, if_neg (by simp [hf]), State.settle_arg]

theorem registerWrite_stopped (hm : s.mayWrite src) (ha : off % 4 = 0) (hb : off < 0x200000) (hs : s.xc.stopped.contains .ckm = true) (hc : ckmSide off = true) (v : Word) :
    exec (.registerWrite src off v) s = .next { s with xc := { s.xc with cmds := s.xc.cmds ++ [(src, off, v)] } } := by
  rw [exec_registerWrite, State.busWrite_open hm ha hb, State.wWord_stopped hs hc, State.settle_ok]

theorem registerWrite_refused {n : Sid} {v : Word} {e : Er} {r : Option ErrRec} (ha : off % 4 = 0) (hr : s.wWord (.sess n) off v = .refuse e r) (he : e ≠ .remapfull) :
    exec (.registerWrite (.sess n) off v) s = .next s := by
  have hb : s.busWrite (.sess n) off v = s.settleWrite (.sess n) (s.wWord (.sess n) off v) := if_neg (not_not.mpr ha)
  rw [exec_registerWrite, hb, hr, State.settleWrite_refuse (src := .sess n) he (by simp)]

/-- An aligned offset that is none of the four data words lies outside them. -/
theorem not_wdata (ha : off % 4 = 0) (h : ∀ k < 4, off ≠ R.TNK_WDATA k) : ¬(R.TNK_WDATA 0 ≤ off ∧ off < R.TNK_WDATA 4) := by
  have h0 := h 0 (by decide)
  have h1 := h 1 (by decide)
  have h2 := h 2 (by decide)
  have h3 := h 3 (by decide)
  simp only [R.TNK_WDATA] at *
  omega

theorem rcFieldRead_narrow (hm : s.mayWrite src) (ha : s.atReg off d i 0) (hw : d.wide = false) (hn : s.awaits src = false) (hl : off ≠ R.PWR_SLDATA) (hd : ∀ k < 4, off ≠ R.TNK_WDATA k) :
    exec (.rcFieldRead src off) s =
      .next ((if rcIn d 0 = true then s.wr off (BitVec.ofNat 32 (clearFields 0 d.fields (s.rd off).toNat)) else s).emit
        (.readData src off (BitVec.ofNat 32 (s.derived d i 0 (s.rd off).toNat)))) := by
  rw [exec_rcFieldRead, State.read_atReg hm ha hn (not_wdata ha.1 hd) hl, State.readWord_narrow hm ha hw, State.clearRc_atReg hm ha, State.viewFor_atReg hm ha]

theorem rcFieldRead_tcnt {t : Tenant} (hh : s.hostOn = true) (hv : s.vfOn t = true) (hd : s.d3hot t = false) (hn : s.awaits (.vf t) = false) :
    exec (.rcFieldRead (.vf t) 0x2004) s =
      .next ((s.setFn { s.fn t with baddb := 0, confl := 0 }).emit (.readData (.vf t) 0x2004 (BitVec.ofNat 32 (packWord [(16, (s.fn t).baddb), (0, (s.fn t).confl)])))) := by
  rw [exec_rcFieldRead, State.read_now hn, State.busRead_vf hh hv hd (by decide) (by decide), State.readWord_window rfl (by decide), if_pos rfl]
  rfl

theorem writeLowHalf_wide (hm : s.mayWrite src) (ha : s.atReg off d i 0) (hw : d.wide = true) (v : Word) :
    exec (.writeLowHalf src off v) s = .next { s with wlatch := ⟨src, off, v⟩ :: s.wlatch.filter (fun (l : Latch) => l.src != src) } := by
  rw [exec_writeLowHalf, State.busWrite_atReg hm ha, State.wWord_low ha hw, State.settle_ok]

theorem writeHighHalf_wide (hm : s.mayWrite src) (ha : s.atReg off d i 1) (hw : d.wide = true) (hf : (writableIn d 0 || writableIn d 1) = true)
    (hq : d.base = 0x20000 → s.bit (F.QMG_QCFG_VALID i) = false) (v : Word) :
    exec (.writeHighHalf src off v) s = .next ((s.noWlatch src).storeReg d i (v.toNat * 2 ^ 32 + s.lowHalf src off)) := by
  rw [exec_writeHighHalf, State.busWrite_atReg hm ha, State.wWord_high_ok ha hw v (State.wWide_ok (s := s.noWlatch src) hf hq _), State.settle_ok]

theorem writeHighHalf_refused (hm : s.mayWrite .pf) (ha : s.atReg off d i 1) (hw : d.wide = true)
    (h : (writableIn d 0 || writableIn d 1) = false ∨ d.base = 0x20000 ∧ s.bit (F.QMG_QCFG_VALID i) = true) (v : Word) :
    exec (.writeHighHalf .pf off v) s = .next (s.noWlatch .pf) := by
  obtain ⟨e, he⟩ := State.wWide_refuse (s := s.noWlatch .pf) h (v.toNat * 2 ^ 32 + s.lowHalf .pf off)
  rw [exec_writeHighHalf, State.busWrite_atReg hm ha, State.wWord_high_refuse ha hw v he, State.settle_ok]

theorem State.read_half {w : Nat} (hm : s.mayWrite src) (ha : s.atReg off d i w) (hw : d.wide = true) (hn : s.awaits src = false) :
    s.read src off = (s.readWord src off).1.emit (.readData src off (s.readWord src off).2) := by
  obtain ⟨hd, hl⟩ := wide_elsewhere ha.2.2.2.2.1 hw ha.1
  exact State.read_atReg hm ha hn hd hl

theorem readLowHalf_wide (hm : s.mayWrite src) (ha : s.atReg off d i 0) (hw : d.wide = true) (hn : s.awaits src = false) :
    exec (.readLowHalf src off) s =
      .next (({ (s.clearRc src off).clearRc src (off + 4) with rlatch := ⟨src, off, s.viewFor src (off + 4)⟩ :: s.noLatch src } : State).emit (.readData src off (s.viewFor src off))) := by
  rw [exec_readLowHalf, State.read_half hm ha hw hn, State.readWord_low hm ha hw]

theorem readHighHalf_latched (hm : s.mayWrite src) (ha : s.atReg off d i 1) (hw : d.wide = true) (hn : s.awaits src = false) {l : Latch}
    (hl : s.rlatch.find? (fun (l : Latch) => l.src == src && l.off == off - 4) = some l) :
    exec (.readHighHalf src off) s = .next (({ s with rlatch := s.noLatch src } : State).emit (.readData src off l.half)) := by
  rw [exec_readHighHalf, State.read_half hm ha hw hn, State.readWord_high_latched hm ha hw hl]

theorem readHighHalf_bare (hm : s.mayWrite src) (ha : s.atReg off d i 1) (hw : d.wide = true) (hn : s.awaits src = false)
    (hl : s.rlatch.find? (fun (l : Latch) => l.src == src && l.off == off - 4) = none) :
    exec (.readHighHalf src off) s = .next ((s.clearRc src off).emit (.readData src off (s.viewFor src off))) := by
  rw [exec_readHighHalf, State.read_half hm ha hw hn, State.readWord_high_bare hm ha hw hl]

/-! ### SLDATA (R410) -/

/-- SLDATA is a 32-bit register on the side of CKA that no clock loss stops. -/
theorem sldata_atReg (s : State) : ∃ d, s.atReg R.PWR_SLDATA d 0 0 ∧ d.wide = false ∧ writableIn d 0 = true ∧ d.base = 0x110024 :=
  ⟨_, ⟨rfl, by decide, rfl, rfl, rfl, Bool.and_false _⟩, rfl, rfl, rfl⟩

theorem saveListAccess_write (hm : s.mayWrite src) (v : Word) : exec (.saveListAccess src true v) s = .next ((s.setSlWord (s.getF F.PWR_SLADDR_WORD) v.toNat).slNext) := by
  obtain ⟨d, ha, hw, hf, hb⟩ := sldata_atReg s
  have he : exec (.saveListAccess src true v) s = .next (s.busWrite src R.PWR_SLDATA v) := by
    cases src with
    | vf t => exact absurd rfl (hm.1 t)
    | _ => rfl
  have hs : s.wEntry src d 0 R.PWR_SLDATA v = s.wSldata v := by simp [State.wEntry, hb]
  rw [he, State.busWrite_atReg hm ha, State.wWord_atReg ha v hw, if_pos hf, hs]
  rfl

theorem saveListAccess_read (hm : s.mayWrite src) (v : Word) :
    exec (.saveListAccess src false v) s =
      .next (if s.awaits src = true then { s with arb := { s.arb with reads := s.arb.reads ++ [.bus src R.PWR_SLDATA] } }
        else s.slNext.emit (.readData src R.PWR_SLDATA (BitVec.ofNat 32 (s.slWord (s.getF F.PWR_SLADDR_WORD))))) := by
  have he : exec (.saveListAccess src false v) s = .next (s.read src R.PWR_SLDATA) := by
    cases src with
    | vf t => exact absurd rfl (hm.1 t)
    | _ => rfl
  rw [he]
  split
  · next ha => rw [State.read_awaits ha]
  · next ha => rw [State.read_sldata hm (by simpa using ha)]

end

end Sys2Proof.Machine

open Sys2Proof.Machine in
/-- Settles O46: one lemma above for each rule. -/
theorem registersAreReadAndWritten : Obligations.RegistersAreReadAndWritten := by
  refine ⟨?plain, ?stopped, ?rc, ?tcnt, ?awaits, ?low, ?high, ?refused, ?readLow, ?readHigh, ?session, ?sldata⟩
  case plain => exact fun s src off i d v hm ha hw => ⟨fun hf hb => registerWrite_plain hm ha hw hf hb v, fun hf => registerWrite_unwritable hm ha hw hf v⟩
  case stopped => exact fun s src off v hm ha hb hs hc => registerWrite_stopped hm ha hb hs hc v
  case rc => exact fun s src off i d hm ha hw hn hl hd => rcFieldRead_narrow hm ha hw hn hl hd
  case tcnt => exact fun s t hh hv hd hn => rcFieldRead_tcnt hh hv hd hn
  case awaits =>
    intro s src off h
    have hr := State.read_awaits h off
    exact ⟨_, rfl, by rw [exec_rcFieldRead, hr], by rw [exec_readLowHalf, hr], by rw [exec_readHighHalf, hr]⟩
  case low => exact fun s src off i d v hm ha hw => writeLowHalf_wide hm ha hw v
  case high => exact fun s src off i d v hm ha hw hf hq => writeHighHalf_wide hm ha hw hf hq v
  case refused => exact fun s off i d v hp ha hw h => writeHighHalf_refused ⟨fun _ e => (nomatch e), hp⟩ ha hw h v
  case readLow => exact fun s src off i d hm ha hw hn => readLowHalf_wide hm ha hw hn
  case readHigh =>
    intro s src off i d hm ha hw hn
    split
    · next hl => exact readHighHalf_latched hm ha hw hn hl
    · next hl => exact readHighHalf_bare hm ha hw hn hl
  case session => exact fun s n off v e r ha hr he => registerWrite_refused ha hr he
  case sldata => exact fun s src v hm => ⟨saveListAccess_write hm v, saveListAccess_read hm v⟩
end

section
/-! SUPPORT. Offsets without a register (00_scope R15; 05_tenants R130, R131): a read there answers 0 and a write there is ignored. -/

namespace Sys2Proof.Machine

/-! ### Holes of a tenant's window -/

/-- A place of a tenant's window with no doorbell, QSTATn, TSTAT or TCNT (R131). -/
def WindowHole (o : Nat) : Prop := 0x100 ≤ o ∧ ¬(0x1000 ≤ o ∧ o < 0x1400) ∧ o ≠ 0x2000 ∧ o ≠ 0x2004

theorem State.vMsix_hole {o : Nat} (h1 : 0x400 ≤ o) (h2 : o ≠ 0x1000) (h3 : o ≠ 0x1004) (s : State) (t : Tenant) : s.vMsix t o = 0 := by
  unfold State.vMsix
  rw [if_neg (by omega), if_neg (by omega)]

theorem State.vWindow_hole {s : State} {t : Tenant} {o : Nat} (h : WindowHole o) (hx : t.val ≠ 0 → 0x8000 ≤ o → s.vMsix t (o - 0x8000) = 0) : s.vWindow t o = 0 := by
  obtain ⟨hdoor, hstat, htstat, htcnt⟩ := h
  unfold State.vWindow
  rw [if_neg (by omega), if_neg hstat, if_neg htstat, if_neg htcnt]
  split
  · next hv => exact hx hv.1 hv.2
  · rfl

/-- A read of a place of a window that holds nothing. -/
theorem State.readWord_windowHole {s : State} {src : Src} {off o : Nat} {t : Tenant} (hw : winAt src off = some (t, o)) (h : WindowHole o) (hv : s.vWindow t o = 0) :
    s.readWord src off = (s, 0#32) := by
  obtain ⟨_, hstat, _, htcnt⟩ := h
  rw [State.readWord_window hw hstat, if_neg htcnt, hv]

/-! ### Holes of the PF BAR0 -/

/-- An aligned offset of the PF BAR0 without a register: outside the tenant 0 window and the MSI-X structures, or inside one at a place it does not use. -/
def PfHole (off : Nat) : Prop :=
  inWin0 off = false ∧ inPfMsix off = false ∧ RegMap.find off = none ∨
    inWin0 off = true ∧ WindowHole (off - win0) ∨
    inPfMsix off = true ∧ 0x400 ≤ off - pfMsix ∧ off - pfMsix < 0x1000

theorem inWin0_iff (off : Nat) : inWin0 off = true ↔ win0 ≤ off ∧ off < win0 + 0x8000 := decide_eq_true_iff
theorem inPfMsix_iff (off : Nat) : inPfMsix off = true ↔ pfMsix ≤ off ∧ off < pfMsix + 0x1008 := decide_eq_true_iff

theorem inWin0_of_inPfMsix {off : Nat} (h : inPfMsix off = true) : inWin0 off = false := by
  rw [inPfMsix_iff, pfMsix] at h
  rw [Bool.eq_false_iff, ne_eq, inWin0_iff, win0]
  omega

/-- The words of a table lie between its base and its end. -/
theorem RegMap.hits_range {d : RegDef} {off i w : Nat} (h : RegMap.hits d off = some (i, w)) (hs : 0 < d.stride) : d.base ≤ off ∧ off < d.base + d.count * d.stride := by
  unfold RegMap.hits at h
  split at h
  · cases h
  · dsimp only at h
    split at h
    · next hb hc =>
      have hlt := (Nat.div_lt_iff_lt_mul hs).mp hc.1
      omega
    · cases h

set_option maxRecDepth 20000 in
/-- No register table reaches between the PF's MSI-X table and its pending bits. -/
theorem RegMap.all_beside_msix : ∀ d ∈ RegMap.all, 0 < d.stride ∧ (d.base + d.count * d.stride ≤ 0x58400 ∨ 0x59000 ≤ d.base) := by decide

theorem RegMap.find_msixHole {off : Nat} (h1 : 0x400 ≤ off - pfMsix) (h2 : off - pfMsix < 0x1000) : RegMap.find off = none := by
  rw [Option.eq_none_iff_forall_ne_some]
  rintro ⟨d, i, w⟩ hf
  obtain ⟨hd, hh⟩ := RegMap.findIn_some hf
  obtain ⟨hs, hr⟩ := RegMap.all_beside_msix d hd
  have hrange := RegMap.hits_range hh hs
  unfold pfMsix at h1 h2
  omega

/-- At a hole outside the tenant 0 window the map holds no register. -/
theorem PfHole.find {off : Nat} (h : PfHole off) (hw : inWin0 off = false) : RegMap.find off = none := by
  rcases h with ⟨_, _, hf⟩ | ⟨hin, _⟩ | ⟨_, h1, h2⟩
  · exact hf
  · rw [hw] at hin; cases hin
  · exact RegMap.find_msixHole h1 h2

/-- Neither SLDATA nor a data word of the Tank window stands at a hole. -/
theorem PfHole.plain {off : Nat} (h : PfHole off) (ha : off % 4 = 0) : ¬(R.TNK_WDATA 0 ≤ off ∧ off < R.TNK_WDATA 4) ∧ off ≠ R.PWR_SLDATA := by
  have acts (o : Nat) (ho : o = R.PWR_SLDATA ∨ ∃ k < 4, o = R.TNK_WDATA k) : inWin0 o = false ∧ RegMap.find o ≠ none := by
    have hdata : ∀ k < 4, inWin0 (R.TNK_WDATA k) = false ∧ RegMap.find (R.TNK_WDATA k) ≠ none := by decide
    rcases ho with rfl | ⟨k, hk, rfl⟩
    · decide
    · exact hdata k hk
  have hne (o : Nat) (ho : o = R.PWR_SLDATA ∨ ∃ k < 4, o = R.TNK_WDATA k) : off ≠ o := by
    rintro rfl
    obtain ⟨hw, hf⟩ := acts off ho
    exact hf (h.find hw)
  exact ⟨not_wdata ha fun k hk => hne _ (.inr ⟨k, hk, rfl⟩), hne _ (.inl rfl)⟩

section
variable {s : State} {src : Src} {off : Nat}

theorem State.readWord_pfHole (hm : s.mayWrite src) (h : PfHole off) : s.readWord src off = (s, 0#32) := by
  by_cases hw : inWin0 off = true
  · have hwin : winAt src off = some (0, off - win0) := by
      cases src with
      | vf t => exact absurd rfl (hm.1 t)
      | _ => exact if_pos hw
    have hhole : WindowHole (off - win0) := by
      rcases h with ⟨hn, _⟩ | ⟨_, hh⟩ | ⟨hx, _⟩
      · rw [hw] at hn; cases hn
      · exact hh
      · rw [inWin0_of_inPfMsix hx] at hw; cases hw
    exact State.readWord_windowHole hwin hhole (State.vWindow_hole hhole fun h0 => absurd rfl h0)
  · have hw : inWin0 off = false := by simpa using hw
    have hwin := winAt_out hm hw
    have hf := h.find hw
    have hv : s.viewWord off = 0#32 := by
      unfold State.viewWord
      rw [hw, hf]
      rcases h with ⟨_, hx, _⟩ | ⟨hin, _⟩ | ⟨hx, h1, h2⟩
      · rw [hx]; rfl
      · rw [hw] at hin; cases hin
      · rw [hx, State.vMsix_hole h1 (by omega) (by omega)]; rfl
    simp only [State.readWord, halfOf, State.clearRc, State.viewFor, hwin, hf, hv]

theorem State.busRead_pfHole (hm : s.mayWrite src) (ha : off % 4 = 0) (hb : off < 0x200000) (h : PfHole off) : s.busRead src off = s.emit (.readData src off 0#32) := by
  obtain ⟨hd, hl⟩ := h.plain ha
  rw [State.busRead_open hm ha hb, State.readTo_plain hd hl, State.readWord_pfHole hm h]

/-- No hole crosses to CKM. -/
theorem PfHole.ckmSide (h : PfHole off) : ckmSide off = false := by
  by_cases hw : inWin0 off = true
  · have hlt := ((inWin0_iff off).mp hw).2
    have hn : ¬(0xf0000 ≤ off ∧ off < 0x110000) := by unfold win0 at hlt; omega
    simp [Machine.ckmSide, hn]
  · simp [Machine.ckmSide, h.find (by simpa using hw)]

/-- A write at a hole is refused, as every write that is ignored (R83). -/
theorem State.wWord_pfHole (h : PfHole off) (s : State) (src : Src) (v : Word) : s.wWord src off v = .refuse .badarg none := by
  unfold State.wWord
  rw [if_neg (by simp [h.ckmSide])]
  rcases h with ⟨hw, hx, hf⟩ | ⟨hw, hdoor, _⟩ | ⟨hx, h1, _⟩
  · rw [hw, hx, hf]; rfl
  · have hd : ¬ off - win0 < 0x100 := by omega
    rw [if_pos hw, if_neg hd]
    cases src <;> exact if_neg hd
  · rw [inWin0_of_inPfMsix hx, if_neg (by decide), if_pos hx, if_neg (by omega)]

theorem State.busWrite_pfHole (hm : s.mayWrite src) (ha : off % 4 = 0) (hb : off < 0x200000) (h : PfHole off) (v : Word) : s.busWrite src off v = s := by
  rw [State.busWrite_open hm ha hb, State.wWord_pfHole h, State.settle_arg]

/-! ### Holes of a VF's BAR0 -/

/-- A place of a VF's BAR0 without a register: a hole of its window that its MSI-X table and pending bits do not use either (R130, R131). -/
def VfHole (off : Nat) : Prop := WindowHole off ∧ ¬(0x8000 ≤ off ∧ off < 0x8400) ∧ off ≠ 0x9000 ∧ off ≠ 0x9004

theorem State.busRead_vfHole {t : Tenant} (hh : s.hostOn = true) (hv : s.vfOn t = true) (hd : s.d3hot t = false) (ha : off % 4 = 0) (hb : off < 0x10000) (h : VfHole off) :
    s.busRead (.vf t) off = s.emit (.readData (.vf t) off 0#32) := by
  obtain ⟨hw, htab, hp0, hp1⟩ := h
  have hz : s.vWindow t off = 0 := State.vWindow_hole hw fun _ h8 => State.vMsix_hole (by omega) (by omega) (by omega) s t
  rw [State.busRead_vf hh hv hd ha hb, State.readWord_windowHole rfl hw hz]

theorem State.wWindow_vfHole (h : VfHole off) (s : State) (t : Tenant) (v : Word) : s.wWindow t off v = s := by
  obtain ⟨⟨hdoor, _⟩, htab, _⟩ := h
  unfold State.wWindow
  rw [if_neg (by omega)]
  split
  · exact if_neg (by omega)
  · rfl

end

/-- What an access of a hole comes to, once the bus answers 0 there and ignores a write: every row of a read answers 0 (behind an undecided write, after it), and every row of a write
changes nothing. -/
theorem holeRows {s t : State} {src : Src} {off : Nat} {v : Word} (hr : s.busRead src off = s.emit (.readData src off 0#32)) (hw : s.busWrite src off v = s)
    (ht : t = (if s.awaits src = true then { s with arb := { s.arb with reads := s.arb.reads ++ [.bus src off] } } else s.emit (.readData src off 0#32))) :
    exec (.rcFieldRead src off) s = .next t ∧ exec (.readLowHalf src off) s = .next t ∧ exec (.readHighHalf src off) s = .next t ∧
    s.serveRead (.bus src off) = s.emit (.readData src off 0#32) ∧
    exec (.registerWrite src off v) s = .next s ∧ exec (.writeLowHalf src off v) s = .next s ∧ exec (.writeHighHalf src off v) s = .next s := by
  have hread : s.read src off = t := by rw [ht, ← hr]; rfl
  rw [exec_rcFieldRead, exec_readLowHalf, exec_readHighHalf, exec_registerWrite, exec_writeLowHalf, exec_writeHighHalf, hread, hw]
  exact ⟨rfl, rfl, rfl, hr, rfl, rfl, rfl⟩

end Sys2Proof.Machine

open Sys2Proof.Machine in
/-- Settles O47: in the PF BAR0 (with the tenant 0 window and the MSI-X structures), and in a VF's BAR0. -/
theorem unimplementedOffsetReadsZero : Obligations.UnimplementedOffsetReadsZero := by
  constructor
  · intro s t src off v hm ha hb hole ht
    have h : PfHole off := hole
    exact holeRows (State.busRead_pfHole hm ha hb h) (State.busWrite_pfHole hm ha hb h v) ht
  · intro s u t off v hh hv hd hb ha hdoor hstat htstat htcnt htab hp0 hp1 hu
    have h : VfHole off := ⟨⟨hdoor, hstat, htstat, htcnt⟩, htab, hp0, hp1⟩
    have hw : s.busWrite (.vf t) off v = s := by rw [State.busWrite_vf hh hv hd ha hb, State.wWindow_vfHole h]
    exact holeRows (State.busRead_vfHole hh hv hd ha hb h) hw hu
end

section
open Sys2Proof.Machine

/-- Settles O59: no session has a line, as each of the six is closed; the rest is the reset state read off. -/
theorem resetState : Obligations.ResetState := by
  have hlines (n : Sys2Proof.Sid) : (State.reset.ses n).lines = [] := by
    have hn : State.reset.ses n = Session.closed := by simp [State.ses, State.reset, Console.reset]
    rw [hn]
    rfl
  have hid : State.reset.viewWord R.GLB_ID = 0x32604200#32 := by decide
  have hinv : State.reset.inv = true := by decide
  exact ⟨rfl, hid, rfl, rfl, rfl, rfl, rfl, hlines, hinv⟩
end

section
/-! SUPPORT. What a slot of FRAME_WRITE writes (10_dataset_and_formatter R280, R283): an equation for each branch of the slot, and the two outcomes of a stream start and of an underrun. -/

namespace Sys2Proof.Machine

/-! ### A stream starts (R313) -/

theorem execDatasetStreamStart_starts {s : State} {b : Built} {bs : List Built} (hb : s.fmt.built = b :: bs) (hm : s.mayStream b = true) :
    execDatasetStreamStart s =
      .next (({ s with fmt := { s.fmt with built := bs, streams := s.fmt.streams ++ [⟨b, List.replicate 16 0, [], [], [], 0, false, s.rd R.PRF_CFG, s.startAt, false⟩] } } : State).hintStart b.num) := by
  simp only [execDatasetStreamStart, hb, hm, Bool.true_eq_false, if_false]

/-- Nothing starts while there is no dataset, or while the first one may not stream. -/
theorem execDatasetStreamStart_waits {s : State} (h : s.fmt.built = [] ∨ ∀ b, s.fmt.built.head? = some b → s.mayStream b = false) : execDatasetStreamStart s = .next s := by
  unfold execDatasetStreamStart
  split
  · rfl
  · next b bs hb =>
    have hm : s.mayStream b = false := by
      rcases h with hnil | hhead
      · rw [hb] at hnil; cases hnil
      · exact hhead b (by rw [hb, List.head?_cons])
    exact if_pos hm

/-! ### A slot is written (R280, R283) -/

/-- A stream whose channel has written a row as its slot `p`: a copy of row `r` now awaits its verdict. -/
def Stream.wrote (x : Stream) (ch p r : Nat) : Stream := { x with next := x.next.set ch (p + 1), frames := x.frames ++ [⟨ch, p, r, false⟩] }

/-- The same for a pool slot: the row leaves the queue. -/
def Stream.rewrote (x : Stream) (ch p r : Nat) : Stream := { x.wrote ch p r with queue := x.queue.filter (fun q => q.1 != r), pool := x.pool + 1 }

/-- A stream whose channel has written FILL as its slot `p`, which no verdict follows. -/
def Stream.filled (x : Stream) (ch p : Nat) : Stream := { x with next := x.next.set ch (p + 1) }

/-- A copy of a row goes to its write element, and the stream is put back as it then stands. -/
def State.slotOut (s : State) (ch p kind sub row : Nat) (rewrite : Bool) (b : Built) (y : Stream) : State :=
  ((s.headBalls.writeRow ch p (s.headerOf b kind sub rewrite row) (codedRow (subsetRow b.content sub row))).setStream y).afterSlots y

/-- Without a stream to write, or with the gate closed, no slot is written. -/
theorem State.frameWrite_idle {s : State} (h : s.writing? = none ∨ s.gateOpen = false) (ch : Chan) : s.frameWrite ch = s := by
  unfold State.frameWrite
  split
  · rfl
  · next x hw =>
    have hg : s.gateOpen = false := h.resolve_left (by simp [hw])
    exact if_pos (.inl hg)

section
variable {s : State} {x : Stream} {ch : Chan} {p : Nat}

/-- A channel that has written its last slot writes none. -/
theorem State.frameWrite_past (hw : s.writing? = some x) (hp : p = x.next.getD ch.val 0) (hend : slotCount x.ds.nsub ≤ p) : s.frameWrite ch = s := by
  subst hp
  unfold State.frameWrite
  rw [hw]
  exact if_pos (.inr hend)

/-- A payload slot carries its row of R280. -/
theorem State.frameWrite_payload (hw : s.writing? = some x) (hg : s.gateOpen = true) (hp : p = x.next.getD ch.val 0) (hpay : p < 8 * x.ds.nsub) (hroom : s.bufRoom ch.val = true) :
    s.frameWrite ch =
      s.slotOut ch.val p x.ds.kind (slotRow x.ds.nsub ch.val p).1 (slotRow x.ds.nsub ch.val p).2 false x.ds
        (x.wrote ch.val p (128 * (slotRow x.ds.nsub ch.val p).1 + (slotRow x.ds.nsub ch.val p).2)) := by
  subst hp
  have hslot : ¬ slotCount x.ds.nsub ≤ x.next.getD ch.val 0 := by unfold slotCount; omega
  simp only [State.frameWrite, hw, hg, hslot, hpay, hroom, Bool.true_eq_false, or_self, if_false, if_true]
  rfl

/-- A pool slot carries the failed row that the queue holds for the channel, counted as a rewrite (R283). -/
theorem State.frameWrite_pool (hw : s.writing? = some x) (hg : s.gateOpen = true) (hp : p = x.next.getD ch.val 0) (hpay : 8 * x.ds.nsub ≤ p) (hslot : p < slotCount x.ds.nsub)
    {r f : Nat} (hpick : poolPick ch.val x.queue = some (r, f)) (hroom : s.bufRoom ch.val = true) :
    s.frameWrite ch = (s.count F.FMT_CNT_REWRITES 1).slotOut ch.val p x.ds.kind (r / 128) (r % 128) true x.ds (x.rewrote ch.val p r) := by
  subst hp
  simp only [State.frameWrite, hw, hg, Nat.not_le.mpr hslot, Nat.not_lt.mpr hpay, hpick, hroom, Bool.true_eq_false, or_self, if_false]
  rfl

/-- A pool slot without a row for the channel carries FILL, and may be the last of its dataset (R283, R284). -/
theorem State.frameWrite_fill (hw : s.writing? = some x) (hg : s.gateOpen = true) (hp : p = x.next.getD ch.val 0) (hpay : 8 * x.ds.nsub ≤ p) (hslot : p < slotCount x.ds.nsub)
    (hpick : poolPick ch.val x.queue = none) :
    s.frameWrite ch =
      (((s.headBalls.emit (.frame ch.val (channelBits (s.headerOf x.ds 2 0 false 0) (List.replicate 496 0#8)))).setStream (x.filled ch.val p)).afterSlots (x.filled ch.val p)).endStream x.ds.num := by
  subst hp
  simp only [State.frameWrite, hw, hg, Nat.not_le.mpr hslot, Nat.not_lt.mpr hpay, hpick, Bool.true_eq_false, or_self, if_false]
  rfl

end

/-- What the row comes to: the slot, then the end of a burst that has nothing left to write (R343). -/
theorem exec_frameWrite (ch : Chan) {s t : State} (h : s.frameWrite ch = t) : exec (.frameWrite ch) s = .next t.burstEnd := h ▸ rfl

/-! ### A row runs empty (R35) -/

theorem State.fillRow_inFlight {s : State} {ch : Nat} {x : Stream} (h : s.inFlight ch = some x) : s.fillRow ch = (s.setStream (x.cutSlot ch)).emit (.rowFill ch) := by
  simp only [State.fillRow, h]

theorem State.fillRow_none {s : State} {ch : Nat} (h : s.inFlight ch = none) : s.fillRow ch = s := by
  simp only [State.fillRow, h]

theorem exec_writeUnderrun (ch : Chan) {s t : State} (h : s.fillRow ch.val = t) : exec (.writeUnderrun ch) s = .next t := h ▸ rfl

/-! ### The open dataset closes (R274) -/

theorem exec_datasetClose (s : State) : exec .datasetClose s = .next (if s.closeDue = true then s.closeDs false else s) :=
  (apply_ite Host.Outcome.next _ _ _).symm

end Sys2Proof.Machine

open Sys2Proof.Machine in
/-- Settles O33: a slot has four branches (payload row, failed row, FILL, none left), each an equation above. -/
theorem datasetsStreamToTape : Obligations.DatasetsStreamToTape := by
  refine ⟨exec_datasetClose, fun s b bs hb hm => execDatasetStreamStart_starts hb hm, fun s h => execDatasetStreamStart_waits h, ?slot, ?idle, ?underrun, ?noRow⟩
  case slot =>
    intro s ch x p hw hg hp
    refine ⟨?payload, ?pool, ?fill, ?past⟩
    case payload => exact fun hpay hroom => exec_frameWrite ch (State.frameWrite_payload hw hg hp hpay hroom)
    case pool => exact fun r f hpay hslot hpick hroom => exec_frameWrite ch (State.frameWrite_pool hw hg hp hpay hslot hpick hroom)
    case fill => exact fun hpay hslot hpick => exec_frameWrite ch (State.frameWrite_fill hw hg hp hpay hslot hpick)
    case past => exact fun hend => exec_frameWrite ch (State.frameWrite_past hw hp hend)
  case idle => exact fun s ch h => exec_frameWrite ch (State.frameWrite_idle h ch)
  case underrun => exact fun s ch x h => exec_writeUnderrun ch (State.fillRow_inFlight h)
  case noRow => exact fun s ch h => exec_writeUnderrun ch (State.fillRow_none h)
end

section
/-! SUPPORT. Every command keeps the machine's invariant and its queue: `Keeps` of the state carries over its meaning, by the lemma of each meaning under Laws/Keeps…. -/

namespace Sys2Proof.Machine

theorem exec_keeps {q : List Instr} {s : State} (i : Instr) (h : Keeps q s) : KeepsO q (exec i s) := by
  cases i with
  | registerWrite => exact keep_execRegisterWrite _ _ _ h
  | rcFieldRead => exact keep_execRcFieldRead _ _ h
  | writeLowHalf => exact keep_execWriteLowHalf _ _ _ h
  | writeHighHalf => exact keep_execWriteHighHalf _ _ _ h
  | readLowHalf => exact keep_execReadLowHalf _ _ h
  | readHighHalf => exact keep_execReadHighHalf _ _ h
  | arbitrationTick => exact keep_execArbitrationTick _ h
  | clockLoss => exact keep_execClockLoss _ h
  | refClockLoss => exact keep_execRefClockLoss h
  | writeUnderrun => exact keep_execWriteUnderrun _ h
  | doorbellWrite => exact keep_execDoorbellWrite _ _ _ h
  | plovaLine => exact keep_execPlovaLine _ _ h
  | lineEditCharacter => exact keep_execLineEditCharacter _ _ h
  | uartBreak => exact keep_execUartBreak _ h
  | tcpConnect => exact keep_execTcpConnect _ h
  | tcpClose => exact keep_execTcpClose _ h
  | tcpIdleTimeout => exact keep_execTcpIdleTimeout _ h
  | serviceTimeout => exact keep_execServiceTimeout _ h
  | level => exact keep_execLevel _ _ h
  | session => exact keep_execSession _ _ _ _ _ h
  | sessionQuery => exact keep_execSessionQuery _ h
  | lockMotion => exact keep_execLockMotion _ h
  | freeMotion => exact keep_execFreeMotion _ h
  | helpQuery => exact keep_execHelpQuery _ _ h
  | idQuery => exact keep_execIdQuery _ h
  | stateQuery => exact keep_execStateQuery _ h
  | timeQuery => exact keep_execTimeQuery _ h
  | errQuery => exact keep_execErrQuery _ _ _ h
  | errClear => exact keep_execErrClear _ h
  | errCtlClear => exact keep_execErrCtlClear _ _ h
  | contactQuery => exact keep_execContactQuery _ h
  | peek => exact keep_execPeek _ _ _ h
  | poke => exact keep_execPoke _ _ _ h
  | load => exact keep_execLoad _ _ h
  | loadComplete => exact keep_execLoadComplete _ h
  | unload => exact keep_execUnload _ h
  | unloadComplete => exact keep_execUnloadComplete _ h
  | cartQuery => exact keep_execCartQuery _ h
  | recordStart => exact keep_execRecordStart _ h
  | recordStartComplete => exact keep_execRecordStartComplete h
  | recordStop => exact keep_execRecordStop _ h
  | recordStopComplete => exact keep_execRecordStopComplete h
  | flush => exact keep_execFlush _ h
  | flushDatasetClose => exact keep_execFlushDatasetClose h
  | motionStart => exact keep_execMotionStart _ _ _ h
  | motionStop => exact keep_execMotionStop _ h
  | speed => exact keep_execSpeed _ _ h
  | locate => exact keep_execLocate _ _ h
  | locateLpw => exact keep_execLocateLpw _ _ h
  | locateComplete => exact keep_execLocateComplete _ _ _ h
  | locateProbe => exact keep_execLocateProbe _ h
  | motionQuery => exact keep_execMotionQuery _ h
  | tripQuery => exact keep_execTripQuery _ h
  | tripClear => exact keep_execTripClear _ _ h
  | mdrTripclrWrite => exact keep_execMdrTripclrWrite _ _ h
  | tenantQuery => exact keep_execTenantQuery _ _ h
  | tenant => exact keep_execTenant _ _ _ _ _ h
  | queueCreate => exact keep_execQueueCreate _ _ _ _ _ _ h
  | queueDelete => exact keep_execQueueDelete _ _ h
  | queueQuery => exact keep_execQueueQuery _ _ h
  | qcmdCreate => exact keep_execQcmdCreate _ _ h
  | qcmdDelete => exact keep_execQcmdDelete _ _ h
  | resetFunction => exact keep_execResetFunction _ _ h
  | power => exact keep_execPower _ _ h
  | powerQuery => exact keep_execPowerQuery _ h
  | resetWarm => exact keep_execResetWarm _ _ h
  | resetDomain => exact keep_execResetDomain _ _ h
  | nodeQuery => exact keep_execNodeQuery _ h
  | census => exact keep_execCensus _ h
  | censusQuery => exact keep_execCensusQuery _ h
  | testCodec => exact keep_execTestCodec _ h
  | testProof => exact keep_execTestProof _ h
  | testBoot => exact keep_execTestBoot _ h
  | testBootComplete => exact keep_execTestBootComplete _ _ h
  | testTank => exact keep_execTestTank _ _ h
  | key => exact keep_execKey _ _ _ _ _ h
  | keyQuery => exact keep_execKeyQuery _ _ h
  | keyErase => exact keep_execKeyErase _ _ _ h
  | fwupdateStart => exact keep_execFwupdateStart _ _ h
  | flashWrite => exact keep_execFlashWrite _ _ _ h
  | fwupdateCommit => exact keep_execFwupdateCommit _ _ h
  | fwupdateCommitComplete => exact keep_execFwupdateCommitComplete h
  | fwupdateAbort => exact keep_execFwupdateAbort _ h
  | pwrgdRise => exact keep_execPwrgdRise _ _ _ h
  | pwrgdFall => exact keep_execPwrgdFall h
  | fuseMapLoad => exact keep_execFuseMapLoad _ _ h
  | bootImageLoad => exact keep_execBootImageLoad _ _ h
  | bootSelfTest => exact keep_execBootSelfTest _ _ _ h
  | fixerJournalScan => exact keep_execFixerJournalScan h
  | firstPrompt => exact keep_execFirstPrompt _ h
  | warmReset => exact keep_execWarmReset _ h
  | domainReset => exact keep_execDomainReset _ h
  | rstctlWarm => exact keep_execRstctlWarm _ _ h
  | rstctlDomain => exact keep_execRstctlDomain _ _ h
  | perstAssert => exact keep_execPerstAssert h
  | watchdogExpiry => exact keep_execWatchdogExpiry h
  | watchdogWrite => exact keep_execWatchdogWrite _ _ h
  | functionLevelReset => exact keep_execFunctionLevelReset _ h
  | pfFlr => exact keep_execPfFlr h
  | vfEnable => exact keep_execVfEnable _ _ h
  | vfDisable => exact keep_execVfDisable h
  | drtTenantDisable => exact keep_execDrtTenantDisable _ _ h
  | drtDisable => exact keep_execDrtDisable _ h
  | msixTableWrite => exact keep_execMsixTableWrite _ _ _ h
  | drtOpen => exact keep_execDrtOpen _ _ h
  | drtData => exact keep_execDrtData _ _ h
  | drtClose => exact keep_execDrtClose _ h
  | drtKeepalive => exact keep_execDrtKeepalive _ h
  | drtAckTimer => exact keep_execDrtAckTimer _ h
  | drtGapTimer => exact keep_execDrtGapTimer _ h
  | drtIdleTimeout => exact keep_execDrtIdleTimeout _ h
  | arpRequest => exact keep_execArpRequest _ _ _ h
  | icmpEcho => exact keep_execIcmpEcho _ _ _ _ h
  | ethLinkChange => exact keep_execEthLinkChange _ _ _ _ h
  | gptpSync => exact keep_execGptpSync _ _ h
  | gptpSyncTimeout => exact keep_execGptpSyncTimeout h
  | descriptorFetchWrite => exact keep_execDescriptorFetchWrite _ _ h
  | descriptorFetchRead => exact keep_execDescriptorFetchRead _ _ h
  | descriptorFetchBarrier => exact keep_execDescriptorFetchBarrier _ _ h
  | descriptorFetchNop => exact keep_execDescriptorFetchNop _ _ h
  | descriptorDmaError => exact keep_execDescriptorDmaError _ h
  | recordDmaComplete => exact keep_execRecordDmaComplete _ _ _ h
  | recordDmaError => exact keep_execRecordDmaError _ _ h
  | reservationCharge => exact keep_execReservationCharge h
  | msixCoalesceTimeout => exact keep_execMsixCoalesceTimeout _ h
  | readComplete => exact keep_execReadComplete _ _ h
  | readTimeout => exact keep_execReadTimeout _ _ h
  | cartReadingIdle => exact keep_execCartReadingIdle h
  | notifyHoldoffEnd => exact keep_execNotifyHoldoffEnd _ _ h
  | overrateCheck => exact keep_execOverrateCheck _ _ h
  | tvecWrite => exact keep_execTvecWrite _ _ _ h
  | qvecWrite => exact keep_execQvecWrite _ _ _ h
  | tshareWrite => exact keep_execTshareWrite _ _ _ h
  | gcapWrite => exact keep_execGcapWrite _ _ h
  | schFeed => exact keep_execSchFeed _ h
  | bulkStarve => exact keep_execBulkStarve _ h
  | blockEncodeComplete => exact keep_execBlockEncodeComplete _ _ h
  | blockPlace => exact keep_execBlockPlace h
  | rdcEngineEnableWrite => exact keep_execRdcEngineEnableWrite _ _ h
  | enlEngineEnableWrite => exact keep_execEnlEngineEnableWrite _ _ h
  | blockExpand => exact keep_execBlockExpand _ _ _ _ _ _ h
  | codecTestPeriod => exact keep_execCodecTestPeriod h
  | codecTestSlice => exact keep_execCodecTestSlice _ _ _ h
  | codecTestWaitExpiry => exact keep_execCodecTestWaitExpiry _ h
  | tankRead => exact keep_execTankRead _ _ _ _ _ h
  | tankPartialWrite => exact keep_execTankPartialWrite _ _ _ _ _ _ _ h
  | tankAtomicAdd => exact keep_execTankAtomicAdd _ _ _ _ _ _ _ h
  | tankAtomicSwap => exact keep_execTankAtomicSwap _ _ _ _ _ _ _ h
  | requestAgeExpiry => exact keep_execRequestAgeExpiry _ _ _ h
  | tankWindowAccess => exact keep_execTankWindowAccess _ _ _ _ _ h
  | marchBurst => exact keep_execMarchBurst _ h
  | scratchpadFetchError => exact keep_execScratchpadFetchError _ _ _ _ h
  | scratchpadReloadDone => exact keep_execScratchpadReloadDone h
  | spdRemapAdd => exact keep_execSpdRemapAdd _ _ h
  | datasetClose => exact keep_execDatasetClose h
  | datasetStreamStart => exact keep_execDatasetStreamStart h
  | frameWrite => exact keep_execFrameWrite _ h
  | frameVerdict => exact keep_execFrameVerdict _ _ h
  | datasetDecode => exact keep_execDatasetDecode _ h
  | frameRead => exact keep_execFrameRead _ _ h
  | lossOfLock => exact keep_execLossOfLock _ _ h
  | readRetry => exact keep_execReadRetry h
  | loupeArm => exact keep_execLoupeArm _ _ h
  | loupeFire => exact keep_execLoupeFire _ _ h
  | loupeCaptureEnd => exact keep_execLoupeCaptureEnd h
  | proofCheckpoint => exact keep_execProofCheckpoint _ _ h
  | servoFrame => exact keep_execServoFrame _ _ _ _ _ h
  | servoLostTimeout => exact keep_execServoLostTimeout h
  | lpwokStopTimeout => exact keep_execLpwokStopTimeout h
  | turnaround => exact keep_execTurnaround h
  | speedEvaluation => exact keep_execSpeedEvaluation h
  | gapTimeout => exact keep_execGapTimeout h
  | backhitchResume => exact keep_execBackhitchResume h
  | packBurstStart => exact keep_execPackBurstStart h
  | carrierPeriod => exact keep_execCarrierPeriod _ _ _ h
  | catchEnd => exact keep_execCatchEnd _ _ _ _ h
  | alignEnd => exact keep_execAlignEnd _ h
  | observerHandover => exact keep_execObserverHandover _ h
  | startFail => exact keep_execStartFail _ h
  | motionStartComplete => exact keep_execMotionStartComplete h
  | controlledStopEnd => exact keep_execControlledStopEnd h
  | tripInput => exact keep_execTripInput _ _ _ h
  | overcurrent => exact keep_execOvercurrent _ h
  | blankingEnd => exact keep_execBlankingEnd _ h
  | followEnd => exact keep_execFollowEnd _ h
  | fanCurveEval => exact keep_execFanCurveEval _ _ h
  | fanStall => exact keep_execFanStall h
  | fanRestart => exact keep_execFanRestart _ h
  | currentLoop => exact keep_execCurrentLoop _ h
  | coilLoop => exact keep_execCoilLoop h
  | latLoop => exact keep_execLatLoop h
  | reelSpeedLoop => exact keep_execReelSpeedLoop h
  | tensionLoop => exact keep_execTensionLoop h
  | fanLoop => exact keep_execFanLoop h
  | loopBankRequest => exact keep_execLoopBankRequest _ _ _ h
  | loopModeWrite => exact keep_execLoopModeWrite _ _ _ h
  | coefficientWrite => exact keep_execCoefficientWrite _ _ _ _ _ _ h
  | rcClear => exact keep_execRcClear _ _ h
  | radiusWrite => exact keep_execRadiusWrite _ _ h
  | accelTransaction => exact keep_execAccelTransaction _ h
  | quiesceComplete => exact keep_execQuiesceComplete _ h
  | wakeEvent => exact keep_execWakeEvent _ h
  | saveListAccess => exact keep_execSaveListAccess _ _ _ h
  | ignitionChange => exact keep_execIgnitionChange _ h
  | ignitionHoldExpiry => exact keep_execIgnitionHoldExpiry h
  | ignitionDrainTimeout => exact keep_execIgnitionDrainTimeout h
  | holdupOkChange => exact keep_execHoldupOkChange _ h
  | pfailAssert => exact keep_execPfailAssert _ h
  | dumpComplete => exact keep_execDumpComplete _ h
  | cartInsert => exact keep_execCartInsert _ _ _ _ h
  | cartRemove => exact keep_execCartRemove h
  | portTrained => exact keep_execPortTrained _ _ _ h
  | trainingBurst => exact keep_execTrainingBurst _ h
  | linkFrameReceived => exact keep_execLinkFrameReceived _ _ h
  | linkRetry => exact keep_execLinkRetry _ h
  | linkIdleSend => exact keep_execLinkIdleSend _ h
  | portDown => exact keep_execPortDown _ _ h
  | censusAutoStart => exact keep_execCensusAutoStart h
  | creqReceived => exact keep_execCreqReceived _ _ _ _ h
  | crspReceived => exact keep_execCrspReceived _ _ _ _ _ _ _ _ h
  | probeExchange => exact keep_execProbeExchange _ _ h
  | commitReceived => exact keep_execCommitReceived _ h
  | timeFrameSend => exact keep_execTimeFrameSend h
  | timeFrameReceived => exact keep_execTimeFrameReceived _ _ _ _ _ h
  | cmdPlova => exact keep_execCmdPlova _ _ _ _ h
  | cmdReset => exact keep_execCmdReset _ _ _ _ h
  | cmdPower => exact keep_execCmdPower _ _ _ h
  | cmdWake => exact keep_execCmdWake _ _ _ h
  | cmdPoke => exact keep_execCmdPoke _ _ _ _ h
  | cmdPeek => exact keep_execCmdPeek _ _ _ h
  | rspReceived => exact keep_execRspReceived _ _ _ _ _ _ _ h
  | ctmoExpiry => exact keep_execCtmoExpiry _ h
  | evtReceived => exact keep_execEvtReceived _ _ _ _ h
  | xlkWakeWrite => exact keep_execXlkWakeWrite _ _ h
  | stripeGroupEnable => exact keep_execStripeGroupEnable _ _ _ h
  | stripeRowClose => exact keep_execStripeRowClose _ h
  | stripeRetransmit => exact keep_execStripeRetransmit _ _ _ h
  | lendAlloc => exact keep_execLendAlloc _ h
  | lendGrant => exact keep_execLendGrant _ h
  | lendPut => exact keep_execLendPut _ h
  | lendGet => exact keep_execLendGet _ h
  | lendData => exact keep_execLendData _ h
  | lendFree => exact keep_execLendFree _ h
  | recordSpill => exact keep_execRecordSpill h
  | recordRecall => exact keep_execRecordRecall h
  | characterReceived => exact keep_execCharacterReceived _ _ h
  | referenceClockReturn => exact keep_execReferenceClockReturn h
  | supplyMonitorReset => exact keep_execSupplyMonitorReset _ h
  | perstDeassert => exact keep_execPerstDeassert h
  | parkOrderedSet => exact keep_execParkOrderedSet _ h
  | brakeToStandstill => exact keep_execBrakeToStandstill _ h
  | unsupportedFrame => exact keep_execUnsupportedFrame _ _ h

/-- An empty queue idles; else the front command leaves the queue and the rest of the state meets the invariant as before. -/
theorem step_keeps {s : State} (h : Keeps s.pending s) : KeepsO s.pending.tail (step s) := by
  unfold step
  split
  case h_1 he =>
    refine keepsO_next ?_
    rw [he] at h
    rwa [he]
  case h_2 c rest he =>
    rw [he]
    exact exec_keeps c { h with pending := rfl }

end Sys2Proof.Machine

open Sys2Proof.Machine in
/-- Settles O60: the invariant and the queue are what `Keeps` says, and every step carries it. -/
theorem everyStepKeepsTheInvariant : Obligations.EveryStepKeepsTheInvariant := by
  intro s h
  obtain ⟨t, ht, hk⟩ := step_keeps (Keeps.of_inv h)
  exact ⟨t, ht, hk.inv, hk.pending⟩
end

section
/-! SUPPORT. Verbs whose line is turned away before their own work: below their level (02_command_line R61), refused by rescue mode (04_start_up R104), or sent by a session that does not
exist. The verbs are listed by what decides it, the level and whether rescue mode serves them. -/

namespace Sys2Proof.Machine

/-- A verb that needs the level (and that rescue mode serves, or not) gets no work done for this line: whatever it would do, the state that follows is `u`. -/
structure State.TurnsAway (s : State) (ln : Ln) (need : Level) (rescueOk : Bool) (u : State) : Prop where
  unserved : ¬(s.answers ln need ∧ (s.boot.rescue = false ∨ rescueOk = true))
  verb : ∀ b : Ans, s.verb ln need rescueOk b = u

section
variable {s u : State} {ln : Ln} {need : Level} {r : Bool}

theorem State.turnsAway_priv (h : s.present ln.who = true) (hl : (s.levelOf ln.who).num < need.num) : s.TurnsAway ln need r (s.reply ln [] (.er .priv [])) :=
  ⟨fun hs => Nat.not_le.mpr hl hs.1.2, fun _ => verb_priv h hl⟩

theorem State.turnsAway_rescue (h : s.answers ln need) (hr : s.boot.rescue = true) : s.TurnsAway ln need false (s.reply ln [] (.er .rescue [])) :=
  ⟨by simp [hr], fun _ => verb_rescue h hr⟩

theorem State.turnsAway_absent (h : s.present ln.who = false) : s.TurnsAway ln need r s :=
  ⟨by simp [h], fun _ => verb_absent h⟩

theorem State.TurnsAway.next (h : s.TurnsAway ln need r u) (b : Ans) : Host.Outcome.next (φ := Fault) (ρ := Refusal) (s.verb ln need r b) = .next u := by rw [h.verb b]

end

/-! ### The verbs -/

section
variable (ln : Ln) (t : Tenant) (n : Nat) (b : Bool)

/-- The verbs of level OPERATE that rescue mode refuses. -/
def operateVerbs (c3 : Option Bool) (c : Option Cls) (w r : Option Nat) (d : Option DWord) (u : TripArg) (st : StepArg) : List Instr :=
  [.resetFunction ln t, .lockMotion ln, .freeMotion ln, .load ln c3, .unload ln, .recordStart ln, .recordStop ln, .flush ln, .locate ln n, .locateLpw ln n, .tenant ln t c w r,
    .queueCreate ln t w d n r, .queueDelete ln n, .tripClear ln u, .motionStart ln st b, .motionStop ln, .speed ln st]

/-- The queries that rescue mode refuses. -/
def viewVerbs : List Instr :=
  [.timeQuery ln, .cartQuery ln, .powerQuery ln, .nodeQuery ln, .censusQuery ln, .keyQuery ln t, .tenantQuery ln t, .queueQuery ln n, .tripQuery ln, .motionQuery ln]

/-- The verbs of level SERVICE that rescue mode refuses. -/
def serviceVerbs (k : KeyKind) (d : DWord) (e : EraseArg) (bk : Bank) : List Instr :=
  [.testProof ln, .errClear ln, .testCodec ln, .resetDomain ln n, .key ln k t n d, .keyErase ln t e, .testTank (.line ln) bk]

/-- The verbs of level SERVICE that rescue mode serves too (R104). -/
def rescueVerbs (ws : List Word) (crc : Word) : List Instr :=
  [.testBoot ln, .resetWarm ln b, .fwupdateStart ln n, .flashWrite ln n ws, .fwupdateCommit ln crc, .fwupdateAbort ln]

end

/-! ### What they come to -/

section
variable {s u : State} {ln : Ln}

/-- FLUSH waits for its dataset only for a line that is served (R84). -/
theorem execFlush_away (h : s.TurnsAway ln .operate false u) : execFlush ln s = .next u := by
  have hu := h.unserved
  simp only [Bool.false_eq_true, or_false] at hu
  unfold execFlush
  rw [if_neg fun hs => hu ⟨⟨hs.1, hs.2.1⟩, hs.2.2.1⟩]
  exact h.next _

/-- LOCATE says what it did not find only for a line that is served (R348). -/
theorem execLocate_away (h : s.TurnsAway ln .operate false u) (ds : Nat) : execLocate ln ds s = .next u := by
  have hu := h.unserved
  simp only [Bool.false_eq_true, or_false] at hu
  unfold execLocate
  split
  · exact h.next _
  · split
    · exact h.next _
    · split
      · exact h.next _
      · rw [if_neg fun hs => hu ⟨⟨hs.1, hs.2.1⟩, hs.2.2⟩]
        exact h.next _

theorem mayOrder_iff (need : Level) : s.mayOrder ln need = true ↔ s.answers ln need := by
  simp [State.mayOrder]

/-- RESET DOMAIN resets only for a line that is served (R90). -/
theorem execResetDomain_away (h : s.TurnsAway ln .service false u) (d : Nat) : execResetDomain ln d s = .next u := by
  have hu := h.unserved
  rw [← mayOrder_iff] at hu
  have hn : ∀ bad, ¬(s.mayOrder ln .service && bad && !s.boot.rescue) = true := by
    intro bad hc
    simp only [Bool.and_eq_true, Bool.not_eq_true'] at hc
    exact hu ⟨hc.1.1, .inl hc.2⟩
  unfold execResetDomain
  dsimp only
  rw [if_neg (hn _)]
  exact h.next _

/-- RESET WARM resets only for a line that is served (R90). -/
theorem execResetWarm_away (h : s.TurnsAway ln .service true u) (keep : Bool) : execResetWarm ln keep s = .next u := by
  have hu := h.unserved
  rw [← mayOrder_iff] at hu
  have hn : ¬s.mayOrder ln .service = true := fun hm => hu ⟨hm, .inr rfl⟩
  unfold execResetWarm
  dsimp only
  rw [if_neg hn]
  exact h.next _

variable (t : Tenant) (n : Nat) (b : Bool)

theorem operateVerbs_away (h : s.TurnsAway ln .operate false u) (c3 : Option Bool) (c : Option Cls) (w r : Option Nat) (d : Option DWord) (x : TripArg) (st : StepArg) :
    (operateVerbs ln t n b c3 c w r d x st).Forall fun i => exec i s = .next u :=
  ⟨h.next _, h.next _, h.next _, h.next _, h.next _, h.next _, h.next _, execFlush_away h, execLocate_away h n, h.next _, h.next _, h.next _, h.next _, h.next _, h.next _, h.next _, h.next _⟩

theorem viewVerbs_away (h : s.TurnsAway ln .view false u) : (viewVerbs ln t n).Forall fun i => exec i s = .next u :=
  ⟨h.next _, h.next _, h.next _, h.next _, h.next _, h.next _, h.next _, h.next _, h.next _, h.next _⟩

theorem serviceVerbs_away (h : s.TurnsAway ln .service false u) (k : KeyKind) (d : DWord) (e : EraseArg) (bk : Bank) : (serviceVerbs ln t n k d e bk).Forall fun i => exec i s = .next u :=
  ⟨h.next _, h.next _, h.next _, execResetDomain_away h n, h.next _, h.next _, h.next _⟩

theorem rescueVerbs_away (h : s.TurnsAway ln .service true u) (ws : List Word) (crc : Word) : (rescueVerbs ln n b ws crc).Forall fun i => exec i s = .next u :=
  ⟨h.next _, execResetWarm_away h b, h.next _, h.next _, h.next _, h.next _⟩

end

end Sys2Proof.Machine

open Sys2Proof.Machine in
/-- Settles O53: each list of verbs is turned away as its lines are, below the level, in rescue mode, or absent. -/
theorem verbsNeedTheirLevel : Obligations.VerbsNeedTheirLevel := by
  refine ⟨?operatePriv, ?servicePriv, ?operateRescue, ?serviceRescue, ?operateAbsent, ?serviceAbsent⟩
  case operatePriv =>
    intro s ln t n c3 c w r d x st b hp hl
    exact operateVerbs_away t n b (State.turnsAway_priv hp hl) c3 c w r d x st
  case servicePriv =>
    intro s ln t n k d e bk b ws crc hp hl
    exact List.forall_append.mpr ⟨serviceVerbs_away t n (State.turnsAway_priv hp hl) k d e bk, rescueVerbs_away n b (State.turnsAway_priv hp hl) ws crc⟩
  case operateRescue =>
    intro s ln t n c3 c w r d x st b hp hl hr
    exact List.forall_append.mpr ⟨operateVerbs_away t n b (State.turnsAway_rescue ⟨hp, hl⟩ hr) c3 c w r d x st, viewVerbs_away t n (State.turnsAway_rescue ⟨hp, Nat.zero_le _⟩ hr)⟩
  case serviceRescue =>
    intro s ln t n k d e bk hp hl hr
    exact serviceVerbs_away t n (State.turnsAway_rescue ⟨hp, hl⟩ hr) k d e bk
  case operateAbsent =>
    intro s ln t n c3 c w r d x st b hp
    exact List.forall_append.mpr ⟨operateVerbs_away t n b (State.turnsAway_absent hp) c3 c w r d x st, viewVerbs_away t n (State.turnsAway_absent hp)⟩
  case serviceAbsent =>
    intro s ln t n k d e bk b ws crc hp
    exact List.forall_append.mpr ⟨serviceVerbs_away t n (State.turnsAway_absent hp) k d e bk, rescueVerbs_away n b (State.turnsAway_absent hp) ws crc⟩
end

section
/-! SUPPORT. What LEVEL does for a session that is there (02_command_line R61, R62, R81): one lemma for each argument, and for each end of a response. -/

namespace Sys2Proof.Machine

section
variable {s : State} {ln : Ln} {n : Sid}

theorem exec_level (arg : LevelArg) : exec (.level ln arg) s = execLevel ln arg s := rfl

theorem exec_level_view (hw : ln.who = .sess n) (hp : s.present ln.who = true) : exec (.level ln .view) s = .next ((s.drop n .view "CMD").reply ln [] (.ok [⟨"LEVEL", .word "V"⟩])) := by
  simp only [exec_level, execLevel, hp, Bool.true_eq_false, if_false]
  rw [hw]

/-- The level a TCP session is refused (R61): not from SERVICE, and only while OPOK is 0. -/
theorem exec_level_operate (hw : ln.who = .sess n) (hp : s.present ln.who = true) (h : n.val < 2 ∨ (s.ses n).level = .service ∨ s.bit F.PCL_TCPCFG_OPOK = true) :
    exec (.level ln .operate) s = .next ((s.drop n .operate "CMD").reply ln [] (.ok [⟨"LEVEL", .word "O"⟩])) := by
  have hn : ¬(isUart n = false ∧ (s.ses n).level ≠ .service ∧ s.bit F.PCL_TCPCFG_OPOK = false) := by
    rintro ⟨hu, hl, ho⟩
    simp_all [isUart]
  simp only [exec_level, execLevel, hp, Bool.true_eq_false, if_false]
  rw [hw]
  exact if_neg hn

theorem exec_level_noremote (hw : ln.who = .sess n) (hp : s.present ln.who = true) (ht : 2 ≤ n.val) (hl : (s.ses n).level ≠ .service) (ho : s.bit F.PCL_TCPCFG_OPOK = false) :
    exec (.level ln .operate) s = .next (s.reply ln [] (.er .noremote [])) := by
  have hu : isUart n = false := decide_eq_false (Nat.not_lt.mpr ht)
  simp only [exec_level, execLevel, hp, Bool.true_eq_false, if_false]
  rw [hw]
  exact if_pos ⟨hu, hl, ho⟩

theorem exec_level_challenge (hw : ln.who = .sess n) (hp : s.present ln.who = true) :
    exec (.level ln .challenge) s =
      .next (({ s with freeCtr := s.freeCtr + 4 }.setSes n { s.ses n with chal := some (drawChal s.freeCtr, s.us) }).reply ln [] (.ok [⟨"CHAL", .chars (drawChal s.freeCtr)⟩])) := by
  simp only [exec_level, execLevel, hp, Bool.true_eq_false, if_false]
  rw [hw]

theorem exec_level_response (hw : ln.who = .sess n) (hp : s.present ln.who = true) (r : List Char) : exec (.level ln (.response r)) s = .next (s.levelResponse ln n r) := by
  simp only [exec_level, execLevel, hp, Bool.true_eq_false, if_false]
  rw [hw]

/-- A challenge is of the 32 characters (R62). -/
theorem drawChal_chars (k : Nat) : ∀ x ∈ drawChal k, ∃ i : Fin 32, x = chalChar i := by
  intro x hx
  simp only [drawChal, List.mem_cons, List.not_mem_nil, or_false] at hx
  rcases hx with h | h | h | h <;> exact ⟨_, h⟩

/-! ### The ends of a response (R62) -/

theorem State.levelResponse_noChal (hc : (s.ses n).chal = none) (r : List Char) : s.levelResponse ln n r = s.reply ln [] (.er .nochal []) := by
  simp only [State.levelResponse, hc]

/-- The session at SERVICE, its challenge spent, and the record of the change where it was not there before. -/
def State.unlocked (s : State) (n : Sid) : State :=
  let t := s.setSes n { s.ses n with chal := none, level := .service }
  if (s.ses n).level = .service then t else t.log { errRec .level .pcl [⟨"NEW", .word "S"⟩] with flags := infoFlag, src := .session n.val }

theorem State.unlocked_core (s : State) (n : Sid) : ((s.unlocked n).ses n).core = ({ s.ses n with chal := none, level := .service } : Session).core := by
  unfold State.unlocked
  dsimp only
  split
  · rw [ses_setSes_same]
  · rw [log_core, ses_setSes_same]

/-- A response that comes in time, with no lockout and no other session at SERVICE, is compared. -/
theorem State.levelResponse_compared {c : List Char} {t : Nat} (hc : (s.ses n).chal = some (c, t)) (ht : s.us ≤ t + 60000000) (hl : s.lockedOut = false)
    (hs : s.svcHolder = none ∨ s.svcHolder = some n) (r : List Char) :
    s.levelResponse ln n r = if r.map upper ≠ s.goodResponse c then (s.deny n).reply ln [] (.er .denied []) else (s.unlocked n).reply ln [] (.ok [⟨"LEVEL", .word "S"⟩]) := by
  have hlate : ¬ t + chalUs < s.us := Nat.not_lt.mpr ht
  unfold State.levelResponse
  simp only [hc, hlate, hl, Bool.false_eq_true, if_false]
  rcases hs with hs | hs
  · simp only [hs, Bool.false_eq_true, if_false]
    rfl
  · simp only [hs, bne_self_eq_false, Bool.false_eq_true, if_false]
    rfl

end

end Sys2Proof.Machine

open Sys2Proof.Machine in
/-- Settles O1: a lemma for each argument, and the two outcomes of a compared response. -/
theorem levelVerbChangesLevel : Obligations.LevelVerbChangesLevel := by
  refine ⟨fun s ln n => exec_level_view, fun s ln n => exec_level_operate, fun s ln n => exec_level_noremote, ?challenge, ?noChal, ?right, ?wrong⟩
  case challenge => exact fun s ln n hw hp => ⟨drawChal s.freeCtr, s.freeCtr + 4, rfl, drawChal_chars _, exec_level_challenge hw hp⟩
  case noChal =>
    intro s ln n r hw hp hc
    rw [exec_level_response hw hp, State.levelResponse_noChal hc]
  case right =>
    intro s ln n r c t hw hp hc ht hl hs hr
    have hcore := s.unlocked_core n
    refine ⟨s.unlocked n, ?_, congrArg Session.level hcore, congrArg Session.chal hcore⟩
    rw [exec_level_response hw hp, State.levelResponse_compared hc ht hl hs, if_neg (not_not.mpr hr)]
  case wrong =>
    intro s ln n r c t hw hp hc ht hl hs hr
    rw [exec_level_response hw hp, State.levelResponse_compared hc ht hl hs, if_pos hr]
end

section
/-! SUPPORT. SESSION, SESSION?, LOCK MOTION and FREE MOTION on a line that is served (02_command_line R74; 03_command_reference R81). -/

namespace Sys2Proof.Machine

section
variable {s : State} {ln : Ln}

theorem exec_session {n : Sid} {echo edit crc : Option Bool} {ev : Option EvFilter} (hw : ln.who = .sess n) (h : s.answers ln .view)
    (hsome : ¬(echo = none ∧ edit = none ∧ crc = none ∧ ev = none)) {y : Session}
    (hy : y = { s.ses n with echo := echo.getD (s.ses n).echo, edit := edit.getD (s.ses n).edit, crc := crc.getD (s.ses n).crc, filter := ev.getD (s.ses n).filter }) :
    exec (.session ln echo edit crc ev) s = .next ((s.setSes n y).reply ln [] (.ok (settings y))) := by
  subst hy
  refine congrArg Host.Outcome.next (Eq.trans ?_ (verb_ok_any h))
  rw [hw]
  exact congrArg _ (if_neg hsome)

theorem exec_session_bare (h : s.answers ln .view) : exec (.session ln none none none none) s = .next (s.reply ln [] (.er .args [])) := by
  refine congrArg Host.Outcome.next (Eq.trans ?_ (verb_er_any h))
  cases ln.who <;> rfl

theorem exec_sessionQuery {n : Sid} (hw : ln.who = .sess n) (h : s.answers ln .view) :
    exec (.sessionQuery ln) s = .next (s.reply ln [] (.ok
      ([⟨"S", .num n.val⟩, ⟨"PORT", .word (if n.val = 0 then "UART0" else if n.val = 1 then "UART1" else "TCP")⟩, ⟨"LEVEL", .word (levelLetter (s.ses n).level)⟩] ++ settings (s.ses n)))) := by
  refine congrArg Host.Outcome.next (Eq.trans ?_ (verb_ok_any h))
  rw [hw]

variable (h : s.serves ln .operate)
include h

theorem exec_lockMotion_free (hm : s.con.mlock = none) : exec (.lockMotion ln) s = .next ({ s with con.mlock := some (Who.owner ln.who) }.reply ln [] (.ok [⟨"LOCK", whoVal ln.who⟩])) := by
  refine congrArg Host.Outcome.next (Eq.trans ?_ (verb_ok h false))
  rw [hm]

theorem exec_lockMotion_held (hm : s.con.mlock = some (Who.owner ln.who)) : exec (.lockMotion ln) s = .next (s.reply ln [] (.ok [⟨"LOCK", whoVal ln.who⟩])) := by
  refine congrArg Host.Outcome.next (Eq.trans ?_ (verb_ok h false))
  rw [hm]
  exact congrArg _ (if_pos rfl)

theorem exec_lockMotion_other {w : Who} (hm : s.con.mlock = some w) (hw : w ≠ Who.owner ln.who) : exec (.lockMotion ln) s = .next (s.reply ln [] (.er .held [⟨"HOLDER", whoVal w⟩])) := by
  refine congrArg Host.Outcome.next (Eq.trans ?_ (verb_er h false))
  rw [hm]
  exact congrArg _ (if_neg hw)

theorem exec_freeMotion_held (hm : s.con.mlock = some (Who.owner ln.who)) : exec (.freeMotion ln) s = .next ({ s with con.mlock := none }.reply ln [] (.ok [⟨"LOCK", .word "NONE"⟩])) := by
  have hl : s.holdsLock ln = true := beq_iff_eq.mpr hm
  refine congrArg Host.Outcome.next (Eq.trans ?_ (verb_ok h false))
  exact congrArg _ (if_pos hl)

theorem exec_freeMotion_other (hm : s.con.mlock ≠ some (Who.owner ln.who)) : exec (.freeMotion ln) s = .next (s.reply ln [] (.er .nolock [])) := by
  have hl : ¬ s.holdsLock ln = true := fun hb => hm (beq_iff_eq.mp hb)
  refine congrArg Host.Outcome.next (Eq.trans ?_ (verb_er h false))
  exact congrArg _ (if_neg hl)

end

end Sys2Proof.Machine

open Sys2Proof.Machine in
/-- Settles O2: one lemma for each clause. -/
theorem sessionVerbsAnswer : Obligations.SessionVerbsAnswer :=
  ⟨fun _ _ _ _ _ _ _ hw h hsome => exec_session hw h hsome rfl, fun _ _ => exec_session_bare, fun _ _ _ => exec_sessionQuery, fun _ _ => exec_lockMotion_free, fun _ _ => exec_lockMotion_held,
    fun _ _ _ h => exec_lockMotion_other h, fun _ _ => exec_freeMotion_held, fun _ _ => exec_freeMotion_other⟩
end

section
/-! SUPPORT. How Plova sessions open and end (02_command_line R41 to R44, R63): one lemma for each outcome of a command. -/

namespace Sys2Proof.Machine

section
variable {s : State} {n : Sid}

theorem notUart (h : 2 ≤ n.val) : isUart n = false := decide_eq_false (Nat.not_lt.mpr h)

/-! ### TCP connections (R41 to R43) -/

theorem tcp_session (h : 2 ≤ n.val) : n = 2 ∨ n = 3 ∨ n = 4 ∨ n = 5 := by
  revert n
  decide

theorem exec_tcpConnect_opens {port : Fin 2} (ht : 2 ≤ n.val) (hl : s.listens port = true) (hn : (s.ses n).isOpen = false) (hm : ∀ m : Sid, 2 ≤ m.val → m.val < n.val → (s.ses m).isOpen = true) :
    exec (.tcpConnect port) s = .next (s.tcpOpen n port) := by
  change execTcpConnect port s = _
  unfold execTcpConnect
  rw [if_neg (by simp [hl])]
  rcases tcp_session ht with rfl | rfl | rfl | rfl
  · rw [if_pos hn]
  · rw [if_neg (by simp [hm 2]), if_pos hn]
  · rw [if_neg (by simp [hm 2]), if_neg (by simp [hm 3]), if_pos hn]
  · rw [if_neg (by simp [hm 2]), if_neg (by simp [hm 3]), if_neg (by simp [hm 4]), if_pos hn]

theorem exec_tcpConnect_deaf {port : Fin 2} (hl : s.listens port = false) : exec (.tcpConnect port) s = .next s := if_pos hl

theorem exec_tcpConnect_refused {port : Fin 2} (hl : s.listens port = true) (ho : ∀ m : Sid, 2 ≤ m.val → (s.ses m).isOpen = true) :
    exec (.tcpConnect port) s = .next (s.emit (.tcpRefused port ⟨[], none, .er .sessions [], false⟩)) := by
  change execTcpConnect port s = _
  unfold execTcpConnect
  rw [if_neg (by simp [hl]), if_neg (by simp [ho 2]), if_neg (by simp [ho 3]), if_neg (by simp [ho 4]), if_neg (by simp [ho 5])]

theorem exec_tcpClose (ht : 2 ≤ n.val) : exec (.tcpClose n) s = .next (s.endSession n "END") := if_neg (by simp [notUart ht])

theorem exec_tcpIdleTimeout (ht : 2 ≤ n.val) (hi : s.getF F.PCL_TCPCFG_IDLE ≠ 0) (ho : (s.ses n).isOpen = true) :
    exec (.tcpIdleTimeout n) s = .next ((s.endSession n "END").emit (.tcpClosed n)) := by
  change execTcpIdleTimeout n s = _
  unfold execTcpIdleTimeout
  rw [if_neg (by simp [notUart ht, hi]), if_neg (by simp [ho])]

/-- Sessions that agree but for their queued events agree in each other field. -/
theorem Session.core_fields {x y : Session} (h : x.core = y.core) :
    x.isOpen = y.isOpen ∧ x.level = y.level ∧ x.buf = y.buf ∧ x.lines = y.lines ∧ x.key = y.key ∧ x.chal = y.chal := by
  simp only [Session.core, Session.mk.injEq] at h
  simp only [h, and_self]

/-! ### Breaks and the SERVICE timeout (R44, R63) -/

/-- A session as a break leaves it, with the settings of its UART (R44). -/
def Session.broken (x : Session) (echo edit : Bool) : Session :=
  { x with
    level := .operate, buf := [], tooLong := false, badChar := false, overrun := false, lastCr := false
    lines := [], key := none, chal := none, echo := echo, edit := edit, crc := false, filter := .all }

/-- What a break takes from its session's sender: the motion lock, an open update, and the news of its flushes. -/
def State.breakFrees (s : State) (n : Sid) : State :=
  let t := (s.releaseLock (.sess n)).abandonUpdate (.sess n)
  { t with con := { t.con with opFlush := t.con.opFlush.filter (fun l => !(ofSes n (some l.2))) } }

/-- The state in which a break has reset its session, before its events leave; a session that was at SERVICE has its record (R63). -/
def State.broken (s : State) (n : Sid) : State :=
  let t := s.breakFrees n
  let u := t.setSes n ((s.ses n).broken (t.uartEcho n) (t.uartEdit n))
  if (s.ses n).level = .service then u.log (leaveRec n "O" "BREAK") else u

theorem State.broken_core (s : State) (n : Sid) : ∃ echo edit, ((s.broken n).ses n).core = ((s.ses n).broken echo edit).core := by
  unfold State.broken
  extract_lets t u
  refine ⟨t.uartEcho n, t.uartEdit n, ?_⟩
  split
  · rw [log_core, ses_setSes_same]
  · rw [ses_setSes_same]

theorem exec_uartBreak {port : Fin 2} (hn : n.val = port.val) (ho : ((s.uartAlive n).ses n).isOpen = true) :
    exec (.uartBreak port) s = .next (((((s.uartAlive n).broken n).flushEvents n).prompt n).rtsFrom (s.uartAlive n) n) := by
  obtain ⟨k, hk⟩ := n
  obtain rfl : k = port.val := hn
  change execUartBreak port s = _
  unfold execUartBreak
  dsimp only
  generalize s.uartAlive ⟨port.val, hk⟩ = w at ho ⊢
  rw [if_neg (by simp [ho])]
  rfl

theorem exec_serviceTimeout (ho : (s.ses n).isOpen = true) (hl : (s.ses n).level = .service) :
    exec (.serviceTimeout n) s = .next ((s.drop n (startLevel n) "TIMEOUT").event n "LEVEL" [] [⟨"NEW", .word (levelLetter (startLevel n))⟩]) := by
  change execServiceTimeout n s = _
  unfold execServiceTimeout
  exact if_neg (by simp [ho, hl])

end

end Sys2Proof.Machine

open Sys2Proof.Machine in
/-- Settles O5: one lemma for each command and outcome. -/
theorem sessionsOpenAndEnd : Obligations.SessionsOpenAndEnd := by
  refine ⟨fun s port n => exec_tcpConnect_opens, fun s port => exec_tcpConnect_deaf, fun s n => exec_tcpClose, fun s n => exec_tcpIdleTimeout, ?uartBreak, fun s n => exec_serviceTimeout⟩
  case uartBreak =>
    intro s w port n hn hw ho
    subst hw
    obtain ⟨a, b, hc⟩ := (s.uartAlive n).broken_core n
    obtain ⟨hopen, hrest⟩ := Session.core_fields hc
    exact ⟨(s.uartAlive n).broken n, exec_uartBreak hn ho, hopen.trans ho, hrest⟩

open Sys2Proof.Machine in
/-- Settles O6: the connection's one output, and its text. -/
theorem fifthConnectionRefused : Obligations.FifthConnectionRefused :=
  fun _ _ hl ho => ⟨exec_tcpConnect_refused hl ho, by decide⟩
end

section
/-! SUPPORT. What a character typed on an open session does to its line (02_command_line R46 to R48, R53, R54). `u` is the state in which the character finds the session: a character on a
UART shows that CKU runs. -/

namespace Sys2Proof.Machine

/-! ### Characters (R46 to R48, R54) -/

section
variable {s u : State} {n : Sid} {c : Char} (hu : u = s.uartAlive n) (ho : (u.ses n).isOpen = true)
include hu ho

theorem exec_characterReceived_control (hc : c.toNat < 32 ∨ 126 < c.toNat) : exec (.characterReceived n c) s = .next (u.setSes n { u.ses n with badChar := true, lastCr := false }) := by
  subst hu
  change execCharacterReceived n c s = _
  unfold execCharacterReceived
  dsimp only
  rw [if_neg (by simp [ho]), if_pos hc]

variable (h1 : 32 ≤ c.toNat) (h2 : c.toNat ≤ 126) (hl : (u.ses n).tooLong = false)
include h1 h2 hl

/-- A printable character that meets a full buffer without flow control is dropped and marks the overrun. -/
theorem exec_characterReceived_full (hn : isUart n = true) (hb : 256 ≤ buffered (u.ses n)) (hf : u.uartFlow n = false) :
    exec (.characterReceived n c) s = .next (u.setSes n { u.ses n with overrun := true, lastCr := false }) := by
  subst hu
  change execCharacterReceived n c s = _
  unfold execCharacterReceived
  dsimp only
  rw [if_neg (by simp [ho]), if_neg (by omega), if_neg (by simp [hl]), if_pos ⟨hn, hb⟩, if_neg (by simp [hf])]

variable (hb : isUart n = true → buffered (u.ses n) < 256)
include hb

/-- One that the buffer has room for goes by the length of the line. -/
theorem exec_characterReceived_room : exec (.characterReceived n c) s =
    if (u.ses n).buf.length < lineMax then .next (((u.setSes n { u.ses n with buf := (u.ses n).buf ++ [c], lastCr := false }).echoTo n [c]).rtsFrom u n)
    else .next (u.setSes n { u.ses n with tooLong := true, lastCr := false }) := by
  subst hu
  have hroom : ¬(isUart n = true ∧ bufMax ≤ buffered ((s.uartAlive n).ses n)) := fun hn => Nat.not_le.mpr (hb hn.1) hn.2
  change execCharacterReceived n c s = _
  unfold execCharacterReceived
  dsimp only
  rw [if_neg (by simp [ho]), if_neg (by omega), if_neg (by simp [hl]), if_neg hroom]

end

/-! ### Editing characters (R53) -/

section
variable {s u : State} {n : Sid} {c : EditChar} (hu : u = s.uartAlive n) (ho : (u.ses n).isOpen = true)
include hu ho

theorem exec_lineEditCharacter_off (he : (u.ses n).edit = false) : exec (.lineEditCharacter n c) s = .next (u.setSes n { u.ses n with badChar := true, lastCr := false }) := by
  subst hu
  change execLineEditCharacter n c s = _
  unfold execLineEditCharacter
  dsimp only
  rw [if_neg (by simp [ho]), if_pos he]

variable (he : (u.ses n).edit = true)
include he

theorem exec_lineEditCharacter_erase (hc : c = .bs ∨ c = .del) (hb : (u.ses n).buf ≠ []) :
    exec (.lineEditCharacter n c) s =
      .next (((u.setSes n { u.ses n with buf := (u.ses n).buf.dropLast, lastCr := false }).echoTo n [Char.ofNat 8, ' ', Char.ofNat 8]).rtsFrom u n) := by
  subst hu
  change execLineEditCharacter n c s = _
  unfold execLineEditCharacter
  dsimp only
  rw [if_neg (by simp [ho]), if_neg (by simp [he])]
  rcases hc with rfl | rfl
  · exact if_neg hb
  · exact if_neg hb

theorem exec_lineEditCharacter_clear (hc : c = .ctrlU ∨ c = .ctrlC) :
    exec (.lineEditCharacter n c) s =
      .next ((((u.setSes n { u.ses n with buf := [], tooLong := false, badChar := false, overrun := false, lastCr := false }).echoTo n
        (if c = .ctrlU then ['\r', '\n'] else ['^', 'C', '\r', '\n'])).prompt n).rtsFrom u n) := by
  subst hu
  change execLineEditCharacter n c s = _
  unfold execLineEditCharacter
  dsimp only
  rw [if_neg (by simp [ho]), if_neg (by simp [he])]
  rcases hc with rfl | rfl
  · rfl
  · rfl

end

end Sys2Proof.Machine

open Sys2Proof.Machine in
/-- Settles O7: one lemma for each rule; the clauses of a character kept and of the 256th are the two branches of a line with room. -/
theorem typingKeepsTheLine : Obligations.TypingKeepsTheLine := by
  refine ⟨?kept, ?tooLong, fun _ _ _ _ => exec_characterReceived_full, fun _ _ _ _ => exec_characterReceived_control, fun _ _ _ _ => exec_lineEditCharacter_erase,
    fun _ _ _ _ => exec_lineEditCharacter_clear, fun _ _ _ _ => exec_lineEditCharacter_off⟩
  case kept =>
    intro s u n c hu ho h1 h2 hl hlen hb
    rw [exec_characterReceived_room hu ho h1 h2 hl hb]
    exact if_pos hlen
  case tooLong =>
    intro s u n c hu ho h1 h2 hl hlen hb
    rw [exec_characterReceived_room hu ho h1 h2 hl hb]
    exact if_neg (Nat.not_lt.mpr hlen)
end

section
/-! SUPPORT. Terminators, PEEK, POKE, CENSUS and the arbitration tick (02_command_line R45, R47, R68; 03_command_reference R82, R83, R89; 16_xasen R437; 15_power R412): one lemma for each
outcome of a command. -/

namespace Sys2Proof.Machine

/-! ### Terminators (R45, R47) -/

section
variable {s w : State} {n : Sid} (hw : w = s.uartAlive n)
include hw

theorem exec_plovaLine_absent (hp : w.present (.sess n) = false) (t : Term) : exec (.plovaLine n t) s = .next w := by
  subst hw
  exact if_pos hp

variable (hp : w.present (.sess n) = true)
include hp

/-- The LF of a CR LF pair belongs to the terminator before it. -/
theorem exec_plovaLine_pair (hl : (w.ses n).lastCr = true) : exec (.plovaLine n .lf) s = .next (w.setSes n { w.ses n with lastCr := false }) := by
  subst hw
  change execPlovaLine n .lf s = _
  unfold execPlovaLine
  dsimp only
  rw [if_neg (by simp [hp]), if_pos ⟨rfl, hl⟩]

/-- A session after a terminator: nothing is typed, and the line stands behind the others. -/
def Session.terminated (x : Session) (t : Term) (l : WLine) : Session :=
  { x with buf := [], tooLong := false, badChar := false, overrun := false, lastCr := t == .cr, lines := x.lines ++ [l] }

theorem exec_plovaLine_ends {t : Term} (hl : t = .lf → (w.ses n).lastCr = false) {u : State} (hu : u = (w.setSes n ((w.ses n).terminated t (w.lineOf n (w.ses n)))).echoTo n ['\r', '\n']) :
    exec (.plovaLine n t) s = .next ((if (w.ses n).lines = [] then (u.answerFront n [w.lineOf n (w.ses n)]).forwardFront n else u).rtsFrom w n) := by
  subst hw hu
  have hpair : ¬(t = .lf ∧ ((s.uartAlive n).ses n).lastCr = true) := fun h => by simp [hl h.1] at h
  change execPlovaLine n t s = _
  unfold execPlovaLine Session.terminated
  dsimp only
  rw [if_neg (by simp [hp]), if_neg hpair]

end

/-! ### PEEK (R68, R82) -/

section
variable {s : State} {ln : Ln}

theorem exec_peek_waits (hn : s.awaits (srcOf ln) = true) (t : Target) (c : Option Nat) :
    exec (.peek ln t c) s = .next { s with arb := { s.arb with reads := s.arb.reads ++ [.line ln t c] } } :=
  congrArg Host.Outcome.next (if_pos hn)

/-- A PEEK that waits for nothing is a verb at the level of its target. -/
theorem exec_peek_verb (hn : s.awaits (srcOf ln) = false) (t : Target) (c : Option Nat) :
    exec (.peek ln t c) s = .next (s.verb ln (peekLevel t (min 16 (c.getD 1))) false (s.peek (srcOf ln) t c)) :=
  congrArg Host.Outcome.next (if_neg (by simp [hn]))

theorem exec_peek_unknown (h : s.serves ln .view) (hn : s.awaits (srcOf ln) = false) (c : Option Nat) : exec (.peek ln .unknown c) s = .next (s.reply ln [] (.er .noname [])) :=
  (exec_peek_verb hn _ c).trans (congrArg _ (verb_er h false))

theorem State.peek_reg {src : Src} {off i v : Nat} {b : Bool} {d : RegDef} {u : State} (hr : regAt off = some (d, i)) (hv : s.readReg src d i = (u, some v)) :
    s.peek src (.reg off b) none = .ok u [] [⟨labelOf (regText d i), .hex (regDigits d) v⟩] := by
  simp only [State.peek, hr, hv, Option.isSome_none, Bool.false_eq_true, if_false]

theorem exec_peek_reg {off i v : Nat} {b : Bool} {d : RegDef} {u : State} (h : s.serves ln (peekLevel (.reg off b) 1)) (hn : s.awaits (srcOf ln) = false) (hr : regAt off = some (d, i))
    (hv : s.readReg (srcOf ln) d i = (u, some v)) : exec (.peek ln (.reg off b) none) s = .next (u.reply ln [] (.ok [⟨labelOf (regText d i), .hex (regDigits d) v⟩])) := by
  rw [exec_peek_verb hn, State.peek_reg hr hv]
  exact congrArg _ (verb_ok h false)

end

/-! ### POKE (R83) -/

section
variable {s : State} {n : Sid} {tag : List Char} {crc : Bool} {target : Target} {v : Nat}

/-- A session's POKE of a wrong target or value. -/
theorem exec_poke_wrong (h : s.serves ⟨.sess n, tag, crc⟩ .service) {e : Er} (hp : s.pokeParts (.sess n) target v = .inl e) :
    exec (.poke ⟨.sess n, tag, crc⟩ target v) s = .next (s.reply ⟨.sess n, tag, crc⟩ [] (.er e [])) := by
  change execPoke ⟨.sess n, tag, crc⟩ target v s = _
  simp only [execPoke, srcOf, hp, Bool.false_eq_true, false_and, if_false, verb_er h]

/-- One whose write is refused; REMAPFULL does more (R257). -/
theorem exec_poke_refused (h : s.serves ⟨.sess n, tag, crc⟩ .service) {e : Er} {r : Option ErrRec} {item : State → Item} (hp : s.pokeParts (.sess n) target v = .inr (.refuse e r, item)) (he : e ≠ .remapfull) :
    exec (.poke ⟨.sess n, tag, crc⟩ target v) s = .next (s.reply ⟨.sess n, tag, crc⟩ [] (.er e [])) := by
  change execPoke ⟨.sess n, tag, crc⟩ target v s = _
  simp only [execPoke, srcOf, hp, Bool.false_eq_true, false_and, if_false, verb_er h]

/-- One that is written, by a session that the write does not end. -/
theorem exec_poke_written (h : s.serves ⟨.sess n, tag, crc⟩ .service) {u : State} {item : State → Item} (hp : s.pokeParts (.sess n) target v = .inr (.ok u, item))
    (hu : u.present (.sess n) = true) : exec (.poke ⟨.sess n, tag, crc⟩ target v) s = .next (u.reply ⟨.sess n, tag, crc⟩ [] (.ok [item u])) := by
  change execPoke ⟨.sess n, tag, crc⟩ target v s = _
  simp only [execPoke, srcOf, hp, hu, Bool.false_eq_true, false_and, if_false, if_true, verb_ok h]

/-- A 32-bit register is written as by its row. -/
theorem State.pokeParts_reg {src : Src} {off i : Nat} {b : Bool} {d : RegDef} (ha : s.atReg off d i 0) (hw : d.wide = false) (hv : v < 2 ^ 32) :
    s.pokeParts src (.reg off b) v = .inr (s.wWord src off (BitVec.ofNat 32 v), fun t => ⟨labelOf (regText d i), .hex (regDigits d) (t.viewReg d i)⟩) := by
  obtain ⟨_, _, _, _, hfind, _⟩ := ha
  have hr : regAt off = some (d, i) := by simp only [regAt, hfind]
  simp only [State.pokeParts, hr, hw, Bool.false_eq_true, if_false, Nat.not_le.mpr hv]

/-- A write of a register's fields ends no session. -/
theorem State.storeAt_present (s : State) (off : Nat) (x : Word) (w : Who) : (s.storeAt off x).present w = s.present w := by
  unfold State.storeAt
  split
  · unfold State.storeReg
    dsimp only
    split <;> cases w <;> rfl
  · rfl

theorem exec_poke_plain {off i : Nat} {b : Bool} {d : RegDef} (h : s.serves ⟨.sess n, tag, crc⟩ .service) (ha : s.atReg off d i 0) (hw : d.wide = false) (hf : writableIn d 0 = true)
    (hb : d.base ∉ actingRegs) (hv : v < 2 ^ 32) :
    exec (.poke ⟨.sess n, tag, crc⟩ (.reg off b) v) s = .next ((s.storeAt off (BitVec.ofNat 32 v)).reply ⟨.sess n, tag, crc⟩ []
      (.ok [⟨labelOf (regText d i), .hex (regDigits d) ((s.storeAt off (BitVec.ofNat 32 v)).viewReg d i)⟩])) := by
  have hwrite : s.wWord (.sess n) off (BitVec.ofNat 32 v) = .ok (s.storeAt off (BitVec.ofNat 32 v)) := by rw [State.wWord_atReg ha _ hw, if_pos hf, State.wEntry_plain hb]
  have hparts := State.pokeParts_reg (src := .sess n) (b := b) ha hw hv
  rw [hwrite] at hparts
  have hpresent : (s.storeAt off (BitVec.ofNat 32 v)).present (.sess n) = true := by
    rw [State.storeAt_present]
    exact h.1
  exact (exec_poke_written h hparts hpresent :)

end

/-! ### CENSUS (R89, R437) -/

section
variable {s : State} {ln : Ln}

theorem reply_opCensus (s : State) (ln : Ln) (c : List (List Item)) (b : Body) : (s.reply ln c b).con.opCensus = s.con.opCensus := by
  obtain ⟨_, _, _, _, _, h⟩ := reply_answers s ln c b
  rw [h]

theorem exec_census_elsewhere (h : s.serves ln .operate) (hm : s.isMaster = false) : exec (.census ln) s = .next (s.reply ln [] (.er .notmaster [])) := by
  change execCensus ln s = _
  unfold execCensus
  rw [if_pos hm, verb_er h]
  simp only [reply_opCensus, bne_self_eq_false, Bool.false_and, Bool.false_eq_true, if_false]

/-- On the master the line joins the sweep that runs, or begins one. -/
theorem exec_census_master (h : s.serves ln .operate) (hm : s.isMaster = true) {u : State}
    (hu : u = (({ s with con := { s.con with opCensus := s.con.opCensus ++ [ln] } } : State).reply ln [] (.ok startedItems))) :
    exec (.census ln) s = .next (if u.xlk.sweep.isNone then u.startSweep else u) := by
  have hlen : (u.con.opCensus.length != s.con.opCensus.length) = true := by
    rw [hu, reply_opCensus]
    simp
  change execCensus ln s = _
  unfold execCensus
  rw [if_neg (by simp [hm]), verb_ok h, ← hu]
  simp only [hlen, Bool.true_and]

theorem exec_censusQuery (h : s.serves ln .view) :
    exec (.censusQuery ln) s = .next (s.reply ln [] (if s.isMaster = false then .er .notmaster [] else .ok [⟨"NODES", .num (s.getF F.XLK_CENS_NODES)⟩, ⟨"STALE", .num (s.getF F.XLK_CENS_STALE)⟩,
      ⟨"LAST", if s.rd64 R.XLK_CTIME = 0 then .dash else .sec (s.rd64 R.XLK_CTIME)⟩])) := by
  change execCensusQuery ln s = _
  unfold execCensusQuery
  split
  · rw [verb_er h]
  · rw [verb_ok h]

end

/-! ### The arbitration tick and the orders of the ignition sequence (R68, R412) -/

/-- The orders that a tick decides are the sequence's own, those carried over, and those that landed. -/
theorem exec_arbitrationTick {s u : State} (hu : u = s.settleTick.microsecond) (os : List Order) : exec (.arbitrationTick os) s = .next (u.decideTick (u.ignOrders ++ u.arb.carried ++ os)) := by
  rw [hu]
  rfl

theorem State.ignOrders_none {s : State} (h : s.ignIssue = none) : s.ignOrders = [] := by simp only [State.ignOrders, h]

theorem State.ignOrders_some {s : State} {k : IgnOrder} (h : s.ignIssue = some k) : s.ignOrders = [⟨.ign, .ignOrder k⟩] := by simp only [State.ignOrders, h]

section
variable {s : State}

/-- An order of the sequence acts if it is still the one to be issued. -/
theorem State.win_ignOrder {k : IgnOrder} (h : s.ignIssue = some k) {t : State} (ht : s.ignAct k = if s.ignIssue ≠ some k then s else t) : s.win ⟨.ign, .ignOrder k⟩ = t :=
  ht.trans (if_neg (not_not.mpr h))

theorem State.win_recordStop (h : s.ignIssue = some .recordStop) : s.win ⟨.ign, .ignOrder .recordStop⟩ = s.seqRecordStop.setSeq (some .stop) := State.win_ignOrder h rfl

theorem State.win_unload (h : s.ignIssue = some .unload) : s.win ⟨.ign, .ignOrder .unload⟩ = s.seqUnload := State.win_ignOrder h rfl

theorem State.win_recordStart (h : s.ignIssue = some .recordStart) :
    s.win ⟨.ign, .ignOrder .recordStart⟩ = ({ s.setSeq none with pw := { (s.setSeq none).pw with stopped := false } } : State).seqRecordStart := State.win_ignOrder h rfl

theorem State.win_enter (h : s.ignIssue = some .enter) {p : Pwr} (hp : s.ignTarget = some p) : s.win ⟨.ign, .ignOrder .enter⟩ = s.pwrBegin p .ign :=
  State.win_ignOrder h (by simp only [State.ignAct, hp])

end

end Sys2Proof.Machine

open Sys2Proof.Machine in
/-- Settles O48: one lemma above for each outcome. -/
theorem linesAndWordsAreAnswered : Obligations.LinesAndWordsAreAnswered := by
  refine ⟨?ends, fun _ _ _ => exec_plovaLine_pair, fun _ _ _ t hw hp => exec_plovaLine_absent hw hp t, fun _ _ _ _ _ _ _ _ => exec_peek_reg, fun _ _ c h hn => exec_peek_unknown h hn c,
    fun _ _ t c hn => exec_peek_waits hn t c, fun _ _ _ _ _ _ _ _ _ => exec_poke_plain, ?poke, fun _ _ => exec_census_elsewhere, fun _ _ h hm => ⟨_, rfl, exec_census_master h hm rfl⟩,
    fun _ _ => exec_censusQuery, ?tick, ?ignition⟩
  case ends => exact fun s w n t hw hp hl => ⟨_, rfl, exec_plovaLine_ends hw hp hl rfl⟩
  case poke =>
    intro s u n tag crc target v item h
    exact ⟨fun hp hu => exec_poke_written h hp hu.1, fun e hp => exec_poke_wrong h hp, fun e r hp he => exec_poke_refused h hp he⟩
  case tick =>
    intro s u os hu
    have htick := exec_arbitrationTick hu os
    refine ⟨fun hn => ?_, fun k hk => ?_⟩
    · rwa [State.ignOrders_none hn] at htick
    · rwa [State.ignOrders_some hk] at htick
  case ignition =>
    intro s k h
    refine ⟨?_, ?_, ?_, ?_⟩
    · rintro rfl
      exact State.win_recordStop h
    · rintro rfl
      exact State.win_unload h
    · rintro rfl
      exact State.win_recordStart h
    · rintro p rfl hp
      exact State.win_enter h hp
end

section
/-! SUPPORT. A verb that is served: what its line comes to, by what the verb answers (02_command_line R55, R56), and the verbs that only report (03_command_reference R81 to R91). -/

namespace Sys2Proof.Machine

/-! ### A verb whose answer is known -/

section
variable {s t : State} {ln : Ln} {need : Level} {b : Ans} {c : List (List Item)} {f : List Item} {e : Er} {i : List Item}

theorem next_verb_ok (h : s.serves ln need) (hb : b = .ok t c f) : Host.Outcome.next (φ := Fault) (ρ := Refusal) (s.verb ln need false b) = .next (t.reply ln c (.ok f)) := by
  rw [hb, verb_ok h]

theorem next_verb_er (h : s.serves ln need) (hb : b = .er e i) : Host.Outcome.next (φ := Fault) (ρ := Refusal) (s.verb ln need false b) = .next (s.reply ln [] (.er e i)) := by
  rw [hb, verb_er h]

theorem next_verb_fail (h : s.serves ln need) (hb : b = .fail t e) : Host.Outcome.next (φ := Fault) (ρ := Refusal) (s.verb ln need false b) = .next (t.reply ln [] (.er e [])) := by
  rw [hb, verb_fail h]

theorem next_verb_ok_any (h : s.answers ln need) (hb : b = .ok t c f) : Host.Outcome.next (φ := Fault) (ρ := Refusal) (s.verb ln need true b) = .next (t.reply ln c (.ok f)) := by
  rw [hb, verb_ok_any h]

theorem next_verb_er_any (h : s.answers ln need) (hb : b = .er e i) : Host.Outcome.next (φ := Fault) (ρ := Refusal) (s.verb ln need true b) = .next (s.reply ln [] (.er e i)) := by
  rw [hb, verb_er_any h]

end

/-! ### Verbs that only report -/

/-- The answer reports from the state, or is an error; it leaves the state as it is. -/
def Ans.Reports (s : State) : Ans → Prop
  | .ok t _ _ => t = s
  | .er _ _ => True
  | .fail _ _ => False

theorem Ans.Reports.answers {s : State} {b : Ans} (h : b.Reports s) (ln : Ln) (need : Level) (r : Bool) : Answers s (s.verb ln need r b) := by
  cases b with
  | ok t c f =>
    subst h
    exact verb_ok_answers t ln need r c f
  | er e i => exact verb_answers s ln need r e i
  | fail t e => exact h.elim

/-- A command that answers its line and does nothing else. -/
def OnlyAnswers (s : State) (o : Host.Outcome State Fault Refusal) : Prop := ∃ t, o = .next t ∧ Answers s t

theorem Ans.Reports.onlyAnswers {s : State} {b : Ans} (h : b.Reports s) {ln : Ln} {need : Level} {r : Bool} : OnlyAnswers s (.next (s.verb ln need r b)) := ⟨_, rfl, h.answers ln need r⟩

/-- The query verbs that rows of the opcode table carry, but for HELP?, CONTACT? and POWER?. -/
def queryVerbs (ln : Ln) (t : Tenant) (n : Nat) (a w : Option Nat) : List Instr :=
  [.sessionQuery ln, .idQuery ln, .timeQuery ln, .errQuery ln a w, .cartQuery ln, .stateQuery ln, .nodeQuery ln, .censusQuery ln, .keyQuery ln t, .tenantQuery ln t, .queueQuery ln n,
    .tripQuery ln, .motionQuery ln]

section
variable (s : State) (ln : Ln)

theorem sessionQuery_onlyAnswers : OnlyAnswers s (exec (.sessionQuery ln) s) := by
  refine Ans.Reports.onlyAnswers ?_
  split
  · rfl
  · rfl

theorem errQuery_onlyAnswers (a w : Option Nat) : OnlyAnswers s (exec (.errQuery ln a w) s) := by
  refine Ans.Reports.onlyAnswers ?_
  dsimp only
  split
  · trivial
  · rfl

theorem censusQuery_onlyAnswers : OnlyAnswers s (exec (.censusQuery ln) s) := by
  refine Ans.Reports.onlyAnswers ?_
  split
  · trivial
  · rfl

theorem queueQuery_onlyAnswers (q : Nat) : OnlyAnswers s (exec (.queueQuery ln q) s) := by
  refine Ans.Reports.onlyAnswers ?_
  split
  · trivial
  · split
    · trivial
    · rfl

/-- Each of the other queries answers OK with the state it finds. -/
theorem queryVerbs_onlyAnswer (t : Tenant) (n : Nat) (a w : Option Nat) : (queryVerbs ln t n a w).Forall fun c => OnlyAnswers s (exec c s) :=
  have reports {need : Level} {r : Bool} {f : List Item} : OnlyAnswers s (.next (s.verb ln need r (.ok s [] f))) := Ans.Reports.onlyAnswers (b := .ok s [] f) (Eq.refl s)
  ⟨sessionQuery_onlyAnswers s ln, reports, reports, errQuery_onlyAnswers s ln a w, reports, reports, reports, censusQuery_onlyAnswers s ln, reports, reports, queueQuery_onlyAnswers s ln n, reports, reports⟩

end

end Sys2Proof.Machine

open Sys2Proof.Machine in
/-- Settles O55: a query answers OK with the state it finds, or an error, and either way only its reply changes the state. -/
theorem queriesOnlyAnswer : Obligations.QueriesOnlyAnswer := by
  intro s ln t n a w c hc
  obtain ⟨u, hu, o, v, r, p, i, rfl⟩ := List.forall_iff_forall_mem.mp (queryVerbs_onlyAnswer s ln t n a w) c hc
  exact ⟨o, v, r, p, i, hu⟩
end

section
/-! SUPPORT. The status queries on a line that is served (03_command_reference R81, R89, R91, R96): one lemma for each answer. -/

namespace Sys2Proof.Machine

section
variable {s : State} {ln : Ln} (h : s.answers ln .view)
include h

theorem exec_helpQuery_all :
    exec (.helpQuery ln none) s = .next (s.reply ln (helpTable.map (fun r => [⟨"", .word r.1⟩, ⟨"", .word r.2.1⟩])) (.ok [⟨"VERBS", .num helpTable.length⟩])) := next_verb_ok_any h rfl

theorem exec_helpQuery_known {v : List Char} {r : String × String × String} (hr : helpTable.find? (fun r => r.1.toList == v.map upper) = some r) :
    exec (.helpQuery ln (some v)) s = .next (s.reply ln [[⟨"", .word r.2.2⟩]] (.ok [⟨"VERBS", .num 1⟩])) := next_verb_ok_any h (by simp only [hr])

theorem exec_helpQuery_unknown {v : List Char} (hr : helpTable.find? (fun r => r.1.toList == v.map upper) = none) :
    exec (.helpQuery ln (some v)) s = .next (s.reply ln [] (.er .noverb [])) := next_verb_er_any h (by simp only [hr])

theorem exec_idQuery : exec (.idQuery ln) s = .next (s.reply ln [] (.ok s.idItems)) := next_verb_ok_any h rfl

theorem exec_errQuery {count start : Option Nat} (h1 : 1 ≤ count.getD 16) (h2 : count.getD 16 ≤ 32) (h3 : start.getD 0 < 2 ^ 32) {rs : List ErrRec} (hrs : rs = s.err.select (count.getD 16) start) :
    exec (.errQuery ln count start) s =
      .next (s.reply ln (rs.map recItems) (.ok [⟨"RECORDS", .num rs.length⟩, ⟨"NEXT", .num ((rs.getLast?.map (fun r => (r.seq + 1) % 2 ^ 32)).getD s.err.next)⟩])) := by
  refine next_verb_ok_any h ?_
  dsimp only
  rw [if_neg (by omega), ← hrs]
  cases rs.getLast? <;> rfl

theorem exec_contactQuery : exec (.contactQuery ln) s = .next (s.reply ln (s.sheetA ++ s.sheetB) (.ok [⟨"LINES", .num 13⟩])) := next_verb_ok_any h rfl

end

theorem State.sheet_length (s : State) : (s.sheetA ++ s.sheetB).length = 13 := rfl

section
variable {s : State} {ln : Ln} (h : s.serves ln .view)
include h

theorem exec_stateQuery :
    exec (.stateQuery ln) s = .next (s.reply ln [] (.ok [⟨"PWR", .word (pwrText s.pwr)⟩, ⟨"CART", .word s.cart.text⟩, ⟨"MOT", .word (motText s.mot)⟩,
      ⟨"STEP", .num (s.getF F.SRV_SPD_CUR)⟩, ⟨"ZONE", s.zoneVal⟩, ⟨"DS", s.dsVal⟩, ⟨"LOCK", holderVal s.con.mlock⟩, ⟨"SVC", s.svcVal⟩])) := by
  obtain ⟨hp, hl, hr⟩ := h
  exact next_verb_ok_any ⟨hp, hl⟩ (by simp only [hr, Bool.false_eq_true, if_false])

theorem exec_timeQuery : exec (.timeQuery ln) s = .next (s.reply ln [] (.ok s.timeItems)) := next_verb_ok h rfl

theorem exec_nodeQuery :
    exec (.nodeQuery ln) s = .next (s.reply ln [] (.ok [⟨"NODE", s.nodeVal⟩, ⟨"MASTER", .num (s.getF F.XLK_STAT_MASTER)⟩, ⟨"UP", s.portVal 0⟩, ⟨"D0", s.portVal 1⟩, ⟨"D1", s.portVal 2⟩,
      ⟨"D2", s.portVal 3⟩, ⟨"STALE", .num (s.getF F.XLK_STAT_STALE)⟩])) := next_verb_ok h rfl

theorem exec_keyQuery {t : Tenant} {k : KeySlot} (hk : k = slotOf s.sec.keys t) :
    exec (.keyQuery ln t) s = .next (s.reply ln [] (.ok [⟨"SLOT", .num t.val⟩, ⟨"HMAC", setVal k.hmac⟩, ⟨"AES", setVal k.aes⟩,
      ⟨"CHECK", match k.hmac.or k.aes with | some x => .chars (keyCheck x) | none => .dash⟩])) := by
  subst hk
  exact next_verb_ok h rfl

end

end Sys2Proof.Machine

open Sys2Proof.Machine in
/-- Settles O3: one lemma for each answer. -/
theorem statusQueriesReport : Obligations.StatusQueriesReport := by
  refine ⟨fun _ _ => exec_helpQuery_all, fun _ _ _ _ h hr => exec_helpQuery_known h hr, fun _ _ _ h hr => exec_helpQuery_unknown h hr, fun _ _ => exec_idQuery, fun _ _ => exec_stateQuery,
    fun _ _ => exec_timeQuery, ?err, fun s _ h => ⟨exec_contactQuery h, s.sheet_length⟩, fun _ _ => exec_nodeQuery, ?key⟩
  case err => exact fun s ln a b h h1 h2 h3 => exec_errQuery h h1 h2 h3 rfl
  case key =>
    intro s ln t h
    exact (exec_keyQuery h rfl :)
end

section
/-! SUPPORT. The cartridge and motion verbs that start something (03_command_reference R84, R85; 06_queues R184; 12_servo R344, R348, R349): when the drive is free for them, and one lemma
for each outcome. -/

namespace Sys2Proof.Machine

/-! ### Whether the drive is free (R78, R79) -/

section
variable {s : State} {ln : Ln}

theorem State.blocked_none {lock test stopped : Bool} {carts : List Cart} (hl : lock = true → s.holdsLock ln = true) (ht : test = true → s.boot.testing = false) (hp : s.pwr = .run)
    (hq : s.quiesced 6 = false) (hc : carts = [] ∨ s.cart ∈ carts) (hm : stopped = true → s.mot = .stopped) : s.blocked ln lock test carts stopped = none := by
  have hlock : ¬(lock = true ∧ s.holdsLock ln = false) := fun h => by simp [hl h.1] at h
  have htest : ¬(test = true ∧ s.boot.testing = true) := fun h => by simp [ht h.1] at h
  have hcart : ¬(carts ≠ [] ∧ carts.contains s.cart = false) := by
    rintro ⟨hne, hno⟩
    rw [List.contains_iff_mem.mpr (hc.resolve_left hne)] at hno
    exact absurd hno (by decide)
  unfold State.blocked
  rw [if_neg hlock, if_neg htest, if_neg (by simp [hp, hq]), if_neg hcart, if_neg fun h => h.2 (hm h.1)]

/-- A verb that needs the drive at a standstill and no TEST BOOT finds it free. -/
theorem State.mayMove.free (hm : s.mayMove ln) (ht : s.boot.testing = false) {carts : List Cart} (hc : s.cart ∈ carts) {stopped : Bool} (hs : stopped = true → s.mot = .stopped) :
    s.blocked ln true true carts stopped = none := by
  obtain ⟨hlock, hp, hq⟩ := hm
  exact State.blocked_none (fun _ => hlock) (fun _ => ht) hp hq (.inr hc) hs

/-- One that acts on a drive in any motion finds it free during a TEST BOOT too. -/
theorem State.mayMove.acts (hm : s.mayMove ln) {carts : List Cart} (hc : carts = [] ∨ s.cart ∈ carts) : s.blocked ln true false carts false = none := by
  obtain ⟨hlock, hp, hq⟩ := hm
  exact State.blocked_none (fun _ => hlock) (by simp) hp hq hc (by simp)

end

/-! ### LOAD, UNLOAD, RECORD START and RECORD STOP (R84) -/

section
variable {s : State} {ln : Ln} (h : s.serves ln .operate) (hm : s.mayMove ln)
include h hm

theorem exec_load {c3 : Option Bool} (ht : s.boot.testing = false) (hc : s.cart = .present) (hs : s.mot = .stopped) (h3 : s.c3Contradicts c3 = false) {u : State}
    (hu : u = (s.clearBins.setCart .loading [ln]).beginMove .load false 12) :
    exec (.load ln c3) s = .next ((({ u with tape := { u.tape with c3arg := c3 } } : State).opCart ln).reply ln [] (.ok startedItems)) := by
  refine next_verb_ok h ?_
  rw [hm.free ht (by simp [hc]) fun _ => hs]
  dsimp only
  rw [if_neg (by simp [h3]), hu]

theorem exec_unload (ht : s.boot.testing = false) (hc : s.cart = .ready ∨ s.cart = .fault) (hs : s.mot ≠ .tripped) :
    exec (.unload ln) s = .next ((((s.takenOver.clearBins.writeDirs.setCart .unloading [ln]).beginMove .unload true 1).opCart ln).reply ln [] (.ok startedItems)) := by
  refine next_verb_ok h ?_
  rw [hm.free ht (by simpa using hc) (by simp)]
  dsimp only
  rw [if_neg hs]

theorem exec_recordStart (ht : s.boot.testing = false) (hc : s.cart = .ready) (hs : s.mot = .stopped) (hw : s.tape.wp = false) (hf : s.cartFull = false) :
    exec (.recordStart ln) s =
      .next ((((s.startReplay.headTo s.tape.wrap).beginMove .record (wrapRev s.tape.wrap) s.recordStep).opCart ln).reply ln [] (.ok startedItems)) := by
  refine next_verb_ok h ?_
  rw [hm.free ht (by simp [hc]) fun _ => hs]
  dsimp only
  rw [if_neg (by simp [hw]), if_neg (by simp [hf])]

theorem exec_recordStop (hc : s.cart = .writing) :
    exec (.recordStop ln) s = .next ((({ s with fmt := { s.fmt with stopping := true } } : State).opCart ln).flushNow.reply ln [] (.ok startedItems)) := by
  refine next_verb_ok h ?_
  rw [hm.acts (.inr (by simp [hc]))]

/-! ### MOTION START, MOTION STOP, SPEED and LOCATE (R85, R344, R348, R349) -/

theorem exec_motionStart {a : StepArg} (rev : Bool) (ht : s.boot.testing = false) (hc : s.cart = .ready) (hs : s.mot = .stopped) (ha : StepArg.bad a = false) :
    exec (.motionStart ln a rev) s = .next ((((s.takeStep a).beginMove .motion rev (s.takeStep a).readStep).opMotion ln).reply ln [] (.ok startedItems)) := by
  refine next_verb_ok h ?_
  rw [if_neg (by simp [ha]), hm.free ht (by simp [hc]) fun _ => hs]
  rfl

theorem exec_motionStop_still (hs : s.mot = .stopped) : exec (.motionStop ln) s = .next (s.reply ln [] (.ok [⟨"MOT", .word "STOPPED"⟩])) := by
  refine next_verb_ok h ?_
  rw [hm.acts (.inl rfl)]
  exact if_pos hs

theorem exec_motionStop_stops (hs : s.mot ≠ .stopped) {v : State} (hv : v = (s.cutMotion .stopped).opMotion ln) :
    exec (.motionStop ln) s =
      .next ((if s.mdr.order.isSome || s.mdr.stopping then (if v.orderStop.mdr.order.isSome || v.orderStop.mdr.stopping then v.orderStop else v.orderStop.stopDone) else v.stopDone).reply ln []
        (.ok startedItems)) := by
  refine next_verb_ok h ?_
  rw [hm.acts (.inl rfl), hv]
  exact if_neg hs

theorem exec_speed_step {n : Nat} (hs : s.mot = .moving) (h1 : 1 ≤ n) (h2 : n ≤ 12) (hn : s.mdr.start = none) (hh : s.srv.hitch = false) (hd : s.mdr.stopping = false) {u : State}
    (hu : u = s.takeStep (.step n)) :
    exec (.speed ln (.step n)) s = .next ((({ u with mdr := { u.mdr with step := n } } : State).setF F.SRV_SPD_CUR n).reply ln [] (.ok [⟨"STEP", .num n⟩])) := by
  have hbad : ¬(StepArg.bad (.step n) = true ∨ StepArg.step n = .default) := by simp [StepArg.bad]; omega
  refine next_verb_ok h ?_
  subst hu
  rw [if_neg hbad, hm.acts (.inl rfl)]
  dsimp only
  rw [if_neg (by simp [hs]), if_pos ⟨hn, hh, hd⟩]

theorem exec_speed_auto (hs : s.mot = .moving) : exec (.speed ln .auto) s = .next ((s.setF F.SRV_SPD_AUTO 1).reply ln [] (.ok [⟨"STEP", .word "AUTO"⟩])) := by
  refine next_verb_ok h ?_
  rw [if_neg (by simp [StepArg.bad]), hm.acts (.inl rfl)]
  exact if_neg (by simp [hs])

variable (ht : s.boot.testing = false) (hc : s.cart = .ready) (hs : s.mot = .stopped)
include ht hc hs

theorem exec_locate_found {n ix : Nat} {w : WrapEnt} (hn : n < 2 ^ 32) (hf : s.findDs n = some (ix, w)) :
    exec (.locate ln n) s = .next (((s.startSeek n ix w).opMotion ln).reply ln [] (.ok startedItems)) := by
  change execLocate ln n s = _
  unfold execLocate
  rw [if_neg (Nat.not_le.mpr hn), hm.free ht (by simp [hc]) fun _ => hs, hf]
  exact next_verb_ok h rfl

theorem exec_locate_nowhere {n : Nat} (hn : n < 2 ^ 32) (hf : s.findDs n = none) :
    exec (.locate ln n) s = .next (((s.opMotion ln).reply ln [] (.ok startedItems)).motionDone (erItems .notfound [])) := by
  change execLocate ln n s = _
  unfold execLocate
  rw [if_neg (Nat.not_le.mpr hn), hm.free ht (by simp [hc]) fun _ => hs, hf]
  dsimp only
  rw [verb_ok h]
  exact if_pos h

theorem exec_locateLpw {x : Nat} (hx : x ≤ 4799999) :
    exec (.locateLpw ln x) s = .next (((s.beginMove (.locateLpw x) (decide (x < s.getF F.SRV_LPW_LPW)) 12).opMotion ln).reply ln [] (.ok startedItems)) := by
  refine next_verb_ok h ?_
  rw [if_neg (Nat.not_lt.mpr hx), hm.free ht (by simp [hc]) fun _ => hs]
  rfl

end

/-- A step argument in the range of R85. -/
theorem StepArg.bad_false {a : StepArg} (ha : ∀ n, a = .step n → 1 ≤ n ∧ n ≤ 12) : StepArg.bad a = false := by
  cases a with
  | step n =>
    obtain ⟨h1, h2⟩ := ha n rfl
    simp [StepArg.bad]
    omega
  | auto => rfl
  | default => rfl

end Sys2Proof.Machine

open Sys2Proof.Machine in
/-- Settles O8: one lemma for each verb. -/
theorem cartridgeVerbsStart : Obligations.CartridgeVerbsStart :=
  ⟨fun _ _ _ h hm ht hc hs h3 => exec_load h hm ht hc hs h3 rfl, fun _ _ => exec_unload, fun _ _ => exec_recordStart, fun _ _ => exec_recordStop⟩

open Sys2Proof.Machine in
/-- Settles O11: one lemma for each verb and outcome. -/
theorem motionVerbsAct : Obligations.MotionVerbsAct :=
  ⟨fun _ _ _ rev h hm ht hc hs ha => exec_motionStart h hm rev ht hc hs (StepArg.bad_false ha), fun _ _ => exec_motionStop_still, fun _ _ h hm hs => exec_motionStop_stops h hm hs rfl,
    fun _ _ _ h hm hs h1 h2 hn hh hd => exec_speed_step h hm hs h1 h2 hn hh hd rfl, fun _ _ => exec_speed_auto, fun _ _ _ _ _ h hm ht hc hs hn hf => exec_locate_found h hm ht hc hs hn hf,
    fun _ _ _ h hm ht hc hs hn hf => exec_locate_nowhere h hm ht hc hs hn hf, fun _ _ _ h hm ht hc hs hx => exec_locateLpw h hm ht hc hs hx⟩
end

section
/-! SUPPORT. Directory copies (10_dataset R346, R347; 03_command_reference R84): the fields of a valid one, and which of several counts. -/

namespace Sys2Proof.Machine

/-- The fields of a copy whose MAGIC, VER and CRC check. -/
theorem copyInfo_fields {c : List Byte} (b : Bool) (hlen : 3140 ≤ c.length) (hmagic : beValue (sub c 0 4) = 0x44594452) (hver : beValue (sub c 4 1) = 1)
    (hcrc : beValue (sub c 3136 4) = crc32 (c.take 3136)) :
    ∃ i, copyInfo (c, b) = some i ∧ i.gen = beValue (sub c 8 4) ∧ i.dsnext = beValue (sub c 12 4) ∧ i.c3 = b ∧ i.wraps.length = min 192 (beValue (sub c 6 2)) ∧
      ∀ w, i.wraps.getLast? = some w → i.append = w.endLpw := by
  refine ⟨_, if_pos ⟨hmagic, hver, hlen, hcrc⟩, rfl, rfl, rfl, by simp, fun w hw => ?_⟩
  dsimp only at hw ⊢
  rw [hw]
  rfl

/-- Of what was found so far and a further valid copy, the one that counts. -/
def newer (o : Option LoadInfo) (i : LoadInfo) : Option LoadInfo :=
  match o with
  | some x => if x.gen < i.gen then some i else some x
  | none => some i

theorem newestCopy_eq (l : List (List Byte × Bool)) : newestCopy l = (l.filterMap copyInfo).foldl newer none := rfl

theorem newer_higher {x i : LoadInfo} (h : x.gen < i.gen) : newer (some x) i = some i := if_pos h

theorem newer_other {x i : LoadInfo} (h : ¬x.gen < i.gen) : newer (some x) i = some x := if_neg h

/-- The fold from a valid copy on gives one of the highest generation. -/
theorem foldl_newer (l : List LoadInfo) : ∀ x : LoadInfo, ∃ m, l.foldl newer (some x) = some m ∧ m ∈ x :: l ∧ ∀ i ∈ x :: l, i.gen ≤ m.gen := by
  induction l with
  | nil => exact fun x => ⟨x, rfl, by simp, by simp⟩
  | cons y ys ih =>
    intro x
    by_cases hxy : x.gen < y.gen
    · obtain ⟨m, hm, hmem, hmax⟩ := ih y
      refine ⟨m, by rw [List.foldl_cons, newer_higher hxy, hm], List.mem_cons_of_mem _ hmem, ?_⟩
      have hy := hmax y (by simp)
      rintro i (_ | ⟨_, hi⟩)
      · omega
      · exact hmax i hi
    · obtain ⟨m, hm, hmem, hmax⟩ := ih x
      have hx := hmax x (by simp)
      refine ⟨m, by rw [List.foldl_cons, newer_other hxy, hm], ?_, ?_⟩
      · simp only [List.mem_cons] at hmem ⊢
        tauto
      · intro i hi
        simp only [List.mem_cons] at hi
        rcases hi with rfl | rfl | hi
        · exact hx
        · omega
        · exact hmax i (List.mem_cons_of_mem _ hi)

/-- Where a copy is valid, one is found, none has a higher generation, and it is a copy of the list. -/
theorem newestCopy_newest {l : List (List Byte × Bool)} {p : List Byte × Bool} {i : LoadInfo} (hp : p ∈ l) (hi : copyInfo p = some i) :
    ∃ m, newestCopy l = some m ∧ i.gen ≤ m.gen ∧ ∃ q ∈ l, copyInfo q = some m := by
  have hmem : i ∈ l.filterMap copyInfo := List.mem_filterMap.mpr ⟨p, hp, hi⟩
  rw [newestCopy_eq]
  generalize hl : l.filterMap copyInfo = xs at hmem
  cases xs with
  | nil => cases hmem
  | cons x xs =>
    obtain ⟨m, hm, hin, hmax⟩ := foldl_newer xs x
    refine ⟨m, hm, hmax i hmem, ?_⟩
    rw [← hl] at hin
    exact List.mem_filterMap.mp hin

end Sys2Proof.Machine
end

section
/-! SUPPORT. How the cartridge's long operations end, and how a cartridge comes and goes (03_command_reference R84; 08_reducer R232; 10_dataset R347; 18_balls R489): one lemma for each
outcome of a command. -/

namespace Sys2Proof.Machine

/-! ### LOAD_COMPLETE (R347) -/

section
variable {s : State} (hc : s.cart = .loading) (hs : s.mdr.stopping = false)
include hc hs

theorem exec_loadComplete_found {f : LoadFinding} {i : LoadInfo} (hi : s.loadInfo f = some i) : exec (.loadComplete f) s = .next (s.loaded i) := by
  change execLoadComplete f s = _
  unfold execLoadComplete
  rw [if_neg (by simp [hc, hs]), hi]

theorem exec_loadComplete_noDir {f : LoadFinding} (hi : s.loadInfo f = none) {u : State} (hu : u = { s with tape := { s.tape with threaded := true, noDir := true, c3arg := none } }) :
    exec (.loadComplete f) s = .next ((u.endMotion.setCart .fault s.con.opCart).cartDone (erItems .nodir [])) := by
  change execLoadComplete f s = _
  unfold execLoadComplete
  rw [if_neg (by simp [hc, hs]), hi, hu]

end

section
variable {s : State} {f : LoadFinding}

/-- With a hint the dataset number and the append point are the hint's (R347). -/
theorem State.loadInfo_hint {h : Hint} (hh : s.hintFor = some h) (f : LoadFinding) : ∃ ws gen c3, s.loadInfo f = some ⟨h.highest + 1, h.wrap, h.endLpw, ws, gen, c3⟩ := by
  unfold State.loadInfo
  rw [hh]
  cases newestCopy f.copies with
  | some i => exact ⟨i.wraps, i.gen, i.c3, rfl⟩
  | none => exact ⟨_, _, _, rfl⟩

theorem State.loadInfo_copy {i : LoadInfo} (hh : s.hintFor = none) (hi : newestCopy f.copies = some i) : s.loadInfo f = some i := by simp only [State.loadInfo, hh, hi]

theorem State.loadInfo_blank (hh : s.hintFor = none) : s.loadInfo ⟨[], false⟩ = some ⟨0, 0, 10000, [], 0, s.tape.c3arg.getD (s.bit F.FMT_CFG_C3DEF)⟩ := by
  unfold State.loadInfo
  rw [hh]
  rfl

theorem State.loadInfo_none (hh : s.hintFor = none) (hi : newestCopy f.copies = none) (hf : f.frames = true ∨ f.copies ≠ []) : s.loadInfo f = none := by
  have hfound : ¬(f.frames = false ∧ f.copies = []) := by
    rintro ⟨h1, h2⟩
    simp [h1, h2] at hf
  simp only [State.loadInfo, hh, hi]
  exact if_neg hfound

end

/-! ### UNLOAD_COMPLETE, RECORD_START_COMPLETE and RECORD_STOP_COMPLETE (R84, R288, R342, R345) -/

section
variable {s : State}

theorem exec_unloadComplete (hc : s.cart = .unloading) (hs : s.mdr.stopping = false) (failed : List Bool) {v u : State} (hv : v = if s.tape.noDir then s else s.rewriteDirs 0 0 failed)
    (hu : u = { v with tape := { v.tape with threaded := false, noDir := false } }) :
    exec (.unloadComplete failed) s = .next ((u.endMotion.setCart .present u.con.opCart).cartDone [⟨"CART", .word "PRESENT"⟩]) := by
  subst hv hu
  change execUnloadComplete failed s = _
  unfold execUnloadComplete
  rw [if_neg (by simp [hc, hs])]

theorem State.clkBack_mdr (s : State) (c : Clk) : (s.clkBack c).mdr = s.mdr := by
  unfold State.clkBack
  split <;> rfl

theorem State.clkBack_tape (s : State) (c : Clk) : (s.clkBack c).tape = s.tape := by
  unfold State.clkBack
  split <;> rfl

theorem exec_recordStartComplete (ho : s.mdr.order = some .record) (hst : s.mdr.start.isSome = true) (hr : s.reelsRun = true) (hs : s.mdr.stopping = false) (hc : s.cart = .ready) {v u : State}
    (hv : v = ((s.clkBack .ckwc).clkBack .ckwe).started.setF F.SRV_SPD_CUR ((s.clkBack .ckwc).clkBack .ckwe).mdr.step) (hu : u = v.setF F.SRV_LPW_LPW v.tape.append) :
    exec .recordStartComplete s =
      .next ((u.setCart .writing u.con.opCart).cartDone [⟨"CART", .word "WRITING"⟩, ⟨"DS", .num u.fmt.nextDs⟩, ⟨"STEP", .num u.mdr.step⟩]) := by
  have htape : v.tape.append = s.tape.append := by
    rw [hv, setF_tape]
    change ((s.clkBack .ckwc).clkBack .ckwe).tape.append = _
    rw [State.clkBack_tape, State.clkBack_tape]
  rw [State.clkBack_mdr, State.clkBack_mdr] at hv
  rw [htape, hv] at hu
  subst hu
  change execRecordStartComplete s = _
  unfold execRecordStartComplete
  rw [if_pos ⟨ho, hst, hr, hs, hc⟩]

theorem lastVal_eq (n : Option Nat) : lastVal n = (n.map Val.num).getD .dash := by cases n <;> rfl

theorem exec_recordStopComplete (hc : s.cart = .writing) (hr : s.stopReady = true) :
    exec .recordStopComplete s =
      .next ((s.hitchBehind.endMotion.setCart .ready s.con.opCart).cartDone [⟨"CART", .word "READY"⟩, ⟨"DSLAST", (s.fmt.last.map Val.num).getD .dash⟩]) := by
  rw [← lastVal_eq]
  exact if_pos ⟨hc, hr⟩

/-! ### The slot (R489) -/

theorem exec_cartInsert (hc : s.cart = .none) (id : List Char) (wp blank c3 : Bool) :
    exec (.cartInsert id wp blank c3) s =
      .next (({ s with tape := { Tape.reset with id := id, wp := wp, blank := blank, c3 := c3, hint := s.tape.hint } }.setCart .present []).edge true .cart) := if_neg (by simp [hc])

theorem exec_cartRemove (hc : s.cart ≠ .none) (hw : s.cart ≠ .writing) {u t : State}
    (hu : u = ({ s.setCart .none [] with tape := { Tape.reset with hint := (s.setCart .none []).tape.hint } } : State).endOps .nocart) (ht : t = u.failReads .nocart (s.setCart .none []).allReads) :
    exec .cartRemove s = .next (if t.mot = .moving then t.beginStop else t) := by
  subst hu ht
  change execCartRemove s = _
  unfold execCartRemove
  rw [if_neg hc, if_neg hw]

/-! ### CART? and FLUSH (R84, R232) -/

theorem State.cartItems_length (s : State) : s.cartItems.length = 8 := rfl

theorem exec_cartQuery {ln : Ln} (h : s.serves ln .view) : exec (.cartQuery ln) s = .next (s.reply ln [] (.ok s.cartItems)) := next_verb_ok h rfl

section
variable {ln : Ln} (hp : s.pwr = .run) (hq : s.quiesced 6 = false) (hc : s.cart = .writing)
include hp hq hc

theorem State.flush_free : s.blocked ln false false [.writing] false = none := State.blocked_none (by simp) (by simp) hp hq (.inr (by simp [hc])) (by simp)

variable (h : s.serves ln .operate)
include h

theorem exec_flush_nothing (hn : s.nothingOpen = true) : exec (.flush ln) s = .next (s.closeStripes.reply ln [] (.ok [⟨"DS", .dash⟩])) := by
  have hfree := State.flush_free (ln := ln) hp hq hc
  change execFlush ln s = _
  unfold execFlush
  dsimp only
  rw [if_neg (by simp [hn]), hfree]
  exact next_verb_ok h rfl

theorem exec_flush_open (hn : s.nothingOpen = false) :
    exec (.flush ln) s = .next ({ s with con := { s.con with opFlush := s.con.opFlush ++ [(s.sch.nextFeed, ln)] } } : State).flushNow := by
  obtain ⟨hpres, hlevel, hrescue⟩ := h
  exact if_pos ⟨hpres, hlevel, hrescue, State.flush_free hp hq hc, hn⟩

end

/-- A dataset is open: the flush closes it, and opens none for the rest of a block. -/
theorem exec_flushDatasetClose (hc : s.fmt.cur.isSome = true) (hf : s.flushReady = true) : exec .flushDatasetClose s = .next s.flushClose := by
  have hopen : ¬(s.fmt.cur.isNone = true ∧ s.fmt.rest.isSome = true ∧ s.fmt.flushTo ≠ [] ∧ s.heldDs < 2) := by
    rintro ⟨hno, -⟩
    simp [Option.isNone_iff_eq_none.mp hno] at hc
  change execFlushDatasetClose s = _
  unfold execFlushDatasetClose
  rw [if_neg hopen]
  exact if_pos hf

end

end Sys2Proof.Machine

open Sys2Proof.Machine in
/-- Settles O9: the facts about directory copies, and one lemma for each end of an operation. -/
theorem cartridgeOperationsEnd : Obligations.CartridgeOperationsEnd := by
  refine ⟨fun _ b => copyInfo_fields b, fun _ _ _ => newestCopy_newest, fun _ _ _ hc hs hh hi => exec_loadComplete_found hc hs (State.loadInfo_copy hh hi),
    fun _ hc hs hh => exec_loadComplete_found hc hs (State.loadInfo_blank hh), fun _ _ hc hs hh hi hf => exec_loadComplete_noDir hc hs (State.loadInfo_none hh hi hf) rfl, ?hint,
    fun _ failed hc hs => exec_unloadComplete hc hs failed rfl rfl, fun _ ho hst hr hs hc => exec_recordStartComplete ho hst hr hs hc rfl rfl, fun _ => exec_recordStopComplete⟩
  case hint =>
    intro s h f hc hs hh
    obtain ⟨ws, gen, c3, hi⟩ := State.loadInfo_hint hh f
    exact ⟨ws, gen, c3, exec_loadComplete_found hc hs hi⟩

open Sys2Proof.Machine in
/-- Settles O10: one lemma for each command and outcome. -/
theorem cartridgeComesAndGoes : Obligations.CartridgeComesAndGoes :=
  ⟨fun _ id wp blank c3 hc => exec_cartInsert hc id wp blank c3, fun _ hc hw _ => ⟨_, rfl, exec_cartRemove hc hw rfl rfl⟩, fun s _ h => ⟨exec_cartQuery h, s.cartItems_length⟩,
    fun _ _ h hp hq hc => exec_flush_nothing hp hq hc h, fun _ _ h hp hq hc => exec_flush_open hp hq hc h, fun _ => exec_flushDatasetClose⟩
end

section
/-! SUPPORT. Motion reports and cleared trips (03_command_reference R85; 13_motor_drive R370), and the row of a PF register written by a source that it is open to. -/

namespace Sys2Proof.Machine

/-! ### The row of a PF register (00_scope R13; 05_tenants R133) -/

theorem pfRow_open {s : State} {src : Src} {a b c : Host.Outcome State Fault Refusal} : s.mayWrite src →
    (match src with
      | .vf _ => a
      | _ => if s.pfOpen src = false then b else c) = c := by
  rintro ⟨hvf, hopen⟩
  cases src with
  | vf n => exact absurd rfl (hvf n)
  | pf | sess | master | fwd => exact if_neg (by simp [hopen])

section
variable {s : State} {ln : Ln}

theorem exec_motionQuery (h : s.serves ln .view) : exec (.motionQuery ln) s = .next (s.reply ln [] (.ok s.motionItems)) := next_verb_ok h rfl

theorem exec_tripQuery (h : s.serves ln .view) :
    exec (.tripQuery ln) s = .next (s.reply ln [] (.ok [⟨"TRIPPED", .axes s.trippedNames⟩, ⟨"ACTIVE", .axes s.activeNames⟩])) := next_verb_ok h rfl

/-! ### TRIP CLEAR and MDR.TRIPCLR (R370) -/

/-- The units a TRIP CLEAR names (R85). -/
def tripArgUnits : TripArg → List MUnit
  | .supply => [.supply]
  | .takeup => [.takeup]
  | .fan => [.fan]
  | .all => allUnits

section
variable (h : s.serves ln .operate) (hm : s.mayMove ln)
include h hm

theorem exec_tripClear_clears {a : TripArg} (hr : s.clearRefused (tripArgUnits a) = false) :
    exec (.tripClear ln a) s = .next ((s.clearTrips (tripArgUnits a)).refreshMot.reply ln [] (.ok [⟨"CLEARED", .axes ((tripArgUnits a).map unitName)⟩])) := by
  refine next_verb_ok h ?_
  rw [hm.acts (.inl rfl)]
  exact if_neg (Bool.eq_false_iff.mp hr)

theorem exec_tripClear_refused {a : TripArg} (hr : s.clearRefused (tripArgUnits a) = true) : exec (.tripClear ln a) s = .next (s.reply ln [] (.er .tripactive [])) := by
  refine next_verb_er h ?_
  rw [hm.acts (.inl rfl)]
  exact if_pos hr

end

theorem exec_mdrTripclrWrite_clears {src : Src} {v : Word} (hm : s.mayWrite src) (hl : s.lacksLock src = false) (hr : s.clearRefused (unitsIn v.toNat) = false) :
    exec (.mdrTripclrWrite src v) s = .next (((s.clearTrips (unitsIn v.toNat)).refreshMot).overrideBy src "TRIP") := by
  have hw : s.wTripclr src v = .ok (((s.clearTrips (unitsIn v.toNat)).refreshMot).overrideBy src "TRIP") := by
    unfold State.wTripclr
    dsimp only
    rw [if_neg (by simp [hl]), if_neg (by simp [hr])]
  have hrow : exec (.mdrTripclrWrite src v) s = .next (s.apply src (s.wTripclr src v)) := pfRow_open hm
  rw [hrow, hw]
  rfl

end

end Sys2Proof.Machine

open Sys2Proof.Machine in
/-- Settles O12: one lemma for each outcome. -/
theorem motionReportsAndTripClears : Obligations.MotionReportsAndTripClears := by
  refine ⟨fun _ _ => exec_motionQuery, fun _ _ => exec_tripQuery, ?clears, ?refused, fun _ _ _ => exec_mdrTripclrWrite_clears⟩
  case clears =>
    intro s ln a us h hm hus hr
    obtain rfl : us = tripArgUnits a := by
      rw [hus]
      cases a <;> rfl
    exact exec_tripClear_clears h hm hr
  case refused =>
    intro s ln a us h hm hus hr
    obtain rfl : us = tripArgUnits a := by
      rw [hus]
      cases a <;> rfl
    exact exec_tripClear_refused h hm hr
end

section
/-! SUPPORT. How starts, stops, braking, catches, alignment and locates end (03_command_reference R85, R348, R349; 13_motor_drive R359 to R362): one lemma for each outcome of a command. -/

namespace Sys2Proof.Machine

section
variable {s : State}

/-! ### Starts and stops -/

theorem exec_motionStartComplete (ho : s.mdr.order = some .motion) (hst : s.mdr.start.isSome = true) (hr : s.reelsRun = true) (hs : s.mdr.stopping = false) {u : State}
    (hu : u = ({ s.started with con := { s.con with opMotion := none } } : State).setF F.SRV_SPD_CUR s.mdr.step) :
    exec .motionStartComplete s = .next (u.done s.con.opMotion [⟨"MOT", .word "MOVING"⟩, ⟨"STEP", .num u.mdr.step⟩, ⟨"DIR", .word (dirText u.mdr.rev)⟩]) := by
  subst hu
  exact if_pos ⟨ho, hst, hr, hs⟩

theorem exec_controlledStopEnd (hs : s.mdr.stopping = true) : exec .controlledStopEnd s = .next s.endMotion.stopDone := if_pos hs

theorem State.setMode_mdr (s : State) (a m : Nat) : (s.setMode a m).mdr = s.mdr := setF_mdr s (F.MDR_ASTAT_MODE a) m

/-- A failed start counts when the reels are being braked or run (R361). -/
theorem startFail_counts {u : MUnit} {x : Start} (hu : unitBit u < 2) (hp : x.phase = .braking ∨ x.phase = .running) : ¬(2 ≤ unitBit u ∨ x.phase = .catching ∨ x.phase = .aligning) := by
  rintro (h | h | h)
  · omega
  · simp [h] at hp
  · simp [h] at hp

section
variable {u : MUnit} {x : Start} (hu : unitBit u < 2) (hx : s.mdr.start = some x) (hp : x.phase = .braking ∨ x.phase = .running) (hs : x.stop = false)
include hu hx hp hs

theorem exec_startFail_first (hf : x.failed = false) {w : State} (hw : w = (((s.count (F.MDR_ACNT_FLYFAIL (unitBit u)) 1).log (errRec .flyfail .mdr [])).setMode 0 5).setMode 1 5) :
    exec (.startFail u) s =
      .next (({ w with mdr := { w.mdr with start := some { x with phase := .braking, left := [0, 1], failed := true } } } : State).setF F.SRV_SPD_CUR 0).refreshMot := by
  have hmdr : w.mdr = ((s.count (F.MDR_ACNT_FLYFAIL (unitBit u)) 1).log (errRec .flyfail .mdr [])).mdr := by rw [hw, State.setMode_mdr, State.setMode_mdr]
  rw [hmdr, hw]
  change execStartFail u s = _
  unfold execStartFail
  rw [hx]
  dsimp only
  rw [if_neg (startFail_counts hu hp), if_neg (by simp [hs]), if_neg (by simp [hf])]

theorem exec_startFail_second (hf : x.failed = true) :
    exec (.startFail u) s = .next (((s.count (F.MDR_ACNT_FLYFAIL (unitBit u)) 1).endOps .flyfail).endMotion) := by
  change execStartFail u s = _
  unfold execStartFail
  simp only [hx, startFail_counts hu hp, hs, hf, Bool.false_eq_true, if_false, if_true]

end

/-! ### Catches, alignment, the observer and braking (R359 to R361) -/

theorem exec_catchEnd_reels {x : Start} (hx : s.mdr.start = some x) (hp : x.phase = .catching) (a b : Int) (ofs : List (Nat × Nat)) :
    exec (.catchEnd false a b ofs) s = .next (s.catchReels x a b ofs) := by
  change execCatchEnd false a b ofs s = _
  unfold execCatchEnd
  rw [hx]
  exact if_pos hp

theorem exec_alignEnd_reels {x : Start} (hx : s.mdr.start = some x) (hp : x.phase = .aligning) : exec (.alignEnd false) s = .next (((s.setMode 0 2).setMode 1 2).runReels x) := by
  change execAlignEnd false s = _
  unfold execAlignEnd
  rw [hx]
  exact if_pos hp

theorem exec_alignEnd_fan (hm : s.axMode 2 = 1) : exec (.alignEnd true) s = .next (s.setMode 2 2) := if_pos hm

theorem exec_observerHandover {u : MUnit} (hu : unitBit u < 3) (hm : s.axMode (unitBit u) = 2 ∨ s.axMode (unitBit u) = 3) :
    exec (.observerHandover u) s = .next (((s.setMode (unitBit u) 3).setF (F.MDR_ASTAT_OBSOK (unitBit u)) 1).tidyLoops) := if_pos ⟨hu, hm⟩

/-- The last reel that was being braked stands still. -/
theorem exec_brakeToStandstill_last {u : MUnit} {x : Start} (hu : unitBit u < 2) (hx : s.mdr.start = some x) (hp : x.phase = .braking) (hl : x.left = [unitBit u]) (hs : x.stop = false) :
    exec (.brakeToStandstill u) s = .next (s.alignReels x) := by
  change execBrakeToStandstill u s = _
  unfold execBrakeToStandstill
  dsimp only
  rw [if_neg (by omega), if_neg (by omega), hx]
  dsimp only
  rw [if_pos (by simp [hp, hl]), if_neg (by simp [hl]), if_neg (by simp [hs])]

/-! ### Locates (R348, R349) -/

theorem exec_locateProbe {k : Seek} (hk : s.srv.seek = some k) {n d est step : Nat} {u : State} (hd : d = fullLen (zoneE k.ix))
    (hest : est = if n ≤ k.ds then onward k.ix k.est ((k.ds - n) * d) else backward k.ix k.est ((n - k.ds) * d)) (hstep : step = if 3 ≤ k.probes then 6 else 12)
    (hu : u = (s.setF F.SRV_LPW_LPW k.est).setF F.SRV_SPD_CUR step) :
    exec (.locateProbe n) s =
      .next (({ u with srv := { u.srv with seek := some { k with est := est, probes := k.probes + 1 } }, mdr := { u.mdr with step := step, rev := decide (est < k.est) } } : State).setF F.SRV_STAT_DIR
        (if est < k.est then 1 else 0)) := by
  subst hd hest hstep hu
  change execLocateProbe n s = _
  unfold execLocateProbe
  rw [hk]
  simp only [decide_eq_true_eq, show (4 ≤ k.probes + 1) = (3 ≤ k.probes) by simp]

section
variable (hs : s.mdr.stopping = false)
include hs

theorem exec_locateComplete_ds {n : Nat} (ho : s.mdr.order = some (.locateDs n)) (lpw : Nat) (d : Option Nat) :
    exec (.locateComplete true d lpw) s = .next (s.locateDone (backward s.headIx lpw (runUp (stepCms s.readStep))) [⟨"DS", .num n⟩, ⟨"LPW", .num lpw⟩]) := by
  change execLocateComplete true d lpw s = _
  unfold execLocateComplete
  rw [if_neg (by simp [hs]), ho]
  rfl

theorem exec_locateComplete_lpw {x lpw : Nat} (ho : s.mdr.order = some (.locateLpw x)) (h1 : lpw ≤ x + 2) (h2 : x ≤ lpw + 2) (d : Option Nat) :
    exec (.locateComplete true d lpw) s = .next (s.locateDone lpw [⟨"DS", (d.map Val.num).getD .dash⟩, ⟨"LPW", .num lpw⟩]) := by
  rw [← lastVal_eq]
  change execLocateComplete true d lpw s = _
  unfold execLocateComplete
  rw [if_neg (by simp [hs]), ho]
  exact (if_neg (by decide)).trans (if_pos ⟨h1, h2⟩)

end

end

end Sys2Proof.Machine

open Sys2Proof.Machine in
/-- Settles O13: one lemma for each end. -/
theorem motionOperationsEnd : Obligations.MotionOperationsEnd :=
  ⟨fun _ ho hst hr hs => exec_motionStartComplete ho hst hr hs rfl, fun _ => exec_controlledStopEnd, fun _ _ _ hu hx hp hs hf => exec_startFail_first hu hx hp hs hf rfl,
    fun _ _ _ => exec_startFail_second, fun _ _ a b ofs hx hp => exec_catchEnd_reels hx hp a b ofs, fun _ _ => exec_alignEnd_reels, fun _ => exec_alignEnd_fan,
    fun _ _ => exec_observerHandover, fun _ _ _ => exec_brakeToStandstill_last, fun _ _ _ hk => exec_locateProbe hk rfl rfl rfl rfl,
    fun _ _ lpw d hs ho => exec_locateComplete_ds hs ho lpw d, fun _ _ _ d hs ho h1 h2 => exec_locateComplete_lpw hs ho h1 h2 d⟩
end

section
/-! SUPPORT. POWER and POWER?, and the resets that verbs, registers, PERST_N and the watchdog order (03_command_reference R89, R90; 04_start_up R112, R120; 15_power R399, R402): one lemma
for each outcome. -/

namespace Sys2Proof.Machine

section
variable {s : State} {ln : Ln}

/-! ### POWER and POWER? (R89, R399) -/

section
variable {p : Pwr} (h : s.serves ln .operate) (hb : s.pwrBusy = false)
include h hb

theorem exec_power_same (hp : p = s.pwr) : exec (.power (.line ln) p) s = .next (s.reply ln [] (.ok [⟨"STATE", .word (pwrText s.pwr)⟩])).exitNow := by
  change execPower (.line ln) p s = _
  unfold execPower
  dsimp only
  rw [if_neg (by simp [hb]), if_pos hp, verb_ok h]

theorem exec_power_cart (hp : p ≠ s.pwr) (hd : 1 < pwrCode p) (hc : s.cart = .writing ∨ s.cart = .reading) :
    exec (.power (.line ln) p) s = .next (s.reply ln [] (.er .cartstate [])).exitNow := by
  change execPower (.line ln) p s = _
  unfold execPower
  dsimp only
  rw [if_neg (by simp [hb]), if_neg hp, if_pos ⟨hd, hc⟩, verb_er h]

theorem exec_power_begins (hp : p ≠ s.pwr) (hc : ¬(1 < pwrCode p ∧ (s.cart = .writing ∨ s.cart = .reading))) :
    exec (.power (.line ln) p) s = .next ((s.pwrBegin p (.line ln)).reply ln [] (.ok startedItems)).exitNow := by
  change execPower (.line ln) p s = _
  unfold execPower
  dsimp only
  rw [if_neg (by simp [hb]), if_neg hp, if_neg hc, verb_ok h]

end

theorem exec_powerQuery (h : s.serves ln .view) :
    exec (.powerQuery ln) s = .next (s.reply ln [] (.ok [⟨"STATE", .word (pwrText s.pwr)⟩, ⟨"DOMAINS", .hex 4 (s.getF F.PWR_STAT_DOMAINS)⟩,
      ⟨"HOLDUP", .word (if s.pw.holdup then "OK" else "LOW")⟩, ⟨"FIXER", .word (fixText s.fixer)⟩, ⟨"RES", .num s.resUsed⟩])) := next_verb_ok h rfl

/-! ### RESET WARM and RESET DOMAIN (R90) -/

theorem exec_resetWarm (h : s.answers ln .service) (k : Bool) : exec (.resetWarm ln k) s = .next ((s.reply ln [] (.ok [⟨"RESET", .word "WARM"⟩])).warm k false false) := by
  change execResetWarm ln k s = _
  unfold execResetWarm
  dsimp only
  rw [if_pos ((mayOrder_iff .service).mpr h), verb_ok_any h]

theorem exec_resetDomain (h : s.serves ln .service) {d : Nat} (h1 : 1 ≤ d) (h9 : d ≤ 9) :
    exec (.resetDomain ln d) s = .next ((s.reply ln [] (.ok [⟨"RESET", .chars ('D' :: decText d)⟩])).domReset d true) := by
  obtain ⟨hpres, hlevel, hrescue⟩ := id h
  have hbad : (d == 0 || decide (9 < d)) = false := by
    rw [Bool.or_eq_false_iff, beq_eq_false_iff_ne, decide_eq_false_iff_not]
    omega
  have hmay : s.mayOrder ln .service = true := (mayOrder_iff .service).mpr ⟨hpres, hlevel⟩
  change execResetDomain ln d s = _
  unfold execResetDomain
  dsimp only
  rw [hbad, hmay, hrescue]
  exact congrArg (fun t => Host.Outcome.next (State.domReset t d true)) (verb_ok h false)

/-! ### GLB.RSTCTL and GLB.WDOG (R112, R120) -/

/-- A source that a GLB register is open to writes it. -/
theorem State.glbWrite_open {src : Src} (hv : ∀ t, src ≠ .vf t) (hg : s.glbOpen src = true) (w : WRes) : s.glbWrite src w = s.apply src w := by
  cases src with
  | vf t => exact absurd rfl (hv t)
  | pf | sess | master | fwd => simp only [State.glbWrite, hg, if_true]

section
variable {src : Src} {v : Word} (hv : ∀ t, src ≠ .vf t) (hg : s.glbOpen src = true)
include hv hg

section
variable (hk : getBits v.toNat 16 16 = 0x4C59)
include hk

theorem exec_rstctlWarm (ho : getBits v.toNat 0 2 = 1) : exec (.rstctlWarm src v) s = .next (s.warm (getBits v.toNat 2 1 == 1) false false) := by
  have hw : s.wRstctl v = .ok (s.warm (getBits v.toNat 2 1 == 1) false false) := by
    unfold State.wRstctl
    dsimp only
    rw [if_neg (not_not.mpr hk), if_pos ho]
  change Host.Outcome.next (s.glbWrite src (s.wRstctl v)) = _
  rw [State.glbWrite_open hv hg, hw]
  rfl

theorem exec_rstctlDomain (ho : getBits v.toNat 0 2 = 2) (h1 : 1 ≤ getBits v.toNat 8 4) (h9 : getBits v.toNat 8 4 ≤ 9) :
    exec (.rstctlDomain src v) s = .next (s.domReset (getBits v.toNat 8 4) true) := by
  have hw : s.wRstctl v = .ok (s.domReset (getBits v.toNat 8 4) true) := by
    unfold State.wRstctl
    dsimp only
    rw [if_neg (not_not.mpr hk), if_neg (by omega), if_pos ho, if_neg (by omega)]
  change Host.Outcome.next (s.glbWrite src (s.wRstctl v)) = _
  rw [State.glbWrite_open hv hg, hw]
  rfl

end

theorem exec_watchdogWrite : exec (.watchdogWrite src v) s = .next ((s.setF F.GLB_WDOG_EN (getBits v.toNat 31 1)).setF F.GLB_WDOG_PERIOD (max 100 (getBits v.toNat 0 16))) := by
  change Host.Outcome.next (s.glbWrite src (s.wWdog v)) = _
  rw [State.glbWrite_open hv hg]
  rfl

end

/-! ### PERST_N and the watchdog (R112, R120) -/

/-- The state once PERST_N is low and the link is lost. -/
theorem exec_perstAssert {u : State} (hu : u = ({ s with hif := { s.hif with perst := true } } : State).linkLost) :
    exec .perstAssert s = .next (if u.boot.warming then { u with boot := { u.boot with perstDue := true } } else u.domReset 1 false) := by
  subst hu
  rfl

/-- The loss of the link ends no warm reset. -/
theorem linkLost_warming (s : State) : s.linkLost.boot.warming = s.boot.warming := by
  unfold State.linkLost State.hifShow
  dsimp only
  rw [setF_boot, setF_boot, setF_boot, setF_boot, setF_boot, setF_boot]

theorem exec_watchdogExpiry (hp : s.boot.phase = .up) (hh : s.boot.wdogHeld = false) (hd : s.pw.halted = false) (he : s.bit F.GLB_WDOG_EN = true) :
    exec .watchdogExpiry s = .next ((s.log (errRec .watchdog .seq [])).warm true false true) := if_neg (by simp [hp, hh, hd, he])

end

end Sys2Proof.Machine

open Sys2Proof.Machine in
/-- Settles O14: one lemma for each outcome. -/
theorem powerVerbsRequest : Obligations.PowerVerbsRequest := by
  refine ⟨fun _ _ _ => exec_power_same, fun _ _ _ => exec_power_cart, ?begins, fun _ _ => exec_powerQuery⟩
  case begins =>
    intro s ln p h hb hp hc
    refine exec_power_begins h hb hp ?_
    rintro ⟨hd, hw | hr⟩
    · rcases hc with hc | ⟨hc, -⟩
      · omega
      · exact hc hw
    · rcases hc with hc | ⟨-, hc⟩
      · omega
      · exact hc hr

open Sys2Proof.Machine in
/-- Settles O17: one lemma for each command; WARM_RESET, DOMAIN_RESET and PERST_DEASSERT are their meaning. -/
theorem resetCommandsReset : Obligations.ResetCommandsReset := by
  refine ⟨fun _ _ k h => exec_resetWarm h k, fun _ _ _ h h1 h9 => exec_resetDomain h h1 h9, fun _ _ => rfl, fun _ _ => rfl, fun _ _ _ => exec_rstctlWarm, fun _ _ _ => exec_rstctlDomain,
    ?perst, ?perstWarm, fun _ => rfl, fun _ => exec_watchdogExpiry, fun _ _ _ => exec_watchdogWrite⟩
  case perst =>
    intro s hw
    rw [exec_perstAssert rfl, linkLost_warming]
    exact congrArg Host.Outcome.next (if_neg (by simp [hw]))
  case perstWarm =>
    intro s u hw hu
    rw [exec_perstAssert hu]
    refine congrArg Host.Outcome.next (if_pos ?_)
    rw [hu, linkLost_warming]
    exact hw
end

section
/-! SUPPORT. TEST BOOT, keys and firmware updates (03_command_reference R91 to R93; 04_start_up R103, R106; 10_dataset R293): one lemma for each outcome. -/

namespace Sys2Proof.Machine

section
variable {s : State} {ln : Ln}

/-! ### TEST BOOT (R106) -/

section
variable (h : s.serves ln .service)
include h

theorem exec_testBoot (he : s.bootTestError = none) :
    exec (.testBoot ln) s = .next (({ s with boot := { s.boot with testing := true }, con := { s.con with opBoot := some ln } } : State).reply ln [] (.ok startedItems)) :=
  next_verb_ok_any ⟨h.1, h.2.1⟩ (by rw [he])

end

/-- A run in which nothing failed. -/
theorem exec_testBootComplete_pass (ht : s.boot.testing = true) (rate : Nat) :
    exec (.testBootComplete [] rate) s = .next ((s.dropBootTest.codecOk.fixRate rate).fanAgain.done s.con.opBoot (resultItems true Er.selftest.code)) := by
  change execTestBootComplete [] rate s = _
  unfold execTestBootComplete
  rw [if_neg (by simp [ht])]
  rfl

/-! ### Keys (R91, R92) -/

section
variable {k : KeyKind} {t : Tenant} {x : DWord} (h : s.serves ln .service)
include h

theorem exec_key_part {n : Nat} (h1 : 1 ≤ n) (h3 : n ≤ 3) (hn : (stagedFor (s.staging ln.who) k t).length + 1 = n) :
    exec (.key ln k t n x) s = .next ((s.setStaging ln.who (some ⟨k, t.val, stagedFor (s.staging ln.who) k t ++ [x]⟩)).reply ln [] (.ok [⟨"PART", .num n⟩])) := by
  refine next_verb_ok h ?_
  rw [if_neg (by omega)]
  dsimp only
  rw [if_neg (by omega), if_pos (by omega)]

theorem exec_key_last (hl : (stagedFor (s.staging ln.who) k t).length = 3) {bytes : List Byte} (hb : bytes = (stagedFor (s.staging ln.who) k t ++ [x]).flatMap (fun p => beBytes 8 p.toNat)) :
    exec (.key ln k t 4 x) s =
      .next (((s.setStaging ln.who none).writeKey t k bytes).reply ln [] (.ok [⟨"SLOT", .num t.val⟩, ⟨"KIND", .word (kindText k)⟩, ⟨"CHECK", .chars (keyCheck bytes)⟩])) := by
  subst hb
  refine next_verb_ok h ?_
  rw [if_neg (by omega)]
  dsimp only
  rw [if_neg (by omega), if_neg (by omega)]

theorem exec_key_disorder {n : Nat} (h1 : 1 ≤ n) (h4 : n ≤ 4) (hn : (stagedFor (s.staging ln.who) k t).length + 1 ≠ n) :
    exec (.key ln k t n x) s = .next ((s.setStaging ln.who none).reply ln [] (.er .keyseq [])) := by
  refine next_verb_fail h ?_
  rw [if_neg (by omega)]
  exact if_pos (by omega)

/-- A slot without the keys that an erasure names. -/
def KeySlot.erased (k : KeySlot) (w : EraseArg) : KeySlot := { k with hmac := if w = .aes then k.hmac else none, aes := if w = .hmac then k.aes else none }

theorem exec_keyErase {w : EraseArg} {y : KeySlot} (hy : y = (slotOf s.sec.keys t).erased w) :
    exec (.keyErase ln t w) s =
      .next (({ s with sec := { s.sec with keys := putSlot s.sec.keys y, chains := if w = .aes then s.sec.chains else s.sec.chains.filter (fun l => l.t != t) } } : State).reply ln []
        (.ok [⟨"SLOT", .num t.val⟩, ⟨"HMAC", setVal y.hmac⟩, ⟨"AES", setVal y.aes⟩])) := by
  subst hy
  refine next_verb_ok h ?_
  cases w with
  | hmac | aes | all => rfl

end

/-! ### Firmware updates (R91, R93, R103) -/

section
variable (h : s.answers ln .service)
include h

theorem exec_fwupdateStart {n : Nat} (hu : s.con.update = none) (hc : s.boot.commit = none) (ht : s.boot.testing = false) (h4 : n % 4 = 0) (hlo : 4 ≤ n) (hhi : n ≤ 196608) :
    exec (.fwupdateStart ln n) s = .next (({ s with con := { s.con with update := some ⟨Who.owner ln.who, n, []⟩ } } : State).reply ln [] (.ok [⟨"MAX", .num 196608⟩])) := by
  refine next_verb_ok_any h ?_
  rw [if_neg (by simp [hu, hc, ht]), if_neg (by unfold imageMax; omega)]
  rfl

section
variable {u : Update} (hu : s.openUpdate ln = some u)
include hu

theorem exec_flashWrite {ws : List Word} (hw : ws.length = 16) (hs : 4 * u.words.length < u.size) :
    exec (.flashWrite ln (4 * u.words.length) ws) s =
      .next (({ s with con := { s.con with update := some { u with words := u.words ++ ws } } } : State).reply ln [] (.ok [⟨"NEXT", .hex 6 (4 * u.words.length + 64)⟩])) := by
  refine next_verb_ok_any h ?_
  rw [hu]
  dsimp only
  rw [if_neg (by omega), if_neg (by omega)]

theorem exec_fwupdateCommit {crc : Word} (hs : u.size ≤ 4 * u.words.length) :
    exec (.fwupdateCommit ln crc) s =
      .next (({ s with con := { s.con with update := none, opFw := some ln }, boot := { s.boot with commit := some (crc, u) } } : State).reply ln [] (.ok startedItems)) := by
  refine next_verb_ok_any h ?_
  rw [hu]
  exact if_neg (by omega)

theorem exec_fwupdateAbort : exec (.fwupdateAbort ln) s = .next (({ s with con := { s.con with update := none } } : State).reply ln [] (.ok [])) :=
  next_verb_ok_any h (by rw [hu])

end

end

/-- The image goes to the slot that did not boot, and the other stays. -/
theorem State.writeSlot_slots (s : State) (crc : Word) (u : Update) :
    (s.writeSlot crc u).2.image = updateBytes u ∧
      if s.boot.bootedB then (s.writeSlot crc u).1.boot.slotA = (s.writeSlot crc u).2 ∧ (s.writeSlot crc u).1.boot.slotB = s.boot.slotB
      else (s.writeSlot crc u).1.boot.slotB = (s.writeSlot crc u).2 ∧ (s.writeSlot crc u).1.boot.slotA = s.boot.slotA := by
  refine ⟨rfl, ?_⟩
  unfold State.writeSlot
  cases hb : s.boot.bootedB
  · simp [hb]
  · simp [hb]

section
variable {u : Update} {crc : Word} (hc : s.boot.commit = some (crc, u)) {v : State} (hv : v = { s with boot := { s.boot with commit := none }, con := { s.con with opFw := none } })
include hc hv

theorem exec_fwupdateCommitComplete_right (hcrc : crc32 (updateBytes u) = crc.toNat) :
    exec .fwupdateCommitComplete s = .next ((v.writeSlot crc u).1.done s.con.opFw [⟨"FW", .chars (versionText (v.writeSlot crc u).2.version)⟩]) := by
  subst hv
  change execFwupdateCommitComplete s = _
  unfold execFwupdateCommitComplete
  rw [hc]
  exact if_pos hcrc

theorem exec_fwupdateCommitComplete_wrong (hcrc : crc32 (updateBytes u) ≠ crc.toNat) : exec .fwupdateCommitComplete s = .next (v.done s.con.opFw (erItems .fwcrc [])) := by
  subst hv
  change execFwupdateCommitComplete s = _
  unfold execFwupdateCommitComplete
  rw [hc]
  exact if_neg hcrc

end

end

end Sys2Proof.Machine

open Sys2Proof.Machine in
/-- Settles O19: one lemma for each outcome. -/
theorem testsAndFirmware : Obligations.TestsAndFirmware := by
  refine ⟨fun _ _ => exec_testBoot, fun _ rate ht => exec_testBootComplete_pass ht rate, fun _ _ _ _ _ _ h h1 h3 hn => exec_key_part h h1 h3 hn, fun _ _ _ _ _ h hl => exec_key_last h hl rfl,
    fun _ _ _ _ _ _ h h1 h4 hn => exec_key_disorder h h1 h4 hn, fun _ _ _ _ h => exec_keyErase h rfl, fun _ _ _ h hu hc ht h4 hlo hhi => exec_fwupdateStart h hu hc ht h4 hlo hhi, fun _ _ _ _ h hu => exec_flashWrite h hu,
    fun _ _ _ _ h hu => exec_fwupdateCommit h hu, fun _ _ _ h hu => exec_fwupdateAbort h hu, ?right, fun _ _ _ hc => exec_fwupdateCommitComplete_wrong hc rfl⟩
  case right =>
    intro s u crc hc hcrc
    obtain ⟨himage, hslots⟩ := State.writeSlot_slots { s with boot := { s.boot with commit := none }, con := { s.con with opFw := none } } crc u
    exact ⟨_, _, rfl, himage, hslots, exec_fwupdateCommitComplete_right hc rfl hcrc⟩
end

section
/-! SUPPORT. The tenant and queue verbs, and QCMD (03_command_reference R86 to R88; 06_queues R160 to R163; 07_interrupts R206): one lemma for each outcome. -/

namespace Sys2Proof.Machine

section
variable {s : State} {ln : Ln}

/-! ### TENANT? and QUEUE? (R86, R88) -/

section
variable (h : s.serves ln .view)
include h

theorem exec_tenantQuery {t : Tenant} {w : Nat} (hw : w = (s.rd (R.SCH_TSHARE t.val)).toNat) :
    exec (.tenantQuery ln t) s = .next (s.reply ln [] (.ok [⟨"T", .num t.val⟩, ⟨"EN", .num (if s.enabled t then 1 else 0)⟩, ⟨"CLASS", .word (clsName (getBits w 28 2))⟩,
      ⟨"WEIGHT", .num (getBits w 8 8)⟩, ⟨"RATE", .num (getBits w 0 8)⟩, ⟨"QUEUES", .num (s.ownedBy t).length⟩, ⟨"VEC", .num (s.vecCount t)⟩])) := by
  subst hw
  exact next_verb_ok h rfl

theorem exec_queueQuery {q : Nat} {x : Queue} (hq : q < 1024) (hx : s.queue? q = some x) :
    exec (.queueQuery ln q) s = .next (s.reply ln [] (.ok [⟨"Q", .num q⟩, ⟨"T", .num x.tenant.val⟩, ⟨"NEXTSEQ", .num x.nextReported⟩, ⟨"ACC", .num (s.qAcc q)⟩,
      ⟨"SEC", .num (s.qSec q)⟩, ⟨"DUR", .num (s.qDur q)⟩, ⟨"TIMEOUT", .num x.timeout⟩, ⟨"FLAG", if x.shortTmo then .word "SHORTTMO" else .dash⟩])) := by
  refine next_verb_ok h ?_
  rw [if_neg (Nat.not_le.mpr hq), hx]

end

/-! ### What a create comes to (R162) -/

theorem State.create_ok {r : CreateReq} {i : Tenant × Qid × Fin 64} (hc : s.createCheck r = .ok i) :
    s.create r = .ok (s.makeQueue i.1 i.2.1 i.2.2 r.ring (r.sizeLog.getD 8) r.timeout, i.2.1) := by
  unfold State.create
  rw [hc]

theorem State.create_error {r : CreateReq} {e : Er} (hc : s.createCheck r = .error e) : s.create r = .error e := by
  unfold State.create
  rw [hc]

theorem shortItems_eq (n : Nat) : shortItems (decide (n < retryBudget)) = if n < 19200 then [⟨"FLAG", .word "SHORTTMO"⟩] else [] := by
  unfold shortItems retryBudget
  simp only [decide_eq_true_eq]

section
variable (h : s.serves ln .operate)
include h

/-! ### TENANT (R206) -/

theorem exec_tenant {t : Tenant} {c : Cls} {wt r : Nat} (he : s.enabled t = true) (h1 : 1 ≤ wt) (h2 : wt ≤ 255) (hr : r ≤ 255) {w : Word}
    (hw : w = BitVec.ofNat 32 (2 ^ 28 * clsNum c + 2 ^ 8 * wt + r)) :
    exec (.tenant ln t (some c) (some wt) (some r)) s =
      .next (if s.shareBad t w then s.reply ln [] (.er .rate [])
        else (s.changeShare t w).reply ln [] (.ok [⟨"T", .num t.val⟩, ⟨"CLASS", .word (clsName (clsNum c))⟩, ⟨"WEIGHT", .num wt⟩, ⟨"RATE", .num r⟩])) := by
  subst hw
  change execTenant ln t (some c) (some wt) (some r) s = _
  unfold execTenant
  rw [if_neg (by simp), if_neg (by simp [he]), if_neg (by simp only [Option.getD_some]; omega)]
  dsimp only [Option.getD_some, Option.map_some]
  split
  · rw [verb_er h]
  · rw [verb_ok h]

/-! ### QUEUE CREATE and QUEUE DELETE (R87, R88, R162, R163) -/

section
variable {t : Tenant} {q : Option Nat} {ring : Option DWord} {size tmo : Option Nat}

theorem exec_queueCreate_creates {i : Tenant × Qid × Fin 64} (hc : s.createCheck ⟨t.val, q, ring.map (·.toNat), sizeLogOf (size.getD 256), tmo.getD 30000⟩ = .ok i) :
    exec (.queueCreate ln t q ring size tmo) s =
      .next ((s.makeQueue i.1 i.2.1 i.2.2 (ring.map (·.toNat)) ((sizeLogOf (size.getD 256)).getD 8) (tmo.getD 30000)).reply ln []
        (.ok (⟨"Q", .num i.2.1.val⟩ :: (if tmo.getD 30000 < 19200 then [⟨"FLAG", .word "SHORTTMO"⟩] else [])))) := by
  rw [← shortItems_eq]
  refine next_verb_ok h ?_
  rw [State.create_ok hc]

theorem exec_queueCreate_refused {e : Er} (hc : s.createCheck ⟨t.val, q, ring.map (·.toNat), sizeLogOf (size.getD 256), tmo.getD 30000⟩ = .error e) :
    exec (.queueCreate ln t q ring size tmo) s = .next (s.reply ln [] (.er e [])) := by
  refine next_verb_er h ?_
  rw [State.create_error hc]

end

theorem exec_queueDelete_deletes {q : Qid} (hd : s.deleteCheck q.val = none) : exec (.queueDelete ln q.val) s = .next ((s.dropQueue q).reply ln [] (.ok [⟨"Q", .num q.val⟩])) := by
  refine next_verb_ok h ?_
  rw [dif_pos q.isLt, hd]

theorem exec_queueDelete_refused {q : Qid} {e : Er} (hd : s.deleteCheck q.val = some e) : exec (.queueDelete ln q.val) s = .next (s.reply ln [] (.er e [])) := by
  refine next_verb_er h ?_
  rw [dif_pos q.isLt, hd]

end

/-! ### QCMD (R160 to R163) -/

/-- What QRINGq and QCFGq ask for (R160). -/
def State.qcmdReq (s : State) (q : Qid) : CreateReq :=
  ⟨s.getF (F.QMG_QCFG_TENANT q.val), some q.val, if s.bit (F.QMG_QCFG_DRT q.val) then none else some (s.rd64 (R.QMG_QRING q.val)),
    if 4 ≤ s.getF (F.QMG_QCFG_SIZELOG q.val) then some (s.getF (F.QMG_QCFG_SIZELOG q.val)) else none, s.getF (F.QMG_QCFG_TIMEOUT q.val)⟩

theorem State.qcmdCreate_eq (s : State) (q : Qid) :
    s.qcmdCreate q = match s.createCheck (s.qcmdReq q) with
      | .ok i => (s.makeQueue i.1 i.2.1 i.2.2 (s.qcmdReq q).ring ((s.qcmdReq q).sizeLog.getD 8) (s.qcmdReq q).timeout).qres q.val 0
      | .error e => s.qres q.val e.code := by
  change (match s.create (s.qcmdReq q) with | .error e => s.qres q.val e.code | .ok (t, _) => t.qres q.val 0) = _
  cases hc : s.createCheck (s.qcmdReq q) with
  | ok i => rw [State.create_ok hc]
  | error e => rw [State.create_error hc]

section
variable {src : Src} {q : Qid}

/-- QCMD creates before READY too, but not for a host in a warm reset (R116). -/
theorem exec_qcmdCreate (hv : ∀ t, src ≠ .vf t) (hp : src = .pf → s.boot.warming = false ∧ s.d3hot 0 = false) : exec (.qcmdCreate src q) s = .next (s.qcmdCreate q) := by
  cases src with
  | vf t => exact absurd rfl (hv t)
  | pf =>
    obtain ⟨hw, hd⟩ := hp rfl
    exact if_neg (by simp [hw, hd])
  | sess | master | fwd => rfl

variable (hm : s.mayWrite src)
include hm

theorem exec_qcmdDelete : exec (.qcmdDelete src q) s = .next (s.qcmdDelete q) := pfRow_open hm

theorem exec_qcmdDelete_deletes (hd : s.deleteCheck q.val = none) : exec (.qcmdDelete src q) s = .next ((s.dropQueue q).qres q.val 0) := by
  rw [exec_qcmdDelete hm]
  unfold State.qcmdDelete
  rw [hd]

theorem exec_qcmdDelete_refused {e : Er} (hd : s.deleteCheck q.val = some e) : exec (.qcmdDelete src q) s = .next (s.qres q.val e.code) := by
  rw [exec_qcmdDelete hm]
  unfold State.qcmdDelete
  rw [hd]

end

end

end Sys2Proof.Machine

open Sys2Proof.Machine in
/-- Settles O20: one lemma for each outcome. -/
theorem queueVerbsAct : Obligations.QueueVerbsAct := by
  refine ⟨fun _ _ _ h => exec_tenantQuery h rfl, fun _ _ _ _ _ _ h he h1 h2 hr => exec_tenant h he h1 h2 hr rfl, fun _ _ _ _ _ _ _ _ h hc => exec_queueCreate_creates h hc,
    fun _ _ _ _ _ _ _ _ h hc => exec_queueCreate_refused h hc, fun _ _ _ h hd => exec_queueDelete_deletes h hd, fun _ _ _ _ h hd => exec_queueDelete_refused h hd, fun _ _ _ _ h hq hx => exec_queueQuery h hq hx, ?create,
    fun _ _ _ => exec_qcmdDelete_deletes, fun _ _ _ _ hm hd => exec_qcmdDelete_refused hm hd⟩
  case create =>
    intro s src q r hv hp hr
    obtain rfl : r = s.qcmdReq q := hr
    exact (exec_qcmdCreate hv hp).trans (congrArg Host.Outcome.next (s.qcmdCreate_eq q))
end

section
/-! SUPPORT. The codec enables, its self-test and block expansion (03_command_reference R91; 08_reducer R233 to R240): one lemma for each outcome. -/

namespace Sys2Proof.Machine

section
variable {s : State}

/-! ### Enables (R240) -/

section
variable {src : Src} (hm : s.mayWrite src) (v : Word)
include hm

theorem exec_rdcEngineEnableWrite {b : Nat} (hb : b = getBits v.toNat 16 9) :
    exec (.rdcEngineEnableWrite src v) s =
      .next (((s.setF F.RDC_CFG_EN (getBits v.toNat 0 4)).setF F.RDC_CFG_BLKMAX (if b < 16 ∨ 256 < b then 256 else b)).settle.engFail s.rdcCount) := by
  subst hb
  exact pfRow_open hm

theorem exec_enlEngineEnableWrite : exec (.enlEngineEnableWrite src v) s = .next (s.setF F.ENL_CFG_EN (getBits v.toNat 0 4)) := pfRow_open hm

end

/-! ### The self-test (R236 to R238) -/

section
variable {ln : Ln} (h : s.serves ln .service)
include h

theorem exec_testCodec_power (hp : s.pwr ≠ .run) : exec (.testCodec ln) s = .next (s.reply ln [] (.er .pwrstate [])) := next_verb_er h (if_pos hp)

variable (hp : s.pwr = .run)
include hp

theorem exec_testCodec_busy (hb : s.cdc.test.isSome = true ∨ s.boot.testing = true) : exec (.testCodec ln) s = .next (s.reply ln [] (.er .testbusy [])) := by
  refine next_verb_er h ?_
  rw [if_neg (not_not.mpr hp), if_pos hb]

theorem exec_testCodec_starts (hn : s.cdc.test = none) (ht : s.boot.testing = false) :
    exec (.testCodec ln) s = .next (({ s.startTest with con := { s.startTest.con with opCodec := [ln] } } : State).reply ln [] (.ok startedItems)) := by
  refine next_verb_ok h ?_
  rw [if_neg (not_not.mpr hp), if_neg (by simp [hn, ht])]
  rfl

end

theorem exec_codecTestPeriod (s : State) :
    exec .codecTestPeriod s = .next (if s.cdc.test.isSome = true ∨ s.getF F.RDC_STEST_PERIOD = 0 ∨ s.domainOn 3 = false then s else s.startTest) := by
  change execCodecTestPeriod s = _
  unfold execCodecTestPeriod
  split
  · rfl
  · rfl

section
variable {t : CodecTest} (ht : s.cdc.test = some t)
include ht

theorem exec_codecTestSlice {enl : Bool} {e : Eng} (v : Verdict) {u : State} (hu : u = if enl then s.setEnl e { s.cdc.enl[e] with held := false } else s.setEng e { s.eng e with held := false }) :
    exec (.codecTestSlice enl e v) s =
      if 16 ≤ (if enl then t.enl else t.rdc).getD e.val 16 ∨ (enl = false ∧ (s.eng e).job.isSome = true) then .next s else .next ((u.slice t enl e (v == .pass)).endTest.settle) := by
  subst hu
  change execCodecTestSlice enl e v s = _
  unfold execCodecTestSlice
  rw [ht]

theorem exec_codecTestWaitExpiry (enl : Bool) :
    exec (.codecTestWaitExpiry enl) s = .next { s with cdc := { s.cdc with test := some (if enl then { t with enlWait := true } else { t with rdcWait := true }) } } := by
  change execCodecTestWaitExpiry enl s = _
  unfold execCodecTestWaitExpiry
  rw [ht]

end

/-! ### Block expansion (R233, R234, R240) -/

section
variable {e : Eng} {blk : List Byte} {t : Tenant} {room ds : Nat} {rs : List (Qid × Nat)} (hd : s.domainOn 3 = true)
include hd

section
variable (he : s.enlOn e = true) (hh : (s.cdc.enl[e]).held = false) (hs : ∀ p ∈ s.rch.sup, p.1 ≠ ds)
include he hh hs

/-- The tests that an engine at work passes: one is enabled, and this one is, has no slice to run first, and the dataset is not superseded. -/
theorem blockExpand_goes :
    s.domainOn 3 ≠ false ∧ ¬(List.finRange 4).all (fun e => !(s.enlOn e)) = true ∧
      ¬(s.enlOn e = false ∨ (s.cdc.enl[e]).held = true ∨ s.rch.sup.any (fun p => p.1 == ds) = true) := by
  have hsup : s.rch.sup.any (fun p => p.1 == ds) = false := by
    simpa [List.any_eq_false] using fun a b hab => hs (a, b) hab
  refine ⟨by simp [hd], fun hall => ?_, by rw [he, hh, hsup]; decide⟩
  have hno := List.all_eq_true.mp hall e (List.mem_finRange e)
  simp [he] at hno

variable {u : State} (hu : u = s.count (F.ENL_ECNT_BLOCKS e.val) 1)
include hu

theorem exec_blockExpand_good {ps : List Piece} {replay : Bool} (hr : readBlock t.val room blk = .ok (ps, replay)) :
    exec (.blockExpand e blk t room ds rs) s = .next ((u.givePieces e t.val ds ps replay rs).holdEnl e) := by
  obtain ⟨hon, hsome, hgo⟩ := blockExpand_goes hd he hh hs
  subst hu
  change execBlockExpand e blk t room ds rs s = _
  unfold execBlockExpand
  rw [if_neg hon, if_neg hsome, if_neg hgo]
  dsimp only
  rw [hr]

theorem exec_blockExpand_bad {er : Er} (hr : readBlock t.val room blk = .error er) :
    exec (.blockExpand e blk t room ds rs) s = .next ((u.blockFails e er t.val ds rs).holdEnl e) := by
  obtain ⟨hon, hsome, hgo⟩ := blockExpand_goes hd he hh hs
  subst hu
  change execBlockExpand e blk t room ds rs s = _
  unfold execBlockExpand
  rw [if_neg hon, if_neg hsome, if_neg hgo]
  dsimp only
  rw [hr]

end

theorem exec_blockExpand_noEngine (he : ∀ x, s.enlOn x = false) : exec (.blockExpand e blk t room ds rs) s = .next (s.failReads .engfail rs) := by
  change execBlockExpand e blk t room ds rs s = _
  unfold execBlockExpand
  rw [if_neg (by simp [hd]), if_pos (by simp [he])]

end

end

end Sys2Proof.Machine

open Sys2Proof.Machine in
/-- Settles O32: one lemma for each command; a slice, a wait's expiry and an expansion by the branch they take. -/
theorem codecEnablesAndSelfTest : Obligations.CodecEnablesAndSelfTest := by
  refine ⟨fun _ _ v hm => exec_rdcEngineEnableWrite hm v rfl, fun _ _ v hm => exec_enlEngineEnableWrite hm v, ?test, exec_codecTestPeriod, ?run, ?expand,
    fun _ _ _ _ _ _ _ hd he => exec_blockExpand_noEngine hd he⟩
  case test =>
    intro s ln h hr
    have hserves : s.serves ln .service := ⟨h.1, h.2, hr⟩
    exact ⟨exec_testCodec_power hserves, exec_testCodec_busy hserves, exec_testCodec_starts hserves⟩
  case run =>
    intro s e v t ht
    refine ⟨fun hn => ?_, fun hn hj => ?_, fun hn => ?_, fun hn => ?_, exec_codecTestWaitExpiry ht true, exec_codecTestWaitExpiry ht false⟩
    · rw [exec_codecTestSlice ht v rfl]
      refine if_neg ?_
      rintro (hle | ⟨hf, -⟩)
      · exact Nat.not_le.mpr hn hle
      · cases hf
    · rw [exec_codecTestSlice ht v rfl]
      refine if_neg ?_
      rintro (hle | ⟨-, hb⟩)
      · exact Nat.not_le.mpr hn hle
      · simp [hj] at hb
    · rw [exec_codecTestSlice ht v rfl]
      exact if_pos (.inl hn)
    · rw [exec_codecTestSlice ht v rfl]
      exact if_pos (hn.imp_right fun hj => ⟨rfl, hj⟩)
  case expand =>
    intro s e blk t room ds rs hd he hh hs
    cases hr : readBlock t.val room blk with
    | ok x => exact exec_blockExpand_good hd he hh hs rfl hr
    | error er => exact exec_blockExpand_bad hd he hh hs rfl hr
end

section
/-! SUPPORT. The Loupe and the Proof self-test (03_command_reference R91; 11_read_channel R318 to R321): what a write of LPCFG leaves in its fields, and one lemma for each outcome. -/

namespace Sys2Proof.Machine

/-! ### A write of LPCFG (R318, R319) -/

/-- The settings of LPCFG as a write leaves them. -/
def State.lpStored (s : State) (v : Word) : State :=
  (((s.setF F.RCH_LPCFG_SRC (if getBits v.toNat 28 2 = 3 then 0 else getBits v.toNat 28 2)).setF F.RCH_LPCFG_TRIG (getBits v.toNat 24 4)).setF F.RCH_LPCFG_INPUT (getBits v.toNat 16 6)).setF
    F.RCH_LPCFG_PRE (getBits v.toNat 0 15)

/-- A capture discarded, the Loupe armed or not. -/
def State.lpDiscarded (s : State) (arm : Bool) : State :=
  (((({ s with rch := { s.rch with loupe := ⟨arm, none, [], []⟩ } } : State).setF F.RCH_LPSTAT_DONE 0).setF F.RCH_LPSTAT_ARMED (if arm then 1 else 0)).setF F.RCH_LPSTAT_TRIGPOS 0)

/-- The state after a write of LPCFG: the settings, what they discard, and the event of FIRE. -/
def State.lpWritten (s : State) (v : Word) : State :=
  let u := if (getBits v.toNat 31 1 == 1) = true ∨ (s.lpStored v).rd R.RCH_LPCFG ≠ s.rd R.RCH_LPCFG then (s.lpStored v).lpDiscarded (getBits v.toNat 31 1 == 1) else s.lpStored v
  if getBits v.toNat 30 1 = 1 then u.loupeEvent 0 (u.getF F.RCH_LPCFG_INPUT) else u

theorem State.wLpcfg_eq (s : State) (v : Word) : s.wLpcfg v = .ok (s.lpWritten v) := rfl

section
variable (s : State)

theorem State.loupeEvent_regs (trig input : Nat) : (s.loupeEvent trig input).regs = s.regs := by
  unfold State.loupeEvent
  dsimp only
  split
  · rfl
  · rfl

/-- Discarding a capture leaves the registers other than LPSTAT. -/
theorem State.lpDiscarded_getF (arm : Bool) {g : Fld} (hg : g.off ≠ R.RCH_LPSTAT) : (s.lpDiscarded arm).getF g = s.getF g := by
  unfold State.lpDiscarded
  rw [getF_setF_other _ _ (by decide) (.inl hg), getF_setF_other _ _ (by decide) (.inl hg), getF_setF_other _ _ (by decide) (.inl hg)]
  exact getF_of_regs rfl g

theorem State.lpWritten_getF (v : Word) {g : Fld} (hg : g.off ≠ R.RCH_LPSTAT) : (s.lpWritten v).getF g = (s.lpStored v).getF g := by
  have hdiscard : (if (getBits v.toNat 31 1 == 1) = true ∨ (s.lpStored v).rd R.RCH_LPCFG ≠ s.rd R.RCH_LPCFG then (s.lpStored v).lpDiscarded (getBits v.toNat 31 1 == 1) else s.lpStored v).getF g =
      (s.lpStored v).getF g := by
    split
    · exact (s.lpStored v).lpDiscarded_getF _ hg
    · rfl
  unfold State.lpWritten
  dsimp only
  rw [← hdiscard]
  split
  · exact getF_of_regs (State.loupeEvent_regs _ _ _) g
  · rfl

theorem State.lpWritten_pre (v : Word) : (s.lpWritten v).getF F.RCH_LPCFG_PRE = getBits v.toNat 0 15 := by
  rw [s.lpWritten_getF v (by decide)]
  unfold State.lpStored
  rw [getF_setF_same _ _ _ (by decide)]
  exact Nat.mod_eq_of_lt (getBits_lt _ _ _)

theorem State.lpWritten_input (v : Word) : (s.lpWritten v).getF F.RCH_LPCFG_INPUT = getBits v.toNat 16 6 := by
  rw [s.lpWritten_getF v (by decide)]
  unfold State.lpStored
  rw [getF_setF_other _ _ (by decide) (by decide), getF_setF_same _ _ _ (by decide)]
  exact Nat.mod_eq_of_lt (getBits_lt _ _ _)

/-- ARM without FIRE leaves the Loupe armed, with nothing captured. -/
theorem State.lpWritten_armed {v : Word} (ha : getBits v.toNat 31 1 = 1) (hf : getBits v.toNat 30 1 = 0) : s.lpWritten v = (s.lpStored v).lpDiscarded true := by
  unfold State.lpWritten
  dsimp only
  rw [if_neg (by omega), ha]
  exact if_pos (.inl rfl)

theorem State.lpDiscarded_loupe (arm : Bool) : (s.lpDiscarded arm).rch.loupe = ⟨arm, none, [], []⟩ := by
  unfold State.lpDiscarded
  rw [setF_rch, setF_rch, setF_rch]

theorem State.lpDiscarded_armed : (s.lpDiscarded true).bit F.RCH_LPSTAT_ARMED = true := by
  unfold State.lpDiscarded State.bit
  rw [getF_setF_other _ _ (by decide) (by decide), getF_setF_same _ _ _ (by decide)]
  rfl

theorem State.lpDiscarded_done (arm : Bool) : (s.lpDiscarded arm).bit F.RCH_LPSTAT_DONE = false := by
  unfold State.lpDiscarded State.bit
  rw [getF_setF_other _ _ (by decide) (by decide), getF_setF_other _ _ (by decide) (by decide), getF_setF_same _ _ _ (by decide)]
  rfl

end

section
variable {s : State} {src : Src} (hm : s.mayWrite src) (v : Word)
include hm

theorem exec_loupeArm : exec (.loupeArm src v) s = .next (s.lpWritten v) := pfRow_open hm

theorem exec_loupeFire : exec (.loupeFire src v) s = .next (s.lpWritten v) := pfRow_open hm

end

/-! ### The end of a capture (R318) -/

/-- The samples a capture holds: PRE of them before the trigger, zero where fewer were taken, and the rest from the trigger on. -/
def Loupe.samples (l : Loupe) (pre n : Nat) : List Byte :=
  let before := ((l.ring.drop n).take pre).reverse
  List.replicate (pre - before.length) 0#8 ++ before ++ ((l.ring.take n).reverse).take (32768 - pre)

/-- The registers of a capture that has ended, its samples held. -/
def State.lpCaptured (s : State) (held : List Byte) : State :=
  ((({ s with rch := { s.rch with loupe := ⟨false, none, [], held⟩ } } : State).setF F.RCH_LPSTAT_ARMED 0).setF F.RCH_LPSTAT_DONE 1).setF F.RCH_LPSTAT_TRIGPOS (s.getF F.RCH_LPCFG_PRE)

section
variable (s : State) (held : List Byte)

theorem State.lpCaptured_loupe : (s.lpCaptured held).rch.loupe = ⟨false, none, [], held⟩ := by
  unfold State.lpCaptured
  rw [setF_rch, setF_rch, setF_rch]

theorem State.lpCaptured_armed : (s.lpCaptured held).getF F.RCH_LPSTAT_ARMED = 0 := by
  unfold State.lpCaptured
  rw [getF_setF_other _ _ (by decide) (by decide), getF_setF_other _ _ (by decide) (by decide), getF_setF_same _ _ _ (by decide)]
  rfl

theorem State.lpCaptured_done : (s.lpCaptured held).getF F.RCH_LPSTAT_DONE = 1 := by
  unfold State.lpCaptured
  rw [getF_setF_other _ _ (by decide) (by decide), getF_setF_same _ _ _ (by decide)]
  rfl

theorem State.lpCaptured_trigpos : (s.lpCaptured held).getF F.RCH_LPSTAT_TRIGPOS = s.getF F.RCH_LPCFG_PRE := by
  unfold State.lpCaptured
  rw [getF_setF_same _ _ _ (by decide)]
  exact Nat.mod_eq_of_lt (getF_lt s F.RCH_LPCFG_PRE)

end

section
variable {s : State}

theorem exec_loupeCaptureEnd_ends {n : Nat} (hf : s.rch.loupe.fired = some n) (ha : s.rch.loupe.armed = true) (hn : 32768 - s.getF F.RCH_LPCFG_PRE ≤ n) :
    exec .loupeCaptureEnd s = .next (s.lpCaptured (s.rch.loupe.samples (s.getF F.RCH_LPCFG_PRE) n)) := by
  have hends : ¬(s.rch.loupe.armed = false ∨ n < 32768 - s.getF F.RCH_LPCFG_PRE) := by
    rintro (h | h)
    · simp [ha] at h
    · omega
  change execLoupeCaptureEnd s = _
  unfold execLoupeCaptureEnd
  dsimp only
  rw [hf]
  exact if_neg hends

theorem exec_loupeCaptureEnd_idle (h : s.rch.loupe.fired = none ∨ s.rch.loupe.armed = false) : exec .loupeCaptureEnd s = .next s := by
  change execLoupeCaptureEnd s = _
  unfold execLoupeCaptureEnd
  dsimp only
  split
  · rfl
  · rename_i n hf
    exact if_pos (.inl (h.resolve_left (by simp [hf])))

/-! ### The Proof self-test (R320, R321) -/

section
variable {ln : Ln} (h : s.serves ln .service)
include h

theorem exec_testProof_power (hp : s.pwr ≠ .run) : exec (.testProof ln) s = .next (s.reply ln [] (.er .pwrstate [])) := next_verb_er h (if_pos hp)

variable (hp : s.pwr = .run)
include hp

theorem exec_testProof_busy (hb : s.prf.test.isSome = true ∨ s.boot.testing = true) : exec (.testProof ln) s = .next (s.reply ln [] (.er .testbusy [])) := by
  refine next_verb_er h ?_
  rw [if_neg (not_not.mpr hp), if_pos hb]

theorem exec_testProof_starts (hn : s.prf.test = none) (ht : s.boot.testing = false) {u : State}
    (hu : u = { s with prf := { s.prf with test := some ⟨0, none⟩ }, con := { s.con with opProof := some ln } }) :
    exec (.testProof ln) s = .next ((u.setF F.PRF_STAT_TESTRUN 1).reply ln [] (.ok startedItems)) := by
  subst hu
  refine next_verb_ok h ?_
  rw [if_neg (not_not.mpr hp), if_neg (by simp [hn, ht])]
  rfl

end

/-- The first bad channel of a run, once a further channel is judged (R321). -/
def firstBad (known : Option Nat) (pass : Bool) (ch : Nat) : Option Nat :=
  match known with
  | some b => some b
  | none => if pass then none else some ch

/-- What follows the judgement of a channel, `b` the first bad one: the next channel, or the end of the run (R321). -/
def State.proofJudged (s : State) (ch : Nat) (b : Option Nat) : Host.Outcome State Fault Refusal :=
  if ch < 15 then .next { s with prf := { s.prf with test := some ⟨ch + 1, b⟩ } }
  else match b with
    | none => .next ((s.setF F.PRF_STAT_BAD 0).endProof 0 0)
    | some n => .next (((s.setF F.PRF_STAT_BAD 1).endProof 517 n).log (errRec .prooffail .prf [⟨"CH", .num n⟩]))

theorem exec_proofCheckpoint_idle (hn : s.prf.test = none) (ch : Chan) (rs : List (Nat × Readback)) : exec (.proofCheckpoint ch rs) s = .next s := by
  change execProofCheckpoint ch rs s = _
  unfold execProofCheckpoint
  rw [hn]

section
variable {p : ProofRun} (hp : s.prf.test = some p) (ch : Chan) (rs : List (Nat × Readback))
include hp

theorem exec_proofCheckpoint_write (hw : s.writeWaits = true) : exec (.proofCheckpoint ch rs) s = .next (s.endProof 317 0) := by
  change execProofCheckpoint ch rs s = _
  unfold execProofCheckpoint
  rw [hp]
  exact if_pos hw

variable (hw : s.writeWaits = false)
include hw

theorem exec_proofCheckpoint_other (hc : p.next ≠ ch.val) : exec (.proofCheckpoint ch rs) s = .next s := by
  change execProofCheckpoint ch rs s = _
  unfold execProofCheckpoint
  rw [hp]
  dsimp only
  rw [if_neg (by simp [hw]), if_pos hc]

theorem exec_proofCheckpoint_judges (hc : p.next = ch.val) :
    exec (.proofCheckpoint ch rs) s = s.proofJudged ch.val (firstBad p.bad (proofRows (s.getF F.PRF_CFG_RUN) (s.getF F.PRF_CFG_THRC) rs) ch.val) := by
  change execProofCheckpoint ch rs s = _
  unfold execProofCheckpoint
  rw [hp]
  dsimp only
  rw [if_neg (by simp [hw]), if_neg (not_not.mpr hc)]
  rfl

end

end

end Sys2Proof.Machine

open Sys2Proof.Machine in
/-- Settles O36: the fields after a write and after a capture, and one lemma for each outcome of a test. -/
theorem loupeAndProof : Obligations.LoupeAndProof := by
  refine ⟨?write, ?capture, fun _ => exec_loupeCaptureEnd_idle, ?test, fun _ ch rs hn => exec_proofCheckpoint_idle hn ch rs, ?checkpoint⟩
  case write =>
    intro s src v hm
    refine ⟨s.lpWritten v, s.wLpcfg_eq v, exec_loupeArm hm v, exec_loupeFire hm v, s.lpWritten_pre v, s.lpWritten_input v, fun ha hf => ?_⟩
    rw [s.lpWritten_armed ha hf]
    exact ⟨State.lpDiscarded_loupe _ true, State.lpDiscarded_armed _, State.lpDiscarded_done _ true⟩
  case capture =>
    intro s n hf ha hn
    have hloupe := s.lpCaptured_loupe (s.rch.loupe.samples (s.getF F.RCH_LPCFG_PRE) n)
    exact ⟨_, exec_loupeCaptureEnd_ends hf ha hn, congrArg Loupe.armed hloupe, congrArg Loupe.fired hloupe, s.lpCaptured_armed _, s.lpCaptured_done _, s.lpCaptured_trigpos _⟩
  case test =>
    intro s ln h hr
    have hserves : s.serves ln .service := ⟨h.1, h.2, hr⟩
    exact ⟨exec_testProof_power hserves, exec_testProof_busy hserves, fun hp hn ht => exec_testProof_starts hserves hp hn ht rfl⟩
  case checkpoint =>
    intro s ch rs p b hp hb
    replace hb : b = firstBad p.bad (proofRows (s.getF F.PRF_CFG_RUN) (s.getF F.PRF_CFG_THRC) rs) ch.val := hb
    refine ⟨exec_proofCheckpoint_write hp ch rs, exec_proofCheckpoint_other hp ch rs, fun hw hc hlt => ?_, fun hw hc hlast hgood => ?_, fun n hw hc hlast hbad => ?_⟩
    · rw [exec_proofCheckpoint_judges hp ch rs hw hc, ← hb]
      exact if_pos hlt
    · rw [exec_proofCheckpoint_judges hp ch rs hw hc, ← hb, hgood]
      exact if_neg (by omega)
    · rw [exec_proofCheckpoint_judges hp ch rs hw hc, ← hb, hbad]
      exact if_neg (by omega)
end

section
/-! SUPPORT. The Tank window, the march test and the Scratchpad (03_command_reference R91; 09_on_chip_memories R253 to R260): one lemma for each outcome. -/

namespace Sys2Proof.Machine

/-! ### The window (R253) -/

section
variable {s : State} {src : Src} (hm : s.mayWrite src) {part : Fin 4} {v : Word} {e : Ecc}
include hm

theorem exec_tankWindowAccess_write : exec (.tankWindowAccess src true part v e) s = .next (s.apply src (s.winWrite part.val v)) := pfRow_open hm

theorem exec_tankWindowAccess_read {t : State} {x : Word} (hr : s.winRead part.val e = (t, some x)) :
    exec (.tankWindowAccess src false part v e) s = .next (t.emit (.readData src (R.TNK_WDATA part.val) x)) := by
  refine (pfRow_open hm).trans ?_
  rw [if_neg Bool.false_ne_true, hr]

theorem exec_tankWindowAccess_fails {t : State} (hr : s.winRead part.val e = (t, none)) :
    exec (.tankWindowAccess src false part v e) s = .next (t.accessFails .window (.window src) (s.getF F.TNK_WADDR_ADDR) .uncorr) := by
  refine (pfRow_open hm).trans ?_
  rw [if_neg Bool.false_ne_true, hr]

end

section
variable {s : State}

theorem State.winRead_off (h : s.bit F.TNK_CTRL_WINEN = false) (part : Nat) (e : Ecc) : s.winRead part e = (s, some 0#32) := if_pos h

section
variable (h : s.bit F.TNK_CTRL_WINEN = true)
include h

theorem State.winRead_upper {part : Nat} (hp : part ≠ 0) (e : Ecc) : s.winRead part e = (s, some (s.tnk.parts.getD (part - 1) 0#32)) := by
  unfold State.winRead
  rw [if_neg (by simp [h]), if_neg hp]

theorem State.winWrite_upper {part : Nat} (hp : part ≠ 0) (v : Word) : s.winWrite part v = .ok { s with tnk := { s.tnk with stage := s.tnk.stage.set (part - 1) v } } := by
  unfold State.winWrite
  rw [if_neg (by simp [h]), if_neg hp]

variable {w : Nat} (hw : w = s.getF F.TNK_WADDR_ADDR) (hb : s.bankOn (wordBank w) = true)
include hw hb

/-- Part 0 reads the word and latches the other parts. -/
theorem State.winRead_first {e : Ecc} {u : State} (hs : (s.granted w [false] .window).secded .window w e = (u, true)) {ps : List Word} (hps : ps = wordParts (u.tankVal (16 * w) 16)) :
    s.winRead 0 e = ({ u with tnk := { u.tnk with parts := ps.drop 1 } }, some (ps.headD 0#32)) := by
  subst hw hps
  unfold State.winRead
  rw [if_neg (by simp [h]), if_pos rfl]
  dsimp only
  rw [if_neg (by simp [hb]), hs]
  exact if_pos rfl

/-- A word that cannot be used gives no value. -/
theorem State.winRead_uncorrectable {e : Ecc} {u : State} (hs : (s.granted w [false] .window).secded .window w e = (u, false)) : s.winRead 0 e = (u, none) := by
  subst hw
  unfold State.winRead
  rw [if_neg (by simp [h]), if_pos rfl]
  dsimp only
  rw [if_neg (by simp [hb]), hs]
  exact if_neg Bool.false_ne_true

/-- Part 0 writes the word with the staged parts. -/
theorem State.winWrite_first (v : Word) {st : Nat → Nat} (hst : st = fun i => (s.tnk.stage.getD i 0#32).toNat) :
    s.winWrite 0 v = .ok ((s.granted w [true] .window).putWord w (v.toNat + 2 ^ 32 * st 0 + 2 ^ 64 * st 1 + 2 ^ 96 * st 2) 0xFFFF) := by
  subst hw hst
  unfold State.winWrite
  rw [if_neg (by simp [h]), if_pos rfl]
  dsimp only
  rw [if_neg (by simp [hb])]

end

/-! ### The march test (R258, R259) -/

section
variable {ln : Ln} (h : s.serves ln .service) (b : Bank)
include h

theorem exec_testTank_power (hp : s.pwr ≠ .run) : exec (.testTank (.line ln) b) s = .next (s.reply ln [] (.er .pwrstate [])) := next_verb_er h (if_pos hp)

variable (hp : s.pwr = .run)
include hp

theorem exec_testTank_busy (hb : s.tnk.march.isSome = true ∨ s.boot.testing = true) : exec (.testTank (.line ln) b) s = .next (s.reply ln [] (.er .testbusy [])) := by
  refine next_verb_er h ?_
  rw [if_neg (not_not.mpr hp), if_pos hb]

theorem exec_testTank_starts (hn : s.tnk.march = none) (ht : s.boot.testing = false) :
    exec (.testTank (.line ln) b) s = .next (({ s.startMarch b.val with con := { (s.startMarch b.val).con with opTank := some ln } } : State).reply ln [] (.ok startedItems)) := by
  refine next_verb_ok h ?_
  rw [if_neg (not_not.mpr hp), if_neg (by simp [hn, ht])]

end

section
variable (ho : s.pfOpen .pf = true) {v : Word} (hk : getBits v.toNat 16 16 = 0x4C59) (b : Bank)
include ho

theorem exec_testTank_pf : exec (.testTank (.pf v) b) s = .next (s.apply .pf (s.wTankTest v)) := if_neg (by simp [ho])

include hk

theorem exec_testTank_pf_starts (hn : s.tnk.march = none) (ht : s.boot.testing = false) (hb : s.bankOn (getBits v.toNat 0 6) = true) :
    exec (.testTank (.pf v) b) s = .next (s.startMarch (getBits v.toNat 0 6)) := by
  have hw : s.wTankTest v = .ok (s.startMarch (getBits v.toNat 0 6)) := by
    unfold State.wTankTest
    dsimp only
    rw [if_neg (not_not.mpr hk), if_neg (by simp [hn, ht]), if_neg (by simp [hb])]
  rw [exec_testTank_pf ho, hw]
  rfl

theorem exec_testTank_pf_busy (hb : s.tnk.march.isSome = true ∨ s.boot.testing = true) : exec (.testTank (.pf v) b) s = .next (s.log { errRec .testbusy .tnk [] with src := .pf }) := by
  have hw : s.wTankTest v = .refuse .testbusy (some { errRec .testbusy .tnk [] with src := .pf }) := by
    unfold State.wTankTest
    dsimp only
    rw [if_neg (not_not.mpr hk), if_pos hb]
  rw [exec_testTank_pf ho, hw]
  rfl

end

theorem exec_marchBurst_idle (hn : s.tnk.march = none) (bad : List Nat) : exec (.marchBurst bad) s = .next s := by
  change execMarchBurst bad s = _
  unfold execMarchBurst
  rw [hn]

theorem exec_marchBurst {bad rows : List Nat} {m : March} {c : State × March} (hm : s.tnk.march = some m) (hr : rows = (List.range 8).map (fun i => 8 * (m.burst % 64) + i))
    (hc : c = if m.burst < 64 then s.marchRows bad m rows else s.marchSpares bad m rows) :
    exec (.marchBurst bad) s =
      .next (if m.burst < 65 then { c.1 with tnk := { c.1.tnk with march := some { c.2 with burst := m.burst + 1 } } } else c.1.endMarch { c.2 with burst := m.burst + 1 }) := by
  subst hr hc
  change execMarchBurst bad s = _
  unfold execMarchBurst
  rw [hm]

/-! ### The Scratchpad (R256, R257) -/

section
variable {n : Fin 4} {a : BitVec 18} {e : Ecc} (hd : s.domainOn 0 = true) (hw : s.spd.wait.any (fun (p : Nat × Nat × Bool) => p.1 == n.val) = false) (hr : s.spdReloading a.toNat = false)
include hd hw hr

theorem exec_scratchpadFetchError_corr (he : s.spdEcc a.toNat e = .corr) (fetch : Bool) : exec (.scratchpadFetchError n a fetch e) s = .next (s.spdCorrected fetch a.toNat) := by
  change execScratchpadFetchError n a fetch e s = _
  unfold execScratchpadFetchError
  dsimp only
  rw [if_neg (by simp [hd, hw]), if_neg (by simp [hr]), he]

variable (he : s.spdEcc a.toNat e = .uncorr)
include he

theorem exec_scratchpadFetchError_fetch : exec (.scratchpadFetchError n a true e) s = .next (((s.count F.SPD_ECNT_UE 1).spdElog true true a.toNat).spdWait n.val a.toNat true) := by
  change execScratchpadFetchError n a true e s = _
  unfold execScratchpadFetchError
  dsimp only
  rw [if_neg (by simp [hd, hw]), if_neg (by simp [hr]), he]
  dsimp only
  rw [if_pos rfl]

theorem exec_scratchpadFetchError_data :
    exec (.scratchpadFetchError n a false e) s =
      .next ((((s.count F.SPD_ECNT_UE 1).spdElog true false a.toNat).log (errRec .uncorr .spd (spdItems a.toNat))).warm true false false) := by
  change execScratchpadFetchError n a false e s = _
  unfold execScratchpadFetchError
  dsimp only
  rw [if_neg (by simp [hd, hw]), if_neg (by simp [hr]), he]
  dsimp only
  rw [if_neg Bool.false_ne_true]

end

theorem exec_scratchpadReloadDone {u : State} {full : Bool} (hr : s.reloads s.spd.wait = (u, full)) :
    exec .scratchpadReloadDone s = .next (if full then ({ u with spd := { u.spd with wait := [] } } : State).remapFull else { u with spd := { u.spd with wait := [] } }) := by
  change execScratchpadReloadDone s = _
  unfold execScratchpadReloadDone
  rw [hr]

section
variable {src : Src} {v : Word} (hm : s.mayWrite src)
include hm

theorem exec_spdRemapAdd_taken {t : State} (hw : s.wRmadd v = .ok t) : exec (.spdRemapAdd src v) s = .next t := by
  refine (pfRow_open hm).trans ?_
  rw [hw]

theorem exec_spdRemapAdd_refused {er : Er} {r : Option ErrRec} (hw : s.wRmadd v = .refuse er r) : exec (.spdRemapAdd src v) s = .next s.remapFull := by
  refine (pfRow_open hm).trans ?_
  rw [hw]

theorem exec_spdRemapAdd_again (h : s.spdMapped (getBits v.toNat 14 2) (getBits v.toNat 0 14) = true) : exec (.spdRemapAdd src v) s = .next s := by
  have hw : s.wRmadd v = .ok s := if_pos h
  exact exec_spdRemapAdd_taken hm hw

variable (h : s.spdMapped (getBits v.toNat 14 2) (getBits v.toNat 0 14) = false)
include h

theorem exec_spdRemapAdd_full (hf : s.spdFull (getBits v.toNat 14 2) = true) : exec (.spdRemapAdd src v) s = .next s.remapFull := by
  have hw : s.wRmadd v = .refuse .remapfull none := by
    unfold State.wRmadd
    dsimp only
    rw [if_neg (by simp [h]), if_pos hf]
  exact exec_spdRemapAdd_refused hm hw

theorem exec_spdRemapAdd_adds (hf : s.spdFull (getBits v.toNat 14 2) = false) :
    ∃ b, exec (.spdRemapAdd src v) s = .next (s.remapAdd (getBits v.toNat 14 2) (getBits v.toNat 0 14) b) := by
  have hw : ∃ b, s.wRmadd v = .ok (s.remapAdd (getBits v.toNat 14 2) (getBits v.toNat 0 14) b) := by
    unfold State.wRmadd
    dsimp only
    rw [if_neg (by simp [h]), if_neg (by simp [hf])]
    exact ⟨_, rfl⟩
  obtain ⟨b, hw⟩ := hw
  exact ⟨b, exec_spdRemapAdd_taken hm hw⟩

end

end

end Sys2Proof.Machine

open Sys2Proof.Machine in
/-- Settles O38: one lemma for each outcome. -/
theorem tankTestsAndWindow : Obligations.TankTestsAndWindow := by
  refine ⟨?window, ?closed, ?test, ?pf, fun _ bad hn => exec_marchBurst_idle hn bad, fun _ _ _ _ _ => exec_marchBurst, ?fetch, fun _ _ _ => exec_scratchpadReloadDone,
    fun _ _ _ hm => ⟨exec_spdRemapAdd_again hm, exec_spdRemapAdd_full hm, exec_spdRemapAdd_adds hm⟩⟩
  case window =>
    intro s u src e v w ok hm h hw hb hs
    refine ⟨?read, ?write, fun i hi => ⟨?stage, ?latch⟩⟩
    case read =>
      cases ok with
      | true => exact exec_tankWindowAccess_read hm (State.winRead_first h hw hb hs rfl)
      | false =>
        subst hw
        exact exec_tankWindowAccess_fails hm (State.winRead_uncorrectable h rfl hb hs)
    case write =>
      refine (exec_tankWindowAccess_write hm).trans ?_
      rw [Fin.val_zero, State.winWrite_first h hw hb v rfl]
      rfl
    case stage =>
      rw [exec_tankWindowAccess_write hm, State.winWrite_upper h (Fin.val_ne_zero_iff.mpr hi)]
      rfl
    case latch => exact exec_tankWindowAccess_read hm (State.winRead_upper h (Fin.val_ne_zero_iff.mpr hi) e)
  case closed => exact fun s src e v i hm h => exec_tankWindowAccess_read hm (State.winRead_off h i.val e)
  case test =>
    intro s ln b h hr
    have hserves : s.serves ln .service := ⟨h.1, h.2, hr⟩
    exact ⟨exec_testTank_power hserves b, exec_testTank_busy hserves b, exec_testTank_starts hserves b⟩
  case pf => exact fun s b v ho hk => ⟨exec_testTank_pf_starts ho hk b, exec_testTank_pf_busy ho hk b⟩
  case fetch =>
    intro s n a e hd hw hr
    exact ⟨exec_scratchpadFetchError_corr hd hw hr, fun he => ⟨exec_scratchpadFetchError_fetch hd hw hr he, exec_scratchpadFetchError_data hd hw hr he⟩⟩
end

section
/-! SUPPORT. Cascade commands at their target and at their origin (02_command_line R68; 04_start_up R118; 16_xasen R444 to R447, R449): control comes from the master alone, and one lemma
for each outcome of a command. -/

namespace Sys2Proof.Machine

/-! ### Control (R445) -/

/-- A row of cascade control: its meaning is an act that `State.control` lets its sender do. -/
def ControlRow (i : Instr) (s : State) (src tag : BitVec 16) (op : Nat) : Prop := ∃ act, exec i s = .next (s.control src tag op act)

section
variable {s : State} {src tag : BitVec 16}

theorem controlRow_cmdReset (k d : Byte) : ControlRow (.cmdReset src tag k d) s src tag 2 := ⟨_, rfl⟩
theorem controlRow_cmdPower (st : Byte) : ControlRow (.cmdPower src tag st) s src tag 3 := ⟨_, rfl⟩
theorem controlRow_cmdWake (m : Byte) : ControlRow (.cmdWake src tag m) s src tag 4 := ⟨_, rfl⟩
theorem controlRow_cmdPoke (off v : Word) : ControlRow (.cmdPoke src tag off v) s src tag 5 := ⟨_, rfl⟩
theorem controlRow_cmdPeek (off : Word) : ControlRow (.cmdPeek src tag off) s src tag 6 := ⟨_, rfl⟩

/-- A node that takes no frames does nothing. -/
theorem ControlRow.off {i : Instr} {op : Nat} (hr : ControlRow i s src tag op) (h : s.linkAlive = false) : exec i s = .next s := by
  obtain ⟨act, he⟩ := hr
  exact he.trans (congrArg Host.Outcome.next (if_pos h))

/-- A sender other than the master is answered 201. -/
theorem ControlRow.denied {i : Instr} {op : Nat} (hr : ControlRow i s src tag op) (h : s.linkAlive = true) (hs : src.toNat ≠ 0) : exec i s = .next (s.rsp src tag op 0 201) := by
  obtain ⟨act, he⟩ := hr
  refine he.trans (congrArg Host.Outcome.next ?_)
  unfold State.control
  rw [if_neg (by simp [h]), if_pos hs]
  rfl

/-- The master's command acts. -/
theorem State.control_master (h : s.linkAlive = true) (tag : BitVec 16) (op : Nat) (act : State) : s.control 0#16 tag op act = act := by
  unfold State.control
  rw [if_neg (by simp [h]), if_neg (by decide)]

end

/-! ### RESET (R118, R444) -/

section
variable {s : State} (h : s.linkAlive = true) (tag : BitVec 16)
include h

theorem exec_cmdReset_warm (d : Byte) : exec (.cmdReset 0#16 tag 1#8 d) s = .next ((s.rsp 0#16 tag 2 0 0).warm false true false) :=
  congrArg Host.Outcome.next ((State.control_master h ..).trans (if_pos rfl))

theorem exec_cmdReset_warmKeep (d : Byte) : exec (.cmdReset 0#16 tag 2#8 d) s = .next ((s.rsp 0#16 tag 2 0 0).warm true true false) := by
  refine congrArg Host.Outcome.next ((State.control_master h ..).trans ?_)
  rw [if_neg (by decide), if_pos rfl]

theorem exec_cmdReset_domain {d : Byte} (h1 : 1 ≤ d.toNat) (h9 : d.toNat ≤ 9) {u : State} (hu : u = s.rsp 0#16 tag 2 0 0) :
    exec (.cmdReset 0#16 tag 3#8 d) s = .next (if u.absorbs d.toNat = true then u else u.cascadeCause.domReset d.toNat true) := by
  subst hu
  refine congrArg Host.Outcome.next ((State.control_master h ..).trans ?_)
  rw [if_neg (by decide), if_neg (by decide), if_pos ⟨rfl, h1, h9⟩]

theorem exec_cmdReset_noDomain {d : Byte} (hd : d.toNat = 0 ∨ 9 < d.toNat) : exec (.cmdReset 0#16 tag 3#8 d) s = .next (s.rsp 0#16 tag 2 0 107) := by
  refine congrArg Host.Outcome.next ((State.control_master h ..).trans ?_)
  rw [if_neg (by decide), if_neg (by decide), if_neg (by omega)]
  rfl

/-! ### POWER and WAKE (R444, R445, R449) -/

section
variable {b : Byte} {p : Pwr} (hp : pwrOf b.toNat = some p)
include hp

theorem exec_cmdPower_busy (hb : s.pwrBusy = true) : exec (.cmdPower 0#16 tag b) s = .next (s.rsp 0#16 tag 3 0 320) := by
  refine congrArg Host.Outcome.next ((State.control_master h ..).trans ?_)
  rw [hp]
  exact if_pos hb

variable (hb : s.pwrBusy = false)
include hb

theorem exec_cmdPower_same (he : p = s.pwr) : exec (.cmdPower 0#16 tag b) s = .next (s.rsp 0#16 tag 3 0 0) := by
  refine congrArg Host.Outcome.next ((State.control_master h ..).trans ?_)
  rw [hp]
  dsimp only
  rw [if_neg (by simp [hb]), if_pos he]

variable (hn : p ≠ s.pwr)
include hn

/-- The request begins; an exit is done at once, and answered then. -/
theorem exec_cmdPower_begins {t : State} (ht : t = s.pwrBegin p (.master 0#16 tag)) :
    exec (.cmdPower 0#16 tag b) s = .next (if t.pw.leave.isSome = true then t.exitNow.rsp 0#16 tag 3 0 0 else t) := by
  subst ht
  refine congrArg Host.Outcome.next ((State.control_master h ..).trans ?_)
  rw [hp]
  dsimp only
  rw [if_neg (by simp [hb]), if_neg hn]

end

theorem exec_cmdWake (m : Byte) : exec (.cmdWake 0#16 tag m) s = .next ((s.wakeDown (m.toNat % 8)).rsp 0#16 tag 4 0 0) :=
  congrArg Host.Outcome.next (State.control_master h ..)

end

/-! ### What a stored register leaves alone -/

section
variable {off i : Nat} {d : RegDef} (hf : RegMap.find off = some (d, i, 0)) (hw : d.wide = false)
include hf hw

theorem State.storeAt_boot (s : State) (v : Word) : (s.storeAt off v).boot = s.boot := by rw [State.storeAt_word hf hw, wr_boot]

theorem State.storeAt_pw (s : State) (v : Word) : (s.storeAt off v).pw = s.pw := by rw [State.storeAt_word hf hw, wr_pw]

variable (hd : writableIn d 0 = true)
include hd

/-- A register that takes writes stands at no word that takes none. -/
theorem State.storeAt_readOnly {o : Nat} (ho : (RegMap.find o).any (fun e => !writableIn e.1 0) = true) (s : State) (v : Word) : (s.storeAt off v).rd o = s.rd o := by
  refine State.storeAt_other hf hw s v ?_
  rintro rfl
  simp [hf, hd] at ho

/-- PWR.STAT takes no write, so none switches a domain (R398). -/
theorem State.storeAt_domainOn (s : State) (v : Word) (n : Nat) : (s.storeAt off v).domainOn n = s.domainOn n := by
  have hstat : (s.storeAt off v).rd F.PWR_STAT_DOMAINS.off = s.rd F.PWR_STAT_DOMAINS.off := State.storeAt_readOnly hf hw hd (by decide) s v
  simp only [State.domainOn, State.getF, State.released, hstat, State.storeAt_boot hf hw]

theorem State.storeAt_linkAlive (s : State) (v : Word) : (s.storeAt off v).linkAlive = s.linkAlive := by
  simp only [State.linkAlive, State.storeAt_domainOn hf hw hd, State.storeAt_pw hf hw]

/-- Nor does XLK.PSTAT of the U port: a register write leaves the uplink as it is. -/
theorem State.storeAt_uplink (s : State) (v : Word) : (s.storeAt off v).linkUp 0 = s.linkUp 0 := by
  have hstat : (s.storeAt off v).rd (F.XLK_PSTAT_STATE 0).off = s.rd (F.XLK_PSTAT_STATE 0).off := State.storeAt_readOnly hf hw hd (by decide) s v
  simp only [State.linkUp, State.getF, Fin.val_zero, hstat, State.storeAt_domainOn hf hw hd]

end

/-! ### POKE and PEEK (R68, R82, R83, R445) -/

section
variable {s : State} (h : s.linkAlive = true) (tag : BitVec 16) {off : Word} (ho : offsetOk off.toNat = true)
include h ho

/-- A write that leaves the link to the master as it was is answered with the word read back. -/
theorem exec_cmdPoke_taken {v : Word} {t : State} (hw : s.wWord .master off.toNat v = .ok t) (ha : t.linkAlive = true) (hp : t.boot.phase = s.boot.phase) (hl : t.linkUp 0 = s.linkUp 0) :
    exec (.cmdPoke 0#16 tag off v) s = .next (t.readBack 0#16 tag 5 (t.viewWord off.toNat).toNat) := by
  refine congrArg Host.Outcome.next ((State.control_master h ..).trans ?_)
  rw [if_neg (by simp [ho]), hw]
  exact if_pos (by simp [ha, hp, hl])

theorem exec_cmdPoke_refused {v : Word} {e : Er} {r : Option ErrRec} (hw : s.wWord .master off.toNat v = .refuse e r) (he : e ≠ .remapfull) :
    exec (.cmdPoke 0#16 tag off v) s = .next (s.rsp 0#16 tag 5 0 e.code) := by
  refine congrArg Host.Outcome.next ((State.control_master h ..).trans ?_)
  rw [if_neg (by simp [ho]), hw]
  split
  · next hr => cases hr; exact absurd rfl he
  · next hr => cases hr; rfl
  · next hr => cases hr

theorem exec_cmdPeek_now {t : State} {w : Word} (hn : s.awaits .master = false) (hr : s.readAct .master off.toNat = (t, some w)) :
    exec (.cmdPeek 0#16 tag off) s = .next (t.readBack 0#16 tag 6 w.toNat) := by
  refine congrArg Host.Outcome.next ((State.control_master h ..).trans ?_)
  rw [if_neg (by simp [hn]), if_neg (by simp [ho]), hr]

end

section
variable {s : State} (h : s.linkAlive = true) (tag : BitVec 16) {off : Word}
include h

theorem exec_cmdPeek_waits (hn : s.awaits .master = true) :
    exec (.cmdPeek 0#16 tag off) s = .next { s with arb := { s.arb with reads := s.arb.reads ++ [.peek 0#16 tag off] } } :=
  congrArg Host.Outcome.next ((State.control_master h ..).trans (if_pos hn))

/-- A register without an action of its own stores the word, and the link stays. -/
theorem exec_cmdPoke_plain {i : Nat} {d : RegDef} (hr : s.atReg off.toNat d i 0) (hw : d.wide = false) (hd : writableIn d 0 = true) (hb : d.base ∉ actingRegs) (v : Word) :
    exec (.cmdPoke 0#16 tag off v) s = .next ((s.storeAt off.toNat v).readBack 0#16 tag 5 ((s.storeAt off.toNat v).viewWord off.toNat).toNat) := by
  have htaken : s.wWord .master off.toNat v = .ok (s.storeAt off.toNat v) := by rw [State.wWord_atReg hr v hw, if_pos hd, State.wEntry_plain hb]
  obtain ⟨halign, hbar, _, _, hf, _⟩ := hr
  have ho : offsetOk off.toNat = true := by simp [offsetOk, halign, hbar]
  refine exec_cmdPoke_taken h tag ho htaken ?_ ?_ (State.storeAt_uplink hf hw hd s v)
  · rw [State.storeAt_linkAlive hf hw hd, h]
  · rw [State.storeAt_boot hf hw]

end

/-! ### PLOVA (R447) -/

/-- The level that a forwarded line carries. -/
def carriedLevel : Fin 3 → Level
  | 0 => .view | 1 => .operate | 2 => .service

theorem carriedLevel_num : ∀ l : Fin 3, (carriedLevel l).num = l.val := by decide

section
variable {s : State} (h : s.linkAlive = true) (tag src : BitVec 16)
include h

theorem exec_cmdPlova_waits {l : Fin 3} {t : List Char} {f : Form} (hv : verbWrong (tokens t) = none) (hf : formOf (tokens t) = some f) (hl : f.level ≤ l.val) (hr : s.boot.rescue = false) :
    exec (.cmdPlova src tag l t) s =
      .next { s with con := { s.con with remotes := s.con.remotes.filter (fun (r : Remote) => !(r.node == src && r.tag == tag)) ++ [(⟨src, tag, carriedLevel l, t⟩ : Remote)] } } := by
  have hlevel : ¬ (carriedLevel l).num < f.level := by rw [carriedLevel_num]; omega
  refine congrArg Host.Outcome.next ((if_neg (by simp [h])).trans ?_)
  rw [hv, hf]
  exact (if_neg hlevel).trans (if_neg (by simp [hr]))

theorem exec_cmdPlova_wrong {t : List Char} {e : Er} (hv : verbWrong (tokens t) = some e) (l : Fin 3) :
    exec (.cmdPlova src tag l t) s = .next (s.reply ⟨.remote src tag, [], false⟩ [] (.er e [])) := by
  refine congrArg Host.Outcome.next ((if_neg (by simp [h])).trans ?_)
  rw [hv]

end

/-! ### The ends of commands at their origin (R446, R447) -/

section
variable {s : State} {tag : BitVec 16}

section
variable {op : Byte} {c : XCmd} (hc : s.xlk.cmds.find? (fun (c : XCmd) => c.tag == tag.toNat && c.op == op.toNat) = some c) (res : Byte) (st : BitVec 16) (b : List Byte)
include hc

theorem exec_rspReceived_last : exec (.rspReceived tag op res st false false b) s = .next (s.endCmd c res.toNat st.toNat (c.got ++ b)) := by
  change execRspReceived tag op res st false false b s = _
  unfold execRspReceived
  rw [if_neg Bool.false_ne_true, hc]
  exact if_neg Bool.false_ne_true

theorem exec_rspReceived_more :
    exec (.rspReceived tag op res st true false b) s =
      .next { s with xlk := { s.xlk with cmds := s.xlk.cmds.map (fun (x : XCmd) => if x.tag = c.tag then { x with got := x.got ++ b } else x) } } := by
  change execRspReceived tag op res st true false b s = _
  unfold execRspReceived
  rw [if_neg Bool.false_ne_true, hc]
  exact if_pos rfl

end

theorem exec_rspReceived_unawaited {op : Byte} (hc : s.xlk.cmds.find? (fun (c : XCmd) => c.tag == tag.toNat && c.op == op.toNat) = none) (res : Byte) (st : BitVec 16) (m : Bool) (b : List Byte) :
    exec (.rspReceived tag op res st m false b) s = .next s := by
  change execRspReceived tag op res st m false b s = _
  unfold execRspReceived
  rw [if_neg Bool.false_ne_true, hc]

theorem exec_rspReceived_done {d : XDone} (hd : s.xlk.dones.find? (fun (d : XDone) => d.tag == tag.toNat) = some d) (op res : Byte) (st : BitVec 16) (m : Bool) (b : List Byte) :
    exec (.rspReceived tag op res st m true b) s = .next (s.remoteDone d b) := by
  change execRspReceived tag op res st m true b s = _
  unfold execRspReceived
  rw [if_pos rfl, hd]

theorem exec_ctmoExpiry_ends {u : State} {c : XCmd} (hc : s.xlk.cmds.find? (fun (c : XCmd) => c.tag == tag.toNat) = some c)
    (hu : u = { s with xlk := { s.xlk with held := s.xlk.held.filter (fun (f : LFrame) => f.tag != c.tag) } }) :
    exec (.ctmoExpiry tag) s = .next (((((u.abandonCmd c.tag 0).abandonCmd c.tag 1).abandonCmd c.tag 2).abandonCmd c.tag 3).failCmd c .ctimeout []) := by
  subst hu
  change execCtmoExpiry tag s = _
  unfold execCtmoExpiry
  rw [hc]

theorem exec_ctmoExpiry_unawaited (hc : s.xlk.cmds.find? (fun (c : XCmd) => c.tag == tag.toNat) = none) : exec (.ctmoExpiry tag) s = .next s := by
  change execCtmoExpiry tag s = _
  unfold execCtmoExpiry
  rw [hc]

end

/-! ### XLK.WAKE (R449) -/

theorem exec_xlkWakeWrite {s : State} {src : Src} (hm : s.mayWrite src) (v : Word) : exec (.xlkWakeWrite src v) s = .next (s.wakeDown (getBits v.toNat 0 3)) := pfRow_open hm

end Sys2Proof.Machine

open Sys2Proof.Machine in
/-- Settles O51: control is turned away or acts, by the master's command; then forwarded lines, the ends at the origin, and XLK.WAKE. -/
theorem cascadeCommandsAct : Obligations.CascadeCommandsAct := by
  refine ⟨?denied, ?off, ?reset, ?power, fun _ tag m h => exec_cmdWake h tag m, fun _ tag _ v _ _ h hr hw hd hb => exec_cmdPoke_plain h tag hr hw hd hb v, ?word, ?plova,
    fun _ src tag l _ _ h hv => exec_cmdPlova_wrong h tag src hv l, fun _ _ _ res st b _ hc => ⟨exec_rspReceived_last hc res st b, exec_rspReceived_more hc res st b⟩,
    fun _ _ _ res st m b hc => exec_rspReceived_unawaited hc res st m b, fun _ _ op res st m b _ hd => exec_rspReceived_done hd op res st m b, fun _ _ _ _ => exec_ctmoExpiry_ends,
    fun _ _ => exec_ctmoExpiry_unawaited, fun _ _ v hm => exec_xlkWakeWrite hm v⟩
  case denied =>
    intro s src tag k d st m off v h hs
    exact ⟨(controlRow_cmdReset k d).denied h hs, (controlRow_cmdPower st).denied h hs, (controlRow_cmdWake m).denied h hs, (controlRow_cmdPoke off v).denied h hs,
      (controlRow_cmdPeek off).denied h hs⟩
  case off =>
    intro s src tag k d st m off v l t h
    exact ⟨(controlRow_cmdReset k d).off h, (controlRow_cmdPower st).off h, (controlRow_cmdWake m).off h, (controlRow_cmdPoke off v).off h, (controlRow_cmdPeek off).off h,
      congrArg Host.Outcome.next (if_pos h)⟩
  case reset =>
    intro s tag d h
    exact ⟨exec_cmdReset_warm h tag d, exec_cmdReset_warmKeep h tag d, fun h1 h9 => ⟨_, rfl, exec_cmdReset_domain h tag h1 h9 rfl⟩, exec_cmdReset_noDomain h tag⟩
  case power =>
    intro s tag b p h hp
    refine ⟨exec_cmdPower_busy h tag hp, exec_cmdPower_same h tag hp, fun hb hn hleave => ?_, fun hb hn hleave => ?_⟩
    · rw [exec_cmdPower_begins h tag hp hb hn rfl, if_neg (by simp [hleave])]
    · rw [exec_cmdPower_begins h tag hp hb hn rfl, if_pos hleave]
  case word =>
    intro s tag off v h ho
    exact ⟨exec_cmdPeek_waits h tag, fun _ _ => exec_cmdPeek_now h tag ho, fun _ => exec_cmdPoke_taken h tag ho, fun _ _ => exec_cmdPoke_refused h tag ho⟩
  case plova => exact fun s src tag l t f h hv hf hl hr => ⟨carriedLevel l, carriedLevel_num l, exec_cmdPlova_waits h tag src hv hf hl hr⟩
end

section
/-! SUPPORT. Rows of the PF's registers from sources that they are not open to (04_start_up R116, R121; 05_tenants R133). -/

namespace Sys2Proof.Machine

/-- What a row of a PF register comes to for the PF while the host side does not take its writes: the write is dropped, and counted while a warm reset is in progress (R116). -/
theorem pfRow_closed {s : State} (h : s.pfOpen .pf = false) (c : Host.Outcome State Fault Refusal) :
    (if s.pfOpen .pf = false then .next (s.pfDrop .pf) else c) = .next (if s.boot.warming then s.count F.GLB_RSTCAUSE_DROPPED 1 else s) := if_pos h

end Sys2Proof.Machine

open Sys2Proof.Machine in
/-- Settles O54: the first arm of every row's meaning, and of `State.glbWrite`, turns a VF away; the next test of a PF row drops what the host side does not take. -/
theorem onlyOpenSourcesReachRegisters : Obligations.OnlyOpenSourcesReachRegisters := by
  constructor
  · intro s x t q v b p n c e
    and_intros <;> rfl
  · intro s t q v b p n c h
    and_intros <;> exact pfRow_closed h _
end

section
/-! SUPPORT. Function-level resets, SR-IOV and the DRT enables (05_tenants R125, R128, R155, R159; 07_interrupts R201, R204), and what serves a configuration request (04_start_up R100): one lemma
for each command. -/

namespace Sys2Proof.Machine

section
variable {s : State}

/-! ### Function-level resets (R201) -/

theorem exec_resetFunction_starts {ln : Ln} {t : Tenant} (h : s.serves ln .operate) (ht : t ≠ 0) (he : s.enabled t = true) :
    exec (.resetFunction ln t) s =
      .next (({ (s.setFn { s.fn t with resetting := true }) with con := { s.con with opReset := s.con.opReset ++ [(t, ln)] } } : State).reply ln [] (.ok [⟨"", .word "STARTED"⟩])) := by
  refine next_verb_ok h ?_
  exact (if_neg ht).trans (if_neg (by simp [he]))

theorem exec_functionLevelReset_resets {t : Tenant} (ha : s.flrAbsorbed = false) (hq : s.enabled t = true ∨ s.ownedBy t ≠ []) : exec (.functionLevelReset t) s = .next (s.flrAll t) :=
  if_pos ⟨ha, hq⟩

/-! ### Configuration requests: PF_FLR, VF_ENABLE and VF_DISABLE (R125, R128, R204) -/

/-- The tenants that a PF_FLR resets after the PF: the VFs that were enabled. -/
theorem vfsUpTo_former (on : Bool) (n : Nat) : vfsUpTo (if on then n else 0) = (List.finRange 256).filter (fun t => on && decide (1 ≤ t.val ∧ t.val ≤ n)) := by
  refine List.filter_congr fun t _ => ?_
  cases on with
  | true => rfl
  | false => exact decide_eq_false fun ⟨h1, h0⟩ => Nat.not_succ_le_zero 0 (h1.trans h0)

section
variable (hc : s.cfgMet = .served)
include hc

theorem State.cfgRequest_served (t : Tenant) (u : State) : s.cfgRequest t u = u := by
  unfold State.cfgRequest
  rw [hc]

theorem exec_pfFlr_resets (ha : s.flrAbsorbed = false) :
    exec .pfFlr s = .next ((s.clearVf.flrAll 0).flrs ((List.finRange 256).filter (fun t => s.hif.vfen && decide (1 ≤ t.val ∧ t.val ≤ s.hif.numVf)))) := by
  change Host.Outcome.next (s.cfgRequest 0 _) = _
  rw [State.cfgRequest_served hc, if_neg (by simp [ha]), vfsUpTo_former]

theorem exec_vfEnable_enables (hv : s.hif.vfen = false) (ari : Bool) (n : Nat) :
    exec (.vfEnable ari n) s = .next (((({ s with hif := { s.hif with vfen := true, numVf := min 255 n, ari := ari } } : State).setF F.HIF_STAT_VFEN 1).setF F.HIF_STAT_NUMVF (min 255 n)).setF
      F.HIF_STAT_ARI (if ari then 1 else 0)) := by
  change Host.Outcome.next (s.cfgRequest 0 _) = _
  rw [State.cfgRequest_served hc]
  unfold State.setVf
  rw [if_neg (by simp [hv])]

theorem exec_vfDisable_resets (hv : s.hif.vfen = true) :
    exec .vfDisable s = .next (s.clearVf.flrs ((List.finRange 256).filter (fun t => decide (1 ≤ t.val ∧ t.val ≤ s.hif.numVf)))) := by
  change Host.Outcome.next (s.cfgRequest 0 _) = _
  rw [State.cfgRequest_served hc, if_neg (by simp [hv])]
  rfl

end

/-! ### DRT enables (R125, R155, R159) -/

section
variable {src : Src} (hm : s.mayWrite src)
include hm

theorem exec_drtTenantDisable {t : Tenant} : exec (.drtTenantDisable src t) s = .next (s.drtTenOff t) := pfRow_open hm

theorem exec_drtTenantDisable_clears {t : Tenant} (hd : s.drtTen t = true) {u : State}
    (hu : u = (let v := s.drtEndAll .drtoff (s.eth.drt.filter (fun d => d.tenant == t))
      v.setF (F.ETH_DRTTEN_EN (t.val / 32)) (putBits (v.getF (F.ETH_DRTTEN_EN (t.val / 32))) (t.val % 32) 1 0))) :
    exec (.drtTenantDisable src t) s = .next (if u.enabled t then u else u.flrAll t) := by
  subst hu
  rw [exec_drtTenantDisable hm]
  unfold State.drtTenOff
  rw [if_neg (by simp [hd])]

theorem exec_drtDisable : exec (.drtDisable src) s = .next ((s.drtEndAll .drtoff s.eth.drt).setF F.ETH_DRTCFG_EN 0) := pfRow_open hm

end

end

end Sys2Proof.Machine

open Sys2Proof.Machine in
/-- Settles O21: one lemma for each command. -/
theorem functionsResetAndEnable : Obligations.FunctionsResetAndEnable :=
  ⟨fun _ _ _ h => exec_resetFunction_starts h, fun _ _ ha => exec_functionLevelReset_resets ha, fun _ ha hc => exec_pfFlr_resets hc ha, fun _ ari n hc hv => exec_vfEnable_enables hc hv ari n,
    fun _ hc => exec_vfDisable_resets hc, fun _ _ _ hm hd => ⟨_, rfl, exec_drtTenantDisable_clears hm hd rfl⟩, fun _ _ => exec_drtDisable⟩
end

section
/-! SUPPORT. Vector ranges and queue vectors, MSI-X tables and the coalescing timeout, shares and the rate cap (05_tenants R130; 07_interrupts R188 to R193, R206): one lemma for each outcome. -/

namespace Sys2Proof.Machine

section
variable {s : State}

theorem State.mayWrite_pf (ho : s.pfOpen .pf = true) : s.mayWrite .pf := ⟨by simp, ho⟩

/-! ### TVEC and QVEC (R188 to R190) -/

section
variable {t : Tenant} {v : Word} {b c : Nat} (hb : b = getBits v.toNat 16 11) (hc : c = min 64 (getBits v.toNat 0 7)) (he : (s.fn t).enable = false)
include hb hc he

theorem State.wTvec_stores (hp : b + c ≤ 2048) (ht : c = 0 ∨ s.rangeTaken t b c = false) {u : State} (hu : u = ((s.setF (F.INT_TVEC_BASE t.val) b).setF (F.INT_TVEC_COUNT t.val) c).dropPend t c) :
    s.wTvec t v = .ok (if s.vecCount t = c then u else u.reduceVecs c (u.ownedBy t)) := by
  subst hb hc hu
  have hfits : ¬(2048 < getBits v.toNat 16 11 + min 64 (getBits v.toNat 0 7) ∨
      (min 64 (getBits v.toNat 0 7) ≠ 0 ∧ s.rangeTaken t (getBits v.toNat 16 11) (min 64 (getBits v.toNat 0 7)) = true)) := by
    rintro (h | ⟨h0, h⟩)
    · omega
    · exact absurd h (by simp [ht.resolve_left h0])
  unfold State.wTvec
  dsimp only
  rw [if_neg (by simp [he]), if_neg hfits]

theorem State.wTvec_refused (hp : 2048 < b + c ∨ (c ≠ 0 ∧ s.rangeTaken t b c = true)) :
    s.wTvec t v = .refuse .veclimit (some { errRec .veclimit .int [⟨"BASE", .num b⟩, ⟨"COUNT", .num c⟩] with src := .pf, tenant := some t.val }) := by
  subst hb hc
  unfold State.wTvec
  dsimp only
  rw [if_neg (by simp [he]), if_pos hp]

end

theorem exec_tvecWrite {src : Src} (hm : s.mayWrite src) (t : Tenant) (v : Word) : exec (.tvecWrite src t v) s = .next (s.apply src (s.wTvec t v)) := pfRow_open hm

theorem exec_qvecWrite_stores {src : Src} (hm : s.mayWrite src) {q : Qid} {v : Word} {x : Queue} (hq : s.queue? q.val = some x) (hv : getBits v.toNat 0 6 < s.vecCount x.tenant) :
    exec (.qvecWrite src q v) s = .next (s.setF (F.INT_QVEC_VEC q.val) (getBits v.toNat 0 6)) := by
  have hw : s.wQvec q.val v = .ok (s.setF (F.INT_QVEC_VEC q.val) (getBits v.toNat 0 6)) := by
    unfold State.wQvec
    rw [hq]
    exact if_neg (Nat.not_le.mpr hv)
  have hrow : exec (.qvecWrite src q v) s = .next (s.apply src (s.wQvec q.val v)) := pfRow_open hm
  rw [hrow, hw]
  rfl

/-! ### TSHARE and GCAP (R206) -/

theorem exec_tshareWrite {src : Src} (hm : s.mayWrite src) (t : Tenant) (v : Word) : exec (.tshareWrite src t v) s = .next (s.apply src (s.wTshare src t v)) := pfRow_open hm

theorem exec_tshareWrite_changes {src : Src} (hm : s.mayWrite src) {t : Tenant} {v : Word} (hp : pokes src = true → getBits v.toNat 28 2 ≠ 3) (hb : s.shareBad t (s.normShare t v) = false) :
    exec (.tshareWrite src t v) s = .next (s.changeShare t (s.normShare t v)) := by
  have hw : s.wTshare src t v = .ok (s.changeShare t (s.normShare t v)) := by
    unfold State.wTshare
    dsimp only
    rw [if_neg (fun h => hp h.1 h.2), if_neg (by simp [hb])]
  rw [exec_tshareWrite hm, hw]
  rfl

/-- The PF's write is no POKE, so a CLASS of 3 does not refuse it (R83). -/
theorem exec_tshareWrite_refused (ho : s.pfOpen .pf = true) {t : Tenant} {v : Word} (hb : s.shareBad t (s.normShare t v) = true) :
    exec (.tshareWrite .pf t v) s = .next (s.log { errRec .rate .sch [⟨"SUM", .num s.rateSum⟩] with src := .pf, tenant := some t.val }) := by
  have hw : s.wTshare .pf t v = .refuse .rate (some (s.rateRec (some t.val))) := by
    unfold State.wTshare
    dsimp only
    rw [if_neg (by simp [pokes]), if_pos hb]
  rw [exec_tshareWrite (State.mayWrite_pf ho), hw]
  rfl

theorem exec_gcapWrite_stores {src : Src} (hm : s.mayWrite src) {v : Word} (hl : s.rateSum ≤ min 233 (getBits v.toNat 0 8)) :
    exec (.gcapWrite src v) s = .next (s.setF F.SCH_GCAP_LIMIT (min 233 (getBits v.toNat 0 8))) := by
  have hw : s.wGcap v = .ok (s.setF F.SCH_GCAP_LIMIT (min 233 (getBits v.toNat 0 8))) := by
    unfold State.wGcap
    dsimp only
    rw [if_neg (Nat.not_lt.mpr hl)]
  have hrow : exec (.gcapWrite src v) s = .next (s.apply src (s.wGcap v)) := pfRow_open hm
  rw [hrow, hw]
  rfl

/-! ### MSI-X tables and coalescing (R130, R192) -/

/-- A table is reached by its own function, and the PF's by Plova too. -/
theorem exec_msixTableWrite_reaches {src : Src} {l : MsixAt} (hs : src = .vf l.fn ∧ s.vfOn l.fn = true ∨ (∀ t, src ≠ .vf t) ∧ l.fn = 0) (v : Word) :
    exec (.msixTableWrite src l v) s =
      if l.word = 4 then .next (if (srcFn src).isNone then s else s.cfgRequest l.fn (s.msixWr l.fn l.entry l.word v))
      else if s.pfOpen src = false then .next (s.pfDrop src) else .next (s.msixWr l.fn l.entry l.word v) := by
  rcases hs with ⟨rfl, hon⟩ | ⟨hvf, hfn⟩
  · exact if_neg (by simp [hon])
  · cases src with
    | vf n => exact absurd rfl (hvf n)
    | pf | sess | master | fwd => exact if_neg (by simp [hfn])

theorem exec_msixTableWrite_word {src : Src} {l : MsixAt} (hs : src = .vf l.fn ∧ s.vfOn l.fn = true ∨ (∀ t, src ≠ .vf t) ∧ l.fn = 0) (ho : s.pfOpen src = true) (hw : l.word ≠ 4) (v : Word) :
    exec (.msixTableWrite src l v) s = .next (s.msixWr l.fn l.entry l.word v) := by
  rw [exec_msixTableWrite_reaches hs, if_neg hw, if_neg (by simp [ho])]

/-- The Message Control word is written by a configuration request, which only a host makes (log entry 12). -/
theorem exec_msixTableWrite_control {src : Src} {l : MsixAt} (hs : src = .vf l.fn ∧ s.vfOn l.fn = true ∨ src = .pf ∧ l.fn = 0) (hc : s.cfgMet = .served) (hw : l.word = 4) (v : Word) :
    exec (.msixTableWrite src l v) s = .next (s.msixWr l.fn l.entry l.word v) := by
  have hreach : src = .vf l.fn ∧ s.vfOn l.fn = true ∨ (∀ t, src ≠ .vf t) ∧ l.fn = 0 := hs.imp_right fun ⟨hpf, hfn⟩ => ⟨by simp [hpf], hfn⟩
  have hhost : (srcFn src).isNone = false := by
    rcases hs with ⟨rfl, _⟩ | ⟨rfl, _⟩
    · rfl
    · rfl
  rw [exec_msixTableWrite_reaches hreach, if_pos hw, if_neg (by simp [hhost]), State.cfgRequest_served hc]

theorem exec_msixCoalesceTimeout_sends {p : Fin 2048} {x : Pool} {t : Tenant} (hx : s.pool.find? (fun q => q.p == p.val) = some x) (ho : s.poolOwner p.val = some t) :
    exec (.msixCoalesceTimeout p) s = .next ((s.poolClear p.val).signal t (p.val - s.vecBase t)) := by
  change execMsixCoalesceTimeout p s = _
  unfold execMsixCoalesceTimeout
  rw [hx, ho]

end

end Sys2Proof.Machine

open Sys2Proof.Machine in
/-- Settles O22: one lemma for each outcome. -/
theorem sharesAndVectorsAreWritten : Obligations.SharesAndVectorsAreWritten := by
  refine ⟨?tvec, ?tvecRefused, fun _ _ _ _ _ hm hq hv => exec_qvecWrite_stores hm hq hv, fun _ _ _ _ hm hp hb => exec_tshareWrite_changes hm hp hb,
    fun _ _ _ ho hb => exec_tshareWrite_refused ho hb, fun _ _ _ hm hl => exec_gcapWrite_stores hm hl, fun _ _ _ v hs ho hw => exec_msixTableWrite_word hs ho hw v,
    fun _ _ _ v hs hc hw => exec_msixTableWrite_control hs hc hw v, fun _ _ _ _ hx ho => exec_msixCoalesceTimeout_sends hx ho⟩
  case tvec =>
    intro s src t v b c hm hb hc he hp ht
    rw [exec_tvecWrite hm, State.wTvec_stores hb hc he hp ht rfl]
    rfl
  case tvecRefused =>
    intro s t v b c ho hb hc he hp
    rw [exec_tvecWrite (State.mayWrite_pf ho), State.wTvec_refused hb hc he hp]
    rfl
end

section
/-! SUPPORT. Doorbells, the fetch of descriptors, the ends of record DMA, and the Fixer reservation (05_tenants R132; 06_queues R164 to R180): one lemma for each outcome. -/

namespace Sys2Proof.Machine

section
variable {s : State}

/-! ### Doorbells (R132, R168) -/

section
variable {t : Tenant} (ho : s.pfOpen (ownSrc t) = true) {slot : Fin 64} {tail : BitVec 16}
include ho

theorem exec_doorbellWrite : exec (.doorbellWrite t slot tail) s = .next (s.applyDoor t slot.val tail.toNat) := if_pos ho

/-- A doorbell for no queue, for a DRT queue or for a function in reset is discarded and counted. -/
theorem exec_doorbellWrite_discarded (hn : ∀ q, s.slotQueue? t slot.val = some q → q.drt = true ∨ (s.fn t).resetting = true) :
    exec (.doorbellWrite t slot tail) s = .next (s.setFn { s.fn t with baddb := satAdd 16 (s.fn t).baddb 1 }) := by
  rw [exec_doorbellWrite ho]
  unfold State.applyDoor
  cases hq : s.slotQueue? t slot.val with
  | none => rfl
  | some q =>
    dsimp only
    rw [if_pos (hn q hq)]
    rfl

section
variable {q : Queue} (hq : s.slotQueue? t slot.val = some q) (hd : q.drt = false) (hr : (s.fn t).resetting = false)
include hq hd hr

omit ho in
/-- A doorbell for a ring queue of a function that is not in reset is decided by its tail alone. -/
theorem State.applyDoor_ring (n : Nat) : s.applyDoor t slot.val n =
    if q.badTail n = true then s.log { errRec .badtail .qmg [⟨"TAIL", .num n⟩] with src := if t = 0 then .pf else .vf, tenant := some t.val, qid := some q.id.val } else s.setQueue { q with tail := n } := by
  unfold State.applyDoor
  rw [hq]
  exact if_neg (by simp [hd, hr])

theorem exec_doorbellWrite_taken (hb : q.badTail tail.toNat = false) : exec (.doorbellWrite t slot tail) s = .next (s.setQueue { q with tail := tail.toNat }) := by
  rw [exec_doorbellWrite ho, State.applyDoor_ring hq hd hr, if_neg (by simp [hb])]

theorem exec_doorbellWrite_badTail (hb : q.badTail tail.toNat = true) :
    exec (.doorbellWrite t slot tail) s = .next (s.log { errRec .badtail .qmg [⟨"TAIL", .num tail.toNat⟩] with src := if t = 0 then .pf else .vf, tenant := some t.val, qid := some q.id.val }) := by
  rw [exec_doorbellWrite ho, State.applyDoor_ring hq hd hr, if_pos hb]

end

end

/-! ### Descriptors (R164 to R167, R179) -/

/-- The record that a WRITE becomes (R166, R167): moving in, with the next number of its queue; `ps` are the pages it takes, `u` the state they are taken in. -/
def State.writeRec (s u : State) (q : Queue) (d : Desc) (ps : List Nat) : Rec :=
  { uid := u.qmg.nextUid, tenant := q.tenant, qid := q.id, seq := q.nextSeq
    tstamp := if d.flags = 1#8 then d.tstamp.toNat else s.now, locked := u.bit F.ETH_TSTAT_LOCKED
    length := d.length.toNat, cid := d.cid, slot := q.head, addr := d.addr, level := .moving, acc := 0, sec := none, unsec := false, reported := 0
    pages := ps, feed := none, ds := [], whole := false, barriers := u.barriersOf q.id, drt := false, carried := false, replay := false
    body := none, hostts := d.flags == 1#8, mark := q.barred, lent := none }

section
variable {n : Qid} {d : Desc} {q : Queue} (hq : s.queue? n.val = some q) (hf : s.canFetch q = true)
include hq hf

theorem exec_descriptorFetchWrite_takes (hg : Desc.goodWrite d = true) (hs : q.nextSeq ≤ seqMax) (hp : pagesFor d.length.toNat ≤ s.roomFor q.tenant) {ps : List Nat} {u : State}
    (hu : (ps, u) = s.takePages (pagesFor d.length.toNat)) {r : Rec} (hr : r = s.writeRec u q d ps) :
    exec (.descriptorFetchWrite n d) s = .next ((u.addRec r).setQueue { q.advance with nextSeq := q.nextSeq + 1, barred := false, out := q.out ++ [⟨q.head, d.cid, .write r.uid⟩] }) := by
  obtain ⟨rfl, rfl⟩ := Prod.mk.inj hu
  subst hr
  change execDescriptorFetchWrite n d s = _
  unfold execDescriptorFetchWrite
  rw [hq]
  dsimp only
  rw [if_neg (by simp [hf]), if_neg (by simp [hg]), if_neg (Nat.not_lt.mpr hp), if_neg (Nat.not_lt.mpr hs)]
  rfl

theorem exec_descriptorFetchRead_queues (hg : Desc.goodRead d = true) {u v : State} (hu : u = if s.readRefused q d = none ∧ s.cart = .ready then s.setCart .reading [] else s)
    (hv : v = if s.readRefused q d = none ∧ u.mot = .stopped then u.beginMove .read (wrapRev u.headIx) u.readStep else u) :
    exec (.descriptorFetchRead n d) s = .next ((v.setQueue { q.advance with out := q.out ++ [⟨q.head, d.cid, .read ⟨d, v.us, none, s.readRefused q d, []⟩⟩] }).readsDone n.val 65536) := by
  subst hv hu
  change execDescriptorFetchRead n d s = _
  unfold execDescriptorFetchRead
  rw [hq]
  dsimp only
  rw [if_neg (by simp [hf]), if_neg (by simp [hg])]

theorem exec_descriptorFetchBarrier_queues (hg : Desc.plain d 3 = true) {u : State} (hu : u = s.addBarrier q (some (q.head, d.cid))) :
    exec (.descriptorFetchBarrier n d) s = .next (u.setQueue { q.advance with barred := true, out := q.out ++ [⟨q.head, d.cid, .barrier (u.qmg.nextUid - 1)⟩] }).report := by
  subst hu
  change execDescriptorFetchBarrier n d s = _
  unfold execDescriptorFetchBarrier
  rw [hq]
  dsimp only
  rw [if_neg (by simp [hf]), if_neg (by simp [hg])]

theorem exec_descriptorFetchNop_done (hg : Desc.plain d 0 = true) : exec (.descriptorFetchNop n d) s = .next (s.endFetch q d.cid 0 cDONE) := by
  change execDescriptorFetchNop n d s = _
  unfold execDescriptorFetchNop
  rw [hq]
  dsimp only
  rw [if_neg (by simp [hf]), if_neg (by simp [hg])]

omit d in
theorem exec_descriptorDmaError_aborts : exec (.descriptorDmaError n) s = .next (s.endFetch q 0#16 Er.dmaerr.code cABORTED) := by
  change execDescriptorDmaError n s = _
  unfold execDescriptorDmaError
  rw [hq]
  exact if_neg (by simp [hf])

end

/-! ### Record DMA (R166, R182) -/

section
variable {n : Qid} {k : BitVec 48} {r : Rec} (hr : s.moving? n k.toNat = some r)
include hr

theorem exec_recordDmaComplete_accepts (data : List Byte) : exec (.recordDmaComplete n k data) s = .next (s.accept r (data.take r.length)) := by
  change execRecordDmaComplete n k data s = _
  unfold execRecordDmaComplete
  rw [hr]

theorem exec_recordDmaError_aborts : exec (.recordDmaError n k) s = .next (s.abort [r.uid] .dmaerr) := by
  change execRecordDmaError n k s = _
  unfold execRecordDmaError
  rw [hr]

end

/-! ### The Fixer reservation (R172, R173) -/

section
variable {r : Rec} (hs : s.secOk = true) (hr : s.firstEligible = some r)
include hs hr

/-- With SECOK the first eligible record decides what a charge does. -/
theorem exec_reservationCharge_eligible : exec .reservationCharge s =
    if s.getF F.QMG_FCAP_CAP < r.length then .next (s.setRec { r with unsec := true })
    else if s.resUsed + chargeOf r.length ≤ s.getF F.FIX_RLIM_LIM then
      .next ({ (s.setRec { r with level := .secured, sec := some s.qmg.nextSec }) with
        qmg := { (s.setRec { r with level := .secured, sec := some s.qmg.nextSec }).qmg with nextSec := s.qmg.nextSec + 1 } } : State).report
    else .next s := by
  change execReservationCharge s = _
  unfold execReservationCharge
  rw [if_neg (by simp [hs]), hr]
  rfl

theorem exec_reservationCharge_charges (hc : r.length ≤ s.getF F.QMG_FCAP_CAP) (hl : s.resUsed + chargeOf r.length ≤ s.getF F.FIX_RLIM_LIM) :
    exec .reservationCharge s = .next ({ (s.setRec { r with level := .secured, sec := some s.qmg.nextSec }) with
      qmg := { (s.setRec { r with level := .secured, sec := some s.qmg.nextSec }).qmg with nextSec := s.qmg.nextSec + 1 } } : State).report := by
  rw [exec_reservationCharge_eligible hs hr, if_neg (Nat.not_lt.mpr hc), if_pos hl]

theorem exec_reservationCharge_above (hc : s.getF F.QMG_FCAP_CAP < r.length) : exec .reservationCharge s = .next (s.setRec { r with unsec := true }) := by
  rw [exec_reservationCharge_eligible hs hr, if_pos hc]

end

end

end Sys2Proof.Machine

open Sys2Proof.Machine in
/-- Settles O23: one lemma for each outcome. -/
theorem descriptorsAreFetched : Obligations.DescriptorsAreFetched := by
  refine ⟨fun _ _ _ _ _ ho hq hd hr hb => exec_doorbellWrite_taken ho hq hd hr hb, fun _ _ _ _ _ ho hq hd hr hb => exec_doorbellWrite_badTail ho hq hd hr hb,
    fun _ _ _ _ ho hn => exec_doorbellWrite_discarded ho hn, ?write, fun _ _ _ _ _ _ hq hf hg hu hv => exec_descriptorFetchRead_queues hq hf hg hu hv,
    fun _ _ _ _ hq hf hg => ⟨_, rfl, exec_descriptorFetchBarrier_queues hq hf hg rfl⟩, fun _ _ _ _ hq hf hg => exec_descriptorFetchNop_done hq hf hg,
    fun _ _ _ hq hf => exec_descriptorDmaError_aborts hq hf, fun _ _ _ data _ hr => exec_recordDmaComplete_accepts hr data, fun _ _ _ _ hr => exec_recordDmaError_aborts hr,
    fun _ _ hs hr hc hl => exec_reservationCharge_charges hs hr hc hl, fun _ _ hs hr hc => exec_reservationCharge_above hs hr hc⟩
  case write =>
    intro s n d q hq hf hg hs hp
    exact ⟨_, _, s.writeRec _ q d _, rfl, exec_descriptorFetchWrite_takes hq hf hg hs hp rfl rfl, rfl, rfl, rfl, rfl, rfl, rfl, rfl, rfl, rfl, rfl⟩
end

section
/-! SUPPORT. ARP, ICMP echo and other frames, link changes and time synchronisation (05_tenants R135 to R140): one lemma for each outcome, and that a NOTIFY leaves the timebase alone. -/

namespace Sys2Proof.Machine

section
variable {s : State}

/-! ### Frames (R135 to R137) -/

section
variable {e : EthIn} (hp : s.portUp e.port = true) {a : Word} {f : State → State}
include hp

theorem State.ethFrame_full (hx : e.xc3Full = true) : s.ethFrame e a f = s.count F.ETH_DROP_FULL 1 := by
  unfold State.ethFrame
  rw [if_neg (by simp [hp]), if_pos hx]

theorem State.ethFrame_otherTag (hx : e.xc3Full = false) (ht : s.tagOk e.port e.vid = false) : s.ethFrame e a f = s.count F.ETH_DROP_OTHER 1 := by
  unfold State.ethFrame
  rw [if_neg (by simp [hp]), if_neg (by simp [hx]), if_pos ht]

section
variable (hx : e.xc3Full = false) (ht : s.tagOk e.port e.vid = true)
include hx ht

theorem State.ethFrame_served : s.ethFrame e a f = f (s.heard e.port e.mac a) := by
  unfold State.ethFrame
  rw [if_neg (by simp [hp]), if_neg (by simp [hx]), if_neg (by simp [ht])]

variable {u : State} (hu : u = s.heard e.port e.mac a) (hi : u.portIp e.port ≠ 0) {b : Word} (hb : b.toNat = u.portIp e.port)
include hu hi hb

theorem exec_arpRequest_answered : exec (.arpRequest e a b) s = .next (u.emit (.arpReply (u.ethTx e.port e.mac false) a)) := by
  subst hu
  change Host.Outcome.next (s.ethFrame e a _) = _
  rw [State.ethFrame_served hp hx ht, if_pos ⟨hi, hb⟩]

theorem exec_icmpEcho_answered (d : List Byte) : exec (.icmpEcho e a b d) s = .next (u.emit (.icmpReply (u.ethTx e.port e.mac true) a d)) := by
  subst hu
  change Host.Outcome.next (s.ethFrame e a _) = _
  rw [State.ethFrame_served hp hx ht, if_pos ⟨hi, hb⟩]

end

end

theorem exec_unsupportedFrame_counted {p : Fin 2} (hp : s.portUp p = true) (full : Bool) :
    exec (.unsupportedFrame p full) s = .next (s.count (if full then F.ETH_DROP_FULL else F.ETH_DROP_OTHER) 1) := if_pos hp

/-! ### Link changes (R135) -/

theorem exec_ethLinkChange {p : Fin 2} {mbps : Nat} {fd link : Bool} {v : Nat} (hv : v = if link = true ∧ fd = true ∧ mbps = 1000 ∧ s.domainOn 2 = true then 1 else 0) {u : State}
    (hu : u = if v = 1 then s.clkBack (if p.val = 0 then .cke0 else .cke1) else s) :
    exec (.ethLinkChange p mbps fd link) s =
      .next (if p.val = 0 then (u.setF F.ETH_PSTAT_UP0 v).setF F.CLK_STAT_CKE0_LOCK v else (u.setF F.ETH_PSTAT_UP1 v).setF F.CLK_STAT_CKE1_LOCK v) := by
  have hup : (if link && fd && mbps == 1000 && s.domainOn 2 then 1 else 0) = v := by simp only [hv, Bool.and_eq_true, beq_iff_eq, and_assoc]
  change execEthLinkChange p mbps fd link s = _
  unfold execEthLinkChange
  dsimp only
  rw [hup, ← hu]
  split <;> rfl

/-! ### What the end of a lock leaves alone: the timebase (R139, R197 to R199) -/

end

@[simp] theorem signal_eth (s : State) (t : Tenant) (v : Nat) : (s.signal t v).eth = s.eth := by
  unfold State.signal
  dsimp only
  split_ifs <;> rfl

@[simp] theorem vecEvent_eth (s : State) (t : Tenant) (v : Nat) (aborted : Bool) : (s.vecEvent t v aborted).eth = s.eth := by
  unfold State.vecEvent
  dsimp only
  split_ifs
  · rfl
  · exact signal_eth _ t v
  · rfl

@[simp] theorem cause_eth (s : State) (b : Nat) : (s.cause b).eth = s.eth := by
  unfold State.cause
  dsimp only
  split_ifs
  · rfl
  · exact vecEvent_eth _ 0 _ false
  · rfl

@[simp] theorem drtEmit_eth (s : State) (l : Option LinkPeer) (p : Fin 2) (mac : BitVec 48) (d : DrtOut) : (s.drtEmit l p mac d).eth = s.eth := by
  cases l with
  | none => rfl
  | some p =>
    obtain ⟨o, x, b, h⟩ := route_sends s (s.frame tDRT p.node.toNat 0 (drtBytes d))
    change (s.route _).eth = s.eth
    rw [h]

@[simp] theorem setDrt_ns (s : State) (d : Drt) : (s.setDrt d).eth.ns = s.eth.ns := rfl

@[simp] theorem drtSend_ns (s : State) (d : Drt) (ty flags aux : Nat) (payload : List Byte) : (s.drtSend d ty flags aux payload).eth.ns = s.eth.ns := by
  unfold State.drtSend
  rw [setDrt_ns, drtEmit_eth]

@[simp] theorem note_ns (s : State) (d : Drt) (on : Bool) (code value : Nat) : (s.note d on code value).eth.ns = s.eth.ns := by
  unfold State.note
  split
  · split
    · exact drtSend_ns s _ ..
    · rfl
  · rfl

theorem noteEach_ns (t : Option Tenant) (code : Nat) (value : Tenant → Nat) (l : List Drt) : ∀ s : State, (s.noteEach t code value l).eth.ns = s.eth.ns := by
  induction l with
  | nil => exact fun _ => rfl
  | cons d ds ih =>
    intro s
    unfold State.noteEach
    refine (ih _).trans ?_
    split_ifs
    · split
      · exact note_ns s ..
      · rfl
    · rfl

@[simp] theorem notify_ns (s : State) (code value : Nat) : (s.notify code value).eth.ns = s.eth.ns := noteEach_ns none code _ _ s

@[simp] theorem setLocked_ns (s : State) (b : Bool) : (s.setLocked b).eth.ns = s.eth.ns := by
  unfold State.setLocked
  dsimp only
  by_cases hb : s.bit F.ETH_TSTAT_LOCKED = b
  · rw [if_pos hb]
  · rw [if_neg hb, notify_ns, cause_eth, setF_eth]

/-- An offset above 1 ms is stepped away at once (R139). -/
theorem steer_ns_stepped (s : State) {o : Int} (h : stepNs < o.natAbs) : (s.steer o).eth.ns = ((s.eth.ns : Int) - o).toNat := by
  have hfree : freeNs < o.natAbs := lt_trans (by decide) h
  unfold State.steer
  dsimp only
  rw [if_pos hfree, setLocked_ns]
  exact if_pos h

section
variable {s : State}

/-! ### Time synchronisation (R139, R140) -/

theorem exec_gptpSync_down {p : Fin 2} (hp : s.portUp p = false) (o : Int) : exec (.gptpSync p o) s = .next s := if_pos hp

section
variable {p : Fin 2} (hp : s.portUp p = true) {o : Int}
include hp

/-- What a Sync on port `p` with offset `o` records before it steers. -/
theorem exec_gptpSync_up {u : State}
    (hu : u = ((s.setF F.ETH_TOFS_OFFSET (BitVec.ofInt 32 (satOffset o)).toNat).setF F.ETH_TSTAT_SLVPORT p.val).setF F.ETH_TSTAT_GM 0) :
    exec (.gptpSync p o) s = .next (if u.bit F.ETH_TCFG_SRC then u else u.steer o) := by
  subst hu
  change execGptpSync p o s = _
  unfold execGptpSync
  rw [if_neg (by simp [hp])]
  dsimp only
  split <;> rfl

theorem exec_gptpSync_steps (hs : s.bit F.ETH_TCFG_SRC = false) (ho : stepNs < o.natAbs) : ∃ t : State, exec (.gptpSync p o) s = .next t ∧ t.eth.ns = ((s.eth.ns : Int) - o).toNat := by
  have hsrc : (((s.setF F.ETH_TOFS_OFFSET (BitVec.ofInt 32 (satOffset o)).toNat).setF F.ETH_TSTAT_SLVPORT p.val).setF F.ETH_TSTAT_GM 0).bit F.ETH_TCFG_SRC = false := by
    rw [bit_setF_other _ _ (by decide) (by decide), bit_setF_other _ _ (by decide) (by decide), bit_setF_other _ _ (by decide) (by decide), hs]
  refine ⟨_, exec_gptpSync_up hp rfl, ?_⟩
  rw [if_neg (Bool.eq_false_iff.mp hsrc), steer_ns_stepped _ ho, setF_eth, setF_eth, setF_eth]

end

end

end Sys2Proof.Machine

open Sys2Proof.Machine in
/-- Settles O25: one lemma for each outcome. -/
theorem networkServicesAnswer : Obligations.NetworkServicesAnswer := by
  refine ⟨fun _ _ _ _ _ hp hx ht hu hi hb => exec_arpRequest_answered hp hx ht hu hi hb, fun _ _ _ _ _ d hp hx ht hu hi hb => exec_icmpEcho_answered hp hx ht hu hi hb d, ?dropped,
    fun _ _ full hp => exec_unsupportedFrame_counted hp full, fun _ _ _ _ _ _ _ hv hu => exec_ethLinkChange hv hu, fun _ _ o hp => exec_gptpSync_down hp o,
    fun _ _ _ _ hp hu => exec_gptpSync_up hp hu, fun _ _ _ hp hs ho => exec_gptpSync_steps hp hs ho, ?timeout⟩
  case dropped =>
    intro s e a b d hp
    exact ⟨fun hx => ⟨congrArg Host.Outcome.next (State.ethFrame_full hp hx), congrArg Host.Outcome.next (State.ethFrame_full hp hx)⟩,
      fun hx ht => ⟨congrArg Host.Outcome.next (State.ethFrame_otherTag hp hx ht), congrArg Host.Outcome.next (State.ethFrame_otherTag hp hx ht)⟩⟩
  case timeout =>
    rintro s u rfl
    rfl
end

section
/-! SUPPORT. DRT datagrams (05_tenants R142 to R158, R452): OPEN, and what every datagram of a session meets before it is served; one lemma for each outcome. -/

namespace Sys2Proof.Machine

section
variable {s : State} {h : DrtHdr}

/-! ### XC-3 (R32, R137) -/

theorem drtAtFull_of_full (hl : h.link = none) (hx : h.xc3Full = true) : drtAtFull h = true := by simp [drtAtFull, hl, hx]

theorem drtAtFull_of_room (hl : h.link ≠ none ∨ h.xc3Full = false) : drtAtFull h = false := by
  rcases hl with hl | hx
  · simp [drtAtFull, Option.isNone_eq_false_iff.mpr (Option.isSome_iff_ne_none.mpr hl)]
  · simp [drtAtFull, hx]

/-! ### The checks of R154 -/

/-- A datagram that belongs to no session is handled by why it does not. -/
theorem State.drtCheck_unknown {β : Type} (hn : ∀ d, s.drtCheck h ≠ .known d) (f : Drt → β) (g : DrtCheck → β) : (match s.drtCheck h with | .known d => f d | c => g c) = g (s.drtCheck h) := by
  cases hc : s.drtCheck h with
  | known d => exact absurd hc (hn d)
  | other | bad | noSession => rfl

/-! ### OPEN (R146, R154) -/

section
variable {p : DrtOpenP}

theorem exec_drtOpen_full (hf : drtAtFull h = true) : exec (.drtOpen h p) s = .next (s.count F.ETH_DROP_FULL 1) := if_pos hf

theorem exec_drtOpen_other (hf : drtAtFull h = false) (hl : h.link = none) (hp : s.drtPort h.port = false ∨ s.tagOk h.port h.vid = false) :
    exec (.drtOpen h p) s = .next (s.count F.ETH_DROP_OTHER 1) := by
  have hother : h.link = none ∧ (s.drtPort h.port && s.tagOk h.port h.vid) = false := ⟨hl, Bool.and_eq_false_iff.mpr hp⟩
  change execDrtOpen h p s = _
  unfold execDrtOpen
  rw [if_neg (by simp [hf]), if_pos hother]
  rfl

section
variable (hr : h.link ≠ none ∨ h.xc3Full = false ∧ s.drtPort h.port = true ∧ s.tagOk h.port h.vid = true)
include hr

/-- An OPEN that reaches DRT, over the link or on a port that serves it, is bad or goes to its service. -/
theorem exec_drtOpen_reaches : exec (.drtOpen h p) s =
    if h.sumOk = false ∨ h.magicOk = false ∨ h.lenOk = false ∨ h.session ≠ 0#16 then .next (s.count F.ETH_DROP_BAD 1)
    else if ((s.hear h).edge h.link.isNone .eth).domainOn 1 = false then .next ((s.hear h).edge h.link.isNone .eth)
    else .next (((s.hear h).edge h.link.isNone .eth).drtServe h p) := by
  have hserved : ¬(h.link = none ∧ (s.drtPort h.port && s.tagOk h.port h.vid) = false) := by
    rintro ⟨hl, hp⟩
    obtain ⟨_, hport, htag⟩ := hr.resolve_left (not_not.mpr hl)
    simp [hport, htag] at hp
  change execDrtOpen h p s = _
  unfold execDrtOpen
  rw [if_neg (by simp [drtAtFull_of_room (hr.imp_right And.left)]), if_neg hserved]
  rfl

theorem exec_drtOpen_bad (hb : h.sumOk = false ∨ h.magicOk = false ∨ h.lenOk = false ∨ h.session ≠ 0#16) : exec (.drtOpen h p) s = .next (s.count F.ETH_DROP_BAD 1) := by
  rw [exec_drtOpen_reaches hr, if_pos hb]

omit hr in
/-- Hearing a peer and the wake event change no domain. -/
theorem hear_edge_domainOn (d : Nat) (w : Wake) : ((s.hear h).edge h.link.isNone w).domainOn d = s.domainOn d := by
  unfold State.hear State.edge
  split_ifs <;> rfl

theorem exec_drtOpen_serves (hsum : h.sumOk = true) (hmagic : h.magicOk = true) (hlen : h.lenOk = true) (hsession : h.session = 0#16) (hd : s.domainOn 1 = true) {u : State}
    (hu : u = (s.hear h).edge h.link.isNone .eth) : exec (.drtOpen h p) s = .next (u.drtServe h p) := by
  subst hu
  rw [exec_drtOpen_reaches hr, if_neg (by simp [hsum, hmagic, hlen, hsession]), if_neg (by simp [hear_edge_domainOn, hd])]

end

/-! ### The service of an OPEN (R146; log entry 104) -/

section
variable {same : Drt → Bool} (hsame : same = fun d => samePeer d h && d.nonce == h.aux && d.tenant == p.tenant && d.qid.val == p.queue.toNat)
include hsame

theorem State.drtServe_repeats {d : Drt} (hf : s.eth.drt.find? same = some d) :
    s.drtServe h p = s.drtEmit h.link h.port h.mac ⟨h.ip, h.udp, tOPENACK, d.id, 0, 0, h.aux.toNat, d.openAck⟩ := by
  subst hsame
  unfold State.drtServe
  rw [hf]

variable (hf : s.eth.drt.find? same = none)
include hf

theorem State.drtServe_refuses {e : Er} (hc : s.openCheck h.link.isSome p = some e) :
    s.drtServe h p = s.drtEmit h.link h.port h.mac ⟨h.ip, h.udp, tERROR, 0, fEND, 0, 0, errPayload e⟩ := by
  subst hsame
  unfold State.drtServe
  rw [hf, hc]
  rfl

theorem State.drtServe_binds (hc : s.openCheck h.link.isSome p = none) {q : Queue} (hq : s.queue? p.queue.toNat = some q) : s.drtServe h p = s.drtBind h p q := by
  subst hsame
  unfold State.drtServe
  rw [hf, hc, hq]

end

end

end

end Sys2Proof.Machine

open Sys2Proof.Machine in
/-- Settles O26: an OPEN is dropped, or reaches its service, and then one lemma for each answer. -/
theorem drtSessionsOpen : Obligations.DrtSessionsOpen := by
  refine ⟨fun s h p hl => ⟨fun hx => exec_drtOpen_full (drtAtFull_of_full hl hx), fun hx => exec_drtOpen_other (drtAtFull_of_room (.inr hx)) hl⟩,
    fun s h p hr => ⟨exec_drtOpen_bad hr, fun u same hsum hmagic hlen hsession hd hu hsame => ?served⟩⟩
  case served =>
    rw [exec_drtOpen_serves hr hsum hmagic hlen hsession hd hu]
    exact ⟨fun _ hf => congrArg Host.Outcome.next (State.drtServe_repeats hsame hf), fun _ hf hc => congrArg Host.Outcome.next (State.drtServe_refuses hsame hf hc),
      fun _ hf hc hq => congrArg Host.Outcome.next (State.drtServe_binds hsame hf hc hq)⟩
end

section
/-! SUPPORT. DATA datagrams (05_tenants R137, R148 to R154; 15_power R402): held behind a quiesced domain, dropped, or staged; one lemma for each outcome. -/

namespace Sys2Proof.Machine

section
variable {s : State} {h : DrtHdr} {g : DrtSeg}

/-! ### Up to the session's check (R137, R402; log entry 53) -/

theorem exec_drtData_full (hf : drtAtFull h = true) : exec (.drtData h g) s = .next (s.count F.ETH_DROP_FULL 1) := if_pos hf

section
variable (hf : drtAtFull h = false)
include hf

theorem exec_drtData_goesOn (hq : s.rxHeld = false) : exec (.drtData h g) s = .next (s.drtData h g) := by
  change execDrtData h g s = _
  unfold execDrtData
  rw [if_neg (by simp [hf]), if_pos hq]

section
variable (hq : s.rxHeld = true)
include hq

theorem exec_drtData_stands (hl : h.link ≠ none ∨ s.xc3Used h.port + 82 + g.data.length ≤ 2048) :
    exec (.drtData h g) s = .next { s with xc := { s.xc with rx := s.xc.rx ++ [(h, g)] } } := by
  have hroom : ¬(h.link = none ∧ xc3Bytes < s.xc3Used h.port + 82 + g.data.length) := fun ⟨hn, hgt⟩ => absurd hgt (Nat.not_lt.mpr (hl.resolve_left (not_not.mpr hn)))
  change execDrtData h g s = _
  unfold execDrtData
  rw [if_neg (by simp [hf]), if_neg (by simp [hq]), if_neg hroom]

theorem exec_drtData_noRoom (hl : h.link = none) (hx : 2048 < s.xc3Used h.port + 82 + g.data.length) : exec (.drtData h g) s = .next (s.count F.ETH_DROP_FULL 1) := by
  change execDrtData h g s = _
  unfold execDrtData
  rw [if_neg (by simp [hf]), if_neg (by simp [hq]), if_pos ⟨hl, hx⟩]

end

end

/-! ### By the session's check (R149, R154) -/

theorem State.drtData_drops (hn : ∀ d, s.drtCheck h ≠ .known d) : s.drtData h g = s.drtDrop h (s.drtCheck h) := State.drtCheck_unknown hn _ (s.drtDrop h)

section
variable {d : Drt} (hd : s.drtCheck h = .known d)
include hd

theorem State.drtData_bad (hb : g.data = [] ∨ d.maxseg < g.data.length) : s.drtData h g = s.count F.ETH_DROP_BAD 1 := by
  unfold State.drtData
  rw [hd]
  exact if_pos hb

theorem State.drtData_takes (hg : g.data ≠ []) (hm : g.data.length ≤ d.maxseg) {u : State} (hu : u = s.hear h) : s.drtData h g = u.drtTake d h g := by
  subst hu
  unfold State.drtData
  rw [hd]
  exact if_neg (not_or.mpr ⟨hg, Nat.not_lt.mpr hm⟩)

end

/-! ### By the SEQ (R148, R151, R153; log entries 21 and 105) -/

/-- The datagram as it is held. -/
def State.heldOf (s : State) (h : DrtHdr) (g : DrtSeg) : Held :=
  ⟨h.seq.toNat, g, getBits h.flags.toNat 2 1 == 1, getBits h.flags.toNat 3 1 == 1, s.now, s.bit F.ETH_TSTAT_LOCKED⟩

section
variable {d : Drt}

theorem State.drtTake_dup (hx : d.closing = true ∨ seqDiff h.seq.toNat d.cum = 0 ∨ 2 ^ 31 ≤ seqDiff h.seq.toNat d.cum ∨ d.held.any (fun x => x.seq == h.seq.toNat) = true) :
    s.drtTake d h g = (s.count F.ETH_DROP_DUP 1).ackSoon d := if_pos hx

section
variable (hc : d.closing = false) (hh : d.held.any (fun x => x.seq == h.seq.toNat) = false) (h1 : 1 ≤ seqDiff h.seq.toNat d.cum) (h2 : seqDiff h.seq.toNat d.cum < 2 ^ 31)
include hc hh h1 h2

/-- A datagram that is new to an open session is no duplicate. -/
theorem drtTake_new : ¬(d.closing = true ∨ seqDiff h.seq.toNat d.cum = 0 ∨ 2 ^ 31 ≤ seqDiff h.seq.toNat d.cum ∨ d.held.any (fun x => x.seq == h.seq.toNat) = true) := by
  simp only [hc, hh, Bool.false_eq_true, false_or, or_false]
  omega

theorem State.drtTake_win (hn : 1 < seqDiff h.seq.toNat d.cum) (hw : s.winOf d < seqDiff h.seq.toNat d.cum) : s.drtTake d h g = (s.count F.ETH_DROP_WIN 1).ackSoon d := by
  unfold State.drtTake
  dsimp only
  rw [if_neg (drtTake_new hc hh h1 h2), if_pos ⟨Nat.ne_of_gt hn, hw⟩]

theorem State.drtTake_stages (hn : seqDiff h.seq.toNat d.cum = 1 ∨ seqDiff h.seq.toNat d.cum ≤ s.winOf d) {w : State}
    (hw : w = ((((s.setDrt { d with held := d.held ++ [s.heldOf h g], sinceAck := d.sinceAck + 1 }).drtAdvance d.id 257).drtDrain d.id (d.wait.length + 257)).report).drtClosed d.id) :
    s.drtTake d h g = match w.drt? d.id with
      | some e => if 8 ≤ e.sinceAck then w.ackSoon e else w
      | none => w := by
  subst hw
  unfold State.drtTake
  dsimp only
  rw [if_neg (drtTake_new hc hh h1 h2), if_neg (fun ⟨hne, hgt⟩ => hn.elim hne (Nat.not_le.mpr hgt))]
  rfl

end

end

end

end Sys2Proof.Machine

open Sys2Proof.Machine in
/-- Settles O27: a datagram is held behind a quiesced domain, or its session's check and its SEQ decide; one lemma for each outcome. -/
theorem drtDataIsStagedOrCounted : Obligations.DrtDataIsStagedOrCounted := by
  refine ⟨fun s h g hl hx => exec_drtData_full (drtAtFull_of_full hl hx), ?quiesced, ?running⟩
  case quiesced =>
    intro s h g hf hq
    have hheld : s.rxHeld = true := by simpa [State.rxHeld, or_assoc] using hq
    exact ⟨exec_drtData_stands (drtAtFull_of_room hf) hheld, exec_drtData_noRoom (drtAtFull_of_room hf) hheld⟩
  case running =>
    intro s h g hf h1 h7 h8
    rw [exec_drtData_goesOn (drtAtFull_of_room hf) (by simp [State.rxHeld, h1, h7, h8])]
    refine ⟨fun u d hd hu => ⟨fun hb => congrArg Host.Outcome.next (State.drtData_bad hd hb), fun hg hm hx => ?_, fun hg hm hc hh hn hlt hw => ?_, fun hg hm hc hh hn hlt hw => ?_⟩,
      fun hn => congrArg Host.Outcome.next (State.drtData_drops hn)⟩
    · rw [State.drtData_takes hd hg hm hu, State.drtTake_dup hx]
    · rw [State.drtData_takes hd hg hm hu, State.drtTake_win hc hh (Nat.le_of_lt hn) hlt hn hw]
    · rw [State.drtData_takes hd hg hm hu, State.drtTake_stages hc hh hn hlt hw rfl]
      rfl
end

section
/-! SUPPORT. CLOSE and KEEPALIVE, the timers of a session, the NOTIFY holdoff and the over-rate check (05_tenants R152 to R157; 07_interrupts R198, R199): one lemma for each outcome. -/

namespace Sys2Proof.Machine

section
variable {s : State}

/-! ### CLOSE and KEEPALIVE (R152, R157) -/

section
variable {h : DrtHdr}

theorem exec_drtClose_full (hf : drtAtFull h = true) : exec (.drtClose h) s = .next (s.count F.ETH_DROP_FULL 1) := if_pos hf

theorem exec_drtKeepalive_full (hf : drtAtFull h = true) : exec (.drtKeepalive h) s = .next (s.count F.ETH_DROP_FULL 1) := if_pos hf

section
variable (hf : drtAtFull h = false)
include hf

section
variable (hn : ∀ d, s.drtCheck h ≠ .known d)
include hn

theorem exec_drtClose_drops : exec (.drtClose h) s = .next (s.drtDrop h (s.drtCheck h)) :=
  (if_neg (Bool.eq_false_iff.mp hf)).trans (State.drtCheck_unknown hn _ fun c => Host.Outcome.next (s.drtDrop h c))

theorem exec_drtKeepalive_drops : exec (.drtKeepalive h) s = .next (s.drtDrop h (s.drtCheck h)) :=
  (if_neg (Bool.eq_false_iff.mp hf)).trans (State.drtCheck_unknown hn _ fun c => Host.Outcome.next (s.drtDrop h c))

end

section
variable {d : Drt} (hd : s.drtCheck h = .known d) {u : State} (hu : u = s.hear h)
include hd hu

theorem exec_drtClose_closes (hc : d.closing = false) : exec (.drtClose h) s = .next ((u.setDrt { d with final := some h.aux.toNat }).drtClosed d.id) := by
  subst hu
  change execDrtClose h s = _
  unfold execDrtClose
  rw [if_neg (by simp [hf]), hd]
  exact if_neg (by simp [hc])

theorem exec_drtClose_repeats {f : Nat} (hc : d.closing = true) (hfinal : d.final = some f) :
    exec (.drtClose h) s = .next (u.drtSend d tCLOSEACK (if d.cut then fPARTIAL else 0) f (u.ackBytes d)) := by
  subst hu
  change execDrtClose h s = _
  unfold execDrtClose
  rw [if_neg (by simp [hf]), hd]
  dsimp only
  rw [if_pos hc, hfinal]
  rfl

theorem exec_drtKeepalive_acks : exec (.drtKeepalive h) s = .next (u.ackSoon d) := by
  subst hu
  change execDrtKeepalive h s = _
  unfold execDrtKeepalive
  rw [if_neg (by simp [hf]), hd]

end

end

end

/-! ### Timers (R152, R155) and the NOTIFY holdoff (R199) -/

section
variable {n : BitVec 16} {d : Drt} (hd : s.drt? n.toNat = some d)
include hd

theorem exec_drtAckTimer : exec (.drtAckTimer n) s = .next (if d.sinceAck = 0 then s else s.ackSoon d) := by
  change execDrtAckTimer n s = _
  unfold execDrtAckTimer
  rw [hd]
  dsimp only
  split <;> rfl

theorem exec_drtGapTimer : exec (.drtGapTimer n) s = .next (if d.held = [] then s else s.ackSoon d) := by
  change execDrtGapTimer n s = _
  unfold execDrtGapTimer
  rw [hd]
  dsimp only
  split <;> rfl

theorem exec_drtIdleTimeout : exec (.drtIdleTimeout n) s = if s.getF F.ETH_DRTIDLE_IDLE = 0 ∨ d.ndur ≠ d.nacc then .next s else .next (s.drtEnd d .idle 0) := by
  change execDrtIdleTimeout n s = _
  unfold execDrtIdleTimeout
  rw [hd]

theorem exec_drtIdleTimeout_ends (hi : s.getF F.ETH_DRTIDLE_IDLE ≠ 0) (ha : d.ndur = d.nacc) : exec (.drtIdleTimeout n) s = .next (s.drtEnd d .idle 0) := by
  rw [exec_drtIdleTimeout hd, if_neg (not_or.mpr ⟨hi, not_not.mpr ha⟩)]

theorem exec_drtIdleTimeout_keeps (hi : s.getF F.ETH_DRTIDLE_IDLE = 0 ∨ d.ndur ≠ d.nacc) : exec (.drtIdleTimeout n) s = .next s := by
  rw [exec_drtIdleTimeout hd, if_pos hi]

section
variable {ev : Fin 9} {x : Notified} (hx : d.notes.find? (fun y => y.kind == noteKind ev.val) = some x) {e : Drt} (he : e = { d with notes := d.notes.filter (fun m => m.kind != x.kind) })
include hx he

theorem exec_notifyHoldoffEnd_sends {c v at' : Nat} (hh : x.held = some (c, v, at')) (ho : s.noteOn d.tenant = true) (hv : noteDiffers x c v = true) :
    exec (.notifyHoldoffEnd n ev) s = .next (s.noteSend e c v at') := by
  subst he
  change execNotifyHoldoffEnd n ev s = _
  simp only [execNotifyHoldoffEnd, hd, hx, hh]
  exact if_pos ⟨ho, hv⟩

theorem exec_notifyHoldoffEnd_ends (hh : ∀ c v at', x.held = some (c, v, at') → s.noteOn d.tenant = false ∨ noteDiffers x c v = false) :
    exec (.notifyHoldoffEnd n ev) s = .next (s.setDrt e) := by
  subst he
  change execNotifyHoldoffEnd n ev s = _
  simp only [execNotifyHoldoffEnd, hd, hx]
  cases hw : x.held with
  | none => rfl
  | some held =>
    obtain ⟨c, v, at'⟩ := held
    have hkeeps : ¬(s.noteOn d.tenant = true ∧ noteDiffers x c v = true) := by
      rintro ⟨ho, hv⟩
      simpa [ho, hv] using hh c v at' hw
    exact if_neg hkeeps

end

end

/-- A timer of a session that has gone changes nothing. -/
theorem exec_sessionTimers_gone {n : BitVec 16} (hd : s.drt? n.toNat = none) (ev : Fin 9) :
    exec (.drtAckTimer n) s = .next s ∧ exec (.drtGapTimer n) s = .next s ∧ exec (.drtIdleTimeout n) s = .next s ∧ exec (.notifyHoldoffEnd n ev) s = .next s := by
  change execDrtAckTimer n s = _ ∧ execDrtGapTimer n s = _ ∧ execDrtIdleTimeout n s = _ ∧ execNotifyHoldoffEnd n ev s = _
  unfold execDrtAckTimer execDrtGapTimer execDrtIdleTimeout execNotifyHoldoffEnd
  rw [hd]
  exact ⟨rfl, rfl, rfl, rfl⟩

/-! ### The over-rate check (R198) -/

section
variable {t : Tenant} {v : Nat}

theorem exec_overrateCheck_tells (hc : s.classOf t = 0) (hv : s.getF (F.SCH_TSHARE_RATE t.val) < v) :
    exec (.overrateCheck t v) s = .next (s.noteEach (some t) 8 (fun _ => v) s.eth.drt) := if_pos ⟨hc, hv⟩

theorem exec_overrateCheck_keeps (hc : s.classOf t ≠ 0 ∨ v ≤ s.getF (F.SCH_TSHARE_RATE t.val)) : exec (.overrateCheck t v) s = .next s :=
  if_neg fun ⟨h0, hlt⟩ => hc.elim (absurd h0) (Nat.not_le.mpr hlt)

end

end

end Sys2Proof.Machine

open Sys2Proof.Machine in
/-- Settles O28: one lemma for each outcome. -/
theorem drtTimersAndClose : Obligations.DrtTimersAndClose := by
  refine ⟨fun s u h d hf hd hu => ?known, fun s h hf hn => ⟨exec_drtClose_drops (drtAtFull_of_room hf) hn, exec_drtKeepalive_drops (drtAtFull_of_room hf) hn⟩,
    fun s h hl hx => ⟨exec_drtClose_full (drtAtFull_of_full hl hx), exec_drtKeepalive_full (drtAtFull_of_full hl hx)⟩, fun s n d hd => ?timers, fun _ _ ev hd => exec_sessionTimers_gone hd ev,
    fun _ _ _ hc hv => exec_overrateCheck_tells hc hv, fun _ _ _ hc => exec_overrateCheck_keeps hc⟩
  case known =>
    exact ⟨exec_drtClose_closes (drtAtFull_of_room hf) hd hu, fun _ hc => exec_drtClose_repeats (drtAtFull_of_room hf) hd hu hc, exec_drtKeepalive_acks (drtAtFull_of_room hf) hd hu⟩
  case timers =>
    exact ⟨exec_drtAckTimer hd, exec_drtGapTimer hd, exec_drtIdleTimeout_ends hd, exec_drtIdleTimeout_keeps hd,
      fun ev x e hx he => ⟨fun _ _ _ hh ho hv => exec_notifyHoldoffEnd_sends hd hx he hh ho hv, exec_notifyHoldoffEnd_ends hd hx he⟩⟩
end

section
/-! SUPPORT. The ends of READs (06_queues R183 to R185, R476): one lemma for each outcome. -/

namespace Sys2Proof.Machine

/-! ### READ_COMPLETE (R183 to R185) -/

/-- How the oldest READ of its queue ends when it is told complete: with a status, DONE (`some none`), or not yet (`none`), while its record is there in part. -/
def ReadOp.ending (op : ReadOp) : Option (Option Er) :=
  match op.status, op.got with
  | some e, _ => some (some e)
  | none, some g => if g.data.length ≠ g.rlen then none else if op.d.length.toNat < g.rlen then some (some .shortbuf) else some none
  | none, none => some (some (if op.d.flags = 2#8 then .enddata else .notfound))

section
variable {op : ReadOp}

theorem ReadOp.ending_decided {e : Er} (hs : op.status = some e) : op.ending = some (some e) := by
  unfold ReadOp.ending
  rw [hs]

theorem ReadOp.ending_nothing (hs : op.status = none) (hg : op.got = none) : op.ending = some (some (if op.d.flags = 2#8 then .enddata else .notfound)) := by
  unfold ReadOp.ending
  rw [hs, hg]

section
variable {g : Got} (hs : op.status = none) (hg : op.got = some g)
include hs hg

/-- With something found, the lengths decide. -/
theorem ReadOp.ending_found : op.ending = if g.data.length ≠ g.rlen then none else if op.d.length.toNat < g.rlen then some (some .shortbuf) else some none := by
  unfold ReadOp.ending
  rw [hs, hg]

theorem ReadOp.ending_part (hp : g.data.length ≠ g.rlen) : op.ending = none := by
  rw [ReadOp.ending_found hs hg, if_pos hp]

theorem ReadOp.ending_short (hw : g.data.length = g.rlen) (hl : op.d.length.toNat < g.rlen) : op.ending = some (some .shortbuf) := by
  rw [ReadOp.ending_found hs hg, if_neg (not_not.mpr hw), if_pos hl]

theorem ReadOp.ending_whole (hw : g.data.length = g.rlen) (hl : g.rlen ≤ op.d.length.toNat) : op.ending = some none := by
  rw [ReadOp.ending_found hs hg, if_neg (not_not.mpr hw), if_neg (Nat.not_lt.mpr hl)]

end

end

section
variable {s : State} {q : Qid} {n : Nat} {x : Queue} {o : Outstanding} {op : ReadOp} (hr : s.readOp? q.val n = some (x, o, op))
include hr

section
variable {f : Outstanding} (hf : x.firstRead = some f)
include hf

theorem exec_readComplete_notOldest (hn : f.slot ≠ o.slot) : exec (.readComplete q n) s = .next s := by
  change execReadComplete q n s = _
  unfold execReadComplete
  rw [hr]
  dsimp only
  rw [hf]
  exact if_pos (by simpa using hn)

section
variable (ho : f.slot = o.slot)
include ho

/-- The oldest READ ends as `ReadOp.ending` says, and with it the decided READs behind it. -/
theorem exec_readComplete_oldest : exec (.readComplete q n) s = .next (op.ending.elim s fun e => (s.endRead x o op e).readsDone q.val 65536) := by
  change execReadComplete q n s = _
  unfold execReadComplete
  rw [hr]
  dsimp only
  rw [hf]
  refine (if_neg (by simp [ho])).trans ?_
  cases hs : op.status with
  | some e => rw [ReadOp.ending_decided hs]; rfl
  | none =>
    cases hg : op.got with
    | none => rw [ReadOp.ending_nothing hs hg]; rfl
    | some g =>
      rw [ReadOp.ending_found hs hg]
      dsimp only
      split_ifs <;> rfl

theorem exec_readComplete_ends {e : Option Er} (he : op.ending = some e) : exec (.readComplete q n) s = .next ((s.endRead x o op e).readsDone q.val 65536) := by
  rw [exec_readComplete_oldest hr hf ho, he]
  rfl

theorem exec_readComplete_waits (he : op.ending = none) : exec (.readComplete q n) s = .next s := by
  rw [exec_readComplete_oldest hr hf ho, he]
  rfl

end

end

/-! ### READ_TIMEOUT (R317, R475, R476) -/

theorem exec_readTimeout_decided (hs : op.status ≠ none) : exec (.readTimeout q n) s = .next s := by
  change execReadTimeout q n s = _
  unfold execReadTimeout
  rw [hr]
  exact if_pos (Option.isSome_iff_ne_none.mpr hs)

section
variable (hs : op.status = none)
include hs

theorem exec_readTimeout_unserved (hd : s.dfmFor q n = none) : exec (.readTimeout q n) s = .next ((s.readErr .rtimeout x op true 0 none).failRead q.val n .rtimeout) := by
  change execReadTimeout q n s = _
  unfold execReadTimeout
  rw [hr]
  dsimp only
  rw [if_neg (by simp [hs]), hd]

theorem exec_readTimeout_served {d : Dfm} (hd : s.dfmFor q n = some d) :
    exec (.readTimeout q n) s =
      .next ((if s.lastOf d q n = true then (s.readErr .rtimeout x op true d.tries (some d.ds)).stopLadder else s.readErr .rtimeout x op true d.tries (some d.ds)).failRead q.val n .rtimeout) := by
  change execReadTimeout q n s = _
  unfold execReadTimeout
  rw [hr]
  dsimp only
  rw [if_neg (by simp [hs]), hd]

end

end

/-! ### The end of READING (R185) -/

theorem exec_cartReadingIdle_ends {s : State} (hc : s.cart = .reading) (hr : s.allReads = []) : exec .cartReadingIdle s = .next ((s.setCart .ready []).beginStop) := if_pos ⟨hc, hr⟩

theorem exec_cartReadingIdle_keeps {s : State} (h : s.cart ≠ .reading ∨ s.allReads ≠ []) : exec .cartReadingIdle s = .next s :=
  if_neg fun ⟨hc, hr⟩ => h.elim (absurd hc) (absurd hr)

end Sys2Proof.Machine

open Sys2Proof.Machine in
/-- Settles O29: one lemma for each outcome. -/
theorem readsComplete : Obligations.ReadsComplete := by
  refine ⟨fun s q n x o f op hr hf => ⟨exec_readComplete_notOldest hr hf, fun ho => ?oldest⟩,
    fun _ _ _ _ _ _ hr => ⟨exec_readTimeout_unserved hr, fun _ hs hd => exec_readTimeout_served hr hs hd, exec_readTimeout_decided hr⟩,
    fun _ hc hr => exec_cartReadingIdle_ends hc hr, fun _ h => exec_cartReadingIdle_keeps h⟩
  case oldest =>
    exact ⟨fun _ hs => exec_readComplete_ends hr hf ho (ReadOp.ending_decided hs), fun _ hs hg hp => exec_readComplete_waits hr hf ho (ReadOp.ending_part hs hg hp),
      fun _ hs hg hw hl => exec_readComplete_ends hr hf ho (ReadOp.ending_short hs hg hw hl), fun _ hs hg hw hl => exec_readComplete_ends hr hf ho (ReadOp.ending_whole hs hg hw hl),
      fun hs hg => exec_readComplete_ends hr hf ho (ReadOp.ending_nothing hs hg)⟩
end

section
/-! SUPPORT. A descriptor that is not well formed (06_queues R165): how it ends in each of the four rows that fetch one, and where its completion then stands (R33). -/

namespace Sys2Proof.Machine

/-- A row that fetches a descriptor not well formed for it. -/
def FetchesMalformed (n : Qid) (d : Desc) (c : Instr) : Prop :=
  c = .descriptorFetchWrite n d ∧ Desc.goodWrite d = false ∨ c = .descriptorFetchRead n d ∧ Desc.goodRead d = false ∨
    c = .descriptorFetchBarrier n d ∧ Desc.plain d 3 = false ∨ c = .descriptorFetchNop n d ∧ Desc.plain d 0 = false

theorem exec_malformedDescriptor_aborts {s : State} {n : Qid} {d : Desc} {q : Queue} {c : Instr} (hq : s.queue? n.val = some q) (hf : s.canFetch q = true)
    (hc : FetchesMalformed n d c) : exec c s = .next (s.endFetch q d.cid Er.baddesc.code cABORTED) := by
  have hfetch : ¬s.canFetch q = false := by simp [hf]
  obtain ⟨rfl, hg⟩ | ⟨rfl, hg⟩ | ⟨rfl, hg⟩ | ⟨rfl, hg⟩ := hc
  · change execDescriptorFetchWrite n d s = _
    unfold execDescriptorFetchWrite
    rw [hq]
    exact (if_neg hfetch).trans (if_pos hg)
  · change execDescriptorFetchRead n d s = _
    unfold execDescriptorFetchRead
    rw [hq]
    exact (if_neg hfetch).trans (if_pos hg)
  · change execDescriptorFetchBarrier n d s = _
    unfold execDescriptorFetchBarrier
    rw [hq]
    exact (if_neg hfetch).trans (if_pos hg)
  · change execDescriptorFetchNop n d s = _
    unfold execDescriptorFetchNop
    rw [hq]
    exact (if_neg hfetch).trans (if_pos hg)

theorem ring_of_canFetch {s : State} {q : Queue} (hf : s.canFetch q = true) : q.drt = false := by
  simp only [State.canFetch, Bool.and_eq_true, Bool.not_eq_true'] at hf
  obtain ⟨⟨⟨-, hd⟩, -⟩, -⟩ := hf
  exact hd

/-! ### How a fetch ends: the completion, as it stands behind CKP (R33), and the frame -/

/-- A message adds at most itself to the outputs; else it is kept pending by its function. -/
theorem signal_frame (s : State) (t : Tenant) (v : Nat) : ∃ l h, s.signal t v = { s with out := l ++ s.out, hif := h } := by
  unfold State.signal
  dsimp only
  split_ifs
  · exact ⟨[], s.hif, rfl⟩
  · exact ⟨[], s.hif, rfl⟩
  · exact ⟨[], _, rfl⟩
  · exact ⟨[_], s.hif, rfl⟩
  · exact ⟨[], s.hif, rfl⟩

theorem vecEvent_frame (s : State) (t : Tenant) (v : Nat) (aborted : Bool) : ∃ l p h, s.vecEvent t v aborted = { s with out := l ++ s.out, pool := p, hif := h } := by
  unfold State.vecEvent
  dsimp only
  split_ifs
  · exact ⟨[], s.pool, s.hif, rfl⟩
  · obtain ⟨l, h, hs⟩ := signal_frame (s.poolClear (s.vecBase t + v)) t v
    exact ⟨l, _, h, hs⟩
  · exact ⟨[], _, s.hif, rfl⟩

/-- A function whose MSI-X is disabled is sent no message. -/
theorem signal_disabled {s : State} {t : Tenant} (h : (s.fn t).enable = false) (v : Nat) : s.signal t v = s := by
  unfold State.signal
  dsimp only
  by_cases hv : v < 64
  · rw [dif_pos hv, if_pos h]
  · rw [dif_neg hv]

theorem vecEvent_out_disabled {s : State} {t : Tenant} (h : (s.fn t).enable = false) (v : Nat) (aborted : Bool) : (s.vecEvent t v aborted).out = s.out := by
  unfold State.vecEvent
  dsimp only
  split_ifs
  · rfl
  · exact (congrArg State.out (signal_disabled (s := s.poolClear (s.vecBase t + v)) h v)).trans rfl
  · rfl

theorem mem_setQueue {s : State} {q x : Queue} (h : x ∈ (s.setQueue q).qmg.queues) : x = q ∨ x ∈ s.qmg.queues ∧ x.id ≠ q.id := by
  obtain ⟨y, hy, rfl⟩ := List.mem_map.mp h
  by_cases hid : y.id = q.id
  · exact .inl (if_pos hid)
  · rw [if_neg hid]
    exact .inr ⟨hy, hid⟩

/-- The completion with which a descriptor that took no number ends, in the entry at HEAD. -/
def Queue.headCompletion (q : Queue) (cid : BitVec 16) (status code : Nat) : Out :=
  .completion q.id (q.ring + 64 * q.size + 32 * q.head) (plainCqe q cid status code).bytes

section
variable {s : State} {q : Queue} (hd : q.drt = false) (cid : BitVec 16) (status code : Nat)
include hd

theorem endFetch_ring : s.endFetch q cid status code =
    ((s.setQueue q.advance).emit (q.headCompletion cid status code)).vecEvent q.tenant (s.getF (F.INT_QVEC_VEC q.id.val)) (code == cABORTED) :=
  if_neg (by simp [hd])

theorem endFetch_frame : ∃ l p h, s.endFetch q cid status code =
    { s.setQueue q.advance with out := l ++ s.inFifo (q.headCompletion cid status code) :: s.out, pool := p, hif := h } := by
  rw [endFetch_ring hd]
  exact vecEvent_frame ..

/-- While CKP stands still and the tenant's MSI-X is disabled, the completion is all that is added, and it waits in XC-2. -/
theorem endFetch_waits (he : (s.fn q.tenant).enable = false) (hs : s.xc.stopped.contains .ckp = true) :
    (s.endFetch q cid status code).out = .waiting .ckp (q.headCompletion cid status code) :: s.out := by
  rw [endFetch_ring hd, vecEvent_out_disabled (s := (s.setQueue q.advance).emit _) he]
  exact congrArg (· :: s.out) (if_pos hs)

end

/-- What holds in every state (R165, R33): the completion is written, or waits in XC-2 while CKP stands still; only HEAD of the queue moves. -/
theorem malformedDescriptor_completes {s : State} {n : Qid} {d : Desc} {q : Queue} {c : Instr} (hq : s.queue? n.val = some q) (hf : s.canFetch q = true) (hc : FetchesMalformed n d c) :
    ∃ t : State, exec c s = .next t ∧ s.inFifo (q.headCompletion d.cid 111 4) ∈ t.out ∧ t.qmg.recs = s.qmg.recs ∧
      (∀ x ∈ t.qmg.queues, x = { q with head := (q.head + 1) % q.size } ∨ x ∈ s.qmg.queues ∧ x.id ≠ q.id) ∧ t.tnk = s.tnk ∧ t.tank = s.tank := by
  obtain ⟨l, p, h, ht⟩ := endFetch_frame (s := s) (ring_of_canFetch hf) d.cid Er.baddesc.code cABORTED
  refine ⟨_, (exec_malformedDescriptor_aborts hq hf hc).trans (congrArg Host.Outcome.next ht), ?_, rfl, fun x hx => mem_setQueue (q := q.advance) hx, rfl, rfl⟩
  exact List.mem_append_right l List.mem_cons_self

/-! ### A device that has lost CKP while a queue holds descriptors (R38) -/

/-- Queue 5 of tenant 0, a ring of 16 slots, with descriptors in slots 3 to 6. -/
def fetchQueue : Queue :=
  { id := 5, tenant := 0, slot := 0, drt := false, ring := 4096, size := 16, timeout := 30000, shortTmo := false, head := 3, tail := 7, nextSeq := 0, out := [], nextAt := none, bound := none, barred := false }

/-- The device after start-up, with every domain on and that queue. -/
def fetchReady : State :=
  let s := (State.reset.setF F.PWR_STAT_DOMAINS 0x3FF).setF F.GLB_RSTCAUSE_READY 1
  { s with boot := { s.boot with phase := .up }, qmg := { s.qmg with queues := [fetchQueue] } }

/-- The same when CKP stands still. -/
def ckpLost : State := fetchReady.clkStops .ckp

/-- A descriptor with the unknown OPCODE 4. -/
def unknownDesc : Desc := ⟨4#512⟩

theorem unknownDesc_malformed : FetchesMalformed 5 unknownDesc (.descriptorFetchWrite 5 unknownDesc) := by
  have hop : unknownDesc.opcode = 4#8 := by simp [Desc.opcode, Desc.bytesAt, unknownDesc]
  exact .inl ⟨rfl, by simp [Desc.goodWrite, hop]⟩

theorem ckpLost_queue : ckpLost.queue? (5 : Qid).val = some fetchQueue := by decide

theorem ckpLost_canFetch : ckpLost.canFetch fetchQueue = true := by decide

/-- All that the device then has sent is the completion, which waits. -/
theorem ckpLost_out : (ckpLost.endFetch fetchQueue unknownDesc.cid Er.baddesc.code cABORTED).out = [.waiting .ckp (fetchQueue.headCompletion unknownDesc.cid Er.baddesc.code cABORTED)] :=
  (endFetch_waits rfl _ _ _ (by decide) (by decide)).trans (congrArg _ (by decide))

end Sys2Proof.Machine

open Sys2Proof.Machine in
/-- Refutes O24: while CKP stands still, the completion of a descriptor with an unknown OPCODE waits in XC-2 for the clock and is not written (R33). -/
theorem not_malformedDescriptorAborted : ¬ Obligations.MalformedDescriptorAborted := by
  intro h
  obtain ⟨t, ht, hwritten, -⟩ := h ckpLost 5 unknownDesc fetchQueue _ ckpLost_queue ckpLost_canFetch unknownDesc_malformed
  rw [exec_malformedDescriptor_aborts ckpLost_queue ckpLost_canFetch unknownDesc_malformed] at ht
  obtain rfl := Host.Outcome.next.inj ht
  rw [ckpLost_out] at hwritten
  exact nomatch List.mem_singleton.mp hwritten
end

section
/-! SUPPORT. SCH_FEED and BULK_STARVE (07_interrupts R205 to R209, R211; 08_reducer R215; 04_start_up R108): one lemma for each outcome. -/

namespace Sys2Proof.Machine

/-! ### What the tenant whose turn it is gets (R207, R208) -/

/-- One record of a CONTINUOUS tenant, its length taken from the tokens and the round-robin pointer set to the tenant (R208). -/
def State.feedOnTokens (u : State) (e : Fin 4) (t : Tenant) (r : Rec) : State :=
  let v := (u.setBal { u.bal t with tokens := (u.bal t).tokens - r.length }).markFed r u.sch.nextFeed
  ({ v with sch := { v.sch with rr1 := t.val } }.giveFeed e t [r.uid] false).settleShares

/-- A visit of the tenant at the front of a round, `us` still to come: its deficit rises by its quantum and whole records no longer than it are fed (R207). -/
def State.visit (u : State) (e : Fin 4) (t : Tenant) (us : List Tenant) : State :=
  let v : State := { u with sch := { u.sch with round := us } }
  let w := (v.setBal { v.bal t with deficit := (v.bal t).deficit + v.quantum t }).feedDeficit t v.qmg.recs.length
  (if w.2 = [] then w.1 else w.1.giveFeed e t w.2 false).settleShares

/-! ### Whose turn it is (R205, R207, R208) -/

/-- SCH_FEED of a tenant with no dumped record left: the CONTINUOUS tenants that hold tokens go first, in round-robin; with none of them the round in progress or begun. -/
def State.serveShares (u : State) (e : Fin 4) (t : Tenant) : Host.Outcome State Fault Refusal :=
  match nextAfter u.sch.rr1 (u.backlog.filter u.holdsTokens) with
  | some x =>
    if x ≠ t then .next u
    else match u.nextRec t with
      | none => .next u
      | some r => .next (u.feedOnTokens e t r)
  | none =>
    match u.startRound.sch.round with
    | [] => .next u.startRound
    | x :: us => if x ≠ t then .next u.startRound else .next (u.startRound.visit e t us)

section
variable {u : State} {e : Fin 4} {t : Tenant}

theorem serveShares_onTokens {r : Rec} (hn : nextAfter u.sch.rr1 (u.backlog.filter u.holdsTokens) = some t) (hrec : u.nextRec t = some r) :
    u.serveShares e t = .next (u.feedOnTokens e t r) := by
  unfold State.serveShares
  rw [hn, hrec]
  exact if_neg (not_not.mpr rfl)

theorem serveShares_otherHoldsTokens {x : Tenant} (hn : nextAfter u.sch.rr1 (u.backlog.filter u.holdsTokens) = some x) (hx : x ≠ t) : u.serveShares e t = .next u := by
  unfold State.serveShares
  rw [hn]
  exact if_pos hx

section
variable (hn : nextAfter u.sch.rr1 (u.backlog.filter u.holdsTokens) = none)
include hn

theorem serveShares_visits {us : List Tenant} (hround : u.startRound.sch.round = t :: us) : u.serveShares e t = .next (u.startRound.visit e t us) := by
  unfold State.serveShares
  rw [hn]
  dsimp only
  rw [hround]
  exact if_neg (not_not.mpr rfl)

theorem serveShares_notVisited (hhead : u.startRound.sch.round.head? ≠ some t) : u.serveShares e t = .next u.startRound := by
  unfold State.serveShares
  rw [hn]
  dsimp only
  cases hround : u.startRound.sch.round with
  | nil => rfl
  | cons x us => exact if_pos fun hx => hhead (by rw [hround, hx]; rfl)

end

end

/-! ### SCH_FEED -/

section
variable {s : State} {t : Tenant}

theorem exec_schFeed_keeps (h : s.mayFeed = false ∨ s.idleEng = none) : exec (.schFeed t) s = .next s := by
  have hnone : (if s.mayFeed then s.idleEng else none) = none := by
    obtain hf | he := h
    · simp [hf]
    · simp [he]
  change execSchFeed t s = _
  unfold execSchFeed
  rw [hnone]

section
variable {u : State} {e : Fin 4} (hf : s.mayFeed = true) (he : s.idleEng = some e) (hu : u = (s.nokeys (List.finRange 256)).settleShares)
include hf he hu

/-- Dumped records go first, to the tenant of the first of them alone (R108, R296). -/
theorem exec_schFeed_replayTurn {r : Rec} {rs : List Rec} (hr : u.replayLeft = r :: rs) :
    exec (.schFeed t) s = if r.tenant = t ∧ u.keyless t = false then .next (u.feedReplay e t) else .next u := by
  change execSchFeed t s = _
  unfold execSchFeed
  rw [if_pos hf, he]
  dsimp only
  rw [← hu, hr]

theorem exec_schFeed_replays {r : Rec} {rs : List Rec} (hr : u.replayLeft = r :: rs) (ht : r.tenant = t) (hk : u.keyless t = false) :
    exec (.schFeed t) s = .next (u.feedReplay e t) := by
  rw [exec_schFeed_replayTurn hf he hu hr, if_pos ⟨ht, hk⟩]

theorem exec_schFeed_notReplayed {r : Rec} {rs : List Rec} (hr : u.replayLeft = r :: rs) (h : r.tenant ≠ t ∨ u.keyless t = true) :
    exec (.schFeed t) s = .next u := by
  rw [exec_schFeed_replayTurn hf he hu hr, if_neg fun ⟨ht, hk⟩ => h.elim (absurd ht) (by simp [hk])]

theorem exec_schFeed_shares (hr : u.replayLeft = []) : exec (.schFeed t) s = u.serveShares e t := by
  change execSchFeed t s = _
  unfold execSchFeed
  rw [if_pos hf, he]
  dsimp only
  rw [← hu, hr]
  rfl

end

/-! ### BULK_STARVE (R209) -/

theorem exec_bulkStarve_owes (hc : s.classOf t = 2) (hh : s.heads t ≠ []) (hs : s.sch.starved.contains t = false) :
    exec (.bulkStarve t) s = .next { s with sch := { s.sch with starved := s.sch.starved ++ [t] } } := if_pos ⟨hc, hh, hs⟩

theorem exec_bulkStarve_keeps (h : s.classOf t ≠ 2 ∨ s.heads t = [] ∨ s.sch.starved.contains t = true) : exec (.bulkStarve t) s = .next s :=
  if_neg fun ⟨hc, hh, hs⟩ => h.elim (absurd hc) fun h => h.elim hh (by rw [hs]; exact Bool.false_ne_true)

end

end Sys2Proof.Machine

open Sys2Proof.Machine in
/-- Settles O30: one lemma for each outcome. -/
theorem schedulerServesTenants : Obligations.SchedulerServesTenants := by
  refine ⟨fun _ _ h => exec_schFeed_keeps h, fun s u t e r rs hf he hu hr => ?replay, fun s u t e hf he hu hr => ?shares,
    fun _ _ hc hh hs => exec_bulkStarve_owes hc hh hs, fun _ _ h => exec_bulkStarve_keeps h⟩
  case replay =>
    exact ⟨exec_schFeed_replays hf he hu hr, exec_schFeed_notReplayed hf he hu hr⟩
  case shares =>
    rw [exec_schFeed_shares hf he hu hr]
    exact ⟨fun _ hn hrec => serveShares_onTokens hn hrec, fun _ hn hx => serveShares_otherHoldsTokens hn hx,
      fun _ hn hround => serveShares_visits hn hround, serveShares_notVisited⟩
end

section
/-! SUPPORT. Blocks are encoded and placed (08_reducer R215, R218, R232, R239; 10_dataset R272, R274, R289): where a block ends, what becomes of it, and a placement by the dataset that is open. -/

namespace Sys2Proof.Machine

/-! ### BLOCK_ENCODE_COMPLETE: how the block ends, and what becomes of it -/

/-- The state in which a block's words are read: with the word that has come to hold an uncorrectable pattern. -/
def State.worsenBad (s : State) (j : Job) (enc : Encode) : State :=
  match enc.bad with
  | some w => s.worsen j w
  | none => s

/-- Where an engine's block ends once its words are read: `lost` is the piece with a word that cannot be used (R239), `flush` says that a flush is pending (R232). -/
def State.endBlock (s : State) (lost : Option Nat) (e : Eng) (j : Job) (flush : Bool) (flushAt : Option Nat) : State :=
  match lost, flush && flushAt.isSome, flushAt with
  | some k, _, _ => s.losePiece e j k .uncorr
  | none, true, some k => if k + 1 < j.pieces.length then s.shorten e j (k + 1) else s
  | _, _, _ => s

/-- What an engine does with the block it is left with: written and offered, or dropped when no piece is left. -/
def State.finishBlock (s : State) (e : Eng) (flushed : Bool) (enc : Encode) : Host.Outcome State Fault Refusal :=
  match (s.eng e).job with
  | none => .next (s.hold e).settle
  | some j =>
    if j.pieces = [] then .next (((s.setEng e { s.eng e with job := none }).hold e).settle)
    else .next ((s.offer e j flushed enc).hold e).settle

section
variable {s : State} {e : Eng} {j : Job} {enc : Encode}

theorem exec_blockEncodeComplete_idle (hj : (s.eng e).job = none) : exec (.blockEncodeComplete e enc) s = .next s := by
  change execBlockEncodeComplete e enc s = _
  unfold execBlockEncodeComplete
  rw [hj]

theorem exec_blockEncodeComplete {u : State} {r : State × Option Nat} (hj : (s.eng e).job = some j) (hu : u = s.worsenBad j enc) (hr : u.readPieces 0 j.pieces = r) :
    exec (.blockEncodeComplete e enc) s =
      (r.1.endBlock r.2 e j (s.eng e).flush enc.flushAt).finishBlock e ((s.eng e).flush && enc.flushAt.isSome) enc := by
  subst hu hr
  change execBlockEncodeComplete e enc s = _
  unfold execBlockEncodeComplete
  rw [hj]
  rfl

section
variable {flush : Bool} {flushAt : Option Nat}

theorem endBlock_whole (h : flush = false ∨ ∀ k, flushAt = some k → j.pieces.length ≤ k + 1) : s.endBlock none e j flush flushAt = s := by
  cases flush with
  | false => rfl
  | true =>
    cases flushAt with
    | none => rfl
    | some k =>
      have hlen : j.pieces.length ≤ k + 1 := h.elim nofun fun hk => hk k rfl
      exact if_neg (Nat.not_lt.mpr hlen)

theorem endBlock_flushed {k : Nat} (hk : k + 1 < j.pieces.length) : s.endBlock none e j true (some k) = s.shorten e j (k + 1) := if_pos hk

theorem endBlock_lost (k : Nat) : s.endBlock (some k) e j flush flushAt = s.losePiece e j k .uncorr := rfl

end

section
variable {flushed : Bool}

theorem finishBlock_gone (hj : (s.eng e).job = none) : s.finishBlock e flushed enc = .next (s.hold e).settle := by
  unfold State.finishBlock
  rw [hj]

theorem finishBlock_drops (hj : (s.eng e).job = some j) (hp : j.pieces = []) :
    s.finishBlock e flushed enc = .next ((s.setEng e { s.eng e with job := none }).hold e).settle := by
  unfold State.finishBlock
  rw [hj]
  exact if_pos hp

theorem finishBlock_offers (hj : (s.eng e).job = some j) (hp : j.pieces ≠ []) :
    s.finishBlock e flushed enc = .next ((s.offer e j flushed enc).hold e).settle := by
  unfold State.finishBlock
  rw [hj]
  exact if_neg hp

end

end

/-! ### BLOCK_PLACE -/

section
variable {s : State}

theorem exec_blockPlace_idle (h : s.cart ≠ .writing ∨ s.nextBlock = none) : exec .blockPlace s = .next s := by
  change execBlockPlace s = _
  unfold execBlockPlace
  split
  · rfl
  next hw => rw [h.resolve_left hw]

variable {b : BlkOut}

/-- No flush waits for its close before this block: each that waits stands after the block's feed (R232). -/
theorem noFlushWaits (hf : ∀ n ∈ s.fmt.flushTo, b.job.feed < n) : ¬s.fmt.flushTo.any (fun n => decide (n ≤ b.job.feed)) = true := by
  simpa using hf

variable (hb : s.nextBlock = some b)
include hb

theorem exec_blockPlace_afterFlush {n : Nat} (hn : n ∈ s.fmt.flushTo) (hle : n ≤ b.job.feed) : exec .blockPlace s = .next s := by
  have hwait : s.fmt.flushTo.any (fun n => decide (n ≤ b.job.feed)) = true := List.any_eq_true.mpr ⟨n, hn, decide_eq_true hle⟩
  change execBlockPlace s = _
  unfold execBlockPlace
  rw [hb]
  dsimp only
  rw [if_pos hwait, ite_self]

variable (hw : s.cart = .writing) (hf : ∀ n ∈ s.fmt.flushTo, b.job.feed < n)
include hw hf

/-- With a dataset open, the block goes into it unless the dataset closes first (R274) or holds records of the other kind (R108). -/
theorem exec_blockPlace_open {d : DsSrc} (hd : s.fmt.cur = some d) :
    exec .blockPlace s = if d.mustClose b.job.tenant = true ∨ d.exts ≠ [] ∧ d.replay ≠ b.job.replay then .next s else .next (s.place d b) := by
  change execBlockPlace s = _
  unfold execBlockPlace
  rw [if_neg (not_not.mpr hw), hb]
  dsimp only
  rw [if_neg (noFlushWaits hf), hd]

/-- With none open, it goes into a new one when a buffer is free (R289). -/
theorem exec_blockPlace_noneOpen (hd : s.fmt.cur = none) {u : State} {d : DsSrc} (ho : s.openDs b.job.replay = (u, d)) :
    exec .blockPlace s =
      if 2 ≤ s.heldDs then .next s else .next (if d.replay = b.job.replay then u.place d b else { u with fmt := { u.fmt with cur := some d } }) := by
  change execBlockPlace s = _
  unfold execBlockPlace
  rw [if_neg (not_not.mpr hw), hb]
  dsimp only
  rw [if_neg (noFlushWaits hf), hd]
  dsimp only
  rw [ho]

theorem exec_blockPlace_places {d : DsSrc} (hd : s.fmt.cur = some d) (hc : d.mustClose b.job.tenant = false) (hx : d.exts = [] ∨ d.replay = b.job.replay) :
    exec .blockPlace s = .next (s.place d b) := by
  rw [exec_blockPlace_open hb hw hf hd]
  refine if_neg ?_
  rintro (hclose | ⟨hne, hkind⟩)
  · exact absurd hclose (by simp [hc])
  · exact hx.elim hne hkind

end

end Sys2Proof.Machine

open Sys2Proof.Machine in
/-- Settles O31: where the block ends decides the state that its job is read from; a placement by the dataset that is open. -/
theorem blocksAreEncodedAndPlaced : Obligations.BlocksAreEncodedAndPlaced := by
  refine ⟨fun _ _ _ hj => exec_blockEncodeComplete_idle hj, fun s u v e enc j hj hu hv => ?encode, fun s b hw hb hf => ?place,
    fun _ h => exec_blockPlace_idle h, fun _ _ _ hb hn hle => exec_blockPlace_afterFlush hb hn hle⟩
  case encode =>
    generalize hr : u.readPieces 0 j.pieces = r at hv
    have hends : r.1.endBlock r.2 e j (s.eng e).flush enc.flushAt = v := by
      obtain ⟨hread, hwhole, rfl⟩ | ⟨k, hread, hflush, hat, hk, rfl⟩ | ⟨k, hread, rfl⟩ := hv
      · rw [hread, endBlock_whole hwhole]
      · rw [hread, hflush, hat, endBlock_flushed hk]
      · rw [hread, endBlock_lost]
    have hexec : exec (.blockEncodeComplete e enc) s = v.finishBlock e ((s.eng e).flush && enc.flushAt.isSome) enc := by
      rw [exec_blockEncodeComplete hj hu hr, hends]
    exact ⟨fun hn => hexec.trans (finishBlock_gone hn), fun _ hi hp => hexec.trans (finishBlock_drops hi hp), fun _ hi hp => hexec.trans (finishBlock_offers hi hp)⟩
  case place =>
    refine ⟨fun _ hd hc hx => exec_blockPlace_places hb hw hf hd hc hx, fun d hd h => ?waits, fun hd hheld => ?full, fun u d hd hheld ho => ?opens⟩
    case waits => rw [exec_blockPlace_open hb hw hf hd, if_pos h]
    case full => rw [exec_blockPlace_noneOpen hb hw hf hd rfl, if_pos hheld]
    case opens => rw [exec_blockPlace_noneOpen hb hw hf hd ho, if_neg (Nat.not_le.mpr hheld)]
end

section
/-! SUPPORT. Accesses of the Tank and the ages of requests (09_on_chip_memories R244 to R253): what a checked word gives, and one lemma for each outcome of a command. -/

namespace Sys2Proof.Machine

/-! ### What a checked word gives (R248 to R252) -/

section
variable {s u : State} {r : Req} {w : Nat} {e : Ecc} {ok : Bool}

theorem readWord128_checked (hs : s.secded r w e = (u, ok)) (c : ReqCtx) :
    s.readWord128 r c w e = if ok then u.emit (.tankData r (16 * w) (u.tankVal (16 * w) 16)) else u.accessFails r c w .uncorr := by
  unfold State.readWord128
  rw [hs]

/-- A write of every byte does not look at the old word, so an uncorrectable one takes it (R248). -/
theorem writeWord128_whole (c : ReqCtx) (d : BitVec 128) : s.writeWord128 r c w d 0xFFFF#16 e = s.putWord w d.toNat 0xFFFF := if_pos rfl

theorem writeWord128_merged {en : BitVec 16} (hen : en ≠ 0xFFFF#16) (hs : s.secded r w e = (u, ok)) (c : ReqCtx) (d : BitVec 128) :
    s.writeWord128 r c w d en e = if ok then u.putWord w d.toNat en.toNat else u.accessFails r c w .uncorr := by
  unfold State.writeWord128
  rw [if_neg hen, hs]

theorem atomic_checked {addr : Nat} (hs : s.secded r (addr / 16) e = (u, ok)) (c : ReqCtx) (wide : Bool) (new : Nat → Nat) :
    s.atomic r c addr wide e new =
      if ok then
        (({ u with tank := msetL u.tank addr (leBytes (wideBytes wide) (new (u.tankVal addr (wideBytes wide)))) } : State).freshWord (addr / 16)).emit
          (.tankData r addr (u.tankVal addr (wideBytes wide)))
      else u.accessFails r c (addr / 16) .uncorr := by
  unfold State.atomic
  dsimp only
  rw [hs]

end

/-! ### Reads and writes (R244, R248, R251 to R253) -/

section
variable {s : State} {a : BitVec 25} {r : Req} {c : ReqCtx} {d : BitVec 128} {en : BitVec 16} {f : Nat} {e : Ecc}

section
variable (hb : s.bankOn (wordBank (a.toNat / 16)) = false)
include hb

theorem exec_tankRead_off : exec (.tankRead r c a f e) s = .next s := congrArg Host.Outcome.next (if_pos hb)

theorem exec_tankPartialWrite_off : exec (.tankPartialWrite r c a d en f e) s = .next s := congrArg Host.Outcome.next (if_pos hb)

end

variable (hb : s.bankOn (wordBank (a.toNat / 16)) = true) (hw : s.tnk.waitq = []) (ha : s.tnk.aged = []) {u : State} {ok : Bool}
include hb hw ha

theorem exec_tankRead_free (hs : (s.granted (a.toNat / 16) [false] r).secded r (a.toNat / 16) e = (u, ok)) :
    exec (.tankRead r c a f e) s =
      .next (if ok then u.emit (.tankData r (16 * (a.toNat / 16)) (u.tankVal (16 * (a.toNat / 16)) 16)) else u.accessFails r c (a.toNat / 16) .uncorr) :=
  calc exec (.tankRead r c a f e) s
    _ = .next (s.perform ⟨r, c, a, .read, e, urgencyOf r f⟩) := congrArg Host.Outcome.next (presentReq_free s ⟨r, c, a, .read, e, urgencyOf r f⟩ hb hw ha)
    _ = .next ((s.granted (a.toNat / 16) [false] r).readWord128 r c (a.toNat / 16) e) := rfl
    _ = _ := by rw [readWord128_checked hs]

/-- What a partial write needs: the write port alone where every byte is enabled, both ports else (R248). -/
theorem exec_tankPartialWrite_free :
    exec (.tankPartialWrite r c a d en f e) s = .next ((s.granted (a.toNat / 16) (if en = 0xFFFF#16 then [true] else [false, true]) r).writeWord128 r c (a.toNat / 16) d en e) :=
  congrArg Host.Outcome.next (presentReq_free s ⟨r, c, a, .write d en, e, urgencyOf r f⟩ hb hw ha)

theorem exec_tankPartialWrite_whole : exec (.tankPartialWrite r c a d 0xFFFF#16 f e) s = .next ((s.granted (a.toNat / 16) [true] r).putWord (a.toNat / 16) d.toNat 0xFFFF) := by
  rw [exec_tankPartialWrite_free hb hw ha, if_pos rfl, writeWord128_whole]

theorem exec_tankPartialWrite_merged (hen : en ≠ 0xFFFF#16) (hs : (s.granted (a.toNat / 16) [false, true] r).secded r (a.toNat / 16) e = (u, ok)) :
    exec (.tankPartialWrite r c a d en f e) s = .next (if ok then u.putWord (a.toNat / 16) d.toNat en.toNat else u.accessFails r c (a.toNat / 16) .uncorr) := by
  rw [exec_tankPartialWrite_free hb hw ha, if_neg hen, writeWord128_merged hen hs]

end

/-! ### Atomics (R249, R250) -/

/-- The request of TANK_ATOMIC_SWAP (`swap`) or TANK_ATOMIC_ADD. -/
def atomicReq (swap : Bool) (r : Req) (c : ReqCtx) (a : BitVec 25) (wide : Bool) (x : DWord) (f : Nat) (e : Ecc) : TankReq :=
  ⟨r, c, a, .atomic wide swap x, e, urgencyOf r f⟩

section
variable {s : State} {r : Req} {c : ReqCtx} {a : BitVec 25} {wide : Bool} {x : DWord} {f : Nat} {e : Ecc}

theorem exec_tankAtomicAdd : exec (.tankAtomicAdd r c a wide x f e) s = .next (s.presentAtomic (atomicReq false r c a wide x f e) wide) := rfl

theorem exec_tankAtomicSwap : exec (.tankAtomicSwap r c a wide x f e) s = .next (s.presentAtomic (atomicReq true r c a wide x f e) wide) := rfl

theorem perform_atomicReq (swap : Bool) :
    s.perform (atomicReq swap r c a wide x f e) =
      (s.granted (a.toNat / 16) [false, true] r).atomic r c a.toNat wide e (fun old => if swap then x.toNat else old + x.toNat) := rfl

theorem presentAtomic_off (hb : s.bankOn (wordBank (a.toNat / 16)) = false) (swap : Bool) : s.presentAtomic (atomicReq swap r c a wide x f e) wide = s := if_pos hb

variable (hb : s.bankOn (wordBank (a.toNat / 16)) = true)
include hb

theorem presentAtomic_on (swap : Bool) :
    s.presentAtomic (atomicReq swap r c a wide x f e) wide =
      if a.toNat % wideBytes wide ≠ 0 then (if r = .seq then s.log (errRec .align .tnk []) else s.accessFails r c (a.toNat / 16) .align)
      else s.presentReq (atomicReq swap r c a wide x f e) :=
  if_neg (ne_true_of_eq_false · hb)

theorem presentAtomic_misaligned (hal : a.toNat % wideBytes wide ≠ 0) (swap : Bool) :
    s.presentAtomic (atomicReq swap r c a wide x f e) wide = if r = .seq then s.log (errRec .align .tnk []) else s.accessFails r c (a.toNat / 16) .align := by
  rw [presentAtomic_on hb, if_pos hal]

/-- An aligned atomic returns the old value of a usable word, and stores the operand or the sum. -/
theorem presentAtomic_free (hw : s.tnk.waitq = []) (ha : s.tnk.aged = []) (hal : a.toNat % wideBytes wide = 0) {u : State} {ok : Bool}
    (hs : (s.granted (a.toNat / 16) [false, true] r).secded r (a.toNat / 16) e = (u, ok)) (swap : Bool) :
    s.presentAtomic (atomicReq swap r c a wide x f e) wide =
      if ok then
        (({ u with tank := msetL u.tank a.toNat (leBytes (wideBytes wide) (if swap then x.toNat else u.tankVal a.toNat (wideBytes wide) + x.toNat)) } : State).freshWord
          (a.toNat / 16)).emit (.tankData r a.toNat (u.tankVal a.toNat (wideBytes wide)))
      else u.accessFails r c (a.toNat / 16) .uncorr := by
  rw [presentAtomic_on hb, if_neg (not_not.mpr hal), presentReq_free s (atomicReq swap r c a wide x f e) hb hw ha, perform_atomicReq, atomic_checked hs]

end

/-! ### REQUEST_AGE_EXPIRY (R246) -/

/-- With no request waiting, the age is kept for the one whose grant is still to come. -/
theorem exec_requestAgeExpiry_noneWaits {s : State} (hw : s.tnk.waitq = []) (b : Bank) (w : Bool) (r : Req) :
    exec (.requestAgeExpiry b w r) s = .next (if s.tnk.aged.contains (b, w, r) then s else { s with tnk := { s.tnk with aged := (b, w, r) :: s.tnk.aged } }) := by
  change execRequestAgeExpiry b w r s = _
  unfold execRequestAgeExpiry
  dsimp only
  rw [hw, if_neg (by simp)]
  split <;> rfl

end Sys2Proof.Machine

open Sys2Proof.Machine in
/-- Settles O37: one lemma for each outcome; the two atomics are one request but for what it stores. -/
theorem tankWordsAreCheckedAndWritten : Obligations.TankWordsAreCheckedAndWritten := by
  refine ⟨fun _ _ _ _ _ _ _ _ hb hw ha hs => exec_tankRead_free hb hw ha hs, fun _ _ _ _ _ _ _ hb hw ha => exec_tankPartialWrite_whole hb hw ha,
    fun _ _ _ _ _ _ _ _ _ _ hb hw ha hen hs => exec_tankPartialWrite_merged hb hw ha hen hs, ?aligned, ?misaligned,
    fun _ _ _ _ _ _ _ _ _ _ hb => ⟨exec_tankRead_off hb, exec_tankPartialWrite_off hb, ?add, ?swap⟩, fun _ b w r hw => exec_requestAgeExpiry_noneWaits hw b w r⟩
  case aligned =>
    rintro s u r c a wide x f e n ok hb hw ha rfl hal hs
    rw [exec_tankAtomicAdd, exec_tankAtomicSwap, presentAtomic_free hb hw ha hal hs, presentAtomic_free hb hw ha hal hs]
    exact ⟨rfl, rfl⟩
  case misaligned =>
    rintro s r c a wide x f e n hb rfl hal
    rw [exec_tankAtomicAdd, exec_tankAtomicSwap, presentAtomic_misaligned hb hal, presentAtomic_misaligned hb hal]
    exact ⟨fun hseq => by simp only [if_pos hseq, and_self], fun hother => by simp only [if_neg hother, and_self]⟩
  case add => rw [exec_tankAtomicAdd, presentAtomic_off hb]
  case swap => rw [exec_tankAtomicSwap, presentAtomic_off hb]
end

section
/-! SUPPORT. Verdicts on frames (11_read_channel R311 to R314; 10_dataset R283, R284): the frame that waits, what its verdict is, and what a pass and a failure do. -/

namespace Sys2Proof.Machine

/-- The stream that waits for the verdict on a channel's slot. -/
def State.waitsVerdict (s : State) (ch slot : Nat) : Option Stream := s.fmt.streams.find? (fun x => x.frames.any (fun f => f.ch == ch && f.slot == slot))

/-- Its frame in that slot. -/
def Stream.frameIn (x : Stream) (ch slot : Nat) : Option Frame := x.frames.find? (fun f => f.ch == ch && f.slot == slot)

/-- The verdict on a frame, by the thresholds stored when its stream started (R311, R313). -/
def State.verdictOn (s : State) (x : Stream) (f : Frame) (ch slot : Nat) : Nat :=
  verdictOf f.cut (getBits x.thr.toNat 8 8) (getBits x.thr.toNat (if zoneE s.tape.wrap then 4 else 0) 4) (s.readback ch slot)

/-- A stream that waits no more for the verdict on a slot. -/
def Stream.judged (x : Stream) (ch slot : Nat) : Stream := { x with frames := x.frames.filter (fun g => !(g.ch == ch && g.slot == slot)) }

/-- The compare buffer without the slot's row, and the verdict counted. -/
def State.judged (s : State) (ch slot : Nat) : State := (s.dropRow ch slot).count (F.PRF_VCNT_FRAMES ch) 1

/-- A channel has `n` failed verdicts in a row (R314). -/
def State.setRun (s : State) (ch n : Nat) : State := { s with prf := { s.prf with runs := s.prf.runs.set ch n } }

/-- A stream with a row passed. -/
def Stream.pass (x : Stream) (row : Nat) : Stream := { x with passed := if x.passed.contains row then x.passed else row :: x.passed }

/-- A stream with a row in its rewrite pool's queue (R283). -/
def Stream.fail (x : Stream) (row ch : Nat) : Stream := { x with queue := x.queue ++ [(row, ch)] }

/-- What a verdict that passes does, to the state and the stream that are left once it is counted: the last row's makes its dataset pass (R284). -/
def State.takePass (s : State) (x : Stream) (ch row : Nat) : State :=
  let z := x.pass row
  let u := (s.setRun ch 0).setStream z
  (if z.passed.length = 128 * z.ds.nsub ∧ z.verified = false then u.passDs z else u).endStream z.ds.num

/-- A failure in PRF's counters and status, and offered to the Loupe (R314, R318). -/
def State.tellFail (s : State) (ch slot v : Nat) : State :=
  let u := (((s.count (F.PRF_VCNT_FAILS ch) 1).setF F.PRF_STAT_LASTREASON v).setF F.PRF_STAT_LASTCH ch).setF F.PRF_STAT_LASTSLOT slot
  u.loupeEvent 2 (ch + (if wrapRev u.tape.wrap then 0 else 16))

theorem State.tellFail_eq (s : State) (ch slot v : Nat) :
    s.tellFail ch slot v =
      ((((s.count (F.PRF_VCNT_FAILS ch) 1).setF F.PRF_STAT_LASTREASON v).setF F.PRF_STAT_LASTCH ch).setF F.PRF_STAT_LASTSLOT slot).loupeEvent 2
        (ch + (if wrapRev (((s.count (F.PRF_VCNT_FAILS ch) 1).setF F.PRF_STAT_LASTREASON v).setF F.PRF_STAT_LASTCH ch).tape.wrap then 0 else 16)) := by
  unfold State.tellFail
  dsimp only
  rw [setF_tape]

/-- What a verdict that fails does (R283, R314). -/
def State.takeFail (s : State) (x : Stream) (ch slot row v : Nat) : State :=
  let w := ((s.setRun ch (s.prf.runs.getD ch 0 + 1)).tellFail ch slot v).vfyChan (x.fail row ch) ch
  (w.1.setStream w.2).endStream w.2.ds.num

section
variable {s : State} {ch : Chan} {slot : Nat}

theorem exec_frameVerdict_noneWaits (hx : s.waitsVerdict ch.val slot = none) : exec (.frameVerdict ch slot) s = .next s := by
  unfold State.waitsVerdict at hx
  change execFrameVerdict ch slot s = _
  unfold execFrameVerdict
  rw [hx]

variable {x : Stream} {f : Frame} (hx : s.waitsVerdict ch.val slot = some x) (hf : x.frameIn ch.val slot = some f)
include hx hf

theorem exec_frameVerdict_waits :
    exec (.frameVerdict ch slot) s =
      .next (if s.verdictOn x f ch.val slot = 0 then (s.judged ch.val slot).takePass (x.judged ch.val slot) ch.val f.row
        else (s.judged ch.val slot).takeFail (x.judged ch.val slot) ch.val slot f.row (s.verdictOn x f ch.val slot)) := by
  unfold State.waitsVerdict at hx
  unfold Stream.frameIn at hf
  change execFrameVerdict ch slot s = _
  unfold execFrameVerdict
  rw [hx]
  dsimp only
  rw [hf]
  by_cases hv : s.verdictOn x f ch.val slot = 0
  · rw [if_pos hv]
    unfold State.verdictOn at hv
    dsimp only
    rw [if_pos hv, if_pos hv]
    rfl
  · rw [if_neg hv]
    unfold State.verdictOn at hv
    dsimp only
    rw [if_neg hv, if_neg hv]
    unfold State.takeFail
    rw [State.tellFail_eq]
    rfl

theorem exec_frameVerdict_passes (hv : s.verdictOn x f ch.val slot = 0) :
    exec (.frameVerdict ch slot) s = .next ((s.judged ch.val slot).takePass (x.judged ch.val slot) ch.val f.row) := by
  rw [exec_frameVerdict_waits hx hf, if_pos hv]

theorem exec_frameVerdict_fails (hv : s.verdictOn x f ch.val slot ≠ 0) :
    exec (.frameVerdict ch slot) s =
      .next ((s.judged ch.val slot).takeFail (x.judged ch.val slot) ch.val slot f.row (s.verdictOn x f ch.val slot)) := by
  rw [exec_frameVerdict_waits hx hf, if_neg hv]

end

end Sys2Proof.Machine

open Sys2Proof.Machine in
/-- Settles O34: a pass and a failure are one lemma each. -/
theorem verdictsDecideDatasets : Obligations.VerdictsDecideDatasets := by
  refine ⟨fun _ _ _ hx => exec_frameVerdict_noneWaits hx, ?waits⟩
  rintro s t ch slot x y f v hx hf rfl rfl rfl
  exact ⟨fun hv => exec_frameVerdict_passes hx hf hv, fun hv => exec_frameVerdict_fails hx hf hv⟩
end

section
/-! SUPPORT. Frames that are read and datasets that are decoded (11_read_channel R304 to R309, R315 to R318; 10_dataset R290): what an input does with a frame, with its sync
and without, a loss of lock, and what a decoding and a retry end in. -/

namespace Sys2Proof.Machine

/-! ### FRAME_READ (R300 to R309) -/

/-- The state in which an input's loops run over a frame: its defects are counted (R308). -/
def State.sawDefects (s : State) (n : Nat) (f : FrameIn) : State := s.count (F.RCH_ICNT_DEF n) (s.defects f).length

/-- A long defect's loss of lock is counted, and the loops and the status of the input after the frame are kept (R303, R304, R307). -/
def State.endFrame (s : State) (n : Nat) (lock : Bool) (ds : List (Nat × Nat)) (m : Loops) (f : FrameIn) : State :=
  ((if (lockLost ds).isSome then s.count (F.RCH_ICNT_LOL n) 1 else s).keepLoops m).inputStatus n lock ds m f

/-- What a frame gave goes to PRF while the input verifies, else to DFM (R310). -/
def State.passOn (s : State) (n : Nat) (off : Int) (got : Option (List (Byte × Bool))) (lost : Bool) : State :=
  if s.verifies then s.toProof n off got lost else s.toDfm n off got

/-- The stream bytes of a frame that begins at symbol `o`, each with its flag (R306, R309). -/
def State.bytesRead (s : State) (ds : List (Nat × Nat)) (lost : Option Nat) (o : Nat) (f : FrameIn) : List (Byte × Bool) :=
  (padTake 508 (frameBytes (f.bits.drop (o + syncLen)))).zipIdx.map (fun p => (p.1, flagged s.defExt ds lost o p.2))

/-- The bytes leave the input; its sync has ended a loss of lock (R307). -/
def State.readOut (s : State) (n : Nat) (out : List (Byte × Bool)) : State :=
  ({ s with rch := { s.rch with lost := s.rch.lost.filter (fun p => p.1 != n) } } : State).emit (.rowRead n out)

/-- What becomes of a frame that begins at symbol `o`, but for the Loupe's part in it (R306, R307). -/
def State.synced (s : State) (n o : Nat) (ds : List (Nat × Nat)) (lost : Option Nat) (m : Loops) (f : FrameIn) : State :=
  let w := s.endFrame n lost.isNone ds m f
  let out := w.bytesRead ds lost o f
  (w.readOut n out).passOn n ((o : Int) - 64) (some out) lost.isSome

/-- The Loupe at a frame with its sync: the loss of lock by a long defect where TRIG names that (`lol`), else the first defect (R318). -/
def State.loupeFrame (s : State) (lol : Bool) (n : Nat) (ds : List (Nat × Nat)) (tape : List Byte) : State :=
  match lockLost ds, firstDefect ds with
  | some k, _ => if lol = true then s.loupeAt 4 n k tape else s.loupeAt 1 n ((firstDefect ds).getD 0) tape
  | none, some k => s.loupeAt 1 n k tape
  | none, none => s.loupeTake n tape

section
variable {s : State} {n : Nat} {ds : List (Nat × Nat)} {tape : List Byte}

/-- Where there is a defect, there is a first one. -/
theorem firstDefect_cons (d : Nat × Nat) (ds : List (Nat × Nat)) : ∃ k, firstDefect (d :: ds) = some k := by
  have hsome (ds : List (Nat × Nat)) (k : Nat) :
      ∃ m, ds.foldl (fun k d => match k with | none => some d.1 | some k => some (min k d.1)) (some k) = some m := by
    induction ds generalizing k with
    | nil => exact ⟨k, rfl⟩
    | cons d ds ih => exact ih (min k d.1)
  exact hsome ds d.1

theorem lockLost_of_noDefect (h : firstDefect ds = none) : lockLost ds = none := by
  cases ds with
  | nil => rfl
  | cons d ds =>
    obtain ⟨k, hk⟩ := firstDefect_cons d ds
    rw [hk] at h
    cases h

theorem loupeFrame_lock {k : Nat} (hk : lockLost ds = some k) : s.loupeFrame true n ds tape = s.loupeAt 4 n k tape := by
  unfold State.loupeFrame
  rw [hk]
  rfl

theorem loupeFrame_defect {lol : Bool} (hl : lockLost ds = none ∨ lol = false) {k : Nat} (hk : firstDefect ds = some k) :
    s.loupeFrame lol n ds tape = s.loupeAt 1 n k tape := by
  unfold State.loupeFrame
  rw [hk]
  obtain hn | rfl := hl
  · rw [hn]
  · cases lockLost ds <;> rfl

theorem loupeFrame_clean {lol : Bool} (hk : firstDefect ds = none) : s.loupeFrame lol n ds tape = s.loupeTake n tape := by
  unfold State.loupeFrame
  rw [hk, lockLost_of_noDefect hk]

end

section
variable {s : State} {i : Fin 36} {f : FrameIn}

theorem exec_frameRead_off (hon : s.inputOn i.val = false) : exec (.frameRead i f) s = .next s := if_pos hon

variable (hon : s.inputOn i.val = true)
include hon

theorem exec_frameRead_servo (hi : 32 ≤ i.val) :
    exec (.frameRead i f) s = .next (if s.getF F.RCH_LPCFG_SRC = 0 then s.loupeTake i.val f.samples else s) :=
  (if_neg (ne_false_of_eq_true hon)).trans (if_pos hi)

variable (hi : i.val < 32) {u : State} (hu : u = s.sawDefects i.val f) {l : Loops} (hl : l = u.loopsOf i.val (zoneE u.headIx))
include hi hu hl

/-- Without its sync a data input's frame yields no bytes, and the Loupe has its event where the sync was expected; else it begins at the symbol found (R306, R318). -/
theorem exec_frameRead_data :
    exec (.frameRead i f) s =
      match u.frameAt f with
      | none => .next (((u.endFrame i.val false (s.defects f) (u.runLoops l (s.defects f) 64 false f) f).passOn i.val 0 none false).loupeAt 3 i.val 64 (u.loupeSource l f))
      | some o =>
        .next ((u.synced i.val o (s.defects f) (u.lossIn i.val o (s.defects f)) (u.runLoops l (s.defects f) o true f) f).loupeFrame (s.getF F.RCH_LPCFG_TRIG == 4) i.val
          (s.defects f) (u.loupeSource l f)) := by
  subst hl hu
  exact (if_neg (ne_false_of_eq_true hon)).trans (if_neg (Nat.not_le.mpr hi))

theorem exec_frameRead_noSync (hf : u.frameAt f = none) {m : Loops} (hm : m = u.runLoops l (s.defects f) 64 false f) :
    exec (.frameRead i f) s = .next (((u.endFrame i.val false (s.defects f) m f).passOn i.val 0 none false).loupeAt 3 i.val 64 (u.loupeSource l f)) := by
  rw [exec_frameRead_data hon hi hu hl, hf, hm]

theorem exec_frameRead_sync {o : Nat} (hf : u.frameAt f = some o) {lost : Option Nat} (hlost : lost = u.lossIn i.val o (s.defects f)) {m : Loops}
    (hm : m = u.runLoops l (s.defects f) o true f) :
    exec (.frameRead i f) s = .next ((u.synced i.val o (s.defects f) lost m f).loupeFrame (s.getF F.RCH_LPCFG_TRIG == 4) i.val (s.defects f) (u.loupeSource l f)) := by
  rw [exec_frameRead_data hon hi hu hl, hf, hlost, hm]

end

/-! ### LOSS_OF_LOCK (R307) -/

section
variable {s : State} {i : Fin 36} {sym : Nat}

theorem exec_lossOfLock_keeps (h : 32 ≤ i.val ∨ s.inputOn i.val = false ∨ s.rch.lost.any (fun p => p.1 == i.val) = true) : exec (.lossOfLock i sym) s = .next s := if_pos h

theorem exec_lossOfLock_counts (hi : i.val < 32) (hon : s.inputOn i.val = true) (hl : s.rch.lost.any (fun p => p.1 == i.val) = false) {u : State}
    (hu : u = (s.count (F.RCH_ICNT_LOL i.val) 1).setF (F.RCH_ISTAT_LOCK i.val) 0) :
    exec (.lossOfLock i sym) s = .next (({ u with rch := { u.rch with lost := (i.val, sym) :: u.rch.lost } } : State).loupeEvent 4 i.val) := by
  subst hu
  exact if_neg (by simp only [hon, hl, Nat.not_le.mpr hi, Bool.true_eq_false, Bool.false_eq_true, or_self, not_false_eq_true])

end

/-! ### DATASET_DECODE (R290, R315) -/

/-- How many subsets a dataset has: as its headers tell, else as the pass was read (R290). -/
def State.subsets (s : State) (p : PassResult) : Nat :=
  match s.seen? p.ds with
  | some x => x.nsub
  | none => p.nsub

/-- The retries of a pass's dataset: those under way, or none yet (R315). -/
def State.retriesOf (s : State) (p : PassResult) : Dfm :=
  match s.rch.dfm with
  | some d => if d.ds = p.ds then { d with reads := p.reads } else ⟨p.ds, 0, 0, false, p.reads, 0⟩
  | none => ⟨p.ds, 0, 0, false, p.reads, 0⟩

/-- The failures of C1 and C2 over the rows kept are counted (R290). -/
def State.countCodes (s : State) (ds n : Nat) : State :=
  (s.count F.DFM_CNT0_C1FAIL ((List.range n).map (s.missing ds)).sum).count F.DFM_CNT0_C2FAIL ((List.range n).filter (fun sb => !(s.subsetRows? ds sb).2)).length

/-- A rebuilding by C3 is counted and recorded (R290). -/
def State.rebuilt (s : State) (ds : Nat) : State := (s.count F.DFM_CNT1_C3REB 1).log { errRec .c3rebuild .dfm [] with flags := infoFlag, ds := some ds }

/-- What a dataset comes to that is not recovered: its retries are stopped, or it is given up, or it waits for the next one (R315 to R317). -/
def State.notRecovered (s : State) (d : Dfm) : Host.Outcome State Fault Refusal :=
  if d.stop = true then .next s.ladderEnd
  else if 8 ≤ d.tries ∨ s.ladder = [] then .next (s.giveUp d)
  else .next { s with rch := { s.rch with dfm := some d } }

section
variable {s : State} {d : Dfm}

theorem notRecovered_stopped (hd : d.stop = true) : s.notRecovered d = .next s.ladderEnd := if_pos hd

variable (hd : d.stop = false)
include hd

theorem notRecovered_waits (ht : d.tries < 8) (hl : s.ladder ≠ []) : s.notRecovered d = .next { s with rch := { s.rch with dfm := some d } } :=
  (if_neg (ne_true_of_eq_false hd)).trans (if_neg (not_or.mpr ⟨Nat.not_le.mpr ht, hl⟩))

theorem notRecovered_givesUp (h : 8 ≤ d.tries ∨ s.ladder = []) : s.notRecovered d = .next (s.giveUp d) :=
  (if_neg (ne_true_of_eq_false hd)).trans (if_pos h)

end

section
variable {s : State} {p : PassResult}

theorem exec_datasetDecode_off (h4 : s.domainOn 4 = false) : exec (.datasetDecode p) s = .next s := if_pos h4

theorem subsets_eq : s.subsets p = ((s.seen? p.ds).map (fun x => x.nsub)).getD p.nsub := by
  unfold State.subsets
  cases s.seen? p.ds <;> rfl

/-- What the codes give of a dataset decides what its decoding ends in. -/
theorem exec_datasetDecode_on (h4 : s.domainOn 4 = true) {u : State} (hu : u = s.countCodes p.ds (s.subsets p)) {d : Dfm} (hd : d = s.retriesOf p) :
    exec (.datasetDecode p) s =
      match s.decoded p.ds (s.subsets p) with
      | some (c, false) => .next (u.recovered c p)
      | some (c, true) => .next ((u.rebuilt p.ds).recovered c p)
      | none => u.notRecovered d := by
  subst hu hd
  exact if_neg (ne_false_of_eq_true h4)

end

/-! ### READ_RETRY (R315 to R317) -/

section
variable {s : State}

theorem exec_readRetry_none (hd : s.rch.dfm = none) : exec .readRetry s = .next s := by
  change Host.Outcome.next s.takeRetry = _
  unfold State.takeRetry
  rw [hd]

variable {d : Dfm} (hd : s.rch.dfm = some d)
include hd

theorem exec_readRetry_ends (h : d.stop = true ∨ 8 ≤ d.tries) : exec .readRetry s = .next s.ladderEnd := by
  change Host.Outcome.next s.takeRetry = _
  unfold State.takeRetry
  rw [hd]
  dsimp only
  rw [if_pos h]

theorem exec_readRetry_next {i : Nat} (hs : d.stop = false) (ht : d.tries < 8) (hi : s.ladder[d.tries % max 1 s.ladder.length]? = some i) {base : Nat}
    (hb : base = if d.tries = 0 then s.getF F.SRV_SPD_CUR else d.base) :
    exec .readRetry s =
      .next (({ s with rch := { s.rch with dfm := some { d with tries := d.tries + 1, step := i + 1, base := base } } } : State).passAt (s.retrySpeed (i + 1) base)) := by
  subst hb
  have hgo : ¬(d.stop = true ∨ 8 ≤ d.tries) := not_or.mpr ⟨ne_true_of_eq_false hs, Nat.not_le.mpr ht⟩
  change Host.Outcome.next s.takeRetry = _
  unfold State.takeRetry
  rw [hd]
  dsimp only
  rw [if_neg hgo, hi]

end

end Sys2Proof.Machine

open Sys2Proof.Machine in
/-- Settles O35: a frame by its sync, a decoding by what the codes give, a retry by the ladder. -/
theorem framesAreReadAndDatasetsDecoded : Obligations.FramesAreReadAndDatasetsDecoded := by
  refine ⟨fun _ _ _ hon => exec_frameRead_off hon, fun s i f hi hon => ?servo, fun s u i f l m ds hi hon hds hu hl => ?frame,
    fun _ _ _ _ hi hon hl hu => exec_lossOfLock_counts hi hon hl hu, fun _ _ _ h => exec_lossOfLock_keeps h, fun _ _ h4 => exec_datasetDecode_off h4,
    fun s u p d n h4 hn hd hu => ?decode, fun _ hd => exec_readRetry_none hd,
    fun _ _ hd => ⟨exec_readRetry_ends hd, fun _ hs ht hi => exec_readRetry_next hd hs ht hi rfl⟩⟩
  case servo =>
    rw [exec_frameRead_servo hon hi]
    exact ⟨fun h => by rw [if_pos h], fun h => by rw [if_neg h]⟩
  case frame =>
    subst hds
    refine ⟨fun hf hm => exec_frameRead_noSync hon hi hu hl hf hm, fun o lost first w x out hf hlost hfirst hm hw hout hx => ?sync⟩
    subst hfirst
    have hexec : exec (.frameRead i f) s = .next (x.loupeFrame (s.getF F.RCH_LPCFG_TRIG == 4) i.val (s.defects f) (u.loupeSource l f)) := by
      subst hx hout hw
      exact exec_frameRead_sync hon hi hu hl hf hlost hm
    rw [hexec]
    refine ⟨fun k hk ht => ?lock, fun k hl hk => ?defect, fun hk => ?clean⟩
    case lock => rw [ht, beq_self_eq_true, loupeFrame_lock hk]
    case defect => rw [loupeFrame_defect (hl.imp_right beq_eq_false_iff_ne.mpr) hk]
    case clean => rw [loupeFrame_clean hk]
  case decode =>
    rw [← subsets_eq] at hn
    subst hn
    rw [exec_datasetDecode_on h4 hu hd]
    refine ⟨fun c hc => by rw [hc], fun c hc => by rw [hc]; rfl, fun hc => ?fails⟩
    rw [hc]
    exact ⟨notRecovered_stopped, notRecovered_waits, notRecovered_givesUp⟩
end

section
/-! SUPPORT. What a servo frame leaves alone: the clock crossings, and with them the clocks that have stopped (01_device_in_one_pass R33; 12_servo R326 to R334). One lemma for each operation a frame can
come to: what is told to sessions, tenants and neighbours, a change of CART, writing that halts, long operations that end, the loops, and the servo's own. -/

namespace Sys2Proof.Machine

/-! ### What is told (R59, R94, R196 to R199, R469) -/

theorem Answers.xc {s t : State} (h : Answers s t) : t.xc = s.xc := by
  obtain ⟨o, v, r, p, b, rfl⟩ := h
  rfl

@[simp] theorem event_xc (s : State) (n : Sid) (name : String) (tag : List Char) (i : List Item) : (s.event n name tag i).xc = s.xc := (event_tells s n name tag i).answers.xc
@[simp] theorem reply_xc (s : State) (ln : Ln) (c : List (List Item)) (b : Body) : (s.reply ln c b).xc = s.xc := (reply_answers s ln c b).xc
@[simp] theorem routePlain_xc (s : State) (f : LFrame) : (s.routePlain f).xc = s.xc := (routePlain_sends s f).answers.xc

@[simp] theorem log_xc (s : State) (r : ErrRec) : (s.log r).xc = s.xc := by
  obtain ⟨o, v, rg, po, hf, h, _⟩ := log_frame s r
  rw [h]

@[simp] theorem signal_xc (s : State) (t : Tenant) (v : Nat) : (s.signal t v).xc = s.xc := by
  unfold State.signal
  dsimp only
  split_ifs <;> rfl

@[simp] theorem cause_xc (s : State) (b : Nat) : (s.cause b).xc = s.xc := by
  unfold State.cause State.vecEvent
  dsimp only
  split_ifs
  · rfl
  · rfl
  · exact signal_xc _ 0 _
  · rfl
  · rfl

@[simp] theorem done_xc (s : State) (ln : Option Ln) (i : List Item) : (s.done ln i).xc = s.xc := by
  unfold State.done
  split
  · rfl
  · split
    · exact event_xc s ..
    · exact routePlain_xc s _

@[simp] theorem doneAll_xc (i : List Item) (ls : List Ln) (s : State) : (s.doneAll i ls).xc = s.xc := by
  induction ls generalizing s with
  | nil => rfl
  | cons l ls ih => exact (ih _).trans (done_xc s (some l) i)

@[simp] theorem drtSend_xc (s : State) (d : Drt) (ty flags aux : Nat) (b : List Byte) : (s.drtSend d ty flags aux b).xc = s.xc := by
  unfold State.drtSend State.drtEmit State.setDrt
  cases d.link with
  | none => rfl
  | some p => exact (route_sends s _).answers.xc

@[simp] theorem note_xc (s : State) (d : Drt) (on : Bool) (code value : Nat) : (s.note d on code value).xc = s.xc := by
  unfold State.note
  split
  · split_ifs
    · exact drtSend_xc s ..
    · rfl
  · rfl

@[simp] theorem noteEach_xc (t : Option Tenant) (code : Nat) (value : Tenant → Nat) (ds : List Drt) (s : State) : (s.noteEach t code value ds).xc = s.xc := by
  induction ds generalizing s with
  | nil => rfl
  | cons d ds ih =>
    refine (ih _).trans ?_
    split_ifs
    · split
      · exact note_xc s ..
      · rfl
    · rfl

@[simp] theorem notify_xc (s : State) (code value : Nat) : (s.notify code value).xc = s.xc := noteEach_xc none code _ _ s

/-! ### CART, writing that halts, long operations that end (R94, R113, R288, R289, R369) -/

@[simp] theorem tidyLoops_xc (s : State) : s.tidyLoops.xc = s.xc := rfl
@[simp] theorem refreshMot_xc (s : State) : s.refreshMot.xc = s.xc := rfl

@[simp] theorem beginStop_xc (s : State) : s.beginStop.xc = s.xc := by
  unfold State.beginStop
  split_ifs <;> rfl

@[simp] theorem eventBut_xc (s : State) (ls : List Ln) (name : String) (i : List Item) : (s.eventBut ls name i).xc = s.xc := by
  have hone (s : State) (n : Sid) : (if ls.any (fun (l : Ln) => l.who == .sess n) then s else s.event n name [] i).xc = s.xc := by
    split_ifs
    · rfl
    · exact event_xc s ..
  unfold State.eventBut
  dsimp only
  rw [hone, hone, hone, hone, hone, hone]

@[simp] theorem groupLost_xc (s : State) : s.groupLost.xc = s.xc := by
  unfold State.groupLost
  split
  · rfl
  · exact log_xc _ _

@[simp] theorem setCart_xc (s : State) (c : Cart) (ls : List Ln) : (s.setCart c ls).xc = s.xc := by
  have htold (t : State) : ((t.cause 2).eventBut ls "CART" [⟨"STATE", .word c.text⟩]).xc = t.xc := by rw [eventBut_xc, cause_xc]
  unfold State.setCart
  dsimp only
  split_ifs
  · rfl
  · rw [noteEach_xc, groupLost_xc]
    exact htold _
  · rw [notify_xc]
    exact htold _
  · exact htold _

@[simp] theorem answerFlush_xc (s : State) (k : Nat) (v : Val) : (s.answerFlush k v).xc = s.xc := by
  have hreplies (ls : List (Nat × Ln)) (s : State) : (ls.foldl (fun s p => s.reply p.2 [] (.ok [⟨"DS", v⟩])) s).xc = s.xc := by
    induction ls generalizing s with
    | nil => rfl
    | cons p ls ih => exact (ih _).trans (reply_xc s ..)
  exact hreplies _ _

@[simp] theorem haltWrite_xc (s : State) : s.haltWrite.xc = s.xc := answerFlush_xc _ _ _

@[simp] theorem cartBack_xc (s : State) : s.cartBack.xc = s.xc := by
  unfold State.cartBack
  split
  · exact setCart_xc s _ _
  · exact setCart_xc s _ _
  · rfl

@[simp] theorem endOps_xc (s : State) (e : Er) : (s.endOps e).xc = s.xc := by
  unfold State.endOps
  dsimp only
  rw [done_xc, doneAll_xc]
  exact cartBack_xc s

/-! ### The servo (R326 to R334) -/

theorem xc_ite {c : Prop} [Decidable c] {a b s : State} (ha : a.xc = s.xc) (hb : b.xc = s.xc) : (if c then a else b).xc = s.xc := by
  rw [apply_ite State.xc, ha, hb, ite_self]

@[simp] theorem setLoop_xc (s : State) (n : Fin 9) (l : LoopSt) : (s.setLoop n l).xc = s.xc := rfl

@[simp] theorem openMove_xc (s : State) (old : Nat) : (s.openMove old).xc = s.xc := by
  unfold State.openMove
  dsimp only
  rw [setF_xc]
  split_ifs
  · exact setLoop_xc s 4 _
  · rfl

@[simp] theorem moveEnds_xc (s : State) (b : Bool) (v : Rat) : (s.moveEnds b v).xc = s.xc := by
  unfold State.moveEnds State.afterMove
  split_ifs
  · rw [setLoop_xc, setF_xc]
  · rfl
  · rfl

@[simp] theorem bandFault_xc (s : State) : s.bandFault.xc = s.xc := by
  unfold State.bandFault
  dsimp only
  rw [beginStop_xc, endOps_xc, setCart_xc]
  split_ifs
  · exact haltWrite_xc s
  · rfl

@[simp] theorem wrongBand_xc (s : State) (band : Nat) : (s.wrongBand band).xc = s.xc := by
  unfold State.wrongBand
  dsimp only
  rw [apply_ite State.xc, bandFault_xc, openMove_xc, setF_xc]
  rw [log_xc, ite_self]

@[simp] theorem goodWord_xc (s : State) (k : Fin 2) (w lpw : Nat) : (s.goodWord k w lpw).xc = s.xc := by
  unfold State.goodWord
  dsimp only
  cases wordBand w with
  | none => rfl
  | some b =>
    refine xc_ite (wrongBand_xc _ _) (xc_ite (xc_ite ?unread (xc_ite rfl rfl)) (xc_ite ?held (xc_ite ?agrees (xc_ite ?twice ?differs))))
    case unread =>
      rw [setF_xc, setF_xc]
      exact xc_ite rfl rfl
    case held =>
      rw [setF_xc]
      exact xc_ite rfl rfl
    case agrees => exact xc_ite rfl rfl
    case twice =>
      rw [setF_xc]
      dsimp only
      rw [log_xc]
      exact xc_ite rfl rfl
    case differs =>
      dsimp only
      rw [log_xc]
      exact xc_ite rfl rfl

@[simp] theorem badWord_xc (s : State) : s.badWord.xc = s.xc := by
  unfold State.badWord
  dsimp only
  split_ifs
  · rw [setF_xc, count_xc]
  · rw [count_xc]

@[simp] theorem takeSym_xc (s : State) (k : Fin 2) (y : Sym) : (s.takeSym k y).xc = s.xc := by
  unfold State.takeSym
  dsimp only
  split
  · rfl
  · exact badWord_xc _
  · exact goodWord_xc _ _ _ _

@[simp] theorem countLpw_xc (s : State) (v : Rat) : (s.countLpw v).xc = s.xc := by
  unfold State.countLpw
  split
  · rfl
  · dsimp only
    rw [setF_xc]

@[simp] theorem trackTo_xc (s : State) (st : Nat) (lpe : Int) : (s.trackTo st lpe).xc = s.xc := by
  have hlost : (if st = 4 ∧ s.getF F.SRV_STAT_STATE ≠ 4 then State.count { s with srv := { s.srv with sinceLost := true } } F.SRV_CNT_LOST 1 else s).xc = s.xc := xc_ite (count_xc _ _ _) rfl
  unfold State.trackTo
  dsimp only
  rw [setF_xc, setF_xc]
  exact xc_ite hlost hlost

@[simp] theorem track_xc (s : State) (p0 p1 : Option Rat) (v : Rat) : (s.track p0 p1 v).xc = s.xc := by
  unfold State.track
  dsimp only
  rw [trackTo_xc]
  unfold State.trackCount
  dsimp only
  rw [setF_xc, setF_xc]

@[simp] theorem servoIn_xc (s : State) (l0 l1 t0 t1 : ServoRead) (v : Rat) : (s.servoIn l0 l1 t0 t1 v).xc = s.xc := by
  unfold State.servoIn
  dsimp only
  rw [track_xc, takeSym_xc, takeSym_xc, moveEnds_xc, countLpw_xc, setF_xc, setF_xc]

end Sys2Proof.Machine
end

section
/-! SUPPORT. What a servo frame does after its readers have been taken (12_servo R328, R332): the write gate, the sample for LAT and the balls of the heads, and what these leave as it was. -/

namespace Sys2Proof.Machine

/-! ### What driving the heads and cutting frames leave alone -/

/-- `t` is `s` but for outputs and the levels of the head balls. -/
def DrivesHeads (s t : State) : Prop := ∃ o b, t = { s with out := o, balls := b }

theorem DrivesHeads.trans {s t u : State} (h : DrivesHeads s t) (g : DrivesHeads t u) : DrivesHeads s u := by
  obtain ⟨o, b, rfl⟩ := h
  obtain ⟨o', b', rfl⟩ := g
  exact ⟨o', b', rfl⟩

theorem drive_drivesHeads (s : State) (n : String) (was now : Bool) : DrivesHeads s (s.drive n was now) := by
  unfold State.drive
  split_ifs
  · exact ⟨s.out, s.balls, rfl⟩
  · exact ⟨_, s.balls, rfl⟩

theorem driveOuts_drivesHeads (s : State) (m : Bool) (was now : WriteOut) : DrivesHeads s (s.driveOuts m was now) := by
  unfold State.driveOuts
  split_ifs
  · exact ⟨s.out, s.balls, rfl⟩
  · exact ⟨_, s.balls, rfl⟩

/-- The balls of the heads follow the state, and nothing else changes but the output (R491). -/
theorem headBalls_drivesHeads (s : State) : DrivesHeads s s.headBalls :=
  have hlevels : DrivesHeads s { s with balls := s.headLevels } := ⟨s.out, _, rfl⟩
  have hpre := (hlevels.trans (drive_drivesHeads _ "PRE_EN_A" _ _)).trans (drive_drivesHeads _ "PRE_EN_B" _ _)
  have hfall := (hpre.trans (drive_drivesHeads _ "WGATE_A" _ _)).trans (drive_drivesHeads _ "WGATE_B" _ _)
  have houts := (hfall.trans (driveOuts_drivesHeads _ false _ _)).trans (driveOuts_drivesHeads _ true _ _)
  (houts.trans (drive_drivesHeads _ "WGATE_A" _ _)).trans (drive_drivesHeads _ "WGATE_B" _ _)

/-- `t` is `s` but for the datasets that stream. -/
def Restreams (s t : State) : Prop := ∃ l, t = { s with fmt := { s.fmt with streams := l } }

theorem Restreams.trans {s t u : State} (h : Restreams s t) (g : Restreams t u) : Restreams s u := by
  obtain ⟨l, rfl⟩ := h
  obtain ⟨m, rfl⟩ := g
  exact ⟨m, rfl⟩

theorem cutChan_restreams (s : State) (ch : Nat) : Restreams s (s.cutChan ch) := by
  unfold State.cutChan
  cases s.inFlight ch with
  | none => exact ⟨s.fmt.streams, rfl⟩
  | some x => exact ⟨_, rfl⟩

/-- Frames in flight that are cut are in the datasets that stream, and nothing else changes (R332). -/
theorem cutInFlight_restreams (s : State) : Restreams s s.cutInFlight := by
  have hcut (chs : List Nat) (s : State) : Restreams s (chs.foldl State.cutChan s) := by
    induction chs generalizing s with
    | nil => exact ⟨s.fmt.streams, rfl⟩
    | cons ch chs ih => exact (cutChan_restreams s ch).trans (ih _)
  exact hcut _ s

section
variable {s t : State} {v : Rat}

/-! ### The write gate (R332) -/

/-- The gate that a frame decides: TRACK, LPWOK, where the tape may be written, no trip, the speed on its profile. -/
theorem gateNow_iff : s.gateNow v = true ↔
    s.getF F.SRV_STAT_STATE = 2 ∧ s.bit F.SRV_STAT_LPWOK = true ∧ s.inRegion = true ∧ s.mot ≠ .tripped ∧ s.onProfile v = true := by
  simp only [State.gateNow, Bool.and_eq_true, beq_iff_eq, bne_iff_ne, and_assoc]

theorem onProfile_iff {p : Rat} (hp : p = (if s.mdr.vRef < 0 then -s.mdr.vRef else s.mdr.vRef) * 1000 / 65536) :
    s.onProfile v = true ↔ 995 * p ≤ 1000 * v ∧ 1000 * v ≤ 1005 * p := by
  subst hp
  exact decide_eq_true_iff

/-- The parts of the state that the gate is decided by, and the gate itself, are the same in `t` as in `s`. -/
structure SameGate (s t : State) : Prop where
  regs : t.regs = s.regs
  cart : t.cart = s.cart
  mot : t.mot = s.mot
  mdr : t.mdr = s.mdr

theorem SameGate.gateNow (h : SameGate s t) : t.gateNow v = s.gateNow v := by
  unfold State.gateNow State.inRegion State.onProfile
  rw [getF_of_regs h.regs, bit_of_regs h.regs, getF_of_regs h.regs, h.cart, h.mot, h.mdr]

theorem SameGate.winhib (h : SameGate s t) : t.getF F.SRV_STAT_WINHIB = s.getF F.SRV_STAT_WINHIB := getF_of_regs h.regs _

theorem DrivesHeads.sameGate (h : DrivesHeads s t) : SameGate s t := by
  obtain ⟨o, b, rfl⟩ := h
  exact ⟨rfl, rfl, rfl, rfl⟩

theorem Restreams.sameGate (h : Restreams s t) : SameGate s t := by
  obtain ⟨l, rfl⟩ := h
  exact ⟨rfl, rfl, rfl, rfl⟩

theorem sendSample_sameGate (s : State) (st : DWord) : SameGate s (s.sendSample st) := by
  unfold State.sendSample
  dsimp only
  split_ifs <;> exact ⟨rfl, rfl, rfl, rfl⟩

/-- A field that is none of those the gate is decided by may be written. -/
theorem gateNow_setF {f : Fld} (n : Nat) (h : f.lo + f.width ≤ 32)
    (hs : F.SRV_STAT_STATE.off ≠ f.off ∨ F.SRV_STAT_STATE.lo + F.SRV_STAT_STATE.width ≤ f.lo ∨ f.lo + f.width ≤ F.SRV_STAT_STATE.lo)
    (hl : F.SRV_STAT_LPWOK.off ≠ f.off ∨ F.SRV_STAT_LPWOK.lo + F.SRV_STAT_LPWOK.width ≤ f.lo ∨ f.lo + f.width ≤ F.SRV_STAT_LPWOK.lo) (hw : F.SRV_LPW_LPW.off ≠ f.off) :
    (s.setF f n).gateNow v = s.gateNow v := by
  unfold State.gateNow State.inRegion State.onProfile
  rw [getF_setF_other s n h hs, bit_setF_other s n h hl, getF_setF_other s n h (.inl hw), setF_cart, setF_mot, setF_mdr]

/-- The gate is set, and the rest of what it is decided by stays: a closure is counted, and cuts the frames in flight. -/
theorem setGate_gate (was now : Bool) : (s.setGate was now).gateNow v = s.gateNow v ∧ (s.setGate was now).getF F.SRV_STAT_WINHIB = if now then 0 else 1 := by
  let w := s.setF F.SRV_STAT_WINHIB (if now then 0 else 1)
  have hgate : w.gateNow v = s.gateNow v := gateNow_setF _ (by decide) (by decide) (by decide) (by decide)
  have hinhib : w.getF F.SRV_STAT_WINHIB = if now then 0 else 1 := by
    rw [getF_setF_same _ _ _ (by decide)]
    cases now <;> rfl
  change (if was = true ∧ now = false then (w.count F.SRV_CNT_WINHIB 1).cutInFlight else w).gateNow v = _ ∧
    (if was = true ∧ now = false then (w.count F.SRV_CNT_WINHIB 1).cutInFlight else w).getF F.SRV_STAT_WINHIB = _
  by_cases hc : was = true ∧ now = false
  · have hcut := (cutInFlight_restreams (w.count F.SRV_CNT_WINHIB 1)).sameGate
    rw [if_pos hc, hcut.gateNow, hcut.winhib, ← hgate, ← hinhib]
    exact ⟨gateNow_setF _ (by decide) (by decide) (by decide) (by decide), getF_setF_other _ _ (by decide) (by decide)⟩
  · rw [if_neg hc]
    exact ⟨hgate, hinhib⟩

end

/-! ### The frame (R325 to R332) -/

/-- What the readers bring to a frame, the leading module being A forward and B in reverse (R328). -/
def State.servoTakes (s : State) (a0 a1 b0 b1 : ServoRead) (v : Rat) : State := if s.mdr.rev then s.servoIn b0 b1 a0 a1 v else s.servoIn a0 a1 b0 b1 v

/-- The write gate has been open: the servo in TRACK, no inhibition. -/
def State.wasOpen (s : State) : Bool := s.getF F.SRV_STAT_STATE == 2 && !(s.bit F.SRV_STAT_WINHIB)

@[simp] theorem servoTakes_xc (s : State) (a0 a1 b0 b1 : ServoRead) (v : Rat) : (s.servoTakes a0 a1 b0 b1 v).xc = s.xc := by
  unfold State.servoTakes
  rw [apply_ite State.xc, servoIn_xc, servoIn_xc, ite_self]

@[simp] theorem setGate_xc (s : State) (was now : Bool) : (s.setGate was now).xc = s.xc := by
  have hcut (s : State) : s.cutInFlight.xc = s.xc := by
    obtain ⟨l, h⟩ := cutInFlight_restreams s
    rw [h]
  unfold State.setGate
  dsimp only
  rw [apply_ite State.xc, hcut, count_xc, ite_self, setF_xc]

section
variable {s : State}

theorem sendSample_running (h : s.xc.stopped.contains .ckm = false) (st : DWord) : s.sendSample st = { s with srv := { s.srv with sample := s.sampleOf st, fresh := true } } :=
  if_neg (ne_true_of_eq_false h)

theorem sendSample_stopped (h : s.xc.stopped.contains .ckm = true) (st : DWord) :
    s.sendSample st = { s with xc := { s.xc with samples := (s.xc.samples ++ [s.sampleOf st]).drop (s.xc.samples.length - 15) } } := if_pos h

variable {a0 a1 b0 b1 : ServoRead} {st : DWord} {v : Rat} (h6 : s.domainOn 6 = true) (h5 : s.domainOn 5 = true)
  (hv : v = s.speedOf (if s.mdr.rev then [b0, b1, a0, a1] else [a0, a1, b0, b1]))
include h6 h5 hv

theorem exec_servoFrame_on : exec (.servoFrame a0 a1 b0 b1 st) s = .next ((s.servoTakes a0 a1 b0 b1 v).servoGate s.wasOpen v st).headBalls := by
  subst hv
  exact if_neg (by simp [h6, h5])

theorem exec_servoFrame_rest (h0 : v = 0) : exec (.servoFrame a0 a1 b0 b1 st) s = .next ((s.servoTakes a0 a1 b0 b1 v).setF F.SRV_STAT_WINHIB 0).headBalls := by
  have hgate : (s.servoTakes a0 a1 b0 b1 v).servoGate s.wasOpen v st = (s.servoTakes a0 a1 b0 b1 v).setF F.SRV_STAT_WINHIB 0 := if_pos h0
  rw [exec_servoFrame_on h6 h5 hv, hgate]

theorem exec_servoFrame_moving (h0 : v ≠ 0) {u : State} (hu : u = s.servoTakes a0 a1 b0 b1 v) :
    exec (.servoFrame a0 a1 b0 b1 st) s = .next ((u.setGate s.wasOpen (u.gateNow v)).sendSample st).headBalls := by
  have hgate : u.servoGate s.wasOpen v st = (u.setGate s.wasOpen (u.gateNow v)).sendSample st := if_neg h0
  rw [exec_servoFrame_on h6 h5 hv, ← hu, hgate]

/-- After a moving frame the gate is open exactly when its conditions hold in the state that the frame leaves. -/
theorem servoFrame_winhib (h0 : v ≠ 0) {t : State} (ht : exec (.servoFrame a0 a1 b0 b1 st) s = .next t) : t.getF F.SRV_STAT_WINHIB = if t.gateNow v then 0 else 1 := by
  rw [exec_servoFrame_moving h6 h5 hv h0 rfl] at ht
  obtain rfl := Host.Outcome.next.inj ht
  have hballs := (headBalls_drivesHeads (((s.servoTakes a0 a1 b0 b1 v).setGate s.wasOpen ((s.servoTakes a0 a1 b0 b1 v).gateNow v)).sendSample st)).sameGate
  have hsample := sendSample_sameGate ((s.servoTakes a0 a1 b0 b1 v).setGate s.wasOpen ((s.servoTakes a0 a1 b0 b1 v).gateNow v)) st
  obtain ⟨hgate, hinhib⟩ := setGate_gate (s := s.servoTakes a0 a1 b0 b1 v) (v := v) s.wasOpen ((s.servoTakes a0 a1 b0 b1 v).gateNow v)
  rw [hballs.winhib, hsample.winhib, hinhib, hballs.gateNow, hsample.gateNow, hgate]

/-- While CKM runs, LAT has a fresh sample after a moving frame. -/
theorem servoFrame_fresh (h0 : v ≠ 0) (hc : s.xc.stopped.contains .ckm = false) {t : State} (ht : exec (.servoFrame a0 a1 b0 b1 st) s = .next t) : t.srv.fresh = true := by
  have hxc : ((s.servoTakes a0 a1 b0 b1 v).setGate s.wasOpen ((s.servoTakes a0 a1 b0 b1 v).gateNow v)).xc = s.xc := by rw [setGate_xc, servoTakes_xc]
  rw [exec_servoFrame_moving h6 h5 hv h0 rfl, sendSample_running (by rw [hxc, hc])] at ht
  obtain rfl := Host.Outcome.next.inj ht
  obtain ⟨o, b, h⟩ := headBalls_drivesHeads
    { (s.servoTakes a0 a1 b0 b1 v).setGate s.wasOpen ((s.servoTakes a0 a1 b0 b1 v).gateNow v) with
      srv := { ((s.servoTakes a0 a1 b0 b1 v).setGate s.wasOpen ((s.servoTakes a0 a1 b0 b1 v).gateNow v)).srv with
        sample := ((s.servoTakes a0 a1 b0 b1 v).setGate s.wasOpen ((s.servoTakes a0 a1 b0 b1 v).gateNow v)).sampleOf st, fresh := true } }
  rw [h]

end

end Sys2Proof.Machine

open Sys2Proof.Machine in
/-- Settles O41: the gate is what its conditions say as the frame sets it, and they are the same at the end of the frame; the clocks that have stopped are too. -/
theorem writeGateConditions : Obligations.WriteGateConditions := by
  intro s t a0 a1 b0 b1 v p st h6 h5 hv h0 ht hp
  refine ⟨?gate, fun hc => servoFrame_fresh h6 h5 hv h0 hc ht⟩
  rw [servoFrame_winhib h6 h5 hv h0 ht, ← onProfile_iff hp, ← gateNow_iff]
  cases t.gateNow v <;> decide
end

section
/-! SUPPORT. The servo's position, speed and timeouts (12_servo R325, R330, R333): one lemma for each outcome. -/

namespace Sys2Proof.Machine

section
variable {r : ServoRead}

/-! ### Position and speed (R325, R328) -/

/-- A reader with its four stripe pairs measures the position of R325's formula, and none beyond 88 um. -/
theorem posOf_fourPairs {p q x y : Nat × Nat} (hb : r.bursts = true) (hp : r.period ≠ 0) (hr : r.pairs = [p, q, x, y]) {m : Rat}
    (hm : m = 240 - 800 * (((p.2 : Rat) - p.1 + (q.2 - q.1) + (x.2 - x.1) + (y.2 - y.1)) / r.period) / 4) :
    posOf r = if -88 ≤ m ∧ m ≤ 88 then some m else none := by
  have hmean : (240 - 800 * ((([p, q, x, y].map (fun p => (p.2 : Int) - p.1)).sum : Int) : Rat) / (([p, q, x, y].length * r.period : Nat) : Rat)) = m := by
    subst hm
    have hperiod : (r.period : Rat) ≠ 0 := Nat.cast_ne_zero.mpr hp
    simp only [List.map_cons, List.map_nil, List.sum_cons, List.sum_nil, List.length_cons, List.length_nil]
    push_cast
    field_simp
    ring
  have hvalid : ¬(r.bursts = false ∨ [p, q, x, y].length < 3 ∨ r.period = 0) := by simp [hb, hp]
  unfold posOf
  dsimp only
  rw [hr, show [p, q, x, y].take 4 = [p, q, x, y] from rfl, if_neg hvalid, hmean]

theorem speedOf_first {s : State} (hb : r.bursts = true) (hp : r.period ≠ 0) (l : List ServoRead) : s.speedOf (r :: l) = (200000000000 : Rat) / r.period := by
  have hfind : (r :: l).find? (fun r => r.bursts && r.period != 0) = some r := List.find?_cons_of_pos (by simp [hb, hp])
  unfold State.speedOf
  rw [hfind]

end

section
variable {s : State}

/-! ### Frames with a domain off, and the timeouts (R330, R333) -/

theorem exec_servoFrame_off (h : s.domainOn 6 = false ∨ s.domainOn 5 = false) (a0 a1 b0 b1 : ServoRead) (st : DWord) : exec (.servoFrame a0 a1 b0 b1 st) s = .next s := if_pos h

theorem exec_servoLostTimeout_idle (h : s.srv.sinceLost = false) : exec .servoLostTimeout s = .next s := if_pos h

theorem exec_servoLostTimeout_stops (h : s.srv.sinceLost = true) {u : State}
    (hu : u = ({ s with srv := { s.srv with sinceLost := false } } : State).log (errRec .servolost .srv [])) :
    exec .servoLostTimeout s = .next (((match u.writing? with | some x => u.abandonDs x | none => u).stopWriting.endOps .servolost).beginStop) := by
  change execServoLostTimeout s = _
  unfold execServoLostTimeout
  rw [if_neg (ne_false_of_eq_true h)]
  dsimp only
  rw [← hu] <;> cases u.writing? <;> rfl

theorem exec_lpwokStopTimeout (s : State) : exec .lpwokStopTimeout s = .next (if s.getF F.SRV_SPD_MMS = 0 then s.setF F.SRV_STAT_LPWOK 0 else s) := (apply_ite Host.Outcome.next _ _ _).symm

end

end Sys2Proof.Machine

open Sys2Proof.Machine in
/-- Settles O40: a frame ends at rest or moving, its sample taken or held with CKM stopped; then one lemma for each rule. -/
theorem servoFollowsTheTape : Obligations.ServoFollowsTheTape := by
  refine ⟨?frame, fun r p q x y hb hp hr => posOf_fourPairs hb hp hr rfl, fun s r l hb hp => speedOf_first hb hp l, fun s a0 a1 b0 b1 st h => exec_servoFrame_off h a0 a1 b0 b1 st,
    fun s => exec_servoLostTimeout_idle, fun s u h hu => exec_servoLostTimeout_stops h hu, exec_lpwokStopTimeout⟩
  case frame =>
    intro s a0 a1 b0 b1 v st u h6 h5 hv hu
    change u = s.servoTakes a0 a1 b0 b1 v at hu
    refine ⟨fun h0 => hu ▸ exec_servoFrame_rest h6 h5 hv h0, fun w h0 hw => ?moving⟩
    change w = u.setGate s.wasOpen (u.gateNow v) at hw
    rw [exec_servoFrame_moving h6 h5 hv h0 hu, ← hw]
    exact ⟨fun hc => by rw [sendSample_running hc], fun hc => by rw [sendSample_stopped hc]⟩
end

section
/-! SUPPORT. Speed matching (12_servo R335, R338 to R344): speed evaluations, turnarounds, gaps, backhitches and pack bursts, one lemma for each outcome. -/

namespace Sys2Proof.Machine

section
variable {s : State}

/-! ### Speed evaluation (R338 to R340) -/

/-- D' and IN of the last second are kept (R338). -/
def State.evaluated (s : State) : State := { s with srv := { s.srv with demand := s.demandNow, ingest := s.ingestNow } }

theorem exec_speedEvaluation_fixed (h : s.cart ≠ .writing ∨ s.bit F.SRV_SPD_AUTO = false) :
    exec .speedEvaluation s = .next { s.evaluated with srv := { s.evaluated.srv with below := 0 } } := if_pos h

section
variable (hc : s.cart = .writing) (ha : s.bit F.SRV_SPD_AUTO = true) {t : Nat} (ht : t = targetStep (zoneE s.tape.wrap) (s.getF F.SRV_MATCH_MARGIN) s.demandNow) {v : State}
  (hv : v = s.evaluated.setF F.SRV_SPD_TARGET t)
include hc ha ht hv

/-- While CART is WRITING with AUTO the target is stored, and compared with the present step. -/
theorem exec_speedEvaluation_auto :
    exec .speedEvaluation s =
      if s.evaluated.presentStep < t then .next (v.toTarget t s.ingestNow)
      else if t < s.evaluated.presentStep then
        if v.getF F.SRV_MATCH_DOWNHOLD < s.srv.below + 1 then .next (v.toTarget t s.ingestNow) else .next { v with srv := { v.srv with below := s.srv.below + 1 } }
      else .next { v with srv := { v.srv with below := 0 } } := by
  have hgo : ¬(s.evaluated.cart ≠ .writing ∨ s.evaluated.bit F.SRV_SPD_AUTO = false) := by
    rintro (h | h)
    · exact h hc
    · exact ne_false_of_eq_true ha h
  subst hv ht
  exact if_neg hgo

theorem exec_speedEvaluation_higher (h : s.evaluated.presentStep < t) : exec .speedEvaluation s = .next (v.toTarget t s.ingestNow) := by
  rw [exec_speedEvaluation_auto hc ha ht hv, if_pos h]

theorem exec_speedEvaluation_lower (h : t < s.evaluated.presentStep) (hd : v.getF F.SRV_MATCH_DOWNHOLD ≤ s.srv.below) :
    exec .speedEvaluation s = .next (v.toTarget t s.ingestNow) := by
  rw [exec_speedEvaluation_auto hc ha ht hv, if_neg (Nat.not_lt.mpr h.le), if_pos h, if_pos (Nat.lt_succ_of_le hd)]

theorem exec_speedEvaluation_counts (h : t < s.evaluated.presentStep) (hd : s.srv.below < v.getF F.SRV_MATCH_DOWNHOLD) :
    exec .speedEvaluation s = .next { v with srv := { v.srv with below := s.srv.below + 1 } } := by
  rw [exec_speedEvaluation_auto hc ha ht hv, if_neg (Nat.not_lt.mpr h.le), if_pos h, if_neg (Nat.not_lt.mpr hd)]

theorem exec_speedEvaluation_equal (h : t = s.evaluated.presentStep) : exec .speedEvaluation s = .next { v with srv := { v.srv with below := 0 } } := by
  rw [exec_speedEvaluation_auto hc ha ht hv, if_neg (by rw [h]; exact Nat.lt_irrefl _), if_neg (by rw [h]; exact Nat.lt_irrefl _)]

end

/-! ### Turnarounds (R335, R340) -/

section
variable (hm : s.mot = .moving)
include hm

/-- While CART is not WRITING the tape turns at the end of the head's wrap, but for the last. -/
theorem exec_turnaround_notWriting (hc : s.cart ≠ .writing) : exec .turnaround s = if 191 ≤ s.headIx then .next s else .next (s.turnTo s.headIx (s.headIx + 1)) := by
  have hw : (s.cart == .writing) = false := beq_eq_false_iff_ne.mpr hc
  change execTurnaround s = _
  unfold execTurnaround
  dsimp only
  rw [if_neg (not_not.mpr hm), hw]
  simp only [Bool.false_eq_true, if_false, false_and, or_false]

/-- While it is, the tape turns at the end of the append point's wrap, once that is full and no dataset streams. -/
theorem exec_turnaround_whileWriting (hc : s.cart = .writing) :
    exec .turnaround s =
      if 191 ≤ s.tape.wrap ∨ s.wrapFull = false ∨ (s.writing?).isSome = true then .next s
      else .next ((s.turnTo s.tape.wrap (s.tape.wrap + 1)).turnWrite (s.tape.wrap + 1)) := by
  have hw : (s.cart == .writing) = true := beq_iff_eq.mpr hc
  change execTurnaround s = _
  unfold execTurnaround
  dsimp only
  rw [if_neg (not_not.mpr hm), hw]
  simp only [if_true, true_and]

theorem exec_turnaround_reading (hc : s.cart ≠ .writing) (hix : s.headIx < 191) : exec .turnaround s = .next (s.turnTo s.headIx (s.headIx + 1)) := by
  rw [exec_turnaround_notWriting hm hc, if_neg (Nat.not_le.mpr hix)]

theorem exec_turnaround_writing (hc : s.cart = .writing) (hix : s.tape.wrap < 191) (hf : s.wrapFull = true) (hn : s.writing? = none) :
    exec .turnaround s = .next ((s.turnTo s.tape.wrap (s.tape.wrap + 1)).turnWrite (s.tape.wrap + 1)) := by
  rw [exec_turnaround_whileWriting hm hc, if_neg (by simp [hf, hn, hix])]

end

theorem exec_turnaround_keeps
    (h : s.mot ≠ .moving ∨ s.cart ≠ .writing ∧ 191 ≤ s.headIx ∨ s.cart = .writing ∧ (191 ≤ s.tape.wrap ∨ s.wrapFull = false ∨ s.writing? ≠ none)) :
    exec .turnaround s = .next s := by
  by_cases hm : s.mot = .moving
  · obtain hn | ⟨hc, hix⟩ | ⟨hc, hw⟩ := h
    · exact absurd hm hn
    · rw [exec_turnaround_notWriting hm hc, if_pos hix]
    · rw [exec_turnaround_whileWriting hm hc, if_pos (hw.imp_right fun h => h.imp_right Option.isSome_iff_ne_none.mpr)]
  · exact if_pos hm

/-! ### Gaps (R341) -/

theorem exec_gapTimeout_backhitches (hc : s.cart = .writing) (hm : s.mot = .moving) (hh : s.srv.hitch = false) (hn : s.writing? = none) (hb : s.fmt.built = []) :
    exec .gapTimeout s = .next s.backhitch := if_pos ⟨hc, hm, hh, Option.isNone_iff_eq_none.mpr hn, hb⟩

theorem exec_gapTimeout_keeps (h : s.cart ≠ .writing ∨ s.mot ≠ .moving ∨ s.srv.hitch = true ∨ s.writing? ≠ none ∨ s.fmt.built ≠ []) : exec .gapTimeout s = .next s := by
  refine if_neg ?_
  rintro ⟨hc, hm, hh, hn, hb⟩
  obtain h | h | h | h | h := h
  · exact h hc
  · exact h hm
  · exact ne_true_of_eq_false hh h
  · exact h (Option.isNone_iff_eq_none.mp hn)
  · exact h hb

/-! ### Backhitches and pack bursts (R342, R343) -/

section
variable (hh : s.srv.hitch = true) (hc : s.cart = .writing) (hb : s.fmt.built ≠ [])
include hh hc hb

theorem exec_backhitchResume_writes (hp : s.bit F.SRV_SPD_PACK = false) : exec .backhitchResume s = .next s.resume := if_pos ⟨hh, hc, hb, hp⟩

theorem exec_packBurstStart_bursts (hp : s.bit F.SRV_SPD_PACK = true) : exec .packBurstStart s = .next (s.stepChange 1 s.srv.ingest).resume := if_pos ⟨hh, hc, hb, hp⟩

end

theorem exec_backhitchResume_reads (hh : s.srv.hitch = true) (hc : s.cart = .reading) (hf : 635 ≤ s.freePages) : exec .backhitchResume s = .next s.resumeRead :=
  (if_neg (by simp [hc])).trans (if_pos ⟨hh, hc, hf⟩)

theorem exec_backhitchResume_keeps (hw : s.srv.hitch = false ∨ s.cart ≠ .writing ∨ s.fmt.built = [] ∨ s.bit F.SRV_SPD_PACK = true)
    (hr : s.srv.hitch = false ∨ s.cart ≠ .reading ∨ s.freePages < 635) : exec .backhitchResume s = .next s := by
  refine (if_neg ?_).trans (if_neg ?_)
  · rintro ⟨hh, hc, hb, hp⟩
    simp [hh, hc, hb, hp] at hw
  · rintro ⟨hh, hc, hf⟩
    have hfew : s.freePages < 635 := by simpa [hh, hc] using hr
    exact absurd hf (Nat.not_le.mpr hfew)

theorem exec_packBurstStart_keeps (h : s.srv.hitch = false ∨ s.cart ≠ .writing ∨ s.fmt.built = [] ∨ s.bit F.SRV_SPD_PACK = false) : exec .packBurstStart s = .next s := by
  refine if_neg ?_
  rintro ⟨hh, hc, hb, hp⟩
  simp [hh, hc, hb, hp] at h

end

end Sys2Proof.Machine

open Sys2Proof.Machine in
/-- Settles O42: one lemma for each outcome. -/
theorem speedMatchingActs : Obligations.SpeedMatchingActs := by
  refine ⟨?speed, fun _ => exec_turnaround_reading, fun _ => exec_turnaround_writing, fun _ => exec_turnaround_keeps, fun _ => exec_gapTimeout_backhitches,
    fun _ => exec_gapTimeout_keeps, fun s hh hc hb => ?resumes, fun _ => exec_backhitchResume_reads, ?hitchKeeps, ?packKeeps⟩
  case speed =>
    rintro s u rfl
    exact ⟨exec_speedEvaluation_fixed, fun t v hc ha ht hv => ⟨exec_speedEvaluation_higher hc ha ht hv, exec_speedEvaluation_lower hc ha ht hv, exec_speedEvaluation_counts hc ha ht hv,
      exec_speedEvaluation_equal hc ha ht hv⟩⟩
  case resumes =>
    refine ⟨fun hp => ⟨exec_backhitchResume_writes hh hc hb hp, exec_packBurstStart_keeps ?_⟩, fun hp => ⟨exec_packBurstStart_bursts hh hc hb hp, exec_backhitchResume_keeps ?_ ?_⟩⟩
    · exact .inr (.inr (.inr hp))
    · exact .inr (.inr (.inr hp))
    · exact .inr (.inl (by simp [hc]))
  case hitchKeeps =>
    exact fun s hw hr => exec_backhitchResume_keeps (hw.imp_right fun h => h.imp_right .inl) hr
  case packKeeps =>
    exact fun s h => exec_packBurstStart_keeps (h.imp_right fun h => h.imp_right .inl)
end

section
/-! SUPPORT. Carrier periods, trip inputs, overcurrent, the end of blanking and of a follow (13_motor_drive R354 to R358, R366 to R372): one lemma for each outcome. -/

namespace Sys2Proof.Machine

section
variable {s : State}

/-! ### Carrier periods (R354 to R358) -/

theorem exec_carrierPeriod_off (h6 : s.domainOn 6 = false) (axes : List AxisSample) (coil : Int) (vbus : Nat) : exec (.carrierPeriod axes coil vbus) s = .next s := if_pos h6

/-! ### Trips (R366 to R369) -/

theorem trip_latched {u : MUnit} (h : s.latched u = true) (cause : Nat) (r : Option ErrRec) : s.trip u cause r = s := if_pos h

theorem exec_tripInput_level {w : Option Nat} {b : Bool} (h : s.domainOn 6 = false ∨ b = true) (u : MUnit) : exec (.tripInput u w b) s = .next (s.setPin u w.isNone) := if_pos h

theorem exec_blankingEnd_off (h6 : s.domainOn 6 = false) (u : MUnit) : exec (.blankingEnd u) s = .next s := if_neg (by simp [h6])

theorem exec_overcurrent_off (h6 : s.domainOn 6 = false) (u : MUnit) : exec (.overcurrent u) s = .next s := if_neg (by simp [h6])

section
variable (h6 : s.domainOn 6 = true) (u : MUnit)
include h6

theorem exec_carrierPeriod_on (a b c : AxisSample) (coil : Int) (vbus : Nat) : exec (.carrierPeriod [a, b, c] coil vbus) s = .next (s.ckmBack.carrier [a, b, c] coil vbus) :=
  if_neg (ne_false_of_eq_true h6)

/-- Outside blanking the input is watched: a low level trips, a pulse as it acts. -/
theorem exec_tripInput_watched (w : Option Nat) :
    exec (.tripInput u w false) s = match w with
      | none => .next ((s.setPin u true).trip u 1 (some (inputRec u)))
      | some w => if pulseActs s.freeCtr w = true then .next ((s.setPin u false).draw.trip u 1 (some (inputRec u))) else .next (s.setPin u false).draw := by
  have hon : ¬(s.domainOn 6 = false ∨ false = true) := by simp [h6]
  change execTripInput u w false s = _
  unfold execTripInput
  dsimp only
  rw [if_neg hon]
  cases w <;> rfl

theorem exec_tripInput_stays : exec (.tripInput u none false) s = .next ((s.setPin u true).trip u 1 (some (inputRec u))) := exec_tripInput_watched h6 u none

theorem exec_tripInput_long {w : Nat} (hw : 50 ≤ w) : exec (.tripInput u (some w) false) s = .next ((s.setPin u false).draw.trip u 1 (some (inputRec u))) := by
  have hacts : pulseActs s.freeCtr w = true := by
    unfold pulseActs
    rw [if_neg (by omega), if_pos hw]
  exact (exec_tripInput_watched h6 u _).trans (if_pos hacts)

theorem exec_tripInput_short {w : Nat} (hw : w < 20) : exec (.tripInput u (some w) false) s = .next (s.setPin u false).draw := by
  have hacts : pulseActs s.freeCtr w = false := if_pos hw
  exact (exec_tripInput_watched h6 u _).trans (if_neg (ne_true_of_eq_false hacts))

/-- Between 20 and 49 ns it is as the part chooses (log entry 32). -/
theorem exec_tripInput_between {w : Nat} (hl : 20 ≤ w) (hh : w < 50) :
    exec (.tripInput u (some w) false) s =
      .next (if Config.shortTrip s.freeCtr then (s.setPin u false).draw.trip u 1 (some (inputRec u)) else (s.setPin u false).draw) := by
  have hacts : pulseActs s.freeCtr w = Config.shortTrip s.freeCtr := by
    unfold pulseActs
    rw [if_neg (by omega), if_neg (by omega)]
  refine (exec_tripInput_watched h6 u _).trans ?_
  dsimp only
  rw [hacts, apply_ite Host.Outcome.next]

theorem exec_blankingEnd_on : exec (.blankingEnd u) s = .next (if s.pinLow u then s.trip u 1 (some (inputRec u)) else s) := by
  change execBlankingEnd u s = _
  unfold execBlankingEnd
  rw [apply_ite Host.Outcome.next]
  simp only [h6, true_and]

theorem exec_overcurrent_on : exec (.overcurrent u) s = .next (if s.unitOn u then s.trip u 2 (some (overcurRec u)) else s) := by
  change execOvercurrent u s = _
  unfold execOvercurrent
  rw [apply_ite Host.Outcome.next]
  simp only [h6, true_and]

end

/-! ### The end of a follow (R368) -/

theorem exec_followEnd_ends {u : MUnit} (hu : unitBit u < 2) (hm : s.axMode (unitBit u) = 6) (hs : s.mdr.start = none) :
    exec (.followEnd u) s = .next (((s.gatesOff (unitBit u)).setF F.SRV_SPD_MMS 0).srvOff).refreshMot := if_pos ⟨hu, hm, hs⟩

theorem exec_followEnd_keeps {u : MUnit} (h : 2 ≤ unitBit u ∨ s.axMode (unitBit u) ≠ 6 ∨ s.mdr.start ≠ none) : exec (.followEnd u) s = .next s := by
  refine if_neg ?_
  rintro ⟨hu, hm, hs⟩
  obtain h | h | h := h
  · omega
  · exact h hm
  · exact h hs

end

end Sys2Proof.Machine

open Sys2Proof.Machine in
/-- Settles O39: one lemma for each outcome; a watched pulse by its width. -/
theorem carriersAndTrips : Obligations.CarriersAndTrips := by
  refine ⟨?carrier, fun s axes coil vbus h6 => exec_carrierPeriod_off h6 axes coil vbus,
    fun s u h6 => ⟨exec_tripInput_stays h6 u, fun w => exec_tripInput_long h6 u, fun w => exec_tripInput_short h6 u, fun w => exec_tripInput_between h6 u, exec_blankingEnd_on h6 u,
      exec_overcurrent_on h6 u⟩,
    fun s u w => exec_tripInput_level (.inr rfl) u, fun s u w b h6 => ⟨exec_tripInput_level (.inl h6) u, exec_blankingEnd_off h6 u, exec_overcurrent_off h6 u⟩,
    fun s u cause r h => trip_latched h cause r, fun s u => exec_followEnd_ends, fun s u => exec_followEnd_keeps⟩
  case carrier =>
    intro s u v a b c coil vbus h6 hu hv
    rw [exec_carrierPeriod_on h6, hv, hu]
    rfl
end

section
/-! SUPPORT. The fan (13_motor_drive R363, R364): its evaluation, a stall and a restart, one lemma for each outcome. -/

namespace Sys2Proof.Machine

section
variable {s : State}

theorem exec_fanCurveEval_off (h6 : s.domainOn 6 = false) (die ext : Int) : exec (.fanCurveEval die ext) s = .next s := if_pos h6

theorem exec_fanCurveEval_on (h6 : s.domainOn 6 = true) {die ext : Int} {u : State} (hu : u = (s.setF F.MDR_MEAS_DIE (toField 8 die)).setF F.MDR_MEAS_EXT (toField 8 ext)) :
    exec (.fanCurveEval die ext) s = .next ((u.overTemp (max die ext)).fanStep (max die ext)) := by
  subst hu
  exact if_neg (ne_false_of_eq_true h6)

theorem exec_fanStall_stalls (h6 : s.domainOn 6 = true) (hm : s.axMode 2 = 3) (ho : s.bit (F.MDR_ASTAT_OBSOK 2) = true) : exec .fanStall s = .next s.fanStall := if_pos ⟨h6, hm, ho⟩

theorem exec_fanStall_keeps (h : s.domainOn 6 = false ∨ s.axMode 2 ≠ 3 ∨ s.bit (F.MDR_ASTAT_OBSOK 2) = false) : exec .fanStall s = .next s := by
  refine if_neg ?_
  rintro ⟨h6, hm, ho⟩
  simp [h6, hm, ho] at h

theorem exec_fanRestart_starts (h6 : s.domainOn 6 = true) (hs : s.mdr.stalled = true) (hn : s.mdr.stalls < 3) (hl : s.latched .fan = false) (t : Turning) :
    exec (.fanRestart t) s = .next (((s.startAxis 2).setFan 0 s.mdr.stalls false).fanTurn t) := if_pos ⟨h6, hs, hn, hl⟩

theorem exec_fanRestart_keeps (h : s.domainOn 6 = false ∨ s.mdr.stalled = false ∨ 3 ≤ s.mdr.stalls ∨ s.latched .fan = true) (t : Turning) : exec (.fanRestart t) s = .next s := by
  refine if_neg ?_
  rintro ⟨h6, hs, hn, hl⟩
  obtain h | h | h | h := h
  · exact ne_false_of_eq_true h6 h
  · exact ne_false_of_eq_true hs h
  · omega
  · exact ne_true_of_eq_false hl h

end

end Sys2Proof.Machine

open Sys2Proof.Machine in
/-- Settles O43: one lemma for each outcome. -/
theorem fanActs : Obligations.FanActs :=
  ⟨fun _ _ _ _ h6 hu => exec_fanCurveEval_on h6 hu, fun _ die ext t h6 => ⟨exec_fanCurveEval_off h6 die ext, exec_fanStall_keeps (.inl h6), exec_fanRestart_keeps (.inl h6) t⟩,
    fun _ => exec_fanStall_stalls, fun _ h => exec_fanStall_keeps (.inr h), fun _ t h6 hs hn hl => exec_fanRestart_starts h6 hs hn hl t, fun _ t h => exec_fanRestart_keeps (.inr h) t⟩
end

section
/-! SUPPORT. Requests of a power state while an entry or an exit is in progress (03_command_reference R89; 15_power R408), and requests of the present state. -/

namespace Sys2Proof.Machine

section
variable {s : State}

theorem exec_power_busy {ln : Ln} (h : s.serves ln .operate) (hb : s.pwrBusy = true) (p : Pwr) : exec (.power (.line ln) p) s = .next (s.reply ln [] (.er .pwrbusy [])).exitNow := by
  change execPower (.line ln) p s = _
  unfold execPower
  dsimp only
  rw [if_pos hb, verb_er h]

section
variable (ho : s.pfOpen .pf = true) {v : Word}
include ho

theorem exec_power_pf (p : Pwr) : exec (.power (.pf v) p) s = .next (s.settleWrite .pf (s.wPwrctl v)).exitNow := if_neg (ne_false_of_eq_true ho)

variable (hk : getBits v.toNat 16 16 = 0x4C59) {p : Pwr} (hp : pwrOf (getBits v.toNat 0 3) = some p)
include hk hp

theorem exec_power_pfBusy (hb : s.pwrBusy = true) : exec (.power (.pf v) p) s = .next (s.log { errRec .pwrbusy .pwr [] with src := .pf }).exitNow := by
  have hw : s.wPwrctl v = .refuse .pwrbusy (some { errRec .pwrbusy .pwr [] with src := .pf }) := by
    unfold State.wPwrctl
    rw [if_neg (not_not.mpr hk), hp]
    exact if_pos hb
  rw [exec_power_pf ho, hw]
  rfl

theorem exec_power_pfSame (hb : s.pwrBusy = false) (hs : p = s.pwr) : exec (.power (.pf v) p) s = .next s.exitNow := by
  have hw : s.wPwrctl v = .ok s := by
    unfold State.wPwrctl
    rw [if_neg (not_not.mpr hk), hp]
    exact (if_neg (ne_true_of_eq_false hb)).trans (if_pos hs)
  rw [exec_power_pf ho, hw]
  rfl

end

/-- Where no exit has been asked for, none begins. -/
theorem exitNow_idle (hb : s.pwrBusy = false) : s.exitNow = s := by
  have hl : s.pw.leave = none := by
    simp only [State.pwrBusy, Bool.or_eq_false_iff] at hb
    exact Option.isNone_iff_eq_none.mp (Option.isSome_eq_false_iff.mp hb.1.2)
  unfold State.exitNow
  rw [hl]

end

end Sys2Proof.Machine

open Sys2Proof.Machine in
/-- Settles O15: one lemma for each outcome. -/
theorem busyPowerRequestRefused : Obligations.BusyPowerRequestRefused :=
  ⟨fun _ _ p h hb => ⟨exec_power_busy h hb p, rfl⟩, fun _ _ _ ho hk hp hb => exec_power_pfBusy ho hk hp hb, fun _ _ ho hk hp hb => ⟨exec_power_pfSame ho hk hp hb rfl, exitNow_idle hb⟩⟩
end

section
/-! SUPPORT. The ERR log is cleared by the verb and by the register (17_errors R470, R480). -/

namespace Sys2Proof.Machine

section
variable {s : State}

/-- A clear leaves the newest records, those of its own tick (log entry 73). -/
theorem clearLog_ofTick {k : Nat} (hk : k = (match s.err.fresh with | some m => (s.err.next + 2 ^ 32 - m) % 2 ^ 32 | none => 0)) :
    s.clearLog = { s with err := { s.err with recs := s.err.recs.take k, wrap := false } } := by
  subst hk
  unfold State.clearLog ErrLog.ofTick
  cases s.err.fresh <;> rfl

/-- Outside a tick it leaves none. -/
theorem clearLog_noTick (hf : s.err.fresh = none) : s.clearLog = { s with err := { s.err with recs := [], wrap := false } } := by
  have hk : (0 : Nat) = (match s.err.fresh with | some m => (s.err.next + 2 ^ 32 - m) % 2 ^ 32 | none => 0) := by rw [hf]
  exact clearLog_ofTick hk

theorem exec_errClear {ln : Ln} (h : s.serves ln .service) : exec (.errClear ln) s = .next (s.clearLog.reply ln [] (.ok [⟨"CLEARED", .num s.err.recs.length⟩])) := next_verb_ok h rfl

section
variable {src : Src} {v : Word} (hm : s.mayWrite src)
include hm

theorem exec_errCtlClear_clears (hk : getBits v.toNat 16 16 = 0x4C59) (hc : getBits v.toNat 0 1 = 1) : exec (.errCtlClear src v) s = .next s.clearLog :=
  (pfRow_open hm).trans (if_pos ⟨hk, hc⟩)

theorem exec_errCtlClear_keeps (h : getBits v.toNat 16 16 ≠ 0x4C59 ∨ getBits v.toNat 0 1 ≠ 1) : exec (.errCtlClear src v) s = .next s :=
  (pfRow_open hm).trans (if_neg (not_and_or.mpr h))

end

end

end Sys2Proof.Machine

open Sys2Proof.Machine in
/-- Settles O4: the verb and the register clear alike, by what a clear leaves. -/
theorem errLogIsCleared : Obligations.ErrLogIsCleared := by
  refine ⟨fun s ln k h hk => ?verb, fun s ln h hf => ?noTick, fun s src v k hm hkey hc hk => ?register, fun _ _ _ hm => exec_errCtlClear_keeps hm⟩
  case verb => rw [exec_errClear h, clearLog_ofTick hk]
  case noTick => rw [exec_errClear h, clearLog_noTick hf]
  case register => rw [exec_errCtlClear_clears hm hkey hc, clearLog_ofTick hk]
end

section
open Sys2Proof.Machine in
/-- Settles O57: the queue's front is executed on the state with the rest, and an empty queue is the other case of `step`. -/
theorem stepRunsTheFrontCommand : Obligations.StepRunsTheFrontCommand := by
  refine ⟨fun c s rest => rfl, fun s hq => ?idle⟩
  case idle =>
    unfold step
    rw [hq]
end

section
/-! SUPPORT. Cascade ports (16_xasen R425, R431 to R434, R450): training, going down, retries and received frames, one lemma for each outcome. -/

namespace Sys2Proof.Machine

section
variable {s : State} {p : PortNo}

/-! ### Training (R425) -/

theorem exec_portTrained_keeps (h : s.domainOn 9 = false ∨ s.getF (F.XLK_PSTAT_STATE p.val) = 2) (pr : PortNo) (pm : Bool) : exec (.portTrained p pr pm) s = .next s := if_pos h

section
variable (h9 : s.domainOn 9 = true) (hst : s.getF (F.XLK_PSTAT_STATE p.val) ≠ 2)
include h9 hst

/-- A port with D9 on that is not UP: what the two roles, and a strapped master at either end, make of it. -/
theorem exec_portTrained_trains (pr : PortNo) (pm : Bool) :
    exec (.portTrained p pr pm) s =
      if (p.val == 0) = (pr.val == 0) then .next (s.clash p .role .portrole)
      else if p.val = 0 ∧ s.isMaster = true then .next (s.clash p .twomaster .twomaster)
      else if pr.val = 0 ∧ pm = true then .next (s.setF (F.XLK_PSTAT_STATE p.val) 1)
      else .next (if p.val = 0 then ((s.clkBack .ckx).setF (F.XLK_PSTAT_STATE p.val) 2).setXp p XPort.reset
        else (((s.clkBack .ckx).setF (F.XLK_PSTAT_STATE p.val) 2).setXp p XPort.reset).linkUpEvent p) := by
  have hgo : ¬(s.domainOn 9 = false ∨ s.getF (F.XLK_PSTAT_STATE p.val) = 2) := by simp [h9, hst]
  change execPortTrained p pr pm s = _
  unfold execPortTrained
  dsimp only
  rw [if_neg hgo]
  simp only [beq_iff_eq]

variable {pr : PortNo} {pm : Bool}

theorem exec_portTrained_sameRole (hr : (p.val == 0) = (pr.val == 0)) : exec (.portTrained p pr pm) s = .next (s.clash p .role .portrole) := by
  rw [exec_portTrained_trains h9 hst, if_pos hr]

section
variable (hp : p.val = 0) (hpr : pr.val ≠ 0)
include hp hpr

theorem exec_portTrained_twoMasters (hm : s.isMaster = true) : exec (.portTrained p pr pm) s = .next (s.clash p .twomaster .twomaster) := by
  rw [exec_portTrained_trains h9 hst, if_neg (by simp [hp, hpr]), if_pos ⟨hp, hm⟩]

theorem exec_portTrained_upstream (hm : s.isMaster = false) :
    exec (.portTrained p pr pm) s = .next (((s.clkBack .ckx).setF (F.XLK_PSTAT_STATE 0) 2).setXp p XPort.reset) := by
  rw [exec_portTrained_trains h9 hst, if_neg (by simp [hp, hpr]), if_neg (by simp [hm]), if_neg (by simp [hpr]), if_pos hp, hp]

end

section
variable (hp : p.val ≠ 0) (hpr : pr.val = 0)
include hp hpr

theorem exec_portTrained_belowMaster (hm : pm = true) : exec (.portTrained p pr pm) s = .next (s.setF (F.XLK_PSTAT_STATE p.val) 1) := by
  rw [exec_portTrained_trains h9 hst, if_neg (by simp [hp, hpr]), if_neg (by simp [hp]), if_pos ⟨hpr, hm⟩]

theorem exec_portTrained_downstream (hm : pm = false) :
    exec (.portTrained p pr pm) s = .next ((((s.clkBack .ckx).setF (F.XLK_PSTAT_STATE p.val) 2).setXp p XPort.reset).linkUpEvent p) := by
  rw [exec_portTrained_trains h9 hst, if_neg (by simp [hp, hpr]), if_neg (by simp [hp]), if_neg (by simp [hm]), if_neg hp]

end

end

/-! ### Bursts, going down, idle frames (R425, R431, R434, R450) -/

theorem exec_trainingBurst (s : State) (p : PortNo) :
    exec (.trainingBurst p) s = .next (if s.domainOn 9 = true ∧ s.getF (F.XLK_PSTAT_STATE p.val) = 0 then s.emit (.training p) else s) := (apply_ite Host.Outcome.next _ _ _).symm

theorem exec_portDown (s : State) (p : PortNo) (r : DownReason) : exec (.portDown p r) s = .next (if s.domainOn 9 = true then s.portDown p r else s) := by
  cases h9 : s.domainOn 9 with
  | false => exact if_pos h9
  | true => exact if_neg (ne_false_of_eq_true h9)

theorem exec_parkOrderedSet (s : State) (p : PortNo) : exec (.parkOrderedSet p) s = .next (if s.linkUp p then s.portDown p .sleep else s) := (apply_ite Host.Outcome.next _ _ _).symm

theorem exec_linkIdleSend (s : State) (p : PortNo) : exec (.linkIdleSend p) s = .next (if s.linkUp p then s.idle p false else s) := (apply_ite Host.Outcome.next _ _ _).symm

/-! ### Retries (R431, R434) -/

theorem exec_linkRetry_keeps (h : s.linkUp p = false ∨ (s.xp p).replay.any (fun y => y.out) = false) : exec (.linkRetry p) s = .next s := congrArg Host.Outcome.next (if_pos h)

section
variable (hu : s.linkUp p = true) (ho : (s.xp p).replay.any (fun y => y.out) = true)
include hu ho

/-- What is unacknowledged is resent, unless a frame has failed its fourth resend. -/
theorem retry_outstanding :
    s.retry p =
      if (s.xp p).replay.any (fun y => y.out && decide (4 ≤ y.resent)) = true then s.portDown p .retry
      else (((s.count (F.XLK_PCNT_RETRY p.val) 1).noteRetries (s.xp p).replay).setXp p { s.xp p with replay := (s.xp p).replay.map Sent.again }).pushPort p :=
  if_neg (by simp only [hu, ho, Bool.true_eq_false, or_self, not_false_eq_true])

theorem exec_linkRetry_fails (hf : (s.xp p).replay.any (fun y => y.out && decide (4 ≤ y.resent)) = true) : exec (.linkRetry p) s = .next (s.portDown p .retry) :=
  congrArg Host.Outcome.next ((retry_outstanding hu ho).trans (if_pos hf))

theorem exec_linkRetry_resends (hf : (s.xp p).replay.any (fun y => y.out && decide (4 ≤ y.resent)) = false) :
    exec (.linkRetry p) s =
      .next ((((s.count (F.XLK_PCNT_RETRY p.val) 1).noteRetries (s.xp p).replay).setXp p { s.xp p with replay := (s.xp p).replay.map Sent.again }).pushPort p) :=
  congrArg Host.Outcome.next ((retry_outstanding hu ho).trans (if_neg (ne_true_of_eq_false hf)))

end

/-! ### Received frames (R433) -/

section
variable {h : LinkHdr}

theorem exec_linkFrameReceived_down (hu : s.linkUp p = false) : exec (.linkFrameReceived p h) s = .next s := if_pos hu

variable (hu : s.linkUp p = true)
include hu

theorem exec_linkFrameReceived_bad (hok : h.ok = false) :
    exec (.linkFrameReceived p h) s =
      .next (((s.count (F.XLK_PCNT_CRCERR p.val) 1).setXp p { s.xp p with given := ((s.xp p).given + frameCredits (linkFrame h)) % 256 }).idle p true) :=
  (if_neg (ne_false_of_eq_true hu)).trans (if_pos hok)

theorem exec_linkFrameReceived_good (hok : h.ok = true) {u : State} (hs : u = (if (linkFrame h).nak then (s.takeAck p (linkFrame h)).retry p else s.takeAck p (linkFrame h))) :
    exec (.linkFrameReceived p h) s = .next (if u.linkUp p = false ∨ (linkFrame h).ty = 0 then u else u.takeFrame p (linkFrame h) h.len) := by
  rw [apply_ite Host.Outcome.next, hs]
  exact (if_neg (ne_false_of_eq_true hu)).trans (if_neg (ne_false_of_eq_true hok))

end

end

end Sys2Proof.Machine

open Sys2Proof.Machine in
/-- Settles O49: one lemma for each outcome. -/
theorem portsTrainAndCarryFrames : Obligations.PortsTrainAndCarryFrames :=
  ⟨fun _ _ _ _ h9 hst => ⟨exec_portTrained_sameRole h9 hst, exec_portTrained_twoMasters h9 hst, exec_portTrained_belowMaster h9 hst, exec_portTrained_upstream h9 hst,
      exec_portTrained_downstream h9 hst⟩,
    fun _ _ pr pm h => exec_portTrained_keeps h pr pm, exec_trainingBurst, exec_portDown, exec_parkOrderedSet, fun _ _ hu ho => ⟨exec_linkRetry_fails hu ho, exec_linkRetry_resends hu ho⟩,
    fun _ _ => exec_linkRetry_keeps, exec_linkIdleSend, fun _ _ _ => exec_linkFrameReceived_down, fun _ _ _ => exec_linkFrameReceived_bad,
    fun _ _ _ _ hu hok hs => exec_linkFrameReceived_good hu hok hs⟩
end

section
/-! SUPPORT. The census sweep, time frames and events (16_xasen R437 to R443, R448, R463): one lemma for each outcome. -/

namespace Sys2Proof.Machine

section
variable {s : State}

/-! ### The sweep (R437 to R441) -/

theorem exec_censusAutoStart (s : State) :
    exec .censusAutoStart s =
      .next (if s.isMaster = true ∧ s.bit F.XLK_CFG_AUTOSWEEP = true ∧ s.xlk.due = true ∧ s.domainOn 9 = true ∧ s.xlk.sweep.isSome = false then s.startSweep else s) := by
  by_cases hd : s.isMaster = true ∧ s.bit F.XLK_CFG_AUTOSWEEP = true ∧ s.xlk.due = true ∧ s.domainOn 9 = true
  · have hexec : exec .censusAutoStart s = .next (if s.xlk.sweep.isSome then s else s.startSweep) := if_pos hd
    obtain ⟨hm, ha, hdue, h9⟩ := hd
    rw [hexec]
    cases hw : s.xlk.sweep.isSome with
    | true => simp
    | false => simp [hm, ha, hdue, h9]
  · have hexec : exec .censusAutoStart s = .next s := if_neg hd
    rw [hexec, if_neg (fun ⟨hm, ha, hdue, h9, _⟩ => hd ⟨hm, ha, hdue, h9⟩)]

section
variable {id : BitVec 32} {no : BitVec 16} {d : Byte} {path : Word}

theorem exec_creqReceived_keeps (h : s.linkUp 0 = false ∨ s.isMaster = true) : exec (.creqReceived id no d path) s = .next s := if_pos h

section
variable (hu : s.linkUp 0 = true) (hm : s.isMaster = false)
include hu hm

theorem creqReceived_takes : ¬(s.linkUp 0 = false ∨ s.isMaster = true) := by simp [hu, hm]

theorem exec_creqReceived_beyond (h : 65536 ≤ id.toNat ∨ 63 < d.toNat) :
    exec (.creqReceived id no d path) s = .next ((s.setF F.XLK_STAT_STALE 1).sendHop 0 tCRSP (crspBytes 0 none true false s.boot.fuses.uid)) :=
  (if_neg (creqReceived_takes hu hm)).trans (if_pos h)

theorem exec_creqReceived_walks (hid : id.toNat < 65536) (hd : d.toNat ≤ 63) :
    exec (.creqReceived id no d path) s =
      .next ((s.setF F.XLK_STAT_SWEEP 1).stepSweep
        ⟨no.toNat, id.toNat, d.toNat, path.toNat + s.getF (F.XLK_PSTAT_HOPDLY 0), s.upDown, s.upDown, none, [], none, false, false⟩) :=
  (if_neg (creqReceived_takes hu hm)).trans (if_neg (by omega))

end

end

section
variable {p : PortNo} {n bn : Word} {bp : Byte} {b l g : Bool} {uid : DWord}

theorem exec_crspReceived_unawaited (h : ∀ w, s.xlk.sweep = some w → w.at' ≠ some p.val) : exec (.crspReceived p n bn bp b l g uid) s = .next s := by
  change execCrspReceived p n bn bp b l g uid s = _
  unfold execCrspReceived
  cases hw : s.xlk.sweep with
  | none => rfl
  | some w => exact if_pos (h w hw)

theorem exec_crspReceived_awaited {w : Sweep} (hw : s.xlk.sweep = some w) (hp : w.at' = some p.val) :
    exec (.crspReceived p n bn bp b l g uid) s = .next (s.stepSweep { w with
      at' := none, kids := if n = 0#32 then w.kids else w.kids ++ [⟨p.val - 1, w.id + w.count, n.toNat, uid⟩]
      limit := w.limit || l, long := w.long || g, brk := if b then w.brk.or (some (bn.toNat, bp.toNat)) else w.brk }) := by
  change execCrspReceived p n bn bp b l g uid s = _
  unfold execCrspReceived
  rw [hw]
  exact if_neg (not_not.mpr hp)

end

/-! ### Hop delays (R439) -/

section
variable {p : PortNo} {ds : List (Nat × Nat)}

theorem exec_probeExchange_down (hu : s.linkUp p = false) : exec (.probeExchange p ds) s = .next s := if_pos hu

section
variable (hu : s.linkUp p = true) (hl : ds.length = 16) {hop : Nat} (hh : hop = (roundQ (((ds.map (fun r => (r.1 : Int) - r.2)).sum : Int) / (32 : Rat))).toNat) {u : State}
  (hs : u = s.setF (F.XLK_PSTAT_HOPDLY p.val) (min 65535 hop))
include hu hl hh hs

/-- Sixteen exchanges set the port's hop delay; a sweep that waits for it goes on (R439). -/
theorem exec_probeExchange_sixteen :
    exec (.probeExchange p ds) s = match s.xlk.sweep with
      | none => .next u
      | some w =>
        if w.probe.contains p.val = false then .next u
        else .next ((if hopMax < hop then u.log (errRec .longhop .xlk [⟨"PORT", .word (portText p.val)⟩, ⟨"DLY", .num (hop / 16)⟩]) else u).stepSweep
          { w with probe := w.probe.filter (fun x => x != p.val), long := w.long || decide (hopMax < hop) }) := by
  have hhop : hopDelay ds = hop := by
    unfold hopDelay
    rw [hh, hl]
    norm_num
  change execProbeExchange p ds s = _
  unfold execProbeExchange
  dsimp only
  rw [if_neg (ne_false_of_eq_true hu), hhop, ← hs]
  have hsweep : u.xlk.sweep = s.xlk.sweep := by rw [hs, setF_xlk]
  rw [hsweep]
  cases s.xlk.sweep with
  | none => rfl
  | some w =>
    dsimp only
    simp only [decide_eq_true_eq]

theorem exec_probeExchange_alone (hn : ∀ w, s.xlk.sweep = some w → w.probe.contains p.val = false) : exec (.probeExchange p ds) s = .next u := by
  rw [exec_probeExchange_sixteen hu hl hh hs]
  cases hw : s.xlk.sweep with
  | none => rfl
  | some w => exact if_pos (hn w hw)

section
variable {w : Sweep} (hw : s.xlk.sweep = some w) (hp : w.probe.contains p.val = true)
include hw hp

theorem exec_probeExchange_short (hshort : hop ≤ 1920) : exec (.probeExchange p ds) s = .next (u.stepSweep { w with probe := w.probe.filter (fun x => x != p.val) }) := by
  have hnot : ¬hopMax < hop := Nat.not_lt.mpr hshort
  rw [exec_probeExchange_sixteen hu hl hh hs, hw]
  dsimp only
  rw [if_neg (ne_false_of_eq_true hp), if_neg hnot, decide_eq_false hnot, Bool.or_false]

theorem exec_probeExchange_long (hlong : 1920 < hop) :
    exec (.probeExchange p ds) s =
      .next ((u.log (errRec .longhop .xlk [⟨"PORT", .word (portText p.val)⟩, ⟨"DLY", .num (hop / 16)⟩])).stepSweep
        { w with probe := w.probe.filter (fun x => x != p.val), long := true }) := by
  have hover : hopMax < hop := hlong
  rw [exec_probeExchange_sixteen hu hl hh hs, hw]
  dsimp only
  rw [if_neg (ne_false_of_eq_true hp), if_pos hover, decide_eq_true hover, Bool.or_true]

end

end

end

/-! ### COMMIT (R441) -/

section
variable {no : BitVec 16}

theorem exec_commitReceived_keeps (h : s.isMaster = true ∨ ∀ v, s.xlk.prov = some v → v.no ≠ no.toNat) : exec (.commitReceived no) s = .next s := by
  change execCommitReceived no s = _
  unfold execCommitReceived
  cases hv : s.xlk.prov with
  | none => rfl
  | some v => exact if_pos (h.symm.imp_left fun h => h v hv)

/-- A node takes what its provisional sweep has found (R436, R441). -/
def State.adopts (s : State) (v : Prov) : State :=
  ((((((({ s with xlk := { s.xlk with prov := none, epoch := v.no % 256 } } : State).setF F.XLK_STAT_NODE v.id).setF F.XLK_STAT_IDVALID 1).setF F.XLK_STAT_DEPTH v.depth).setRanges v.kids).setF
    F.XLK_STAT_STALE 0).setF F.XLK_STAT_SWEEP 0)

theorem exec_commitReceived_adopts (hm : s.isMaster = false) {v : Prov} (hv : s.xlk.prov = some v) (hn : v.no = no.toNat) :
    exec (.commitReceived no) s =
      .next (if s.nodeId ≠ v.id ∨ s.bit F.XLK_STAT_IDVALID = false then (((s.adopts v).cause 6).eventAll "CENSUS" [⟨"NODE", .num v.id⟩]).rejoinAll else (s.adopts v).rejoinAll) := by
  have hgo : ¬(v.no ≠ no.toNat ∨ s.isMaster = true) := by simp [hm, hn]
  rw [← apply_ite State.rejoinAll]
  change execCommitReceived no s = _
  unfold execCommitReceived
  rw [hv]
  exact if_neg hgo

end

/-! ### TIME frames (R443) -/

theorem exec_timeFrameSend_sends (hm : s.isMaster = true) (ht : s.bit F.XLK_CFG_TIMEEN = true) (h9 : s.domainOn 9 = true) :
    exec .timeFrameSend s = .next (({ s with xlk := { s.xlk with timeCount := (s.xlk.timeCount + 1) % 2 ^ 32 } } : State).sendDown
      { s.frame tTIME 0 0 (beBytes 8 s.now ++ beBytes 4 0 ++ beBytes 4 s.xlk.timeCount) with bcast := true }) := if_pos ⟨hm, ht, h9⟩

theorem exec_timeFrameSend_keeps (h : s.isMaster = false ∨ s.bit F.XLK_CFG_TIMEEN = false ∨ s.domainOn 9 = false) : exec .timeFrameSend s = .next s := by
  refine if_neg ?_
  rintro ⟨hm, ht, h9⟩
  simp [hm, ht, h9] at h

section
variable {p : PortNo} {t : DWord} {c n r : Word}

theorem exec_timeFrameReceived_down (hu : s.linkUp p = false) : exec (.timeFrameReceived p t c n r) s = .next s := if_pos hu

section
variable (hu : s.linkUp p = true) {u : State}
  (hs : u = s.sendDown { s.frame tTIME 0 0 (beBytes 8 t.toNat ++ beBytes 4 (c.toNat + s.getF (F.XLK_PSTAT_HOPDLY p.val) + r.toNat) ++ beBytes 4 n.toNat) with bcast := true })
include hu hs

theorem exec_timeFrameReceived_passes (h : u.bit F.ETH_TCFG_SRC = false ∨ u.isMaster = true) : exec (.timeFrameReceived p t c n r) s = .next u := by
  have hno : ¬(u.bit F.ETH_TCFG_SRC = true ∧ u.isMaster = false) := by
    rintro ⟨hsrc, hm⟩
    simp [hsrc, hm] at h
  change execTimeFrameReceived p t c n r s = _
  unfold execTimeFrameReceived
  dsimp only
  rw [if_neg (ne_false_of_eq_true hu), ← hs, if_neg hno]

theorem exec_timeFrameReceived_steers (hsrc : u.bit F.ETH_TCFG_SRC = true) (hm : u.isMaster = false) {off : Int}
    (ho : off = (u.eth.ns : Int) - (t.toNat + roundQ (((c.toNat + s.getF (F.XLK_PSTAT_HOPDLY p.val) : Nat)) / (16 : Rat)))) :
    exec (.timeFrameReceived p t c n r) s = .next ((u.setF F.ETH_TOFS_OFFSET (BitVec.ofInt 32 (satOffset off)).toNat).steer off) := by
  change execTimeFrameReceived p t c n r s = _
  unfold execTimeFrameReceived
  dsimp only
  rw [if_neg (ne_false_of_eq_true hu), ← hs, if_pos ⟨hsrc, hm⟩, ← ho]

end

end

/-! ### Events at the master (R448, R463) -/

section
variable {n : BitVec 16} {k p r : Byte}

theorem exec_evtReceived_elsewhere (hm : s.isMaster = false) : exec (.evtReceived n k p r) s = .next s := if_pos hm

section
variable (hm : s.isMaster = true)
include hm

theorem exec_evtReceived_break :
    exec (.evtReceived n 1#8 p r) s = .next (((s.markStale (s.cutOff n.toNat p.toNat)).breakEvent n.toNat p.toNat r.toNat (s.cutOff n.toNat p.toNat).length).evalGroups) :=
  if_neg (ne_false_of_eq_true hm)

theorem exec_evtReceived_linkUp : exec (.evtReceived n 2#8 p r) s = .next (({ s with xlk := { s.xlk with due := true } } : State).cause 6) :=
  if_neg (ne_false_of_eq_true hm)

theorem exec_evtReceived_other (h1 : k ≠ 1#8) (h2 : k ≠ 2#8) : exec (.evtReceived n k p r) s = .next s :=
  (if_neg (ne_false_of_eq_true hm)).trans ((if_neg h1).trans (if_neg h2))

end

end

end

end Sys2Proof.Machine

open Sys2Proof.Machine in
/-- Settles O50: one lemma for each outcome. -/
theorem sweepsAndTimeAct : Obligations.SweepsAndTimeAct := by
  refine ⟨exec_censusAutoStart, fun _ _ _ _ _ hu hm => ⟨exec_creqReceived_beyond hu hm, exec_creqReceived_walks hu hm⟩, fun _ _ _ _ _ => exec_creqReceived_keeps,
    fun _ _ _ _ _ _ _ _ _ => exec_crspReceived_unawaited, fun _ _ _ _ _ _ _ _ _ _ => exec_crspReceived_awaited,
    fun _ _ _ _ _ hu hl hh hs => ⟨exec_probeExchange_alone hu hl hh hs, fun _ => exec_probeExchange_short hu hl hh hs, fun _ => exec_probeExchange_long hu hl hh hs⟩,
    fun _ _ _ => exec_probeExchange_down, fun _ _ => exec_commitReceived_keeps, ?commits, fun _ => exec_timeFrameSend_sends, fun _ => exec_timeFrameSend_keeps,
    fun _ _ _ _ _ _ _ hu hs => ⟨exec_timeFrameReceived_passes hu hs, fun _ hsrc hm ho => exec_timeFrameReceived_steers hu hs hsrc hm ho⟩,
    fun _ _ _ _ _ _ => exec_timeFrameReceived_down, fun _ _ _ _ _ hm => ⟨exec_evtReceived_break hm, exec_evtReceived_linkUp hm, exec_evtReceived_other hm⟩,
    fun _ _ _ _ _ => exec_evtReceived_elsewhere⟩
  case commits =>
    intro s u no v hm hv hn hu
    change u = s.adopts v at hu
    rw [exec_commitReceived_adopts hm hv hn, hu]
end

section
/-! SUPPORT. Stripe groups and Tank loans (16_xasen R451 to R461, R466): one lemma for each outcome. -/

namespace Sys2Proof.Machine

section
variable {s : State}

/-! ### XLK.SGCFG (R466) -/

section
variable {src : Src} {g : Fin 4} {v : Word}

theorem exec_stripeGroupEnable (hm : s.mayWrite src) : exec (.stripeGroupEnable src g v) s = .next (s.apply src (s.wSgcfg src g v)) := pfRow_open hm

section
variable (he : s.bit (F.XLK_SGCFG_EN g.val) = false) {u : State}
  (hu : u = ((s.setF (F.XLK_SGCFG_K g.val) (getBits v.toNat 24 4)).setF (F.XLK_SGCFG_SUL g.val) (getBits v.toNat 20 4)).setF (F.XLK_SGCFG_QID g.val) (getBits v.toNat 0 10))
include he hu

/-- With EN 0 the fields are stored; with EN written 1 the group must be one that may start. -/
theorem wSgcfg_disabled :
    s.wSgcfg src g v =
      if getBits v.toNat 31 1 = 1 ∧ (s.groupOk g (getBits v.toNat 24 4) (getBits v.toNat 0 10) = false ∨ (s.group g).on = true) then
        .refuse .badarg (some { errRec .badarg .xlk [] with src := .pf })
      else if getBits v.toNat 31 1 = 1 then .ok ((u.setF (F.XLK_SGCFG_EN g.val) 1).enableGroup g) else .ok u := by
  subst hu
  unfold State.wSgcfg
  dsimp only
  rw [if_neg (ne_true_of_eq_false he)]
  simp only [beq_iff_eq]

variable (hm : s.mayWrite src)
include hm

theorem exec_stripeGroupEnable_stores (hn : getBits v.toNat 31 1 = 0) : exec (.stripeGroupEnable src g v) s = .next u := by
  rw [exec_stripeGroupEnable hm, wSgcfg_disabled he hu, if_neg (by simp [hn]), if_neg (by simp [hn])]
  rfl

theorem exec_stripeGroupEnable_starts (hn : getBits v.toNat 31 1 = 1) (hok : s.groupOk g (getBits v.toNat 24 4) (getBits v.toNat 0 10) = true) (hoff : (s.group g).on = false) :
    exec (.stripeGroupEnable src g v) s = .next ((u.setF (F.XLK_SGCFG_EN g.val) 1).enableGroup g) := by
  rw [exec_stripeGroupEnable hm, wSgcfg_disabled he hu, if_neg (by simp [hok, hoff]), if_pos hn]
  rfl

theorem exec_stripeGroupEnable_refused (hn : getBits v.toNat 31 1 = 1)
    (hbad : s.groupOk g (getBits v.toNat 24 4) (getBits v.toNat 0 10) = false ∨ (s.group g).on = true) (hpf : src ≠ .pf) :
    exec (.stripeGroupEnable src g v) s = .next s := by
  rw [exec_stripeGroupEnable hm, wSgcfg_disabled he hu, if_pos ⟨hn, hbad⟩]
  cases src with
  | pf => exact absurd rfl hpf
  | vf | sess | master | fwd => rfl

end

/-- With EN 1 the PF's write is ignored but for EN. -/
theorem exec_stripeGroupEnable_running (ho : s.pfOpen .pf = true) (he : s.bit (F.XLK_SGCFG_EN g.val) = true) :
    exec (.stripeGroupEnable .pf g v) s = .next (if getBits v.toNat 31 1 = 1 then s else (s.disableGroup g).setF (F.XLK_SGCFG_EN g.val) 0) := by
  have hw : s.wSgcfg .pf g v = .ok (if getBits v.toNat 31 1 = 1 then s else (s.disableGroup g).setF (F.XLK_SGCFG_EN g.val) 0) := by
    unfold State.wSgcfg
    dsimp only
    rw [if_pos he, if_neg (by simp), apply_ite WRes.ok]
    simp only [beq_iff_eq]
  rw [exec_stripeGroupEnable (State.mayWrite_pf ho), hw]
  rfl

end

/-! ### Datagrams of members (R452) -/

section
variable {g : Fin 4} {i : Nat} {n : Word}

theorem exec_stripeRetransmit_sends {k : Nat} {m : SMember} {u : Unack} (hm : (s.group g).mems[i]? = some m) (hk : m.sess = some k)
    (hu : m.unack.find? (fun u => u.sent && u.seq % 2 ^ 32 == n.toNat) = some u) : exec (.stripeRetransmit g i n) s = .next (s.memSend g i 3 k n.toNat 0 u.payload) := by
  change execStripeRetransmit g i n s = _
  unfold execStripeRetransmit
  rw [hm]
  dsimp only
  rw [hk, hu]

theorem exec_stripeRetransmit_keeps (h : ∀ m, (s.group g).mems[i]? = some m → m.sess = none ∨ m.unack.find? (fun u => u.sent && u.seq % 2 ^ 32 == n.toNat) = none) :
    exec (.stripeRetransmit g i n) s = .next s := by
  change execStripeRetransmit g i n s = _
  unfold execStripeRetransmit
  cases hm : (s.group g).mems[i]? with
  | none => rfl
  | some m =>
    dsimp only
    obtain hk | hu := h m hm
    · rw [hk]
    · rw [hu] <;> cases m.sess <;> rfl

end

/-! ### The lender (R460) -/

section
variable {p : LendP}

theorem exec_lendAlloc_down (hu : s.linkUp p.port = false) : exec (.lendAlloc p) s = .next s := if_pos hu

theorem exec_lendGrant_down (hu : s.linkUp p.port = false) : exec (.lendGrant p) s = .next s := if_pos (.inl hu)

section
variable (hu : s.linkUp p.port = true)
include hu

theorem exec_lendAlloc_refuses (h : pagesFor p.offset.toNat = 0 ∨ s.lendRoom < pagesFor p.offset.toNat) : exec (.lendAlloc p) s = .next (s.sendLend p.port lGRANT noHandle 0 []) :=
  (if_neg (ne_false_of_eq_true hu)).trans (if_pos h)

theorem exec_lendAlloc_lends {ps : List Nat} {u : State} (hn : pagesFor p.offset.toNat ≠ 0) (hr : pagesFor p.offset.toNat ≤ s.lendRoom) (ht : s.takePages (pagesFor p.offset.toNat) = (ps, u)) :
    exec (.lendAlloc p) s =
      .next (({ u with xlk := { u.xlk with lent := u.xlk.lent ++ [(⟨p.port, s.xlk.nextHandle, p.offset.toNat, ps⟩ : Lent)], nextHandle := (s.xlk.nextHandle + 1) % noHandle } } : State).sendLend
        p.port lGRANT s.xlk.nextHandle (s.lendRoom * pageBytes) []) := by
  have hroom : ¬(pagesFor p.offset.toNat = 0 ∨ s.lendRoom < pagesFor p.offset.toNat) := by omega
  change execLendAlloc p s = _
  unfold execLendAlloc
  dsimp only
  rw [if_neg (ne_false_of_eq_true hu), if_neg hroom, ht]

theorem exec_lendGrant_keepsOffer (hh : p.handle.toNat ≠ noHandle) :
    exec (.lendGrant p) s = .next { s with xlk := { s.xlk with grants := s.xlk.grants ++ [(⟨p.port, p.handle.toNat, p.offset.toNat⟩ : Grant)] } } :=
  if_neg (by simp [hu, hh])

end

theorem exec_lendGrant_refusal (hh : p.handle.toNat = noHandle) : exec (.lendGrant p) s = .next s := if_pos (.inr hh)

section
variable (hl : s.lentTo p.port p.handle.toNat = none)
include hl

theorem exec_lendPut_unknown : exec (.lendPut p) s = .next s := by
  change execLendPut p s = _
  unfold execLendPut
  rw [hl]

theorem exec_lendGet_unknown : exec (.lendGet p) s = .next s := by
  change execLendGet p s = _
  unfold execLendGet
  rw [hl]

theorem exec_lendFree_unknown : exec (.lendFree p) s = .next s := by
  change execLendFree p s = _
  unfold execLendFree
  rw [hl]

end

section
variable {l : Lent} (hl : s.lentTo p.port p.handle.toNat = some l)
include hl

theorem exec_lendPut_stores (hin : p.offset.toNat + p.data.length ≤ l.len) : exec (.lendPut p) s = .next { s with tank := writeAt s.tank l.pages p.offset.toNat p.data } := by
  change execLendPut p s = _
  unfold execLendPut
  rw [hl]
  exact if_pos hin

theorem exec_lendPut_beyond (hout : l.len < p.offset.toNat + p.data.length) : exec (.lendPut p) s = .next s := by
  change execLendPut p s = _
  unfold execLendPut
  rw [hl]
  exact if_neg (Nat.not_le.mpr hout)

theorem exec_lendGet_sends {d : List Byte} (hd : d = readPages s.tank l.pages (min p.offset.toNat l.len)) :
    exec (.lendGet p) s = .next (s.sendParts p.port lDATA l.handle (d.length / lendMax + 1) 0 d) := by
  subst hd
  change execLendGet p s = _
  unfold execLendGet
  rw [hl]

theorem exec_lendFree_frees {u : State} (hu : u = s.freePagesOf l.pages) :
    exec (.lendFree p) s = .next { u with xlk := { u.xlk with lent := u.xlk.lent.filter (fun (x : Lent) => !(x.port == l.port && x.handle == l.handle)) } } := by
  subst hu
  change execLendFree p s = _
  unfold execLendFree
  rw [hl]

end

end

/-! ### Spilling (R461) -/

/-- The record that room was asked for, if it may still go. -/
def State.askedRec (s : State) : Option Rec :=
  match s.xlk.asked with
  | some i => s.qmg.recs.find? (fun (r : Rec) => r.uid == i && s.canSpill r)
  | none => none

/-- What was offered is given back. -/
def State.offersBack (s : State) : State := ({ s with xlk := { s.xlk with grants := [], asked := none } } : State).freeGrants s.xlk.grants

theorem exec_recordSpill_keeps (h : s.bit F.XLK_BORROW_EN = false ∨ 256 * s.getF F.XLK_BORROW_LOW ≤ s.freePages) : exec .recordSpill s = .next s := if_pos h

section
variable (he : s.bit F.XLK_BORROW_EN = true) (hf : s.freePages < 256 * s.getF F.XLK_BORROW_LOW)
include he hf

/-- Below BORROW.LOW a record goes to the best offer for it, else every neighbour is asked for the next. -/
theorem exec_recordSpill_below :
    exec .recordSpill s = match s.askedRec, bestGrant s.xlk.grants with
      | some r, some g => .next (s.spillTo r g)
      | _, _ => match s.offersBack.spillNext with
        | none => .next s.offersBack
        | some r => .next (({ s.offersBack with xlk := { s.offersBack.xlk with asked := some r.uid } } : State).askAll r.length [0, 1, 2, 3]) := by
  refine (if_neg (by simp [he, hf])).trans ?_
  unfold State.askedRec State.offersBack
  cases s.xlk.asked <;> rfl

theorem exec_recordSpill_spills {i : Nat} {r : Rec} {g : Grant} (hi : s.xlk.asked = some i) (hr : s.qmg.recs.find? (fun (r : Rec) => r.uid == i && s.canSpill r) = some r)
    (hg : bestGrant s.xlk.grants = some g) : exec .recordSpill s = .next (s.spillTo r g) := by
  have hasked : s.askedRec = some r := by
    unfold State.askedRec
    rw [hi]
    exact hr
  rw [exec_recordSpill_below he hf, hasked, hg]

section
variable (h : (∀ i, s.xlk.asked = some i → s.qmg.recs.find? (fun (r : Rec) => r.uid == i && s.canSpill r) = none) ∨ bestGrant s.xlk.grants = none) {u : State} (hu : u = s.offersBack)
include h hu

theorem exec_recordSpill_asks :
    exec .recordSpill s = match u.spillNext with
      | none => .next u
      | some r => .next (({ u with xlk := { u.xlk with asked := some r.uid } } : State).askAll r.length [0, 1, 2, 3]) := by
  subst hu
  rw [exec_recordSpill_below he hf]
  obtain h | h := h
  · have hasked : s.askedRec = none := by
      unfold State.askedRec
      cases hi : s.xlk.asked with
      | none => rfl
      | some i => exact h i hi
    rw [hasked]
  · rw [h] <;> cases s.askedRec <;> rfl

theorem exec_recordSpill_asksNone (hn : u.spillNext = none) : exec .recordSpill s = .next u := by rw [exec_recordSpill_asks he hf h hu, hn]

theorem exec_recordSpill_asksAll {r : Rec} (hn : u.spillNext = some r) :
    exec .recordSpill s = .next (({ u with xlk := { u.xlk with asked := some r.uid } } : State).askAll r.length [0, 1, 2, 3]) := by rw [exec_recordSpill_asks he hf h hu, hn]

end

end

/-! ### Recalling (R461) -/

theorem exec_recordRecall_underWay {c : Recall} (hc : s.xlk.called = some c) (ha : s.alive c.uid = true) : exec .recordRecall s = .next s := by
  change execRecordRecall s = _
  unfold execRecordRecall
  rw [hc]
  exact if_pos ha

section
variable (hc : s.xlk.called = none)
include hc

theorem exec_recordRecall_none (hn : s.recallNext = none) : exec .recordRecall s = .next s := by
  change execRecordRecall s = _
  unfold execRecordRecall
  rw [hc]
  dsimp only
  rw [if_neg Bool.false_ne_true, hn]

variable {r : Rec} (hn : s.recallNext = some r)
include hn

theorem exec_recordRecall_asks {p : PortNo} {h : Nat} {ps : List Nat} {u v : State} (hl : r.lent = some (p.val, h)) (hf : pagesFor r.length ≤ s.freePages)
    (ht : s.takePages (pagesFor r.length) = (ps, u)) (hv : v = u.setRec { r with pages := ps }) :
    exec .recordRecall s = .next (({ v with xlk := { v.xlk with called := some ⟨r.uid, []⟩ } } : State).sendLend p lGET h r.length []) := by
  subst hv
  change execRecordRecall s = _
  unfold execRecordRecall
  rw [hc]
  dsimp only
  rw [if_neg Bool.false_ne_true, hn]
  dsimp only
  rw [hl]
  dsimp only
  rw [dif_pos p.isLt, if_neg (Nat.not_lt.mpr hf), ht]

theorem exec_recordRecall_noRoom (hf : s.freePages < pagesFor r.length) : exec .recordRecall s = .next s := by
  change execRecordRecall s = _
  unfold execRecordRecall
  rw [hc]
  dsimp only
  rw [if_neg Bool.false_ne_true, hn]
  dsimp only
  cases hl : r.lent with
  | none => rfl
  | some q =>
    obtain ⟨p, h⟩ := q
    dsimp only
    by_cases hp : p < 4
    · rw [dif_pos hp, if_pos hf]
    · rw [dif_neg hp]

end

section
variable {p : LendP}

theorem exec_lendData_uncalled (hc : s.xlk.called = none) : exec (.lendData p) s = .next s := by
  change execLendData p s = _
  unfold execLendData
  rw [hc]

section
variable {c : Recall} {r : Rec} (hc : s.xlk.called = some c) (hr : s.rec? c.uid = some r)
include hc hr

/-- Bytes of the record being recalled, in order, are collected; when all have come it is in the Tank again and freed at the lender. -/
theorem exec_lendData_called :
    exec (.lendData p) s =
      if r.lent ≠ some (p.port.val, p.handle.toNat) ∨ p.offset.toNat ≠ c.got.length then .next s
      else if (c.got ++ p.data).length < r.length then .next { s with xlk := { s.xlk with called := some { c with got := c.got ++ p.data } } }
      else .next ((({ s with tank := writePages s.tank r.pages ((c.got ++ p.data).take r.length), xlk := { s.xlk with called := none } } : State).setRec { r with lent := none }).sendLend
        p.port lFREE p.handle.toNat 0 []) := by
  change execLendData p s = _
  unfold execLendData
  rw [hc]
  dsimp only
  rw [hr]

theorem exec_lendData_strays (h : r.lent ≠ some (p.port.val, p.handle.toNat) ∨ p.offset.toNat ≠ c.got.length) : exec (.lendData p) s = .next s :=
  (exec_lendData_called hc hr).trans (if_pos h)

section
variable (hl : r.lent = some (p.port.val, p.handle.toNat)) (ho : p.offset.toNat = c.got.length)
include hl ho

theorem exec_lendData_collects (hs : (c.got ++ p.data).length < r.length) :
    exec (.lendData p) s = .next { s with xlk := { s.xlk with called := some { c with got := c.got ++ p.data } } } := by
  rw [exec_lendData_called hc hr, if_neg (by simp [hl, ho]), if_pos hs]

theorem exec_lendData_completes (hs : r.length ≤ (c.got ++ p.data).length) :
    exec (.lendData p) s =
      .next ((({ s with tank := writePages s.tank r.pages ((c.got ++ p.data).take r.length), xlk := { s.xlk with called := none } } : State).setRec { r with lent := none }).sendLend
        p.port lFREE p.handle.toNat 0 []) := by
  rw [exec_lendData_called hc hr, if_neg (by simp [hl, ho]), if_neg (Nat.not_lt.mpr hs)]

end

end

end

end

end Sys2Proof.Machine

open Sys2Proof.Machine in
/-- Settles O52: one lemma for each outcome. -/
theorem stripesAndLoans : Obligations.StripesAndLoans := by
  refine ⟨fun _ _ _ _ _ hm he hu => ⟨exec_stripeGroupEnable_stores he hu hm, exec_stripeGroupEnable_starts he hu hm, exec_stripeGroupEnable_refused he hu hm⟩,
    fun _ _ _ => exec_stripeGroupEnable_running, fun _ _ => rfl, fun _ _ _ _ _ _ _ => exec_stripeRetransmit_sends, fun _ _ _ _ => exec_stripeRetransmit_keeps,
    fun _ _ hu => ⟨exec_lendAlloc_refuses hu, fun _ _ => exec_lendAlloc_lends hu, exec_lendGrant_keepsOffer hu, exec_lendGrant_refusal⟩,
    fun _ _ hu => ⟨exec_lendAlloc_down hu, exec_lendGrant_down hu⟩, fun _ _ hl => ⟨exec_lendPut_unknown hl, exec_lendGet_unknown hl, exec_lendFree_unknown hl⟩,
    fun _ _ _ hl => ⟨exec_lendPut_stores hl, exec_lendPut_beyond hl, fun _ => exec_lendGet_sends hl, _, rfl, exec_lendFree_frees hl rfl⟩, fun _ => exec_recordSpill_keeps,
    fun _ _ he hf => ⟨fun _ _ _ => exec_recordSpill_spills he hf, fun h hu => ⟨exec_recordSpill_asksNone he hf h hu, fun _ => exec_recordSpill_asksAll he hf h hu⟩⟩,
    fun _ ⟨_, hc, ha⟩ => exec_recordRecall_underWay hc ha,
    fun _ hc => ⟨exec_recordRecall_none hc, fun _ _ _ _ _ hn hl hf ht => ⟨_, rfl, exec_recordRecall_asks hc hn hl hf ht rfl⟩, fun _ => exec_recordRecall_noRoom hc⟩,
    fun _ _ => exec_lendData_uncalled,
    fun _ _ _ _ hc hr => ⟨exec_lendData_strays hc hr, exec_lendData_collects hc hr, exec_lendData_completes hc hr⟩⟩
end

section
/-! SUPPORT. What each control loop of the schedule does while it runs, and that it rests otherwise (R379 to R385, R389, R390). -/

namespace Sys2Proof.Machine

/-! ### The loops that are one PI law (R379, R382, R383) -/

theorem exec_coilLoop_runs {s : State} (on : s.loopOn 3 = true) :
    exec .coilLoop s = .next (s.runPi 3 0 1 2 ((s.loop 4).out - s.mdr.coil) 0) := by
  change execCoilLoop s = _
  unfold execCoilLoop
  rw [if_neg (by rw [on]; decide)]

theorem exec_fanLoop_runs {s : State} (on : s.loopOn 8 = true) (k : s.cle.k = 5) :
    exec .fanLoop s = .next (s.runPi 8 0 1 2 (s.fanSpeedRef - (s.axis 2).w) 0) := by
  change execFanLoop s = _
  unfold execFanLoop
  rw [if_neg (by simp [on, k])]

theorem exec_reelSpeedLoop_runs {s : State} (on : s.domainOn 6 = true) (k : s.cle.k % 10 = 1) {v : Rat} {u : State}
    (hv : v = towards s.rampStep s.mdr.vRef s.tapeTarget) (hu : u = { s with mdr := { s.mdr with vRef := v } }) :
    exec .reelSpeedLoop s =
      .next ((u.speedLoop 0 (roundQ v) (roundQ ((v - s.mdr.vRef) * 5000))).speedLoop 1 (roundQ v) (roundQ ((v - s.mdr.vRef) * 5000))) := by
  change execReelSpeedLoop s = _
  unfold execReelSpeedLoop
  rw [if_neg (by simp [on, k]), hu, hv]

theorem speedLoop_runs {s : State} {a : Fin 3} {n : Fin 9} (v dv : Int) (hn : n = if a.val = 0 then 5 else 6)
    (on : s.loopOn n.val = true) :
    s.speedLoop a v dv = (s.loopStart n).runPi n 0 1 4 (s.speedRef a v (s.axis (if a.val = 0 then 1 else 0)).w - (s.axis a).w)
      (term ((s.loopStart n).coef n.val 2) dv + term ((s.loopStart n).coef n.val 3) s.tset) := by
  unfold State.speedLoop
  dsimp only
  rw [← hn, if_neg (by rw [on]; decide)]

/-! ### LAT, the current loops and the tension loop (R379 to R385) -/

theorem exec_latLoop_runs {s : State} (on : s.loopOn 4 = true) (k : s.cle.k % 2 = 0) {t : State} (ht : t = s.loopStart 4) :
    exec .latLoop s =
      if t.manual 4 = true then
        .next (((t.setLoop 4 { t.loop 4 with out := clamp (t.coef 4 20).c (t.manualOut 4) }).flag 4 2
          (clamp (t.coef 4 20).c (t.manualOut 4) != t.manualOut 4)).setErr 4 t.sampleLpe)
      else if t.srv.fresh = false then .next t
      else .next ((({ t with srv := { t.srv with fresh := false } } : State).setErr 4 t.sampleLpe).latAuto t.sampleLpe) := by
  change execLatLoop s = _
  unfold execLatLoop
  dsimp only
  rw [if_neg (by simp [on, k]), ← ht]

/-- Where the current loop of an axis stands before its law: the start of the execution, the error of q stored, saturation told (R379). -/
def State.currentErr (s : State) (a : Fin 3) (n : Fin 9) : State :=
  ((s.loopStart n).setErr a.val (sat32 ((s.currentRef a).2 - (s.axis a).iq))).flag a.val 0
    (over32 ((s.currentRef a).1 - (s.axis a).id) || over32 ((s.currentRef a).2 - (s.axis a).iq))

theorem exec_currentLoop_manual {s t : State} {a : Fin 3} {n : Fin 9} (hn : n.val = a.val) (on : s.loopOn a.val = true)
    (ht : t = s.currentErr a n) (man : t.manual a.val = true) :
    exec (.currentLoop a) s =
      (let u := clamp ((s.loopStart n).coef a.val 5).c (t.manualOut a.val)
       .next ((t.setLoop n { t.loop n with out := u, outD := 0 }).flag a.val 2 (u != t.manualOut a.val))) := by
  obtain rfl : n = ⟨a.val, a.isLt.trans (by decide)⟩ := Fin.ext hn
  change execCurrentLoop a s = _
  unfold execCurrentLoop
  unfold State.currentErr at ht
  dsimp only
  rw [if_neg (by rw [on]; decide), ← ht, if_pos man]

theorem exec_currentLoop_auto {s t : State} {a : Fin 3} {n : Fin 9} (hn : n.val = a.val) (on : s.loopOn a.val = true)
    (ht : t = s.currentErr a n) (auto : t.manual a.val = false) {idM iqM w rd rq : Int}
    (hr : (rd, rq) = s.currentRef a) (hd : idM = (s.axis a).id) (hq : iqM = (s.axis a).iq) (hw : w = s.omega a) :
    exec (.currentLoop a) s =
      (let l := t.loop n
       let lim := ((s.loopStart n).coef a.val 5).c
       let d := piStep (t.coef a.val 0) (t.coef a.val 1) 2147483647 (sat32 (rd - idM)) (term (t.coef a.val 4) (-(w * iqM))) l.iD (if l.preset then some l.outD else none)
       let q := piStep (t.coef a.val 2) (t.coef a.val 3) 2147483647 (sat32 (rq - iqM)) (term (t.coef a.val 4) (w * idM)) l.i (if l.preset then some l.out else none)
       let big := decide (lim * lim < d.u * d.u + q.u * q.u)
       let hold := t.bit (F.MDR_ASTAT_MODLIM a.val) && !l.preset
       let keepD := hold || (big && decide ((d.u - (d.i - l.iD)) ^ 2 < d.u ^ 2)) && !l.preset
       let keepQ := hold || (big && decide ((q.u - (q.i - l.i)) ^ 2 < q.u ^ 2)) && !l.preset
       let x := t.setLoop n { l with
         out := if big then Config.scaleQ d.u q.u lim else q.u, outD := if big then Config.scaleD d.u q.u lim else d.u
         i := if keepQ then l.i else q.i, iD := if keepD then l.iD else d.i, preset := false }
       .next ((((x.flag a.val 0 (d.acc || q.acc)).flag a.val 1 (d.int || q.int)).flag a.val 2 big).detect n (sat32 (rq - iqM)))) := by
  obtain rfl : n = ⟨a.val, a.isLt.trans (by decide)⟩ := Fin.ext hn
  obtain ⟨rfl, rfl⟩ := Prod.mk.inj hr
  change execCurrentLoop a s = _
  unfold execCurrentLoop
  unfold State.currentErr at ht
  dsimp only
  rw [if_neg (by rw [on]; decide), ← ht, if_neg (by rw [auto]; decide), hd, hq, hw] <;> rfl

theorem exec_tensionLoop_runs {s t u : State} {rS rT tens : Int} (on : s.loopOn 7 = true) (k : s.cle.k % 50 = 3) (ht : t = s.loopStart 7)
    (hS : rS = t.newRadius 0 t.cle.sup (t.axis 0).w t.tapeSpeed) (hT : rT = t.newRadius 1 t.cle.tku (t.axis 1).w t.tapeSpeed)
    (htens : tens = t.tfilt t.cle.tens (sat32 (roundQ ((quot (t.torque 14 16 (t.axis 1).iq (t.axis 1).w t.cle.tku) rT - quot (t.torque 13 15 (t.axis 0).iq (t.axis 0).w t.cle.sup) rS : Int) / (2 : Rat)))))
    (hu : u = { t with cle := { t.cle with sup := { t.cle.sup with radius := rS, w := (t.axis 0).w }, tku := { t.cle.tku with radius := rT, w := (t.axis 1).w }, tens := tens } }) :
    exec .tensionLoop s =
      (let x := ((u.setF F.CLE_RADIUS_RS (min 65535 rS.toNat)).setF F.CLE_RADIUS_RT (min 65535 rT.toNat)).setF F.CLE_TENS_MN
          (toField 16 (max (-32768) (min 32767 (roundQ ((tens * 1000 : Int) / (65536 : Rat))))))
       let c := x.chain 7 0 (x.loop 7).secs (sat32 (x.tset - tens))
       let y := if x.manual 7 = true then x else (x.setLoop 7 { x.loop 7 with secs := c.1 }).flag 7 1 c.2.2
       .next ((y.flag 7 0 c.2.2).runPi 7 10 11 12 (if y.manual 7 = true then sat32 (y.tset - tens) else c.2.1) 0)) := by
  change execTensionLoop s = _
  unfold execTensionLoop
  dsimp only
  rw [if_neg (by simp [on, k]), ← ht, ← hS, ← hT, ← htens, ← hu]

/-! ### A loop that does not run changes nothing (R374, R390) -/

theorem exec_currentLoop_rests {s : State} {a : Fin 3} (off : s.loopOn a.val = false) : exec (.currentLoop a) s = .next s := if_pos off
theorem exec_coilLoop_rests {s : State} (off : s.loopOn 3 = false) : exec .coilLoop s = .next s := if_pos off
theorem exec_latLoop_rests {s : State} (off : s.loopOn 4 = false ∨ s.cle.k % 2 ≠ 0) : exec .latLoop s = .next s := if_pos off
theorem exec_reelSpeedLoop_rests {s : State} (off : s.domainOn 6 = false ∨ s.cle.k % 10 ≠ 1) : exec .reelSpeedLoop s = .next s := if_pos off
theorem exec_tensionLoop_rests {s : State} (off : s.loopOn 7 = false ∨ s.cle.k % 50 ≠ 3) : exec .tensionLoop s = .next s := if_pos off
theorem exec_fanLoop_rests {s : State} (off : s.loopOn 8 = false ∨ s.cle.k ≠ 5) : exec .fanLoop s = .next s := if_pos off

end Sys2Proof.Machine

open Sys2Proof.Machine in
/-- Settles O44: each loop by its own equation, LAT and the current loops by their mode, and the loops that do not run by their guards. -/
theorem loopsExecute : Obligations.LoopsExecute := by
  unfold Obligations.LoopsExecute
  refine ⟨fun s on => exec_coilLoop_runs on, fun s on k => exec_fanLoop_runs on k,
    fun s u v on k hv hu => exec_reelSpeedLoop_runs on k hv hu,
    fun s t a n v dv hn on ht => ht ▸ speedLoop_runs v dv hn on, ?lat, ?current, ?tension, ?rests⟩
  case lat =>
    intro s t on k ht
    refine ⟨fun man => ?_, fun auto old => ?_, fun auto fresh => ?_⟩
    · rw [exec_latLoop_runs on k ht, if_pos man]
    · rw [exec_latLoop_runs on k ht, if_neg (by simp [auto]), if_pos old]
    · rw [exec_latLoop_runs on k ht, if_neg (by simp [auto]), if_neg (by simp [fresh])]
  case current =>
    intro s t a n idM iqM w rd rq hn on hr hd hq hw ht
    have ht' : t = s.currentErr a n := by rw [ht, hd, hq, State.currentErr, ← hr]
    exact ⟨exec_currentLoop_manual hn on ht', fun auto => exec_currentLoop_auto hn on ht' auto hr hd hq hw⟩
  case tension =>
    intro s t u rS rT on k ht hS hT hu
    obtain ⟨tens, rfl, htens⟩ := hu
    exact exec_tensionLoop_runs on k ht hS hT htens rfl
  case rests =>
    exact fun s a => ⟨exec_currentLoop_rests, exec_coilLoop_rests, exec_latLoop_rests, exec_reelSpeedLoop_rests,
      exec_tensionLoop_rests, exec_fanLoop_rests⟩
end

section
/-! SUPPORT. Writes that cross to CKM (00_scope R33; log entry 101), writes of loop control, coefficients, the repetitive controller and the radii (R386 to R393),
and accelerometer reads (R387, R388). -/

namespace Sys2Proof.Machine

/-! ### The rows whose write crosses to CKM by XC-12 (R33; log entry 101) -/

theorem toCkm_runs {s : State} (run : s.xc.stopped.contains .ckm = false) (src : Src) (off : Nat) (v : Word) (w : WRes) :
    s.toCkm src off v w = w := by
  unfold State.toCkm
  rw [if_neg (by rw [run]; decide)]

theorem toCkm_stopped {s : State} (stop : s.xc.stopped.contains .ckm = true) (src : Src) (off : Nat) (v : Word) (w : WRes) :
    s.toCkm src off v w = .ok { s with xc := { s.xc with cmds := s.xc.cmds ++ [(src, off, v)] } } := by
  unfold State.toCkm
  rw [if_pos stop]

theorem apply_ok (s t : State) (src : Src) : s.apply src (.ok t) = t := rfl

theorem apply_refuse_none (s : State) (src : Src) (e : Er) : s.apply src (.refuse e none) = s := by
  unfold State.apply
  cases src <;> rfl

section
variable {s : State} {src : Src} (h : s.mayWrite src) {n : Fin 9} {v : Word}
include h

theorem exec_loopBankRequest_open : exec (.loopBankRequest src n v) s = .next (s.apply src (s.toCkm src (R.CLE_LCTL n.val) v (s.wLctl src n v))) := pfRow_open h
theorem exec_loopModeWrite_open : exec (.loopModeWrite src n v) s = .next (s.apply src (s.toCkm src (R.CLE_LCTL n.val) v (s.wLctl src n v))) := pfRow_open h
theorem exec_coefficientWrite_open (b : Bool) (slot : Fin 32) (sh : Bool) :
    exec (.coefficientWrite src b n slot sh v) s = .next (s.apply src (s.toCkm src (coefOff b n slot sh) v (s.wCoef b n slot sh v))) := pfRow_open h
theorem exec_rcClear_open : exec (.rcClear src v) s = .next (s.apply src (s.toCkm src R.CLE_RCCTL v (s.wRcctl v))) := pfRow_open h
theorem exec_radiusWrite_open : exec (.radiusWrite src v) s = .next (s.apply src (s.toCkm src R.CLE_RADIUS v (s.wRadius v))) := pfRow_open h

end

/-! ### Loop control: MODE, then BANK (R389, R392, R393) -/

/-- An order on an inner loop is told to the holder of the motion lock (R74, R393). -/
def State.lctlTold (s : State) (src : Src) (n : Fin 9) : State := if n.val ≤ 6 then s.overrideBy src ("LCTL" ++ toString n.val) else s

/-- MODE is taken; from manual to automatic the loop is preset (R390, R393). -/
def State.modeTaken (s : State) (n : Fin 9) (m : Nat) : State :=
  let t := s.setF (F.CLE_LCTL_MODE n.val) m
  if (s.manual n.val && m == 0) = true then t.presetLoop n else t

/-- BANK is taken: A or B ends a fallback, and PENDING says that the bank is not the active one (R392, R395). -/
def State.bankTaken (s : State) (n : Fin 9) (b : Nat) : State :=
  let t := s.setF (F.CLE_LCTL_BANK n.val) b
  let t := if b < 2 then t.setF (F.CLE_LSTAT_FALLBACK n.val) 0 else t
  t.setF (F.CLE_LSTAT_PENDING n.val) (if b = t.getF (F.CLE_LSTAT_ACTIVE n.val) then 0 else 1)

theorem wLctl_refused {s : State} {src : Src} {n : Fin 9} (v : Word) (inner : n.val ≤ 6) (lacks : s.lacksLock src = true) :
    s.wLctl src n v = .refuse .nolock none := if_pos ⟨inner, lacks⟩

theorem wLctl_taken {s : State} {src : Src} {n : Fin 9} (v : Word) (may : 6 < n.val ∨ s.lacksLock src = false) :
    s.wLctl src n v =
      .ok (if getBits v.toNat 0 2 = 3 then (s.lctlTold src n).modeTaken n (getBits v.toNat 31 1)
        else ((s.lctlTold src n).modeTaken n (getBits v.toNat 31 1)).bankTaken n (getBits v.toNat 0 2)) := by
  have hno : ¬(n.val ≤ 6 ∧ s.lacksLock src = true) := by
    rintro ⟨inner, lacks⟩
    rcases may with outer | has
    · omega
    · simp [lacks] at has
  unfold State.wLctl
  dsimp only
  rw [if_neg hno]
  exact (apply_ite WRes.ok _ _ _).symm

theorem overrideBy_tells (s : State) (src : Src) (res : String) : Tells s (s.overrideBy src res) := by
  have hov : ∀ w, Tells s (s.override w res) := by
    intro w
    unfold State.override
    split
    · exact event_tells ..
    · exact Tells.refl s
  unfold State.overrideBy
  cases src with
  | pf => exact hov "PF"
  | master => exact hov "MASTER"
  | sess | vf | fwd => exact Tells.refl s

theorem lctlTold_tells (s : State) (src : Src) (n : Fin 9) : Tells s (s.lctlTold src n) := by
  unfold State.lctlTold
  split
  · exact overrideBy_tells ..
  · exact Tells.refl s

@[simp] theorem lctlTold_getF (s : State) (src : Src) (n : Fin 9) (f : Fld) : (s.lctlTold src n).getF f = s.getF f := by
  obtain ⟨o, c, ht, -⟩ := lctlTold_tells s src n
  rw [ht]
  exact getF_of_regs rfl f

@[simp] theorem lctlTold_manual (s : State) (src : Src) (n : Fin 9) (k : Nat) : (s.lctlTold src n).manual k = s.manual k := by
  simp only [State.manual, State.bit, lctlTold_getF]

@[simp] theorem setLoop_getF (s : State) (n : Fin 9) (l : LoopSt) (f : Fld) : (s.setLoop n l).getF f = s.getF f := getF_of_regs rfl f
@[simp] theorem presetLoop_getF (s : State) (n : Fin 9) (f : Fld) : (s.presetLoop n).getF f = s.getF f := setLoop_getF ..
theorem presetLoop_preset (s : State) (n : Fin 9) : ((s.presetLoop n).loop n).preset = true := by simp [State.presetLoop, State.setLoop, State.loop]

/-- Taking MODE writes that field and no other. -/
theorem modeTaken_getF (s : State) (n : Fin 9) (m : Nat) (f : Fld) : (s.modeTaken n m).getF f = (s.setF (F.CLE_LCTL_MODE n.val) m).getF f := by
  unfold State.modeTaken
  dsimp only
  split
  · exact presetLoop_getF ..
  · rfl

theorem modeTaken_active (s : State) (n : Fin 9) (m : Nat) : (s.modeTaken n m).getF (F.CLE_LSTAT_ACTIVE n.val) = s.getF (F.CLE_LSTAT_ACTIVE n.val) := by
  rw [modeTaken_getF]
  exact getF_setF_other _ _ (le_refl 32) (.inl (by simp [F.CLE_LCTL_MODE, F.CLE_LSTAT_ACTIVE]))

theorem modeTaken_manual (s : State) (n : Fin 9) {m : Nat} (hm : m < 2) : (s.modeTaken n m).manual n.val = (m == 1) := by
  unfold State.manual State.bit
  rw [modeTaken_getF, getF_setF_same _ _ _ (le_refl 32)]
  rw [Nat.mod_eq_of_lt (by simpa [F.CLE_LCTL_MODE] using hm)]

theorem modeTaken_preset {s : State} {n : Fin 9} (man : s.manual n.val = true) : ((s.modeTaken n 0).loop n).preset = true := by
  unfold State.modeTaken
  dsimp only
  rw [if_pos (by simp [man])]
  exact presetLoop_preset ..

/-- Taking BANK leaves every field as it is that is neither BANK nor FALLBACK nor PENDING of its loop. -/
theorem bankTaken_getF_other {s : State} {n : Fin 9} {f : Fld} (b : Nat)
    (hb : f.off ≠ (F.CLE_LCTL_BANK n.val).off ∨ 2 ≤ f.lo) (hl : f.off ≠ (F.CLE_LSTAT_PENDING n.val).off ∨ 30 ≤ f.lo) :
    (s.bankTaken n b).getF f = s.getF f := by
  have hbank : (s.setF (F.CLE_LCTL_BANK n.val) b).getF f = s.getF f :=
    getF_setF_other _ _ (by simp [F.CLE_LCTL_BANK]) (hb.imp id .inr)
  have hfall : ∀ t : State, (t.setF (F.CLE_LSTAT_FALLBACK n.val) 0).getF f = t.getF f := fun t =>
    getF_setF_other _ _ (by simp [F.CLE_LSTAT_FALLBACK]) (hl.imp id fun h => .inr (le_trans (by simp [F.CLE_LSTAT_FALLBACK]) h))
  unfold State.bankTaken
  dsimp only
  rw [getF_setF_other _ _ (by simp [F.CLE_LSTAT_PENDING]) (hl.imp id .inr)]
  split
  · rw [hfall, hbank]
  · exact hbank

theorem bankTaken_manual (s : State) (n : Fin 9) (b : Nat) : (s.bankTaken n b).manual n.val = s.manual n.val := by
  unfold State.manual State.bit
  rw [bankTaken_getF_other b (.inr (by simp [F.CLE_LCTL_MODE])) (.inr (by simp [F.CLE_LCTL_MODE]))]

@[simp] theorem bankTaken_loop (s : State) (n k : Fin 9) (b : Nat) : (s.bankTaken n b).loop k = s.loop k := by
  have hcle : (s.bankTaken n b).cle = s.cle := by
    unfold State.bankTaken
    dsimp only
    rw [setF_cle, apply_ite State.cle, setF_cle, setF_cle, ite_self]
  unfold State.loop
  rw [hcle]

theorem bankTaken_bank (s : State) (n : Fin 9) {b : Nat} (hb : b < 4) : (s.bankTaken n b).getF (F.CLE_LCTL_BANK n.val) = b := by
  have hbank : (s.setF (F.CLE_LCTL_BANK n.val) b).getF (F.CLE_LCTL_BANK n.val) = b := by
    rw [getF_setF_same _ _ _ (by simp [F.CLE_LCTL_BANK])]
    exact Nat.mod_eq_of_lt hb
  unfold State.bankTaken
  dsimp only
  rw [getF_setF_other _ _ (by simp [F.CLE_LSTAT_PENDING]) (.inl (by simp [F.CLE_LSTAT_PENDING, F.CLE_LCTL_BANK]))]
  split
  · rw [getF_setF_other _ _ (by simp [F.CLE_LSTAT_FALLBACK]) (.inl (by simp [F.CLE_LSTAT_FALLBACK, F.CLE_LCTL_BANK])), hbank]
  · exact hbank

theorem bankTaken_pending (s : State) (n : Fin 9) (b : Nat) :
    (s.bankTaken n b).bit (F.CLE_LSTAT_PENDING n.val) = false ↔ b = s.getF (F.CLE_LSTAT_ACTIVE n.val) := by
  have hbank : (s.setF (F.CLE_LCTL_BANK n.val) b).getF (F.CLE_LSTAT_ACTIVE n.val) = s.getF (F.CLE_LSTAT_ACTIVE n.val) :=
    getF_setF_other _ _ (by simp [F.CLE_LCTL_BANK]) (.inl (by simp [F.CLE_LCTL_BANK, F.CLE_LSTAT_ACTIVE]))
  have hfall : ∀ t : State, (t.setF (F.CLE_LSTAT_FALLBACK n.val) 0).getF (F.CLE_LSTAT_ACTIVE n.val) = t.getF (F.CLE_LSTAT_ACTIVE n.val) := fun t =>
    getF_setF_other _ _ (by simp [F.CLE_LSTAT_FALLBACK]) (.inr (.inr (by simp [F.CLE_LSTAT_FALLBACK, F.CLE_LSTAT_ACTIVE])))
  have hactive : (if b < 2 then (s.setF (F.CLE_LCTL_BANK n.val) b).setF (F.CLE_LSTAT_FALLBACK n.val) 0 else s.setF (F.CLE_LCTL_BANK n.val) b).getF
      (F.CLE_LSTAT_ACTIVE n.val) = s.getF (F.CLE_LSTAT_ACTIVE n.val) := by
    split
    · rw [hfall, hbank]
    · exact hbank
  unfold State.bankTaken State.bit
  dsimp only
  rw [hactive, getF_setF_same _ _ _ (by simp [F.CLE_LSTAT_PENDING])]
  by_cases hb : b = s.getF (F.CLE_LSTAT_ACTIVE n.val) <;> simp [hb, F.CLE_LSTAT_PENDING]

/-- What a write of CLE.LCTLn that is taken does to MODE, BANK, PENDING and the loop's state (R389, R390, R392). -/
theorem exec_loopBankRequest_taken {s : State} {src : Src} {n : Fin 9} {v : Word} (h : s.mayWrite src) (run : s.xc.stopped.contains .ckm = false)
    (may : 6 < n.val ∨ s.lacksLock src = false) :
    ∃ t, exec (.loopBankRequest src n v) s = .next t ∧ t.manual n.val = (getBits v.toNat 31 1 == 1) ∧
      (getBits v.toNat 0 2 ≠ 3 → t.getF (F.CLE_LCTL_BANK n.val) = getBits v.toNat 0 2 ∧
        (t.bit (F.CLE_LSTAT_PENDING n.val) = false ↔ getBits v.toNat 0 2 = s.getF (F.CLE_LSTAT_ACTIVE n.val))) ∧
      (s.manual n.val = true → getBits v.toNat 31 1 = 0 → (t.loop n).preset = true) := by
  have hman : ((s.lctlTold src n).modeTaken n (getBits v.toNat 31 1)).manual n.val = (getBits v.toNat 31 1 == 1) :=
    modeTaken_manual _ _ (getBits_lt ..)
  have hpreset : s.manual n.val = true → getBits v.toNat 31 1 = 0 →
      (((s.lctlTold src n).modeTaken n (getBits v.toNat 31 1)).loop n).preset = true := by
    intro man auto
    rw [auto]
    exact modeTaken_preset (by rw [lctlTold_manual, man])
  refine ⟨_, by rw [exec_loopBankRequest_open h, toCkm_runs run, wLctl_taken v may, apply_ok], ?_⟩
  split
  next hbank => exact ⟨hman, fun hne => absurd hbank hne, hpreset⟩
  next hbank =>
    refine ⟨by rw [bankTaken_manual, hman], fun _ => ⟨bankTaken_bank _ _ (getBits_lt ..), ?_⟩, by simpa only [bankTaken_loop] using hpreset⟩
    rw [bankTaken_pending, modeTaken_active, lctlTold_getF]

/-! ### Coefficients and the radii (R392) -/

theorem wCoef_locked {s : State} {b : Bool} {n : Fin 9} (slot : Fin 32) (sh : Bool) (v : Word)
    (locked : s.getF (F.CLE_LSTAT_ACTIVE n.val) = (if b then 1 else 0) ∨ s.bit (F.CLE_LSTAT_PENDING n.val) = true) :
    s.wCoef b n slot sh v = .refuse .locked none := if_pos locked

/-- The field that holds a coefficient word of bank A or B (CLE.COEFA, CLE.COEFB). -/
def coefFld (b : Bool) (n : Fin 9) (slot : Fin 32) (sh : Bool) : Fld :=
  match b, sh with
  | false, false => F.CLE_COEFA_V_VALUE (32 * n.val + slot.val)
  | false, true => F.CLE_COEFA_S_SHIFT (32 * n.val + slot.val)
  | true, false => F.CLE_COEFB_V_VALUE (32 * n.val + slot.val)
  | true, true => F.CLE_COEFB_S_SHIFT (32 * n.val + slot.val)

theorem wCoef_stored {s : State} {b : Bool} {n : Fin 9} (slot : Fin 32) (sh : Bool) (v : Word)
    (inactive : s.getF (F.CLE_LSTAT_ACTIVE n.val) ≠ (if b then 1 else 0)) (settled : s.bit (F.CLE_LSTAT_PENDING n.val) = false) :
    s.wCoef b n slot sh v = .ok (s.setF (coefFld b n slot sh) v.toNat) := by
  refine (if_neg (by simp [inactive, settled])).trans ?_
  cases b <;> cases sh <;> rfl

theorem wRadius_moving {s : State} (v : Word) (moves : s.mot ≠ .stopped) : s.wRadius v = .refuse .motstate none := if_pos moves

theorem wRadius_stopped {s : State} (v : Word) (rest : s.mot = .stopped) :
    ∃ t, s.wRadius v = .ok t ∧ t.cle.sup.radius = (getBits v.toNat 16 16 : Nat) ∧ t.cle.tku.radius = (getBits v.toNat 0 16 : Nat) :=
  ⟨_, if_neg (not_not_intro rest), rfl, rfl⟩

/-! ### The accelerometer (R387, R388) -/

theorem exec_accelTransaction_off {s : State} (bs : List Byte) (off : s.domainOn 6 = false ∨ s.bit F.CLE_ACFG_EN = false ∨ s.cle.k % 2 ≠ 0) :
    exec (.accelTransaction bs) s = .next s := if_pos off

section
variable {s r : State} {bs : List Byte} (on : s.domainOn 6 = true) (en : s.bit F.CLE_ACFG_EN = true) (even : s.cle.k % 2 = 0)
  (hr : r = s.emit (.accel (s.getF F.CLE_ACFG_CMD) (s.getF F.CLE_ACFG_DIV + 1)))
include on en even hr

theorem exec_accelTransaction_bad (bad : accelBad (bs.take 6) = true) {u : State}
    (hu : u = ({ r with cle := { r.cle with badRun := r.cle.badRun + 1, good := 0 } } : State).count F.CLE_ACCST_BAD 1) :
    exec (.accelTransaction bs) s =
      if 16 ≤ s.cle.badRun + 1 ∧ u.bit F.CLE_ACCST_FAIL = false then
        .next ((({ u with cle := { u.cle with ff := 0, f1 := 0, g1 := 0 } } : State).setF F.CLE_ACCST_FAIL 1).log (errRec .accelfail .cle []))
      else .next u := by
  have hrun : s.cle.badRun = r.cle.badRun := by rw [hr]; rfl
  change execAccelTransaction bs s = _
  unfold execAccelTransaction
  dsimp only
  rw [if_neg (by simp [on, en, even]), ← hr, if_pos bad, ← hu, hrun]

theorem exec_accelTransaction_good (good : accelBad (bs.take 6) = false) {u : State}
    (hu : u = (((({ r with cle := { r.cle with badRun := 0, good := r.cle.good + 1 } } : State).setF F.CLE_ACCXY_X (toField 16 (r.accelAxis (bs.take 6) 0))).setF
      F.CLE_ACCXY_Y (toField 16 (r.accelAxis (bs.take 6) 1))).setF F.CLE_ACCZ_Z (toField 16 (r.accelAxis (bs.take 6) 2)))) :
    exec (.accelTransaction bs) s =
      if u.bit F.CLE_ACCST_FAIL = true then
        (if 16 ≤ s.cle.good + 1 then .next (({ u with cle := { u.cle with ff := 0, f1 := 0, g1 := 0 } } : State).setF F.CLE_ACCST_FAIL 0) else .next u)
      else .next (u.feed (r.accelAxis (bs.take 6) 0) (r.accelAxis (bs.take 6) 1) (r.accelAxis (bs.take 6) 2)) := by
  have hgood : s.cle.good = r.cle.good := by rw [hr]; rfl
  change execAccelTransaction bs s = _
  unfold execAccelTransaction
  dsimp only
  rw [if_neg (by simp [on, en, even]), ← hr, if_neg (by rw [good]; decide), ← hu, hgood]

end

end Sys2Proof.Machine

open Sys2Proof.Machine in
/-- Settles O45: with CKM running by the write of each register, with CKM stopped by `toCkm_stopped`, and the accelerometer's two reads. -/
theorem loopWritesAct : Obligations.LoopWritesAct := by
  unfold Obligations.LoopWritesAct
  refine ⟨?control, ?coefficients, ?clearAndRadius, ?stopped, fun s bs => exec_accelTransaction_off bs, ?bad, ?good⟩
  case control =>
    intro s src n v h run
    refine ⟨by rw [exec_loopBankRequest_open h, exec_loopModeWrite_open h], fun inner lacks => ?_, exec_loopBankRequest_taken h run⟩
    rw [exec_loopBankRequest_open h, toCkm_runs run, wLctl_refused v inner lacks, apply_refuse_none]
  case coefficients =>
    intro s src b n slot sh v h run
    refine ⟨fun locked => ?_, fun inactive settled => ?_⟩
    · rw [exec_coefficientWrite_open h, toCkm_runs run, wCoef_locked slot sh v locked, apply_refuse_none]
    · rw [exec_coefficientWrite_open h, toCkm_runs run, wCoef_stored slot sh v inactive settled]
      cases b <;> cases sh <;> rfl
  case clearAndRadius =>
    intro s src v h run
    refine ⟨by rw [exec_rcClear_open h, toCkm_runs run]; rfl, fun moves => ?_, fun rest => ?_⟩
    · rw [exec_radiusWrite_open h, toCkm_runs run, wRadius_moving v moves, apply_refuse_none]
    · obtain ⟨t, hw, hS, hT⟩ := wRadius_stopped v rest
      exact ⟨t, by rw [exec_radiusWrite_open h, toCkm_runs run, hw, apply_ok], hS, hT⟩
  case stopped =>
    intro s src b n slot sh v later h stop hlater
    rw [exec_loopBankRequest_open h, exec_loopModeWrite_open h, exec_coefficientWrite_open h, exec_rcClear_open h, exec_radiusWrite_open h, hlater]
    simp only [toCkm_stopped stop, apply_ok, and_self]
  case bad =>
    intro s r u bs on en even hr bad hu
    rw [exec_accelTransaction_bad on en even hr bad hu]
    refine ⟨fun few => if_neg (by omega), fun many fresh => if_pos ⟨many, fresh⟩, fun failed => if_neg (by simp [failed])⟩
  case good =>
    intro s r u bs on en even hr good hu
    rw [exec_accelTransaction_good on en even hr good hu]
    refine ⟨fun fine => if_neg (by simp [fine]), fun failed few => ?_, fun failed many => ?_⟩
    · rw [if_pos failed, if_neg (by omega)]
    · rw [if_pos failed, if_pos many]
end
